-- ==== Sys2Proof/Word.lean ====
section
/-! DEFINITION. The word types, the sparse table that holds every array of the machine in one canonical
form, and the plainest operations on words: the fields of a 64-bit register and the bytes of a value. -/

namespace Sys2Proof

/-- A register or a memory word. -/
abbrev Word := BitVec 64

/-- One byte. -/
abbrev Byte := BitVec 8

/-- One 128-byte line, byte 0 in bits 7..0. -/
abbrev Line := BitVec 1024

/-- A sparse table: keys strictly rising, and no entry equal to what an unlisted key reads as. -/
abbrev Tab (α : Type) := List (Nat × α)

/-- What key `k` holds; `d` is what an unlisted key reads as. -/
def Tab.get {α : Type} (d : α) : Tab α → Nat → α
  | [], _ => d
  | (k', v) :: t, k => if k = k' then v else Tab.get d t k

/-- The table without key `k`. -/
def Tab.erase {α : Type} : Tab α → Nat → Tab α
  | [], _ => []
  | (k', v) :: t, k => if k = k' then Tab.erase t k else (k', v) :: Tab.erase t k

/-- The table with key `k` listed as `v`, in its place. -/
def Tab.insert {α : Type} : Tab α → Nat → α → Tab α
  | [], k, v => [(k, v)]
  | (k', w) :: t, k, v =>
    if k < k' then (k, v) :: (k', w) :: t
    else if k = k' then (k, v) :: t
    else (k', w) :: Tab.insert t k v

/-- Write `v` at key `k`: writing what an unlisted key reads as removes the entry. -/
def Tab.set {α : Type} [DecidableEq α] (d : α) (t : Tab α) (k : Nat) (v : α) : Tab α :=
  if v = d then Tab.erase t k else Tab.insert t k v

/-- The keys rise strictly, each above `lo` (none: no bound). -/
def Tab.sortedFrom {α : Type} : Option Nat → Tab α → Bool
  | _, [] => true
  | none, (k, _) :: t => Tab.sortedFrom (some k) t
  | some lo, (k, _) :: t => decide (lo < k) && Tab.sortedFrom (some k) t

/-- The canonical form of a table. -/
def Tab.wf {α : Type} [DecidableEq α] (d : α) (t : Tab α) : Bool :=
  Tab.sortedFrom none t && t.all (fun e => decide (e.2 ≠ d))

/-- Bits `lo .. lo + w - 1` of a word, as a number. -/
def fieldOf (x : Word) (lo w : Nat) : Nat := x.toNat / 2 ^ lo % 2 ^ w

/-- A word with bits `lo .. lo + w - 1` replaced by the low bits of `v`. -/
def putField (x : Word) (lo w v : Nat) : Word :=
  BitVec.ofNat 64 (x.toNat - fieldOf x lo w * 2 ^ lo + (v % 2 ^ w) * 2 ^ lo)

/-- The `n` low bytes of a number, the least significant first (values are little-endian). -/
def bytesLE : Nat → Nat → List Byte
  | 0, _ => []
  | n + 1, v => BitVec.ofNat 8 v :: bytesLE n (v / 256)

/-- The number whose little-endian bytes are given. -/
def numLE : List Byte → Nat
  | [] => 0
  | b :: t => b.toNat + 256 * numLE t

/-- Bits `lo .. lo + w - 1` of a number. -/
def bitsOf (x lo w : Nat) : Nat := x / 2 ^ lo % 2 ^ w

/-- Saturating addition at `2 ^ w - 1`. -/
def satAdd (w a b : Nat) : Nat := min (a + b) (2 ^ w - 1)

/-- Ceiling division. -/
def ceilDiv (a b : Nat) : Nat := (a + b - 1) / b

/-- A one-bit number. -/
def Bool.num (b : Bool) : Nat := if b then 1 else 0

/-- The signed 64-bit value of a difference modulo 2^64. -/
def signed64 (x : Nat) : Int := (BitVec.ofNat 64 x).toInt

end Sys2Proof
end

