-- ==== Sys2Proof/Syntax.lean ====
section
/-! DEFINITION. The commands of Turril: one constructor for each row of the opcode table, with the
operands its event carries. A command is what one of the block's surroundings, the host, Steward's
firmware or one of Turril's own units makes happen; the waiting commands stand in `State.pending`. -/

namespace Sys2Proof

/-- Who makes an access to the registers or to device memory (R91, R505). -/
inductive Who where
  | pf                       -- the physical function without a PASID: privileged
  | pasid (n : BitVec 20)    -- the physical function with a PASID
  | vf (n : BitVec 6)        -- a virtual function
  | steward | tap | bmc
  deriving DecidableEq, Repr

/-- What an inbound host-port request reaches (Table 16.11): BAR0, BAR2, or device memory by its
physical address. -/
inductive Target where
  | bar0 | bar2 | mem
  deriving DecidableEq, Repr

/-- An inbound host-port request (R478, Table 16.11): a read (MRD) or a write (MWR). -/
structure HpReq where
  who    : Who
  target : Target
  wr     : Bool
  addr   : BitVec 64
  len    : BitVec 12
  tag    : BitVec 10
  data   : List Byte
  parOk  : Bool
  deriving DecidableEq, Repr

/-- One report to Assay (R366): the cause by its index in Table 12.1, and what the checker filled in. -/
structure Report where
  cause : Nat
  inst  : Nat := 0
  unit  : Option Nat := none
  addr  : Option Nat := none
  ctx   : Option Nat := none
  slice : Option Nat := none
  det0  : Nat := 0
  det1  : Nat := 0
  /-- Loss causes: the state of the lost line's page at detection (Table 3.2's codes). -/
  page  : Nat := 0
  /-- Loss causes: 1 when the log that should hold the entry was full (R369). -/
  full  : Bool := false
  /-- HM_FAIL in slot 0's range, DME_MERGE_PARITY while a row is issued: the sterner class of Table 12.1. -/
  hard  : Bool := false
  /-- The report comes from an injection of KIND 0. -/
  inj   : Bool := false
  /-- A self-test report of KIND 1, 2 or 3 (R386). -/
  self  : Bool := false
  /-- Die time of detection, filled in where the report is made. -/
  time  : Nat := 0
  deriving DecidableEq, Repr

/-- One log slot of the flash as the ROM reads it (R443): its number, copy A and copy B. -/
structure LogSlot where
  n : Nat
  a : List Byte
  b : List Byte
  deriving DecidableEq, Repr

/-- The commands: one constructor for each row of spec/opcode_table.json, in its order. -/
inductive Instr where
  | registerWrite (who : Who) (off : BitVec 26) (v : Word)
  | bar0UnmappedAccess (who : Who) (wr : Bool) (off : BitVec 26) (len : BitVec 10)
  | recordRearm (who : Who) (off : BitVec 26) (v : Word)
  | tick (fwBusy : Bool)
  | sweepDone
  | gatingStart (r : BitVec 3)
  | gatingStepDone (r : BitVec 3)
  | rpsOnAckRise (r : BitVec 3)
  | rpsOnAckFall (r : BitVec 3)
  | regionRunning (r : BitVec 3)
  | interpolatorLock (n : BitVec 4)
  | regionPwr (r : BitVec 3)
  | stRegionCtlWrite (who : Who) (n : BitVec 4) (v : Word)
  | doorbell (who : Who) (off : BitVec 24) (len : BitVec 7) (v : Word)
  | ctxCfgWrite (who : Who) (err : Bool) (c : BitVec 12) (v : Word)
  | ctxReset (who : Who) (c : BitVec 12)
  | ctxAbort (who : Who) (c : BitVec 12)
  | ringEnable (who : Who) (n : BitVec 13) (v : Word)
  | ringDisable (who : Who) (n : BitVec 13) (v : Word)
  | slotQuotaWrite (who : Who) (sl : BitVec 9) (v : Word)
  | descriptorFetch (n : BitVec 13)
  | teardownDrained (c : BitVec 12)
  | commandComplete (id : Nat)
  | nop (id : Nat)
  | launch (id : Nat)
  | launchIndirect (id : Nat)
  | copy (id : Nat)
  | fill (id : Nat)
  | gather (id : Nat)
  | scatter (id : Nat)
  | reduce (id : Nat)
  | reduceScatter (id : Nat)
  | dmeTile (n : BitVec 6)
  | dispatchExpert (id : Nat)
  | dispatchBlock (id : Nat)
  | dispatchCompact (id : Nat)
  | dispatchBucket (id : Nat)
  | combine (id : Nat)
  | selectItem (n : BitVec 3)
  | keepAlive (n : BitVec 3)
  | fenceWait (id : Nat)
  | fenceNotify (id : Nat)
  | fencePoll (id : Nat)
  | fenceTimeout (id : Nat)
  | fenceSignal (id : Nat)
  | timestamp (id : Nat)
  | counterSnap (id : Nat)
  | snapLatch (id : Nat)
  | predSkip (id : Nat)
  | select (id : Nat)
  | callList (id : Nat)
  | ret (id : Nat)
  | yieldCmd (id : Nat)
  | deadline (id : Nat)
  | watchOpen (id : Nat)
  | watchSnap (id : Nat)
  | watchClose (id : Nat)
  | watchSwitchDone (id : Nat)
  | invalidate (id : Nat)
  | invalidateDrained (id : Nat)
  | invTimeout (id : Nat)
  | create (id : Nat)
  | clusters (id : Nat)
  | pagesAssign (id : Nat)
  | pagesRelease (id : Nat)
  | activate (id : Nat)
  | disable (id : Nat)
  | forceDisable (id : Nat)
  | reclaim (id : Nat)
  | bind (id : Nat)
  | graceExpiry (sl : BitVec 9)
  | sliceDrained (sl : BitVec 9)
  | reclaimFlushDone (sl : BitVec 9)
  | reclaimKeysDone (sl : BitVec 9)
  | reclaimScrubDone (sl : BitVec 9)
  | potChangeDone (op : Nat)
  | scrub (id : Nat)
  | pageScrubDone (p : BitVec 15)
  | logStart (id : Nat)
  | logSwap (id : Nat)
  | logStop (id : Nat)
  | dirtyLogConfirm (sl : BitVec 9) (g : BitVec 19)
  | potSet (who : Who) (v : Word)
  | aclassWrite (who : Who) (sl : BitVec 9) (v : Word)
  | hostPortRequest (q : HpReq)
  | hostCompletion (tag : BitVec 10) (status : BitVec 4) (data : List Byte) (parOk : Bool)
  | placement (k : BitVec 6)
  | quantumExpiry (k : BitVec 6)
  | yieldGraceExpiry (kid : Nat)
  | lend (k : BitVec 6)
  | abandonTimeout (k : BitVec 6)
  | segtabWrite (who : Who) (c : BitVec 12) (v : Word)
  | stuResume (who : Who) (c : BitVec 12)
  | stuFail (who : Who) (c : BitVec 12)
  | holdTimeout (c : BitVec 12)
  | faultBatchClose (sl : BitVec 9)
  | fringConsRead (sl : BitVec 9)
  | fringRegWrite (who : Who) (which : BitVec 2) (sl : BitVec 9) (v : Word)
  | acntClr (who : Who) (v : Word)
  | acntDecay
  | mapWindowSet (id : Nat)
  | mapWindowClear (id : Nat)
  | mapWindowDrained (op : Nat)
  | weLbwWrite (who : Who) (sl : BitVec 9) (v : Word)
  | rdReq (p : BitVec 4) (b : List Byte) (tag : BitVec 128)
  | wr (p : BitVec 4) (b : List Byte) (tag : BitVec 128)
  | red (p : BitVec 4) (b : List Byte) (tag : BitVec 128)
  | windowAtomic (p : BitVec 4) (b : List Byte) (tag : BitVec 128)
  | fsig (p : BitVec 4) (b : List Byte) (tag : BitVec 128)
  | rdRsp (p : BitVec 4) (b : List Byte) (tag : BitVec 128)
  | atomicRsp (p : BitVec 4) (b : List Byte) (tag : BitVec 128)
  | ack (p : BitVec 4) (b : List Byte) (tag : BitVec 128)
  | nack (p : BitVec 4) (b : List Byte) (tag : BitVec 128)
  | timeReq (p : BitVec 4) (b : List Byte)
  | timeRsp (p : BitVec 4) (b : List Byte)
  | timeExchange
  | windowRspTimeout (t : BitVec 13)
  | linkDown (p : BitVec 4)
  | linkUp (p : BitVec 4)
  | clpReq (k : BitVec 6) (h : BitVec 128) (parOk : Bool) (beats : List (BitVec 128 × Line))
  | tileLoad (k : BitVec 6) (h : BitVec 128) (parOk : Bool)
  | tileStore (k : BitVec 6) (h : BitVec 128) (parOk : Bool) (beats : List (BitVec 128 × Line))
  /-- `parOk` is false as well where the beat's byte enables are not all ones, which R466 asks of it. -/
  | clpWb (k : BitVec 6) (h : BitVec 56) (parOk : Bool) (data : Line)
  | readShared (rid : Nat)
  | readOwn (rid : Nat)
  | readOnce (rid : Nat)
  | writeFull (rid : Nat)
  | writeMask (rid : Nat)
  | atomic (rid : Nat)
  | reduceWrite (rid : Nat)
  | pf (rid : Nat)
  | wb (rid : Nat)
  | retry (rid : Nat)
  | grant (rid : Nat)
  | srsp (k : BitVec 6) (stag : BitVec 3) (code : BitVec 3)
  | sdat (k : BitVec 6) (stag : BitVec 3) (watchEn : Bool) (watchId : BitVec 6) (data : Line)
  | collectorSrsp (line : BitVec 43) (r : BitVec 3)
  | snoopTimeout (k : BitVec 6) (stag : BitVec 3)
  | sweepVisit (h : BitVec 6)
  | flushDone (f : Nat)
  | lcScrubVisit (h : BitVec 6)
  | llogConsWrite (who : Who) (v : Word)
  | mcRead (line : BitVec 43) (flips : List (Nat × BitVec 16))
  | mcWrite (line : BitVec 43) (sectors : BitVec 4) (zse : Bool) (data : Line)
  | refresh (n : BitVec 3) (pc : BitVec 6)
  | tempRead (n : BitVec 3) (t : BitVec 8)
  | tempTimeout (n : BitVec 3)
  | phyAlert (n : BitVec 3) (pc : BitVec 6) (tries : Nat)
  | mcSbwWrite (who : Who) (n : BitVec 3) (sl : BitVec 9) (v : Word)
  | mcUeClear (who : Who) (n : BitVec 3) (v : Word)
  | patrolVisit (n : BitVec 3)
  | planisherScrub (n : BitVec 3)
  | nmapScrubVisit (n : BitVec 3)
  | trainingDone (n : BitVec 3) (mode : BitVec 2) (geom : BitVec 3)
  | nmapInitDone (n : BitVec 3)
  | trainingTimeout (n : BitVec 3)
  | calibrationStart (n : BitVec 3) (pc : BitVec 6)
  | calibrationEnd (n : BitVec 3)
  | phyupdReq (n : BitVec 3)
  | retrain (who : Who) (v : Word)
  | retrainDone (n : BitVec 3) (ok : Bool)
  | crSeedWrite (who : Who) (sl : BitVec 9) (v : Word)
  | keyBind (id : Nat)
  | keyRetire (id : Nat)
  | slot0Bind (who : Who) (v : Word)
  | kexInit (who : Who) (p : BitVec 4)
  | kexRespond (who : Who) (p : BitVec 4)
  | kexConfirm (who : Who) (p : BitVec 4)
  | kexComplete (who : Who) (p : BitVec 4)
  | kexAccept (who : Who) (p : BitVec 4)
  | kexAbort (who : Who) (p : BitVec 4)
  | tsLcReq (who : Who) (v : Word)
  | lcProgramDone
  | svnAdvance (who : Who) (v : Word)
  | keyRevoke (who : Who) (v : Word)
  | assayReport (r : Report)
  | dieLine (r : Report)
  | quietEnd
  | wdogKick (who : Who) (v : Word)
  | wdogExpiry
  | ayCfgWrite (who : Who) (v : Word)
  | ayInject (who : Who) (v : Word)
  | secAlarmClear (who : Who) (v : Word)
  | chClear (who : Who) (v : Word)
  | freezeArm (who : Who) (v : Word)
  | freeze
  | chTimeLoad (who : Who) (v : Word)
  | bwmonWrite (who : Who) (m : BitVec 6) (v : Word)
  | bwmonWindowEnd (m : BitVec 6)
  | bwpeakClear (who : Who) (m : BitVec 6) (v : Word)
  | chVisWrite (who : Who) (mask : Bool) (sl : BitVec 9) (v : Word)
  | endK (k : BitVec 6) (kid : BitVec 8) (fault : Bool)
  | mark (k : BitVec 6) (kid : BitVec 8)
  | yielded (k : BitVec 6) (kid : BitVec 8) (token : Word)
  | abandonAck (k : BitVec 6) (kid : BitVec 8)
  | kernelError (k : BitVec 6) (kid : BitVec 8) (tag : BitVec 8) (code : BitVec 3)
  | portError (k : BitVec 6) (chan : BitVec 4)
  | powerGood
  | coldReset (pin : Bool)
  | warmReset
  | stResetWarm (who : Who) (v : Word)
  | stResetCold (who : Who) (v : Word)
  | flashReadDone (a b : List Byte) (log : List LogSlot)
  | flashTimeout
  | mboxDataWrite (who : Who) (off : BitVec 21) (data : List Byte)
  | go (who : Who) (v : Word)
  | authDone
  | h2f (who : Who) (v : Word)
  | f2h (who : Who) (v : Word)
  | firmwareSeal (who : Who) (v : Word)
  | idcode
  | dbgChallenge
  | dbgResponse (sig : BitVec 768) (key : BitVec 768)
  | dbgAccess (wr : Bool) (mem : Bool) (addr : BitVec 64) (data : Word)
  | lcReq (v : Word)
  | inject (v : Word) (line : Word)
  | bypass (code : BitVec 4)
  | bmcRead (off : BitVec 26)
  | bmcWrite (off : BitVec 26) (v : Word)
  | romStart (otpErr : Bool) (word : Word)
  | creditReturn (port : BitVec 7) (chan : BitVec 4)
  | rxDrop (p : BitVec 4) (b : List Byte)
  | dynamicAddress (a : BitVec 7)
  | tapReset
  deriving DecidableEq, Repr

end Sys2Proof
end

