-- ==== Sys2Proof/Decode.lean ====
section
/-! DEFINITION. The rows of the opcode table give no bits: a command is a constructor of Instr with its
operands, and no word spells one. The bits of the formats the commands carry (descriptors, packets, port
headers) are read where the commands use them. -/

namespace Sys2Proof

/-- The command a word spells by the table's bits: the table gives no row any bits, so none. -/
def decodeTableWord (_nbits _w : Nat) : Option Instr := none

end Sys2Proof
end

