-- ==== Sys2Proof/Machine/Float.lean ====
section
/-! DEFINITION. The element formats of Tables 9.2 and 10.1 and their arithmetic, computed exactly on dyadic
numbers and narrowed once at the end (R282, R313 to R317). -/

namespace Sys2Proof.Machine

/-- The value of an element: a NaN, an infinity, or a sign and `m × 2 ^ e`. -/
inductive FV where
  | nan
  | inf (neg : Bool)
  | fin (neg : Bool) (m : Nat) (e : Int)
  deriving DecidableEq, Repr

/-- A binary floating format: exponent and fraction widths, bias, whether it has infinities and NaNs. -/
structure FFmt where
  eb   : Nat
  mb   : Nat
  bias : Int
  inf  : Bool
  nan  : Bool
  deriving DecidableEq, Repr

def fp32 : FFmt := ⟨8, 23, 127, true, true⟩
def bf16 : FFmt := ⟨8, 7, 127, true, true⟩
def fp16 : FFmt := ⟨5, 10, 15, true, true⟩
def e4m3 : FFmt := ⟨4, 3, 7, false, true⟩
def e5m2 : FFmt := ⟨5, 2, 15, true, true⟩
def e2m3 : FFmt := ⟨2, 3, 1, false, false⟩
def e3m2 : FFmt := ⟨3, 2, 3, false, false⟩
def e2m1 : FFmt := ⟨2, 1, 1, false, false⟩

/-- The floating element format of a code of Table 10.1; INT32 and MXINT8 have none. -/
def fmtOf (code : Nat) : Option FFmt :=
  if code = 0 then some fp32 else if code = 1 then some bf16 else if code = 2 then some fp16
  else if code = 3 ∨ code = 8 then some e4m3 else if code = 4 ∨ code = 9 then some e5m2
  else if code = 10 then some e2m3 else if code = 11 then some e3m2 else if code = 12 then some e2m1 else none

/-- The value that bits spell in a format. -/
def FFmt.decode (f : FFmt) (bits : Nat) : FV :=
  let neg := bits / 2 ^ (f.eb + f.mb) % 2 = 1
  let ex := bits / 2 ^ f.mb % 2 ^ f.eb
  let fr := bits % 2 ^ f.mb
  if f.inf ∧ ex = 2 ^ f.eb - 1 then (if fr = 0 then .inf neg else .nan)
  else if f.nan ∧ !f.inf ∧ ex = 2 ^ f.eb - 1 ∧ fr = 2 ^ f.mb - 1 then .nan
  else if ex = 0 then .fin neg fr (1 - f.bias - f.mb)
  else .fin neg (2 ^ f.mb + fr) (ex - f.bias - f.mb)

/-- ⌊log2⌋ of `m × 2 ^ e`, for `m` not 0. -/
def logOf (m : Nat) (e : Int) : Int := (Nat.log2 m : Int) + e

/-- How a value is rounded (R315): to nearest even, or stochastically with a 16-bit draw. -/
inductive Rnd where
  | nearest
  | draw (r : Nat)
  deriving DecidableEq, Repr

/-- `m × 2 ^ e` in units of `2 ^ q`, rounded. -/
def roundTo (rd : Rnd) (m : Nat) (e q : Int) : Nat :=
  if q ≤ e then m * 2 ^ (e - q).toNat
  else
    let sh := (q - e).toNat
    let lo := m / 2 ^ sh
    let rem := m % 2 ^ sh
    match rd with
    | .nearest => if 2 * rem > 2 ^ sh ∨ (2 * rem = 2 ^ sh ∧ lo % 2 = 1) then lo + 1 else lo
    | .draw r => if rem * 65536 / 2 ^ sh + r ≥ 65536 then lo + 1 else lo

/-- What a write of an element counts as in CR_EXC. -/
inductive Exc where
  | none | nan | sat | inf
  deriving DecidableEq, Repr

/-- The largest finite value of a format: fraction with its leading bit, and exponent. -/
def FFmt.maxFin (f : FFmt) : Nat × Int :=
  let top : Int := if f.inf then (2 ^ f.eb - 2 : Nat) else (2 ^ f.eb - 1 : Nat)
  let m := if f.nan ∧ !f.inf then 2 ^ (f.mb + 1) - 2 else 2 ^ (f.mb + 1) - 1
  (m, top - f.bias - f.mb)

/-- Bits of a sign and a magnitude `n × 2 ^ q` that the format represents. -/
def FFmt.pack (f : FFmt) (neg : Bool) (n : Nat) (q : Int) : Nat :=
  let s := if neg then 2 ^ (f.eb + f.mb) else 0
  if n < 2 ^ f.mb then s + n
  else s + (q + f.mb + f.bias).toNat * 2 ^ f.mb + (n - 2 ^ f.mb)

/-- The bits of the NaN a format is written with (Table 10.1). -/
def FFmt.nanBits (f : FFmt) : Nat :=
  if f.nan ∧ !f.inf then 2 ^ (f.eb + f.mb) - 1 else (2 ^ f.eb - 1) * 2 ^ f.mb + 2 ^ (f.mb - 1)

/-- R315: a value written in a format, with what it counts as. `satAll` is true for microscaled elements,
which saturate where the plain format overflows to an infinity. -/
def FFmt.encode (f : FFmt) (rd : Rnd) (satAll : Bool) : FV → Nat × Exc
  | .nan => (f.nanBits, .nan)
  | .inf neg =>
    if f.inf then ((if neg then 2 ^ (f.eb + f.mb) else 0) + (2 ^ f.eb - 1) * 2 ^ f.mb, .inf)
    else (f.nanBits, .nan)
  | .fin neg m e =>
    if m = 0 then ((if neg then 2 ^ (f.eb + f.mb) else 0), .none)
    else
      let q0 := max (logOf m e - f.mb) (1 - f.bias - f.mb)
      let n0 := roundTo rd m e q0
      let (n, q) := if n0 = 2 ^ (f.mb + 1) then (2 ^ f.mb, q0 + 1) else (n0, q0)
      let (mm, mq) := f.maxFin
      if q > mq ∨ (q = mq ∧ n > mm) then
        if f.inf ∧ !satAll then ((if neg then 2 ^ (f.eb + f.mb) else 0) + (2 ^ f.eb - 1) * 2 ^ f.mb, .inf)
        else (f.pack neg mm mq, .sat)
      else (f.pack neg n q, .none)

/-- The FP32 bits of a value, rounded to nearest even; subnormals are kept. -/
def toFp32 (v : FV) : Nat := (fp32.encode .nearest false v).1

/-- A value as FP32 holds it. -/
def asFp32 (v : FV) : FV := fp32.decode (toFp32 v)

/-- The signed integer a finite value is of `2 ^ e`. -/
def signedOf (neg : Bool) (m : Nat) : Int := if neg then -(m : Int) else m

/-- R314: IEEE 754 binary32 addition, to nearest even. -/
def addFp32 (a b : FV) : FV :=
  match a, b with
  | .nan, _ => .nan
  | _, .nan => .nan
  | .inf x, .inf y => if x = y then .inf x else .nan
  | .inf x, _ => .inf x
  | _, .inf y => .inf y
  | .fin n1 m1 e1, .fin n2 m2 e2 =>
    let e := min e1 e2
    let t : Int := signedOf n1 (m1 * 2 ^ (e1 - e).toNat) + signedOf n2 (m2 * 2 ^ (e2 - e).toNat)
    asFp32 (.fin (if t = 0 then n1 && n2 else decide (t < 0)) t.natAbs e)

/-- IEEE 754 binary32 multiplication, to nearest even (R299). -/
def mulFp32 (a b : FV) : FV :=
  match a, b with
  | .nan, _ => .nan
  | _, .nan => .nan
  | .inf x, .inf y => .inf (x != y)
  | .inf x, .fin y m _ => if m = 0 then .nan else .inf (x != y)
  | .fin x m _, .inf y => if m = 0 then .nan else .inf (x != y)
  | .fin n1 m1 e1, .fin n2 m2 e2 => asFp32 (.fin (n1 != n2) (m1 * m2) (e1 + e2))

/-- `a < b` on values that are not NaN, with ±0 equal (R282). -/
def ltFV (a b : FV) : Bool :=
  match a, b with
  | .nan, _ => false
  | _, .nan => false
  | .inf true, .inf true => false
  | .inf true, _ => true
  | .inf false, _ => false
  | _, .inf y => !y
  | .fin n1 m1 e1, .fin n2 m2 e2 =>
    let e := min e1 e2
    decide (signedOf n1 (m1 * 2 ^ (e1 - e).toNat) < signedOf n2 (m2 * 2 ^ (e2 - e).toNat))

/-- 32-bit two's-complement addition that saturates (R314). -/
def addInt32 (a b : Nat) : Nat × Exc :=
  let s := (BitVec.ofNat 32 a).toInt + (BitVec.ofNat 32 b).toInt
  if s > 2147483647 then (2147483647, .sat)
  else if s < -2147483648 then (2147483648, .sat)
  else ((s % 4294967296).toNat, .none)

/-! ### Codes of Table 10.1 -/

/-- The code is listed. -/
def fmtListed (c : Nat) : Bool := decide (c ≤ 5 ∨ (8 ≤ c ∧ c ≤ 13))
/-- The code is microscaled. -/
def fmtMx (c : Nat) : Bool := decide (8 ≤ c ∧ c ≤ 13)
/-- R310: the pairing is well formed. -/
def fmtPair (s t : Nat) : Bool := fmtListed s && fmtListed t && (decide (s = 5) == decide (t = 5))
/-- Bytes of an element of a format that is not microscaled. -/
def fmtSize (c : Nat) : Nat := if c = 0 ∨ c = 5 then 4 else if c = 1 ∨ c = 2 then 2 else 1
/-- Element width in bits, bytes per block, blocks per line, emax (Tables 10.1 and 10.2). -/
def mxW (c : Nat) : Nat := if c = 10 ∨ c = 11 then 6 else if c = 12 then 4 else 8
def mxEB (c : Nat) : Nat := 4 * mxW c
def mxNBL (c : Nat) : Nat := if mxW c = 8 then 3 else if mxW c = 6 then 5 else 7
def mxEPL (c : Nat) : Nat := 32 * mxNBL c
def mxS0 (c : Nat) : Nat := mxEB c * mxNBL c
def mxEmax (c : Nat) : Int := if c = 8 then 8 else if c = 9 then 15 else if c = 10 then 2 else if c = 11 then 4 else if c = 12 then 2 else 0

/-- The value of an element of a format that is not microscaled and not INT32. -/
def elemFV (c bits : Nat) : FV := ((fmtOf c).map (fun f => f.decode bits)).getD .nan

/-- R313: an element of a microscaled block with scale byte `k`, rounded to FP32. -/
def mxElemFV (c k bits : Nat) : FV :=
  if k = 255 then .nan
  else if c = 13 then
    let i := (BitVec.ofNat 8 bits).toInt
    asFp32 (.fin (decide (i < 0)) i.natAbs (-6 + (k : Int) - 127))
  else match elemFV c bits with
    | .fin n m e => asFp32 (.fin n m (e + (k : Int) - 127))
    | v => v

/-- R317 step 4: an element of value `v × 2 ^ -x` in a microscaled element format, saturating. -/
def mxEncode (c : Nat) (rd : Rnd) (x : Int) : FV → Nat × Exc
  | .fin neg m e =>
    if c = 13 then
      let n := roundTo rd m (e - x) (-6)
      if neg then (if n > 128 then (128, .sat) else ((256 - n) % 256, .none))
      else (if n > 127 then (127, .sat) else (n, .none))
    else match fmtOf c with
      | some f => f.encode rd true (.fin neg m (e - x))
      | none => (0, .none)
  | _ => (0, .none)

/-- R317 step 2: the scale exponent X of 32 values, or none where one is a NaN or an infinity. -/
def mxScale (c : Nat) (vs : List FV) : Option Int :=
  if vs.any (fun v => match v with | .fin _ _ _ => false | _ => true) then none
  else
    let mags := vs.filterMap (fun v => match v with | .fin _ m e => if m = 0 then none else some (logOf m e) | _ => none)
    match mags with
    | [] => some (-127)
    | h :: t => some (max (-127) (min 127 (t.foldl max h - mxEmax c)))

/-! ### The random generator of R316 -/

/-- One step of the generator: the new state and the 64-bit output. -/
def xorshift (x : Word) : Word × Word :=
  let x := x ^^^ (x >>> 12)
  let x := x ^^^ (x <<< 25)
  let x := x ^^^ (x >>> 27)
  (x, x * 0x2545F4914F6CDD1D)

/-- The state a generator is loaded with at activation of slice seed `seed`, or at die time `t` (R316). -/
def genSeed (n : Nat) (seed : Word) (t : Nat) : Word :=
  let s := if seed = 0 then BitVec.ofNat 64 t else seed
  let x := s ^^^ (BitVec.ofNat 64 (n + 1) * 0x9E3779B97F4A7C15)
  if x = 0 then 1 else x

/-- `n` draws starting with a fresh step: the new state and the draws (R316). -/
def draws : Nat → Word → List Nat → Word × List Nat
  | 0, x, acc => (x, acc.reverse)
  | n + 1, x, acc =>
    let k := acc.length % 4
    let (x', out) := if k = 0 then xorshift x else (x, x * 0x2545F4914F6CDD1D)
    draws n x' ((bitsOf out.toNat (16 * k) 16) :: acc)

end Sys2Proof.Machine
end

