-- ==== Sys2Proof/Config.lean ====
section
/-! DEFINITION. What an implementation fixes and the manual leaves open. Every free value is an opaque
constant with no body: a claim about it holds for every value it could have. Each is applied to the
counter `Die.ctr`, which the step that draws it advances, or to the operands it depends on. -/

namespace Sys2Proof.Config

/-- A fresh 64-bit value from Touchstone's random bit generator (R333) or of a nonce; log entry 12. -/
opaque freeWord : Nat → Word

/-- The estimate of the energy a domain used in a tick, in units of 10 mW (R494), of the domain with the
given index, whose true figure the manual does not derive; log entry 13. -/
opaque powerEstimate : Nat → Nat → Nat

/-- Which of several allowed values a byte ends with where two writes of one command overlap (R64, R281,
R319): true takes the later source; log entry 14. -/
opaque overlapPick : Nat → Bool

/-- The contents a BUCKET leaves in its SCRATCH (R294), and an EXPERT in its own; log entry 15. -/
opaque scratchByte : Nat → Nat → Byte

/-- How far a softmax gate lies from the exactly rounded quotient (R284), of the numerator's and the set's scores as
FP32 bits: the manual bounds it to 4 ulp either way and gives no method; log entry 16. -/
opaque softmaxUlp : Nat → List Nat → Nat

/-- A counter of Table 14.1 whose events the manual names and whose number it does not derive (flits
forwarded, cycles held for a credit, row activations); log entry 17. -/
opaque unstatedCount : Nat → Nat → Word

/-- The private identity key Touchstone derives from the OTP root secret by SP 800-108 (R358): the label and
context of the derivation are not stated; log entry 18. -/
opaque identityKey : List Word → Nat

/-- How many messages of a class a buffer of the fabric holds beyond the first: the manual gives each ring stop, mesh
gateway and home buffers of every class (R225) and no depth; of the buffer's place and its class; log entry 84. -/
opaque bufferDepth : Nat → Nat → Nat

/-- A byte of the seed words that are read back from a PHY after its training (R477), which the manual does not derive; log entry 105. -/
opaque trainedSeed : Nat → Nat → Byte

/-- The average refresh interval in ns that JEDEC requires of a stack mode at the 1× rate (R265); log entry 85. -/
opaque refreshNs : Nat → Nat

/-- The activations of a bank at which the mode registers of a stack ask for refresh management (R265); log entry 85. -/
opaque rfmThreshold : Nat → Nat

end Sys2Proof.Config
end

