-- ==== Sys2Proof/Machine/Regs.lean ====
section
/-! DEFINITION. Every register of Turril as the Register index lists it (R511, Tables 18.3 to 18.17), with
its place in BAR0, and every field of the chapters' register tables with its bits, its access type (R10,
Table 0.4) and its reset value. ST_MBOX_DATA is a byte window and stands in State as bytes (R447). -/

namespace Sys2Proof.Machine

/-- The registers of the Register index, R511. -/
inductive Reg where
  | SF_STATUS
  | SF_PRIV_RING
  | SF_SLOT_QUOTA
  | SF_CTX_CFG
  | SF_CTX_ERR
  | SF_CTX_STATUS
  | SF_CTX_CTL
  | SF_RING_BASE
  | SF_RING_CPL
  | SF_RING_CTL
  | SF_RING_STATUS
  | SM_CFG
  | SM_STATUS
  | SM_PAGES
  | SM_POT_SET
  | SM_SLICE
  | SM_SLICE_CLUSTERS
  | SM_SLICE_BIND
  | SM_SLICE_LOG
  | SM_SLICE_ACLASS
  | SM_POT
  | TY_CFG
  | TY_STATUS
  | TY_CLUSTER
  | TY_SHARE
  | TY_SLICE_STAT
  | TY_CTX_SHARE
  | TY_LEDGER_CLUSTER
  | TY_LEDGER_ENGINE
  | TY_RING_DL
  | STU_CFG
  | STU_STATUS
  | STU_CNT_CFG
  | STU_ACNT_CLR
  | STU_CTX_SEGTAB
  | STU_EPOCH
  | STU_CTX_CTL
  | STU_FRING_BASE
  | STU_FRING_CTL
  | STU_FRING_CONS
  | STU_FRING_STATUS
  | STU_ACNT
  | WE_CFG
  | WE_STATUS
  | WE_TIME_CFG
  | WE_TIME_STATUS
  | WE_PORT_STATUS
  | WE_ROUTE
  | WE_LBW
  | WE_WERR
  | WE_WTAB
  | RF_ERR
  | LC_CFG
  | LC_STATUS
  | DIR_CFG
  | DIR_STATUS
  | DIR_LLOG_STATUS
  | DIR_LLOG_CONS
  | LC_SCRUB_CFG
  | LC_ACLASS
  | LC_SLICE_STATUS
  | LC_OCC
  | DIR_LLOG
  | MC_CFG
  | MC_STATUS
  | MC_TEMP
  | MC_ERR
  | MC_UE_STATUS
  | MC_PATROL
  | MC_PATROL_POS
  | MC_UE_LOG
  | MC_SBW
  | SE_STATUS
  | SE_ERR
  | SE_ALARM
  | SE_SLOT0
  | SE_SLOT
  | SE_LINK
  | SE_LINK_TXC
  | SE_LINK_RXC
  | SO_CFG
  | SO_STATUS
  | SO_COUNT
  | SO_BUSY
  | SO_ERR
  | CR_CFG
  | CR_STATUS
  | CR_SEED
  | CR_OPS
  | CR_EXC
  | CR_MX
  | AY_CFG
  | AY_STATUS
  | AY_RECOVERY
  | AY_ALARM
  | AY_WDOG
  | AY_INJECT
  | AY_INJECT_ADDR
  | AY_INJECT_STATUS
  | AY_DIE_REC
  | AY_CE_REC
  | AY_SEC_REC
  | AY_INJ_REC
  | AY_SLICE_PEND
  | AY_COUNT
  | AY_CTX_REC
  | AY_SLICE_REC
  | CH_CFG
  | CH_STATUS
  | CH_TIME
  | CH_TIME_LOAD
  | CH_SWEEP
  | CH_SWEEP_TIME
  | CH_FREEZE_TIME
  | CH_FREEZE_CTL
  | CH_CLEAR
  | CH_LATCH
  | CH_BWMON
  | CH_BWLAST
  | CH_BWPEAK
  | CH_BWCOUNT
  | CH_WATCH
  | CH_WATCH_SEQ
  | CH_VIS
  | CH_WATCH_MASK
  | CH_SNAP
  | CH_FRZ
  | CH_LIVE
  | TS_LC
  | TS_LC_WORD
  | TS_LC_REQ
  | TS_FW_STATUS
  | TS_SVN_ADVANCE
  | TS_KEYS
  | TS_KEY_REVOKE
  | TS_DEBUG
  | TS_KEX_CTL
  | TS_KEX_STATUS
  | TS_ID_PUB
  | TS_KEX_BUF
  | ST_ID
  | ST_DIE_ID
  | ST_TICK
  | ST_REGION_CTL
  | ST_REGION_STATUS
  | ST_FOREMAN_STATUS
  | ST_RETRAIN
  | ST_BOOT
  | ST_RESET
  | ST_SEAL
  | ST_MBOX_CTL
  | ST_MBOX_STATUS
  | ST_PWR_LIMIT
  | ST_PWR_RLIMIT
  | ST_PWR_TOTAL
  | ST_PWR_DOM
  deriving DecidableEq, Repr

/-- Register access types, R10 and Table 0.4. -/
inductive Acc where
  | RO | RW | WO | W1C | W1S | RWS | RWL
  deriving DecidableEq, Repr

/-- One register field: the register, the 64-bit word of an element, the lowest bit, the width, the access
type and the reset value. -/
structure Fld where
  reg : Reg
  word : Nat
  lo : Nat
  width : Nat
  acc : Acc
  reset : Nat
  deriving DecidableEq, Repr

/-- Where a register array lies: element `i` starts at `base + s1 * (i % c1) + s2 * (i / c1)`, for `i` below
`c1 * c2`, and holds `words` 64-bit words. -/
structure Layout where
  base : Nat
  c1 : Nat
  s1 : Nat
  c2 : Nat
  s2 : Nat
  words : Nat
  deriving DecidableEq, Repr

namespace F

abbrev SF_STATUS.FREE_SLOTS : Fld := ⟨.SF_STATUS, 0, 0, 12, .RO, 2048⟩
abbrev SF_STATUS.QUOTA_ERR : Fld := ⟨.SF_STATUS, 0, 12, 1, .W1C, 0⟩
abbrev SF_STATUS.DB_REJECT : Fld := ⟨.SF_STATUS, 0, 16, 16, .RO, 0⟩
abbrev SF_STATUS.CFG_REJECT : Fld := ⟨.SF_STATUS, 0, 32, 16, .RO, 0⟩
abbrev SF_PRIV_RING.RING : Fld := ⟨.SF_PRIV_RING, 0, 0, 13, .RWL, 0⟩
abbrev SF_PRIV_RING.VALID : Fld := ⟨.SF_PRIV_RING, 0, 13, 1, .RWL, 0⟩
abbrev SF_SLOT_QUOTA.MIN : Fld := ⟨.SF_SLOT_QUOTA, 0, 0, 12, .RW, 0⟩
abbrev SF_SLOT_QUOTA.MAX : Fld := ⟨.SF_SLOT_QUOTA, 0, 16, 12, .RW, 0⟩
abbrev SF_SLOT_QUOTA.IN_USE : Fld := ⟨.SF_SLOT_QUOTA, 0, 32, 12, .RO, 0⟩
abbrev SF_CTX_CFG.SLICE : Fld := ⟨.SF_CTX_CFG, 0, 0, 9, .RW, 0⟩
abbrev SF_CTX_CFG.VALID : Fld := ⟨.SF_CTX_CFG, 0, 9, 1, .RW, 0⟩
abbrev SF_CTX_CFG.KERNEL : Fld := ⟨.SF_CTX_CFG, 0, 10, 1, .RW, 0⟩
abbrev SF_CTX_CFG.DIAG : Fld := ⟨.SF_CTX_CFG, 0, 11, 1, .RW, 0⟩
abbrev SF_CTX_CFG.FAULT_POLICY : Fld := ⟨.SF_CTX_CFG, 0, 12, 2, .RW, 0⟩
abbrev SF_CTX_ERR.LOC : Fld := ⟨.SF_CTX_ERR, 0, 0, 1, .RW, 0⟩
abbrev SF_CTX_ERR.ADDR : Fld := ⟨.SF_CTX_ERR, 0, 3, 61, .RW, 0⟩
abbrev SF_CTX_STATUS.STATE : Fld := ⟨.SF_CTX_STATUS, 0, 0, 3, .RO, 0⟩
abbrev SF_CTX_STATUS.FENCE_REGRESS : Fld := ⟨.SF_CTX_STATUS, 0, 32, 32, .RO, 0⟩
abbrev SF_CTX_CTL.ACTION : Fld := ⟨.SF_CTX_CTL, 0, 0, 2, .WO, 0⟩
abbrev SF_RING_BASE.LOC : Fld := ⟨.SF_RING_BASE, 0, 0, 1, .RW, 0⟩
abbrev SF_RING_BASE.ADDR : Fld := ⟨.SF_RING_BASE, 0, 12, 52, .RW, 0⟩
abbrev SF_RING_CPL.LOC : Fld := ⟨.SF_RING_CPL, 0, 0, 1, .RW, 0⟩
abbrev SF_RING_CPL.ADDR : Fld := ⟨.SF_RING_CPL, 0, 12, 52, .RW, 0⟩
abbrev SF_RING_CTL.LOG2_SIZE : Fld := ⟨.SF_RING_CTL, 0, 0, 5, .RW, 6⟩
abbrev SF_RING_CTL.VERSION : Fld := ⟨.SF_RING_CTL, 0, 5, 1, .RW, 0⟩
abbrev SF_RING_CTL.ENABLE : Fld := ⟨.SF_RING_CTL, 0, 6, 1, .RW, 0⟩
abbrev SF_RING_CTL.DB_INDEX : Fld := ⟨.SF_RING_CTL, 0, 7, 9, .RW, 0⟩
abbrev SF_RING_CTL.CONTEXT : Fld := ⟨.SF_RING_CTL, 0, 16, 12, .RW, 0⟩
abbrev SF_RING_CTL.MSIX_VECTOR : Fld := ⟨.SF_RING_CTL, 0, 32, 11, .RW, 0⟩
abbrev SF_RING_STATUS.HEAD : Fld := ⟨.SF_RING_STATUS, 0, 0, 32, .RO, 0⟩
abbrev SF_RING_STATUS.TAIL : Fld := ⟨.SF_RING_STATUS, 0, 32, 32, .RO, 0⟩
abbrev SM_CFG.GRACE_TICKS : Fld := ⟨.SM_CFG, 0, 0, 8, .RW, 8⟩
abbrev SM_STATUS.HOST_ISOL : Fld := ⟨.SM_STATUS, 0, 0, 16, .RO, 0⟩
abbrev SM_STATUS.PASID_MISS : Fld := ⟨.SM_STATUS, 0, 16, 16, .RO, 0⟩
abbrev SM_STATUS.CFG_REJECT : Fld := ⟨.SM_STATUS, 0, 32, 16, .RO, 0⟩
abbrev SM_PAGES.FREE : Fld := ⟨.SM_PAGES, 0, 0, 15, .RO, 0⟩
abbrev SM_PAGES.UNSCRUBBED : Fld := ⟨.SM_PAGES, 0, 16, 15, .RO, 18432⟩
abbrev SM_PAGES.OWNED : Fld := ⟨.SM_PAGES, 0, 32, 15, .RO, 0⟩
abbrev SM_PAGES.WITHDRAWN : Fld := ⟨.SM_PAGES, 0, 48, 15, .RO, 0⟩
abbrev SM_POT_SET.PAGE : Fld := ⟨.SM_POT_SET, 0, 0, 15, .WO, 0⟩
abbrev SM_POT_SET.STATE : Fld := ⟨.SM_POT_SET, 0, 16, 3, .WO, 0⟩
abbrev SM_SLICE.STATE : Fld := ⟨.SM_SLICE, 0, 0, 3, .RO, 0⟩
abbrev SM_SLICE.KIND : Fld := ⟨.SM_SLICE, 0, 3, 1, .RO, 0⟩
abbrev SM_SLICE.LENDABLE : Fld := ⟨.SM_SLICE, 0, 4, 1, .RO, 0⟩
abbrev SM_SLICE.HOMING : Fld := ⟨.SM_SLICE, 0, 5, 1, .RO, 0⟩
abbrev SM_SLICE.HOME_REGION : Fld := ⟨.SM_SLICE, 0, 6, 3, .RO, 0⟩
abbrev SM_SLICE.STEP : Fld := ⟨.SM_SLICE, 0, 9, 3, .RO, 0⟩
abbrev SM_SLICE.CLUSTERS_PENDING : Fld := ⟨.SM_SLICE, 0, 12, 1, .RO, 0⟩
abbrev SM_SLICE.LOG_ON : Fld := ⟨.SM_SLICE, 0, 13, 1, .RO, 0⟩
abbrev SM_SLICE.LOG_FAILED : Fld := ⟨.SM_SLICE, 0, 14, 1, .RO, 0⟩
abbrev SM_SLICE.PAGES : Fld := ⟨.SM_SLICE, 0, 32, 15, .RO, 0⟩
abbrev SM_SLICE.LOST_CLUSTERS : Fld := ⟨.SM_SLICE, 0, 48, 8, .RO, 0⟩
abbrev SM_SLICE_CLUSTERS.MASK : Fld := ⟨.SM_SLICE_CLUSTERS, 0, 0, 64, .RO, 0⟩
abbrev SM_SLICE_BIND.PASID : Fld := ⟨.SM_SLICE_BIND, 0, 0, 20, .RO, 0⟩
abbrev SM_SLICE_BIND.PASID_VALID : Fld := ⟨.SM_SLICE_BIND, 0, 20, 1, .RO, 0⟩
abbrev SM_SLICE_BIND.VF : Fld := ⟨.SM_SLICE_BIND, 0, 24, 6, .RO, 0⟩
abbrev SM_SLICE_BIND.VF_VALID : Fld := ⟨.SM_SLICE_BIND, 0, 30, 1, .RO, 0⟩
abbrev SM_SLICE_LOG.BITMAP : Fld := ⟨.SM_SLICE_LOG, 0, 12, 52, .RO, 0⟩
abbrev SM_SLICE_ACLASS.MASK : Fld := ⟨.SM_SLICE_ACLASS, 0, 0, 64, .RW, 0⟩
abbrev SM_POT.STATE : Fld := ⟨.SM_POT, 0, 0, 3, .RO, 0⟩
abbrev SM_POT.PRESENT : Fld := ⟨.SM_POT, 0, 3, 1, .RO, 1⟩
abbrev SM_POT.ORPHAN : Fld := ⟨.SM_POT, 0, 4, 1, .RO, 0⟩
abbrev SM_POT.SCRUBBING : Fld := ⟨.SM_POT, 0, 5, 1, .RO, 0⟩
abbrev SM_POT.OWNER : Fld := ⟨.SM_POT, 0, 6, 9, .RO, 0⟩
abbrev SM_POT.CAUSE : Fld := ⟨.SM_POT, 0, 16, 2, .RO, 0⟩
abbrev TY_CFG.QUANTUM_US : Fld := ⟨.TY_CFG, 0, 0, 16, .RW, 250⟩
abbrev TY_CFG.YIELD_GRACE_Q : Fld := ⟨.TY_CFG, 0, 16, 8, .RW, 4⟩
abbrev TY_CFG.LAG_QUANTA : Fld := ⟨.TY_CFG, 0, 24, 8, .RW, 4⟩
abbrev TY_CFG.LEND_IDLE_US : Fld := ⟨.TY_CFG, 0, 32, 16, .RW, 50⟩
abbrev TY_CFG.LEND_ENABLE : Fld := ⟨.TY_CFG, 0, 48, 1, .RW, 1⟩
abbrev TY_STATUS.OVERRUNS : Fld := ⟨.TY_STATUS, 0, 0, 16, .RO, 0⟩
abbrev TY_STATUS.FALLBACKS : Fld := ⟨.TY_STATUS, 0, 16, 16, .RO, 0⟩
abbrev TY_STATUS.DL_MISSES : Fld := ⟨.TY_STATUS, 0, 32, 16, .RO, 0⟩
abbrev TY_STATUS.RECALLS : Fld := ⟨.TY_STATUS, 0, 48, 16, .RO, 0⟩
abbrev TY_CLUSTER.STATE : Fld := ⟨.TY_CLUSTER, 0, 0, 3, .RO, 0⟩
abbrev TY_CLUSTER.LENT : Fld := ⟨.TY_CLUSTER, 0, 3, 1, .RO, 0⟩
abbrev TY_CLUSTER.CONTEXT : Fld := ⟨.TY_CLUSTER, 0, 4, 12, .RO, 0⟩
abbrev TY_CLUSTER.SLICE : Fld := ⟨.TY_CLUSTER, 0, 16, 9, .RO, 0⟩
abbrev TY_SHARE.WEIGHT : Fld := ⟨.TY_SHARE, 0, 0, 16, .RW, 256⟩
abbrev TY_SHARE.EFFECTIVE : Fld := ⟨.TY_SHARE, 0, 32, 16, .RO, 256⟩
abbrev TY_SLICE_STAT.FALLBACKS : Fld := ⟨.TY_SLICE_STAT, 0, 0, 16, .RO, 0⟩
abbrev TY_SLICE_STAT.DL_MISSES : Fld := ⟨.TY_SLICE_STAT, 0, 16, 16, .RO, 0⟩
abbrev TY_SLICE_STAT.OVERRUNS : Fld := ⟨.TY_SLICE_STAT, 0, 32, 16, .RO, 0⟩
abbrev TY_SLICE_STAT.LENT : Fld := ⟨.TY_SLICE_STAT, 0, 48, 7, .RO, 0⟩
abbrev TY_CTX_SHARE.WEIGHT : Fld := ⟨.TY_CTX_SHARE, 0, 0, 16, .RW, 256⟩
abbrev TY_CTX_SHARE.EFFECTIVE : Fld := ⟨.TY_CTX_SHARE, 0, 32, 16, .RO, 256⟩
abbrev TY_LEDGER_CLUSTER.CLUSTER_NS : Fld := ⟨.TY_LEDGER_CLUSTER, 0, 0, 64, .RO, 0⟩
abbrev TY_LEDGER_ENGINE.ENGINE_NS : Fld := ⟨.TY_LEDGER_ENGINE, 0, 0, 64, .RO, 0⟩
abbrev TY_RING_DL.ARMED : Fld := ⟨.TY_RING_DL, 0, 0, 1, .RO, 0⟩
abbrev TY_RING_DL.SWITCH_PENDING : Fld := ⟨.TY_RING_DL, 0, 1, 1, .RO, 0⟩
abbrev TY_RING_DL.BYPASSING : Fld := ⟨.TY_RING_DL, 0, 2, 1, .RO, 0⟩
abbrev TY_RING_DL.PASSED : Fld := ⟨.TY_RING_DL, 0, 3, 1, .RO, 0⟩
abbrev TY_RING_DL.MISSES : Fld := ⟨.TY_RING_DL, 0, 32, 16, .RO, 0⟩
abbrev STU_CFG.HOLD_TICKS : Fld := ⟨.STU_CFG, 0, 0, 16, .RW, 100⟩
abbrev STU_CFG.DECAY_TICKS : Fld := ⟨.STU_CFG, 0, 16, 16, .RW, 2000⟩
abbrev STU_CFG.CNT_ENABLE : Fld := ⟨.STU_CFG, 0, 32, 1, .RW, 1⟩
abbrev STU_STATUS.CFG_REJECT : Fld := ⟨.STU_STATUS, 0, 0, 16, .RO, 0⟩
abbrev STU_STATUS.INV_MAX_US : Fld := ⟨.STU_STATUS, 0, 16, 16, .RO, 0⟩
abbrev STU_STATUS.INV_COUNT : Fld := ⟨.STU_STATUS, 0, 32, 16, .RO, 0⟩
abbrev STU_STATUS.INV_ACTIVE : Fld := ⟨.STU_STATUS, 0, 48, 1, .RO, 0⟩
abbrev STU_CNT_CFG.THRESH_LOCAL : Fld := ⟨.STU_CNT_CFG, 0, 0, 16, .RW, 0⟩
abbrev STU_CNT_CFG.THRESH_REMOTE : Fld := ⟨.STU_CNT_CFG, 0, 16, 16, .RW, 0⟩
abbrev STU_CNT_CFG.THRESH_HOST : Fld := ⟨.STU_CNT_CFG, 0, 32, 16, .RW, 0⟩
abbrev STU_ACNT_CLR.PAGE : Fld := ⟨.STU_ACNT_CLR, 0, 0, 15, .WO, 0⟩
abbrev STU_CTX_SEGTAB.LOC : Fld := ⟨.STU_CTX_SEGTAB, 0, 0, 1, .RW, 0⟩
abbrev STU_CTX_SEGTAB.ADDR : Fld := ⟨.STU_CTX_SEGTAB, 0, 9, 55, .RW, 0⟩
abbrev STU_EPOCH.EPOCH : Fld := ⟨.STU_EPOCH, 0, 0, 16, .RO, 0⟩
abbrev STU_EPOCH.HELD : Fld := ⟨.STU_EPOCH, 0, 32, 16, .RO, 0⟩
abbrev STU_EPOCH.STALLED : Fld := ⟨.STU_EPOCH, 0, 48, 1, .RO, 0⟩
abbrev STU_CTX_CTL.ACTION : Fld := ⟨.STU_CTX_CTL, 0, 0, 2, .WO, 0⟩
abbrev STU_FRING_BASE.ADDR : Fld := ⟨.STU_FRING_BASE, 0, 12, 52, .RW, 0⟩
abbrev STU_FRING_CTL.LOG2_SIZE : Fld := ⟨.STU_FRING_CTL, 0, 0, 5, .RW, 6⟩
abbrev STU_FRING_CTL.ENABLE : Fld := ⟨.STU_FRING_CTL, 0, 5, 1, .RW, 0⟩
abbrev STU_FRING_CTL.MSIX_VECTOR : Fld := ⟨.STU_FRING_CTL, 0, 16, 11, .RW, 0⟩
abbrev STU_FRING_CONS.ADDR : Fld := ⟨.STU_FRING_CONS, 0, 3, 61, .RW, 0⟩
abbrev STU_FRING_STATUS.PRODUCED : Fld := ⟨.STU_FRING_STATUS, 0, 0, 32, .RO, 0⟩
abbrev STU_FRING_STATUS.OVERFLOW : Fld := ⟨.STU_FRING_STATUS, 0, 32, 1, .W1C, 0⟩
abbrev STU_FRING_STATUS.REPLAY_USED : Fld := ⟨.STU_FRING_STATUS, 0, 33, 6, .RO, 0⟩
abbrev STU_FRING_STATUS.DROPPED : Fld := ⟨.STU_FRING_STATUS, 0, 48, 16, .RO, 0⟩
abbrev STU_ACNT.LOCAL : Fld := ⟨.STU_ACNT, 0, 0, 16, .RO, 0⟩
abbrev STU_ACNT.REMOTE : Fld := ⟨.STU_ACNT, 0, 16, 16, .RO, 0⟩
abbrev STU_ACNT.HOST : Fld := ⟨.STU_ACNT, 0, 32, 16, .RO, 0⟩
abbrev WE_CFG.RSP_TIMEOUT_US : Fld := ⟨.WE_CFG, 0, 0, 16, .RW, 1000⟩
abbrev WE_STATUS.RX_DROP : Fld := ⟨.WE_STATUS, 0, 0, 16, .RO, 0⟩
abbrev WE_STATUS.RX_NACK : Fld := ⟨.WE_STATUS, 0, 16, 16, .RO, 0⟩
abbrev WE_STATUS.STALE : Fld := ⟨.WE_STATUS, 0, 32, 16, .RO, 0⟩
abbrev WE_STATUS.CFG_REJECT : Fld := ⟨.WE_STATUS, 0, 48, 16, .RO, 0⟩
abbrev WE_TIME_CFG.ROLE : Fld := ⟨.WE_TIME_CFG, 0, 0, 2, .RW, 0⟩
abbrev WE_TIME_CFG.PARENT_PORT : Fld := ⟨.WE_TIME_CFG, 0, 2, 4, .RW, 0⟩
abbrev WE_TIME_CFG.INTERVAL_TICKS : Fld := ⟨.WE_TIME_CFG, 0, 8, 8, .RW, 2⟩
abbrev WE_TIME_CFG.STEP_NS : Fld := ⟨.WE_TIME_CFG, 0, 16, 32, .RW, 10000⟩
abbrev WE_TIME_STATUS.LOCKED : Fld := ⟨.WE_TIME_STATUS, 0, 0, 1, .RO, 0⟩
abbrev WE_TIME_STATUS.TOO_DEEP : Fld := ⟨.WE_TIME_STATUS, 0, 1, 1, .RO, 0⟩
abbrev WE_TIME_STATUS.DEPTH : Fld := ⟨.WE_TIME_STATUS, 0, 8, 8, .RO, 0⟩
abbrev WE_TIME_STATUS.SYNCS : Fld := ⟨.WE_TIME_STATUS, 0, 16, 16, .RO, 0⟩
abbrev WE_TIME_STATUS.OFFSET_NS : Fld := ⟨.WE_TIME_STATUS, 0, 32, 32, .RO, 0⟩
abbrev WE_PORT_STATUS.UP : Fld := ⟨.WE_PORT_STATUS, 0, 0, 1, .RO, 0⟩
abbrev WE_PORT_STATUS.REQ_CREDITS : Fld := ⟨.WE_PORT_STATUS, 0, 8, 8, .RO, 0⟩
abbrev WE_PORT_STATUS.RSP_CREDITS : Fld := ⟨.WE_PORT_STATUS, 0, 16, 8, .RO, 0⟩
abbrev WE_PORT_STATUS.DOWN_COUNT : Fld := ⟨.WE_PORT_STATUS, 0, 32, 16, .RO, 0⟩
abbrev WE_ROUTE.PORT_MASK : Fld := ⟨.WE_ROUTE, 0, 0, 16, .RW, 0⟩
abbrev WE_LBW.GUAR_GBPS : Fld := ⟨.WE_LBW, 0, 0, 16, .RW, 0⟩
abbrev WE_LBW.CAP_GBPS : Fld := ⟨.WE_LBW, 0, 16, 16, .RW, 0⟩
abbrev WE_WERR.CAUSE : Fld := ⟨.WE_WERR, 0, 0, 8, .RO, 0⟩
abbrev WE_WERR.REMOTE_DIE : Fld := ⟨.WE_WERR, 0, 8, 16, .RO, 0⟩
abbrev WE_WERR.WINDOW_ID : Fld := ⟨.WE_WERR, 0, 24, 12, .RO, 0⟩
abbrev WE_WTAB.VALID : Fld := ⟨.WE_WTAB, 0, 0, 1, .RO, 0⟩
abbrev WE_WTAB.CONTEXT : Fld := ⟨.WE_WTAB, 0, 1, 12, .RO, 0⟩
abbrev WE_WTAB.SEGMENT : Fld := ⟨.WE_WTAB, 0, 13, 4, .RO, 0⟩
abbrev WE_WTAB.OP_READ : Fld := ⟨.WE_WTAB, 0, 17, 1, .RO, 0⟩
abbrev WE_WTAB.OP_WRITE : Fld := ⟨.WE_WTAB, 0, 18, 1, .RO, 0⟩
abbrev WE_WTAB.OP_REDUCE : Fld := ⟨.WE_WTAB, 0, 19, 1, .RO, 0⟩
abbrev WE_WTAB.OP_FENCE : Fld := ⟨.WE_WTAB, 0, 20, 1, .RO, 0⟩
abbrev WE_WTAB.OP_ATOMIC : Fld := ⟨.WE_WTAB, 0, 21, 1, .RO, 0⟩
abbrev WE_WTAB.SEAL_REQ : Fld := ⟨.WE_WTAB, 0, 22, 1, .RO, 0⟩
abbrev WE_WTAB.SRC_DIE : Fld := ⟨.WE_WTAB, 0, 32, 16, .RO, 0⟩
abbrev WE_WTAB.SRC_MASK : Fld := ⟨.WE_WTAB, 0, 48, 16, .RO, 0⟩
abbrev WE_WTAB.BASE : Fld := ⟨.WE_WTAB, 1, 0, 45, .RO, 0⟩
abbrev WE_WTAB.LIMIT : Fld := ⟨.WE_WTAB, 2, 0, 45, .RO, 0⟩
abbrev WE_WTAB.LOCAL_BASE : Fld := ⟨.WE_WTAB, 3, 0, 44, .RO, 0⟩
abbrev RF_ERR.CE_COUNT : Fld := ⟨.RF_ERR, 0, 0, 32, .RO, 0⟩
abbrev RF_ERR.LAST_CE_STOP : Fld := ⟨.RF_ERR, 0, 32, 8, .RO, 0⟩
abbrev LC_CFG.PF_ENABLE : Fld := ⟨.LC_CFG, 0, 0, 1, .RW, 1⟩
abbrev LC_CFG.PF_DEPTH : Fld := ⟨.LC_CFG, 0, 8, 5, .RW, 4⟩
abbrev LC_CFG.PF_DEPTH_EAGER : Fld := ⟨.LC_CFG, 0, 16, 5, .RW, 16⟩
abbrev LC_STATUS.PAR_CORRECTED : Fld := ⟨.LC_STATUS, 0, 0, 16, .RO, 0⟩
abbrev LC_STATUS.PAR_LOST : Fld := ⟨.LC_STATUS, 0, 16, 16, .RO, 0⟩
abbrev DIR_CFG.SWEEP_INTERVAL : Fld := ⟨.DIR_CFG, 0, 0, 16, .RW, 4096⟩
abbrev DIR_STATUS.PAR_CORRECTED : Fld := ⟨.DIR_STATUS, 0, 0, 16, .RO, 0⟩
abbrev DIR_STATUS.RECLAIMED : Fld := ⟨.DIR_STATUS, 0, 16, 16, .RO, 0⟩
abbrev DIR_STATUS.DIR_EVICTS : Fld := ⟨.DIR_STATUS, 0, 32, 16, .RO, 0⟩
abbrev DIR_LLOG_STATUS.PRODUCED : Fld := ⟨.DIR_LLOG_STATUS, 0, 0, 32, .RO, 0⟩
abbrev DIR_LLOG_STATUS.OVERFLOW : Fld := ⟨.DIR_LLOG_STATUS, 0, 32, 1, .W1C, 0⟩
abbrev DIR_LLOG_CONS.CONSUMED : Fld := ⟨.DIR_LLOG_CONS, 0, 0, 32, .RWS, 0⟩
abbrev LC_SCRUB_CFG.PERIOD_S : Fld := ⟨.LC_SCRUB_CFG, 0, 0, 16, .RW, 600⟩
abbrev LC_SCRUB_CFG.PASSES : Fld := ⟨.LC_SCRUB_CFG, 0, 32, 16, .RO, 0⟩
abbrev LC_ACLASS.WAY_MASK : Fld := ⟨.LC_ACLASS, 0, 0, 16, .RW, 65535⟩
abbrev LC_ACLASS.QUOTA : Fld := ⟨.LC_ACLASS, 0, 16, 15, .RW, 24576⟩
abbrev LC_SLICE_STATUS.VALID_LINES : Fld := ⟨.LC_SLICE_STATUS, 0, 0, 15, .RO, 0⟩
abbrev LC_SLICE_STATUS.DIRTY_LINES : Fld := ⟨.LC_SLICE_STATUS, 0, 16, 15, .RO, 0⟩
abbrev LC_SLICE_STATUS.DIR_ENTRIES : Fld := ⟨.LC_SLICE_STATUS, 0, 32, 16, .RO, 0⟩
abbrev LC_SLICE_STATUS.SIDE_LINES : Fld := ⟨.LC_SLICE_STATUS, 0, 48, 7, .RO, 0⟩
abbrev LC_OCC.LINES : Fld := ⟨.LC_OCC, 0, 0, 15, .RO, 0⟩
abbrev DIR_LLOG.LINE : Fld := ⟨.DIR_LLOG, 0, 0, 43, .RO, 0⟩
abbrev DIR_LLOG.SLICE : Fld := ⟨.DIR_LLOG, 0, 43, 9, .RO, 0⟩
abbrev DIR_LLOG.OWNED : Fld := ⟨.DIR_LLOG, 0, 52, 1, .RO, 0⟩
abbrev DIR_LLOG.CAUSE : Fld := ⟨.DIR_LLOG, 0, 53, 3, .RO, 0⟩
abbrev DIR_LLOG.CLUSTER : Fld := ⟨.DIR_LLOG, 0, 56, 6, .RO, 0⟩
abbrev DIR_LLOG.TIME : Fld := ⟨.DIR_LLOG, 1, 0, 64, .RO, 0⟩
abbrev MC_CFG.AUTO_SCRUB : Fld := ⟨.MC_CFG, 0, 0, 1, .RW, 1⟩
abbrev MC_CFG.ZSE_DISABLE : Fld := ⟨.MC_CFG, 0, 1, 1, .RW, 0⟩
abbrev MC_CFG.MAINT_PCT : Fld := ⟨.MC_CFG, 0, 8, 8, .RW, 3⟩
abbrev MC_CFG.GUAR_LIMIT_GBPS : Fld := ⟨.MC_CFG, 0, 16, 16, .RW, 1638⟩
abbrev MC_CFG.TEMP_THROTTLE_C : Fld := ⟨.MC_CFG, 0, 32, 8, .RW, 105⟩
abbrev MC_CFG.PHY_RETRIES : Fld := ⟨.MC_CFG, 0, 40, 4, .RW, 2⟩
abbrev MC_STATUS.MODE : Fld := ⟨.MC_STATUS, 0, 0, 2, .RO, 0⟩
abbrev MC_STATUS.NMAP_READY : Fld := ⟨.MC_STATUS, 0, 2, 1, .RO, 0⟩
abbrev MC_STATUS.THROTTLE : Fld := ⟨.MC_STATUS, 0, 3, 1, .RO, 0⟩
abbrev MC_STATUS.PRESENT_PAGES : Fld := ⟨.MC_STATUS, 0, 8, 12, .RO, 0⟩
abbrev MC_STATUS.NMAP_PAGES : Fld := ⟨.MC_STATUS, 0, 20, 4, .RO, 0⟩
abbrev MC_STATUS.CFG_REJECT : Fld := ⟨.MC_STATUS, 0, 32, 16, .RO, 0⟩
abbrev MC_TEMP.TEMP_C : Fld := ⟨.MC_TEMP, 0, 0, 8, .RO, 0⟩
abbrev MC_TEMP.BAND : Fld := ⟨.MC_TEMP, 0, 8, 2, .RO, 0⟩
abbrev MC_TEMP.BAND3_COUNT : Fld := ⟨.MC_TEMP, 0, 16, 16, .RO, 0⟩
abbrev MC_ERR.CE_COUNT : Fld := ⟨.MC_ERR, 0, 0, 32, .RO, 0⟩
abbrev MC_ERR.UE_COUNT : Fld := ⟨.MC_ERR, 0, 32, 16, .RO, 0⟩
abbrev MC_ERR.PHY_RETRY_COUNT : Fld := ⟨.MC_ERR, 0, 48, 16, .RO, 0⟩
abbrev MC_UE_STATUS.COUNT : Fld := ⟨.MC_UE_STATUS, 0, 0, 5, .RO, 0⟩
abbrev MC_UE_STATUS.OVERFLOW : Fld := ⟨.MC_UE_STATUS, 0, 5, 1, .W1C, 0⟩
abbrev MC_UE_STATUS.CLEAR : Fld := ⟨.MC_UE_STATUS, 0, 6, 1, .WO, 0⟩
abbrev MC_PATROL.PASS_HOURS : Fld := ⟨.MC_PATROL, 0, 0, 8, .RW, 24⟩
abbrev MC_PATROL.PASSES : Fld := ⟨.MC_PATROL, 0, 16, 16, .RO, 0⟩
abbrev MC_PATROL.NMAP_PASSES : Fld := ⟨.MC_PATROL, 0, 32, 16, .RO, 0⟩
abbrev MC_PATROL.BEHIND : Fld := ⟨.MC_PATROL, 0, 48, 16, .RO, 0⟩
abbrev MC_PATROL_POS.LINE : Fld := ⟨.MC_PATROL_POS, 0, 0, 43, .RO, 0⟩
abbrev MC_UE_LOG.LINE : Fld := ⟨.MC_UE_LOG, 0, 0, 43, .RO, 0⟩
abbrev MC_UE_LOG.NMAP : Fld := ⟨.MC_UE_LOG, 0, 43, 1, .RO, 0⟩
abbrev MC_UE_LOG.SOURCE : Fld := ⟨.MC_UE_LOG, 0, 44, 3, .RO, 0⟩
abbrev MC_UE_LOG.SLICE : Fld := ⟨.MC_UE_LOG, 0, 47, 9, .RO, 0⟩
abbrev MC_UE_LOG.OWNED : Fld := ⟨.MC_UE_LOG, 0, 56, 1, .RO, 0⟩
abbrev MC_UE_LOG.TIME : Fld := ⟨.MC_UE_LOG, 1, 0, 64, .RO, 0⟩
abbrev MC_SBW.GUAR_GBPS : Fld := ⟨.MC_SBW, 0, 0, 16, .RW, 0⟩
abbrev MC_SBW.CAP_GBPS : Fld := ⟨.MC_SBW, 0, 16, 16, .RW, 0⟩
abbrev SE_STATUS.BLOCKED : Fld := ⟨.SE_STATUS, 0, 0, 16, .RO, 0⟩
abbrev SE_STATUS.DECL : Fld := ⟨.SE_STATUS, 0, 16, 16, .RO, 0⟩
abbrev SE_STATUS.BUSY : Fld := ⟨.SE_STATUS, 0, 32, 16, .RO, 0⟩
abbrev SE_STATUS.TAG_ACCESS : Fld := ⟨.SE_STATUS, 0, 48, 16, .RO, 0⟩
abbrev SE_ERR.HM_FAIL : Fld := ⟨.SE_ERR, 0, 0, 16, .RO, 0⟩
abbrev SE_ERR.MISMATCH : Fld := ⟨.SE_ERR, 0, 16, 16, .RO, 0⟩
abbrev SE_ERR.LINK_FAIL : Fld := ⟨.SE_ERR, 0, 32, 16, .RO, 0⟩
abbrev SE_ERR.CFG_REJECT : Fld := ⟨.SE_ERR, 0, 48, 16, .RO, 0⟩
abbrev SE_ALARM.VALID : Fld := ⟨.SE_ALARM, 0, 0, 1, .W1C, 0⟩
abbrev SE_ALARM.KIND : Fld := ⟨.SE_ALARM, 0, 1, 2, .RO, 0⟩
abbrev SE_ALARM.SLOT : Fld := ⟨.SE_ALARM, 0, 3, 6, .RO, 0⟩
abbrev SE_ALARM.PORT : Fld := ⟨.SE_ALARM, 0, 9, 4, .RO, 0⟩
abbrev SE_ALARM.LINE : Fld := ⟨.SE_ALARM, 0, 13, 43, .RO, 0⟩
abbrev SE_SLOT0.FIRST_PAGE : Fld := ⟨.SE_SLOT0, 0, 0, 15, .RWL, 0⟩
abbrev SE_SLOT0.COUNT : Fld := ⟨.SE_SLOT0, 0, 16, 15, .RWL, 0⟩
abbrev SE_SLOT0.CLASS : Fld := ⟨.SE_SLOT0, 0, 32, 2, .RWL, 0⟩
abbrev SE_SLOT0.TAG_PAGE : Fld := ⟨.SE_SLOT0, 0, 34, 15, .RWL, 0⟩
abbrev SE_SLOT0.ENABLE : Fld := ⟨.SE_SLOT0, 0, 49, 1, .RWL, 0⟩
abbrev SE_SLOT.STATE : Fld := ⟨.SE_SLOT, 0, 0, 2, .RO, 0⟩
abbrev SE_SLOT.CLASS : Fld := ⟨.SE_SLOT, 0, 2, 2, .RO, 0⟩
abbrev SE_SLOT.SLICE : Fld := ⟨.SE_SLOT, 0, 4, 9, .RO, 0⟩
abbrev SE_SLOT.STACK : Fld := ⟨.SE_SLOT, 0, 13, 3, .RO, 0⟩
abbrev SE_SLOT.GENERATION : Fld := ⟨.SE_SLOT, 0, 16, 16, .RO, 0⟩
abbrev SE_SLOT.FIRST_PAGE : Fld := ⟨.SE_SLOT, 0, 32, 15, .RO, 0⟩
abbrev SE_SLOT.COUNT : Fld := ⟨.SE_SLOT, 0, 48, 15, .RO, 0⟩
abbrev SE_SLOT.TAG_PAGE : Fld := ⟨.SE_SLOT, 1, 0, 15, .RO, 0⟩
abbrev SE_LINK.STATE : Fld := ⟨.SE_LINK, 0, 0, 2, .RO, 0⟩
abbrev SE_LINK.PEER_DIE : Fld := ⟨.SE_LINK, 0, 16, 16, .RO, 0⟩
abbrev SE_LINK.FAILS : Fld := ⟨.SE_LINK, 0, 32, 16, .RO, 0⟩
abbrev SE_LINK_TXC.COUNT : Fld := ⟨.SE_LINK_TXC, 0, 0, 64, .RO, 0⟩
abbrev SE_LINK_RXC.COUNT : Fld := ⟨.SE_LINK_RXC, 0, 0, 64, .RO, 0⟩
abbrev SO_CFG.HELP_ENABLE : Fld := ⟨.SO_CFG, 0, 0, 1, .RW, 1⟩
abbrev SO_STATUS.STATE : Fld := ⟨.SO_STATUS, 0, 0, 2, .RO, 0⟩
abbrev SO_STATUS.LEAD_QUEUED : Fld := ⟨.SO_STATUS, 0, 8, 12, .RO, 0⟩
abbrev SO_STATUS.SELECT_QUEUED : Fld := ⟨.SO_STATUS, 0, 32, 12, .RO, 0⟩
abbrev SO_STATUS.CONTEXT : Fld := ⟨.SO_STATUS, 0, 48, 12, .RO, 0⟩
abbrev SO_STATUS.CONTEXT_VALID : Fld := ⟨.SO_STATUS, 0, 60, 1, .RO, 0⟩
abbrev SO_COUNT.COMPLETED : Fld := ⟨.SO_COUNT, 0, 0, 32, .RO, 0⟩
abbrev SO_COUNT.RESTARTS : Fld := ⟨.SO_COUNT, 0, 32, 16, .RO, 0⟩
abbrev SO_COUNT.CANCELS : Fld := ⟨.SO_COUNT, 0, 48, 16, .RO, 0⟩
abbrev SO_BUSY.BUSY_NS : Fld := ⟨.SO_BUSY, 0, 0, 64, .RO, 0⟩
abbrev SO_ERR.PARITY : Fld := ⟨.SO_ERR, 0, 0, 16, .RO, 0⟩
abbrev SO_ERR.REPEAT : Fld := ⟨.SO_ERR, 0, 16, 16, .RO, 0⟩
abbrev CR_CFG.SR_ENABLE : Fld := ⟨.CR_CFG, 0, 0, 1, .RW, 1⟩
abbrev CR_STATUS.CFG_REJECT : Fld := ⟨.CR_STATUS, 0, 0, 16, .RO, 0⟩
abbrev CR_SEED.SEED : Fld := ⟨.CR_SEED, 0, 0, 64, .RW, 0⟩
abbrev CR_OPS.LINES : Fld := ⟨.CR_OPS, 0, 0, 64, .RO, 0⟩
abbrev CR_EXC.NAN : Fld := ⟨.CR_EXC, 0, 0, 16, .RO, 0⟩
abbrev CR_EXC.SAT : Fld := ⟨.CR_EXC, 0, 16, 16, .RO, 0⟩
abbrev CR_EXC.INF : Fld := ⟨.CR_EXC, 0, 32, 16, .RO, 0⟩
abbrev CR_EXC.MISMATCH : Fld := ⟨.CR_EXC, 0, 48, 16, .RO, 0⟩
abbrev CR_MX.BLOCKS : Fld := ⟨.CR_MX, 0, 0, 32, .RO, 0⟩
abbrev CR_MX.REFUSED : Fld := ⟨.CR_MX, 0, 32, 16, .RO, 0⟩
abbrev AY_CFG.QUIET_TICKS : Fld := ⟨.AY_CFG, 0, 0, 16, .RWS, 400⟩
abbrev AY_CFG.RECOVERY_LIMIT : Fld := ⟨.AY_CFG, 0, 16, 8, .RWS, 8⟩
abbrev AY_CFG.WDOG_TICKS : Fld := ⟨.AY_CFG, 0, 24, 16, .RWS, 20⟩
abbrev AY_CFG.MSIX_VECTOR : Fld := ⟨.AY_CFG, 0, 40, 11, .RW, 0⟩
abbrev AY_CFG.CE_NOTIFY : Fld := ⟨.AY_CFG, 0, 51, 1, .RW, 0⟩
abbrev AY_STATUS.ALIVE : Fld := ⟨.AY_STATUS, 0, 0, 1, .RO, 0⟩
abbrev AY_STATUS.STOPPED : Fld := ⟨.AY_STATUS, 0, 1, 1, .RO, 0⟩
abbrev AY_STATUS.HANDLING : Fld := ⟨.AY_STATUS, 0, 2, 1, .RO, 0⟩
abbrev AY_STATUS.LIMIT_HIT : Fld := ⟨.AY_STATUS, 0, 3, 1, .RO, 0⟩
abbrev AY_STATUS.QUIET_COUNT : Fld := ⟨.AY_STATUS, 0, 16, 16, .RO, 0⟩
abbrev AY_STATUS.INTAKE_MAX : Fld := ⟨.AY_STATUS, 0, 32, 9, .RO, 0⟩
abbrev AY_STATUS.MERGED : Fld := ⟨.AY_STATUS, 0, 48, 16, .RO, 0⟩
abbrev AY_RECOVERY.RECOVERIES : Fld := ⟨.AY_RECOVERY, 0, 0, 32, .RWS, 0⟩
abbrev AY_RECOVERY.DIE_COUNT : Fld := ⟨.AY_RECOVERY, 0, 32, 16, .RO, 0⟩
abbrev AY_ALARM.SEC_ALARM : Fld := ⟨.AY_ALARM, 0, 0, 1, .W1C, 0⟩
abbrev AY_WDOG.KICK : Fld := ⟨.AY_WDOG, 0, 0, 1, .WO, 0⟩
abbrev AY_WDOG.ARMED : Fld := ⟨.AY_WDOG, 0, 1, 1, .RO, 0⟩
abbrev AY_INJECT.KIND : Fld := ⟨.AY_INJECT, 0, 0, 2, .RW, 0⟩
abbrev AY_INJECT.SYMBOLS : Fld := ⟨.AY_INJECT, 0, 2, 2, .RW, 0⟩
abbrev AY_INJECT.ARM : Fld := ⟨.AY_INJECT, 0, 4, 1, .RW, 0⟩
abbrev AY_INJECT.INSTANCE : Fld := ⟨.AY_INJECT, 0, 8, 8, .RW, 0⟩
abbrev AY_INJECT.CAUSE : Fld := ⟨.AY_INJECT, 0, 16, 16, .RW, 0⟩
abbrev AY_INJECT_ADDR.LINE : Fld := ⟨.AY_INJECT_ADDR, 0, 7, 43, .RW, 0⟩
abbrev AY_INJECT_STATUS.FIRED : Fld := ⟨.AY_INJECT_STATUS, 0, 0, 1, .W1C, 0⟩
abbrev AY_INJECT_STATUS.REFUSED : Fld := ⟨.AY_INJECT_STATUS, 0, 1, 1, .W1C, 0⟩
abbrev AY_INJECT_STATUS.FIRE_COUNT : Fld := ⟨.AY_INJECT_STATUS, 0, 16, 16, .RO, 0⟩
abbrev AY_SLICE_PEND.PEND : Fld := ⟨.AY_SLICE_PEND, 0, 0, 64, .W1C, 0⟩
abbrev AY_COUNT.COUNT : Fld := ⟨.AY_COUNT, 0, 0, 32, .RO, 0⟩
abbrev CH_CFG.COUNT_ENABLE : Fld := ⟨.CH_CFG, 0, 0, 1, .RW, 1⟩
abbrev CH_STATUS.CFG_REJECT : Fld := ⟨.CH_STATUS, 0, 0, 16, .RO, 0⟩
abbrev CH_STATUS.WATCH_IGNORED : Fld := ⟨.CH_STATUS, 0, 16, 32, .RO, 0⟩
abbrev CH_TIME.TIME : Fld := ⟨.CH_TIME, 0, 0, 64, .RO, 0⟩
abbrev CH_TIME_LOAD.TIME : Fld := ⟨.CH_TIME_LOAD, 0, 0, 64, .WO, 0⟩
abbrev CH_SWEEP.NUMBER : Fld := ⟨.CH_SWEEP, 0, 0, 32, .RO, 0⟩
abbrev CH_SWEEP.BUSY : Fld := ⟨.CH_SWEEP, 0, 32, 1, .RO, 0⟩
abbrev CH_SWEEP_TIME.TIME : Fld := ⟨.CH_SWEEP_TIME, 0, 0, 64, .RO, 0⟩
abbrev CH_FREEZE_TIME.TIME : Fld := ⟨.CH_FREEZE_TIME, 0, 0, 64, .RW, 0⟩
abbrev CH_FREEZE_CTL.ARM : Fld := ⟨.CH_FREEZE_CTL, 0, 0, 1, .RW, 0⟩
abbrev CH_FREEZE_CTL.DONE : Fld := ⟨.CH_FREEZE_CTL, 0, 1, 1, .W1C, 0⟩
abbrev CH_FREEZE_CTL.LATE : Fld := ⟨.CH_FREEZE_CTL, 0, 2, 1, .RO, 0⟩
abbrev CH_FREEZE_CTL.COARSE : Fld := ⟨.CH_FREEZE_CTL, 0, 3, 1, .RO, 0⟩
abbrev CH_CLEAR.FIRST : Fld := ⟨.CH_CLEAR, 0, 0, 13, .WO, 0⟩
abbrev CH_CLEAR.COUNT : Fld := ⟨.CH_CLEAR, 0, 16, 13, .WO, 0⟩
abbrev CH_LATCH.NUMBER : Fld := ⟨.CH_LATCH, 0, 0, 64, .RO, 0⟩
abbrev CH_BWMON.SOURCE : Fld := ⟨.CH_BWMON, 0, 0, 4, .RW, 0⟩
abbrev CH_BWMON.INSTANCE : Fld := ⟨.CH_BWMON, 0, 4, 9, .RW, 0⟩
abbrev CH_BWMON.DIR : Fld := ⟨.CH_BWMON, 0, 13, 1, .RW, 0⟩
abbrev CH_BWMON.WINDOW_US : Fld := ⟨.CH_BWMON, 0, 32, 20, .RW, 0⟩
abbrev CH_BWLAST.BYTES : Fld := ⟨.CH_BWLAST, 0, 0, 48, .RO, 0⟩
abbrev CH_BWLAST.STEPPED : Fld := ⟨.CH_BWLAST, 0, 48, 1, .RO, 0⟩
abbrev CH_BWPEAK.PEAK : Fld := ⟨.CH_BWPEAK, 0, 0, 48, .RO, 0⟩
abbrev CH_BWPEAK.CLEAR : Fld := ⟨.CH_BWPEAK, 0, 63, 1, .WO, 0⟩
abbrev CH_BWCOUNT.WINDOWS : Fld := ⟨.CH_BWCOUNT, 0, 0, 32, .RO, 0⟩
abbrev CH_WATCH.OPEN : Fld := ⟨.CH_WATCH, 0, 0, 1, .RO, 0⟩
abbrev CH_WATCH.CONTEXT : Fld := ⟨.CH_WATCH, 0, 1, 12, .RO, 0⟩
abbrev CH_WATCH.SLICE : Fld := ⟨.CH_WATCH, 0, 13, 9, .RO, 0⟩
abbrev CH_WATCH.FORMAT : Fld := ⟨.CH_WATCH, 0, 22, 6, .RO, 0⟩
abbrev CH_WATCH.DROPPED : Fld := ⟨.CH_WATCH, 0, 32, 16, .RO, 0⟩
abbrev CH_WATCH_SEQ.EPOCH : Fld := ⟨.CH_WATCH_SEQ, 0, 0, 32, .RO, 0⟩
abbrev CH_WATCH_SEQ.PRODUCED : Fld := ⟨.CH_WATCH_SEQ, 0, 32, 32, .RO, 0⟩
abbrev CH_VIS.SNAP_ENABLE : Fld := ⟨.CH_VIS, 0, 0, 1, .RW, 0⟩
abbrev CH_WATCH_MASK.MASK : Fld := ⟨.CH_WATCH_MASK, 0, 0, 64, .RW, 0⟩
abbrev CH_SNAP.ENTRY : Fld := ⟨.CH_SNAP, 0, 0, 64, .RO, 0⟩
abbrev CH_FRZ.ENTRY : Fld := ⟨.CH_FRZ, 0, 0, 64, .RO, 0⟩
abbrev CH_LIVE.ENTRY : Fld := ⟨.CH_LIVE, 0, 0, 64, .RO, 0⟩
abbrev TS_LC.STATE : Fld := ⟨.TS_LC, 0, 0, 3, .RO, 0⟩
abbrev TS_LC.TARGET : Fld := ⟨.TS_LC, 0, 3, 3, .RO, 0⟩
abbrev TS_LC.PROGRAMMING : Fld := ⟨.TS_LC, 0, 6, 1, .RO, 0⟩
abbrev TS_LC.OTP_ERR : Fld := ⟨.TS_LC, 0, 7, 1, .RO, 0⟩
abbrev TS_LC.MIN_SVN : Fld := ⟨.TS_LC, 0, 8, 6, .RO, 0⟩
abbrev TS_LC_WORD.WORD : Fld := ⟨.TS_LC_WORD, 0, 0, 64, .RO, 0⟩
abbrev TS_LC_REQ.TARGET : Fld := ⟨.TS_LC_REQ, 0, 0, 3, .WO, 0⟩
abbrev TS_LC_REQ.CONFIRM : Fld := ⟨.TS_LC_REQ, 0, 48, 16, .WO, 0⟩
abbrev TS_FW_STATUS.RESULT : Fld := ⟨.TS_FW_STATUS, 0, 0, 4, .RO, 0⟩
abbrev TS_FW_STATUS.KEY_INDEX : Fld := ⟨.TS_FW_STATUS, 0, 4, 2, .RO, 0⟩
abbrev TS_FW_STATUS.UNSIGNED : Fld := ⟨.TS_FW_STATUS, 0, 6, 1, .RO, 0⟩
abbrev TS_FW_STATUS.SVN : Fld := ⟨.TS_FW_STATUS, 0, 8, 6, .RO, 0⟩
abbrev TS_FW_STATUS.TIME_US : Fld := ⟨.TS_FW_STATUS, 0, 32, 16, .RO, 0⟩
abbrev TS_SVN_ADVANCE.SVN : Fld := ⟨.TS_SVN_ADVANCE, 0, 0, 6, .WO, 0⟩
abbrev TS_KEYS.REVOKED : Fld := ⟨.TS_KEYS, 0, 0, 4, .RO, 0⟩
abbrev TS_KEYS.PRESENT : Fld := ⟨.TS_KEYS, 0, 4, 4, .RO, 0⟩
abbrev TS_KEY_REVOKE.MASK : Fld := ⟨.TS_KEY_REVOKE, 0, 0, 4, .WO, 0⟩
abbrev TS_DEBUG.STATE : Fld := ⟨.TS_DEBUG, 0, 0, 2, .RO, 0⟩
abbrev TS_DEBUG.MEM : Fld := ⟨.TS_DEBUG, 0, 2, 1, .RO, 0⟩
abbrev TS_DEBUG.FAILS : Fld := ⟨.TS_DEBUG, 0, 16, 16, .RO, 0⟩
abbrev TS_KEX_CTL.PORT : Fld := ⟨.TS_KEX_CTL, 0, 0, 4, .WO, 0⟩
abbrev TS_KEX_CTL.ACTION : Fld := ⟨.TS_KEX_CTL, 0, 4, 3, .WO, 0⟩
abbrev TS_KEX_STATUS.BUSY : Fld := ⟨.TS_KEX_STATUS, 0, 0, 1, .RO, 0⟩
abbrev TS_KEX_STATUS.STAGED : Fld := ⟨.TS_KEX_STATUS, 0, 1, 1, .RO, 0⟩
abbrev TS_KEX_STATUS.ERROR : Fld := ⟨.TS_KEX_STATUS, 0, 2, 1, .W1C, 0⟩
abbrev TS_KEX_STATUS.LENGTH : Fld := ⟨.TS_KEX_STATUS, 0, 16, 16, .RO, 0⟩
abbrev TS_ID_PUB.KEY : Fld := ⟨.TS_ID_PUB, 0, 0, 64, .RO, 0⟩
abbrev TS_KEX_BUF.DATA : Fld := ⟨.TS_KEX_BUF, 0, 0, 64, .RW, 0⟩
abbrev ST_ID.REGIONS : Fld := ⟨.ST_ID, 0, 0, 8, .RO, 8⟩
abbrev ST_ID.CLUSTERS : Fld := ⟨.ST_ID, 0, 8, 8, .RO, 64⟩
abbrev ST_ID.RELEASE : Fld := ⟨.ST_ID, 0, 16, 8, .RO, 6⟩
abbrev ST_ID.STEPPING : Fld := ⟨.ST_ID, 0, 24, 8, .RO, 0⟩
abbrev ST_ID.MESH_COLUMNS : Fld := ⟨.ST_ID, 0, 32, 8, .RO, 4⟩
abbrev ST_DIE_ID.DIE_ID : Fld := ⟨.ST_DIE_ID, 0, 0, 16, .RWL, 0⟩
abbrev ST_DIE_ID.VALID : Fld := ⟨.ST_DIE_ID, 0, 16, 1, .RWL, 0⟩
abbrev ST_TICK.TICK_COUNT : Fld := ⟨.ST_TICK, 0, 0, 48, .RO, 0⟩
abbrev ST_TICK.OVERRUN_COUNT : Fld := ⟨.ST_TICK, 0, 48, 16, .RO, 0⟩
abbrev ST_REGION_CTL.GATE_POLICY : Fld := ⟨.ST_REGION_CTL, 0, 0, 2, .RW, 0⟩
abbrev ST_REGION_CTL.FREQ_CODE : Fld := ⟨.ST_REGION_CTL, 0, 8, 8, .RW, 200⟩
abbrev ST_REGION_CTL.IDLE_TICKS : Fld := ⟨.ST_REGION_CTL, 0, 16, 8, .RW, 1⟩
abbrev ST_REGION_STATUS.POWER : Fld := ⟨.ST_REGION_STATUS, 0, 0, 2, .RO, 2⟩
abbrev ST_REGION_STATUS.FREQ_NOW : Fld := ⟨.ST_REGION_STATUS, 0, 8, 8, .RO, 200⟩
abbrev ST_REGION_STATUS.TIME_FINE : Fld := ⟨.ST_REGION_STATUS, 0, 16, 1, .RO, 0⟩
abbrev ST_REGION_STATUS.FREQ_CLAMP : Fld := ⟨.ST_REGION_STATUS, 0, 17, 1, .W1C, 0⟩
abbrev ST_REGION_STATUS.WAKE_COUNT : Fld := ⟨.ST_REGION_STATUS, 0, 32, 16, .RO, 0⟩
abbrev ST_REGION_STATUS.ABANDON_COUNT : Fld := ⟨.ST_REGION_STATUS, 0, 48, 16, .RO, 0⟩
abbrev ST_FOREMAN_STATUS.WAITS : Fld := ⟨.ST_FOREMAN_STATUS, 0, 0, 16, .RO, 0⟩
abbrev ST_FOREMAN_STATUS.PAUSES : Fld := ⟨.ST_FOREMAN_STATUS, 0, 16, 16, .RO, 0⟩
abbrev ST_FOREMAN_STATUS.SKIPS : Fld := ⟨.ST_FOREMAN_STATUS, 0, 32, 16, .RO, 0⟩
abbrev ST_FOREMAN_STATUS.MERGES : Fld := ⟨.ST_FOREMAN_STATUS, 0, 48, 16, .RO, 0⟩
abbrev ST_RETRAIN.REQ : Fld := ⟨.ST_RETRAIN, 0, 0, 8, .W1S, 0⟩
abbrev ST_BOOT.PHASE : Fld := ⟨.ST_BOOT, 0, 0, 3, .RO, 0⟩
abbrev ST_BOOT.NO_SETTINGS : Fld := ⟨.ST_BOOT, 0, 3, 1, .RO, 0⟩
abbrev ST_BOOT.SETTINGS_COPY : Fld := ⟨.ST_BOOT, 0, 4, 1, .RO, 0⟩
abbrev ST_BOOT.FLASH_TIMEOUT : Fld := ⟨.ST_BOOT, 0, 5, 1, .RO, 0⟩
abbrev ST_BOOT.TRAIN_FAIL : Fld := ⟨.ST_BOOT, 0, 8, 8, .RO, 0⟩
abbrev ST_BOOT.FLASH_MS : Fld := ⟨.ST_BOOT, 0, 16, 16, .RO, 0⟩
abbrev ST_BOOT.TRAIN_MS : Fld := ⟨.ST_BOOT, 0, 32, 16, .RO, 0⟩
abbrev ST_BOOT.LOG_BAD : Fld := ⟨.ST_BOOT, 0, 48, 16, .RO, 0⟩
abbrev ST_RESET.WARM : Fld := ⟨.ST_RESET, 0, 0, 1, .WO, 0⟩
abbrev ST_RESET.COLD : Fld := ⟨.ST_RESET, 0, 1, 1, .WO, 0⟩
abbrev ST_RESET.KEY : Fld := ⟨.ST_RESET, 0, 48, 16, .WO, 0⟩
abbrev ST_SEAL.SEALED : Fld := ⟨.ST_SEAL, 0, 0, 1, .W1S, 0⟩
abbrev ST_MBOX_CTL.LENGTH : Fld := ⟨.ST_MBOX_CTL, 0, 0, 22, .RW, 0⟩
abbrev ST_MBOX_CTL.GO : Fld := ⟨.ST_MBOX_CTL, 0, 24, 1, .WO, 0⟩
abbrev ST_MBOX_CTL.H2F : Fld := ⟨.ST_MBOX_CTL, 0, 32, 1, .W1S, 0⟩
abbrev ST_MBOX_CTL.F2H : Fld := ⟨.ST_MBOX_CTL, 0, 33, 1, .W1C, 0⟩
abbrev ST_MBOX_CTL.MSIX_VECTOR : Fld := ⟨.ST_MBOX_CTL, 0, 40, 11, .RW, 0⟩
abbrev ST_MBOX_STATUS.RESULT : Fld := ⟨.ST_MBOX_STATUS, 0, 0, 4, .RO, 0⟩
abbrev ST_MBOX_STATUS.ATTEMPTS : Fld := ⟨.ST_MBOX_STATUS, 0, 16, 16, .RO, 0⟩
abbrev ST_MBOX_STATUS.REJECT : Fld := ⟨.ST_MBOX_STATUS, 0, 32, 16, .RO, 0⟩
abbrev ST_PWR_LIMIT.DIE_LIMIT_W : Fld := ⟨.ST_PWR_LIMIT, 0, 0, 16, .RWS, 2100⟩
abbrev ST_PWR_LIMIT.TURRIL_LIMIT_W : Fld := ⟨.ST_PWR_LIMIT, 0, 16, 16, .RWS, 260⟩
abbrev ST_PWR_RLIMIT.LIMIT0 : Fld := ⟨.ST_PWR_RLIMIT, 0, 0, 8, .RWS, 8⟩
abbrev ST_PWR_RLIMIT.LIMIT1 : Fld := ⟨.ST_PWR_RLIMIT, 0, 8, 8, .RWS, 8⟩
abbrev ST_PWR_RLIMIT.LIMIT2 : Fld := ⟨.ST_PWR_RLIMIT, 0, 16, 8, .RWS, 8⟩
abbrev ST_PWR_RLIMIT.LIMIT3 : Fld := ⟨.ST_PWR_RLIMIT, 0, 24, 8, .RWS, 8⟩
abbrev ST_PWR_RLIMIT.LIMIT4 : Fld := ⟨.ST_PWR_RLIMIT, 0, 32, 8, .RWS, 8⟩
abbrev ST_PWR_RLIMIT.LIMIT5 : Fld := ⟨.ST_PWR_RLIMIT, 0, 40, 8, .RWS, 8⟩
abbrev ST_PWR_RLIMIT.LIMIT6 : Fld := ⟨.ST_PWR_RLIMIT, 0, 48, 8, .RWS, 8⟩
abbrev ST_PWR_RLIMIT.LIMIT7 : Fld := ⟨.ST_PWR_RLIMIT, 0, 56, 8, .RWS, 8⟩
abbrev ST_PWR_TOTAL.EST : Fld := ⟨.ST_PWR_TOTAL, 0, 0, 16, .RO, 0⟩
abbrev ST_PWR_TOTAL.OVER : Fld := ⟨.ST_PWR_TOTAL, 0, 16, 1, .RO, 0⟩
abbrev ST_PWR_DOM.EST : Fld := ⟨.ST_PWR_DOM, 0, 0, 16, .RO, 0⟩
abbrev ST_PWR_DOM.CAP : Fld := ⟨.ST_PWR_DOM, 0, 16, 8, .RO, 220⟩
abbrev ST_PWR_DOM.CAPPED : Fld := ⟨.ST_PWR_DOM, 0, 24, 1, .RO, 0⟩
abbrev ST_PWR_DOM.FLOOR : Fld := ⟨.ST_PWR_DOM, 0, 25, 1, .RO, 0⟩
abbrev ST_PWR_DOM.CAP_TICKS : Fld := ⟨.ST_PWR_DOM, 0, 32, 16, .RO, 0⟩

/-! The fields of an Assay record bank, Table 12.4; `b` is the bank's register. -/
abbrev REC.VALID (b : Reg) : Fld := ⟨b, 0, 0, 1, .W1C, 0⟩
abbrev REC.OVERFLOW (b : Reg) : Fld := ⟨b, 0, 1, 1, .RO, 0⟩
abbrev REC.CLASS (b : Reg) : Fld := ⟨b, 0, 2, 2, .RO, 0⟩
abbrev REC.SECURITY (b : Reg) : Fld := ⟨b, 0, 4, 1, .RO, 0⟩
abbrev REC.INJECTED (b : Reg) : Fld := ⟨b, 0, 5, 1, .RO, 0⟩
abbrev REC.ADDR_VALID (b : Reg) : Fld := ⟨b, 0, 6, 1, .RO, 0⟩
abbrev REC.CTX_VALID (b : Reg) : Fld := ⟨b, 0, 7, 1, .RO, 0⟩
abbrev REC.SLICE_VALID (b : Reg) : Fld := ⟨b, 0, 8, 1, .RO, 0⟩
abbrev REC.CAUSE (b : Reg) : Fld := ⟨b, 0, 16, 16, .RO, 0⟩
abbrev REC.UNIT (b : Reg) : Fld := ⟨b, 0, 32, 8, .RO, 0⟩
abbrev REC.INSTANCE (b : Reg) : Fld := ⟨b, 0, 40, 8, .RO, 0⟩
abbrev REC.OVERFLOW_COUNT (b : Reg) : Fld := ⟨b, 0, 48, 16, .RO, 0⟩
abbrev REC.ADDR (b : Reg) : Fld := ⟨b, 1, 0, 50, .RO, 0⟩
abbrev REC.CONTEXT (b : Reg) : Fld := ⟨b, 2, 0, 12, .RO, 0⟩
abbrev REC.SLICE (b : Reg) : Fld := ⟨b, 2, 16, 9, .RO, 0⟩
abbrev REC.DETAIL0 (b : Reg) : Fld := ⟨b, 2, 32, 32, .RO, 0⟩
abbrev REC.TIME (b : Reg) : Fld := ⟨b, 3, 0, 64, .RO, 0⟩
abbrev REC.LAST_TIME (b : Reg) : Fld := ⟨b, 4, 0, 64, .RO, 0⟩
abbrev REC.DETAIL1 (b : Reg) : Fld := ⟨b, 5, 0, 64, .RO, 0⟩
abbrev REC.WORST (b : Reg) : Fld := ⟨b, 6, 0, 2, .RO, 0⟩
abbrev REC.LAST_CAUSE (b : Reg) : Fld := ⟨b, 6, 16, 16, .RO, 0⟩

end F

/-- The fields of a record bank (Table 12.4). -/
def recFields (b : Reg) : List Fld :=
  [F.REC.VALID b, F.REC.OVERFLOW b, F.REC.CLASS b, F.REC.SECURITY b, F.REC.INJECTED b, F.REC.ADDR_VALID b, F.REC.CTX_VALID b, F.REC.SLICE_VALID b, F.REC.CAUSE b, F.REC.UNIT b, F.REC.INSTANCE b, F.REC.OVERFLOW_COUNT b, F.REC.ADDR b, F.REC.CONTEXT b, F.REC.SLICE b, F.REC.DETAIL0 b, F.REC.TIME b, F.REC.LAST_TIME b, F.REC.DETAIL1 b, F.REC.WORST b, F.REC.LAST_CAUSE b]

/-- Every field of a register, in the order of its table. -/
def Reg.fields : Reg → List Fld
  | .SF_STATUS => [F.SF_STATUS.FREE_SLOTS, F.SF_STATUS.QUOTA_ERR, F.SF_STATUS.DB_REJECT, F.SF_STATUS.CFG_REJECT]
  | .SF_PRIV_RING => [F.SF_PRIV_RING.RING, F.SF_PRIV_RING.VALID]
  | .SF_SLOT_QUOTA => [F.SF_SLOT_QUOTA.MIN, F.SF_SLOT_QUOTA.MAX, F.SF_SLOT_QUOTA.IN_USE]
  | .SF_CTX_CFG => [F.SF_CTX_CFG.SLICE, F.SF_CTX_CFG.VALID, F.SF_CTX_CFG.KERNEL, F.SF_CTX_CFG.DIAG, F.SF_CTX_CFG.FAULT_POLICY]
  | .SF_CTX_ERR => [F.SF_CTX_ERR.LOC, F.SF_CTX_ERR.ADDR]
  | .SF_CTX_STATUS => [F.SF_CTX_STATUS.STATE, F.SF_CTX_STATUS.FENCE_REGRESS]
  | .SF_CTX_CTL => [F.SF_CTX_CTL.ACTION]
  | .SF_RING_BASE => [F.SF_RING_BASE.LOC, F.SF_RING_BASE.ADDR]
  | .SF_RING_CPL => [F.SF_RING_CPL.LOC, F.SF_RING_CPL.ADDR]
  | .SF_RING_CTL => [F.SF_RING_CTL.LOG2_SIZE, F.SF_RING_CTL.VERSION, F.SF_RING_CTL.ENABLE, F.SF_RING_CTL.DB_INDEX, F.SF_RING_CTL.CONTEXT, F.SF_RING_CTL.MSIX_VECTOR]
  | .SF_RING_STATUS => [F.SF_RING_STATUS.HEAD, F.SF_RING_STATUS.TAIL]
  | .SM_CFG => [F.SM_CFG.GRACE_TICKS]
  | .SM_STATUS => [F.SM_STATUS.HOST_ISOL, F.SM_STATUS.PASID_MISS, F.SM_STATUS.CFG_REJECT]
  | .SM_PAGES => [F.SM_PAGES.FREE, F.SM_PAGES.UNSCRUBBED, F.SM_PAGES.OWNED, F.SM_PAGES.WITHDRAWN]
  | .SM_POT_SET => [F.SM_POT_SET.PAGE, F.SM_POT_SET.STATE]
  | .SM_SLICE => [F.SM_SLICE.STATE, F.SM_SLICE.KIND, F.SM_SLICE.LENDABLE, F.SM_SLICE.HOMING, F.SM_SLICE.HOME_REGION, F.SM_SLICE.STEP, F.SM_SLICE.CLUSTERS_PENDING, F.SM_SLICE.LOG_ON, F.SM_SLICE.LOG_FAILED, F.SM_SLICE.PAGES, F.SM_SLICE.LOST_CLUSTERS]
  | .SM_SLICE_CLUSTERS => [F.SM_SLICE_CLUSTERS.MASK]
  | .SM_SLICE_BIND => [F.SM_SLICE_BIND.PASID, F.SM_SLICE_BIND.PASID_VALID, F.SM_SLICE_BIND.VF, F.SM_SLICE_BIND.VF_VALID]
  | .SM_SLICE_LOG => [F.SM_SLICE_LOG.BITMAP]
  | .SM_SLICE_ACLASS => [F.SM_SLICE_ACLASS.MASK]
  | .SM_POT => [F.SM_POT.STATE, F.SM_POT.PRESENT, F.SM_POT.ORPHAN, F.SM_POT.SCRUBBING, F.SM_POT.OWNER, F.SM_POT.CAUSE]
  | .TY_CFG => [F.TY_CFG.QUANTUM_US, F.TY_CFG.YIELD_GRACE_Q, F.TY_CFG.LAG_QUANTA, F.TY_CFG.LEND_IDLE_US, F.TY_CFG.LEND_ENABLE]
  | .TY_STATUS => [F.TY_STATUS.OVERRUNS, F.TY_STATUS.FALLBACKS, F.TY_STATUS.DL_MISSES, F.TY_STATUS.RECALLS]
  | .TY_CLUSTER => [F.TY_CLUSTER.STATE, F.TY_CLUSTER.LENT, F.TY_CLUSTER.CONTEXT, F.TY_CLUSTER.SLICE]
  | .TY_SHARE => [F.TY_SHARE.WEIGHT, F.TY_SHARE.EFFECTIVE]
  | .TY_SLICE_STAT => [F.TY_SLICE_STAT.FALLBACKS, F.TY_SLICE_STAT.DL_MISSES, F.TY_SLICE_STAT.OVERRUNS, F.TY_SLICE_STAT.LENT]
  | .TY_CTX_SHARE => [F.TY_CTX_SHARE.WEIGHT, F.TY_CTX_SHARE.EFFECTIVE]
  | .TY_LEDGER_CLUSTER => [F.TY_LEDGER_CLUSTER.CLUSTER_NS]
  | .TY_LEDGER_ENGINE => [F.TY_LEDGER_ENGINE.ENGINE_NS]
  | .TY_RING_DL => [F.TY_RING_DL.ARMED, F.TY_RING_DL.SWITCH_PENDING, F.TY_RING_DL.BYPASSING, F.TY_RING_DL.PASSED, F.TY_RING_DL.MISSES]
  | .STU_CFG => [F.STU_CFG.HOLD_TICKS, F.STU_CFG.DECAY_TICKS, F.STU_CFG.CNT_ENABLE]
  | .STU_STATUS => [F.STU_STATUS.CFG_REJECT, F.STU_STATUS.INV_MAX_US, F.STU_STATUS.INV_COUNT, F.STU_STATUS.INV_ACTIVE]
  | .STU_CNT_CFG => [F.STU_CNT_CFG.THRESH_LOCAL, F.STU_CNT_CFG.THRESH_REMOTE, F.STU_CNT_CFG.THRESH_HOST]
  | .STU_ACNT_CLR => [F.STU_ACNT_CLR.PAGE]
  | .STU_CTX_SEGTAB => [F.STU_CTX_SEGTAB.LOC, F.STU_CTX_SEGTAB.ADDR]
  | .STU_EPOCH => [F.STU_EPOCH.EPOCH, F.STU_EPOCH.HELD, F.STU_EPOCH.STALLED]
  | .STU_CTX_CTL => [F.STU_CTX_CTL.ACTION]
  | .STU_FRING_BASE => [F.STU_FRING_BASE.ADDR]
  | .STU_FRING_CTL => [F.STU_FRING_CTL.LOG2_SIZE, F.STU_FRING_CTL.ENABLE, F.STU_FRING_CTL.MSIX_VECTOR]
  | .STU_FRING_CONS => [F.STU_FRING_CONS.ADDR]
  | .STU_FRING_STATUS => [F.STU_FRING_STATUS.PRODUCED, F.STU_FRING_STATUS.OVERFLOW, F.STU_FRING_STATUS.REPLAY_USED, F.STU_FRING_STATUS.DROPPED]
  | .STU_ACNT => [F.STU_ACNT.LOCAL, F.STU_ACNT.REMOTE, F.STU_ACNT.HOST]
  | .WE_CFG => [F.WE_CFG.RSP_TIMEOUT_US]
  | .WE_STATUS => [F.WE_STATUS.RX_DROP, F.WE_STATUS.RX_NACK, F.WE_STATUS.STALE, F.WE_STATUS.CFG_REJECT]
  | .WE_TIME_CFG => [F.WE_TIME_CFG.ROLE, F.WE_TIME_CFG.PARENT_PORT, F.WE_TIME_CFG.INTERVAL_TICKS, F.WE_TIME_CFG.STEP_NS]
  | .WE_TIME_STATUS => [F.WE_TIME_STATUS.LOCKED, F.WE_TIME_STATUS.TOO_DEEP, F.WE_TIME_STATUS.DEPTH, F.WE_TIME_STATUS.SYNCS, F.WE_TIME_STATUS.OFFSET_NS]
  | .WE_PORT_STATUS => [F.WE_PORT_STATUS.UP, F.WE_PORT_STATUS.REQ_CREDITS, F.WE_PORT_STATUS.RSP_CREDITS, F.WE_PORT_STATUS.DOWN_COUNT]
  | .WE_ROUTE => [F.WE_ROUTE.PORT_MASK]
  | .WE_LBW => [F.WE_LBW.GUAR_GBPS, F.WE_LBW.CAP_GBPS]
  | .WE_WERR => [F.WE_WERR.CAUSE, F.WE_WERR.REMOTE_DIE, F.WE_WERR.WINDOW_ID]
  | .WE_WTAB => [F.WE_WTAB.VALID, F.WE_WTAB.CONTEXT, F.WE_WTAB.SEGMENT, F.WE_WTAB.OP_READ, F.WE_WTAB.OP_WRITE, F.WE_WTAB.OP_REDUCE, F.WE_WTAB.OP_FENCE, F.WE_WTAB.OP_ATOMIC, F.WE_WTAB.SEAL_REQ, F.WE_WTAB.SRC_DIE, F.WE_WTAB.SRC_MASK, F.WE_WTAB.BASE, F.WE_WTAB.LIMIT, F.WE_WTAB.LOCAL_BASE]
  | .RF_ERR => [F.RF_ERR.CE_COUNT, F.RF_ERR.LAST_CE_STOP]
  | .LC_CFG => [F.LC_CFG.PF_ENABLE, F.LC_CFG.PF_DEPTH, F.LC_CFG.PF_DEPTH_EAGER]
  | .LC_STATUS => [F.LC_STATUS.PAR_CORRECTED, F.LC_STATUS.PAR_LOST]
  | .DIR_CFG => [F.DIR_CFG.SWEEP_INTERVAL]
  | .DIR_STATUS => [F.DIR_STATUS.PAR_CORRECTED, F.DIR_STATUS.RECLAIMED, F.DIR_STATUS.DIR_EVICTS]
  | .DIR_LLOG_STATUS => [F.DIR_LLOG_STATUS.PRODUCED, F.DIR_LLOG_STATUS.OVERFLOW]
  | .DIR_LLOG_CONS => [F.DIR_LLOG_CONS.CONSUMED]
  | .LC_SCRUB_CFG => [F.LC_SCRUB_CFG.PERIOD_S, F.LC_SCRUB_CFG.PASSES]
  | .LC_ACLASS => [F.LC_ACLASS.WAY_MASK, F.LC_ACLASS.QUOTA]
  | .LC_SLICE_STATUS => [F.LC_SLICE_STATUS.VALID_LINES, F.LC_SLICE_STATUS.DIRTY_LINES, F.LC_SLICE_STATUS.DIR_ENTRIES, F.LC_SLICE_STATUS.SIDE_LINES]
  | .LC_OCC => [F.LC_OCC.LINES]
  | .DIR_LLOG => [F.DIR_LLOG.LINE, F.DIR_LLOG.SLICE, F.DIR_LLOG.OWNED, F.DIR_LLOG.CAUSE, F.DIR_LLOG.CLUSTER, F.DIR_LLOG.TIME]
  | .MC_CFG => [F.MC_CFG.AUTO_SCRUB, F.MC_CFG.ZSE_DISABLE, F.MC_CFG.MAINT_PCT, F.MC_CFG.GUAR_LIMIT_GBPS, F.MC_CFG.TEMP_THROTTLE_C, F.MC_CFG.PHY_RETRIES]
  | .MC_STATUS => [F.MC_STATUS.MODE, F.MC_STATUS.NMAP_READY, F.MC_STATUS.THROTTLE, F.MC_STATUS.PRESENT_PAGES, F.MC_STATUS.NMAP_PAGES, F.MC_STATUS.CFG_REJECT]
  | .MC_TEMP => [F.MC_TEMP.TEMP_C, F.MC_TEMP.BAND, F.MC_TEMP.BAND3_COUNT]
  | .MC_ERR => [F.MC_ERR.CE_COUNT, F.MC_ERR.UE_COUNT, F.MC_ERR.PHY_RETRY_COUNT]
  | .MC_UE_STATUS => [F.MC_UE_STATUS.COUNT, F.MC_UE_STATUS.OVERFLOW, F.MC_UE_STATUS.CLEAR]
  | .MC_PATROL => [F.MC_PATROL.PASS_HOURS, F.MC_PATROL.PASSES, F.MC_PATROL.NMAP_PASSES, F.MC_PATROL.BEHIND]
  | .MC_PATROL_POS => [F.MC_PATROL_POS.LINE]
  | .MC_UE_LOG => [F.MC_UE_LOG.LINE, F.MC_UE_LOG.NMAP, F.MC_UE_LOG.SOURCE, F.MC_UE_LOG.SLICE, F.MC_UE_LOG.OWNED, F.MC_UE_LOG.TIME]
  | .MC_SBW => [F.MC_SBW.GUAR_GBPS, F.MC_SBW.CAP_GBPS]
  | .SE_STATUS => [F.SE_STATUS.BLOCKED, F.SE_STATUS.DECL, F.SE_STATUS.BUSY, F.SE_STATUS.TAG_ACCESS]
  | .SE_ERR => [F.SE_ERR.HM_FAIL, F.SE_ERR.MISMATCH, F.SE_ERR.LINK_FAIL, F.SE_ERR.CFG_REJECT]
  | .SE_ALARM => [F.SE_ALARM.VALID, F.SE_ALARM.KIND, F.SE_ALARM.SLOT, F.SE_ALARM.PORT, F.SE_ALARM.LINE]
  | .SE_SLOT0 => [F.SE_SLOT0.FIRST_PAGE, F.SE_SLOT0.COUNT, F.SE_SLOT0.CLASS, F.SE_SLOT0.TAG_PAGE, F.SE_SLOT0.ENABLE]
  | .SE_SLOT => [F.SE_SLOT.STATE, F.SE_SLOT.CLASS, F.SE_SLOT.SLICE, F.SE_SLOT.STACK, F.SE_SLOT.GENERATION, F.SE_SLOT.FIRST_PAGE, F.SE_SLOT.COUNT, F.SE_SLOT.TAG_PAGE]
  | .SE_LINK => [F.SE_LINK.STATE, F.SE_LINK.PEER_DIE, F.SE_LINK.FAILS]
  | .SE_LINK_TXC => [F.SE_LINK_TXC.COUNT]
  | .SE_LINK_RXC => [F.SE_LINK_RXC.COUNT]
  | .SO_CFG => [F.SO_CFG.HELP_ENABLE]
  | .SO_STATUS => [F.SO_STATUS.STATE, F.SO_STATUS.LEAD_QUEUED, F.SO_STATUS.SELECT_QUEUED, F.SO_STATUS.CONTEXT, F.SO_STATUS.CONTEXT_VALID]
  | .SO_COUNT => [F.SO_COUNT.COMPLETED, F.SO_COUNT.RESTARTS, F.SO_COUNT.CANCELS]
  | .SO_BUSY => [F.SO_BUSY.BUSY_NS]
  | .SO_ERR => [F.SO_ERR.PARITY, F.SO_ERR.REPEAT]
  | .CR_CFG => [F.CR_CFG.SR_ENABLE]
  | .CR_STATUS => [F.CR_STATUS.CFG_REJECT]
  | .CR_SEED => [F.CR_SEED.SEED]
  | .CR_OPS => [F.CR_OPS.LINES]
  | .CR_EXC => [F.CR_EXC.NAN, F.CR_EXC.SAT, F.CR_EXC.INF, F.CR_EXC.MISMATCH]
  | .CR_MX => [F.CR_MX.BLOCKS, F.CR_MX.REFUSED]
  | .AY_CFG => [F.AY_CFG.QUIET_TICKS, F.AY_CFG.RECOVERY_LIMIT, F.AY_CFG.WDOG_TICKS, F.AY_CFG.MSIX_VECTOR, F.AY_CFG.CE_NOTIFY]
  | .AY_STATUS => [F.AY_STATUS.ALIVE, F.AY_STATUS.STOPPED, F.AY_STATUS.HANDLING, F.AY_STATUS.LIMIT_HIT, F.AY_STATUS.QUIET_COUNT, F.AY_STATUS.INTAKE_MAX, F.AY_STATUS.MERGED]
  | .AY_RECOVERY => [F.AY_RECOVERY.RECOVERIES, F.AY_RECOVERY.DIE_COUNT]
  | .AY_ALARM => [F.AY_ALARM.SEC_ALARM]
  | .AY_WDOG => [F.AY_WDOG.KICK, F.AY_WDOG.ARMED]
  | .AY_INJECT => [F.AY_INJECT.KIND, F.AY_INJECT.SYMBOLS, F.AY_INJECT.ARM, F.AY_INJECT.INSTANCE, F.AY_INJECT.CAUSE]
  | .AY_INJECT_ADDR => [F.AY_INJECT_ADDR.LINE]
  | .AY_INJECT_STATUS => [F.AY_INJECT_STATUS.FIRED, F.AY_INJECT_STATUS.REFUSED, F.AY_INJECT_STATUS.FIRE_COUNT]
  | .AY_DIE_REC => recFields .AY_DIE_REC
  | .AY_CE_REC => recFields .AY_CE_REC
  | .AY_SEC_REC => recFields .AY_SEC_REC
  | .AY_INJ_REC => recFields .AY_INJ_REC
  | .AY_SLICE_PEND => [F.AY_SLICE_PEND.PEND]
  | .AY_COUNT => [F.AY_COUNT.COUNT]
  | .AY_CTX_REC => recFields .AY_CTX_REC
  | .AY_SLICE_REC => recFields .AY_SLICE_REC
  | .CH_CFG => [F.CH_CFG.COUNT_ENABLE]
  | .CH_STATUS => [F.CH_STATUS.CFG_REJECT, F.CH_STATUS.WATCH_IGNORED]
  | .CH_TIME => [F.CH_TIME.TIME]
  | .CH_TIME_LOAD => [F.CH_TIME_LOAD.TIME]
  | .CH_SWEEP => [F.CH_SWEEP.NUMBER, F.CH_SWEEP.BUSY]
  | .CH_SWEEP_TIME => [F.CH_SWEEP_TIME.TIME]
  | .CH_FREEZE_TIME => [F.CH_FREEZE_TIME.TIME]
  | .CH_FREEZE_CTL => [F.CH_FREEZE_CTL.ARM, F.CH_FREEZE_CTL.DONE, F.CH_FREEZE_CTL.LATE, F.CH_FREEZE_CTL.COARSE]
  | .CH_CLEAR => [F.CH_CLEAR.FIRST, F.CH_CLEAR.COUNT]
  | .CH_LATCH => [F.CH_LATCH.NUMBER]
  | .CH_BWMON => [F.CH_BWMON.SOURCE, F.CH_BWMON.INSTANCE, F.CH_BWMON.DIR, F.CH_BWMON.WINDOW_US]
  | .CH_BWLAST => [F.CH_BWLAST.BYTES, F.CH_BWLAST.STEPPED]
  | .CH_BWPEAK => [F.CH_BWPEAK.PEAK, F.CH_BWPEAK.CLEAR]
  | .CH_BWCOUNT => [F.CH_BWCOUNT.WINDOWS]
  | .CH_WATCH => [F.CH_WATCH.OPEN, F.CH_WATCH.CONTEXT, F.CH_WATCH.SLICE, F.CH_WATCH.FORMAT, F.CH_WATCH.DROPPED]
  | .CH_WATCH_SEQ => [F.CH_WATCH_SEQ.EPOCH, F.CH_WATCH_SEQ.PRODUCED]
  | .CH_VIS => [F.CH_VIS.SNAP_ENABLE]
  | .CH_WATCH_MASK => [F.CH_WATCH_MASK.MASK]
  | .CH_SNAP => [F.CH_SNAP.ENTRY]
  | .CH_FRZ => [F.CH_FRZ.ENTRY]
  | .CH_LIVE => [F.CH_LIVE.ENTRY]
  | .TS_LC => [F.TS_LC.STATE, F.TS_LC.TARGET, F.TS_LC.PROGRAMMING, F.TS_LC.OTP_ERR, F.TS_LC.MIN_SVN]
  | .TS_LC_WORD => [F.TS_LC_WORD.WORD]
  | .TS_LC_REQ => [F.TS_LC_REQ.TARGET, F.TS_LC_REQ.CONFIRM]
  | .TS_FW_STATUS => [F.TS_FW_STATUS.RESULT, F.TS_FW_STATUS.KEY_INDEX, F.TS_FW_STATUS.UNSIGNED, F.TS_FW_STATUS.SVN, F.TS_FW_STATUS.TIME_US]
  | .TS_SVN_ADVANCE => [F.TS_SVN_ADVANCE.SVN]
  | .TS_KEYS => [F.TS_KEYS.REVOKED, F.TS_KEYS.PRESENT]
  | .TS_KEY_REVOKE => [F.TS_KEY_REVOKE.MASK]
  | .TS_DEBUG => [F.TS_DEBUG.STATE, F.TS_DEBUG.MEM, F.TS_DEBUG.FAILS]
  | .TS_KEX_CTL => [F.TS_KEX_CTL.PORT, F.TS_KEX_CTL.ACTION]
  | .TS_KEX_STATUS => [F.TS_KEX_STATUS.BUSY, F.TS_KEX_STATUS.STAGED, F.TS_KEX_STATUS.ERROR, F.TS_KEX_STATUS.LENGTH]
  | .TS_ID_PUB => [F.TS_ID_PUB.KEY]
  | .TS_KEX_BUF => [F.TS_KEX_BUF.DATA]
  | .ST_ID => [F.ST_ID.REGIONS, F.ST_ID.CLUSTERS, F.ST_ID.RELEASE, F.ST_ID.STEPPING, F.ST_ID.MESH_COLUMNS]
  | .ST_DIE_ID => [F.ST_DIE_ID.DIE_ID, F.ST_DIE_ID.VALID]
  | .ST_TICK => [F.ST_TICK.TICK_COUNT, F.ST_TICK.OVERRUN_COUNT]
  | .ST_REGION_CTL => [F.ST_REGION_CTL.GATE_POLICY, F.ST_REGION_CTL.FREQ_CODE, F.ST_REGION_CTL.IDLE_TICKS]
  | .ST_REGION_STATUS => [F.ST_REGION_STATUS.POWER, F.ST_REGION_STATUS.FREQ_NOW, F.ST_REGION_STATUS.TIME_FINE, F.ST_REGION_STATUS.FREQ_CLAMP, F.ST_REGION_STATUS.WAKE_COUNT, F.ST_REGION_STATUS.ABANDON_COUNT]
  | .ST_FOREMAN_STATUS => [F.ST_FOREMAN_STATUS.WAITS, F.ST_FOREMAN_STATUS.PAUSES, F.ST_FOREMAN_STATUS.SKIPS, F.ST_FOREMAN_STATUS.MERGES]
  | .ST_RETRAIN => [F.ST_RETRAIN.REQ]
  | .ST_BOOT => [F.ST_BOOT.PHASE, F.ST_BOOT.NO_SETTINGS, F.ST_BOOT.SETTINGS_COPY, F.ST_BOOT.FLASH_TIMEOUT, F.ST_BOOT.TRAIN_FAIL, F.ST_BOOT.FLASH_MS, F.ST_BOOT.TRAIN_MS, F.ST_BOOT.LOG_BAD]
  | .ST_RESET => [F.ST_RESET.WARM, F.ST_RESET.COLD, F.ST_RESET.KEY]
  | .ST_SEAL => [F.ST_SEAL.SEALED]
  | .ST_MBOX_CTL => [F.ST_MBOX_CTL.LENGTH, F.ST_MBOX_CTL.GO, F.ST_MBOX_CTL.H2F, F.ST_MBOX_CTL.F2H, F.ST_MBOX_CTL.MSIX_VECTOR]
  | .ST_MBOX_STATUS => [F.ST_MBOX_STATUS.RESULT, F.ST_MBOX_STATUS.ATTEMPTS, F.ST_MBOX_STATUS.REJECT]
  | .ST_PWR_LIMIT => [F.ST_PWR_LIMIT.DIE_LIMIT_W, F.ST_PWR_LIMIT.TURRIL_LIMIT_W]
  | .ST_PWR_RLIMIT => [F.ST_PWR_RLIMIT.LIMIT0, F.ST_PWR_RLIMIT.LIMIT1, F.ST_PWR_RLIMIT.LIMIT2, F.ST_PWR_RLIMIT.LIMIT3, F.ST_PWR_RLIMIT.LIMIT4, F.ST_PWR_RLIMIT.LIMIT5, F.ST_PWR_RLIMIT.LIMIT6, F.ST_PWR_RLIMIT.LIMIT7]
  | .ST_PWR_TOTAL => [F.ST_PWR_TOTAL.EST, F.ST_PWR_TOTAL.OVER]
  | .ST_PWR_DOM => [F.ST_PWR_DOM.EST, F.ST_PWR_DOM.CAP, F.ST_PWR_DOM.CAPPED, F.ST_PWR_DOM.FLOOR, F.ST_PWR_DOM.CAP_TICKS]

/-- Where each register lies in BAR0 (Tables 18.3 to 18.17). -/
def Reg.layout : Reg → Layout
  | .SF_STATUS => ⟨0x00000000, 1, 8, 1, 0x0, 1⟩
  | .SF_PRIV_RING => ⟨0x00000008, 1, 8, 1, 0x0, 1⟩
  | .SF_SLOT_QUOTA => ⟨0x00001000, 512, 8, 1, 0x0, 1⟩
  | .SF_CTX_CFG => ⟨0x00008000, 4096, 8, 1, 0x0, 1⟩
  | .SF_CTX_ERR => ⟨0x00010000, 4096, 8, 1, 0x0, 1⟩
  | .SF_CTX_STATUS => ⟨0x00018000, 4096, 8, 1, 0x0, 1⟩
  | .SF_CTX_CTL => ⟨0x00020000, 4096, 8, 1, 0x0, 1⟩
  | .SF_RING_BASE => ⟨0x00030000, 8192, 8, 1, 0x0, 1⟩
  | .SF_RING_CPL => ⟨0x00040000, 8192, 8, 1, 0x0, 1⟩
  | .SF_RING_CTL => ⟨0x00050000, 8192, 8, 1, 0x0, 1⟩
  | .SF_RING_STATUS => ⟨0x00060000, 8192, 8, 1, 0x0, 1⟩
  | .SM_CFG => ⟨0x00400000, 1, 8, 1, 0x0, 1⟩
  | .SM_STATUS => ⟨0x00400008, 1, 8, 1, 0x0, 1⟩
  | .SM_PAGES => ⟨0x00400010, 1, 8, 1, 0x0, 1⟩
  | .SM_POT_SET => ⟨0x00400018, 1, 8, 1, 0x0, 1⟩
  | .SM_SLICE => ⟨0x00401000, 512, 8, 1, 0x0, 1⟩
  | .SM_SLICE_CLUSTERS => ⟨0x00402000, 512, 8, 1, 0x0, 1⟩
  | .SM_SLICE_BIND => ⟨0x00403000, 512, 8, 1, 0x0, 1⟩
  | .SM_SLICE_LOG => ⟨0x00404000, 512, 8, 1, 0x0, 1⟩
  | .SM_SLICE_ACLASS => ⟨0x00405000, 512, 8, 1, 0x0, 1⟩
  | .SM_POT => ⟨0x00410000, 18432, 8, 1, 0x0, 1⟩
  | .TY_CFG => ⟨0x00800000, 1, 8, 1, 0x0, 1⟩
  | .TY_STATUS => ⟨0x00800008, 1, 8, 1, 0x0, 1⟩
  | .TY_CLUSTER => ⟨0x00800100, 64, 8, 1, 0x0, 1⟩
  | .TY_SHARE => ⟨0x00801000, 512, 8, 1, 0x0, 1⟩
  | .TY_SLICE_STAT => ⟨0x00802000, 512, 8, 1, 0x0, 1⟩
  | .TY_CTX_SHARE => ⟨0x00808000, 4096, 8, 1, 0x0, 1⟩
  | .TY_LEDGER_CLUSTER => ⟨0x00810000, 4096, 8, 1, 0x0, 1⟩
  | .TY_LEDGER_ENGINE => ⟨0x00818000, 4096, 8, 1, 0x0, 1⟩
  | .TY_RING_DL => ⟨0x00820000, 8192, 8, 1, 0x0, 1⟩
  | .STU_CFG => ⟨0x00C00000, 1, 8, 1, 0x0, 1⟩
  | .STU_STATUS => ⟨0x00C00008, 1, 8, 1, 0x0, 1⟩
  | .STU_CNT_CFG => ⟨0x00C00010, 1, 8, 1, 0x0, 1⟩
  | .STU_ACNT_CLR => ⟨0x00C00018, 1, 8, 1, 0x0, 1⟩
  | .STU_CTX_SEGTAB => ⟨0x00C08000, 4096, 8, 1, 0x0, 1⟩
  | .STU_EPOCH => ⟨0x00C10000, 4096, 8, 1, 0x0, 1⟩
  | .STU_CTX_CTL => ⟨0x00C18000, 4096, 8, 1, 0x0, 1⟩
  | .STU_FRING_BASE => ⟨0x00C20000, 512, 8, 1, 0x0, 1⟩
  | .STU_FRING_CTL => ⟨0x00C21000, 512, 8, 1, 0x0, 1⟩
  | .STU_FRING_CONS => ⟨0x00C22000, 512, 8, 1, 0x0, 1⟩
  | .STU_FRING_STATUS => ⟨0x00C23000, 512, 8, 1, 0x0, 1⟩
  | .STU_ACNT => ⟨0x00C30000, 18432, 8, 1, 0x0, 1⟩
  | .WE_CFG => ⟨0x01000000, 1, 8, 1, 0x0, 1⟩
  | .WE_STATUS => ⟨0x01000008, 1, 8, 1, 0x0, 1⟩
  | .WE_TIME_CFG => ⟨0x01000010, 1, 8, 1, 0x0, 1⟩
  | .WE_TIME_STATUS => ⟨0x01000018, 1, 8, 1, 0x0, 1⟩
  | .WE_PORT_STATUS => ⟨0x01000100, 16, 8, 1, 0x0, 1⟩
  | .WE_ROUTE => ⟨0x01001000, 256, 8, 1, 0x0, 1⟩
  | .WE_LBW => ⟨0x01002000, 512, 8, 1, 0x0, 1⟩
  | .WE_WERR => ⟨0x01004000, 4096, 8, 1, 0x0, 1⟩
  | .WE_WTAB => ⟨0x01010000, 4096, 32, 1, 0x0, 4⟩
  | .RF_ERR => ⟨0x01400000, 1, 8, 1, 0x0, 1⟩
  | .LC_CFG => ⟨0x01800000, 1, 8, 1, 0x0, 1⟩
  | .LC_STATUS => ⟨0x01800008, 1, 8, 1, 0x0, 1⟩
  | .DIR_CFG => ⟨0x01800010, 1, 8, 1, 0x0, 1⟩
  | .DIR_STATUS => ⟨0x01800018, 1, 8, 1, 0x0, 1⟩
  | .DIR_LLOG_STATUS => ⟨0x01800020, 1, 8, 1, 0x0, 1⟩
  | .DIR_LLOG_CONS => ⟨0x01800028, 1, 8, 1, 0x0, 1⟩
  | .LC_SCRUB_CFG => ⟨0x01800030, 1, 8, 1, 0x0, 1⟩
  | .LC_ACLASS => ⟨0x01800100, 64, 8, 1, 0x0, 1⟩
  | .LC_SLICE_STATUS => ⟨0x01800400, 64, 8, 1, 0x0, 1⟩
  | .LC_OCC => ⟨0x01808000, 4096, 8, 1, 0x0, 1⟩
  | .DIR_LLOG => ⟨0x01810000, 4096, 16, 1, 0x0, 2⟩
  | .MC_CFG => ⟨0x01C00000, 1, 8, 8, 0x10000, 1⟩
  | .MC_STATUS => ⟨0x01C00008, 1, 8, 8, 0x10000, 1⟩
  | .MC_TEMP => ⟨0x01C00010, 1, 8, 8, 0x10000, 1⟩
  | .MC_ERR => ⟨0x01C00018, 1, 8, 8, 0x10000, 1⟩
  | .MC_UE_STATUS => ⟨0x01C00020, 1, 8, 8, 0x10000, 1⟩
  | .MC_PATROL => ⟨0x01C00028, 1, 8, 8, 0x10000, 1⟩
  | .MC_PATROL_POS => ⟨0x01C00030, 1, 8, 8, 0x10000, 1⟩
  | .MC_UE_LOG => ⟨0x01C00100, 16, 16, 8, 0x10000, 2⟩
  | .MC_SBW => ⟨0x01C01000, 512, 8, 8, 0x10000, 1⟩
  | .SE_STATUS => ⟨0x02000008, 1, 8, 1, 0x0, 1⟩
  | .SE_ERR => ⟨0x02000010, 1, 8, 1, 0x0, 1⟩
  | .SE_ALARM => ⟨0x02000018, 1, 8, 1, 0x0, 1⟩
  | .SE_SLOT0 => ⟨0x02000020, 1, 8, 1, 0x0, 1⟩
  | .SE_SLOT => ⟨0x02000100, 64, 16, 1, 0x0, 2⟩
  | .SE_LINK => ⟨0x02001000, 16, 8, 1, 0x0, 1⟩
  | .SE_LINK_TXC => ⟨0x02001100, 16, 8, 1, 0x0, 1⟩
  | .SE_LINK_RXC => ⟨0x02001200, 16, 8, 1, 0x0, 1⟩
  | .SO_CFG => ⟨0x02400000, 1, 8, 8, 0x10000, 1⟩
  | .SO_STATUS => ⟨0x02400008, 1, 8, 8, 0x10000, 1⟩
  | .SO_COUNT => ⟨0x02400010, 1, 8, 8, 0x10000, 1⟩
  | .SO_BUSY => ⟨0x02400018, 1, 8, 8, 0x10000, 1⟩
  | .SO_ERR => ⟨0x02400020, 1, 8, 8, 0x10000, 1⟩
  | .CR_CFG => ⟨0x02C00000, 1, 8, 1, 0x0, 1⟩
  | .CR_STATUS => ⟨0x02C00008, 1, 8, 1, 0x0, 1⟩
  | .CR_SEED => ⟨0x02C01000, 512, 8, 1, 0x0, 1⟩
  | .CR_OPS => ⟨0x02C08000, 64, 32, 1, 0x0, 1⟩
  | .CR_EXC => ⟨0x02C08008, 64, 32, 1, 0x0, 1⟩
  | .CR_MX => ⟨0x02C08010, 64, 32, 1, 0x0, 1⟩
  | .AY_CFG => ⟨0x03000000, 1, 8, 1, 0x0, 1⟩
  | .AY_STATUS => ⟨0x03000008, 1, 8, 1, 0x0, 1⟩
  | .AY_RECOVERY => ⟨0x03000010, 1, 8, 1, 0x0, 1⟩
  | .AY_ALARM => ⟨0x03000018, 1, 8, 1, 0x0, 1⟩
  | .AY_WDOG => ⟨0x03000020, 1, 8, 1, 0x0, 1⟩
  | .AY_INJECT => ⟨0x03000028, 1, 8, 1, 0x0, 1⟩
  | .AY_INJECT_ADDR => ⟨0x03000030, 1, 8, 1, 0x0, 1⟩
  | .AY_INJECT_STATUS => ⟨0x03000038, 1, 8, 1, 0x0, 1⟩
  | .AY_DIE_REC => ⟨0x03000100, 1, 64, 1, 0x0, 8⟩
  | .AY_CE_REC => ⟨0x03000140, 1, 64, 1, 0x0, 8⟩
  | .AY_SEC_REC => ⟨0x03000180, 1, 64, 1, 0x0, 8⟩
  | .AY_INJ_REC => ⟨0x030001C0, 1, 64, 1, 0x0, 8⟩
  | .AY_SLICE_PEND => ⟨0x03000200, 8, 8, 1, 0x0, 1⟩
  | .AY_COUNT => ⟨0x03000400, 64, 8, 1, 0x0, 1⟩
  | .AY_CTX_REC => ⟨0x03010000, 4096, 64, 1, 0x0, 8⟩
  | .AY_SLICE_REC => ⟨0x03050000, 512, 64, 1, 0x0, 8⟩
  | .CH_CFG => ⟨0x03400000, 1, 8, 1, 0x0, 1⟩
  | .CH_STATUS => ⟨0x03400008, 1, 8, 1, 0x0, 1⟩
  | .CH_TIME => ⟨0x03400010, 1, 8, 1, 0x0, 1⟩
  | .CH_TIME_LOAD => ⟨0x03400018, 1, 8, 1, 0x0, 1⟩
  | .CH_SWEEP => ⟨0x03400020, 1, 8, 1, 0x0, 1⟩
  | .CH_SWEEP_TIME => ⟨0x03400028, 1, 8, 1, 0x0, 1⟩
  | .CH_FREEZE_TIME => ⟨0x03400030, 1, 8, 1, 0x0, 1⟩
  | .CH_FREEZE_CTL => ⟨0x03400038, 1, 8, 1, 0x0, 1⟩
  | .CH_CLEAR => ⟨0x03400040, 1, 8, 1, 0x0, 1⟩
  | .CH_LATCH => ⟨0x03400048, 1, 8, 1, 0x0, 1⟩
  | .CH_BWMON => ⟨0x03400100, 64, 8, 1, 0x0, 1⟩
  | .CH_BWLAST => ⟨0x03400300, 64, 8, 1, 0x0, 1⟩
  | .CH_BWPEAK => ⟨0x03400500, 64, 8, 1, 0x0, 1⟩
  | .CH_BWCOUNT => ⟨0x03400700, 64, 8, 1, 0x0, 1⟩
  | .CH_WATCH => ⟨0x03400900, 64, 8, 1, 0x0, 1⟩
  | .CH_WATCH_SEQ => ⟨0x03400B00, 64, 8, 1, 0x0, 1⟩
  | .CH_VIS => ⟨0x03401000, 512, 8, 1, 0x0, 1⟩
  | .CH_WATCH_MASK => ⟨0x03402000, 512, 8, 1, 0x0, 1⟩
  | .CH_SNAP => ⟨0x03410000, 6144, 8, 1, 0x0, 1⟩
  | .CH_FRZ => ⟨0x03420000, 6144, 8, 1, 0x0, 1⟩
  | .CH_LIVE => ⟨0x03430000, 6144, 8, 1, 0x0, 1⟩
  | .TS_LC => ⟨0x03800000, 1, 8, 1, 0x0, 1⟩
  | .TS_LC_WORD => ⟨0x03800008, 1, 8, 1, 0x0, 1⟩
  | .TS_LC_REQ => ⟨0x03800010, 1, 8, 1, 0x0, 1⟩
  | .TS_FW_STATUS => ⟨0x03800018, 1, 8, 1, 0x0, 1⟩
  | .TS_SVN_ADVANCE => ⟨0x03800020, 1, 8, 1, 0x0, 1⟩
  | .TS_KEYS => ⟨0x03800028, 1, 8, 1, 0x0, 1⟩
  | .TS_KEY_REVOKE => ⟨0x03800030, 1, 8, 1, 0x0, 1⟩
  | .TS_DEBUG => ⟨0x03800038, 1, 8, 1, 0x0, 1⟩
  | .TS_KEX_CTL => ⟨0x03800040, 1, 8, 1, 0x0, 1⟩
  | .TS_KEX_STATUS => ⟨0x03800048, 1, 8, 1, 0x0, 1⟩
  | .TS_ID_PUB => ⟨0x03800800, 12, 8, 1, 0x0, 1⟩
  | .TS_KEX_BUF => ⟨0x03801000, 64, 8, 1, 0x0, 1⟩
  | .ST_ID => ⟨0x03C00000, 1, 8, 1, 0x0, 1⟩
  | .ST_DIE_ID => ⟨0x03C00008, 1, 8, 1, 0x0, 1⟩
  | .ST_TICK => ⟨0x03C00010, 1, 8, 1, 0x0, 1⟩
  | .ST_REGION_CTL => ⟨0x03C00100, 9, 8, 1, 0x0, 1⟩
  | .ST_REGION_STATUS => ⟨0x03C00148, 9, 8, 1, 0x0, 1⟩
  | .ST_FOREMAN_STATUS => ⟨0x03C00200, 1, 8, 1, 0x0, 1⟩
  | .ST_RETRAIN => ⟨0x03C00208, 1, 8, 1, 0x0, 1⟩
  | .ST_BOOT => ⟨0x03C00300, 1, 8, 1, 0x0, 1⟩
  | .ST_RESET => ⟨0x03C00308, 1, 8, 1, 0x0, 1⟩
  | .ST_SEAL => ⟨0x03C00310, 1, 8, 1, 0x0, 1⟩
  | .ST_MBOX_CTL => ⟨0x03C00318, 1, 8, 1, 0x0, 1⟩
  | .ST_MBOX_STATUS => ⟨0x03C00320, 1, 8, 1, 0x0, 1⟩
  | .ST_PWR_LIMIT => ⟨0x03C00400, 1, 8, 1, 0x0, 1⟩
  | .ST_PWR_RLIMIT => ⟨0x03C00408, 1, 8, 1, 0x0, 1⟩
  | .ST_PWR_TOTAL => ⟨0x03C00410, 1, 8, 1, 0x0, 1⟩
  | .ST_PWR_DOM => ⟨0x03C00420, 9, 8, 1, 0x0, 1⟩

/-- Every register, in the order of the Register index. -/
def Reg.all : List Reg :=
  ([.SF_STATUS, .SF_PRIV_RING, .SF_SLOT_QUOTA, .SF_CTX_CFG, .SF_CTX_ERR, .SF_CTX_STATUS, .SF_CTX_CTL, .SF_RING_BASE, .SF_RING_CPL, .SF_RING_CTL, .SF_RING_STATUS, .SM_CFG] : List Reg) ++
  ([.SM_STATUS, .SM_PAGES, .SM_POT_SET, .SM_SLICE, .SM_SLICE_CLUSTERS, .SM_SLICE_BIND, .SM_SLICE_LOG, .SM_SLICE_ACLASS, .SM_POT, .TY_CFG, .TY_STATUS, .TY_CLUSTER] : List Reg) ++
  ([.TY_SHARE, .TY_SLICE_STAT, .TY_CTX_SHARE, .TY_LEDGER_CLUSTER, .TY_LEDGER_ENGINE, .TY_RING_DL, .STU_CFG, .STU_STATUS, .STU_CNT_CFG, .STU_ACNT_CLR, .STU_CTX_SEGTAB, .STU_EPOCH] : List Reg) ++
  ([.STU_CTX_CTL, .STU_FRING_BASE, .STU_FRING_CTL, .STU_FRING_CONS, .STU_FRING_STATUS, .STU_ACNT, .WE_CFG, .WE_STATUS, .WE_TIME_CFG, .WE_TIME_STATUS, .WE_PORT_STATUS, .WE_ROUTE] : List Reg) ++
  ([.WE_LBW, .WE_WERR, .WE_WTAB, .RF_ERR, .LC_CFG, .LC_STATUS, .DIR_CFG, .DIR_STATUS, .DIR_LLOG_STATUS, .DIR_LLOG_CONS, .LC_SCRUB_CFG, .LC_ACLASS] : List Reg) ++
  ([.LC_SLICE_STATUS, .LC_OCC, .DIR_LLOG, .MC_CFG, .MC_STATUS, .MC_TEMP, .MC_ERR, .MC_UE_STATUS, .MC_PATROL, .MC_PATROL_POS, .MC_UE_LOG, .MC_SBW] : List Reg) ++
  ([.SE_STATUS, .SE_ERR, .SE_ALARM, .SE_SLOT0, .SE_SLOT, .SE_LINK, .SE_LINK_TXC, .SE_LINK_RXC, .SO_CFG, .SO_STATUS, .SO_COUNT, .SO_BUSY] : List Reg) ++
  ([.SO_ERR, .CR_CFG, .CR_STATUS, .CR_SEED, .CR_OPS, .CR_EXC, .CR_MX, .AY_CFG, .AY_STATUS, .AY_RECOVERY, .AY_ALARM, .AY_WDOG] : List Reg) ++
  ([.AY_INJECT, .AY_INJECT_ADDR, .AY_INJECT_STATUS, .AY_DIE_REC, .AY_CE_REC, .AY_SEC_REC, .AY_INJ_REC, .AY_SLICE_PEND, .AY_COUNT, .AY_CTX_REC, .AY_SLICE_REC, .CH_CFG] : List Reg) ++
  ([.CH_STATUS, .CH_TIME, .CH_TIME_LOAD, .CH_SWEEP, .CH_SWEEP_TIME, .CH_FREEZE_TIME, .CH_FREEZE_CTL, .CH_CLEAR, .CH_LATCH, .CH_BWMON, .CH_BWLAST, .CH_BWPEAK] : List Reg) ++
  ([.CH_BWCOUNT, .CH_WATCH, .CH_WATCH_SEQ, .CH_VIS, .CH_WATCH_MASK, .CH_SNAP, .CH_FRZ, .CH_LIVE, .TS_LC, .TS_LC_WORD, .TS_LC_REQ, .TS_FW_STATUS] : List Reg) ++
  ([.TS_SVN_ADVANCE, .TS_KEYS, .TS_KEY_REVOKE, .TS_DEBUG, .TS_KEX_CTL, .TS_KEX_STATUS, .TS_ID_PUB, .TS_KEX_BUF, .ST_ID, .ST_DIE_ID, .ST_TICK, .ST_REGION_CTL] : List Reg) ++
  ([.ST_REGION_STATUS, .ST_FOREMAN_STATUS, .ST_RETRAIN, .ST_BOOT, .ST_RESET, .ST_SEAL, .ST_MBOX_CTL, .ST_MBOX_STATUS, .ST_PWR_LIMIT, .ST_PWR_RLIMIT, .ST_PWR_TOTAL, .ST_PWR_DOM] : List Reg)

/-- The reset value of word `wd` of an element: every field at its reset value, reserved bits 0 (R9). -/
def Reg.resetWord (r : Reg) (wd : Nat) : Word :=
  BitVec.ofNat 64 ((r.fields.filter (fun f => f.word = wd)).foldl (fun a f => a + f.reset * 2 ^ f.lo) 0)

/-- The number of elements of a register. -/
def Reg.count (r : Reg) : Nat := r.layout.c1 * r.layout.c2

/-- The BAR0 offset of word `wd` of element `i`. -/
def Reg.addr (r : Reg) (i wd : Nat) : Nat :=
  r.layout.base + r.layout.s1 * (i % r.layout.c1) + r.layout.s2 * (i / r.layout.c1) + 8 * wd

/-- The element and word of `r` that stands at BAR0 offset `off`, if one does. -/
def Reg.hit (r : Reg) (off : Nat) : Option (Nat × Nat) :=
  let l := r.layout
  if off < l.base then none
  else
    let d := off - l.base
    let o := if l.s2 = 0 then 0 else d / l.s2
    let e := if l.s2 = 0 then d else d % l.s2
    let i := e / l.s1
    let q := e % l.s1
    if o < l.c2 ∧ i < l.c1 ∧ q % 8 = 0 ∧ q / 8 < l.words then some (o * l.c1 + i, q / 8) else none

/-- The register, element and word at a BAR0 offset (R511); none where no register lies (R506). -/
def Reg.decode (off : Nat) : Option (Reg × Nat × Nat) :=
  Reg.all.findSome? (fun r => (r.hit off).map (fun p => (r, p.1, p.2)))

/-- The word that a write of `v` leaves in a word that held `old` (R10, Table 0.4): RW and RWS fields take
the value, W1S sets where `v` has a 1, RWL takes it before firmware seal alone, RO, WO and reserved bits keep what they hold; W1C
clears where `c` has a 1, which is `v` but for the bits that an event of this cycle has set (R11). -/
def Reg.writeWord (r : Reg) (wd : Nat) (isSealed : Bool) (old v c : Word) : Word :=
  (r.fields.filter (fun f => f.word = wd)).foldl (fun a f =>
    let n := fieldOf v f.lo f.width
    match f.acc with
    | .RW => putField a f.lo f.width n
    | .RWS => putField a f.lo f.width n
    | .RWL => if isSealed then a else putField a f.lo f.width n
    | .W1C => putField a f.lo f.width (fieldOf a f.lo f.width &&& (2 ^ f.width - 1 - fieldOf c f.lo f.width))
    | .W1S => putField a f.lo f.width (fieldOf a f.lo f.width ||| n)
    | .RO => a
    | .WO => a) old

/-- The word as a read returns it: WO fields and reserved bits read 0 (R9, R10). -/
def Reg.readWord (r : Reg) (wd : Nat) (x : Word) : Word :=
  (r.fields.filter (fun f => f.word = wd)).foldl (fun a f =>
    match f.acc with
    | .WO => a
    | _ => putField a f.lo f.width (fieldOf x f.lo f.width)) 0

/-- The register has a field that a write can change or act on; a write to any other is counted (R506). -/
def Reg.writable (r : Reg) : Bool := r.fields.any (fun f => decide (f.acc ≠ .RO))

end Sys2Proof.Machine
end

