-- ==== Sys2Proof/Machine/State.lean ====
section
/-! DEFINITION. The state of Turril as plain data. Every register of the Register index stands in `Die.regs`;
what follows it is the state the manual gives the block besides: commands, kernels, requests, caches, memory,
keys, counters and the die's clocks. Reset is State.reset at the end: a cold reset held before power-good. -/

namespace Sys2Proof.Machine

/-- For whom data was asked for outside the block: a command, a ring's fetch, a table walk of a context, a
request of a cluster port, a slice's consumer word, a slice's dirty bitmap, a received window packet. -/
inductive Use where
  | cmd (id : Nat)
  | ring (n : Nat)
  | ctx (c : Nat)
  | req (rid : Nat)
  | cons (s : Nat)
  | log (s : Nat)
  | packet (k : Nat)
  | other
  deriving DecidableEq, Repr

/-! ### Commands and rings (Rings, descriptors and fences) -/

/-- How far a command has come (R61, R65, R66). -/
inductive CmdSt where
  | fetched    -- read and checked, not started
  | ready      -- a launch that waits for clusters, or an operation that waits for its turn
  | running    -- started
  | done       -- its work is done; COMMAND_COMPLETE writes the record and frees it
  deriving DecidableEq, Repr

/-- One command Shopfront has read. -/
structure Cmd where
  id     : Nat
  ring   : Nat
  ctx    : Nat
  seq    : Nat
  depth  : Nat := 0
  /-- The CALL_LIST, SELECT or bypassed command whose list holds this one. -/
  parent : Option Nat := none
  /-- Byte offset of the descriptor within its list. -/
  off    : Nat := 0
  desc   : BitVec 512
  st     : CmdSt := .fetched
  status : Nat := 0
  result : Nat := 0
  secur  : Bool := false
  /-- Order in which commands started, and the die time of the start. -/
  order  : Nat := 0
  start  : Nat := 0
  /-- A running list: device pointer, number of descriptors, the next one, the armed skip, and whether it ended. -/
  list   : Nat := 0
  count  : Nat := 0
  next   : Nat := 0
  skip   : Nat := 0
  closed : Bool := false
  /-- The list is a fallback: the command itself ended BYPASSED (R143). -/
  bypass : Bool := false
  /-- A DME or Sorter command: next tile or entry, position within it, and partial results. -/
  tile   : Nat := 0
  aux    : Nat := 0
  acc    : Nat := 0
  /-- A Sorter command: rows still to be moved, sums for the load counters, and words for the statistics. -/
  work   : List (Nat × Nat × Nat) := []
  sums   : List (Nat × Nat) := []
  stats  : List Nat := []
  /-- A Sorter command's parameter block as it was read; and a restarted command's place at the head of its queue (R301). -/
  block  : Nat := 0
  first  : Bool := false
  /-- A DISPATCH: the ranges its outputs have taken, and the counts and DIMS that it writes after its lists (R281, R295). -/
  outs   : List (Nat × Nat) := []
  late   : List (Nat × Nat × List Byte) := []
  /-- A REDUCE_SCATTER: the row in the merge buffer, and how many source rows have entered it (R321, R322). -/
  merge  : List Nat := []
  mrow   : Nat := 0
  /-- Cluster-ns charged (R137). -/
  ns     : Nat := 0
  /-- The DME, Sorter or other place the command was given. -/
  place  : Nat := 0
  deriving DecidableEq, Repr

/-- What a ring keeps besides its registers (R71, R141 to R143). -/
structure RingRt where
  skip    : Nat := 0
  dlNs    : Nat := 0
  fb      : Nat := 0
  fbCount : Nat := 0
  /-- Start and EST_US of the latest command with an estimate since arming. -/
  est     : Option (Nat × Nat) := none
  /-- The switch has been taken since arming (R143: at most once). -/
  took    : Bool := false
  /-- The ring has had its turn, and the read of its descriptor has not ended (R53). -/
  asked   : Bool := false
  deriving DecidableEq, Repr

/-- A context teardown that waits for its drain (R145). -/
structure Tear where
  ctx    : Nat
  status : Nat
  secur  : Bool := false
  /-- The failing command. -/
  failed : Option Nat := none
  /-- RING and SEQ for the error word, where they are already known. -/
  named  : Option (Nat × Nat) := none
  /-- Rings whose fetched commands the teardown dropped before they started: rings that had work (R145). -/
  had    : List Nat := []
  deriving DecidableEq, Repr

/-- A message on an output port of the block (the model's own trace, newest first; log entry 5). -/
inductive Msg where
  /-- FUNC, as the identity of R90 or R91, and VECTOR (R480). -/
  | msix (who : Who) (vector : Nat)
  | hostWrite (who : Who) (addr : Nat) (data : List Byte)
  | hostRead (tag : Nat) (who : Who) (addr len : Nat)
  | hostCpl (tag status : Nat) (data : List Byte)
  | kStart (k kid ctx slice : Nat) (code args param gx gy gz rank count : Nat) (resume : Bool) (token : Word)
  | kYield (k kid : Nat)
  | kAbandon (k kid : Nat)
  | snoop (k stag sop line : Nat)
  | rsp (k tag code beat : Nat)
  | rdat (k tag kind st line slice : Nat) (we : Bool) (wid beat : Nat) (data : Line)
  | packet (port : Nat) (bytes : List Byte) (trailer : Option (BitVec 128))
  | alert (code : Nat)
  | tdo (bits : Nat)
  /-- At controller `n`: 0 region_rps_on_req rises, 1 all-bank refresh, 2 ctrlupd, 3 the answer to a PHY update request, 4 retraining,
  5 dfi_init_start, 6 self-refresh entry, 7 region_rps_on_req falls, 8 temperature request, 9 self-refresh exit, 10 per-bank
  refresh of bank `pc`, 11 refresh management (Tables 16.9 and 16.10). -/
  | dfi (n op pc : Nat)
  /-- The 512 seed words written to a PHY; no bytes: the default seeds, which the manual does not give (R443, R477; log entry
  105). -/
  | seeds (n : Nat) (bytes : List Byte)
  | credit (port chan : Nat)
  | busRead (v : Word)
  deriving DecidableEq, Repr

structure Shop where
  cmds    : List Cmd := []
  rings   : Tab RingRt := []
  tears   : List Tear := []
  /-- Last ring served, for the round robin of R53. -/
  lastRing : Nat := 8191
  deriving DecidableEq, Repr

/-! ### Slices -/

/-- A quiescing disable in progress (R109). -/
structure Quiesce where
  sl      : Nat
  toTear  : Bool
  graceEnd : Nat
  expired : Bool := false
  deriving DecidableEq, Repr

/-- A DONE_FENCE that waits for its operation (R97, R513): the operation, the issuer, and what to signal. -/
structure DoneFence where
  /-- 0 DISABLE, 1 RECLAIM, 2 FORCE_DISABLE, 3 a scrub, 4 MAP_WINDOW, 5 INVALIDATE, 6 KEY_CTL, 7 other. -/
  kind  : Nat
  key   : Nat
  cmd   : Nat
  ctx   : Nat
  ring  : Nat
  seq   : Nat
  ptr   : Nat
  val   : Nat
  /-- Pages whose scrub the signal waits for; and whether the operation has finished. -/
  pages : List Nat := []
  ready : Bool := false
  deriving DecidableEq, Repr

/-- A change of page state that is not yet complete in every replica (R32, R206). -/
structure PotOp where
  id    : Nat
  /-- 0 assign, 1 release, 2 reclamation's scrub step, 3 withdrawal, 5 reclamation's pages being scrubbed. -/
  kind  : Nat
  sl    : Nat := 0
  pages : List Nat
  cmd   : Option Nat := none
  cause : Nat := 0
  /-- Requests checked under the old state that the change waits for. -/
  waits : List Nat := []
  /-- The purge that follows the change, when one runs. -/
  flush : Option Nat := none
  deriving DecidableEq, Repr

/-- Dirty-page logging of one slice (R116 to R120). -/
structure DLog where
  sl      : Nat
  /-- Granules whose bit has been confirmed and that stay in the filter. -/
  filter  : List Nat := []
  /-- Granules whose bit is being set: (granule, bitmap word's address, phase): 0 the word is read, 1 it is read
  again to confirm, 2 the confirming read has returned; 10 more where a SWAP has come since. -/
  pend    : List (Nat × Nat × Nat) := []
  /-- A SWAP, and a STOP, that wait for bit-sets. -/
  swap    : Option Nat := none
  stop    : Option Nat := none
  deriving DecidableEq, Repr

structure Slices where
  quiesce : List Quiesce := []
  fences  : List DoneFence := []
  potOps  : List PotOp := []
  /-- Pages queued for a scrub, with the fence keys that wait for them; (page, running). -/
  scrubs  : List (Nat × Bool) := []
  /-- Pages among them that an order with RESTORE names (R108). -/
  restore : List Nat := []
  /-- Queued pages whose wait for a flush has been counted (R403). -/
  waited : List Nat := []
  /-- LOCAL_HOME bits (R205): pages whose bit is 1. -/
  localHome : List Nat := []
  logs    : List DLog := []
  /-- Reserved clusters a slice still waits for (R85): (cluster, slice). -/
  claims  : List (Nat × Nat) := []
  deriving DecidableEq, Repr

/-! ### Tally -/

/-- One rank of a kernel's set of clusters (R127, R470). -/
structure Rank where
  rank    : Nat
  cluster : Option Nat
  ended   : Bool := false
  yielded : Bool := false
  token   : Word := 0
  deriving DecidableEq, Repr

/-- A kernel that Tally has placed, or that stands yielded. -/
structure Kern where
  kid    : Nat
  cmd    : Nat
  ctx    : Nat
  ranks  : List Rank
  /-- A yield request posted: its grace end, and the context it was posted for, if one. -/
  req    : Option (Nat × Option Nat) := none
  /-- Abandon orders stand. -/
  aband  : Bool := false
  /-- The named clusters of CLUSTER_MASK, none where it is 0 (R127). -/
  named  : List Nat := []
  deriving DecidableEq, Repr

/-- What Tally and the port stop keep for one cluster. -/
structure ClRt where
  /-- End of the quantum of the context that holds the cluster. -/
  quantum : Nat := 0
  /-- When the last work of the owner left the cluster. -/
  idle    : Nat := 0
  /-- Abandon order sent at. -/
  order   : Option Nat := none
  /-- The context that keeps the free cluster across a boundary between its own commands (R128). -/
  kept    : Option Nat := none
  /-- A lent cluster is being recalled (R134). -/
  recalled : Bool := false
  /-- The context for which an overrun kernel was torn down: the cluster goes to it (R130). -/
  promised : Option Nat := none
  deriving DecidableEq, Repr

structure Tally where
  kerns    : List Kern := []
  clusters : Tab ClRt := []
  /-- Slice and context passes with the remainder of their division (R123): (pass, remainder). -/
  passS    : Tab (Nat × Nat) := []
  passC    : Tab (Nat × Nat) := []
  /-- TY_CFG in force since the last tick edge (R148). -/
  cfg      : Word := 0x00010032040400FA
  /-- Last ring of each context served by placement (R126 step 4). -/
  lastRing : Tab Nat := []
  /-- KERNEL_ERROR reports, which Turril counts (R473). -/
  kernErrors : Nat := 0
  deriving DecidableEq, Repr

/-! ### Translation -/

/-- What a home request carries of its segment (R154). -/
structure SegAttr where
  known    : Bool := false
  cls      : Nat := 0
  slot     : Nat := 0
  aclass   : Nat := 0
  zse      : Bool := false
  pf       : Nat := 1
  watchEn  : Bool := false
  watchId  : Nat := 0
  wide     : Bool := false
  deriving DecidableEq, Repr

/-- A translated range: pieces of device memory, a host range, or a window range. -/
structure Span where
  /-- TYPE of its segment. -/
  typ   : Nat
  seg   : Nat
  off   : Nat
  len   : Nat
  /-- LOCAL: (device address, bytes) of each page it touches. HOST: the host address. -/
  pieces : List (Nat × Nat) := []
  host  : Nat := 0
  die   : Nat := 0
  win   : Nat := 0
  attr  : SegAttr := {}
  deriving DecidableEq, Repr

/-- An access that has passed its checks and is not yet done: what was decided stands, whatever the tables hold now (R34).
`n` is its serial; the key is who makes it, the kind of access, and the range. -/
structure Passed where
  n    : Nat
  use  : Use
  ctx  : Nat
  acc  : Nat
  seg  : Nat
  off  : Nat
  len  : Nat
  span : Span
  deriving DecidableEq, Repr

/-- A cached translation (R160). -/
structure Xl where
  /-- 0 to 7 a region's cache, 8 the hub cache. -/
  cache : Nat
  ctx   : Nat
  seg   : Nat
  /-- None: the segment descriptor itself; else the first offset and the size of the block. -/
  block : Option (Nat × Nat)
  val   : Nat
  /-- The descriptor's remaining words. -/
  w1    : Nat := 0
  w2    : Nat := 0
  w3    : Nat := 0
  use   : Nat := 0
  deriving DecidableEq, Repr

/-- A fault record before it is written (Table 5.7), without PHASE and LATE. -/
structure FRec where
  typ   : Nat
  tile  : Bool := false
  held  : Bool := false
  late  : Bool := false
  cause : Nat := 0
  last  : Nat := 0
  ctx   : Nat := 0
  source : Nat := 0
  acc   : Nat := 0
  index : Nat := 0
  ptr   : Nat := 0
  lptr  : Nat := 0
  seq   : Nat := 0
  ring  : Nat := 0
  time  : Nat := 0
  d0    : Nat := 0
  d1    : Nat := 0
  deriving DecidableEq, Repr

/-- An access held under REPLAY (R167): by a command (DME tile, Sorter or Shopfront access) or by a request
of a cluster port. -/
structure Held where
  ctx   : Nat
  cmd   : Option Nat := none
  rid   : Option Nat := none
  deriving DecidableEq, Repr

/-- A slice's open batch and replay buffer (R170, R172). -/
structure FRing where
  batch  : List FRec := []
  opened : Nat := 0
  replay : List FRec := []
  /-- The consumer count last read. -/
  cons   : Nat := 0
  deriving DecidableEq, Repr

/-- An INVALIDATE between its steps 1 and 4 (R163). -/
structure Inval where
  cmd   : Nat
  start : Nat
  ctxs  : List Nat
  /-- Requests carrying an older epoch: those no home has accepted, accesses that have passed their checks and window requests not
  yet sent, by their serials; window trackers with their generations; host reads by tag. -/
  waits : List Nat
  trks  : List (Nat × Nat) := []
  tags  : List Nat := []
  deriving DecidableEq, Repr

/-- A TRANSLATION record that waits for an entry of the replay buffer (R172), and the access that is held with it under
REPLAY once it has one. -/
structure Stall where
  frec : FRec
  held : Option Held := none
  deriving DecidableEq, Repr

structure Xlat where
  caches : List Xl := []
  /-- Accesses under way whose checks have been passed (R34). -/
  passed : List Passed := []
  rings  : Tab FRing := []
  held   : List Held := []
  /-- Halvings of the access counters that are due (R177). -/
  decayDue : Nat := 0
  /-- When a context entered FAULTED, in tick edges. -/
  faultAt : Tab Nat := []
  inval  : Option Inval := none
  /-- Counts of host blocks (R176): (context, segment, block, count, last use). -/
  hostCnt : List (Nat × Nat × Nat × Nat × Nat) := []
  /-- Records that wait for a replay-buffer entry (R172), oldest first; their contexts have stalled. -/
  stalled : List Stall := []
  /-- Table reads from the host under way: translation cache, address, and for whom (R160). -/
  walks  : List (Nat × Nat × Use) := []
  deriving DecidableEq, Repr

/-! ### Windows -/

/-- One request packet of a window access before it leaves (R179, Table 6.3). -/
structure WinReq where
  use   : Use
  /-- The issuing context, and its slice, which is charged (R183). -/
  ctx   : Nat
  slice : Option Nat
  die   : Nat
  win   : Nat
  op    : Nat
  off   : Nat
  len   : Nat := 0
  arg   : Nat := 0
  payload : List Byte := []
  /-- It may leave only by a port whose sealing is ON (R357). -/
  needSeal : Bool := false
  /-- Its serial. -/
  n     : Nat := 0
  deriving DecidableEq, Repr

/-- An outstanding window request (R181): tracker number and generation, port, and when it left. -/
structure Trk where
  n     : Nat
  gen   : Nat
  port  : Nat
  sent  : Nat
  req   : WinReq
  /-- The issuing context has been torn down: the response is discarded (R196). -/
  dead  : Bool := false
  deriving DecidableEq, Repr

/-- Data a window response brought, until its access takes it. -/
structure WinData where
  use  : Use
  die  : Nat
  win  : Nat
  op   : Nat
  off  : Nat
  bytes : List Byte
  deriving DecidableEq, Repr

/-- A request packet received and not yet answered: its serial, port, bytes, whether it was verified, and the four
words of the window table entry it matched (R187), once it has been looked up. -/
structure RxPkt where
  k    : Nat
  port : Nat
  bytes : List Byte
  verified : Bool
  ent  : List Word := []
  deriving DecidableEq, Repr

structure Win where
  /-- Requests that wait for a tracker, a credit or their bucket, oldest first. -/
  queue : List WinReq := []
  trks  : List Trk := []
  gens  : Tab Nat := []
  data  : List WinData := []
  /-- MAP_WINDOW operations that wait for packets of the old entry: (operation, window, serials, command). -/
  mapOps : List (Nat × Nat × List Nat × Nat) := []
  rx    : List RxPkt := []
  /-- Responses that wait for a response-class credit: port, and the packet before sealing. -/
  rspq  : List (Nat × List Byte) := []
  /-- The TIME exchange in progress: its T1. -/
  timeT1 : Option Nat := none
  /-- Tick edges since the last exchange; good exchanges in a row. -/
  timeTicks : Nat := 0
  good  : Nat := 0
  /-- Link token buckets (R183): bytes of the guarantee and of the cap with the die time they were set at. -/
  lbw   : Tab (Int × Int × Nat) := []
  /-- The slice whose request above its guarantee left last (R183). -/
  turn  : Nat := 0
  deriving DecidableEq, Repr

/-! ### The homes: requests, transactions, caches -/

/-- The requests of Table 7.3. -/
inductive HomeOp where
  | readShared | readOwn | readOnce | writeFull | writeMask | atomic | reduce | pf | wb
  deriving DecidableEq, Repr

/-- A request on its way to, or at, a home. -/
structure Req where
  rid   : Nat
  /-- Requester identifier of Table 7.6. -/
  who   : Nat
  op    : HomeOp
  /-- a[49:7] -/
  line  : Nat
  off   : Nat := 0
  ctx   : Option Nat := none
  slice : Option Nat := none
  attr  : SegAttr := {}
  data  : Line := 0
  mask  : BitVec 128 := 0
  aop   : Nat := 0
  asize : Nat := 8
  srcFmt : Nat := 0
  dstFmt : Nat := 0
  round : Bool := false
  /-- Where the response goes: the cluster's TAG, tile beat. -/
  tag   : Nat := 0
  tile  : Bool := false
  beat  : Nat := 0
  lines : Nat := 1
  /-- Answered RETRY and not yet granted. -/
  retried : Bool := false
  /-- Accepted into a tracker of the home. -/
  tracker : Option Nat := none
  /-- The epoch the translation carries (R163). -/
  epoch : Nat := 0
  /-- The kernel's command, for charging errors. -/
  cmd   : Option Nat := none
  /-- Dropped by a teardown: its response is DROPPED or discarded. -/
  drop  : Bool := false
  /-- The pointer, and whether it stands in the port stop, not yet translated. -/
  ptr   : Nat := 0
  heldP : Bool := false
  /-- Stride-detector stream of the request (R215). -/
  stream : Nat := 0
  /-- The port stop has received the RETRY (R229); and the code with which the lines of its tile have failed. -/
  told  : Bool := false
  rcode : Nat := 0
  /-- Sent through a WINDOW segment instead of to a home: die, window, offset. Sent to the host: the address. -/
  window : Option (Nat × Nat × Nat) := none
  host  : Option Nat := none
  /-- Its place among the requests that homes have accepted. -/
  won   : Nat := 0
  /-- When it was sent (R231 compares requests that arrive together), in the units of `Env.tq`. -/
  at_   : Nat := 0
  /-- A request of an agent without a port that was retried: for whom that agent makes its access (R227). -/
  use   : Option Use := none
  deriving DecidableEq, Repr

/-- A snoop at one cluster port (R221, R237). -/
structure Snp where
  k    : Nat
  stag : Nat
  sop  : Nat
  line : Nat
  sent : Nat
  /-- Answered HIT_M: its SDAT is awaited; answered WB_PENDING: the WB is awaited. -/
  wait : Nat := 0
  deriving DecidableEq, Repr

/-- The active transaction of a line at its home (R232). -/
structure Txn where
  /-- The serial of a transaction that serves no request of a cluster. -/
  id   : Nat := 0
  line : Nat
  sop  : Nat
  /-- The request it serves; none: an engine's access, a sweep, an eviction or a flush. -/
  rid  : Option Nat := none
  /-- For whom an engine's access waits. -/
  use  : Option Use := none
  /-- The cluster that must not be invalidated (READ_OWN). -/
  skipK : Option Nat := none
  /-- Each region's collector: the clusters' answers so far as (cluster, code), and whether it has answered. -/
  colls : List (Nat × List (Nat × Nat) × Bool) := []
  /-- The owner alone is snooped. -/
  owner : Option Nat := none
  /-- The owner's answer: 0 MISS, 1 HIT_S, 2 HIT_E, 3 HIT_M, 4 WB_PENDING (its WB has been taken). -/
  ans   : Nat := 0
  sdat  : Option Line := none
  /-- The WATCH field that came with the data. -/
  watchEn : Bool := false
  watchId : Nat := 0
  /-- The line is lost to dead cluster `dead`. -/
  lost  : Bool := false
  dead  : Nat := 0
  sweep : Bool := false
  /-- The write it serves replaces the whole line, so that data a holder returns is not kept (R221). -/
  repl  : Bool := false
  /-- The class of the entry it removed, which a new entry of the line records (R212). -/
  aclass : Option Nat := none
  /-- Settled: the cluster's request it served may be performed, and no other. -/
  settled : Bool := false
  deriving DecidableEq, Repr

/-- An entry of a home's grant queue (R228): the requester identifier; for CONFLICT the line and the serial of the
transaction that caused the retry; and whether a further transaction on the line has gone ahead since that ended (R230). -/
structure GrantEnt where
  who   : Nat
  line  : Option Nat := none
  cause : Nat := 0
  overtaken : Bool := false
  deriving DecidableEq, Repr

/-- An LC line (Table 7.1); TAG is its key in the table, STATE_PAR and the parity bits always agree, and an
error is found by a checker's event. -/
structure LcLine where
  way   : Nat
  v     : BitVec 4
  d     : BitVec 4
  z     : BitVec 4
  zse   : Bool := false
  aclass : Nat := 0
  slot  : Nat := 0
  data  : Line
  lru   : Nat := 0
  deriving DecidableEq, Repr

/-- A directory entry (Table 7.2). -/
structure DirEnt where
  way     : Nat := 0
  owned   : Bool
  present : BitVec 8
  owner   : Nat := 0
  aclass  : Nat := 0
  lru     : Nat := 0
  deriving DecidableEq, Repr

/-- A line of a side buffer (R216). -/
structure Side where
  line : Nat
  z    : BitVec 4
  zse  : Bool := false
  data : Line
  deriving DecidableEq, Repr

/-- The filter of a flush (Table 7.10). -/
inductive Filter where
  | all (r : Nat)
  | slice (s : Nat)
  | pages (ps : List Nat)
  | slot (k : Nat)
  deriving DecidableEq, Repr

/-- What a completed flush lets go on. -/
inductive After where
  | gating (r : Nat)
  | reclaim (s : Nat)
  | potOp (id : Nat)
  | bind (slot : Nat)
  | retire (slot : Nat)
  deriving DecidableEq, Repr

structure Flush where
  id     : Nat
  filter : Filter
  after  : After
  deriving DecidableEq, Repr

/-- Stride detector of a cluster's stream (R215): last line, stride, trained. -/
structure Stride where
  last    : Nat
  stride  : Int := 0
  trained : Bool := false
  deriving DecidableEq, Repr

structure Coh where
  reqs   : List Req := []
  snps   : List Snp := []
  txns   : List Txn := []
  lc     : Tab (Option LcLine) := []
  dir    : Tab (Option DirEnt) := []
  side   : Tab (List Side) := []
  /-- Grant queue of each home, oldest first. -/
  grants : Tab (List GrantEnt) := []
  /-- Pages on each home's pending-withdrawal list (R239). -/
  wdraw  : Tab (List Nat) := []
  /-- Rotating priority pointer of each home (R231). -/
  ptr    : Tab Nat := []
  flushes : List Flush := []
  /-- What an owner's SNP_PEEK answer brought: for whom, the line, and the data of a line held in M. -/
  peeks  : List (Use × Nat × Option Line) := []
  strides : Tab (Option Stride) := []
  /-- Sweep and scrub positions of each home. -/
  sweepPos : Tab Nat := []
  scrubPos : Tab Nat := []
  /-- Lines that the array scrub of each home has skipped in the present set, to visit again after it (R399). -/
  scrubRe  : Tab (List Nat) := []
  sweepAt  : Tab Nat := []
  scrubAt  : Tab Nat := []
  /-- Directory walks of R238 that are due: dead clusters. -/
  dead   : List Nat := []
  /-- Credits of each cluster-port channel the cluster or Turril holds, as used so far. -/
  credits : Tab Nat := []
  clock  : Nat := 0
  deriving DecidableEq, Repr

/-! ### Memory -/

/-- A cached null-map or tag line. -/
structure CLine where
  data  : Line
  dirty : Bool
  lru   : Nat
  deriving DecidableEq, Repr

/-- A read that waits at a memory controller (R263): its line, the slice it is charged to, for whom, and how many younger
reads of its class have passed it. -/
structure MWait where
  line   : Nat
  slice  : Option Nat
  use    : Use
  passes : Nat := 0
  deriving DecidableEq, Repr

/-- A null-map line of all ones (R258). -/
def ones : Line := BitVec.allOnes 1024

/-- A request at a memory controller from outside the homes: a read with the symbols that are wrong in DRAM, or a write. -/
inductive McReq where
  | read (line : Nat) (flips : List (Nat × BitVec 16))
  | write (line sectors : Nat) (zse : Bool) (data : Line)
  /-- The LINE_CODE injection of Table 12.5. -/
  | inject (line sym : Nat)
  deriving DecidableEq, Repr

structure Mem where
  /-- DRAM data bytes by device physical address, and side-band bytes by 16 × line + byte (R249). -/
  dram   : List Host.Cell := []
  side   : List Host.Cell := []
  /-- Null-map lines in DRAM by stack × 2^22 + index, and the symbols of each that are wrong. -/
  nmap   : Tab Line := []
  nmapBad : Tab (List (Nat × BitVec 16)) := []
  /-- Null-map cache and tag cache: key as above, and the tag line's a[49:7]. -/
  nmc    : Tab (Option CLine) := []
  tagc   : Tab (Option CLine) := []
  /-- Buckets of R262 by controller × 512 + slice: guarantee, cap, the die time they were brought up to. -/
  buckets : Tab (Int × Int × Nat) := []
  /-- Maintenance bursts used in the current 10 µs window of each controller: (window, bytes). -/
  maint  : Tab (Nat × Nat) := []
  /-- Bytes of classes 2 to 4 moved in the current 10 µs window of each controller: (window, bytes). -/
  slots  : Tab (Nat × Nat) := []
  /-- Reads that wait, oldest first; and the slice that class 3 served last at each controller (R263). -/
  waits  : List MWait := []
  turn   : Tab Nat := []
  /-- The open row of each bank, and its activations that refresh management has not yet answered (R265), by
  (64 × stack + pseudo-channel) × 64 + bank. -/
  rows   : Tab (Option Nat) := []
  acts   : Tab Nat := []
  /-- By 64 × stack + pseudo-channel: die time at which its next all-bank refresh is due, and the bank that a per-bank refresh
  takes next (R265). -/
  refDue : Tab Nat := []
  refBank : Tab Nat := []
  /-- Requests of MC_READ and MC_WRITE that wait at their controller (R258), by unique numbers. -/
  queue  : List (Nat × McReq) := []
  /-- Start-up state of each stack: 0 untrained, 1 training, 2 null-map write, 3 ready or failed. -/
  stack  : Tab Nat := []
  selfRef : List Nat := []
  /-- Stacks that are retraining. -/
  retr   : List Nat := []
  /-- Pseudo-channel in blackout of each stack, and the next one due (R401). -/
  cal    : Tab (Option Nat) := []
  calNext : Tab Nat := []
  /-- Tick at which the next calibration of each stack is due; the pseudo-channel mcp_x_cal_pc names. -/
  calDue : Tab Nat := []
  calPc  : Tab Nat := []
  /-- PHY update requests that wait: 64 × stack + pseudo-channel (R476). -/
  phyupd : List Nat := []
  /-- Refreshes postponed by a blackout: (stack, pseudo-channel). -/
  postponed : List (Nat × Nat) := []
  /-- Temperature request outstanding since. -/
  temp   : Tab (Option Nat) := []
  /-- Die time at which the next patrol visit is due, of the latest one, and of the next null-map visit, with its position. -/
  patrolDue : Tab Nat := []
  patrolAt : Tab Nat := []
  nmapDue : Tab Nat := []
  /-- Activities the Foreman has paused or lets wait: the stack for its patrol, 8 more for its null-map scrub, 16 more for a wait
  of its GATING, 24 more for its calibration; 32 and the home for an array scrub, 96 and the home for a sweep. -/
  paused : List Nat := []
  nmapPos : Tab Nat := []
  /-- LINE_CODE injection buffer of each controller: line and data (Table 12.5). -/
  injBuf : Tab (Option (Nat × Line)) := []
  clock  : Nat := 0
  deriving DecidableEq, Repr

/-! ### Engines, protection, faults, observation, start-up -/

/-- A DME tile handed out by a Sorter: a gather row or a COMBINE row (R296, R299). -/
structure DmeJob where
  dme : Nat
  cmd : Nat
  /-- Its next tile waits for a key slot (R406). -/
  keyWait : Bool := false
  deriving DecidableEq, Repr

structure Eng where
  /-- Commands placed on DMEs, in the order they came. -/
  jobs   : List DmeJob := []
  /-- Lead commands of each Sorter, in order; the running one is `running`. -/
  leads  : List DmeJob := []
  running : Tab (Option Nat) := []
  /-- DISPATCH commands that left their lead while an access is held under REPLAY (R301). -/
  away   : List DmeJob := []
  /-- Select items: (helper, command, item, done). -/
  items  : List (Nat × Nat × Nat × Bool) := []
  /-- Sorter commands whose SRAM met one parity error (R304). -/
  parity : List Nat := []
  keepAt : Tab Nat := []
  /-- Service passes of R138: engine × 1024 + slice (512: kernel contexts), and engine × 8192 + context. -/
  wrrS   : Tab Nat := []
  wrrC   : Tab Nat := []
  /-- Generator states of R316 by Crucible × 513 + slice (512: kernel contexts). -/
  gens   : Tab Word := []
  deriving DecidableEq, Repr

structure SlotKeys where
  k1 : BitVec 256
  k2 : BitVec 256
  k3 : BitVec 256
  deriving DecidableEq, Repr

structure LinkKeys where
  txKey : BitVec 256
  rxKey : BitVec 256
  txSalt : BitVec 32
  rxSalt : BitVec 32
  deriving DecidableEq, Repr

/-- A link key exchange in progress (R358). -/
structure Kex where
  port   : Nat
  /-- 1 M1 sent, 2 M2 sent, 3 staged. -/
  stage  : Nat
  init   : Bool
  priv   : Nat
  m1     : List Byte
  m2     : List Byte
  keys   : Option LinkKeys := none
  peer   : Nat := 0
  deriving DecidableEq, Repr

structure SealSt where
  keys   : Tab (Option SlotKeys) := []
  /-- Commands that BIND or RETIRE slots: (slot, command; none for slot 0 or reclamation). -/
  ops    : List (Nat × Option Nat) := []
  links  : Tab (Option LinkKeys) := []
  kex    : Option Kex := none
  /-- Debug: the challenge presented, and whether access is authorised. -/
  chal   : Option (List Byte) := none
  auth   : Bool := false
  /-- Life-cycle programming in progress: the target. -/
  prog   : Option Nat := none
  /-- OTP words whose programming may still be under way (R456), with their contents before it. -/
  burn   : List (Nat × Word) := []
  /-- Signing key, SVN and kind of the running image. -/
  image  : Option (Nat × Nat × Bool) := none
  deriving DecidableEq, Repr

structure AssaySt where
  /-- Reports that wait in their reporters (R372), oldest first. -/
  waiting : List Report := []
  /-- Tick edges since the last watchdog kick. -/
  kicks  : Nat := 0
  /-- A quiet count is running. -/
  quiet  : Bool := false
  /-- Reports merged whose cause counter rises with the next report of the reporter (R372). -/
  merged : List (Nat × Nat × Nat) := []
  /-- Reports whose reporter has its four places full, so that their checker holds the request that found the error. -/
  held   : List Report := []
  /-- The intake queue, in the order of entry, and the reporter served last: unit × 256 + instance (R372). -/
  intake : List Report := []
  rr     : Nat := 0
  /-- Reports that entered ahead of the row that names them. -/
  early  : List Report := []
  deriving DecidableEq, Repr

/-- Accumulators of an open watch (R427). -/
structure WatchAcc where
  digest : Word := 0
  lines  : Word := 0
  zeros  : Nat := 0
  nans   : Nat := 0
  infs   : Nat := 0
  minE   : Option Int := none
  maxE   : Option Int := none
  start  : Nat := 0
  log2   : Nat := 4
  ring   : Nat := 0
  cons   : Nat := 0
  lost   : Bool := false
  /-- Of a closed interval: the watch, its format, and the writes its homes had accepted before the switch (R428). -/
  watch  : Nat := 0
  fmt    : Nat := 0
  waits  : List Nat := []
  deriving DecidableEq, Repr

structure CountSt where
  cnt    : Tab (BitVec 48) := []
  epoch  : Tab (BitVec 16) := []
  /-- The snapshot half that CH_SNAP reads, and the freeze buffer, each with its latch number. -/
  snap   : Nat × Tab Word := (0, [])
  frz    : Nat × Tab Word := (0, [])
  /-- The sweep in progress, filling the other half: latch number, die time, entries. -/
  sweep  : Option (Nat × Nat × Tab Word) := none
  watch  : Tab (Option WatchAcc) := []
  /-- Interval switches under way: (watch command, closed accumulators). -/
  switch : List (Nat × WatchAcc) := []
  /-- Bytes of the current window of each monitor, its window number, and whether a step fell in it. -/
  mons   : Tab (Nat × Nat × Bool) := []
  deriving DecidableEq, Repr

/-- GATING or WAKING of a region: the step of R39, when it began, and whether a wake waits. -/
structure Power where
  step : Nat := 0
  at_  : Nat := 0
  wake : Bool := false
  idle : Nat := 0
  busy : Bool := false
  /-- Die time at which the region left RUNNING. -/
  left : Nat := 0
  ack  : Bool := true
  belowTicks : Nat := 0
  deriving DecidableEq, Repr

structure BootSt where
  pwrGood : Bool := false
  phaseAt : Nat := 0
  mbox    : List Host.Cell := []
  /-- Withdrawn-page list of R444: (page, cause). -/
  bad     : List (Nat × Nat) := []
  /-- Counts kept for Virlon: RECOVERIES, COLD_BOOTS, DIE_TOTAL, UE_TOTAL, LOST_TOTAL, POWER_ON_S. -/
  counts  : List Nat := []
  /-- Training results of each stack that the always-on domain holds. -/
  trained : Tab Nat := []
  /-- Training seeds STACK[n] chosen from the flash. -/
  seeds   : Tab (List Byte) := []
  /-- The warm reset in progress comes from R377. -/
  fromDie : Bool := false
  inWarm  : Bool := false
  hpReady : Bool := false
  bmcAddr : Nat := 0x5A
  tapIr   : Nat := 1
  powers  : Tab Power := []
  /-- Outstanding outbound host reads: (tag, who, address, length, for whom). -/
  reads   : List (Nat × Who × Nat × Nat × Use) := []
  /-- Data host completions brought: for whom, address, bytes; and host errors with the PCIe status. -/
  hdata   : List (Use × Nat × List Byte) := []
  herr    : List (Use × Nat × Nat) := []
  /-- Inbound host-port requests that wait at a home: (serial, request). -/
  inq : List (Nat × HpReq) := []
  /-- Header and data credits Turril holds at the host port, and the transactions that wait for them (R461, R478). -/
  hpHdr : Nat := 64
  hpDat : Nat := 256
  outq  : List Msg := []
  deriving DecidableEq, Repr

/-! ### The die and the state -/

/-- Everything but the clocks, the OTP and the lockable registers. -/
structure Die where
  regs : Tab (Tab Word) := []
  sf   : Shop := {}
  sm   : Slices := {}
  ty   : Tally := {}
  stu  : Xlat := {}
  we   : Win := {}
  coh  : Coh := {}
  mem  : Mem := {}
  eng  : Eng := {}
  se   : SealSt := {}
  ay   : AssaySt := {}
  ch   : CountSt := {}
  bt   : BootSt := {}
  out  : List Msg := []
  /-- W1C bits that events have set at the present die time: register, 8 × element + word, bit (R11). -/
  rose : List (Nat × Nat × Nat) := []
  /-- Record banks that a write has re-armed at the present die time, with the words they held (R375). -/
  rearmed : List (Nat × Nat × List Word) := []
  /-- Counter of free values drawn, and next unique number. The model's own fields. -/
  ctr  : Nat := 0
  nid  : Nat := 1
  deriving DecidableEq, Repr

/-- The always-on clock, the build of the die, the OTP and the registers that lock at firmware seal. -/
structure Env where
  /-- Region count (R1), stepping, and the rows of Table 8.1 (0 to 5) fitted, one per region. -/
  regions : Nat := 8
  stepping : Nat := 0
  fit    : List Nat := [2, 2, 2, 2, 2, 2, 2, 2]
  /-- Die time in units of 2^-16 ns (R431), the reference period within the tick (R35), and the slew still due. -/
  tq     : Nat := 0
  phase  : Nat := 0
  slew   : Int := 0
  /-- The OTP words of Table 16.13. -/
  otp    : Tab Word := []
  /-- SF_PRIV_RING, ST_DIE_ID and SE_SLOT0 (R507), and ST_SEAL.SEALED (R449). -/
  privRing : Word := 0
  dieId  : Word := 0
  slot0  : Word := 0
  fwSeal : Bool := false
  deriving DecidableEq, Repr

/-- Die time in ns (R431). -/
def Env.now (e : Env) : Nat := e.tq / 65536

/-- The machine: its clocks and locks, the die, and the commands that wait, first in first out. -/
structure State where
  env     : Env := {}
  d       : Die := {}
  pending : List Instr := []
  deriving DecidableEq, Repr

/-- Why the machine stops. No meaning of this model stops: an event that is not due changes nothing. -/
inductive Fault where
  /-- An access to an address outside the 50-bit device space; no meaning raises it (safe). -/
  | badAddress
  deriving DecidableEq, Repr

/-- Why a command has no meaning. -/
inductive Refusal where
  /-- Raised by Dispatch for a command that has no meaning yet (safe). -/
  | notModelled (mnemonic : String)
  deriving DecidableEq, Repr

/-- The state of a cold reset before power-good (R459, R436): every register at its reset value. -/
def State.reset : State := {}

end Sys2Proof.Machine
end

