-- ==== Sys2Proof/Machine/Ops.lean ====
section
/-! DEFINITION. The named operations every meaning is built from: registers and their fields, counters,
messages, free values, reports to Assay, and the look-ups of contexts, slices, clusters and pages. -/

namespace Sys2Proof.Machine

/-- The outcome of a command that changes the die alone. -/
def State.go (s : State) (d : Die) : Host.Outcome State Fault Refusal := .next { s with d := d }

/-! ### Registers -/

/-- Word `w` of element `i` of register `r`. -/
def Die.reg (d : Die) (r : Reg) (i w : Nat) : Word :=
  Tab.get (r.resetWord w) (Tab.get [] d.regs r.ctorIdx) (8 * i + w)

/-- The die with word `w` of element `i` of register `r` set to `v`. -/
def Die.setReg (d : Die) (r : Reg) (i w : Nat) (v : Word) : Die :=
  let t := Tab.set (r.resetWord w) (Tab.get [] d.regs r.ctorIdx) (8 * i + w) v
  { d with regs := Tab.set [] d.regs r.ctorIdx t }

/-- Field `f` of element `i`. -/
def Die.getF (d : Die) (f : Fld) (i : Nat) : Nat := fieldOf (d.reg f.reg i f.word) f.lo f.width

/-- The die with field `f` of element `i` set to the low bits of `v`. -/
def Die.setF (d : Die) (f : Fld) (i v : Nat) : Die :=
  d.setReg f.reg i f.word (putField (d.reg f.reg i f.word) f.lo f.width v)

/-- An event sets bits of a W1C field: a write in the same cycle, which is the same die time,
does not clear them (R11); log entry 7. -/
def Die.setEvs (d : Die) (f : Fld) (i v : Nat) : Die :=
  { d.setF f i (d.getF f i ||| v) with
      rose := ((List.range f.width).filter (fun b => decide (bitsOf v b 1 = 1))).map (fun b => (f.reg.ctorIdx, 8 * i + f.word, f.lo + b)) ++ d.rose }

/-- An event sets a W1C bit. -/
def Die.setEv (d : Die) (f : Fld) (i : Nat) : Die := d.setEvs f i 1

/-- The word of a register that a write brings, without the bits that clear what an event set in this cycle (R11). -/
def Die.offered (d : Die) (r : Reg) (i w : Nat) (v : Word) : Word :=
  (d.rose.filter (fun x => decide (x.1 = r.ctorIdx ∧ x.2.1 = 8 * i + w))).foldl (fun v x => v &&& ~~~ BitVec.ofNat 64 (2 ^ x.2.2)) v

/-- A one-bit field as a truth value. -/
def Die.bit (d : Die) (f : Fld) (i : Nat) : Bool := decide (d.getF f i = 1)

/-- A counter field that saturates rises by `n`. -/
def Die.incSat (d : Die) (f : Fld) (i n : Nat) : Die := d.setF f i (satAdd f.width (d.getF f i) n)

/-- A counter field that wraps rises by `n`. -/
def Die.incWrap (d : Die) (f : Fld) (i n : Nat) : Die := d.setF f i (d.getF f i + n)

/-- Every element of a register back to its reset value. -/
def Die.clearReg (d : Die) (r : Reg) : Die := { d with regs := Tab.erase d.regs r.ctorIdx }

/-- Element `i` of a register back to its reset value. -/
def Die.clearElem (d : Die) (r : Reg) (i : Nat) : Die :=
  (List.range r.layout.words).foldl (fun d w => d.setReg r i w (r.resetWord w)) d

/-! ### Messages, free values, names -/

/-- A message driven on an output port. -/
def Die.send (d : Die) (m : Msg) : Die := { d with out := m :: d.out }

/-- The die after one free value has been drawn. -/
def Die.drawn (d : Die) : Die := { d with ctr := d.ctr + 1 }

/-- The free 64-bit value that the next draw gives. -/
def Die.free (d : Die) : Word := Config.freeWord d.ctr

/-- A 256-bit free value: four draws. -/
def Die.free256 (d : Die) : BitVec 256 :=
  Config.freeWord (d.ctr + 3) ++ Config.freeWord (d.ctr + 2) ++ Config.freeWord (d.ctr + 1) ++ Config.freeWord d.ctr

/-- A new unique number has been taken. -/
def Die.named (d : Die) : Die := { d with nid := d.nid + 1 }

/-! ### Counters (R409 to R416) -/

/-- Counter `id` rises by `n`, unless counting is off; the always-on set always counts (R411, R412). -/
def Die.count (d : Die) (id n : Nat) : Die :=
  if id < 64 ∨ d.getF F.CH_CFG.COUNT_ENABLE 0 = 1 then
    { d with ch.cnt := Tab.set 0 d.ch.cnt id (Tab.get 0 d.ch.cnt id + BitVec.ofNat 48 n) }
  else d

/-- Counter `id` is reset and its epoch rises (R414). -/
def Die.resetCount (d : Die) (id : Nat) : Die :=
  { d with ch.cnt := Tab.set 0 d.ch.cnt id 0, ch.epoch := Tab.set 0 d.ch.epoch id (Tab.get 0 d.ch.epoch id + 1) }

/-- The window of monitor `m` that die time `t` lies in (R424). -/
def Die.monWindow (d : Die) (m t : Nat) : Nat := t / (min 1000000 (d.getF F.CH_BWMON.WINDOW_US m) * 1000)

/-- The windows of monitor `m` that have ended by die time `t` close (R424): the one that was open with its
bytes, those after it with none. -/
def Die.rollMon (d : Die) (e : Env) (m : Nat) : Die :=
  let s := Tab.get (0, 0, false) d.ch.mons m
  let w := d.monWindow m e.now
  if d.getF F.CH_BWMON.WINDOW_US m = 0 ∨ w ≤ s.2.1 then d
  else
    let last := if w = s.2.1 + 1 then s.1 else 0
    let d := d.setF F.CH_BWLAST.BYTES m last
    let d := d.setF F.CH_BWLAST.STEPPED m (Bool.num (s.2.2 && decide (w = s.2.1 + 1)))
    let d := d.setF F.CH_BWPEAK.PEAK m (max (d.getF F.CH_BWPEAK.PEAK m) (s.1 % 2 ^ 48))
    let d := d.incWrap F.CH_BWCOUNT.WINDOWS m (w - s.2.1)
    { d with ch.mons := Tab.set (0, 0, false) d.ch.mons m (0, w, false) }

/-- Bytes moved at a monitored source (Table 14.5) enter every monitor set to it (R423). A monitor that a write
restarted counts from its next window boundary. -/
def Die.monitor (d : Die) (e : Env) (source inst dir n : Nat) : Die :=
  (List.range 64).foldl (fun d m =>
    if d.getF F.CH_BWMON.WINDOW_US m ≠ 0 ∧ d.getF F.CH_BWMON.SOURCE m = source ∧
        d.getF F.CH_BWMON.INSTANCE m = inst ∧ (d.getF F.CH_BWMON.DIR m = dir ∨ source = 6) then
      let d := d.rollMon e m
      let s := Tab.get (0, 0, false) d.ch.mons m
      if s.2.1 ≤ d.monWindow m e.now then { d with ch.mons := Tab.set (0, 0, false) d.ch.mons m (s.1 + n, s.2) } else d
    else d) d

/-! ### A set-up write that is ignored -/

/-- A set-up write or action is ignored and counted in its unit's CFG_REJECT, and so in always-on 61. -/
def Die.reject (d : Die) (f : Fld) (i : Nat) : Die := (d.incSat f i 1).count 61 1

/-- The access is counted in always-on counter 59 (R8, R506). -/
def Die.badAccess (d : Die) : Die := d.count 59 1

/-! ### Configuration (R1 to R5, R101, Table 8.1) -/

def Env.clusters (e : Env) : Nat := 8 * e.regions

/-- The value C of R15. -/
def Env.meshColumns (e : Env) : Nat := if e.regions = 8 then 4 else 2

/-- log2 of the number of LC slices (R203). -/
def Env.log2N (e : Env) : Nat := if e.regions = 8 then 6 else if e.regions = 4 then 5 else 4

/-- A row of Table 8.1. -/
structure StackRow where
  mode  : Nat
  log2Pc : Nat
  pages : Nat
  banks : Nat
  nmap  : Nat
  deriving DecidableEq, Repr

/-- Table 8.1, rows 0 to 2 HBM4 and 3 to 5 HBM3E. -/
def stackRows : List StackRow :=
  [⟨1, 6, 1536, 48, 6⟩, ⟨1, 6, 2048, 64, 8⟩, ⟨1, 6, 2304, 64, 9⟩,
   ⟨2, 5, 768, 32, 3⟩, ⟨2, 5, 1152, 48, 5⟩, ⟨2, 5, 1536, 64, 6⟩]

/-- The row of the table a mode and a geometry code name, if they name one (R477). -/
def stackRow (mode geom : Nat) : Option StackRow :=
  if geom < 3 then (if mode = 1 then stackRows[geom]? else if mode = 2 then stackRows[3 + geom]? else none) else none

/-- Present pages of stack `n`: after training those of MC_STATUS, before it those of the fitted stack. -/
def Die.stackPages (e : Env) (d : Die) (n : Nat) : Nat :=
  if n ≥ e.regions then 0
  else if d.getF F.MC_STATUS.MODE n = 3 then 0
  else if d.getF F.MC_STATUS.MODE n = 0 then ((e.fit[n]?.bind (fun r => stackRows[r]?)).map (·.pages)).getD 0
  else d.getF F.MC_STATUS.PRESENT_PAGES n

/-- Page `p` is present (R101). -/
def Die.present (e : Env) (d : Die) (p : Nat) : Bool :=
  decide (p < 18432) && decide (p % 2304 < d.stackPages e (p / 2304))

def pageOf (a : Nat) : Nat := a / 2 ^ 25
def pageOfLine (l : Nat) : Nat := l / 2 ^ 18
def stackOf (p : Nat) : Nat := p / 2304

/-- The null-map pages of a stack: its highest NP present pages (R252). -/
def Die.isNmapPage (e : Env) (d : Die) (p : Nat) : Bool :=
  d.present e p && decide (p % 2304 + d.getF F.MC_STATUS.NMAP_PAGES (stackOf p) ≥ d.stackPages e (stackOf p))

/-- The firmware reserve: the lowest 64 ÷ N pages of each stack (R252). -/
def Env.isReserve (e : Env) (p : Nat) : Bool := decide (p % 2304 < 64 / e.regions) && decide (p / 2304 < e.regions)

/-! ### Contexts, slices, clusters -/

def Die.ctxState (d : Die) (c : Nat) : Nat := d.getF F.SF_CTX_STATUS.STATE c
def Die.setCtxState (d : Die) (c st : Nat) : Die := d.setF F.SF_CTX_STATUS.STATE c st
def Die.isKernelCtx (d : Die) (c : Nat) : Bool := d.bit F.SF_CTX_CFG.KERNEL c
def Die.ctxSlice (d : Die) (c : Nat) : Nat := d.getF F.SF_CTX_CFG.SLICE c
def Die.ctxValid (d : Die) (c : Nat) : Bool := d.bit F.SF_CTX_CFG.VALID c
def Die.sliceState (d : Die) (s : Nat) : Nat := d.getF F.SM_SLICE.STATE s

/-- The slice of a context; none for a kernel context. -/
def Die.sliceOf (d : Die) (c : Nat) : Option Nat := if d.isKernelCtx c then none else some (d.ctxSlice c)

/-- R43: the context is usable. -/
def Die.usable (d : Die) (c : Nat) : Bool :=
  d.ctxValid c && (d.isKernelCtx c || decide (d.sliceState (d.ctxSlice c) = 1) || decide (d.sliceState (d.ctxSlice c) = 2))

/-- Work of the context may be fetched and started: usable, and its slice, if any, ACTIVE (Table 3.2). -/
def Die.runs (d : Die) (c : Nat) : Bool :=
  d.ctxValid c && (d.isKernelCtx c || decide (d.sliceState (d.ctxSlice c) = 2))

/-- The slice is BUILDING or DISABLED. -/
def Die.settable (d : Die) (s : Nat) : Bool := decide (d.sliceState s = 1) || decide (d.sliceState s = 4)

/-- A cluster is fenced (R21). -/
def Die.fenced (d : Die) (k : Nat) : Bool := decide (d.getF F.TY_CLUSTER.STATE k = 4)

/-- The cluster is present and not fenced. -/
def Die.live (e : Env) (d : Die) (k : Nat) : Bool := decide (k < e.clusters) && !d.fenced k

/-- The contexts whose rings, commands or requests can be found: every context with state. -/
def Die.sliceCtxs (d : Die) (s : Nat) : List Nat :=
  (List.range 4096).filter (fun c => d.ctxValid c && !d.isKernelCtx c && decide (d.ctxSlice c = s))

/-- Slices that are not ABSENT. -/
def Die.slices (d : Die) : List Nat := (List.range 512).filter (fun s => decide (d.sliceState s ≠ 0))

/-- The reserved slice that owns cluster `k`, if one does (R82, R83). -/
def Die.ownerOf (d : Die) (k : Nat) : Option Nat :=
  (List.range 512).find? (fun s => decide (d.sliceState s ≠ 0) && d.bit F.SM_SLICE.KIND s &&
    (d.reg .SM_SLICE_CLUSTERS s 0).getLsbD k)

/-- A live pool cluster: neither fenced nor reserved. -/
def Die.pooled (e : Env) (d : Die) (k : Nat) : Bool := d.live e k && (d.ownerOf k).isNone

/-- Region `r` is present. -/
def Env.hasRegion (e : Env) (r : Nat) : Bool := decide (r < e.regions)

/-- The rings that are enabled, in number order. -/
def Die.ringsOf (d : Die) (c : Nat) : List Nat :=
  (List.range 8192).filter (fun n => d.bit F.SF_RING_CTL.ENABLE n && decide (d.getF F.SF_RING_CTL.CONTEXT n = c))

def Die.head (d : Die) (n : Nat) : Nat := d.getF F.SF_RING_STATUS.HEAD n
def Die.tail (d : Die) (n : Nat) : Nat := d.getF F.SF_RING_STATUS.TAIL n

/-- The identity of a context's host requests (R90). A slice without a binding has none, and the fields of its entry name virtual
function 0; log entry 98. -/
def Die.hostId (d : Die) (c : Nat) : Who :=
  if d.isKernelCtx c then .pf
  else if d.bit F.SM_SLICE_BIND.PASID_VALID (d.ctxSlice c) then .pasid (BitVec.ofNat 20 (d.getF F.SM_SLICE_BIND.PASID (d.ctxSlice c)))
  else .vf (BitVec.ofNat 6 (d.getF F.SM_SLICE_BIND.VF (d.ctxSlice c)))

/-- The identity of a slice's own host requests (R90); of an unbound slice, log entry 98. -/
def Die.sliceId (d : Die) (s : Nat) : Who :=
  if d.bit F.SM_SLICE_BIND.PASID_VALID s then .pasid (BitVec.ofNat 20 (d.getF F.SM_SLICE_BIND.PASID s))
  else .vf (BitVec.ofNat 6 (d.getF F.SM_SLICE_BIND.VF s))

/-- The slice a host-port request belongs to (R91): privileged, a slice, or unbound. -/
inductive Owner where
  | privileged | slice (s : Nat) | unbound
  deriving DecidableEq, Repr

def Die.resolve (d : Die) : Who → Owner
  | .pasid n =>
    match (List.range 512).find? (fun s => d.bit F.SM_SLICE_BIND.PASID_VALID s && decide (d.getF F.SM_SLICE_BIND.PASID s = n.toNat)) with
    | some s => .slice s
    | none => .unbound
  | .vf n =>
    match (List.range 512).find? (fun s => d.bit F.SM_SLICE_BIND.VF_VALID s && decide (d.getF F.SM_SLICE_BIND.VF s = n.toNat)) with
    | some s => .slice s
    | none => .unbound
  | _ => .privileged

/-! ### Pages -/

def Die.pageState (d : Die) (p : Nat) : Nat := d.getF F.SM_POT.STATE p
def Die.pageOwner (d : Die) (p : Nat) : Nat := d.getF F.SM_POT.OWNER p

/-- The page is OWNED by slice `s`. -/
def Die.ownedBy (d : Die) (p s : Nat) : Bool := decide (d.pageState p = 2) && decide (d.pageOwner p = s)

/-- The slice that owns the page, if one does. -/
def Die.ownedPage (d : Die) (p : Nat) : Option Nat := if d.pageState p = 2 then some (d.pageOwner p) else none

/-- The die with page `p` in state `st`, with its owner, ORPHAN and CAUSE; SCRUBBING is kept. -/
def Die.setPage (d : Die) (p st owner orphan cause : Nat) : Die :=
  ((((d.setF F.SM_POT.STATE p st).setF F.SM_POT.OWNER p owner).setF F.SM_POT.ORPHAN p orphan).setF F.SM_POT.CAUSE p cause)

/-- The pages OWNED by slice `s`, by their entries in the table. -/
def Die.pagesOf (d : Die) (s : Nat) : List Nat :=
  ((Tab.get [] d.regs Reg.SM_POT.ctorIdx).map (fun x => x.1 / 8)).filter (fun p => d.ownedBy p s)

/-! ### Reports to Assay (R366, R368, R372) -/

/-- How Table 12.1 classes a cause. -/
inductive CKind where
  | corrected | die | star | slice | loss
  deriving DecidableEq, Repr

/-- A row of Table 12.1: code, class, SECURITY, and the reporting unit's code of Table 12.4. -/
structure CauseRow where
  code : Nat
  kind : CKind
  sec  : Bool
  unit : Nat
  deriving DecidableEq, Repr

/-- Table 12.1 in index order. -/
def causeRows : List CauseRow :=
  ([⟨0x0101, .corrected, false, 2⟩, ⟨0x0102, .die, false, 2⟩, ⟨0x0103, .star, false, 1⟩, ⟨0x0104, .star, false, 1⟩,
   ⟨0x0105, .star, false, 18⟩, ⟨0x0201, .star, false, 13⟩, ⟨0x0202, .slice, false, 14⟩, ⟨0x0203, .die, false, 11⟩] : List CauseRow) ++
  ([⟨0x0301, .corrected, false, 3⟩, ⟨0x0302, .loss, false, 3⟩, ⟨0x0303, .corrected, false, 3⟩, ⟨0x0304, .loss, false, 3⟩,
   ⟨0x0305, .corrected, false, 3⟩, ⟨0x0306, .die, false, 3⟩, ⟨0x0307, .corrected, false, 3⟩, ⟨0x0308, .corrected, false, 4⟩,
   ⟨0x0309, .corrected, false, 4⟩, ⟨0x030A, .die, false, 4⟩, ⟨0x030B, .loss, false, 4⟩] : List CauseRow) ++
  ([⟨0x0401, .corrected, false, 5⟩, ⟨0x0402, .loss, false, 5⟩, ⟨0x0403, .loss, false, 5⟩, ⟨0x0404, .star, false, 5⟩,
   ⟨0x0405, .corrected, false, 5⟩, ⟨0x0406, .die, false, 5⟩, ⟨0x0407, .corrected, false, 5⟩] : List CauseRow) ++
  ([⟨0x0501, .star, true, 6⟩, ⟨0x0502, .star, false, 3⟩, ⟨0x0503, .star, false, 3⟩, ⟨0x0504, .star, false, 3⟩,
   ⟨0x0505, .corrected, false, 6⟩, ⟨0x0506, .star, false, 6⟩, ⟨0x0507, .die, false, 6⟩, ⟨0x0508, .corrected, true, 7⟩,
   ⟨0x0509, .corrected, true, 17⟩] : List CauseRow) ++
  ([⟨0x0601, .corrected, false, 8⟩, ⟨0x0602, .star, false, 8⟩, ⟨0x0603, .star, false, 10⟩, ⟨0x0604, .star, false, 10⟩,
   ⟨0x0605, .corrected, false, 9⟩, ⟨0x0701, .die, false, 19⟩, ⟨0x0702, .corrected, false, 12⟩, ⟨0x0703, .die, false, 16⟩] : List CauseRow)

def causeRow (i : Nat) : CauseRow := (causeRows[i]?).getD ⟨0, .corrected, false, 0⟩

/-- The reporting unit's code (R516). -/
def unitCode (r : Report) : Nat := r.unit.getD (causeRow r.cause).unit

/-- R368, R369: the class of a report, 0 CORRECTED, 1 CONTAINED, 2 SLICE, 3 DIE. -/
def repClass (r : Report) : Nat :=
  if r.self then 0 else
  match (causeRow r.cause).kind with
  | .corrected => if r.hard && r.cause = 39 then (if r.ctx.isSome then 1 else 0) else 0
  | .die => 3
  | .slice => 2
  | .star => if r.hard && r.cause = 26 then 3 else if r.ctx.isSome then 1 else 0
  | .loss => if r.page = 2 then (if r.full then 2 else 1) else if r.page = 4 then 3 else 0

/-- The cause is CORRECTED in every case, so that its report may be merged (R372). -/
def mergeable (r : Report) : Bool :=
  decide ((causeRow r.cause).kind = .corrected) && decide (r.cause ≠ 39)

/-- The reporter of a report: unit × 256 + instance. -/
def reporter (r : Report) : Nat := 256 * unitCode r + r.inst % 256

/-- Reports that stand in the four places of a reporter. -/
def Die.placed (d : Die) (k : Nat) : Nat := (d.ay.waiting.filter (fun x => decide (reporter x = k))).length

/-- A checker sends Assay a report (R366). While HANDLING none is taken (R378). A fifth report of one reporter is merged
where its cause is always CORRECTED; otherwise its checker holds the request until a place frees (R372). -/
def Die.report (e : Env) (d : Die) (r : Report) : Die :=
  let r := { r with time := e.now }
  if d.bit F.AY_STATUS.HANDLING 0 then d
  else if d.placed (reporter r) < 4 then { d with ay.waiting := d.ay.waiting ++ [r] }
  else if mergeable r ∧ !r.self then
    { d.incSat F.AY_STATUS.MERGED 0 1 with ay.merged := (unitCode r, r.inst, r.cause) :: d.ay.merged }
  else { d with ay.held := d.ay.held ++ [r] }

/-- An error found by a home, a requester or an engine: the report with the context, its slice and a cause. -/
def Die.reportCtx (e : Env) (d : Die) (cause inst : Nat) (addr ctx : Option Nat) (det0 : Nat) : Die :=
  d.report e { cause := cause, inst := inst, addr := addr, ctx := ctx, slice := ctx.bind (fun c => d.sliceOf c), det0 := det0 }

/-! ### Injection hooks (Table 12.5) -/

/-- An injection of KIND 0 is armed for this cause and instance number. -/
def Die.fire0 (d : Die) (cause inst : Nat) : Bool :=
  d.bit F.AY_INJECT.ARM 0 && decide (d.getF F.AY_INJECT.KIND 0 = 0) &&
    decide (d.getF F.AY_INJECT.CAUSE 0 = (causeRow cause).code) && decide (d.getF F.AY_INJECT.INSTANCE 0 = inst)

/-- An injection of another kind is armed for this line. -/
def Die.fireLine (d : Die) (kind line : Nat) : Bool :=
  d.bit F.AY_INJECT.ARM 0 && decide (d.getF F.AY_INJECT.KIND 0 = kind) && decide (d.getF F.AY_INJECT_ADDR.LINE 0 = line)

/-- The injection has fired (R386): ARM is cleared, FIRED set, and FIRE_COUNT rises. -/
def Die.fired (d : Die) : Die :=
  ((d.setF F.AY_INJECT.ARM 0 0).setEv F.AY_INJECT_STATUS.FIRED 0).incSat F.AY_INJECT_STATUS.FIRE_COUNT 0 1

/-- The report stands with Assay and has not been classified yet. -/
def Die.reported (d : Die) (cause inst : Nat) : Bool :=
  (d.ay.waiting ++ d.ay.held ++ d.ay.intake).any (fun x => decide (x.cause = cause ∧ x.inst = inst))

/-- Reports made since there were `n` of them carry INJECTED. -/
def Die.markInj (d : Die) (n : Nat) : Die :=
  { d with ay.waiting := d.ay.waiting.take n ++ (d.ay.waiting.drop n).map (fun r => { r with inj := true }) }

/-! ### Power states of regions (R38 to R42) -/

def Die.power (d : Die) (r : Nat) : Power := Tab.get {} d.bt.powers r
def Die.setPower (d : Die) (r : Nat) (p : Power) : Die := { d with bt.powers := Tab.set {} d.bt.powers r p }

/-- POWER of region `r`: 0 GATED, 1 WAKING, 2 RUNNING, 3 GATING. -/
def Die.powerState (d : Die) (r : Nat) : Nat := d.getF F.ST_REGION_STATUS.POWER r

/-- The periods of deferrable background work count only time in RUNNING (R397): what stood still since the region
left RUNNING is added to them. The snoops that waited at its mesh gateway reach its ports now, and their 20 µs start (R41,
R237). -/
def Die.awake (e : Env) (d : Die) (r : Nat) : Die :=
  let dt := e.now - (d.power r).left
  let later := fun (t : Tab Nat) (k : Nat) => if Tab.get 0 t k = 0 then t else Tab.set 0 t k (Tab.get 0 t k + dt)
  let homes := (List.range 8).map (fun i => 8 * r + i)
  { d with mem.patrolDue := later d.mem.patrolDue r,
           mem.nmapDue := later d.mem.nmapDue r,
           mem.calDue := Tab.set 0 d.mem.calDue r (Tab.get 0 d.mem.calDue r + dt / 500000),
           coh.sweepAt := homes.foldl later d.coh.sweepAt,
           coh.scrubAt := homes.foldl later d.coh.scrubAt,
           coh.snps := d.coh.snps.map (fun x => if x.k / 8 = r then { x with sent := e.now } else x) }

/-- A wake trigger for region `r` (R40, R41): a GATED region starts WAKING; GATING is abandoned in steps 1 to 4
and remembers the trigger in step 5. The region is not idle in this tick. -/
def Die.wake (e : Env) (d : Die) (r : Nat) : Die :=
  let p := d.power r
  let d := d.setPower r { p with busy := true }
  let p := d.power r
  if d.powerState r = 0 then
    (((d.setF F.ST_REGION_STATUS.POWER r 1).incSat F.ST_REGION_STATUS.WAKE_COUNT r 1).setPower r
      { p with at_ := e.now, wake := false, ack := false, busy := true }).send (.dfi r 0 0)
  else if d.powerState r = 3 then
    if p.step < 5 then
      let d := if r ∈ d.mem.selfRef then d.send (.dfi r 9 0) else d
      ((({ d with mem.selfRef := d.mem.selfRef.filter (· ≠ r),
                  coh.flushes := d.coh.flushes.filter (fun f => decide (f.after ≠ After.gating r)) }.setF F.ST_REGION_STATUS.POWER r 2).incSat
        F.ST_REGION_STATUS.ABANDON_COUNT r 1).setPower r { p with step := 0, busy := true, idle := 0 }).awake e r
    else d.setPower r { p with wake := true, busy := true }
  else d

/-- A message enters region `r` from the mesh: the region is not idle in this tick (R38). -/
def Die.entered (d : Die) (r : Nat) : Die :=
  if (d.power r).busy then d else d.setPower r { d.power r with busy := true }

/-- The region of a requester of Table 7.6; none for the hub's units. -/
def whoRegion (id : Nat) : Option Nat :=
  if id < 64 then some (id / 8) else if id < 128 then some ((id - 64) / 8) else if id < 136 then some (id - 128) else none

/-- The region serves its units now. -/
def Die.running (d : Die) (r : Nat) : Bool := decide (d.powerState r = 2)

end Sys2Proof.Machine
end

