-- ==== Sys2Proof/Machine/Crucible.lean ====
section
/-! DEFINITION. What a Crucible computes on one destination line (R307, R313 to R318). -/

namespace Sys2Proof.Machine

/-- One contribution: the element of the line it touches, its value as FP32, and its bits for INT32. -/
structure Contrib where
  idx : Nat
  fv  : FV
  raw : Nat := 0
  deriving DecidableEq, Repr

/-- What a reduce-write leaves: the line, the bytes it wrote, what it counted, and the generator. -/
structure Reduced where
  data : Line
  mask : BitVec 128
  nan  : Nat := 0
  sat  : Nat := 0
  inf  : Nat := 0
  blocks : Nat := 0
  draws : Nat := 0
  gen  : Word
  deriving DecidableEq, Repr

/-- Bits `lo .. lo + w - 1` of a line replaced by `v`. -/
def putBits (x : Line) (lo w v : Nat) : Line :=
  BitVec.ofNat 1024 (x.toNat - bitsOf x.toNat lo w * 2 ^ lo + (v % 2 ^ w) * 2 ^ lo)

/-- Bytes `a .. a + n - 1` of a line's byte mask. -/
def byteMask (a n : Nat) : BitVec 128 := BitVec.ofNat 128 ((2 ^ n - 1) * 2 ^ a)

/-- Count what an element's write did (CR_EXC). -/
def Reduced.note (r : Reduced) : Exc → Reduced
  | .none => r
  | .nan => { r with nan := r.nan + 1 }
  | .sat => { r with sat := r.sat + 1 }
  | .inf => { r with inf := r.inf + 1 }

/-- R314, R315 for a destination format that is not microscaled; `ds` are the draws, one for each contribution. -/
def reducePlain (fmt : Nat) (sr : Bool) (r : Reduced) : List Contrib → List Nat → Reduced
  | [], _ => r
  | c :: cs, ds =>
    let sz := fmtSize fmt
    let lo := 8 * sz * c.idx
    let old := bitsOf r.data.toNat lo (8 * sz)
    let (bits, ex) :=
      if fmt = 5 then addInt32 old c.raw
      else
        let v := addFp32 (elemFV fmt old) c.fv
        match fmtOf fmt with
        | some f => f.encode (if sr then .draw (ds.headD 0) else .nearest) false v
        | none => (0, .none)
    let r' := { r with data := putBits r.data lo (8 * sz) bits, mask := r.mask ||| byteMask (sz * c.idx) sz }
    reducePlain fmt sr (r'.note ex) cs (if sr then ds.drop 1 else ds)

/-- The 32 values of block `b` of a microscaled line. -/
def mxValues (fmt : Nat) (x : Line) (b : Nat) : List FV :=
  let k := bitsOf x.toNat (8 * (mxS0 fmt + b)) 8
  (List.range 32).map (fun i => mxElemFV fmt k (bitsOf x.toNat (8 * (b * mxEB fmt) + mxW fmt * i) (mxW fmt)))

/-- R317 on block `b`: the contributions that touch it, and the generator for its draws. -/
def reduceBlock (fmt : Nat) (sr : Bool) (cs : List Contrib) (r : Reduced) (b : Nat) : Reduced :=
  let vs := ((mxValues fmt r.data b).zipIdx).map (fun (x : FV × Nat) =>
    match cs.find? (fun c => c.idx = 32 * b + x.2) with
    | some c => addFp32 x.1 c.fv
    | none => x.1)
  let lo := 8 * (b * mxEB fmt)
  let slo := 8 * (mxS0 fmt + b)
  let msk := byteMask (b * mxEB fmt) (mxEB fmt) ||| byteMask (mxS0 fmt + b) 1
  let r := { r with blocks := r.blocks + 1, mask := r.mask ||| msk }
  match mxScale fmt vs with
  | none => { r with data := putBits (putBits r.data lo (8 * mxEB fmt) 0) slo 8 0xFF, nan := r.nan + 1 }
  | some sx =>
    let start := r.draws
    let ds := if sr then (draws (start + 32) r.gen []).2.drop start else []
    let (bits, r) := (vs.zipIdx).foldl (fun (acc : Nat × Reduced) x =>
      let (b, ex) := mxEncode fmt (if sr then .draw (ds.getD x.2 0) else .nearest) sx x.1
      (acc.1 + b * 2 ^ (mxW fmt * x.2), acc.2.note ex)) (0, r)
    { r with data := putBits (putBits r.data lo (8 * mxEB fmt) bits) slo 8 (sx + 127).toNat,
             draws := if sr then start + 32 else start }

/-- A whole reduce-write on one line: effective destination format, rounding, contributions in ascending element
order, old data and generator state. Unused bytes of a microscaled line are written as 0 (R311). -/
def crucible (fmt : Nat) (sr : Bool) (cs : List Contrib) (old : Line) (gen : Word) : Reduced :=
  let sr := sr && decide (fmt ≠ 0 ∧ fmt ≠ 5)
  let r0 : Reduced := { data := old, mask := 0, gen := gen }
  if fmtMx fmt then
    let bs := (cs.map (fun c => c.idx / 32)).eraseDups
    let r := bs.foldl (reduceBlock fmt sr cs) r0
    let used := mxS0 fmt + mxNBL fmt
    { r with data := putBits r.data (8 * used) (1024 - 8 * used) 0, mask := r.mask ||| byteMask used (128 - used),
             gen := if r.draws = 0 then gen else (draws r.draws gen []).1 }
  else
    let n := if sr then cs.length else 0
    let (g, ds) := draws n gen []
    { reducePlain fmt sr r0 cs ds with draws := n, gen := if n = 0 then gen else g }

/-- The value of a source element as a contribution (R313). -/
def srcContrib (fmt idx bits : Nat) : Contrib :=
  if fmt = 5 then ⟨idx, .nan, bits⟩ else ⟨idx, elemFV fmt bits, bits⟩

end Sys2Proof.Machine
end

