-- ==== Sys2Proof/Machine/Crypto.lean ====
section
/-! DEFINITION. The published algorithms the manual names: AES-256 in XTS and GCM modes (R334, R335, R355),
SHA-384, HMAC and HKDF (R358), P-384 ECDH and ECDSA (R358, R362, R363), and the two CRCs (R188, R443). -/

namespace Sys2Proof.Machine

/-! ### AES-256 -/

def aesMulN : Nat → Nat → Nat → Nat → Nat
  | 0, _, _, acc => acc
  | n + 1, a, b, acc =>
    let acc := if b % 2 = 1 then acc ^^^ a else acc
    let a2 := 2 * a
    aesMulN n (if a2 ≥ 256 then a2 ^^^ 0x11B else a2) (b / 2) acc

/-- Multiplication in the field of AES. -/
def aesMul (a b : Nat) : Nat := aesMulN 8 a b 0

/-- The field inverse, a^254. -/
def aesInv (a : Nat) : Nat :=
  let a2 := aesMul a a
  let a4 := aesMul a2 a2
  let a8 := aesMul a4 a4
  let a16 := aesMul a8 a8
  let a32 := aesMul a16 a16
  let a64 := aesMul a32 a32
  let a128 := aesMul a64 a64
  aesMul a128 (aesMul a64 (aesMul a32 (aesMul a16 (aesMul a8 (aesMul a4 a2)))))

/-- The S-box value of a byte. -/
def aesSubOf (x : Nat) : Nat :=
  let b := aesInv x
  let rot := fun k => (b * 2 ^ k) % 256 ||| (b / 2 ^ (8 - k))
  b ^^^ rot 1 ^^^ rot 2 ^^^ rot 3 ^^^ rot 4 ^^^ 0x63

/-- The S-box and its inverse as tables of 256 bytes packed in one number. -/
def aesTable (f : Nat → Nat) : Nat := (List.range 256).foldl (fun a i => a + f i * 2 ^ (8 * i)) 0
def aesSbox : Nat := aesTable aesSubOf
def aesInvSbox : Nat := (List.range 256).foldl (fun a i => a + i * 2 ^ (8 * aesSubOf i)) 0
def aesSub (x : Nat) : Nat := bitsOf aesSbox (8 * x) 8
def aesUnsub (x : Nat) : Nat := bitsOf aesInvSbox (8 * x) 8

/-- The sixty words of the key schedule, each four bytes, the latest first. -/
def aesExpand : Nat → List (List Nat) → List (List Nat)
  | 0, ws => ws
  | n + 1, ws =>
    let i := ws.length
    let prev := ws.headD []
    let t :=
      if i % 8 = 0 then
        match prev.map aesSub with
        | [a, b, c, d] => [b ^^^ (2 ^ (i / 8 - 1)), c, d, a]
        | l => l
      else if i % 8 = 4 then prev.map aesSub else prev
    aesExpand n ((List.zipWith (· ^^^ ·) ((ws[7]?).getD []) t) :: ws)

/-- Chop a list in fours. -/
def fours : List Nat → List (List Nat)
  | a :: b :: c :: d :: t => [a, b, c, d] :: fours t
  | _ => []

/-- Round keys 0 to 14, each 16 bytes, of a 32-byte key. -/
def aesRoundKeys (key : List Nat) : List (List Nat) :=
  let ws := (aesExpand 52 (fours key).reverse).reverse
  (List.range 15).map (fun r => ((ws.drop (4 * r)).take 4).flatten)

def xorBytes (a b : List Nat) : List Nat := List.zipWith (· ^^^ ·) a b

/-- ShiftRows and its inverse on 16 bytes in column order. -/
def shiftRows (s : List Nat) : List Nat := (List.range 16).map (fun i => (s[(i + 4 * (i % 4)) % 16]?).getD 0)
def unshiftRows (s : List Nat) : List Nat := (List.range 16).map (fun i => (s[(i + 12 * (i % 4)) % 16]?).getD 0)

def mixCol (k : Nat × Nat × Nat × Nat) (c : List Nat) : List Nat :=
  match c with
  | [a, b, x, y] =>
    let f := fun p q r t => aesMul k.1 p ^^^ aesMul k.2.1 q ^^^ aesMul k.2.2.1 r ^^^ aesMul k.2.2.2 t
    [f a b x y, f b x y a, f x y a b, f y a b x]
  | l => l

def mixColumns (s : List Nat) : List Nat := ((fours s).map (mixCol (2, 3, 1, 1))).flatten
def unmixColumns (s : List Nat) : List Nat := ((fours s).map (mixCol (14, 11, 13, 9))).flatten

/-- AES-256 encryption of 16 bytes under round keys. -/
def aesEnc (rk : List (List Nat)) (blk : List Nat) : List Nat :=
  let s := xorBytes blk (rk.headD [])
  let s := ((rk.drop 1).take 13).foldl (fun s k => xorBytes (mixColumns (shiftRows (s.map aesSub))) k) s
  xorBytes (shiftRows (s.map aesSub)) ((rk[14]?).getD [])

/-- AES-256 decryption of 16 bytes under round keys. -/
def aesDec (rk : List (List Nat)) (blk : List Nat) : List Nat :=
  let s := xorBytes blk ((rk[14]?).getD [])
  let s := ((rk.drop 1).take 13).reverse.foldl (fun s k => unmixColumns (xorBytes ((unshiftRows s).map aesUnsub) k)) s
  xorBytes ((unshiftRows s).map aesUnsub) (rk.headD [])

/-- The low `n` bytes of a number, as numbers, the least significant first. -/
def bytesOf : Nat → Nat → List Nat
  | 0, _ => []
  | n + 1, v => v % 256 :: bytesOf n (v / 256)

def natLE : List Nat → Nat
  | [] => 0
  | b :: t => b + 256 * natLE t

def natBE (l : List Nat) : Nat := l.foldl (fun a b => 256 * a + b) 0
def bytesBE (n v : Nat) : List Nat := (bytesOf n v).reverse

/-- Round keys of a 256-bit key whose byte 0 is in bits 7..0. -/
def aesKey (k : BitVec 256) : List (List Nat) := aesRoundKeys (bytesOf 32 k.toNat)

/-- AES-256-XTS over one 128-byte line with the line number as the tweak (R334). -/
def xtsLine (f : List (List Nat) → List Nat → List Nat) (k1 k2 : BitVec 256) (line : Nat) (data : Line) : Line :=
  let rk := aesKey k1
  let t0 := natLE (aesEnc (aesKey k2) (bytesOf 16 line))
  let go := (List.range 8).foldl (fun (acc : Nat × Nat) i =>
    let t := bytesOf 16 acc.1
    let blk := bytesOf 16 (bitsOf data.toNat (128 * i) 128)
    let o := natLE (xorBytes (f rk (xorBytes blk t)) t)
    let d := 2 * acc.1
    ((if d ≥ 2 ^ 128 then (d - 2 ^ 128) ^^^ 0x87 else d), acc.2 + o * 2 ^ (128 * i))) (t0, 0)
  BitVec.ofNat 1024 go.2

def xtsEnc : BitVec 256 → BitVec 256 → Nat → Line → Line := xtsLine aesEnc
def xtsDec : BitVec 256 → BitVec 256 → Nat → Line → Line := xtsLine aesDec

/-! ### GCM -/

/-- Multiplication in the field of GHASH; bit 127 of a number is the first bit of the block. -/
def ghMulN : Nat → Nat → Nat → Nat → Nat
  | 0, _, _, z => z
  | n + 1, x, v, z =>
    let z := if bitsOf x n 1 = 1 then z ^^^ v else z
    ghMulN n x (if v % 2 = 1 then (v / 2) ^^^ (0xE1 * 2 ^ 120) else v / 2) z

def ghMul (x y : Nat) : Nat := ghMulN 128 x y 0

/-- The bytes padded with zeros to whole 16-byte blocks, as big-endian numbers. -/
def ghBlocks (l : List Nat) : List Nat :=
  (List.range (ceilDiv l.length 16)).map (fun i =>
    let b := (l.drop (16 * i)).take 16
    natBE (b ++ List.replicate (16 - b.length) 0))

def ghash (h : Nat) (aad ct : List Nat) : Nat :=
  (ghBlocks aad ++ ghBlocks ct ++ ([aad.length * 8 * 2 ^ 64 + ct.length * 8] : List Nat)).foldl (fun y x => ghMul (y ^^^ x) h) 0

/-- The key stream of a 12-byte nonce: block `i` counts from 1. -/
def gcmBlock (rk : List (List Nat)) (iv : List Nat) (i : Nat) : List Nat := aesEnc rk (iv ++ bytesBE 4 i)

/-- GCM's transform of data: the same in both directions. -/
def gcmCrypt (k : BitVec 256) (iv dat : List Nat) : List Nat :=
  let rk := aesKey k
  let ks := ((List.range (ceilDiv dat.length 16)).map (fun i => gcmBlock rk iv (i + 2))).flatten
  xorBytes dat ks

/-- The 16-byte GCM tag over additional data and ciphertext. -/
def gcmTag (k : BitVec 256) (iv aad ct : List Nat) : List Nat :=
  let rk := aesKey k
  let h := natBE (aesEnc rk (List.replicate 16 0))
  xorBytes (bytesBE 16 (ghash h aad ct)) (gcmBlock rk iv 1)

/-- The GMAC tag of a line's ciphertext under R335. -/
def hallmark (k3 : BitVec 256) (line slot cls : Nat) (ct : Line) : List Nat :=
  let iv := bytesOf 12 (line + slot * 2 ^ 43 + cls * 2 ^ 49)
  let aad := bytesOf 128 ct.toNat ++ bytesOf 8 (line * 128) ++ [slot, 0, 0, 0, 0, 0, 0, 0]
  gcmTag k3 iv aad []

/-! ### SHA-384, HMAC, HKDF -/

/-- Integer square and cube roots, by bits from the top. -/
def rootN (p : Nat) : Nat → Nat → Nat → Nat
  | 0, _, r => r
  | n + 1, x, r => let r' := r + 2 ^ n; rootN p n x (if r' ^ p ≤ x then r' else r)

/-- The first eighty primes. -/
def primes80 : List Nat :=
  ((List.range 410).filter (fun n => decide (2 ≤ n) && (List.range 21).all (fun d => decide (d < 2 ∨ d ≥ n ∨ n % d ≠ 0)))).take 80

/-- First 64 bits of the fractional part of the cube root of each of the first eighty primes. -/
def shaK : List Nat := primes80.map (fun p => rootN 3 68 (p * 2 ^ 192) 0 % 2 ^ 64)

/-- SHA-384's initial value: of the square roots of the ninth to sixteenth primes. -/
def shaInit : List Nat := ((primes80.drop 8).take 8).map (fun p => rootN 2 70 (p * 2 ^ 128) 0 % 2 ^ 64)

def rotr64 (x n : Nat) : Nat := (x / 2 ^ n) ||| (x * 2 ^ (64 - n) % 2 ^ 64)

/-- The message schedule, the latest word first. -/
def shaSched : Nat → List Nat → List Nat
  | 0, ws => ws
  | n + 1, ws =>
    let g := fun i => (ws[i]?).getD 0
    let s0 := rotr64 (g 14) 1 ^^^ rotr64 (g 14) 8 ^^^ (g 14 / 2 ^ 7)
    let s1 := rotr64 (g 1) 19 ^^^ rotr64 (g 1) 61 ^^^ (g 1 / 2 ^ 6)
    shaSched n ((g 15 + s0 + g 6 + s1) % 2 ^ 64 :: ws)

def shaRound (s : List Nat) (kw : Nat) : List Nat :=
  match s with
  | [a, b, c, d, e, f, g, h] =>
    let s1 := rotr64 e 14 ^^^ rotr64 e 18 ^^^ rotr64 e 41
    let ch := (e &&& f) ^^^ ((2 ^ 64 - 1 - e) &&& g)
    let t1 := h + s1 + ch + kw
    let s0 := rotr64 a 28 ^^^ rotr64 a 34 ^^^ rotr64 a 39
    let mj := (a &&& b) ^^^ (a &&& c) ^^^ (b &&& c)
    [(t1 + s0 + mj) % 2 ^ 64, a, b, c, (d + t1) % 2 ^ 64, e, f, g]
  | l => l

def shaBlock (s : List Nat) (blk : List Nat) : List Nat :=
  let w0 := (List.range 16).map (fun i => natBE ((blk.drop (8 * i)).take 8))
  let ws := (shaSched 64 w0.reverse).reverse
  let s' := (List.zipWith (· + ·) shaK ws).foldl shaRound s
  List.zipWith (fun a b => (a + b) % 2 ^ 64) s s'

/-- SHA-384 of a byte string, 48 bytes. -/
def sha384 (m : List Nat) : List Nat :=
  let z := (239 - m.length % 128) % 128
  let p := m ++ 0x80 :: (List.replicate z 0 ++ bytesBE 16 (8 * m.length))
  let s := (List.range (p.length / 128)).foldl (fun s i => shaBlock s ((p.drop (128 * i)).take 128)) shaInit
  (s.map (bytesBE 8)).flatten.take 48

def hmac384 (key m : List Nat) : List Nat :=
  let k := if key.length > 128 then sha384 key else key
  let k := k ++ List.replicate (128 - k.length) 0
  sha384 (k.map (· ^^^ 0x5C) ++ sha384 (k.map (· ^^^ 0x36) ++ m))

def hkdfBlocks (prk info : List Nat) : Nat → Nat → List Nat → List Nat
  | 0, _, _ => []
  | n + 1, i, prev => let t := hmac384 prk (prev ++ info ++ [i]); t ++ hkdfBlocks prk info n (i + 1) t

/-- HKDF-SHA-384: `len` bytes. -/
def hkdf384 (salt ikm info : List Nat) (len : Nat) : List Nat :=
  (hkdfBlocks (hmac384 salt ikm) info (ceilDiv len 48) 1 []).take len

/-! ### P-384 -/

def p384p : Nat := 2 ^ 384 - 2 ^ 128 - 2 ^ 96 + 2 ^ 32 - 1
def p384n : Nat := 0xffffffffffffffffffffffffffffffffffffffffffffffffc7634d81f4372ddf581a0db248b0a77aecec196accc52973
def p384b : Nat := 0xb3312fa7e23ee7e4988e056be3f82d19181d9c6efe8141120314088f5013875ac656398d8a2ed19d2a85c8edd3ec2aef
def p384gx : Nat := 0xaa87ca22be8b05378eb1c71ef320ad746e1d3b628ba79b9859f741e082542a385502f25dbf55296c3a545e3872760ab7
def p384gy : Nat := 0x3617de4a96262c6f5d9e98bf9292dc29f8f41dbd289a147ce9da3113b5f0b8c00a60b1ce1d7e819d7a431d7c90ea0e5f

/-- a^e mod m, over the low `n` bits of e. -/
def powMod (m : Nat) : Nat → Nat → Nat → Nat
  | 0, _, _ => 1
  | n + 1, a, e => let r := powMod m n (a * a % m) (e / 2); if e % 2 = 1 then a * r % m else r

def invMod (m a : Nat) : Nat := powMod m 384 a (m - 2)

/-- A point of the curve; none is the point at infinity. -/
abbrev Pt := Option (Nat × Nat)

/-- A point in Jacobian coordinates: (X, Y, Z) stands for (X/Z², Y/Z³). -/
abbrev Jac := Option (Nat × Nat × Nat)

def Pt.jac (a : Pt) : Jac := a.map (fun q => (q.1, q.2, 1))

def Jac.pt (a : Jac) : Pt := a.map (fun q =>
  let i := invMod p384p q.2.2
  let ii := i * i % p384p
  (q.1 * ii % p384p, q.2.1 * (ii * i) % p384p))

/-- A difference in the field, of `b` below the modulus. -/
def subP (a b : Nat) : Nat := (a + p384p - b) % p384p

/-- The double of a point. -/
def jacDbl : Jac → Jac
  | none => none
  | some (x, y, z) =>
    let p := p384p
    if y = 0 then none
    else
      let yy := y * y % p
      let zz := z * z % p
      let s := 4 * x * yy % p
      let m := 3 * subP x zz * (x + zz) % p
      let x' := (m * m + 2 * p - 2 * s) % p
      some (x', (m * (s + p - x') + 8 * p * p - 8 * yy * yy) % p, 2 * y * z % p)

/-- The sum of two points. -/
def jacAdd : Jac → Jac → Jac
  | none, q => q
  | a, none => a
  | some (x1, y1, z1), some (x2, y2, z2) =>
    let p := p384p
    let u := x1 * z2 * z2 % p
    let s := y1 * z2 * z2 * z2 % p
    let h := subP (x2 * z1 * z1 % p) u
    let r := subP (y2 * z1 * z1 * z1 % p) s
    if h = 0 then (if r = 0 then jacDbl (some (x1, y1, z1)) else none)
    else
      let hh := h * h % p
      let hhh := h * hh % p
      let v := u * hh % p
      let x3 := (r * r + 3 * p - hhh - 2 * v) % p
      some (x3, (r * (v + p - x3) + p * p - s * hhh) % p, h * z1 * z2 % p)

/-- k × P, over the low `n` bits of k. -/
def jacMul : Nat → Nat → Jac → Jac
  | 0, _, _ => none
  | n + 1, k, pt => let r := jacMul n (k / 2) (jacDbl pt); if k % 2 = 1 then jacAdd pt r else r

def ptMul (n k : Nat) (a : Pt) : Pt := Jac.pt (jacMul n k (Pt.jac a))

def p384G : Pt := some (p384gx, p384gy)

/-- A point on the curve from x then y, big-endian, 96 bytes. -/
def ptDecode (l : List Nat) : Pt :=
  let x := natBE (l.take 48)
  let y := natBE ((l.drop 48).take 48)
  if x < p384p ∧ y < p384p ∧ (y * y) % p384p = (x * x * x + (p384p - 3) * x + p384b) % p384p then some (x, y) else none

def ptEncode : Pt → List Nat
  | some (x, y) => bytesBE 48 x ++ bytesBE 48 y
  | none => List.replicate 96 0

/-- ECDSA P-384 over a SHA-384 hash: r then s, big-endian. -/
def ecdsaVerify (pub sig hash : List Nat) : Bool :=
  let r := natBE (sig.take 48)
  let s := natBE ((sig.drop 48).take 48)
  match ptDecode pub with
  | none => false
  | some q =>
    if r = 0 ∨ r ≥ p384n ∨ s = 0 ∨ s ≥ p384n then false
    else
      let w := invMod p384n s
      let u1 := natBE hash * w % p384n
      let u2 := r * w % p384n
      match Jac.pt (jacAdd (jacMul 384 u1 (Pt.jac p384G)) (jacMul 384 u2 (Pt.jac (some q)))) with
      | none => false
      | some (x, _) => decide (x % p384n = r)

/-- The ECDSA signature with private key `d` and nonce `k`. -/
def ecdsaSign (d k : Nat) (hash : List Nat) : List Nat :=
  let r := match ptMul 384 k p384G with
    | some (x, _) => x % p384n
    | none => 0
  let s := invMod p384n (k % p384n) * (natBE hash + r * d) % p384n
  bytesBE 48 r ++ bytesBE 48 s

/-- The public key of a private key. -/
def ecPublic (d : Nat) : List Nat := ptEncode (ptMul 384 d p384G)

/-- The P-384 ECDH shared secret: the x coordinate, 48 bytes. -/
def ecdh (d : Nat) (pub : List Nat) : List Nat := (ptEncode ((ptDecode pub).bind (fun q => ptMul 384 d (some q)))).take 48

/-! ### CRCs -/

/-- One reflected CRC step per bit. -/
def crcBits (poly : Nat) : Nat → Nat → Nat
  | 0, c => c
  | n + 1, c => crcBits poly n (if c % 2 = 1 then (c / 2) ^^^ poly else c / 2)

/-- A reflected CRC of width `w` with all-ones initial value and final complement. -/
def crcRefl (w poly : Nat) (l : List Nat) : Nat :=
  (l.foldl (fun c b => crcBits poly 8 (c ^^^ b)) (2 ^ w - 1)) ^^^ (2 ^ w - 1)

/-- CRC-32C (R188). -/
def crc32c (l : List Nat) : Nat := crcRefl 32 0x82F63B78 l

/-- CRC-64/XZ. -/
def crc64xz (l : List Nat) : Nat := crcRefl 64 0xC96C5795D7870F42 l

end Sys2Proof.Machine
end

