-- ==== Sys2Proof/Machine/LineCode.lean ====
section
/-! DEFINITION. The line code of R250 and R251: a Reed–Solomon code of 72 symbols over GF(2^16), its
encoder, and the decoder that finds the error pattern of least weight, up to three symbols. -/

namespace Sys2Proof.Machine

/-- Multiplication in GF(2^16), generated by x^16 + x^12 + x^3 + x + 1 (R250): `n` bits of `b` from the low end. -/
def gfMulN : Nat → Nat → Nat → Nat → Nat
  | 0, _, _, acc => acc
  | n + 1, a, b, acc =>
    let acc := if b % 2 = 1 then acc ^^^ a else acc
    let a2 := 2 * a
    gfMulN n (if a2 ≥ 65536 then a2 ^^^ 0x1100B else a2) (b / 2) acc

def gfMul (a b : Nat) : Nat := gfMulN 16 a b 0

/-- α^n. -/
def gfAlpha : Nat → Nat
  | 0 => 1
  | n + 1 => gfMul 2 (gfAlpha n)

/-- a^(2^k - 1) and a^(2^k), built up to k = `n`. -/
def gfPow : Nat → Nat → Nat × Nat
  | 0, a => (1, a)
  | n + 1, a => let p := gfPow n a; (gfMul p.1 p.2, gfMul p.2 p.2)

/-- The inverse: a^(2^16 - 2), the square of a^(2^15 - 1). -/
def gfInv (a : Nat) : Nat := let p := (gfPow 15 a).1; gfMul p p

def gfDiv (a b : Nat) : Nat := gfMul a (gfInv b)

/-- A polynomial, lowest coefficient first, times (x + r). -/
def polyMulRoot (r : Nat) (p : List Nat) : List Nat :=
  List.zipWith (· ^^^ ·) (p.map (gfMul r) ++ [0]) (0 :: p)

/-- g(x), the product of (x + α^j) for j = 1 to 6, lowest coefficient first (R250). -/
def rsGen : List Nat := (List.range 6).foldl (fun p j => polyMulRoot (gfAlpha (j + 1)) p) [1]

/-- The polynomial's value at x. -/
def polyEval (p : List Nat) (x : Nat) : Nat := p.foldr (fun c a => c ^^^ gfMul x a) 0

/-- The six check symbols c_0 to c_5 of the 66 data symbols m_0 to m_65: the remainder of m(x)·x^6 by g(x). -/
def rsCheck (m : List Nat) : List Nat :=
  let low := rsGen.take 6
  m.reverse.foldl (fun c s =>
    let f := s ^^^ (c.getLast?.getD 0)
    List.zipWith (· ^^^ ·) (0 :: c.dropLast) (low.map (gfMul f))) [0, 0, 0, 0, 0, 0]

/-- Symbol m_k of line data and side-band bytes 12 to 15 (R250). -/
def dataSyms (data : Line) (hm : Nat) : List Nat :=
  (List.range 64).map (fun k => bitsOf data.toNat (16 * k) 16) ++ ([bitsOf hm 0 16, bitsOf hm 16 16] : List Nat)

/-- The check symbols of a line. -/
def lineCheck (data : Line) (hm : Nat) : List Nat := rsCheck (dataSyms data hm)

/-- The group of R251 that holds codeword position i: c_i at 0 to 5, m_k at k + 6. -/
def rsGroup (i : Nat) : Nat := if i < 6 then i / 2 else if i < 22 then 0 else if i < 38 then 1 else if i < 54 then 2 else 3

/-- Positions below 72 whose α power is a root of a polynomial. -/
def rsRoots (p : List Nat) : List Nat := (List.range 72).filter (fun i => polyEval p (gfAlpha i) = 0)

/-- Error values at given positions that explain the syndromes S_1 to S_6, if they do. -/
def rsValues (syn : List Nat) (pos : List Nat) : Option (List (Nat × Nat)) :=
  let xs := pos.map gfAlpha
  let es := pos.map (fun i =>
    let x := gfAlpha i
    let p := (xs.filter (· ≠ x)).foldl (fun p r => polyMulRoot r p) [1]
    let num := (List.zipWith gfMul p syn).foldl (· ^^^ ·) 0
    (i, gfDiv num (gfMul x (polyEval p x))))
  let ok := (List.range 6).all (fun j =>
    decide ((es.map (fun e => gfMul e.2 (gfAlpha (e.1 * (j + 1))))).foldl (· ^^^ ·) 0 = syn[j]!))
  if ok && es.all (fun e => decide (e.2 ≠ 0)) then some es else none

/-- The error pattern of least weight, up to three symbols, that explains six syndromes: positions and
values; none where there is none (R251). The code's distance is 7, so there is at most one. -/
def rsFind (syn : List Nat) : Option (List (Nat × Nat)) :=
  let s := fun j => syn[j]!
  if syn.all (· = 0) then some []
  else
    let v1 := rsRoots [gfDiv (s 1) (s 0), 1]
    match (if s 0 ≠ 0 then rsValues syn v1 else none) with
    | some e => if e.length = 1 then some e else none
    | none =>
      let d2 := gfMul (s 1) (s 1) ^^^ gfMul (s 0) (s 2)
      let a := gfDiv (gfMul (s 2) (s 1) ^^^ gfMul (s 0) (s 3)) d2
      let b := gfDiv (gfMul (s 1) (s 3) ^^^ gfMul (s 2) (s 2)) d2
      let p2 := rsRoots [b, a, 1]
      match (if d2 ≠ 0 ∧ p2.length = 2 then rsValues syn p2 else none) with
      | some e => some e
      | none =>
        let det := fun (a b c d e f g h i : Nat) =>
          gfMul a (gfMul e i ^^^ gfMul f h) ^^^ gfMul b (gfMul d i ^^^ gfMul f g) ^^^ gfMul c (gfMul d h ^^^ gfMul e g)
        let d3 := det (s 2) (s 1) (s 0) (s 3) (s 2) (s 1) (s 4) (s 3) (s 2)
        let x1 := gfDiv (det (s 3) (s 1) (s 0) (s 4) (s 2) (s 1) (s 5) (s 3) (s 2)) d3
        let x2 := gfDiv (det (s 2) (s 3) (s 0) (s 3) (s 4) (s 1) (s 4) (s 5) (s 2)) d3
        let x3 := gfDiv (det (s 2) (s 1) (s 3) (s 3) (s 2) (s 4) (s 4) (s 3) (s 5)) d3
        let p3 := rsRoots [x3, x2, x1, 1]
        if d3 ≠ 0 ∧ p3.length = 3 then rsValues syn p3 else none

/-- A decoded line: data, short Hallmark, and the corrected symbols by codeword position. -/
structure Decoded where
  data : Line
  hm   : Nat
  fixed : List (Nat × Nat)
  deriving DecidableEq, Repr

/-- R251: decode a line of DRAM; none where it is uncorrectable. -/
def lineDecode (data : Line) (hm : Nat) (check : List Nat) : Option Decoded :=
  let code := check ++ dataSyms data hm
  let re := lineCheck data hm
  if re = check then some ⟨data, hm, []⟩
  else
    let syn := (List.range 6).map (fun j => polyEval code (gfAlpha (j + 1)))
    match rsFind syn with
    | none => none
    | some es =>
      let gs := es.map (fun e => rsGroup e.1)
      if gs.eraseDups.length = gs.length then
        let dat := es.foldl (fun a e => if 6 ≤ e.1 ∧ e.1 < 70 then a ^^^ (e.2 * 2 ^ (16 * (e.1 - 6))) else a) data.toNat
        let h := es.foldl (fun a e => if 70 ≤ e.1 then a ^^^ (e.2 * 2 ^ (16 * (e.1 - 70))) else a) hm
        some ⟨BitVec.ofNat 1024 dat, h, es⟩
      else none

/-- The symbol number of MEM_CE's DETAIL0: m_k is k, c_j is 66 + j (R368). -/
def symbolNumber (pos : Nat) : Nat := if pos < 6 then 66 + pos else pos - 6

end Sys2Proof.Machine
end

