-- ==== Sys2Proof/Machine/Homes.lean ====
section
/-! DEFINITION. Where a line is homed (R203 to R205), what a home drops and withdraws when it loses a line
(R239 to R242), and the kind of computation every access to memory is: it answers, fails with a status or a
fault, or waits for something outside the block. -/

namespace Sys2Proof.Machine

/-! ### Accesses -/

/-- What an access waits for. -/
inductive Need where
  /-- A host read of `len` bytes under an identity. -/
  | host (who : Who) (addr len : Nat)
  /-- A host read of `len` bytes of a table for translation cache `cache`. -/
  | walk (cache addr len : Nat)
  /-- A snoop of the holders of a line. -/
  | snoop (line sop : Nat)
  /-- SNP_INV to the holders of a line that a write replaces whole (R221). -/
  | replace (line : Nat)
  /-- The home has answered RETRY to an agent without a port (R227): the requester, the line, the serial of the transaction
  in its way where the reason is CONFLICT, and the context. -/
  | retry (id line : Nat) (cause : Option Nat) (ctx : Option Nat)
  /-- The turn of a read of a line at its memory controller (R263). -/
  | mem (line : Nat)
  /-- A region must wake. -/
  | wake (r : Nat)
  /-- A window request whose response brings data. -/
  | window (q : WinReq)
  /-- The dirty log of a slice must mark a granule first. -/
  | log (s g : Nat)
  /-- The tile must wait for a key slot that is BINDING or RETIRING (R406). -/
  | key
  /-- The directory entry of a line shows a bad STATE_PAR by an injection: of KIND 3, or of KIND 0 (Table 12.5). -/
  | dirState (line : Nat) (selfTest : Bool) (ctx : Option Nat)
  deriving DecidableEq, Repr

/-- Why an access gives no answer. -/
inductive Fail where
  /-- The command ends with this status of Table 2.10. -/
  | status (code : Nat)
  /-- A translation fault, as its record would say. -/
  | fault (r : FRec)
  /-- Something outside must answer first; the access is made again afterwards. -/
  | need (n : Need)
  /-- It waits at this point until it is made again. -/
  | later
  deriving DecidableEq, Repr

/-- A computation over the die that may fail; what it did before it failed stands, except where it waits. -/
abbrev Act (α : Type) := ReaderT Env (ExceptT Fail (StateM Die)) α

/-- Run an access. -/
def Act.go {α : Type} (a : Act α) (e : Env) (d : Die) : Except Fail α × Die := (a.run e).run.run d

/-- Change the die. -/
def upd (f : Env → Die → Die) : Act Unit := do
  let e ← read
  modify (f e)

/-- Fail unless the condition holds. -/
def need (b : Bool) (f : Fail) : Act Unit := if b then pure () else throw f

/-- Statuses of Table 2.10. -/
abbrev St.OK : Nat := 0x0000
abbrev St.SKIPPED : Nat := 0x0001
abbrev St.BYPASSED : Nat := 0x0002
abbrev St.BAD_OPCODE : Nat := 0x0010
abbrev St.PRIV : Nat := 0x0011
abbrev St.BAD_ARG : Nat := 0x0012
abbrev St.CALL_DEPTH : Nat := 0x0013
abbrev St.RETURN_AT_TOP : Nat := 0x0014
abbrev St.TRANSLATION : Nat := 0x0020
abbrev St.ISOLATION : Nat := 0x0021
abbrev St.PERMISSION : Nat := 0x0022
abbrev St.BUS_ERROR : Nat := 0x0023
abbrev St.LOST : Nat := 0x0024
abbrev St.FENCE_TIMEOUT : Nat := 0x0030
abbrev St.CANCELLED : Nat := 0x0031
abbrev St.YIELD_OVERRUN : Nat := 0x0032
abbrev St.WINDOW : Nat := 0x0040

/-- Indices of Table 12.1 by name. -/
abbrev Cs.FABRIC_CE : Nat := 0
abbrev Cs.FABRIC_UE : Nat := 1
abbrev Cs.CLP_PARITY : Nat := 2
abbrev Cs.DEAD_CLUSTER : Nat := 3
abbrev Cs.HOST_ABORT : Nat := 4
abbrev Cs.POT_FAIL : Nat := 5
abbrev Cs.NO_CLUSTERS : Nat := 6
abbrev Cs.INV_TIMEOUT : Nat := 7
abbrev Cs.LC_PARITY_CLEAN : Nat := 8
abbrev Cs.LC_PARITY_DIRTY : Nat := 9
abbrev Cs.LC_TAG_COPY : Nat := 10
abbrev Cs.LC_STATE : Nat := 11
abbrev Cs.LC_TAG_CLEAN : Nat := 12
abbrev Cs.LC_TAG_LOST : Nat := 13
abbrev Cs.LC_SIDE : Nat := 14
abbrev Cs.DIR_TAG_COPY : Nat := 15
abbrev Cs.DIR_STATE : Nat := 16
abbrev Cs.DIR_TAG_LOST : Nat := 17
abbrev Cs.LINE_LOST_DEAD : Nat := 18
abbrev Cs.MEM_CE : Nat := 19
abbrev Cs.MEM_UE : Nat := 20
abbrev Cs.NMAP_UE : Nat := 21
abbrev Cs.NMAP_ACCESS : Nat := 22
abbrev Cs.PHY_ALERT : Nat := 23
abbrev Cs.PHY_FAIL : Nat := 24
abbrev Cs.THERMAL : Nat := 25
abbrev Cs.HM_FAIL : Nat := 26
abbrev Cs.SE_DECL : Nat := 27
abbrev Cs.SE_BUSY : Nat := 28
abbrev Cs.SE_TAG_ACCESS : Nat := 29
abbrev Cs.SE_MISMATCH : Nat := 30
abbrev Cs.SE_FAULT : Nat := 31
abbrev Cs.SE_FAULT_WB : Nat := 32
abbrev Cs.LINK_FAIL : Nat := 33
abbrev Cs.LC_LOCKED : Nat := 34
abbrev Cs.SO_PARITY : Nat := 35
abbrev Cs.SO_PARITY_REPEAT : Nat := 36
abbrev Cs.CR_MALFORMED : Nat := 37
abbrev Cs.CR_MISMATCH : Nat := 38
abbrev Cs.DME_MERGE_PARITY : Nat := 39
abbrev Cs.FW_WDOG : Nat := 40
abbrev Cs.LINK_DOWN : Nat := 41
abbrev Cs.REGION_PWR : Nat := 42

/-! ### Homes -/

/-- The six-bit hash of R203; a[49] enters bit 0. -/
def homeHash (line : Nat) : Nat := (List.range 8).foldl (fun h i => h ^^^ bitsOf line (6 * i) 6) 0

/-- The three-bit hash of R204. -/
def localHash (line : Nat) : Nat := (List.range 15).foldl (fun h i => h ^^^ bitsOf line (3 * i) 3) 0

/-- The line's page has LOCAL_HOME 1 (R205). -/
def Die.isLocal (d : Die) (line : Nat) : Bool := decide (pageOfLine line ∈ d.sm.localHome)

/-- The home LC slice of a line (R203, R204). -/
def Die.home (e : Env) (d : Die) (line : Nat) : Nat :=
  if d.isLocal line then 8 * stackOf (pageOfLine line) + localHash line
  else homeHash line % 2 ^ e.log2N

/-- The block number that gives the set within the home. -/
def Die.blk (e : Env) (d : Die) (line : Nat) : Nat :=
  if d.isLocal line then line / 8
  else (line / 64) * 2 ^ (6 - e.log2N) + homeHash line / 2 ^ e.log2N

def Die.lcSet (e : Env) (d : Die) (line : Nat) : Nat := d.blk e line % 1536
def Die.dirSet (e : Env) (d : Die) (line : Nat) : Nat := d.blk e line % 2048

/-- The LC line, directory entry and side-buffer entry of a line, where held. -/
def Die.lcLine (d : Die) (line : Nat) : Option LcLine := Tab.get none d.coh.lc line
def Die.dirEnt (d : Die) (line : Nat) : Option DirEnt := Tab.get none d.coh.dir line
def Die.sideBuf (d : Die) (h : Nat) : List Side := Tab.get [] d.coh.side h
def Die.sideLine (e : Env) (d : Die) (line : Nat) : Option Side := (d.sideBuf (d.home e line)).find? (fun x => decide (x.line = line))

def Die.setLc (d : Die) (line : Nat) (x : Option LcLine) : Die := { d with coh.lc := Tab.set none d.coh.lc line x }
def Die.setDir (d : Die) (line : Nat) (x : Option DirEnt) : Die := { d with coh.dir := Tab.set none d.coh.dir line x }
def Die.setSide (d : Die) (h : Nat) (x : List Side) : Die := { d with coh.side := Tab.set [] d.coh.side h x }

/-- The side-buffer entry of a line leaves the buffer. -/
def Die.takeSide (e : Env) (d : Die) (line : Nat) : Die :=
  let h := d.home e line
  d.setSide h ((d.sideBuf h).filter (fun x => decide (x.line ≠ line)))

/-- The side-buffer entry of a line, if there is one, is dropped unused. -/
def Die.dropSide (e : Env) (d : Die) (line : Nat) : Die :=
  if (d.sideLine e line).isSome then (d.takeSide e line).count (576 + 16 * d.home e line + 6) 1 else d

/-- Recency: a fresh stamp. -/
def Die.stamp (d : Die) : Nat × Die := (d.coh.clock, { d with coh.clock := d.coh.clock + 1 })

/-- The line has an active transaction at its home (R232). -/
def Die.activeTxn (d : Die) (line : Nat) : Bool := d.coh.txns.any (fun t => decide (t.line = line))

/-- The home drops its LC copy, the side-buffer entry and the directory entry of a line (R239 step 1). -/
def Die.dropLine (e : Env) (d : Die) (line : Nat) : Die := ((d.setLc line none).setDir line none).dropSide e line

/-- The home's pending-withdrawal list. -/
def Die.wdrawList (d : Die) (h : Nat) : List Nat := Tab.get [] d.coh.wdraw h

/-- The home's list has room for the page of a line (R239): it holds 16 pages. -/
def Die.lossRoom (e : Env) (d : Die) (line : Nat) : Bool :=
  let l := d.wdrawList (d.home e line)
  decide (pageOfLine line ∈ l) || decide (l.length < 16)

/-- A page that is to be withdrawn joins the list (R239 step 2). -/
def Die.addWdraw (d : Die) (h p : Nat) : Die :=
  let due := decide (d.pageState p = 2) || decide (d.pageState p = 4) || d.sm.potOps.any (fun o => decide (o.kind = 3 ∧ o.pages = [p]))
  if p ∈ d.wdrawList h ∨ !due then d else { d with coh.wdraw := Tab.set [] d.coh.wdraw h (d.wdrawList h ++ [p]) }

/-- The home answers LOST to a request for the line while its page stands on the home's list. -/
def Die.pendingLost (e : Env) (d : Die) (line : Nat) : Bool := decide (pageOfLine line ∈ d.wdrawList (d.home e line))

/-- Requests that were checked under the present page states and that no home has accepted yet (R32), and accesses under
way whose checks have been passed (R34), by their serials. -/
def Die.unaccepted (d : Die) (p : Nat) : List Nat :=
  (d.coh.reqs.filter (fun q => q.tracker.isNone && q.window.isNone && q.host.isNone && !q.heldP && decide (q.op ≠ .wb) && decide (pageOfLine q.line = p))).map (·.rid) ++
  (d.stu.passed.filter (fun x => x.span.pieces.any (fun y => decide (pageOf y.1 = p)))).map (·.n)

/-- The Slice Manager withdraws a page (Table 3.8, R104): an OWNED page keeps its owner, a RESERVED page has
ORPHAN 1, a FREE page goes to UNSCRUBBED, any other keeps its state. CAUSE is 1 LOST_LINE or 2 SECURITY. -/
def Die.withdraw (d : Die) (p cause : Nat) : Die :=
  let go := fun (d : Die) =>
    if d.sm.potOps.any (fun o => decide (o.kind = 3 ∧ o.pages = [p])) then d
    else
      { d with nid := d.nid + 1,
               sm.potOps := d.sm.potOps ++ [{ id := d.nid, kind := 3, sl := d.pageOwner p, pages := [p], cause := cause, waits := d.unaccepted p }] }
  match d.pageState p with
  | 2 => go (d.setPage p 3 (d.pageOwner p) 0 cause)
  | 4 => go (d.setPage p 3 0 1 cause)
  | 1 => d.setPage p 0 0 0 0
  | _ => d

/-- The slice of the requester of a line (R366): its context's; where it carries none, as a window packet and a host-port request do, the
slice that owns the page, which their page check has found to be theirs; log entry 96. -/
def Die.askSlice (d : Die) (ctx : Option Nat) (line : Nat) : Option Nat :=
  match ctx with
  | some c => d.sliceOf c
  | none => d.ownedPage (pageOfLine line)

/-- The page's states that a loss report names, and its owning slice. -/
def Die.lossReport (d : Die) (cause inst line det0 det1 : Nat) (full : Bool) (ctx : Option Nat) : Report :=
  { cause := cause, inst := inst, addr := some (line * 128), ctx := ctx, slice := d.ownedPage (pageOfLine line),
    det0 := det0, det1 := det1, page := d.pageState (pageOfLine line), full := full }

/-- A home loses a line (R239, R241, R242): `why` is CAUSE of Table 7.9, `cl` the dead cluster, `rc` the cause
reported to Assay. -/
def Die.lostLine (e : Env) (d : Die) (line why cl rc : Nat) (ctx : Option Nat) : Die :=
  let h := d.home e line
  let p := pageOfLine line
  let own := d.ownedPage p
  let d := (d.dropLine e line).addWdraw h p
  let prod := d.getF F.DIR_LLOG_STATUS.PRODUCED 0
  let full := decide ((prod + 2 ^ 32 - d.getF F.DIR_LLOG_CONS.CONSUMED 0) % 2 ^ 32 = 4096)
  let i := prod % 4096
  let d1 :=
    if full then d.setEv F.DIR_LLOG_STATUS.OVERFLOW 0
    else
      let d := d.clearElem .DIR_LLOG i
      let d := d.setF F.DIR_LLOG.LINE i line
      let d := d.setF F.DIR_LLOG.SLICE i (own.getD 0)
      let d := d.setF F.DIR_LLOG.OWNED i (Bool.num own.isSome)
      let d := d.setF F.DIR_LLOG.CAUSE i why
      let d := d.setF F.DIR_LLOG.CLUSTER i (if why = 1 then cl else 0)
      let d := d.setF F.DIR_LLOG.TIME i e.now
      d.incWrap F.DIR_LLOG_STATUS.PRODUCED 0 1
  let d := if why = 1 then d1.incSat F.DIR_STATUS.RECLAIMED 0 1 else d1.incSat F.LC_STATUS.PAR_LOST 0 1
  let r := d.lossReport rc h line (if full then 0xFFFFFFFF else i) (if why = 1 then cl else 0) full ctx
  (d.report e r).withdraw p 1

/-! ### The fabric (R14, R15, R225, R390) -/

/-- The stops a message enters on a ring from stop `a` to stop `b`, `b` included (R14): the shorter direction, and where both
are equally long, that of increasing index. -/
def ringPath (a b : Nat) : List Nat :=
  let up := (b + 27 - a) % 27
  if up ≤ (27 - up) % 27 ∨ up = 0 then (List.range up).map (fun i => (a + i + 1) % 27)
  else (List.range (27 - up)).map (fun i => (a + 26 - i) % 27)

/-- Row and column of a region in the mesh (R15). -/
def Env.meshRow (e : Env) (r : Nat) : Nat := r / e.meshColumns
def Env.meshCol (e : Env) (r : Nat) : Nat := r % e.meshColumns

/-- The numbers passed from `a` to `b`, `b` included. -/
def steps (a b : Nat) : List Nat :=
  if a ≤ b then (List.range (b - a)).map (fun i => a + i + 1) else (List.range (a - b)).map (fun i => a - (i + 1))

/-- The regions whose mesh gateways a message enters on its way from region `a` to region `b`, `b` included: along the column
of `a` first, and then along the row of `b` (R15); log entry 104. -/
def Env.meshPath (e : Env) (a b : Nat) : List Nat :=
  (steps (e.meshRow a) (e.meshRow b)).map (fun y => y * e.meshColumns + e.meshCol a) ++
  (steps (e.meshCol a) (e.meshCol b)).map (fun x => e.meshRow b * e.meshColumns + x)

/-- Where a unit stands: (region, ring stop); region 8 is the hub (Table 1.4). -/
abbrev Place := Nat × Nat

/-- The place of a requester of Table 7.6, of a home, and of a memory controller. -/
def whoPlace (id : Nat) : Place :=
  if id < 64 then (id / 8, id % 8) else if id < 128 then ((id - 64) / 8, 16 + id % 8) else if id < 136 then (id - 128, 25) else (8, 0)
def homePlace (h : Nat) : Place := (h / 8, 8 + h % 8)
def mcPlace (n : Nat) : Place := (n, 24)

/-- The checkers of the fabric code a message passes, as INSTANCE numbers them (R390, Table 12.5a): ring stops and gateways as
region × 32 + stop, and 255 for the hub. -/
def Env.fabricPath (e : Env) (a b : Place) : List Nat :=
  let at_ := fun (r : Nat) (l : List Nat) => l.map (fun s => 32 * r + s)
  if a.1 = b.1 then (if a.1 = 8 then [255] else at_ a.1 (ringPath a.2 b.2))
  else
    (if a.1 = 8 then [255] else at_ a.1 (ringPath a.2 26)) ++
    (if a.1 = 8 ∨ b.1 = 8 then [] else (e.meshPath a.1 b.1).map (fun r => 32 * r + 26)) ++
    (if b.1 = 8 then [255] else (if a.1 = 8 then [32 * b.1 + 26] else []) ++ at_ b.1 (ringPath 26 b.2))

/-- A message with `n` bytes of data goes from one place to another: it enters the regions on its way, the mesh gateways
count its bytes (Table 14.5), and the first checker on its way that an injection has armed finds the fabric code wrong
(R390, R393). -/
def Die.carry (e : Env) (d : Die) (a b : Place) (n : Nat) : Die :=
  let d := if a.1 ≠ b.1 ∧ b.1 ≠ 8 then d.entered b.1 else d
  if n = 0 then d
  else
    let d := if a.1 = b.1 then d
      else
        let d := if a.1 = 8 then d else d.monitor e 5 a.1 1 n
        if b.1 = 8 then d else d.monitor e 5 b.1 0 n
    if !(d.bit F.AY_INJECT.ARM 0) then d
    else match (e.fabricPath a b).findSome? (fun i =>
      if d.fire0 Cs.FABRIC_CE i then some (Cs.FABRIC_CE, i) else if d.fire0 Cs.FABRIC_UE i then some (Cs.FABRIC_UE, i) else none) with
    | some x =>
      let d1 := if x.1 = Cs.FABRIC_CE then (d.fired.incSat F.RF_ERR.CE_COUNT 0 1).setF F.RF_ERR.LAST_CE_STOP 0 x.2 else d.fired
      (d1.report e { cause := x.1, inst := x.2, det0 := x.2 }).markInj d.ay.waiting.length
    | none => d

/-! ### Trackers, retries and what waits at a home (R225 to R231) -/

/-- The request is on its way to a home, or there. -/
def Req.homed (q : Req) : Bool := !q.heldP && q.host.isNone && q.window.isNone && decide (q.op ≠ .pf ∧ q.op ≠ .wb)

/-- Requests of the REQ class of one requester at one home, in the order they were issued. -/
def Die.atHome (e : Env) (d : Die) (who h : Nat) : List Req :=
  d.coh.reqs.filter (fun q => q.homed && decide (q.who = who) && decide (d.home e q.line = h))

/-- Shared trackers of a home in use by requests. -/
def Die.sharedUsed (e : Env) (d : Die) (h : Nat) : List Nat :=
  (d.coh.reqs.filterMap (fun q => if q.homed ∧ d.home e q.line = h then q.tracker else none)).filter (fun t => decide (144 ≤ t))

/-- The retried request of an agent without a port for a line. -/
def Die.engReq (d : Die) (use : Use) (line : Nat) : Option Req :=
  d.coh.reqs.find? (fun q => decide (q.use = some use ∧ q.line = line))

/-- Shared trackers of a home that are free: sweeps, evictions and the accesses of agents without a port hold one while their
transaction lasts, unless theirs is the reserved one. -/
def Die.freeShared (e : Env) (d : Die) (h : Nat) : Nat :=
  112 - (d.sharedUsed e h).length -
    (d.coh.txns.filter (fun t => t.rid.isNone && decide (d.home e t.line = h) &&
      (match t.use with | some u => (d.engReq u t.line).isNone | none => true))).length

/-- The line is being worked on at its home. -/
def Die.lineBusy (d : Die) (line : Nat) : Bool :=
  d.activeTxn line || d.coh.reqs.any (fun q => q.homed && q.tracker.isSome && decide (q.line = line))

/-- The serial of what works on a line: its transaction's, or that of the request accepted for it. -/
def Die.busyWith (d : Die) (line : Nat) : Option Nat :=
  match d.coh.txns.find? (fun t => decide (t.line = line)) with
  | some t => some (t.rid.getD t.id)
  | none => (d.coh.reqs.find? (fun q => q.homed && q.tracker.isSome && decide (q.line = line))).map (·.rid)

def Die.grantQ (d : Die) (h : Nat) : List GrantEnt := Tab.get [] d.coh.grants h
def Die.setGrantQ (d : Die) (h : Nat) (l : List GrantEnt) : Die := { d with coh.grants := Tab.set [] d.coh.grants h l }

/-- An accepted request for the line won its lookup before serial `won`, and is still to be performed (R232). -/
def Die.queuedAhead (d : Die) (line won : Nat) : Bool :=
  d.coh.reqs.any (fun q => q.homed && q.tracker.isSome && decide (q.line = line ∧ q.won < won))

/-- What caused a retry has ended (R228). -/
def Die.ended (d : Die) (cause : Nat) : Bool :=
  !(d.coh.txns.any (fun t => decide (t.rid.getD t.id = cause))) && !(d.coh.reqs.any (fun q => decide (q.rid = cause)))

/-- The retried request of a queued requester that will be resent first; none where it has been dropped since. -/
def Die.grantReq (e : Env) (d : Die) (h : Nat) (x : GrantEnt) : Option Req := ((d.atHome e x.who h).filter (·.retried)).head?

/-- A queued requester waits for a line whose transaction has ended, and its request still stands. -/
def Die.due (e : Env) (d : Die) (h line : Nat) (x : GrantEnt) : Bool :=
  decide (x.line = some line) && d.ended x.cause && (d.grantReq e h x).isSome

/-- The requester that receives the next GRANT of a home (R228): the oldest one queued whose request stands, whose reserved tracker
is free, whose cause has ended, and before which none is queued for the same line. -/
def Die.grantNext (e : Env) (d : Die) (h : Nat) : Option GrantEnt :=
  let lineOf := fun (x : GrantEnt) => (d.grantReq e h x).map (·.line)
  let q := (d.grantQ h).filter (fun x => (d.grantReq e h x).isSome)
  q.find? (fun x =>
    !(d.coh.reqs.any (fun y => y.homed && decide (d.home e y.line = h) && decide (y.tracker = some x.who))) &&
    (x.line.isNone || d.ended x.cause) &&
    !((q.takeWhile (fun y => decide (y ≠ x))).any (fun y => decide (lineOf y = lineOf x))))

/-- The turn of a requester under the rotating priority of a home (R231). -/
def Die.rank (d : Die) (h who : Nat) : Nat := (who + 144 - Tab.get 0 d.coh.ptr h % 144) % 144

/-- Requests for a line that reached its home together with one of requester `who`, sent at `at_`, and stand unanswered. -/
def Die.rivals (e : Env) (d : Die) (line who at_ : Nat) : List Req :=
  let h := d.home e line
  d.coh.reqs.filter (fun x => x.homed && decide (x.line = line ∧ x.who ≠ who ∧ x.at_ = at_) && x.tracker.isNone && !x.retried &&
    ((d.atHome e x.who h).takeWhile (fun y => decide (y.rid ≠ x.rid))).all (fun y => y.tracker.isSome))

/-- What stands in the way of a new request for a line (R227, R230, R231): its transaction; a request that arrived together
with it and wins the lookup; or a queued requester that a further transaction has overtaken once already. -/
def Die.inTheWay (e : Env) (d : Die) (line who at_ : Nat) : Option Nat :=
  let h := d.home e line
  if d.lineBusy line then d.busyWith line
  else match (d.rivals e line who at_).find? (fun x => decide (d.rank h x.who < d.rank h who)) with
    | some x => some x.rid
    | none => ((d.grantQ h).find? (fun x => x.overtaken && d.due e h line x)).bind (fun x => (d.grantReq e h x).map (·.rid))

/-- A new request of requester `who` for a line wins its lookup: those that wait for the line have been overtaken (R230), and
the pointer moves to one past the winner where others contended (R231). -/
def Die.wins (e : Env) (d : Die) (line who at_ : Nat) : Die :=
  let h := d.home e line
  let d := if (d.grantQ h).any (d.due e h line) then
      d.setGrantQ h ((d.grantQ h).map (fun x => if d.due e h line x then { x with overtaken := true } else x))
    else d
  if d.rivals e line who at_ = [] then d else { d with coh.ptr := Tab.set 0 d.coh.ptr h ((who + 1) % 144) }

/-- A requester joins the grant queue of a home, unless it stands there (R228). -/
def Die.queueGrant (d : Die) (h : Nat) (x : GrantEnt) : Die :=
  if (d.grantQ h).any (fun y => decide (y.who = x.who)) then d else d.setGrantQ h (d.grantQ h ++ [x])

/-- A place of the fabric that holds messages back (R225): a home, the gateway of a region, the port stop of a cluster. -/
inductive Buffer where
  | home (h : Nat)
  | gateway (r : Nat)
  | stop (k : Nat)
  deriving DecidableEq, Repr

def Buffer.code : Buffer → Nat
  | .home h => h
  | .gateway r => 64 + r
  | .stop k => 72 + k

/-- The message classes of Table 7.5. -/
inductive MsgClass where
  | req | wb | snp | rsp
  deriving DecidableEq, Repr

def MsgClass.code : MsgClass → Nat
  | .req => 0 | .wb => 1 | .snp => 2 | .rsp => 3

/-- The messages of a class that a buffer holds back, oldest first, by their serials. Responses are consumed as they come
(R226). -/
def Die.heldBack (e : Env) (d : Die) (b : Buffer) (c : MsgClass) : List Nat :=
  let at_ := fun (line : Nat) => match b with
    | .home h => decide (d.home e line = h) && decide (d.powerState (h / 8) = 2)
    | .gateway r => decide (d.home e line / 8 = r) && decide (d.powerState r ≠ 2)
    | .stop _ => false
  match c with
  | .req => (d.coh.reqs.filter (fun q => q.homed && q.tracker.isNone && !q.retried && at_ q.line)).map (·.rid)
  | .wb => (d.coh.reqs.filter (fun q => decide (q.op = .wb) && at_ q.line)).map (·.rid)
  | .snp => (d.coh.snps.filter (fun x => decide (x.stag = 8) && (match b with | .stop k => decide (x.k = k) | _ => false))).map (·.line)
  | .rsp => []

/-- A message has the credit of its own class, and so stands in the buffer: nothing else holds it back. -/
def Die.hasCredit (e : Env) (d : Die) (b : Buffer) (c : MsgClass) (n : Nat) : Bool :=
  decide (n ∈ (d.heldBack e b c).take (Config.bufferDepth b.code c.code + 1))

/-- An uncorrectable line (R268, R269): the log entry, the report and the withdrawal. SOURCE is 1 demand read,
2 read-modify-write, 3 patrol; `nmap` is true for a null-map line, of which `line` is the first data line. -/
def Die.memUE (e : Env) (d : Die) (line : Nat) (nmap : Bool) (src : Nat) (ctx : Option Nat) : Die :=
  let p := pageOfLine line
  let n := stackOf p
  let own := d.ownedPage p
  let c := d.getF F.MC_UE_STATUS.COUNT n
  let full := decide (c ≥ 16)
  let d := d.incSat F.MC_ERR.UE_COUNT n 1
  let i := 16 * n + c
  let d :=
    if full then d.setEv F.MC_UE_STATUS.OVERFLOW n
    else
      let d := d.clearElem .MC_UE_LOG i
      let d := d.setF F.MC_UE_LOG.LINE i line
      let d := d.setF F.MC_UE_LOG.NMAP i (Bool.num nmap)
      let d := d.setF F.MC_UE_LOG.SOURCE i src
      let d := d.setF F.MC_UE_LOG.SLICE i (own.getD 0)
      let d := d.setF F.MC_UE_LOG.OWNED i (Bool.num own.isSome)
      let d := d.setF F.MC_UE_LOG.TIME i e.now
      d.setF F.MC_UE_STATUS.COUNT n (c + 1)
  let d := d.report e (d.lossReport (if nmap then Cs.NMAP_UE else Cs.MEM_UE) n line (if full then 0xFFFFFFFF else c) 0 full ctx)
  let d := (List.range (if nmap then 256 else 1)).foldl (fun d k => (d.dropLine e (line + k)).addWdraw (d.home e (line + k)) p) d
  d.withdraw p 1

end Sys2Proof.Machine
end

