-- ==== Sys2Proof/Machine/Memory.lean ====
section
/-! DEFINITION. Memory behind the homes: DRAM under the line code, the null map and its cache, bandwidth
buckets, and the Seal Engine with its tag cache (chapters 8 and 11). -/

namespace Sys2Proof.Machine

/-! ### Bytes of DRAM -/

/-- `n` bytes of a byte table from an address. -/
def getBytes (t : Tab Byte) (a n : Nat) : List Byte := (List.range n).map (fun i => Tab.get 0 t (a + i))

/-- Bytes written from an address on. -/
def putBytes (t : Tab Byte) : Nat → List Byte → Tab Byte
  | _, [] => t
  | a, b :: l => putBytes (Tab.set 0 t a b) (a + 1) l

/-- A line of bytes, and its bytes. -/
def lineOf (l : List Byte) : Line := BitVec.ofNat 1024 (numLE l)
def lineBytes (x : Line) : List Byte := bytesLE 128 x.toNat

/-- Data, side-band bytes 12 to 15 and check symbols of a line as DRAM holds them (Table 8.2). -/
def Mem.rawLine (m : Mem) (line : Nat) : Line × Nat × List Nat :=
  let s := getBytes m.side (16 * line) 16
  (lineOf (getBytes m.dram (128 * line) 128), numLE (s.drop 12), (List.range 6).map (fun j => numLE ((s.drop (2 * j)).take 2)))

/-- A line with a side band written to DRAM. -/
def Mem.putRaw (m : Mem) (line : Nat) (data : Line) (hm : Nat) (check : List Nat) : Mem :=
  { m with dram := putBytes m.dram (128 * line) (lineBytes data),
           side := putBytes m.side (16 * line) ((check.map (bytesLE 2)).flatten ++ bytesLE 4 hm) }

/-- A line written with a valid line code. -/
def Mem.putLine (m : Mem) (line : Nat) (data : Line) (hm : Nat) : Mem := m.putRaw line data hm (lineCheck data hm)

/-! ### Place, charge and readiness -/

/-- Pseudo-channel of a line (R248). -/
def Die.pchan (d : Die) (line : Nat) : Nat :=
  let n := stackOf (pageOfLine line)
  let o := line - n * (72 * 2 ^ 23)
  let h := (List.range 5).foldl (fun h i => h ^^^ bitsOf o (6 * i) 6) 0
  h % (if d.getF F.MC_STATUS.MODE n = 2 then 32 else 64)

/-- Banks per pseudo-channel of stack `n`, NB of Table 8.1. -/
def Die.banks (d : Die) (n : Nat) : Nat :=
  ((stackRows.find? (fun r => decide (r.mode = d.getF F.MC_STATUS.MODE n ∧ r.pages = d.getF F.MC_STATUS.PRESENT_PAGES n))).map (·.banks)).getD 64

/-- The bank, row and column of a line within its pseudo-channel (R248). -/
def Die.dramPlace (d : Die) (line : Nat) : Nat × Nat × Nat :=
  let n := stackOf (pageOfLine line)
  let i := (line - n * (72 * 2 ^ 23)) / (if d.getF F.MC_STATUS.MODE n = 2 then 32 else 64)
  let q := i / 8
  let row := q / d.banks n
  ((q + row) % d.banks n, row, i % 8)

/-- Table key of a line's bank: stack, pseudo-channel, bank. -/
def Die.bankKey (d : Die) (line : Nat) : Nat := (64 * stackOf (pageOfLine line) + d.pchan line) * 64 + (d.dramPlace line).1

/-- The bank of the line has the line's row open. -/
def Die.rowOpen (d : Die) (line : Nat) : Bool := decide (Tab.get none d.mem.rows (d.bankKey line) = some (d.dramPlace line).2.1)

/-- The bursts of a line open its row; an activation of the bank is counted (R265). -/
def Die.activate (d : Die) (line : Nat) : Die :=
  let k := d.bankKey line
  if d.rowOpen line then d
  else { d with mem.rows := Tab.set none d.mem.rows k (some (d.dramPlace line).2.1), mem.acts := Tab.set 0 d.mem.acts k (Tab.get 0 d.mem.acts k + 1) }

/-- The open rows of a pseudo-channel, or of the whole stack, are closed. -/
def Die.closeRows (d : Die) (n : Nat) (pc : Option Nat) : Die :=
  { d with mem.rows := d.mem.rows.filter (fun x => decide (x.1 / 4096 ≠ n) || (match pc with | some c => decide (x.1 / 64 % 64 ≠ c) | none => false)) }

/-- Peak bytes per 10 µs of a stack (Table 8.1). -/
def Die.peak10us (d : Die) (n : Nat) : Nat := if d.getF F.MC_STATUS.MODE n = 2 then 12288000 else 20480000

/-- The rates of slice `s` at controller `n`: guarantee and cap in bytes per ns (R262). -/
def Die.sbw (d : Die) (n s : Nat) : Nat × Nat :=
  let c := d.getF F.MC_SBW.CAP_GBPS (512 * n + s)
  (min (d.getF F.MC_SBW.GUAR_GBPS (512 * n + s)) c, c)

/-- The buckets of slice `s` at controller `n` brought up to die time `t` (R262). -/
def Die.bucket (d : Die) (n s t : Nat) : Int × Int :=
  let b := Tab.get (0, 0, 0) d.mem.buckets (512 * n + s)
  let dt : Int := t - b.2.2
  (min 65536 (b.1 + (d.sbw n s).1 * dt), min 65536 (b.2.1 + (d.sbw n s).2 * dt))

/-- Bytes of classes 2 to 4 that controller `n` has moved in the 10 µs window of `e`. -/
def Die.slotsUsed (e : Env) (d : Die) (n : Nat) : Nat :=
  let m := Tab.get (0, 0) d.mem.slots n
  if m.1 = e.now / 10000 then m.2 else 0

/-- A line more fits the burst slots that classes 2 to 4 have in this 10 µs window: all of them, or half in band 3 (R266). -/
def Die.slotLeft (e : Env) (d : Die) (n : Nat) : Bool :=
  decide (d.slotsUsed e n + 128 ≤ d.peak10us n / (if d.getF F.MC_TEMP.BAND n = 3 then 2 else 1))

/-- Maintenance of `bytes` bytes at controller `n` is taken from the allotment of this 10 µs window (Table 8.5). -/
def Die.chargeMaint (e : Env) (d : Die) (n bytes : Nat) : Die :=
  let w := e.now / 10000
  let m := Tab.get (0, 0) d.mem.maint n
  let d := d.count (1600 + 16 * n + 7) bytes
  { d with mem.maint := Tab.set (0, 0) d.mem.maint n (w, (if m.1 = w then m.2 else 0) + bytes) }

/-- Maintenance that writes `bytes` bytes spread over the pseudo-channels of stack `n`: scrubs of pages, and null-map lines
written in bulk (Table 8.4). -/
def Die.chargeBulk (e : Env) (d : Die) (n bytes : Nat) : Die :=
  let pcs := if d.getF F.MC_STATUS.MODE n = 2 then 32 else 64
  let d := (List.range pcs).foldl (fun d i => d.count (1728 + 64 * n + i) (bytes / pcs)) d
  (((d.count (1600 + 16 * n + 1) bytes).count 6 bytes).monitor e 2 n 1 bytes).chargeMaint e n bytes

/-- Bytes moved at a memory controller for a line, with who is charged (Table 8.4). -/
def Die.charge (e : Env) (d : Die) (line bytes : Nat) (wr maint : Bool) : Die :=
  let p := pageOfLine line
  let n := stackOf p
  let d := d.count (1600 + 16 * n + Bool.num wr) bytes
  let d := d.count (1728 + 64 * n + d.pchan line) bytes
  let d := d.count (if wr then 6 else 5) bytes
  let d := (d.monitor e 2 n (Bool.num wr) bytes).activate line
  let d : Die := { d with mem.slots := Tab.set (0, 0) d.mem.slots n (e.now / 10000, d.slotsUsed e n + bytes) }
  if maint then d.chargeMaint e n bytes
  else match d.ownedPage p with
    | some s =>
      let b := d.bucket n s e.now
      let d := d.count (4096 + 4 * s + 2) bytes
      let d := d.monitor e 6 s 0 bytes
      { d with mem.buckets := Tab.set (0, 0, 0) d.mem.buckets (512 * n + s) (b.1 - bytes, b.2 - bytes, e.now) }
    | none => d

/-- Maintenance has bytes left in the current 10 µs window of controller `n` (Table 8.5). -/
def Die.maintLeft (e : Env) (d : Die) (n : Nat) : Bool :=
  let m := Tab.get (0, 0) d.mem.maint n
  let used := if m.1 = e.now / 10000 then m.2 else 0
  decide (used + 128 ≤ d.peak10us n * min 50 (d.getF F.MC_CFG.MAINT_PCT n) / 100)

/-! ### Service classes (R263, R264) -/

/-- The class of Table 8.5 in which a read charged to slice `s` (none: System) is served now; none where it waits for
C(s). -/
def Die.readClass (e : Env) (d : Die) (n : Nat) (s : Option Nat) : Option Nat :=
  match s with
  | none => some 2
  | some s =>
    let b := d.bucket n s e.now
    if d.getF F.MC_SBW.CAP_GBPS (512 * n + s) = 0 ∨ b.2 ≤ 0 then none
    else if b.1 > 0 then some 2 else some 3

/-- Turns until slice `s` is served by the round robin of class 3 at controller `n`. -/
def Die.mcTurn (d : Die) (n s : Nat) : Nat := (s + 1023 - Tab.get 0 d.mem.turn n) % 512

/-- Reads that have waited longer than the read of `line`: all, but for those that came after it. -/
def Die.mcOlder (d : Die) (line : Nat) : List MWait := d.mem.waits.takeWhile (fun w => decide (w.line ≠ line))

/-- A waiting read `w` goes before a read of `line` charged to `s` that is of class `c` now: it is of a lower class; or of
class 3 with an earlier turn of its slice; or older, where the younger hits no open row or 32 have passed it. -/
def Die.goesFirst (e : Env) (d : Die) (line c : Nat) (s : Option Nat) (w : MWait) : Bool :=
  let n := stackOf (pageOfLine line)
  if stackOf (pageOfLine w.line) ≠ n ∨ w.line = line then false
  else match d.readClass e n w.slice with
    | none => false
    | some k =>
      decide (k < c) ||
      (decide (k = c) &&
        (if c = 3 ∧ w.slice ≠ s then decide (d.mcTurn n (w.slice.getD 0) < d.mcTurn n (s.getD 0))
         else (d.mcOlder line).contains w && (!(d.rowOpen line) || decide (w.passes ≥ 32))))

/-- The reads of controller `n` that wait and could be served now: class 4 gives way to them. -/
def Die.mcReady (e : Env) (d : Die) (n : Nat) : Bool :=
  d.mem.waits.any (fun w => decide (stackOf (pageOfLine w.line) = n) && (d.readClass e n w.slice).isSome)

/-- Maintenance may be served at controller `n` now: in class 2 within its allotment, else in class 4. -/
def Die.maintMay (e : Env) (d : Die) (n : Nat) : Bool := d.maintLeft e n || !(d.mcReady e n)

/-- The read of a line is served: it waits no more, each older read of its class has been passed once more, and the round
robin goes on from its slice. -/
def Die.mcServed (e : Env) (d : Die) (line : Nat) (s : Option Nat) : Die :=
  let n := stackOf (pageOfLine line)
  let c := d.readClass e n s
  let old := d.mcOlder line
  let mine := fun (w : MWait) => old.contains w && decide (stackOf (pageOfLine w.line) = n) && decide (d.readClass e n w.slice = c) &&
    (decide (c = some 2) || decide (w.slice = s))
  let d : Die :=
    if d.mem.waits = [] then d
    else
      let rest := d.mem.waits.filter (fun w => decide (w.line ≠ line))
      { d with mem.waits := rest.map (fun w => if mine w then { w with passes := w.passes + 1 } else w) }
  match c, s with
  | some 3, some s => { d with mem.turn := Tab.set 0 d.mem.turn n s }
  | _, _ => d

/-- A demand read of a line has its turn at its controller: its buckets let it, and no waiting read goes before it. -/
def mcTurnGate (line : Nat) : Act Unit := do
  let e ← read
  let d ← get
  let s := d.ownedPage (pageOfLine line)
  match d.readClass e (stackOf (pageOfLine line)) s with
  | none => throw (.need (.mem line))
  | some c =>
    need (!(d.mem.waits.any (d.goesFirst e line c s))) (.need (.mem line))
    modify (fun d => d.mcServed e line s)

/-- The stack's controller serves the line now: its region runs, or writes back its own lines on its way to
GATED (R39 steps 1 to 3), the null map is written (R258), no retraining
(R402) and no blackout of the pseudo-channel (R401). -/
def memReady (line : Nat) : Act Unit := do
  let e ← read
  let d ← get
  let n := stackOf (pageOfLine line)
  need (e.hasRegion n) (.status St.BUS_ERROR)
  let st := (d.power n).step
  let draining := decide (d.powerState n = 3) && (decide (d.home e line / 8 = n ∧ st ≤ 2) || decide (st = 3))
  need (d.running n || draining) (.need (.wake n))
  need (d.bit F.MC_STATUS.NMAP_READY n) .later
  need (!(d.mem.retr.contains n)) .later
  need (decide (Tab.get none d.mem.cal n ≠ some (d.pchan line))) .later

/-! ### Raw reads and writes under the line code -/

/-- An armed PHY_ALERT makes the PHY's check of the next access fail: one retry succeeds (R267, Table 12.5). -/
def phyCheck (line : Nat) : Act Unit := do
  let d ← get
  let n := stackOf (pageOfLine line)
  if d.fire0 Cs.PHY_ALERT n then
    let w := d.ay.waiting.length
    upd (fun e d => (d.fired.incSat F.MC_ERR.PHY_RETRY_COUNT n 1).report e { cause := Cs.PHY_ALERT, inst := n, det0 := d.pchan line })
    modify (fun d => d.markInj w)

/-- A line written to DRAM with its charge: four bursts. -/
def rawWrite (line : Nat) (data : Line) (hm : Nat) (maint : Bool) : Act Unit := do
  let e ← read
  let d ← get
  need (d.slotLeft e (stackOf (pageOfLine line))) .later
  phyCheck line
  upd (fun e d => { (d.charge e line 128 true maint) with mem := (d.charge e line 128 true maint).mem.putLine line data hm })

/-- A line read from DRAM and decoded (R251), with MEM_CE and its repair write, MEM_UE, and the injections
that reach the read (Table 8.7, Table 12.5). None: uncorrectable, and handled under R268. -/
def rawRead (line : Nat) (src : Nat) (ctx : Option Nat) (maint : Bool) : Act (Option (Line × Nat)) := do
  let e ← read
  let d0 ← get
  need (d0.slotLeft e (stackOf (pageOfLine line))) .later
  phyCheck line
  upd (fun e d => d.charge e line 128 false maint)
  let d ← get
  let n := stackOf (pageOfLine line)
  let raw := d.mem.rawLine line
  let self := d.fireLine 1 line
  let ce (dat : Line) (hm : Nat) (fixed : List (Nat × Nat)) : Act Unit := do
    let lowest := (fixed.map (fun x => symbolNumber x.1)).foldl min 71
    let r : Report := { cause := Cs.MEM_CE, inst := n, addr := some (line * 128), ctx := ctx,
                        slice := if src = 3 then none else d.askSlice ctx line, det0 := d.pchan line * 256 + lowest, det1 := fixed.length, self := self }
    upd (fun e d => (if self then d.fired else d.incSat F.MC_ERR.CE_COUNT n 1).report e r)
    rawWrite line dat hm true
  match lineDecode raw.1 raw.2.1 raw.2.2 with
  | some x =>
    if d.fire0 Cs.MEM_UE n then
      let k := d.ay.waiting.length
      upd (fun e d => (d.fired.memUE e line false src ctx).markInj k)
      pure none
    else if d.fire0 Cs.MEM_CE n then
      let k := d.ay.waiting.length
      modify Die.fired
      ce x.data x.hm [(0, 0)]
      modify (fun d => d.markInj k)
      pure (some (x.data, x.hm))
    else
      if x.fixed ≠ [] then ce x.data x.hm x.fixed
      pure (some (x.data, x.hm))
  | none =>
    if self then
      let r : Report := { cause := Cs.MEM_UE, inst := n, addr := some (line * 128), self := true }
      upd (fun e d => d.fired.report e r)
      match Tab.get none d.mem.injBuf n with
      | some (l, dat) =>
        modify (fun d => { d with mem.injBuf := Tab.set none d.mem.injBuf n none })
        rawWrite l dat 0 true
      | none => pure ()
      throw (.status St.BUS_ERROR)
    else
      set (d.memUE e line false src ctx)
      pure none

/-! ### The null map (R254, R259) -/

/-- Index of the null-map line that covers a line, its table key, and the place of the line's four bits. -/
def nmapIdx (line : Nat) : Nat := (line - stackOf (pageOfLine line) * (72 * 2 ^ 23)) / 256
def nmapKey (line : Nat) : Nat := stackOf (pageOfLine line) * 2 ^ 22 + nmapIdx line
def nmapBit (line : Nat) : Nat := 4 * (line % 256)

/-- The line in the null-map pages that holds the null-map line at a key. -/
def Die.nmapAt (e : Env) (d : Die) (key : Nat) : Nat :=
  let n := key / 2 ^ 22
  (2304 * n + (d.stackPages e n - d.getF F.MC_STATUS.NMAP_PAGES n)) * 2 ^ 18 + key % 2 ^ 22

/-- The wrong symbols of a stored null-map line can be corrected (R251). -/
def nmapFixable (bad : List (Nat × BitVec 16)) : Bool :=
  decide (bad.length ≤ 3) && decide ((bad.map (fun x => rsGroup x.1)).eraseDups.length = bad.length)

/-- A null-map line is written to DRAM. -/
def Mem.putNmap (m : Mem) (key : Nat) (x : Line) : Mem :=
  { m with nmap := Tab.set ones m.nmap key x, nmapBad := Tab.set [] m.nmapBad key [] }

/-- Null-map lines of stack `n` in the cache. -/
def Mem.nmcOf (m : Mem) (n : Nat) : List (Nat × CLine) :=
  m.nmc.filterMap (fun x => if x.1 / 2 ^ 22 = n then x.2.map (fun c => (x.1, c)) else none)

/-- Write back a dirty cached null-map line. -/
def Die.nmcClean (e : Env) (d : Die) (key : Nat) : Die :=
  match Tab.get none d.mem.nmc key with
  | some c =>
    if c.dirty then
      let d := d.charge e (d.nmapAt e key) 128 true true
      { d with mem := { (d.mem.putNmap key c.data) with nmc := Tab.set none d.mem.nmc key (some { c with dirty := false }) } }
    else d
  | none => d

/-- Write back every dirty null-map line of stack `n` and empty its cache (R259). -/
def Die.nmcFlush (e : Env) (d : Die) (n : Nat) : Die :=
  (d.mem.nmcOf n).foldl (fun d x => let d := d.nmcClean e x.1; { d with mem.nmc := Tab.set none d.mem.nmc x.1 none }) d

/-- The null-map line at a key enters the cache: 1,024 sets of 16 ways, least recently used. -/
def Die.nmcFill (e : Env) (d : Die) (key : Nat) (x : Line) (dirty : Bool) : Die :=
  let same := (d.mem.nmcOf (key / 2 ^ 22)).filter (fun y => decide (y.1 % 1024 = key % 1024 ∧ y.1 ≠ key))
  let d :=
    if same.length < 16 then d
    else match same.foldl (fun (b : Option (Nat × CLine)) y => match b with | none => some y | some z => if y.2.lru < z.2.lru then some y else b) none with
      | some y => let d := d.nmcClean e y.1; { d with mem.nmc := Tab.set none d.mem.nmc y.1 none }
      | none => d
  { d with mem.nmc := Tab.set none d.mem.nmc key (some ⟨x, dirty, d.mem.clock⟩), mem.clock := d.mem.clock + 1 }

/-- A null-map line is used corrected, and reported (R392); `inj` says that an injection has caused it. -/
def nmapCe (key lowest count : Nat) (src : Nat) (ctx : Option Nat) (inj : Bool) : Act Unit := do
  let e ← read
  let d ← get
  let n := key / 2 ^ 22
  let at_ := d.nmapAt e key
  let k := d.ay.waiting.length
  let r : Report := { cause := Cs.MEM_CE, inst := n, addr := some (at_ * 128), ctx := ctx, slice := if src = 3 then none else ctx.bind d.sliceOf,
                      det0 := d.pchan at_ * 256 + lowest, det1 := count }
  upd (fun e d => ((if inj then d.fired else d).incSat F.MC_ERR.CE_COUNT n 1).report e r)
  if inj then modify (fun d => d.markInj k)

/-- An uncorrectable null-map line is handled as NMAP_UE (Table 8.7, R392) and written anew, all ones. -/
def nmapLost (key : Nat) (src : Nat) (ctx : Option Nat) (inj : Bool) : Act Unit := do
  let e ← read
  let d ← get
  let at_ := d.nmapAt e key
  let first := key / 2 ^ 22 * (72 * 2 ^ 23) + 256 * (key % 2 ^ 22)
  let k := d.ay.waiting.length
  upd (fun e d => (if inj then d.fired else d).memUE e first true src ctx)
  if inj then modify (fun d => d.markInj k)
  upd (fun e d => { d.charge e at_ 128 true true with mem := (d.charge e at_ 128 true true).mem.putNmap key ones })
  modify (fun d => { d with mem.nmc := Tab.set none d.mem.nmc key none })

/-- A null-map line read from DRAM and decoded: it, or none where it is uncorrectable and handled (NMAP_UE). A
correction is reported and repaired. -/
def nmapFetch (key : Nat) (src : Nat) (ctx : Option Nat) : Act (Option Line) := do
  let e ← read
  let d ← get
  let n := key / 2 ^ 22
  let at_ := d.nmapAt e key
  upd (fun e d => d.charge e at_ 128 false true)
  let bad := Tab.get [] d.mem.nmapBad key
  let x := Tab.get ones d.mem.nmap key
  let inj := d.fire0 Cs.NMAP_UE n
  let injCe := d.fire0 Cs.MEM_CE n && decide (bad = [])
  if nmapFixable bad && !inj then
    if bad ≠ [] ∨ injCe then
      nmapCe key (if injCe then 0 else (bad.map (fun x => symbolNumber x.1)).foldl min 71) (max 1 bad.length) src ctx injCe
      upd (fun e d => d.charge e at_ 128 true true)
      modify (fun d => { d with mem := d.mem.putNmap key x })
    pure (some x)
  else
    nmapLost key src ctx inj
    pure none

/-- The null-map line that covers a line, through the cache, which decodes it on every use (R392). None: uncorrectable, and handled. -/
def nmapLine (line : Nat) (src : Nat) (ctx : Option Nat) : Act (Option Line) := do
  let d ← get
  let key := nmapKey line
  let n := stackOf (pageOfLine line)
  match Tab.get none d.mem.nmc key with
  | some c =>
    upd (fun e d => (d.count (1600 + 16 * n + 8) 1).nmcFill e key c.data c.dirty)
    if d.fire0 Cs.NMAP_UE n then
      nmapLost key src ctx true
      pure none
    else
      if d.fire0 Cs.MEM_CE n then nmapCe key 0 1 src ctx true
      pure (some c.data)
  | none =>
    modify (fun d => d.count (1600 + 16 * n + 9) 1)
    match ← nmapFetch key src ctx with
    | none => pure none
    | some x =>
      upd (fun e d => d.nmcFill e key x false)
      pure (some x)

/-- Set the four null bits of a line in a null-map line. -/
def setNull (x : Line) (line bits : Nat) : Line :=
  let b := nmapBit line
  BitVec.ofNat 1024 (x.toNat - bitsOf x.toNat b 4 * 2 ^ b + bits * 2 ^ b)

/-- The line's null bits become `bits`. -/
def Die.putNull (e : Env) (d : Die) (line : Nat) (x : Line) (bits : Nat) : Die :=
  if bitsOf x.toNat (nmapBit line) 4 = bits then d else d.nmcFill e (nmapKey line) (setNull x line bits) true

/-! ### Requests at a memory controller -/

/-- Keep of each 32-byte sector of `new` those whose bit is set, of `old` the others. -/
def mergeSectors (mask : Nat) (new old : Line) : Line :=
  let m : Nat := (List.range 4).foldl (fun a t => a + (if bitsOf mask t 1 = 1 then (2 ^ 256 - 1) * 2 ^ (256 * t) else 0)) 0
  (new &&& BitVec.ofNat 1024 m) ||| (old &&& ~~~ BitVec.ofNat 1024 m)

/-- Bit t set where sector t of the line is all zeros. -/
def zeroBits (x : Line) : Nat := (List.range 4).foldl (fun a t => a + (if bitsOf x.toNat (256 * t) 256 = 0 then 2 ^ t else 0)) 0

/-- R256: a line read: data, null bits and side-band bytes 12 to 15. None: lost. -/
def memRead (line : Nat) (src : Nat) (ctx : Option Nat) (maint : Bool) : Act (Option (Line × Nat × Nat)) := do
  memReady line
  let d ← get
  let n := stackOf (pageOfLine line)
  if !maint ∧ d.fire0 Cs.NMAP_ACCESS n then
    let p := pageOfLine line
    upd (fun e d => (d.fired.report e { cause := Cs.NMAP_ACCESS, inst := n, addr := some (line * 128), ctx := ctx,
                                        slice := d.askSlice ctx line, det0 := p }).markInj d.ay.waiting.length)
    throw (.status St.BUS_ERROR)
  if !maint then mcTurnGate line
  match ← nmapLine line src ctx with
  | none => pure none
  | some x =>
    let z := bitsOf x.toNat (nmapBit line) 4
    if !maint then upd (fun e d => d.carry e (mcPlace n) (homePlace (d.home e line)) 128)
    if z = 15 then
      modify (fun d => (d.count (1600 + 16 * n + 2) 128).count 7 128)
      pure (some (0, 15, 0))
    else
      let r ← rawRead line src ctx maint
      pure (r.map (fun y => (y.1, z, y.2)))

/-- R255: a write of the sectors of `wr` with their Z bits and the ZSE bit. A line the Seal Engine marks sealed
is never elided. Side-band bytes 12 to 15 are `hm`: the short Hallmark of a B-class line, 0 on every other (Table 8.2). A write whose read-modify-write finds the line lost
is discarded and acknowledged (R268). -/
def memWrite (line wr : Nat) (data : Line) (z : Nat) (zse isSealed : Bool) (hm : Nat) : Act Unit := do
  memReady line
  upd (fun e d => d.carry e (homePlace (d.home e line)) (mcPlace (stackOf (pageOfLine line))) 128)
  let d ← get
  let n := stackOf (pageOfLine line)
  let el := zse && !isSealed && !(d.bit F.MC_CFG.ZSE_DISABLE n)
  match ← nmapLine line 2 none with
  | none => pure ()
  | some x =>
    let old := bitsOf x.toNat (nmapBit line) 4
    let nb := (if el then z &&& wr else 0) ||| (old &&& (15 - wr))
    let keep := 15 - wr
    if nb = 15 then
      upd (fun e d => ((d.count (1600 + 16 * n + 3) 128).count 7 128).putNull e line x nb)
    else if keep &&& nb = keep then
      upd (fun e d => d.putNull e line x nb)
      rawWrite line (mergeSectors (wr &&& (15 - nb)) data 0) hm false
    else
      modify (fun d => d.count (1600 + 16 * n + 4) 1)
      match ← rawRead line 2 none false with
      | none => pure ()
      | some o =>
        upd (fun e d => d.putNull e line x nb)
        rawWrite line (mergeSectors (15 - nb) (mergeSectors wr data o.1) 0) hm false

/-- A scrub write (R107): zeros with a valid code and a zero side band, the null bits cleared. -/
def memScrub (line : Nat) : Act Unit := do
  memReady line
  match ← nmapLine line 3 none with
  | none => pure ()
  | some x =>
    upd (fun e d => d.putNull e line x 0)
    rawWrite line 0 0 true

/-! ### Sealed ranges (R332, R336) -/

def Die.slotState (d : Die) (k : Nat) : Nat := d.getF F.SE_SLOT.STATE k

/-- The page lies in the range of slot `k`. -/
def Die.inRange (d : Die) (k p : Nat) : Bool :=
  decide (d.slotState k ≠ 0) && decide (d.getF F.SE_SLOT.FIRST_PAGE k ≤ p) &&
    decide (p < d.getF F.SE_SLOT.FIRST_PAGE k + d.getF F.SE_SLOT.COUNT k)

/-- The page lies in the tag span of slot `k`. -/
def Die.inSpan (d : Die) (k p : Nat) : Bool :=
  decide (d.slotState k ≠ 0) && decide (d.getF F.SE_SLOT.CLASS k = 1) && decide (d.getF F.SE_SLOT.TAG_PAGE k ≤ p) &&
    decide (p < d.getF F.SE_SLOT.TAG_PAGE k + ceilDiv (d.getF F.SE_SLOT.COUNT k) 16)

/-- The slot whose range, or whose tag span, holds a page. -/
def Die.rangeSlot (d : Die) (p : Nat) : Option Nat := (List.range 64).find? (fun k => d.inRange k p)
def Die.spanSlot (d : Die) (p : Nat) : Option Nat := (List.range 64).find? (fun k => d.inSpan k p)

/-- The slot under whose keys the Seal Engine treats a line: its range's, once the keys are loaded. -/
def Die.sealSlot (d : Die) (line : Nat) : Option (Nat × SlotKeys) :=
  (d.rangeSlot (pageOfLine line)).bind (fun k => (Tab.get none d.se.keys k).map (fun x => (k, x)))

/-- The tag's byte address of a line of a T-class range (R336). -/
def Die.tagAddr (d : Die) (k line : Nat) : Nat :=
  d.getF F.SE_SLOT.TAG_PAGE k * 2 ^ 25 + 8 * (line - d.getF F.SE_SLOT.FIRST_PAGE k * 2 ^ 18)

/-- Place `tl` of the tag cache. -/
def Die.setTag (d : Die) (tl : Nat) (x : Option CLine) : Die := { d with mem.tagc := Tab.set none d.mem.tagc tl x }

def Mem.tagsOf (m : Mem) (n : Nat) : List (Nat × CLine) :=
  m.tagc.filterMap (fun x => if stackOf (pageOfLine x.1) = n then x.2.map (fun c => (x.1, c)) else none)

/-- A dirty tag line is written to memory; it stays in the cache, clean (R345). -/
def tagClean (tl : Nat) : Act Unit := do
  let d ← get
  let n := stackOf (pageOfLine tl)
  match Tab.get none d.mem.tagc tl with
  | some c =>
    if c.dirty then
      memWrite tl 15 c.data 0 false false 0
      modify (fun d => (d.count (2240 + 8 * n + 4) 1).setTag tl (some { c with dirty := false }))
  | none => pure ()

/-- A tag line is written back and leaves the cache (R345). -/
def tagEvict (tl : Nat) : Act Unit := do
  tagClean tl
  modify (fun d => d.setTag tl none)

/-- A tag line through the tag cache: 128 sets of 16 ways, least recently used; it is decoded on every use (R392). None:
uncorrectable. -/
def tagLine (tl : Nat) (ctx : Option Nat) : Act (Option Line) := do
  let d ← get
  let n := stackOf (pageOfLine tl)
  match Tab.get none d.mem.tagc tl with
  | some c =>
    modify (fun d => { (d.count (2240 + 8 * n + 2) 1) with
      mem.tagc := Tab.set none d.mem.tagc tl (some { c with lru := d.mem.clock }), mem.clock := d.mem.clock + 1 })
    if d.fire0 Cs.MEM_CE n then
      let k := d.ay.waiting.length
      let r : Report := { cause := Cs.MEM_CE, inst := n, addr := some (tl * 128), ctx := ctx, slice := ctx.bind d.sliceOf,
                          det0 := d.pchan tl * 256, det1 := 1 }
      upd (fun e d => (d.fired.incSat F.MC_ERR.CE_COUNT n 1).report e r)
      modify (fun d => d.markInj k)
    pure (some c.data)
  | none =>
    modify (fun d => d.count (2240 + 8 * n + 3) 1)
    match ← memRead tl 1 ctx false with
    | none => pure none
    | some x =>
      let d ← get
      let same := (d.mem.tagsOf n).filter (fun y => decide (y.1 % 128 = tl % 128))
      if same.length ≥ 16 then
        match same.foldl (fun (b : Option (Nat × CLine)) y => match b with | none => some y | some z => if y.2.lru < z.2.lru then some y else b) none with
        | some y => tagEvict y.1
        | none => pure ()
      modify (fun d => { d with mem.tagc := Tab.set none d.mem.tagc tl (some ⟨x.1, false, d.mem.clock⟩), mem.clock := d.mem.clock + 1 })
      pure (some x.1)

/-- The stored Hallmark of a line of slot `k`: T class from the tag line, B class from the side band. -/
def storedTag (k line hm : Nat) (ctx : Option Nat) : Act (Option Nat) := do
  let d ← get
  if d.getF F.SE_SLOT.CLASS k = 1 then
    let a := d.tagAddr k line
    let t ← tagLine (a / 128) ctx
    pure (t.map (fun x => bitsOf x.toNat (8 * (a % 128)) 64))
  else pure (some hm)

/-- The computed Hallmark as stored: 64 bits for T class, 32 for B (R335). -/
def computedTag (keys : SlotKeys) (k cls line : Nat) (ct : Line) : Nat :=
  natLE ((hallmark keys.k3 line k cls ct).take (if cls = 1 then 8 else 4))

/-- A failed Hallmark (R346): the count, the alarm latch, the report, and the page withdrawn with CAUSE SECURITY. -/
def Die.hmFail (e : Env) (d : Die) (k line : Nat) (ctx : Option Nat) : Die :=
  let p := pageOfLine line
  let cls := d.getF F.SE_SLOT.CLASS k
  let d := d.incSat F.SE_ERR.HM_FAIL 0 1
  let d :=
    if d.bit F.SE_ALARM.VALID 0 then d.setEv F.SE_ALARM.VALID 0
    else ((((d.clearElem .SE_ALARM 0).setEv F.SE_ALARM.VALID 0).setF F.SE_ALARM.KIND 0 cls).setF F.SE_ALARM.SLOT 0 k).setF F.SE_ALARM.LINE 0 line
  let d := d.report e { cause := Cs.HM_FAIL, inst := stackOf p, addr := some (line * 128), ctx := ctx, slice := d.askSlice ctx line,
                        det0 := k, hard := decide (k = 0) }
  (d.addWdraw (d.home e line) p).withdraw p 2

/-- R343: a line read through the Seal Engine: plaintext, its null bits, and whether it is sealed. None: lost. -/
def sealRead (line : Nat) (ctx : Option Nat) : Act (Option (Line × Nat)) := do
  let r ← memRead line 1 ctx false
  let d ← get
  let n := stackOf (pageOfLine line)
  match r, d.sealSlot line with
  | none, _ => pure none
  | some (x, z, _), none => pure (some (x, z))
  | some (x, z, hm), some (k, keys) =>
    if z = 15 then
      modify (fun d => d.count (2240 + 8 * n + 5) 1)
      pure (some (0, 15))
    else
      let cls := d.getF F.SE_SLOT.CLASS k
      modify (fun d => d.count (2240 + 8 * n) 1)
      let t ← storedTag k line hm ctx
      let d ← get
      if d.fireLine 2 line then
        upd (fun e d => d.fired.report e { cause := Cs.HM_FAIL, inst := n, addr := some (line * 128), ctx := ctx, det0 := k, self := true })
        throw (.status St.BUS_ERROR)
      else if t = some (computedTag keys k cls line x) ∧ !(d.fire0 Cs.HM_FAIL n) then
        if d.fire0 30 n ∨ d.fire0 31 n then
          let hard := d.fire0 31 n
          let w := d.ay.waiting.length
          upd (fun e d => ((d.fired.incSat F.SE_ERR.MISMATCH 0 (if hard then 2 else 1)).report e
            { cause := 30, inst := n, addr := some (line * 128), ctx := ctx, slice := ctx.bind d.sliceOf }))
          if hard then
            upd (fun e d => d.report e { cause := 31, inst := n, addr := some (line * 128), ctx := ctx, slice := ctx.bind d.sliceOf })
          modify (fun d => d.markInj w)
          need (!hard) (.status St.BUS_ERROR)
        pure (some (xtsDec keys.k1 keys.k2 line x, 0))
      else
        let inj := d.fire0 Cs.HM_FAIL n
        let w := d.ay.waiting.length
        upd (fun e d => (if inj then d.fired else d).hmFail e k line ctx)
        if inj then modify (fun d => d.markInj w)
        throw (.status St.BUS_ERROR)

/-- R344: a write through the Seal Engine. A line of a sealed range is encrypted and tagged whole; a partial
write into slot 0's range is completed by a read of the line (R353). The tag line's write reaches the controller before the
data write is accepted (R345). After a repeated mismatch nothing is written (R347). -/
def sealWrite (line wr : Nat) (data : Line) (z : Nat) (zse : Bool) : Act Unit := do
  let d ← get
  match d.sealSlot line with
  | none => memWrite line wr data z zse false 0
  | some (k, keys) =>
    let n := stackOf (pageOfLine line)
    let cls := d.getF F.SE_SLOT.CLASS k
    let whole ← (if wr = 15 then pure (some data) else do
      let o ← sealRead line none
      pure (o.map (fun x => mergeSectors wr data x.1)))
    match whole with
    | none => pure ()
    | some pt =>
      let ct := xtsEnc keys.k1 keys.k2 line pt
      let tag := computedTag keys k cls line ct
      modify (fun d => d.count (2240 + 8 * n + 1) 1)
      let hard := d.fire0 32 n
      if d.fire0 30 n ∨ hard then
        let w := d.ay.waiting.length
        upd (fun e d => (d.fired.incSat F.SE_ERR.MISMATCH 0 (if hard then 2 else 1)).report e { cause := 30, inst := n, addr := some (line * 128) })
        if hard then upd (fun e d => d.report e { cause := 32, inst := n, addr := some (line * 128) })
        modify (fun d => d.markInj w)
      if hard then pure ()
      else if cls = 1 then
        let a := d.tagAddr k line
        match ← tagLine (a / 128) none with
        | none => pure ()
        | some t =>
          let b := 8 * (a % 128)
          let t' : Line := BitVec.ofNat 1024 (t.toNat - bitsOf t.toNat b 64 * 2 ^ b + tag * 2 ^ b)
          modify (fun d => { d with mem.tagc := Tab.set none d.mem.tagc (a / 128) (some ⟨t', true, d.mem.clock⟩), mem.clock := d.mem.clock + 1 })
          tagClean (a / 128)
        memWrite line 15 ct 0 false true 0
      else memWrite line 15 ct 0 false true tag

end Sys2Proof.Machine
end

