-- ==== Sys2Proof/Machine/Watch.lean ====
section
/-! DEFINITION. What a write of a watched segment adds to its watch (R425, R427). -/

namespace Sys2Proof.Machine

/-- Adjust the range of exponents. -/
def WatchAcc.exp (a : WatchAcc) (x : Int) : WatchAcc :=
  { a with minE := some (match a.minE with | some m => min m x | none => x),
           maxE := some (match a.maxE with | some m => max m x | none => x) }

/-- One element of the format counts (R427). -/
def WatchAcc.elem (fmt : Nat) (a : WatchAcc) (bits : Nat) : WatchAcc :=
  if fmt = 5 then
    let x := (BitVec.ofNat 32 bits).toInt.natAbs
    if x = 0 then { a with zeros := a.zeros + 1 } else a.exp (Nat.log2 x)
  else match elemFV fmt bits with
    | .nan => { a with nans := a.nans + 1 }
    | .inf _ => { a with infs := a.infs + 1 }
    | .fin _ m e => if m = 0 then { a with zeros := a.zeros + 1 } else a.exp (logOf m e)

/-- A write that touched the sectors of `tch` and left the line as `x`. -/
def WatchAcc.feed (fmt : Nat) (a : WatchAcc) (line tch : Nat) (x : Line) : WatchAcc :=
  let c := crc64xz (bytesOf 8 (line * 128) ++ bytesOf 128 x.toNat)
  let a := { a with digest := a.digest + BitVec.ofNat 64 c, lines := a.lines + 1 }
  let per := 32 / fmtSize fmt
  (List.range 4).foldl (fun a t =>
    if bitsOf tch t 1 = 1 then
      (List.range per).foldl (fun a i => a.elem fmt (bitsOf x.toNat (256 * t + 8 * fmtSize fmt * i) (8 * fmtSize fmt))) a
    else a) a

/-- The watch that a write to a line of the page's owner feeds: it is open, and its opener belongs to the page's
slice, or is a kernel context where the page has no slice (R425). -/
def Die.feeds (d : Die) (line w : Nat) : Bool :=
  d.bit F.CH_WATCH.OPEN w &&
    (match d.ownedPage (pageOfLine line) with
     | some s => !(d.isKernelCtx (d.getF F.CH_WATCH.CONTEXT w)) && decide (d.getF F.CH_WATCH.SLICE w = s)
     | none => d.isKernelCtx (d.getF F.CH_WATCH.CONTEXT w))

/-- The closed interval of watch `w` in which a write still counts: its home had accepted it before the switch (R428). -/
def Die.feedsOld (d : Die) (w : Nat) (rid : Option Nat) : Option (Nat × WatchAcc) :=
  rid.bind (fun r => d.ch.switch.find? (fun x => decide (x.2.watch = w) && x.2.waits.contains r))

/-- A write through a segment that names watch `w` (R425, R427); `rid` is the request that makes it. -/
def Die.watchFeed (d : Die) (line tch w : Nat) (x : Line) (rid : Option Nat) : Die :=
  match d.feedsOld w rid with
  | some y =>
    let a := y.2.feed y.2.fmt line tch x
    { d with ch.switch := d.ch.switch.map (fun z => if z.1 = y.1 then (z.1, a) else z) }
  | none =>
  if d.feeds line w then
    match Tab.get none d.ch.watch w with
    | some a => { d with ch.watch := Tab.set none d.ch.watch w (some (a.feed (d.getF F.CH_WATCH.FORMAT w) line tch x)) }
    | none => d
  else d.incSat F.CH_STATUS.WATCH_IGNORED 0 1

end Sys2Proof.Machine
end

