-- ==== Sys2Proof/Machine/Cache.lean ====
section
/-! DEFINITION. What a home does with one line: the checks a request meets, the LC and the side buffer, the
outcomes of array errors, and the reads, writes, atomics and reduce-writes it performs (chapters 7, 10, 11). -/

namespace Sys2Proof.Machine

/-- Who asks a home for a line. -/
structure Ask where
  /-- Requester identifier of Table 7.6. -/
  id   : Nat
  ctx  : Option Nat := none
  attr : SegAttr := {}
  use  : Use
  /-- 0 an ordinary requester, 1 the host port, 2 debug, 3 Steward, 4 a scrub. -/
  kind : Nat := 0
  /-- A read that leaves no copy in the LC (R70). -/
  noAlloc : Bool := false
  deriving DecidableEq, Repr

/-- Counter `k` of the LC slice `h` (Table 14.1). -/
def lcCount (h k : Nat) : Nat := 576 + 16 * h + k

/-! ### Flushes that match a line (Table 7.10) -/

/-- The filter matches the line. -/
def Filter.hits (e : Env) (d : Die) (line : Nat) : Filter → Bool
  | .all r => decide (d.home e line / 8 = r)
  | .slice s => d.ownedBy (pageOfLine line) s
  | .pages ps => decide (pageOfLine line ∈ ps)
  | .slot k => decide (d.rangeSlot (pageOfLine line) = some k)

/-- A running flush matches the line (R244). -/
def Die.flushing (e : Env) (d : Die) (line : Nat) : Bool := d.coh.flushes.any (fun f => f.filter.hits e d line)

/-! ### Checks at the home (R338 to R342, R253, R239 step 2) -/

/-- A refusal at the home: BUS_ERROR, reported with the requester's context and slice (R366). -/
def refuse (cause : Nat) (line det : Nat) (ctx : Option Nat) (f : Fld) : Act Unit := do
  upd (fun e d =>
    let inj := d.fire0 cause (d.home e line)
    let w := d.ay.waiting.length
    let d := (((if inj then d.fired else d).incSat f 0 1).report e
      { cause := cause, inst := d.home e line, addr := some (line * 128), ctx := ctx, slice := d.askSlice ctx line, det0 := det })
    if inj then d.markInj w else d)
  throw (.status St.BUS_ERROR)

/-- A home takes the access of an agent without a port into a tracker, or answers RETRY (R227, R228). An access that has been
granted stands in its reserved tracker, and waits there while the line has another's transaction (R230). -/
def engineGate (line : Nat) (a : Ask) : Act Unit := do
  let e ← read
  let d ← get
  let h := d.home e line
  let mine := d.coh.txns.any (fun t => decide (t.line = line ∧ t.use = some a.use))
  let full := decide ((d.wdrawList h).length ≥ 16)
  match d.engReq a.use line with
  | some q => need (q.tracker.isSome && !full && (mine || !(d.activeTxn line || d.queuedAhead line q.won))) .later
  | none =>
    if mine then pure ()
    else if full ∨ (d.atHome e a.id h).any (fun q => q.retried) then throw (.need (.retry a.id line none a.ctx))
    else match d.inTheWay e line a.id e.tq with
      | some c => throw (.need (.retry a.id line (some c) a.ctx))
      | none =>
        need (decide (d.freeShared e h ≠ 0)) (.need (.retry a.id line none a.ctx))
        set (d.wins e line a.id e.tq)

/-- A message with `n` bytes of data between the home of a line and a requester: from the requester where `up` holds. -/
def carryTo (line id n : Nat) (up : Bool) : Act Unit :=
  upd (fun e d => if up then d.carry e (whoPlace id) (homePlace (d.home e line)) n else d.carry e (homePlace (d.home e line)) (whoPlace id) n)

/-- The checks a request of `a` meets before its line is looked up. -/
def homeGate (line : Nat) (a : Ask) : Act Unit := do
  let e ← read
  let d ← get
  let p := pageOfLine line
  let h := d.home e line
  need (decide (h < 8 * e.regions)) (.status St.BUS_ERROR)
  need (d.running (h / 8)) (.need (.wake (h / 8)))
  if whoRegion a.id ≠ some (h / 8) then modify (fun d => d.entered (h / 8))
  if a.id ≥ 64 ∧ a.kind ≠ 4 then engineGate line a
  need (a.kind = 4 || !(d.pendingLost e line)) (.status St.LOST)
  need (a.kind = 4 || decide ((d.wdrawList h).length < 16)) .later
  if d.isNmapPage e p ∧ d.bit F.MC_STATUS.NMAP_READY (stackOf p) then
    upd (fun e d => d.report e { cause := Cs.NMAP_ACCESS, inst := stackOf p, addr := some (line * 128), ctx := a.ctx,
                                   slice := d.askSlice a.ctx line, det0 := p })
    throw (.status St.BUS_ERROR)
  if a.kind ≠ 4 then
    match d.rangeSlot p, d.spanSlot p with
    | none, none =>
      if (a.attr.known ∧ a.attr.cls ≠ 0) ∨ d.fire0 Cs.SE_DECL h then refuse Cs.SE_DECL line 64 a.ctx F.SE_STATUS.DECL
    | r, sp =>
      let k := (r.or sp).getD 0
      let st := d.slotState k
      if a.kind = 1 ∨ a.kind = 2 ∨ (a.kind = 3 ∧ (k ≠ 0 ∨ r.isNone)) then
        modify (fun d => d.incSat F.SE_STATUS.BLOCKED 0 1)
        throw (.status St.BUS_ERROR)
      else if st = 1 ∨ st = 3 ∨ d.fire0 Cs.SE_BUSY h then refuse Cs.SE_BUSY line k a.ctx F.SE_STATUS.BUSY
      else if r.isNone ∨ d.fire0 Cs.SE_TAG_ACCESS h then refuse Cs.SE_TAG_ACCESS line k a.ctx F.SE_STATUS.TAG_ACCESS
      else if a.kind = 3 then pure ()
      else if !(a.attr.known) ∨ a.attr.cls ≠ d.getF F.SE_SLOT.CLASS k ∨ a.attr.slot ≠ k ∨ k = 0 ∨ d.fire0 Cs.SE_DECL h then
        refuse Cs.SE_DECL line k a.ctx F.SE_STATUS.DECL

/-! ### The LC (R208 to R213) -/

/-- The lines a home's LC holds, with their addresses. -/
def Die.lcOf (e : Env) (d : Die) (h : Nat) : List (Nat × LcLine) :=
  d.coh.lc.filterMap (fun x => if d.home e x.1 = h then x.2.map (fun l => (x.1, l)) else none)

/-- The least recently used of a list of LC lines. -/
def oldest (l : List (Nat × LcLine)) : Option (Nat × LcLine) :=
  l.foldl (fun b y => match b with | none => some y | some z => if y.2.lru < z.2.lru then some y else b) none

/-- The ways a class may take. -/
def Die.wayOk (d : Die) (k way : Nat) : Bool := decide (bitsOf (d.getF F.LC_ACLASS.WAY_MASK k) way 1 = 1)

/-- R211: the way a line of class `k` takes, and the line it displaces; none where it does not allocate. No line of a page
that is UNSCRUBBED or FREE is held (R207). -/
def Die.victim (e : Env) (d : Die) (line k : Nat) : Option (Nat × Option Nat) :=
  let h := d.home e line
  let all := d.lcOf e h
  let inSet := all.filter (fun x => decide (d.lcSet e x.1 = d.lcSet e line))
  let mask := d.getF F.LC_ACLASS.WAY_MASK k
  let quota := min 24576 (d.getF F.LC_ACLASS.QUOTA k)
  if mask = 0 ∨ quota = 0 ∨ d.pageState (pageOfLine line) ≤ 1 then none
  else match (List.range 16).find? (fun w => d.wayOk k w && !(inSet.any (fun x => decide (x.2.way = w)))) with
    | some w => some (w, none)
    | none =>
      let cand := inSet.filter (fun x => d.wayOk k x.2.way)
      let mine := if (all.filter (fun x => decide (x.2.aclass = k))).length ≥ quota then cand.filter (fun x => decide (x.2.aclass = k)) else cand
      (oldest mine).map (fun x => (x.2.way, some x.1))

/-- Outcomes of Table 7.8 for an error of cause `c` in the arrays that hold a line, of which the sectors of `reads` were read.
A line that is lost waits until the home's list of pages has room (R239). -/
def arrayError (line c reads : Nat) (ctx : Option Nat) : Act Unit := do
  let e ← read
  let d ← get
  let h := d.home e line
  let fix (f : Fld) (cause det : Nat) : Act Unit :=
    upd (fun e d => (d.incSat f 0 1).report e
      { cause := cause, inst := h, addr := some (line * 128), ctx := ctx, slice := d.askSlice ctx line, det0 := det })
  let lose (why : Nat) : Act Unit := do
    need (d.lossRoom e line) .later
    upd (fun e d => d.lostLine e line why 0 c ctx)
    throw (.status St.LOST)
  let dirty := match d.lcLine line with | some x => decide (x.d ≠ 0) | none => false
  if c = Cs.LC_PARITY_CLEAN ∧ !dirty then
    modify (fun d => d.setLc line none)
    fix F.LC_STATUS.PAR_CORRECTED c (((List.range 4).find? (fun t => decide (bitsOf reads t 1 = 1))).getD 0)
  else if c = Cs.LC_PARITY_DIRTY ∧ dirty then lose 2
  else if c = Cs.LC_TAG_COPY then fix F.LC_STATUS.PAR_CORRECTED c (d.lcSet e line)
  else if c = Cs.LC_STATE then lose 3
  else if c = Cs.LC_TAG_CLEAN ∧ !dirty then
    modify (fun d => d.setLc line none)
    fix F.LC_STATUS.PAR_CORRECTED c (d.lcSet e line)
  else if c = Cs.LC_SIDE then
    upd (fun e d => d.dropSide e line)
    fix F.LC_STATUS.PAR_CORRECTED c (((d.sideBuf h).findIdx? (fun x => decide (x.line = line))).getD 0)
  else if c = Cs.DIR_TAG_COPY then fix F.DIR_STATUS.PAR_CORRECTED c (d.dirSet e line)
  else if c = Cs.LC_TAG_LOST then upd (fun e d => d.report e { cause := c, inst := h, ctx := ctx, slice := ctx.bind d.sliceOf, det0 := d.lcSet e line })
  else if c = Cs.DIR_TAG_LOST then upd (fun e d => d.report e { cause := c, inst := h, ctx := ctx, slice := ctx.bind d.sliceOf, det0 := d.dirSet e line })

/-- A lookup that finds an LC line and reads the sectors of `reads`: the injections of KIND 0 that its checks meet. Only a valid
sector whose Z is clear has data parity to fail (R236). -/
def lcChecks (line reads : Nat) (ctx : Option Nat) : Act Unit := do
  let e ← read
  let d ← get
  match d.lcLine line with
  | none => pure ()
  | some x =>
    let h := d.home e line
    let dirty := decide (x.d ≠ 0)
    let data := reads &&& (x.v &&& ~~~ x.z).toNat
    let cs := ([Cs.LC_PARITY_CLEAN, Cs.LC_PARITY_DIRTY, Cs.LC_TAG_COPY, Cs.LC_STATE, Cs.LC_TAG_CLEAN, Cs.LC_TAG_LOST] : List Nat).find? (fun c =>
      d.fire0 c h && !(decide (c = Cs.LC_PARITY_CLEAN ∨ c = Cs.LC_TAG_CLEAN) && dirty) && !(decide (c = Cs.LC_PARITY_DIRTY) && !dirty) &&
        !(decide (c = Cs.LC_PARITY_CLEAN ∨ c = Cs.LC_PARITY_DIRTY) && decide (data = 0)))
    match cs with
    | some c =>
      let w := d.ay.waiting.length
      modify Die.fired
      let r ← (do let s ← get; pure ((arrayError line c data ctx).go e s) : Act (Except Fail Unit × Die))
      set (r.2.markInj w)
      match r.1 with
      | .ok _ => pure ()
      | .error f => throw f
    | none => pure ()

/-- A lookup of a line for its own sake, whose loss no requester hears of. -/
def lcVisit (line reads : Nat) : Act Unit := do
  let e ← read
  let d ← get
  let r := (lcChecks line reads none).go e d
  match r.1 with
  | .ok _ => set r.2
  | .error (.status _) => set r.2
  | .error f => throw f

/-- A dirty LC line is written back (R210); it stays held, clean. The sectors it reads are checked (R236): a line that is lost
to an error is not written. -/
def writeback (line : Nat) : Act Unit := do
  let d ← get
  match d.lcLine line with
  | some x =>
    if x.d ≠ 0 then lcVisit line (if x.slot ≠ 0 then 15 else x.d.toNat)
  | none => pure ()
  let d ← get
  match d.lcLine line with
  | some x =>
    if x.d ≠ 0 then
      let wr := if x.slot ≠ 0 then 15 else x.d.toNat
      sealWrite line wr x.data x.z.toNat x.zse
      upd (fun e d => (d.count (lcCount (d.home e line) 3) (32 * ((List.range 4).filter (fun t => decide (bitsOf wr t 1 = 1))).length)).setLc line
        (some { x with d := 0 }))
  | none => pure ()

/-- Put a line into the LC under class `k` if it may allocate (R211, R244); the answer says whether it did. -/
def allocate (line k : Nat) (x : LcLine) : Act Bool := do
  let e ← read
  let d ← get
  let h := d.home e line
  match d.victim e line k with
  | some (w, v) =>
    if d.flushing e line then pure false
    else
      match v with
      | some l =>
        writeback l
        modify (fun d => d.setLc l none)
      | none => pure ()
      modify (fun d => let s := d.stamp; s.2.setLc line (some { x with way := w, aclass := k, lru := s.1 }))
      pure true
  | none =>
    modify (fun d => d.count (lcCount h 7) 1)
    pure false

/-- The LC line after it has been stamped as used. -/
def Die.touch (d : Die) (line : Nat) (x : LcLine) : Die :=
  let s := d.stamp
  s.2.setLc line (some { x with lru := s.1 })

/-- The whole line is read for a request of class `k` whose segment's ZSE is `zse`, from the LC, the side buffer or
memory (R209, R213, R217, R219). `alloc` says whether a copy may stay in the LC. -/
def fetchLine (line k : Nat) (zse : Bool) (ctx : Option Nat) (alloc : Bool) : Act Line := do
  let e ← read
  let d0 ← get
  let h := d0.home e line
  modify (fun d => d.count (lcCount h 0) 1)
  lcChecks line 15 ctx
  if (d0.sideLine e line).isSome ∧ d0.fire0 Cs.LC_SIDE h then
    let w := d0.ay.waiting.length
    modify Die.fired
    arrayError line Cs.LC_SIDE 0 ctx
    modify (fun d => d.markInj w)
  let d ← get
  let slot := (d.rangeSlot (pageOfLine line)).getD 0
  match d.lcLine line with
  | some x =>
    if x.v = 15 then
      upd (fun e d => (((d.count 3 1).count (lcCount h 1) 128).monitor e 1 h 0 128).touch line x)
      pure x.data
    else
      modify (fun d => d.count 4 1)
      match ← sealRead line ctx with
      | none => throw (.status St.LOST)
      | some m =>
        upd (fun e d => (d.count (lcCount h 2) 128).monitor e 1 h 1 128)
        let dat := mergeSectors x.v.toNat x.data m.1
        let z := (x.z &&& x.v) ||| (BitVec.ofNat 4 m.2 &&& ~~~ x.v)
        modify (fun d => d.touch line { x with v := 15, z := z, data := dat, zse := zse && decide (slot = 0) })
        pure dat
  | none =>
    modify (fun d => d.count 4 1)
    match d.sideLine e line with
    | some y =>
      upd (fun e d => (d.count (lcCount h 5) 1).takeSide e line)
      if alloc then
        let _ ← allocate line k { way := 0, v := 15, d := 0, z := y.z, zse := zse && decide (slot = 0), slot := slot, data := y.data }
      pure y.data
    | none =>
      match ← sealRead line ctx with
      | none => throw (.status St.LOST)
      | some m =>
        upd (fun e d => (d.count (lcCount h 2) 128).monitor e 1 h 1 128)
        if alloc then
          let _ ← allocate line k { way := 0, v := 15, d := 0, z := BitVec.ofNat 4 m.2, zse := zse && decide (slot = 0), slot := slot, data := m.1 }
        pure m.1

/-- Bytes of `new` where the mask is set, of `old` elsewhere. -/
def mergeBytes (mask : BitVec 128) (new old : Line) : Line :=
  BitVec.ofNat 1024 (numLE ((List.range 128).map (fun i =>
    BitVec.ofNat 8 (if mask.getLsbD i then bitsOf new.toNat (8 * i) 8 else bitsOf old.toNat (8 * i) 8))))

/-- The four bits of a mask's sector. -/
def sectorMask (mask : BitVec 128) (t : Nat) : Nat := bitsOf mask.toNat (32 * t) 32

/-- Sectors that a mask touches, and those it covers whole. -/
def touchedSectors (mask : BitVec 128) : Nat := (List.range 4).foldl (fun a t => a + (if sectorMask mask t ≠ 0 then 2 ^ t else 0)) 0
def wholeSectors (mask : BitVec 128) : Nat := (List.range 4).foldl (fun a t => a + (if sectorMask mask t = 2 ^ 32 - 1 then 2 ^ t else 0)) 0

/-- R209, R210, R213, R234: the masked bytes of a line are written at its home for a request of class `k`. -/
def storeLine (line : Nat) (mask : BitVec 128) (data : Line) (k : Nat) (zse : Bool) (ctx : Option Nat) : Act Unit := do
  let e ← read
  upd (fun e d => d.dropSide e line)
  let d0 ← get
  let h := d0.home e line
  let slot := (d0.rangeSlot (pageOfLine line)).getD 0
  let zse := zse && decide (slot = 0)
  let tch := touchedSectors mask
  let whl := wholeSectors mask
  modify (fun d => d.count (lcCount h 0) 1)
  lcChecks line (tch &&& (15 - whl)) ctx
  let d ← get
  let have_ := match d.lcLine line with | some x => x.v.toNat | none => 0
  let fill := decide (slot ≠ 0 ∧ mask ≠ BitVec.allOnes 128 ∧ have_ ≠ 15) || decide (tch &&& (15 - whl) &&& (15 - have_) ≠ 0)
  let base ← (if fill then do
      let x ← fetchLine line k zse ctx true
      pure (some x)
    else pure none)
  let d ← get
  match d.lcLine line with
  | some x =>
    let dat := mergeBytes mask data x.data
    let zb := zeroBits dat
    let z := (x.z &&& BitVec.ofNat 4 (15 - tch)) ||| BitVec.ofNat 4 (zb &&& tch)
    let nz := ((List.range 4).filter (fun t => decide (bitsOf (zb &&& tch) t 1 = 1))).length
    modify (fun d => ((d.count 3 1).count (lcCount h 15) nz).touch line
      { x with v := x.v ||| BitVec.ofNat 4 tch, d := x.d ||| BitVec.ofNat 4 tch, z := z, zse := zse, data := dat })
  | none =>
    let dat := mergeBytes mask data (base.getD 0)
    let v := if base.isSome then 15 else tch
    let zb := zeroBits dat
    let nz := ((List.range 4).filter (fun t => decide (bitsOf (zb &&& tch) t 1 = 1))).length
    modify (fun d => (d.count 4 1).count (lcCount h 15) nz)
    let ok ← (if base.isSome then pure false else
      allocate line k { way := 0, v := BitVec.ofNat 4 v, d := BitVec.ofNat 4 tch, z := BitVec.ofNat 4 (zb &&& v), zse := zse, slot := slot, data := dat })
    if !ok then
      let wr := if slot ≠ 0 then 15 else tch
      sealWrite line wr dat (zb &&& wr) zse


/-! ### Operations at the home -/

/-- A lookup that finds a directory entry: the injections that its checks meet (Table 7.8, Table 12.5). -/
def dirLook (line : Nat) (ctx : Option Nat) : Act Unit := do
  let e ← read
  let d ← get
  if (d.dirEnt line).isSome then
    let h := d.home e line
    if d.bit F.AY_INJECT.ARM 0 ∧ d.getF F.AY_INJECT.KIND 0 = 3 ∧ d.getF F.AY_INJECT.INSTANCE 0 = h then throw (.need (.dirState line true ctx))
    if d.fire0 Cs.DIR_STATE h then throw (.need (.dirState line false ctx))
    match ([Cs.DIR_TAG_COPY, Cs.DIR_TAG_LOST] : List Nat).find? (fun c => d.fire0 c h) with
    | some c =>
      modify Die.fired
      arrayError line c 0 ctx
      modify (fun x => x.markInj d.ay.waiting.length)
    | none => pure ()

/-- The dirty log of the page's slice has the line's granule marked before a write shows (R118). -/
def logGate (line : Nat) : Act Unit := do
  let d ← get
  let p := pageOfLine line
  match d.ownedPage p with
  | some s =>
    let g := line / 2 ^ 14
    let inFilter := d.sm.logs.any (fun l => decide (l.sl = s) && decide (g ∈ l.filter))
    need (!(d.bit F.SM_SLICE.LOG_ON s && !(d.bit F.SM_SLICE.LOG_FAILED s) && !inFilter)) (.need (.log s g))
  | none => pure ()

/-- A store through a segment: where the segment is watched, the line as it stands after the write feeds its watch. -/
def storeAt (line : Nat) (mask : BitVec 128) (data : Line) (a : Ask) : Act Unit := do
  let d ← get
  let rid := match a.use with | .req r => some r | _ => none
  if a.attr.watchEn ∧ (d.feeds line a.attr.watchId ∨ (d.feedsOld a.attr.watchId rid).isSome) then
    let old ← (if mask = BitVec.allOnes 128 then pure data else fetchLine line a.attr.aclass a.attr.zse a.ctx true)
    storeLine line mask data a.attr.aclass a.attr.zse a.ctx
    modify (fun d => d.watchFeed line (touchedSectors mask) a.attr.watchId (mergeBytes mask data old) rid)
  else
    storeLine line mask data a.attr.aclass a.attr.zse a.ctx
    if a.attr.watchEn then modify (fun d => d.watchFeed line 0 a.attr.watchId 0 rid)

/-- Snoop data, or a WB's data, is written into the LC as dirty, or to memory under R213 (R221, R232). It comes
with no segment, so ZSE is 0 (R210), and with the WATCH field of the grant (R428). -/
def keepData (line k : Nat) (data : Line) (watchEn : Bool) (watchId : Nat) (rid : Option Nat) : Act Unit := do
  storeLine line (BitVec.allOnes 128) data k false none
  if watchEn then modify (fun d => d.watchFeed line 15 watchId data rid)

/-- The line's transaction, if one is active, has been settled for this very request (R232). Where it was settled for a write
of a whole line by an agent without a port that has still to be made, the data its snoop brought is kept for the others. -/
def mayTouch (line : Nat) (use : Use) : Act Unit := do
  let d ← get
  match d.coh.txns.find? (fun t => decide (t.line = line)) with
  | some t =>
    if t.settled && decide (t.use = some use) then need (!t.lost) (.status St.LOST)
    else
      need (t.settled && t.rid.isNone && t.repl) .later
      match t.sdat with
      | some x =>
        logGate line
        keepData line (t.aclass.getD 0) x t.watchEn t.watchId none
      | none => pure ()
      modify (fun d => { d with coh.txns := d.coh.txns.filter (fun x => decide (x.line ≠ line)) })
  | none => pure ()

/-- The directory at the home must hold nothing that the request would have to snoop (Table 7.3): otherwise SNP_PEEK
to the owner for a read, SNP_INV to the holders for a write, of which `full` says that it replaces the whole line. Data a peek
brought is answered. -/
def coherent (line : Nat) (a : Ask) (peek full : Bool) : Act (Option Line) := do
  mayTouch line a.use
  dirLook line a.ctx
  let d ← get
  match (if peek then d.coh.peeks.find? (fun y => decide (y.1 = a.use ∧ y.2.1 = line)) else none) with
  | some y => pure y.2.2
  | none =>
    match d.dirEnt line with
    | none => pure none
    | some x =>
      if !peek then throw (.need (if full then .replace line else .snoop line 0))
      else if x.owned then throw (.need (.snoop line 2)) else pure none

/-- READ_ONCE: the line's 128 bytes (R219, R233). -/
def readOnceAt (line : Nat) (a : Ask) : Act Line := do
  homeGate line a
  let x ← (do
    match ← coherent line a true false with
    | some x => pure x
    | none => fetchLine line a.attr.aclass a.attr.zse a.ctx (!a.noAlloc))
  carryTo line a.id 128 false
  pure x

/-- The transaction that was settled for an access of an agent without a port ends with it. -/
def endOwn (line : Nat) (use : Use) : Act Unit :=
  modify (fun d => { d with coh.txns := d.coh.txns.filter (fun x => !(decide (x.line = line ∧ x.use = some use) && x.rid.isNone && x.settled)) })

/-- WRITE_FULL or WRITE_MASK: the masked bytes; every cluster copy is invalidated first, whatever the mask (R234). -/
def writeAt (line : Nat) (mask : BitVec 128) (data : Line) (a : Ask) : Act Unit := do
  homeGate line a
  carryTo line a.id 128 true
  if mask ≠ 0 then logGate line
  let _ ← coherent line a false (decide (mask = BitVec.allOnes 128))
  if mask ≠ 0 then storeAt line mask data a else upd (fun e d => d.dropSide e line)
  endOwn line a.use

/-- A scrub's full-line write-invalidate at the home (R107): no copy stays, and memory holds zeros. -/
def scrubAt (line : Nat) : Act Unit := do
  homeGate line { id := 138, use := .other, kind := 4 }
  let _ ← coherent line { id := 138, use := .other, kind := 4 } false false
  upd (fun e d => (d.setLc line none).dropSide e line)
  memScrub line

/-- The operations of Table 6.5 on a word of `w` bits with operand `a` and, for compare and swap, swap value `b`:
the new value, or none where the word keeps its value. -/
def atomicOp (op w old a b : Nat) : Option Nat :=
  let s := fun x => (BitVec.ofNat w x).toInt
  if op = 0 then some ((old + a) % 2 ^ w)
  else if op = 1 then (if s a > s old then some a else none)
  else if op = 2 then (if s a < s old then some a else none)
  else if op = 3 then some (old &&& a)
  else if op = 4 then some (old ||| a)
  else if op = 5 then some (old ^^^ a)
  else if op = 6 then some a
  else if old = a then some b else none

/-- ATOMIC at byte offset `off` of a line on a word of `sz` bytes: the old value and the new one (R235). -/
def atomicAt (line off sz op a b : Nat) (q : Ask) : Act (Nat × Nat) := do
  homeGate line q
  carryTo line q.id sz true
  logGate line
  let _ ← coherent line q false false
  upd (fun e d => (d.count (lcCount (d.home e line) 14) 1).dropSide e line)
  let x ← fetchLine line q.attr.aclass q.attr.zse q.ctx true
  carryTo line q.id sz false
  let old := bitsOf x.toNat (8 * off) (8 * sz)
  match atomicOp op (8 * sz) old (a % 2 ^ (8 * sz)) (b % 2 ^ (8 * sz)) with
  | some new =>
    storeAt line (byteMask off sz) (putBits x (8 * off) (8 * sz) new) q
    pure (old, new)
  | none => pure (old, old)

/-- The signal of R73 on the word at byte offset `off` of a line: the word before, and whether VALUE was behind it. -/
def signalAt (line off value : Nat) (q : Ask) : Act (Nat × Bool) := do
  homeGate line q
  carryTo line q.id 8 true
  logGate line
  let _ ← coherent line q false false
  upd (fun e d => (d.count (lcCount (d.home e line) 14) 1).dropSide e line)
  let x ← fetchLine line q.attr.aclass q.attr.zse q.ctx true
  let old := bitsOf x.toNat (8 * off) 64
  let dlt := signed64 (value + 2 ^ 64 - old)
  if dlt > 0 then storeAt line (byteMask off 8) (putBits x (8 * off) 64 value) q
  pure (old, decide (dlt < 0))

/-- The reports made since `d` include a Hallmark failure (R371: the response carried the SECURITY mark). -/
def Die.securSince (d d' : Die) : Bool :=
  (d'.ay.waiting.drop d.ay.waiting.length).any (fun r => decide (r.cause = Cs.HM_FAIL) && !r.self)

/-- The generator state a reduce-write of a context draws from: its slice's, or the kernel contexts' (R316). -/
def genKey (h : Nat) (slice : Option Nat) : Nat := 513 * h + slice.getD 512

/-- REDUCE on a line (R307, R309): the effective destination format, ROUND, contributions in ascending element order,
and the slice whose generator is drawn from. The answer is the line as written and the bytes written. A reduce-write to a page
pending withdrawal, or whose line's Hallmark does not verify, is counted as refused (R328). -/
def reduceAt (line fmt : Nat) (round : Bool) (cs : List Contrib) (slice : Option Nat) (red : Bool) (q : Ask) : Act (Line × BitVec 128) := do
  let e ← read
  upd (fun e d => if d.pendingLost e line then d.incSat F.CR_MX.REFUSED (d.home e line) 1 else d)
  homeGate line q
  carryTo line q.id 128 true
  logGate line
  let _ ← coherent line q false false
  let d ← get
  let h := d.home e line
  upd (fun e d => (d.count (lcCount h 14) 1).dropSide e line)
  if d.fire0 Cs.CR_MISMATCH h then
    let w := d.ay.waiting.length
    upd (fun e d => ((d.fired.incSat F.CR_EXC.MISMATCH h 1).report e
      { cause := Cs.CR_MISMATCH, inst := h, addr := some (line * 128), ctx := q.ctx, slice := slice, det0 := q.ctx.getD 0 }).markInj w)
    throw (.status St.BUS_ERROR)
  let s ← get
  let r := (fetchLine line q.attr.aclass q.attr.zse q.ctx true).go e s
  match r.1 with
  | .error (.status c) =>
    set (if s.securSince r.2 then r.2.incSat F.CR_MX.REFUSED h 1 else r.2)
    throw (.status c)
  | .error f => throw f
  | .ok x =>
    set r.2
    let gen := Tab.get 0 r.2.eng.gens (genKey h slice)
    let o := crucible fmt (round && decide (r.2.getF F.CR_CFG.SR_ENABLE 0 = 1)) cs x gen
    modify (fun d =>
      let d := (d.incWrap F.CR_OPS.LINES h 1).incSat F.CR_EXC.NAN h o.nan
      let d := ((d.incSat F.CR_EXC.SAT h o.sat).incSat F.CR_EXC.INF h o.inf).incWrap F.CR_MX.BLOCKS h o.blocks
      let d := ((d.count (2880 + 4 * h) 1).count (2880 + 4 * h + 1) (if red then 1 else 0)).count (2880 + 4 * h + 2) o.blocks
      let d := (d.count (2880 + 4 * h + 3) o.draws).count 12 1
      { d with eng.gens := Tab.set 0 d.eng.gens (genKey h slice) o.gen })
    storeAt line o.mask o.data q
    pure (o.data, o.mask)

end Sys2Proof.Machine
end

