-- ==== Sys2Proof/Machine/Links.lean ====
section
/-! DEFINITION. What leaves the die: host-port transactions (R478 to R481), and window and TIME packets with their
routing, trackers, credits, buckets and link sealing (R179 to R183, R188, R197, R355, R357). -/

namespace Sys2Proof.Machine

/-! ### The host port -/

/-- Bytes leave at the host port: counters 3,824 onwards, always-on 11 and the monitors. -/
def Die.hostOutCount (e : Env) (d : Die) (n : Nat) : Die :=
  (((d.count 3826 1).count 3827 n).count 11 n).monitor e 4 0 1 n

/-- The pieces of a transfer that neither exceed `maxLen` bytes nor cross a 4 KiB boundary (R479); `fuel` bounds
their number. -/
def hostPieces (maxLen : Nat) : Nat → Nat → Nat → List (Nat × Nat)
  | 0, _, _ => []
  | fuel + 1, a, n =>
    if n = 0 then []
    else
      let k := min n (min maxLen (4096 - a % 4096))
      (a, k) :: hostPieces maxLen fuel (a + k) (n - k)

def readPieces (a n : Nat) : List (Nat × Nat) := hostPieces 512 (n / 256 + 2) a n

/-- Bytes of data that a host-port transaction moves. -/
def Msg.hpBytes : Msg → Nat
  | .hostWrite _ _ b => b.length
  | .hostCpl _ _ b => b.length
  | _ => 0

/-- Data credits of `n` bytes: one for each 64 (R478, log entry 97). -/
def hpUnits (n : Nat) : Nat := (n + 63) / 64

/-- The transaction enters its counters as it leaves. -/
def Die.hpCount (e : Env) (d : Die) (m : Msg) : Die :=
  match m with
  | .hostWrite _ _ b => d.hostOutCount e b.length
  | .hostRead _ _ _ _ => d.hostOutCount e 0
  | .msix _ _ => d.count 3828 1
  | _ => d

/-- Transactions leave at the host port in their order, each with a header credit and the credits of its data (R461, R478); `fuel`
bounds them. -/
def Die.hpDrain (e : Env) : Nat → Die → Die
  | 0, d => d
  | fuel + 1, d =>
    match d.bt.outq with
    | [] => d
    | m :: t =>
      let u := hpUnits m.hpBytes
      if d.bt.hpHdr = 0 ∨ d.bt.hpDat < u then d
      else
        let d : Die := { d with bt.outq := t, bt.hpHdr := d.bt.hpHdr - 1, bt.hpDat := d.bt.hpDat - u }
        Die.hpDrain e fuel ((d.send m).hpCount e m)

/-- A transaction goes to the host port. -/
def Die.hpSend (e : Env) (d : Die) (m : Msg) : Die :=
  let d : Die := { d with bt.outq := d.bt.outq ++ [m] }
  d.hpDrain e d.bt.outq.length

/-- The buffer of a received transaction of `n` bytes is free: its credits go back (R461, R478). -/
def Die.hpFree (d : Die) (n : Nat) : Die :=
  (List.range (hpUnits n)).foldl (fun d _ => d.send (.credit 80 1)) (d.send (.credit 80 0))

/-- A posted write to host memory under an identity (R90, R479). -/
def Die.hostWrite (e : Env) (d : Die) (who : Who) (a : Nat) (data : List Byte) : Die :=
  (hostPieces 256 (data.length / 128 + 2) a data.length).foldl (fun d x =>
    d.hpSend e (.hostWrite who x.1 ((data.drop (x.1 - a)).take x.2))) d

/-- Host reads for a consumer: those not yet outstanding and not yet answered leave, while a tag is free (R479). -/
def Die.hostAsk (e : Env) (d : Die) (use : Use) (who : Who) (a n : Nat) : Die :=
  (readPieces a n).foldl (fun d x =>
    let have_ := d.bt.hdata.any (fun y => decide (y.1 = use ∧ y.2.1 = x.1 ∧ y.2.2.length = x.2))
    let out := d.bt.reads.any (fun y => decide (y.2.2.2.2 = use ∧ y.2.2.1 = x.1 ∧ y.2.2.2.1 = x.2))
    if have_ ∨ out ∨ d.bt.reads.length ≥ 1024 then d
    else match (List.range 1024).find? (fun t => !(d.bt.reads.any (fun y => decide (y.1 = t)))) with
      | some t => Die.hpSend e { d with bt.reads := d.bt.reads ++ [(t, who, x.1, x.2, use)] } (.hostRead t who x.1 x.2)
      | none => d) d

/-- The bytes a consumer asked for, once every piece has come; a host error ends the access (R481). -/
def hostRead (use : Use) (who : Who) (a n : Nat) : Act (List Byte) := do
  let d ← get
  let ps := readPieces a n
  need (!(d.bt.herr.any (fun y => decide (y.1 = use) && ps.any (fun x => decide (x.1 = y.2.1))))) (.status St.BUS_ERROR)
  let got := ps.map (fun x => d.bt.hdata.find? (fun y => decide (y.1 = use ∧ y.2.1 = x.1 ∧ y.2.2.length = x.2)))
  if got.all Option.isSome then pure ((got.map (fun y => match y with | some z => z.2.2 | none => [])).flatten)
  else throw (.need (.host who a n))

/-- A consumer's access is over: what it had been brought, what had been decided for it (R34), its places in the queues of homes
and memory controllers, and its claim on a transaction settled for it go. -/
def Die.forget (d : Die) (use : Use) : Die :=
  { d with stu.passed := d.stu.passed.filter (fun y => decide (y.use ≠ use)),
           coh.reqs := d.coh.reqs.filter (fun q => decide (q.use ≠ some use)),
           coh.txns := d.coh.txns.map (fun t => if t.settled ∧ t.rid.isNone ∧ t.use = some use then { t with use := none } else t),
           mem.waits := d.mem.waits.filter (fun y => decide (y.use ≠ use)),
           stu.walks := d.stu.walks.filter (fun y => decide (y.2.2 ≠ use)),
           bt.hdata := d.bt.hdata.filter (fun y => decide (y.1 ≠ use)),
           bt.herr := d.bt.herr.filter (fun y => decide (y.1 ≠ use)),
           coh.peeks := d.coh.peeks.filter (fun y => decide (y.1 ≠ use)),
           we.data := d.we.data.filter (fun y => decide (y.use ≠ use)) }

/-- An MSI-X message of the function of an identity (R480). -/
def Die.msix (e : Env) (d : Die) (who : Who) (v : Nat) : Die := d.hpSend e (.msix who v)

/-! ### Window packets -/

/-- Bytes of a packet (Table 6.3), unsealed, without its CRC filled in. -/
def packetHead (op sealed len src dst win tag arg off aux : Nat) : List Byte :=
  bytesLE 1 op ++ bytesLE 1 sealed ++ bytesLE 2 len ++ bytesLE 2 src ++ bytesLE 2 dst ++ bytesLE 4 win ++
  bytesLE 2 tag ++ bytesLE 2 arg ++ bytesLE 8 off ++ bytesLE 4 aux

def natBytes (l : List Byte) : List Nat := l.map BitVec.toNat
def byteList (l : List Nat) : List Byte := l.map (BitVec.ofNat 8)

/-- Header with its CRC, then the payload (R188). -/
def packetBytes (head payload : List Byte) : List Byte :=
  head ++ bytesLE 4 (crc32c (natBytes (head ++ payload))) ++ payload

/-- Ports a request for a die may leave by (R180, R357). -/
def Die.routeMask (d : Die) (die : Nat) (needSeal : Bool) : List Nat :=
  (List.range 16).filter (fun p => decide (bitsOf (d.getF F.WE_ROUTE.PORT_MASK (die / 256)) p 1 = 1) &&
    d.bit F.WE_PORT_STATUS.UP p && (!needSeal || decide (d.getF F.SE_LINK.STATE p = 2)))

/-- The port of a request (R180). -/
def Die.routePort (d : Die) (die win : Nat) (needSeal : Bool) : Option Nat :=
  let m := d.routeMask die needSeal
  if m = [] then none else m[(die ^^^ win) % m.length]?

/-- WE_WERR latches the first window failure of a context (R195). -/
def Die.werr (d : Die) (c cause die win : Nat) : Die :=
  if d.getF F.WE_WERR.CAUSE c ≠ 0 then d
  else ((d.setF F.WE_WERR.CAUSE c cause).setF F.WE_WERR.REMOTE_DIE c die).setF F.WE_WERR.WINDOW_ID c win

/-- The nonce of R355: the direction's salt, then the count of packets sealed. -/
def sealNonce (salt : BitVec 32) (count : Nat) : List Nat := bytesOf 4 salt.toNat ++ bytesOf 8 count

/-- A packet leaves port `p`, sealed where the port is ON and the packet is no TIME packet (R354, R355). `head` has 28
bytes with SEALED 0. A packet whose sealing mismatches twice is not sent (R347). -/
def Die.putPacket (e : Env) (d : Die) (p : Nat) (head payload : List Byte) (time : Bool) : Die :=
  let n := 32 + payload.length
  let d := (((d.count (3568 + 16 * p + 2) n).count 8 n).monitor e 3 p 1 n)
  match Tab.get none d.se.links p with
  | some k =>
    if d.getF F.SE_LINK.STATE p = 2 ∧ !time then
      let cnt := d.getF F.SE_LINK_TXC.COUNT p
      let head := head.set 1 1
      let iv := sealNonce k.txSalt cnt
      let ct := byteList (gcmCrypt k.txKey iv (natBytes payload))
      let tag := gcmTag k.txKey iv (natBytes head) (natBytes ct)
      let d := (d.incWrap F.SE_LINK_TXC.COUNT p 1).count (3568 + 16 * p + 10) 1
      let d := if cnt + 1 = 2 ^ 64 - 1 then d.setF F.SE_LINK.STATE p 3 else d
      let hard := d.fire0 Cs.SE_FAULT_WB (8 + p)
      let rep := fun (d : Die) (c : Nat) => d.report e { cause := c, unit := some 7, inst := p, det0 := 1 }
      let w := d.ay.waiting.length
      if hard then (rep (rep (d.fired.incSat F.SE_ERR.MISMATCH 0 2) Cs.SE_MISMATCH) Cs.SE_FAULT_WB).markInj w
      else
        let d := if d.fire0 Cs.SE_MISMATCH (8 + p) then (rep (d.fired.incSat F.SE_ERR.MISMATCH 0 1) Cs.SE_MISMATCH).markInj w else d
        d.send (.packet p (packetBytes head ct) (some (BitVec.ofNat 128 (natLE tag))))
    else d.send (.packet p (packetBytes head payload) none)
  | none => d.send (.packet p (packetBytes head payload) none)

/-- The link bucket of a slice brought up to now: guarantee and cap in bytes (R183). -/
def Die.linkBucket (e : Env) (d : Die) (s : Nat) : Int × Int :=
  let b := Tab.get (0, 0, 0) d.we.lbw s
  let c := d.getF F.WE_LBW.CAP_GBPS s
  let g := min (d.getF F.WE_LBW.GUAR_GBPS s) c
  let dt : Int := e.now - b.2.2
  (min 65536 (b.1 + g * dt), min 65536 (b.2.1 + c * dt))

/-- The bucket lets the request leave; `strict` asks for the guarantee. -/
def Die.linkOk (e : Env) (d : Die) (q : WinReq) (strict : Bool) : Bool :=
  match q.slice with
  | none => true
  | some s =>
    let b := d.linkBucket e s
    decide (d.getF F.WE_LBW.CAP_GBPS s ≠ 0) && decide (b.2 > 0) && (!strict || decide (b.1 > 0))

/-- The lowest free tracker. -/
def Die.freeTrk (d : Die) : Option Nat := (List.range 8192).find? (fun n => !(d.we.trks.any (fun t => decide (t.n = n))))

/-- Send one request if a port, a tracker, a credit and its bucket let it; the answer says whether it left. -/
def Die.winSend (e : Env) (d : Die) (q : WinReq) (strict : Bool) : Option Die :=
  if fieldOf e.dieId 16 1 = 0 ∨ !(d.linkOk e q strict) then none
  else match d.routePort q.die q.win q.needSeal, d.freeTrk with
    | some p, some n =>
      if d.getF F.WE_PORT_STATUS.REQ_CREDITS p = 0 then none
      else
        let g := Tab.get 0 d.we.gens n
        let bytes := 32 + q.payload.length
        let head := packetHead q.op 0 q.payload.length (fieldOf e.dieId 0 16) q.die q.win (n + 8192 * g) q.arg q.off (if q.op = 1 then q.len else 0)
        let d := d.setF F.WE_PORT_STATUS.REQ_CREDITS p (d.getF F.WE_PORT_STATUS.REQ_CREDITS p - 1)
        let d := (d.count (3568 + 16 * p) 1)
        let d : Die := match q.slice with
          | some s =>
            let b := d.linkBucket e s
            { (d.count (4096 + 4 * s + 3) bytes) with we.lbw := Tab.set (0, 0, 0) d.we.lbw s (if strict then b.1 - bytes else b.1, b.2 - bytes, e.now) }
          | none => d
        let d : Die := { d with we.gens := Tab.set 0 d.we.gens n ((g + 1) % 8),
                                we.trks := d.we.trks ++ [{ n := n, gen := g, port := p, sent := e.now, req := q }] }
        some (d.putPacket e p head q.payload false)
    | _, _ => none

/-- The requests within their guarantee leave, oldest first, and those that no bucket meters. -/
def winPass (e : Env) : List WinReq → List WinReq → Die → Die × List WinReq
  | [], keep, d => (d, keep.reverse)
  | q :: t, keep, d =>
    match d.winSend e q true with
    | some d' => winPass e t keep d'
    | none => winPass e t (q :: keep) d

/-- Turns until slice `s` is served by the round robin of the requests above their guarantee. -/
def Die.linkTurn (d : Die) (s : Nat) : Nat := (s + 1023 - d.we.turn) % 512

/-- The slices that have requests waiting, in the order of their turns. -/
def Die.linkSlices (d : Die) (q : List WinReq) : List Nat :=
  ((q.filterMap (·.slice)).eraseDups).mergeSort (fun a b => decide (d.linkTurn a ≤ d.linkTurn b))

/-- The oldest request of a slice that can leave above its guarantee, and the die after it. -/
def Die.linkNext (e : Env) (d : Die) (q : List WinReq) : List Nat → Option (WinReq × Die)
  | [] => none
  | s :: t =>
    match (q.filter (fun x => decide (x.slice = some s))).findSome? (fun x => (d.winSend e x false).map (fun y => (x, y))) with
    | some r => some (r.1, { r.2 with we.turn := s })
    | none => d.linkNext e q t

/-- The requests above their guarantee leave in round robin among slices (R183); `fuel` bounds them. -/
def winShare (e : Env) : Nat → List WinReq → Die → Die × List WinReq
  | 0, q, d => (d, q)
  | fuel + 1, q, d =>
    match d.linkNext e q (d.linkSlices q) with
    | some r => winShare e fuel (q.erase r.1) r.2
    | none => (d, q)

/-- A TIME packet is stamped as its first beat leaves (R199, R484): T1 of a TIME_REQ, T3 of a TIME_RSP. -/
def timeStamp (now : Nat) (b : List Byte) : List Byte :=
  if (b.headD 0).toNat = 0x10 then b.take 28 ++ bytesLE 8 now ++ b.drop 36
  else if (b.headD 0).toNat = 0x11 then b.take 44 ++ bytesLE 8 now ++ b.drop 52
  else b

/-- One response leaves where its class has a credit. -/
def rspPass (e : Env) : List (Nat × List Byte) → List (Nat × List Byte) → Die → Die × List (Nat × List Byte)
  | [], keep, d => (d, keep.reverse)
  | r :: t, keep, d =>
    if d.bit F.WE_PORT_STATUS.UP r.1 ∧ d.getF F.WE_PORT_STATUS.RSP_CREDITS r.1 ≠ 0 then
      let d := (d.setF F.WE_PORT_STATUS.RSP_CREDITS r.1 (d.getF F.WE_PORT_STATUS.RSP_CREDITS r.1 - 1)).count (3568 + 16 * r.1 + 1) 1
      let d : Die := if (r.2.headD 0).toNat = 0x10 then { d with we.timeT1 := some e.now } else d
      let b := timeStamp e.now r.2
      rspPass e t keep (d.putPacket e r.1 (b.take 28) (b.drop 28) (decide (((r.2.headD 0).toNat = 0x10) ∨ (r.2.headD 0).toNat = 0x11)))
    else rspPass e t (r :: keep) d

/-- What can leave leaves: requests within their guarantee first (R183), then the others; and the responses. While the die has
no identifier nothing does (R30). -/
def Die.winPump (e : Env) (d : Die) : Die :=
  if fieldOf e.dieId 16 1 = 0 then d
  else
    let a := winPass e d.we.queue [] d
    let b := winShare e a.2.length a.2 a.1
    let c := rspPass e b.1.we.rspq [] b.1
    { c.1 with we.queue := b.2, we.rspq := c.2 }

/-- A response packet: the head without CRC, and the payload. -/
def Die.respond (e : Env) (d : Die) (p op dst win tag aux off : Nat) (payload : List Byte) : Die :=
  let head := packetHead op 0 payload.length (fieldOf e.dieId 0 16) dst win tag 0 off aux
  Die.winPump e { d with we.rspq := d.we.rspq ++ [(p, head ++ payload)] }

/-- Local failures that a window access meets before a packet is formed (Table 6.6a). -/
def winLocal (ctx die win : Nat) (needSeal : Bool) : Act Unit := do
  let e ← read
  let d ← get
  if fieldOf e.dieId 16 1 = 0 then
    modify (fun d => d.werr ctx 19 die win)
    throw (.status St.WINDOW)
  if (d.routePort die win needSeal).isNone then
    modify (fun d => d.werr ctx 18 die win)
    throw (.status St.WINDOW)

/-- A request packet joins the queue and leaves when it can. -/
def winPost (q : WinReq) : Act Unit := do
  winLocal q.ctx q.die q.win q.needSeal
  upd (fun e d => Die.winPump e { d.named with we.queue := d.we.queue ++ [{ q with n := d.nid }] })

/-- The data a request's response brought; where none has come, the request is made. -/
def winFetch (q : WinReq) : Act (List Byte) := do
  let d ← get
  match d.we.data.find? (fun x => decide (x.use = q.use ∧ x.die = q.die ∧ x.win = q.win ∧ x.op = q.op ∧ x.off = q.off)) with
  | some x => pure x.bytes
  | none =>
    winLocal q.ctx q.die q.win q.needSeal
    throw (.need (.window q))

/-- The consumer still waits for a window response. -/
def Die.winBusy (d : Die) (use : Use) : Bool :=
  d.we.queue.any (fun q => decide (q.use = use)) || d.we.trks.any (fun t => decide (t.req.use = use))

end Sys2Proof.Machine
end

