-- ==== Sys2Proof/Machine/FaultRing.lean ====
section
/-! DEFINITION. Fault rings, their batches and replay buffers (R169 to R174, R178), and the access counters with
their HOT records (R176, R177). -/

namespace Sys2Proof.Machine

/-- The 64 bytes of a fault record (Table 5.7). -/
def FRec.bytes (r : FRec) (phase : Nat) : List Byte :=
  bytesLE 1 r.typ ++ bytesLE 1 (phase + 2 * Bool.num r.tile + 4 * Bool.num r.held + 8 * Bool.num r.late) ++
  bytesLE 1 r.cause ++ bytesLE 1 r.last ++ bytesLE 2 (r.ctx % 4096) ++ bytesLE 1 (r.source + 16 * r.acc) ++ bytesLE 1 r.index ++
  bytesLE 8 (r.ptr % 2 ^ 48) ++ bytesLE 8 (r.lptr % 2 ^ 48) ++ bytesLE 4 r.seq ++ bytesLE 4 (r.ring % 8192) ++
  bytesLE 8 r.time ++ bytesLE 8 r.d0 ++ bytesLE 8 r.d1 ++ bytesLE 8 0

def Die.fring (d : Die) (s : Nat) : FRing := Tab.get {} d.stu.rings s
def Die.setFring (d : Die) (s : Nat) (x : FRing) : Die :=
  { d with stu.rings := Tab.set {} d.stu.rings s x }.setF F.STU_FRING_STATUS.REPLAY_USED s x.replay.length

/-- The ring of slice `s` has room for one more record (R171). -/
def Die.fringRoom (d : Die) (s : Nat) : Bool :=
  d.bit F.STU_FRING_CTL.ENABLE s &&
    decide ((d.getF F.STU_FRING_STATUS.PRODUCED s + (d.fring s).batch.length + 2 ^ 32 - (d.fring s).cons) % 2 ^ 32
      < 2 ^ d.getF F.STU_FRING_CTL.LOG2_SIZE s)

/-- A record is discarded and counted (R173, R174). -/
def Die.fringDrop (d : Die) (s n : Nat) : Die := (d.incSat F.STU_FRING_STATUS.DROPPED s n).count 63 n

/-- The records of the open batch are written in order, and one MSI-X message follows (R170). -/
def Die.closeBatch (e : Env) (d : Die) (s : Nat) : Die :=
  let x := d.fring s
  if x.batch = [] then d
  else
    let lg := d.getF F.STU_FRING_CTL.LOG2_SIZE s
    let base := 4096 * d.getF F.STU_FRING_BASE.ADDR s
    let d := x.batch.foldl (fun d r =>
      let q := d.getF F.STU_FRING_STATUS.PRODUCED s
      let d := d.hostWrite e (d.sliceId s) (base + 64 * (q % 2 ^ lg)) (r.bytes (1 - bitsOf q lg 1))
      (d.incWrap F.STU_FRING_STATUS.PRODUCED s 1).count 3890 1) d
    (d.setFring s { x with batch := [] }).msix e (d.sliceId s) (d.getF F.STU_FRING_CTL.MSIX_VECTOR s)

/-- A record that has room joins the batch, which its 64th record closes. -/
def Die.batchAdd (e : Env) (d : Die) (s : Nat) (r : FRec) : Die :=
  let x := d.fring s
  let d := d.setFring s { x with batch := x.batch ++ [r], opened := if x.batch = [] then e.now else x.opened }
  if x.batch.length + 1 ≥ 64 then d.closeBatch e s else d

/-- Entries of the replay buffer drain in order while the ring has room, and stalled contexts get their entries
(R172); `fuel` bounds the entries moved. -/
def Die.drainReplay (e : Env) : Nat → Die → Nat → Die
  | 0, d, _ => d
  | fuel + 1, d, s =>
    let x := d.fring s
    match x.replay with
    | r :: rest =>
      if d.fringRoom s then
        Die.drainReplay e fuel ((d.setFring s { x with replay := rest }).batchAdd e s { r with late := true }) s
      else d
    | [] => d

/-- Records of slice `s` that wait for an entry of its replay buffer. -/
def Die.stallsOf (d : Die) (s : Nat) : List Stall := d.stu.stalled.filter (fun y => decide (d.sliceOf y.frec.ctx = some s))

/-- An access is held at its source (R167): its context goes to FAULTED and its hold time begins. -/
def Die.hold (d : Die) (h : Held) : Die :=
  let d : Die := { d with stu.held := d.stu.held ++ [h] }
  let d := d.setF F.STU_EPOCH.HELD h.ctx (d.stu.held.filter (fun x => decide (x.ctx = h.ctx))).length
  if d.ctxState h.ctx = 4 then d
  else { d.setCtxState h.ctx 4 with stu.faultAt := Tab.set 0 d.stu.faultAt h.ctx (d.getF F.ST_TICK.TICK_COUNT 0) }

/-- The records of a slice that wait for an entry of its replay buffer get them in their order, while some are free: the context
is stalled no more once none of its records waits, and under REPLAY its access is held. -/
def Die.unstall : Nat → Die → Nat → Die
  | 0, d, _ => d
  | fuel + 1, d, s =>
    let x := d.fring s
    match (d.stallsOf s).head? with
    | some y =>
      if x.replay.length < 32 then
        let d : Die := { d.setFring s { x with replay := x.replay ++ [y.frec] } with stu.stalled := d.stu.stalled.erase y }
        let d := if d.stu.stalled.any (fun z => decide (z.frec.ctx = y.frec.ctx)) then d else d.setF F.STU_EPOCH.STALLED y.frec.ctx 0
        let d := match y.held with | some h => d.hold h | none => d
        Die.unstall fuel (d.setEv F.STU_FRING_STATUS.OVERFLOW s) s
      else d
    | none => d

/-- What the room of a ring lets go on: every entry that fits leaves the buffer, and the records behind it follow. -/
def Die.fringPump (e : Env) (d : Die) (s : Nat) : Die :=
  Die.drainReplay e 32 ((List.range (d.stu.stalled.length / 32 + 2)).foldl (fun d _ => Die.unstall 32 (Die.drainReplay e 32 d s) s) d) s

/-- A record of slice `s` (R171 to R173), which passes none that waits (R170); `held` is its access under REPLAY. -/
def Die.fringAdd (e : Env) (d : Die) (s : Nat) (r : FRec) (held : Option Held) : Die :=
  let x := d.fring s
  let kept := fun (d : Die) => match held with | some h => d.hold h | none => d
  if d.fringRoom s ∧ x.replay = [] ∧ d.stallsOf s = [] then kept (d.batchAdd e s r)
  else if r.typ ≠ 1 then d.fringDrop s 1
  else if x.replay.length < 32 ∧ d.stallsOf s = [] then
    kept ((d.setFring s { x with replay := x.replay ++ [r] }).setEv F.STU_FRING_STATUS.OVERFLOW s)
  else { d.setF F.STU_EPOCH.STALLED r.ctx 1 with stu.stalled := d.stu.stalled ++ [{ frec := r, held := held }] }

/-- A record of a context, and its access held under REPLAY: kernel contexts have no ring (R169). -/
def Die.frecord (e : Env) (d : Die) (r : FRec) (held : Option Held := none) : Die :=
  match d.sliceOf r.ctx with
  | some s => d.fringAdd e s r held
  | none => match held with | some h => d.hold h | none => d

/-- Records of an open batch whose ring is disabled are handled as records that find no room (R178). Records above the 32 of the
replay buffer wait, and their contexts are stalled; log entry 102. -/
def Die.fringStop (d : Die) (s : Nat) : Die :=
  let x := d.fring s
  let tr := x.batch.filter (fun r => decide (r.typ = 1))
  let other := x.batch.length - tr.length
  let all := tr.map (fun r => { r with late := true }) ++ x.replay
  let d := d.setFring s { x with batch := [], replay := all.take 32 }
  let d : Die := { d with stu.stalled := (all.drop 32).map (fun r => { frec := r }) ++ d.stu.stalled }
  let d := (all.drop 32).foldl (fun d r => d.setF F.STU_EPOCH.STALLED r.ctx 1) d
  let d := if tr = [] then d else d.setEv F.STU_FRING_STATUS.OVERFLOW s
  if other = 0 then d else d.fringDrop s other

/-! ### Access counters -/

/-- Who made an access, for records and reports. -/
structure Maker where
  ctx : Nat
  source : Nat
  index : Nat
  seq : Nat := 0
  ring : Nat := 0
  /-- Device pointer of the first byte of the access. -/
  ptr : Nat := 0
  deriving DecidableEq, Repr

/-- `n` lines of a page are accessed by class `cls`: 0 LOCAL, 1 REMOTE, 2 HOST (R176, R177). -/
def Die.access (e : Env) (d : Die) (cls p n acc : Nat) (m : Maker) : Die :=
  if !(d.bit F.STU_CFG.CNT_ENABLE 0) then d
  else
    let f : Fld := if cls = 0 then F.STU_ACNT.LOCAL else if cls = 1 then F.STU_ACNT.REMOTE else F.STU_ACNT.HOST
    let t := d.getF (if cls = 0 then F.STU_CNT_CFG.THRESH_LOCAL else if cls = 1 then F.STU_CNT_CFG.THRESH_REMOTE else F.STU_CNT_CFG.THRESH_HOST) 0
    let old := d.getF f p
    let d := d.incSat f p n
    if t ≠ 0 ∧ old < t ∧ t ≤ d.getF f p then
      match d.ownedPage p with
      | some s => d.fringAdd e s { typ := 2, cause := cls, source := m.source, acc := acc, index := m.index, ptr := m.ptr, seq := m.seq,
                                   ring := m.ring, time := e.now, d0 := p, d1 := t } none
      | none => d
    else d

/-- `n` lines of a host block are accessed by a context (R176): 4,096 entries, the least recently used replaced. -/
def Die.accessHost (e : Env) (d : Die) (seg blk n acc : Nat) (m : Maker) : Die :=
  if !(d.bit F.STU_CFG.CNT_ENABLE 0) then d
  else
    let t := d.getF F.STU_CNT_CFG.THRESH_HOST 0
    let old := match d.stu.hostCnt.find? (fun x => decide (x.1 = m.ctx ∧ x.2.1 = seg ∧ x.2.2.1 = blk)) with
      | some x => x.2.2.2.1
      | none => 0
    let new := satAdd 16 old n
    let rest := d.stu.hostCnt.filter (fun x => !decide (x.1 = m.ctx ∧ x.2.1 = seg ∧ x.2.2.1 = blk))
    let rest := if rest.length < 4096 then rest else rest.drop 1
    let d : Die := { d with stu.hostCnt := rest ++ [(m.ctx, seg, blk, new, 0)] }
    if t ≠ 0 ∧ old < t ∧ t ≤ new then
      d.frecord e { typ := 2, cause := 2, ctx := m.ctx, source := m.source, acc := acc, index := m.index, ptr := m.ptr, seq := m.seq,
                    ring := m.ring, time := e.now, d0 := seg * 2 ^ 44 + blk * 2 ^ 25, d1 := t }
    else d

/-- Every access counter is halved (R177). -/
def Die.decay (d : Die) : Die :=
  let d : Die := { d with stu.hostCnt := d.stu.hostCnt.map (fun x => (x.1, x.2.1, x.2.2.1, x.2.2.2.1 / 2, x.2.2.2.2)) }
  (List.map (fun x => x.1 / 8) (Tab.get [] d.regs Reg.STU_ACNT.ctorIdx)).foldl (fun d p =>
    ((d.setF F.STU_ACNT.LOCAL p (d.getF F.STU_ACNT.LOCAL p / 2)).setF F.STU_ACNT.REMOTE p (d.getF F.STU_ACNT.REMOTE p / 2)).setF
      F.STU_ACNT.HOST p (d.getF F.STU_ACNT.HOST p / 2)) d

end Sys2Proof.Machine
end

