-- ==== Sys2Proof/Machine/Snoops.lean ====
section
/-! DEFINITION. Transactions on lines: snoops, their answers and what they settle (R221 to R224, R232, R237), and how an
access that waits asks for what it waits for. -/

namespace Sys2Proof.Machine

/-! ### Snoops -/

def Die.cmd (d : Die) (id : Nat) : Option Cmd := d.sf.cmds.find? (fun c => decide (c.id = id))

/-- Whose context a consumer is. -/
def Die.useCtx (d : Die) : Use → Option Nat
  | .cmd id => (d.cmd id).map (·.ctx)
  | .ring n => some (d.getF F.SF_RING_CTL.CONTEXT n)
  | .ctx c => some c
  | .req r => (d.coh.reqs.find? (fun q => decide (q.rid = r))).bind (·.ctx)
  | _ => none


/-- A snoop leaves for a cluster port, which has eight snoop numbers and eight credits (R461); one that finds none free
waits (number 8). -/
def Die.snoopTo (e : Env) (d : Die) (k line sop : Nat) : Die :=
  let free := (List.range 8).find? (fun g => !(d.coh.snps.any (fun s => decide (s.k = k ∧ s.stag = g))))
  let used := Tab.get 0 d.coh.credits (16 * k + 3)
  match (if used < 8 then free else none) with
  | some g =>
    let d : Die := { d with coh.snps := d.coh.snps ++ [{ k := k, stag := g, sop := sop, line := line, sent := e.now }],
                            coh.credits := Tab.set 0 d.coh.credits (16 * k + 3) (used + 1) }
    (d.send (.snoop k g sop line)).count (64 + 8 * k + 3) 1
  | none => { d with coh.snps := d.coh.snps ++ [{ k := k, stag := 8, sop := sop, line := line, sent := e.now }] }

/-- The first snoop of a port that waits leaves, where it can. -/
def Die.snpPump (e : Env) (d : Die) (k : Nat) : Die :=
  match d.coh.snps.find? (fun s => decide (s.k = k ∧ s.stag = 8)) with
  | some w => Die.snoopTo e { d with coh.snps := d.coh.snps.erase w } w.k w.line w.sop
  | none => d

/-- The snoop has been answered in full: its number goes to the first that waits for one. -/
def Die.snpDone (e : Env) (d : Die) (x : Snp) : Die := Die.snpPump e { d with coh.snps := d.coh.snps.erase x } x.k

def Die.txn (d : Die) (line : Nat) : Option Txn := d.coh.txns.find? (fun t => decide (t.line = line))
def Die.setTxn (d : Die) (t : Txn) : Die := { d with coh.txns := d.coh.txns.map (fun x => if x.line = t.line then t else x) }
def Die.dropTxn (d : Die) (line : Nat) : Die := { d with coh.txns := d.coh.txns.filter (fun x => decide (x.line ≠ line)) }
def Die.req (d : Die) (rid : Nat) : Option Req := d.coh.reqs.find? (fun q => decide (q.rid = rid))
def Die.setReq (d : Die) (q : Req) : Die := { d with coh.reqs := d.coh.reqs.map (fun x => if x.rid = q.rid then q else x) }
def Die.dropReq (d : Die) (rid : Nat) : Die := { d with coh.reqs := d.coh.reqs.filter (fun q => decide (q.rid ≠ rid)) }

/-- The WB of cluster `k` that stands in the one entry it has in the WB buffer of home `h`; its later ones for that home wait at the port
stop, which holds the home's WB credit (R226, R463). -/
def Die.wbHead (e : Env) (d : Die) (k h : Nat) : Option Nat :=
  (d.coh.reqs.find? (fun q => decide (q.op = .wb) && decide (q.who = k ∧ d.home e q.line = h))).map (·.rid)

/-- The port stop's buffers of a WB and its data are free (R461). -/
def Die.wbFreed (d : Die) (k : Nat) : Die := (d.send (.credit k 1)).send (.credit k 2)

/-- A WB has been taken and is acknowledged: the home's credit goes to the next that waits at the port stop. -/
def Die.endWb (e : Env) (d : Die) (w : Req) : Die :=
  let h := d.home e w.line
  let was := d.wbHead e w.who h
  let d := d.dropReq w.rid
  if d.fenced w.who then d
  else
    let d := d.send (.rsp w.who w.tag 1 0)
    if was = some w.rid ∧ (d.wbHead e w.who h).isSome then d.wbFreed w.who else d

/-- The WB of a cluster for a line that has arrived. -/
def Die.wbOf (d : Die) (k line : Nat) : Option Req :=
  d.coh.reqs.find? (fun q => decide (q.op = .wb) && decide (q.who = k ∧ q.line = line))

/-- Every collector, or the owner, has answered. -/
def Txn.full (t : Txn) : Bool := !t.settled && t.colls.all (fun c => c.2.2)

/-- Regions in which a cluster answered HIT. -/
def Txn.hits (t : Txn) : List Nat :=
  (t.colls.filter (fun c => c.2.1.any (fun a => decide (a.2 = 1 ∨ a.2 = 2 ∨ a.2 = 3)))).map Prod.fst

/-- Data a holder returned goes into the LC, or to memory, under the class of the directory entry (R212, R221). -/
def Txn.keep (t : Txn) : Act Unit := do
  match t.sdat with
  | some x =>
    let d ← get
    logGate t.line
    keepData t.line (((d.dirEnt t.line).map (·.aclass)).getD 0) x t.watchEn t.watchId none
  | none => pure ()

/-- A WB answered the snoop: its data has been taken. -/
def Txn.took (t : Txn) : Bool := decide (t.ans = 4) || t.colls.any (fun c => c.2.1.any (fun a => decide (a.2 = 4)))

/-- The outcome of a transaction whose snoops have all been answered (R221, R223, R224, R232, R237). Data of a line that a core
changed before its slice's log went on is shown to a reader only once its granule is logged (R118). -/
def settleAct (t : Txn) : Act Unit := do
  let e ← read
  let d ← get
  if t.lost then
    need (d.lossRoom e t.line) .later
    upd (fun e d => d.lostLine e t.line 1 t.dead Cs.LINE_LOST_DEAD (t.use.bind d.useCtx))
  else
    if t.sop = 0 then
      if !t.repl ∨ t.took then t.keep
      modify (fun d => d.setDir t.line none)
    else if t.sop = 1 then
      t.keep
      modify (fun d => match d.dirEnt t.line with
        | some x => d.setDir t.line (if t.ans = 0 ∨ t.took then none else some { x with owned := false })
        | none => d)
    else if t.sop = 2 then
      if t.took then
        t.keep
        modify (fun d => d.setDir t.line none)
      else if t.sdat.isSome then logGate t.line
      match t.use with
      | some u => modify (fun d => { d with coh.peeks := d.coh.peeks ++ [(u, t.line, t.sdat)] })
      | none => pure ()
    else
      if t.took then
        t.keep
        modify (fun d => d.setDir t.line none)
      else
        modify (fun d => match d.dirEnt t.line with
          | some x =>
            if x.owned then (if t.ans = 0 then d.setDir t.line none else d)
            else
              let p := (List.range 8).foldl (fun (a : Nat) r => a + (if x.present.getLsbD r ∧ r ∈ t.hits then 2 ^ r else 0)) 0
              d.setDir t.line (if p = 0 then none else some { x with present := BitVec.ofNat 8 p })
          | none => d)
    -- a WB that was taken is acknowledged
    upd (fun e d =>
      match d.coh.reqs.find? (fun w => t.took && decide (w.op = .wb) && decide (w.line = t.line)) with
      | some w => d.endWb e w
      | none => d)

/-- The context's granule of the dirty log is marked: a read-modify-write of its bitmap word starts (R118), of 8 bytes (log
entry 99). A read that found no tag free is asked for again. -/
def Die.askLog (e : Env) (d : Die) (s g : Nat) : Die :=
  match d.sm.logs.find? (fun x => decide (x.sl = s)) with
  | some l =>
    match l.pend.find? (fun x => decide (x.1 = g)) with
    | some x => if x.2.2 % 10 < 2 then d.hostAsk e (.log s) .pf x.2.1 8 else d
    | none =>
      let a := 4096 * d.getF F.SM_SLICE_LOG.BITMAP s + g / 64 * 8
      let d : Die := { d with sm.logs := d.sm.logs.map (fun x => if x.sl = s then { x with pend := x.pend ++ [(g, a, 0)] } else x) }
      d.hostAsk e (.log s) .pf a 8
  | none => d

/-- Settle the transaction of a line, if it is full; where that waits, it is tried again later. One that serves a request of a
cluster, or the write of a whole line, stands settled with the data its snoop brought until that has been performed. -/
def Die.settle (e : Env) (d : Die) (line : Nat) : Die :=
  match d.txn line with
  | some t =>
    if t.full then
      let cls := (d.dirEnt line).map (·.aclass)
      match (settleAct t).go e d with
      | (.error (.need (.log s g)), _) => d.askLog e s g
      | (.error (.need (.wake r)), _) => d.wake e r
      | (.error (.need _), _) => d
      | (.error .later, _) => d
      | (_, d) =>
        let t := { t with settled := true, colls := [], aclass := cls }
        match t.rid.bind d.req with
        | some q => if q.line = line then d.setTxn t else d.dropTxn line
        | none => if t.repl && t.use.isSome && t.sdat.isSome && !t.took && !t.lost then d.setTxn t else d.dropTxn line
    else d
  | none => d

/-- A settled transaction that no access is left to end: the data it holds is kept and it goes. -/
def Die.letGo (e : Env) (d : Die) (line : Nat) : Die :=
  match (mayTouch line .other).go e d with
  | (.ok _, d) => d
  | (.error (.need (.log s g)), _) => d.askLog e s g
  | (.error (.need (.wake r)), _) => d.wake e r
  | (_, _) => d

/-- Every full transaction is settled. -/
def Die.settleAll (e : Env) (d : Die) : Die :=
  d.coh.txns.foldl (fun d t => if t.settled && t.rid.isNone && t.use.isNone then d.letGo e t.line else d.settle e t.line) d

/-- A holder's final answer to a snoop, with the data it brought (R221, R222). -/
def Die.answer (e : Env) (d : Die) (x : Snp) (ans : Nat) (data : Option Line) (watchEn : Bool) (watchId : Nat) : Die :=
  let d := d.snpDone e x
  match d.txn x.line with
  | some t =>
    let t := if data.isSome then { t with sdat := data, watchEn := watchEn, watchId := watchId } else t
    if t.owner = some x.k then
      (d.setTxn { t with ans := ans, colls := t.colls.map (fun c => (c.1, c.2.1, true)) }).settle e x.line
    else d.setTxn { t with colls := t.colls.map (fun c => if c.1 = x.k / 8 then (c.1, c.2.1 ++ [(x.k, ans)], c.2.2) else c) }
  | none => d

/-- A snoop answered WB_PENDING takes the WB once it stands in the WB buffer (R232). -/
def Die.takeWb (e : Env) (d : Die) (k line : Nat) : Die :=
  match d.coh.snps.find? (fun s => decide (s.k = k ∧ s.line = line ∧ s.wait = 2)), d.wbOf k line with
  | some x, some w => if d.wbHead e k (d.home e line) = some w.rid then d.answer e x 4 (some w.data) w.attr.watchEn w.attr.watchId else d
  | _, _ => d

/-- A transaction starts: the owner alone is snooped, or every region with a PRESENT bit through its collector. A fenced
owner has answered DEAD, and a fenced port counts as MISS (R222, R237). So do the ports of the home's own region on its
way to GATED, which stand in reset (R460): their caches hold nothing that must be kept. An armed LINE_LOST_DEAD makes the home take
the owner for dead. -/
def Die.openTxn (e : Env) (d : Die) (t : Txn) (ks regs : List Nat) : Die :=
  let h := d.home e t.line
  let inj := t.owner.isSome && d.fire0 Cs.LINE_LOST_DEAD h
  let dead := inj || (match t.owner with | some k => d.fenced k | none => false)
  let w := d.ay.waiting.length
  let d := if inj then d.fired else d
  let down := fun (r : Nat) => decide (r = h / 8) && !(d.running r)
  let t := { t with id := d.nid, colls := regs.map (fun r => (r, [], dead || down r)), lost := dead, dead := t.owner.getD 0 }
  let d := (regs.filter (fun r => decide (r ≠ h / 8))).foldl (fun d r => d.wake e r) { d.named with coh.txns := d.coh.txns ++ [t] }
  let ks := ks.filter (fun k => decide (t.skipK ≠ some k) && d.live e k && !(down (k / 8)) && !inj)
  let d := (ks.foldl (fun d k => (d.snoopTo e k t.line t.sop).count (576 + 16 * h + 10) 1) d).settle e t.line
  if inj then d.markInj w else d

/-- The snoops that a request of Table 7.3, a sweep, an eviction or a flush sends for a line; `repl` says that the request
replaces the whole line. -/
def Die.startTxn (e : Env) (d : Die) (line sop : Nat) (rid : Option Nat) (use : Option Use) (skipK : Option Nat) (sweep : Bool)
    (repl : Bool := false) : Die :=
  if d.activeTxn line then d
  else match d.dirEnt line with
    | none => d
    | some x =>
      let regs := if x.owned then [x.owner / 8] else (List.range 8).filter (fun r => x.present.getLsbD r && decide (r < e.regions))
      let ks := if x.owned then [x.owner] else (List.range 64).filter (fun k => decide (k / 8 ∈ regs))
      d.openTxn e { line := line, sop := sop, rid := rid, use := use, skipK := skipK, sweep := sweep, repl := repl,
                    owner := if x.owned then some x.owner else none } ks regs

/-- SNP_INV to every live cluster port of the die (DIR_STATE of Table 7.8). -/
def Die.invAll (e : Env) (d : Die) (line : Nat) : Die :=
  if d.activeTxn line then d
  else d.openTxn e { line := line, sop := 0 } (List.range e.clusters) (List.range e.regions)

/-- A directory entry is back-invalidated for the room it takes (R224). -/
def Die.evictDir (e : Env) (d : Die) (line : Nat) : Die :=
  if d.activeTxn line then d else (d.incWrap F.DIR_STATUS.DIR_EVICTS 0 1).startTxn e line 0 none none none false

/-! ### A cluster declared dead: its snoops and the lines it owned (R237, R238) -/

/-- The port stop answers the snoops of a dead cluster. A WB that had arrived whole is taken as it would have been. -/
def Die.deadSnoops (e : Env) (d : Die) (k : Nat) : Die :=
  let mine := d.coh.snps.filter (fun s => decide (s.k = k))
  let d : Die := { d with coh.snps := d.coh.snps.filter (fun s => decide (s.k ≠ k)) }
  mine.foldl (fun d x =>
    match d.txn x.line with
    | some t =>
      match (if x.wait = 2 then d.wbOf k x.line else none) with
      | some w => d.answer e x 4 (some w.data) w.attr.watchEn w.attr.watchId
      | none =>
        let loses := decide (t.owner = some k) || decide (x.wait ≠ 0)
        let d := if loses then d.setTxn { t with lost := true, dead := k } else d
        d.answer e x 0 none false 0
    | none => d.snpDone e x) d

/-- The line of an OWNED entry of dead cluster `k` is lost, but for one whose WB had arrived whole. A transaction on the line
that has still to be settled loses it then; one that was settled has its request answered LOST. Nothing happens while the home's
list of pages is full. -/
def Die.deadLine (e : Env) (d : Die) (k line : Nat) : Die :=
  if (d.wbOf k line).isSome ∨ !(d.lossRoom e line) then d
  else match d.txn line with
    | none => d.lostLine e line 1 k Cs.LINE_LOST_DEAD none
    | some t =>
      if t.settled then (d.lostLine e line 1 k Cs.LINE_LOST_DEAD (t.use.bind d.useCtx)).setTxn { t with lost := true, dead := k, sdat := none }
      else d.setTxn { t with lost := true, dead := k }

/-- Lines with an OWNED entry of cluster `k`. -/
def Die.ownedLines (d : Die) (k : Nat) : List Nat :=
  d.coh.dir.filterMap (fun x => x.2.bind (fun y => if y.owned ∧ y.owner = k then some x.1 else none))

/-- Every directory's OWNED entries of the dead cluster are lost lines (R238); the walk goes on later where a home's list of pages
has no room. -/
def Die.deadWalk (e : Env) (d : Die) (k : Nat) : Die :=
  let d := (d.ownedLines k).foldl (fun d line => d.deadLine e k line) d
  let rest := (d.ownedLines k).any (fun line => (d.wbOf k line).isNone && (d.txn line).isNone)
  { d with coh.dead := d.coh.dead.filter (· ≠ k) ++ (if rest then [k] else []) }

/-- The walks that are due go on. -/
def Die.deadPump (e : Env) (d : Die) : Die := d.coh.dead.foldl (fun d k => d.deadWalk e k) d

/-! ### How an access goes on -/

/-- A tile of a command begins to wait for a key slot: the Foreman and the DME count it once (R403, R406). -/
def Die.keyWaits (d : Die) (id : Nat) : Die :=
  match d.eng.jobs.find? (fun j => decide (j.cmd = id)) with
  | some j =>
    if j.keyWait then d
    else
      let d := (d.incSat F.ST_FOREMAN_STATUS.WAITS 0 1).count (2368 + 8 * j.dme + 7) 1
      { d with eng.jobs := d.eng.jobs.map (fun x => if x.cmd = id then { x with keyWait := true } else x) }
  | none => d

/-- Issue what an access waits for. -/
def Die.issue (e : Env) (d : Die) (use : Use) : Need → Die
  | .host who a n => d.hostAsk e use who a n
  | .walk c a n =>
    let other := d.stu.walks.any (fun y => decide (y.1 = c ∧ y.2.1 = a ∧ y.2.2 ≠ use) &&
      d.bt.reads.any (fun r => decide (r.2.2.2.2 = y.2.2 ∧ r.2.2.1 = a)))
    if other then d
    else
      let x := (c, a, use)
      Die.hostAsk e { d with stu.walks := if d.stu.walks.contains x then d.stu.walks else d.stu.walks ++ [x] } use .pf a n
  | .snoop line sop =>
    match use with
    | .req r =>
      match d.req r with
      | some q =>
        if q.line = line then d.startTxn e line sop (some r) (some use) (if q.op = .readOwn then some q.who else none) false
        else d.evictDir e line
      | none => d
    | _ => d.startTxn e line sop none (some use) none false
  | .replace line =>
    match use with
    | .req r => d.startTxn e line 0 (some r) (some use) none false true
    | _ => d.startTxn e line 0 none (some use) none false true
  | .retry id line cause ctx =>
    if (d.engReq use line).isSome then d
    else
      let h := d.home e line
      let q : Req := { rid := d.nid, who := id, op := .readOnce, line := line, ctx := ctx, slice := ctx.bind d.sliceOf,
                       retried := true, told := true, at_ := e.tq, use := some use }
      (Die.queueGrant { d.named with coh.reqs := d.coh.reqs ++ [q] } h
        { who := id, line := cause.map (fun _ => line), cause := cause.getD 0 }).count (lcCount h 8) 1
  | .mem line =>
    if d.mem.waits.any (fun w => decide (w.line = line)) || decide (use = .other) then d
    else { d with mem.waits := d.mem.waits ++ [{ line := line, slice := d.ownedPage (pageOfLine line), use := use }] }
  | .wake r => d.wake e r
  | .window q =>
    let same : WinReq → Bool := fun x => decide (x.use = q.use ∧ x.die = q.die ∧ x.win = q.win ∧ x.op = q.op ∧ x.off = q.off)
    if d.we.queue.any same || d.we.trks.any (fun t => same t.req) then d
    else Die.winPump e { d.named with we.queue := d.we.queue ++ [{ q with n := d.nid }] }
  | .log s g => d.askLog e s g
  | .dirState line selfTest ctx =>
    let r : Report := { cause := Cs.DIR_STATE, inst := d.home e line, addr := some (line * 128), ctx := ctx, slice := d.askSlice ctx line,
                        det0 := d.dirSet e line, self := selfTest }
    let d := if selfTest then d.fired.report e r
      else ((d.fired.incSat F.DIR_STATUS.PAR_CORRECTED 0 1).report e r).markInj d.ay.waiting.length
    d.invAll e line
  | .key => match use with
    | .cmd id => d.keyWaits id
    | _ => d

/-- What became of an attempt. -/
inductive Tried (α : Type) where
  | ok (x : α) (d : Die)
  | wait (d : Die)
  | stop (code : Nat) (secur : Bool) (d : Die)
  | fault (r : FRec) (d : Die)

/-- A checker holds a request whose error finds its reporter's places full (R372). -/
def Die.heldUp (d d' : Die) : Bool := decide (d.ay.held.length < d'.ay.held.length)

/-- Try an access: one that waits changes nothing but what it asks for; what was decided for it under the tables stands (R34). -/
def attempt {α : Type} (e : Env) (d : Die) (use : Use) (a : Act α) : Tried α :=
  let d := d.settleAll e
  let r := a.go e d
  let d' := r.2
  let kept : Die := { d with stu.passed := d'.stu.passed, nid := d'.nid }
  if d.heldUp d' then .wait kept
  else match r.1 with
    | .ok x => .ok x (d'.forget use)
    | .error (.need n) => .wait (kept.issue e use n)
    | .error .later => .wait kept
    | .error (.status c) => .stop c (d.securSince d') (d'.forget use)
    | .error (.fault r) => .fault r (d'.forget use)

end Sys2Proof.Machine
end

