-- ==== Sys2Proof/Machine/Access.lean ====
section
/-! DEFINITION. Device pointers: segment and page tables, translation caches, the checks of an access in their
order (R150 to R161, R514), tiles (R175), and reads and writes through what a pointer names. -/

namespace Sys2Proof.Machine

/-- The accesses of Table 5.2, coded as ACCESS of Table 5.7. -/
abbrev Ac.read : Nat := 1
abbrev Ac.list : Nat := 2
abbrev Ac.write : Nat := 3
abbrev Ac.reduce : Nat := 4
abbrev Ac.atomic : Nat := 5
abbrev Ac.fsig : Nat := 6
abbrev Ac.fwait : Nat := 7

/-- The source of an access. -/
structure Src where
  /-- Requester identifier of Table 7.6, translation cache (a region's, or 8 for the hub), UNIT code. -/
  id    : Nat
  cache : Nat
  unit  : Nat
  by_   : Maker
  use   : Use
  /-- A received window packet: its accesses name no context of this die (R369, R190). -/
  anon  : Bool := false
  /-- Its reads leave no copy in the LC (R70). -/
  noAlloc : Bool := false
  deriving DecidableEq, Repr

/-- The context that the source's requests and reports name. -/
def Src.ctx (s : Src) : Option Nat := if s.anon then none else some s.by_.ctx

/-! ### Segment descriptors (Table 5.1) -/

structure Seg where
  w0 : Nat
  w1 : Nat
  w2 : Nat
  w3 : Nat
  deriving DecidableEq, Repr

def Seg.typ (g : Seg) : Nat := bitsOf g.w0 1 2
def Seg.seal_ (g : Seg) : Nat := bitsOf g.w0 6 2
def Seg.keySlot (g : Seg) : Nat := bitsOf g.w0 8 6
def Seg.aclass (g : Seg) : Nat := bitsOf g.w0 14 6
def Seg.wide (g : Seg) : Bool := decide (bitsOf g.w0 30 1 = 1)
def Seg.base (g : Seg) : Nat := bitsOf g.w1 0 45
def Seg.limit (g : Seg) : Nat := bitsOf g.w2 0 45

/-- The descriptor grants a permission: PERM_R 3, PERM_W 4, PERM_RED 5. -/
def Seg.perm (g : Seg) (b : Nat) : Bool := decide (bitsOf g.w0 b 1 = 1)

/-- VALID is 1 and the descriptor is not malformed (R154). -/
def Seg.ok (g : Seg) : Bool :=
  let u := if g.typ = 0 then 2 ^ 25 else if g.typ = 1 then 4096 else 1
  decide (bitsOf g.w0 0 1 = 1) && decide (g.typ ≠ 3) && decide (g.seal_ ≠ 3) && decide (bitsOf g.w0 31 33 = 0) &&
    decide (bitsOf g.w1 45 19 = 0) && decide (bitsOf g.w2 45 19 = 0) &&
    (if g.typ = 0 then decide (bitsOf g.w3 0 3 = 0 ∧ bitsOf g.w3 50 14 = 0) else if g.typ = 2 then decide (bitsOf g.w3 28 36 = 0) else true) &&
    (decide (g.seal_ ≠ 0) || decide (g.keySlot = 0)) && decide (g.base % u = 0 ∧ g.limit % u = 0) &&
    decide (g.base < g.limit ∧ g.limit ≤ 2 ^ 44)

/-- What a request carries of its segment (R154). -/
def Seg.attr (g : Seg) : SegAttr :=
  { known := true, cls := g.seal_, slot := g.keySlot, aclass := g.aclass, zse := decide (bitsOf g.w0 20 1 = 1),
    pf := bitsOf g.w0 21 2 % 3, watchEn := decide (bitsOf g.w0 23 1 = 1), watchId := bitsOf g.w0 24 6, wide := g.wide }

/-- The access may use the segment type (Table 5.2). -/
def typeOk (acc typ : Nat) : Bool :=
  if acc = Ac.read ∨ acc = Ac.write then true
  else if acc = Ac.list then decide (typ ≠ 2)
  else if acc = Ac.fwait then decide (typ = 0)
  else decide (typ ≠ 1)

/-- The segment grants what the access needs (Table 5.2). -/
def Seg.grants (g : Seg) (acc : Nat) : Bool :=
  if acc = Ac.read ∨ acc = Ac.list ∨ acc = Ac.fwait then g.perm 3
  else if acc = Ac.write ∨ acc = Ac.fsig then g.perm 4
  else if acc = Ac.reduce then g.perm 5
  else g.perm 3 && g.perm 4

/-! ### Physical accesses -/

/-- A failed Page Ownership check at a device address is reported with the requester, page, slice and context (R105, R366,
R516). -/
def Die.potFail (e : Env) (d : Die) (addr : Nat) (unit inst id : Nat) (ctx : Option Nat) (slice : Option Nat) : Die :=
  d.report e { cause := Cs.POT_FAIL, inst := inst, unit := some unit, addr := some addr, ctx := ctx, slice := slice,
               det0 := pageOf addr, det1 := id }

/-- The line pieces of a range of device addresses: (line, offset in line, bytes); `fuel` bounds their number. -/
def linePieces : Nat → Nat → Nat → List (Nat × Nat × Nat)
  | 0, _, _ => []
  | fuel + 1, a, n =>
    if n = 0 then []
    else
      let k := min n (128 - a % 128)
      (a / 128, a % 128, k) :: linePieces fuel (a + k) (n - k)

def piecesOf (a n : Nat) : List (Nat × Nat × Nat) := linePieces (n / 128 + 2) a n

/-- Bytes read at a device physical address. -/
def physRead (a n : Nat) (k : Ask) : Act (List Byte) :=
  (piecesOf a n).foldlM (fun acc x => do
    let l ← readOnceAt x.1 k
    pure (acc ++ ((lineBytes l).drop x.2.1).take x.2.2)) []

/-- Bytes of a line as data and mask. -/
def lineWrite (off : Nat) (b : List Byte) : Line × BitVec 128 := (BitVec.ofNat 1024 (numLE b * 2 ^ (8 * off)), byteMask off b.length)

/-- Bytes written at a device physical address. -/
def physWrite (a : Nat) (b : List Byte) (k : Ask) : Act Unit :=
  (piecesOf a b.length).forM (fun x => do
    let w := lineWrite x.2.1 ((b.drop (x.1 * 128 + x.2.1 - a)).take x.2.2)
    writeAt x.1 w.2 w.1 k)

/-- A home serves the hub with no segment: class 0, sealing 0. -/
def hubAsk (ctx : Option Nat) (use : Use) : Ask := { id := 138, ctx := ctx, use := use }

/-- A table read by the STU, with the rights of a kernel context (R151): 32 or 8 bytes, in one piece. `dev` says the table lies in
device memory. Misses of one region that read the same entry make one read (R160). -/
def tableRead (s : Src) (dev : Bool) (a n : Nat) : Act (List Byte) := do
  if dev then
    let e ← read
    let d ← get
    let p := pageOf a
    if !(d.present e p && decide (d.pageState p = 4)) then
      upd (fun e d => d.potFail e a 11 0 138 s.ctx (d.sliceOf s.by_.ctx))
      throw (.status (if d.present e p ∧ d.pageState p = 3 then St.LOST else St.ISOLATION))
    physRead a n (hubAsk s.ctx s.use)
  else
    let d ← get
    need (!(d.bt.herr.any (fun y => decide (y.1 = s.use ∧ y.2.1 = a)))) (.status St.BUS_ERROR)
    match d.bt.hdata.find? (fun y => decide (y.1 = s.use ∧ y.2.1 = a ∧ y.2.2.length = n)) with
    | some y => pure y.2.2
    | none => throw (.need (.walk s.cache a n))

/-! ### Translation caches (R160, R161) -/

/-- The set of an entry in its cache: 128 sets of a region's page cache, 32 of its segment cache, 8 of the hub's; log
entry 79. -/
def Xl.set_ (x : Xl) : Nat :=
  (16 * x.ctx + x.seg + ((x.block.map (fun b => b.1 / 2 ^ 25)).getD 0)) % (if x.cache = 8 then 8 else if x.block.isSome then 128 else 32)

/-- An entry joins its cache, in one of the 8 ways of its set: the least recently used of them goes. -/
def Die.cacheAdd (d : Die) (x : Xl) : Die :=
  let same := d.stu.caches.filter (fun y => decide (y.cache = x.cache ∧ y.set_ = x.set_) && (decide (x.cache = 8) || decide (y.block.isSome = x.block.isSome)))
  let old := if same.length < 8 then none
    else same.foldl (fun (b : Option Xl) y => match b with | none => some y | some z => if y.use < z.use then some y else b) none
  { d with stu.caches := (d.stu.caches.filter (fun y => !decide (some y = old))) ++ [{ x with use := d.coh.clock }],
           coh.clock := d.coh.clock + 1 }

/-- A hit renews the entry. -/
def Die.cacheUse (d : Die) (x : Xl) : Die :=
  { d with stu.caches := d.stu.caches.map (fun y => if y = x then { y with use := d.coh.clock } else y), coh.clock := d.coh.clock + 1 }

/-- The descriptor of segment `n` of the source's context. -/
def segOf (s : Src) (n : Nat) : Act Seg := do
  let d ← get
  match d.stu.caches.find? (fun y => decide (y.cache = s.cache ∧ y.ctx = s.by_.ctx ∧ y.seg = n ∧ y.block = none)) with
  | some y =>
    modify (fun d => d.cacheUse y)
    pure ⟨y.val, y.w1, y.w2, y.w3⟩
  | none =>
    modify (fun d => if s.cache = 8 then d.count 3889 1 else d)
    modify (fun d => d.count 3888 1)
    let b ← tableRead s (d.bit F.STU_CTX_SEGTAB.LOC s.by_.ctx) (512 * d.getF F.STU_CTX_SEGTAB.ADDR s.by_.ctx + 32 * n) 32
    let g : Seg := ⟨numLE (b.take 8), numLE ((b.drop 8).take 8), numLE ((b.drop 16).take 8), numLE (b.drop 24)⟩
    if g.ok then
      modify (fun d => d.cacheAdd { cache := s.cache, ctx := s.by_.ctx, seg := n, block := none, val := g.w0, w1 := g.w1, w2 := g.w2, w3 := g.w3 })
    pure g

/-- The device physical address of offset `o` of a LOCAL segment, or the cause of its fault (R157 to R159). -/
def pageWalk (s : Src) (n : Nat) (g : Seg) (o : Nat) : Act (Except Nat Nat) := do
  let d ← get
  match d.stu.caches.find? (fun y => decide (y.cache = s.cache ∧ y.ctx = s.by_.ctx ∧ y.seg = n) &&
      (match y.block with | some b => decide (b.1 ≤ o ∧ o < b.1 + b.2) | none => false)) with
  | some y =>
    modify (fun d => d.cacheUse y)
    pure (.ok (y.val + (o - ((y.block.map Prod.fst).getD 0))))
  | none =>
    modify (fun d => if s.cache = 8 then d.count 3889 1 else d)
    modify (fun d => d.count 3888 1)
    let b ← tableRead s true (g.w3 + 8 * ((o - g.base) / 2 ^ 25)) 8
    let x := numLE b
    let page := bitsOf x 16 15
    let k := o / 2 ^ 25 % 32
    let giant := decide (bitsOf x 1 1 = 1)
    let blk := o / 2 ^ 30 * 2 ^ 30
    if bitsOf x 0 1 = 0 then pure (.error 3)
    else if bitsOf x 2 14 ≠ 0 ∨ bitsOf x 31 17 ≠ 0 ∨ page > 18431 ∨
        (giant ∧ (blk < g.base ∨ g.limit < blk + 2 ^ 30 ∨ page % 32 ≠ k)) then pure (.error 4)
    else
      let first := if giant then blk else o / 2 ^ 25 * 2 ^ 25
      let base := if giant then (page - k) * 2 ^ 25 else page * 2 ^ 25
      modify (fun d => d.cacheAdd { cache := s.cache, ctx := s.by_.ctx, seg := n, block := some (first, if giant then 2 ^ 30 else 2 ^ 25), val := base })
      pure (.ok (base + (o - first)))

/-- The Page Ownership check of an access of a context at a device address (Table 3.9). -/
def potCheck (s : Src) (addr : Nat) : Act Unit := do
  let e ← read
  let d ← get
  let page := pageOf addr
  let c := s.by_.ctx
  let inj := d.fire0 Cs.POT_FAIL (if s.cache = 8 then 8 else s.cache)
  let ok := d.present e page && (match d.sliceOf c with | none => decide (d.pageState page = 4) | some sl => d.ownedBy page sl)
  if !ok ∨ inj then
    let w := d.ay.waiting.length
    upd (fun e d => (if inj then d.fired else d).potFail e addr s.unit (if s.unit = 13 ∨ s.unit = 11 then 0 else s.by_.index) s.id s.ctx (d.sliceOf c))
    if inj then modify (fun d => d.markInj w)
    let lost := match d.sliceOf c with
      | some sl => d.present e page && decide (d.pageState page = 3 ∧ d.pageOwner page = sl ∧ d.getF F.SM_POT.ORPHAN page = 0)
      | none => false
    throw (.status (if lost then St.LOST else St.ISOLATION))

/-! ### What a pointer names -/

/-- The descriptor checks of R514 steps 1 to 3 at a pointer's segment, with the command's own check of step 2. A fault
is answered as its cause. -/
def segCheck (s : Src) (acc seg : Nat) (chk : Seg → Bool) : Act (Except Nat Seg) := do
  let d ← get
  need (!(d.bit F.STU_EPOCH.STALLED s.by_.ctx)) .later
  let g ← segOf s seg
  if !g.ok then pure (.error 1)
  else
    let d ← get
    let aclassOk := match d.sliceOf s.by_.ctx with
      | some sl => (d.reg .SM_SLICE_ACLASS sl 0).getLsbD g.aclass
      | none => true
    need (typeOk acc g.typ && (decide (g.typ ≠ 1) || decide (g.seal_ = 0)) && aclassOk && chk g) (.status St.BAD_ARG)
    need (g.grants acc) (.status St.PERMISSION)
    pure (.ok g)

/-- An offset outside BASE to LIMIT (R514 step 4): the cause of its fault, or none. -/
def Seg.outside (g : Seg) (o : Nat) : Option Nat := if o < g.base ∨ g.limit ≤ o then some 2 else none

/-- What was decided for this very access before it had to wait (R34). -/
def Die.passedFor (d : Die) (s : Src) (acc seg o len : Nat) : Option Span :=
  if s.use = .other then none
  else (d.stu.passed.find? (fun x => decide (x.use = s.use ∧ x.ctx = s.by_.ctx ∧ x.acc = acc ∧ x.seg = seg ∧ x.off = o ∧ x.len = len))).map (·.span)

/-- An access has passed its checks. -/
def Die.pass (d : Die) (s : Src) (acc : Nat) (x : Span) : Die :=
  if s.use = .other then d
  else { d.named with stu.passed := d.stu.passed ++ [{ n := d.nid, use := s.use, ctx := s.by_.ctx, acc := acc, seg := x.seg, off := x.off,
                                                       len := x.len, span := x }] }

/-- Translate an access of `len` bytes at byte `disp` past pointer `p`. Each step is made at both ends before the next begins (R514,
R175); `tile` says that the access is a tile, whose record names the result of each end. -/
def translate (s : Src) (acc p disp len : Nat) (tile : Bool) (chk : Seg → Bool) : Act Span := do
  let e ← read
  let d ← get
  let seg := p / 2 ^ 44 % 16
  let o := p % 2 ^ 44 + disp
  let l := o + (len - 1)
  let ptr := fun x => seg * 2 ^ 44 + x % 2 ^ 44
  let fail (a b : Option Nat) : Act Span := throw (.fault
    { typ := 1, tile := tile, cause := if tile then a.getD 0 else (a.or b).getD 0, last := if tile then b.getD 0 else 0, ctx := s.by_.ctx,
      source := s.by_.source, acc := acc, index := s.by_.index, ptr := ptr o, lptr := if tile then ptr l else 0, seq := s.by_.seq,
      ring := s.by_.ring, time := e.now })
  match d.passedFor s acc seg o len with
  | some x => pure x
  | none =>
    match ← segCheck s acc seg chk with
    | .error c => fail (some c) (some c)
    | .ok g =>
      if (g.outside o).isSome ∨ (g.outside l).isSome then fail (g.outside o) (g.outside l)
      else
        let x ← (do
          if g.typ = 0 then
            let a ← pageWalk s seg g o
            let b ← (if o / 2 ^ 25 = l / 2 ^ 25 then pure (a.map (fun x => x + (l - o))) else pageWalk s seg g l)
            match a, b with
            | .ok x, .ok y =>
              potCheck s x
              if o / 2 ^ 25 ≠ l / 2 ^ 25 then potCheck s (y / 2 ^ 25 * 2 ^ 25)
              let k := min len (2 ^ 25 - o % 2 ^ 25)
              let ps := if k = len then [(x, len)] else [(x, k), (y - (len - k - 1), len - k)]
              pure { typ := 0, seg := seg, off := o, len := len, pieces := ps, attr := g.attr }
            | .ok _, .error y => fail none (some y)
            | .error x, .ok _ => fail (some x) none
            | .error x, .error y => fail (some x) (some y)
          else if g.typ = 1 then pure { typ := 1, seg := seg, off := o, len := len, host := g.w3 + o, attr := g.attr }
          else pure { typ := 2, seg := seg, off := o, len := len, die := bitsOf g.w3 0 16, win := bitsOf g.w3 16 12, attr := g.attr })
        modify (fun d => d.pass s acc x)
        pure x

/-- How a source asks a home for a line of a translated range. -/
def Src.ask (s : Src) (g : SegAttr) : Ask := { id := s.id, ctx := s.ctx, attr := g, use := s.use, noAlloc := s.noAlloc }

/-- Line pieces of all local pieces. -/
def Span.lines (x : Span) : List (Nat × Nat × Nat) := (x.pieces.map (fun y => piecesOf y.1 y.2)).flatten

/-- Count the lines of a range as accesses of its context (R176). Shopfront's own accesses to device memory are of no class. -/
def countAccess (s : Src) (acc : Nat) (x : Span) : Act Unit := do
  let m : Maker := { s.by_ with ptr := x.seg * 2 ^ 44 + x.off % 2 ^ 44 }
  if x.typ = 0 ∧ s.by_.source ≠ 4 then
    x.pieces.forM (fun y => upd (fun e d => d.access e 0 (pageOf y.1) (piecesOf y.1 y.2).length acc m))
  else if x.typ = 1 then
    (piecesOf x.off x.len).forM (fun y => upd (fun e d => d.accessHost e x.seg (y.1 * 128 / 2 ^ 25) 1 acc m))

/-- The window packets of a range: (offset, bytes), each within one 512-byte block (R179). -/
def blockPieces : Nat → Nat → Nat → List (Nat × Nat)
  | 0, _, _ => []
  | fuel + 1, a, n =>
    if n = 0 then []
    else
      let k := min n (512 - a % 512)
      (a, k) :: blockPieces fuel (a + k) (n - k)

def packetsOf (a n : Nat) : List (Nat × Nat) := blockPieces (n / 512 + 2) a n

/-- A request of a source through a window range. -/
def Src.winReq (s : Src) (d : Die) (x : Span) (op off : Nat) : WinReq :=
  { use := s.use, ctx := s.by_.ctx, slice := d.sliceOf s.by_.ctx, die := x.die, win := x.win, op := op, off := off, needSeal := decide (x.attr.cls ≠ 0) }

/-- Read a translated range. -/
def readSpan (s : Src) (x : Span) (acc : Nat) : Act (List Byte) := do
  let d ← get
  countAccess s acc x
  if x.typ = 0 then
    x.pieces.foldlM (fun b y => do
      let r ← physRead y.1 y.2 (s.ask x.attr)
      pure (b ++ r)) []
  else if x.typ = 1 then hostRead s.use (d.hostId s.by_.ctx) x.host x.len
  else
    (packetsOf x.off x.len).foldlM (fun b y => do
      let r ← winFetch { s.winReq d x 1 y.1 with len := y.2 }
      pure (b ++ r)) []

/-- Bytes of a translated range are written, without counting them as an access. -/
def storeSpan (s : Src) (x : Span) (b : List Byte) : Act Unit := do
  let d ← get
  if x.typ = 0 then
    let _ ← x.pieces.foldlM (fun (k : Nat) y => do
      physWrite y.1 ((b.drop k).take y.2) (s.ask x.attr)
      pure (k + y.2)) 0
  else if x.typ = 1 then upd (fun e d => d.hostWrite e (d.hostId s.by_.ctx) x.host b)
  else (packetsOf x.off x.len).forM (fun y => winPost { s.winReq d x 3 y.1 with payload := (b.drop (y.1 - x.off)).take y.2 })

/-- Write a translated range. -/
def writeSpan (s : Src) (x : Span) (b : List Byte) : Act Unit := do
  countAccess s Ac.write x
  storeSpan s x b

/-- The pieces of `m` bytes from byte `k` on. -/
def subPieces : List (Nat × Nat) → Nat → Nat → List (Nat × Nat)
  | [], _, _ => []
  | (a, n) :: t, k, m =>
    if m = 0 then []
    else if n ≤ k then subPieces t (k - n) m
    else (a + k, min m (n - k)) :: subPieces t 0 (m - (n - k))

/-- Bytes `k .. k + m - 1` of a translated range. -/
def Span.sub (x : Span) (k m : Nat) : Span := { x with off := x.off + k, len := m, pieces := subPieces x.pieces k m, host := x.host + k }

/-- Pieces of a range cut at multiples of `u` of its offset: (place within the range, bytes). -/
def cutAt (u : Nat) : Nat → Nat → Nat → Nat → List (Nat × Nat)
  | 0, _, _, _ => []
  | fuel + 1, o, k, n =>
    if n = 0 then []
    else
      let m := min n (u - o % u)
      (k, m) :: cutAt u fuel (o + m) (k + m) (n - m)

/-- A free choice between values of which the manual allows each (R64, R281). -/
def pickFree : Act Bool := do
  let d ← get
  modify Die.drawn
  pure (Config.overlapPick d.ctr)

/-- A range whose sectors of `u` bytes end with the new data or keep what another source of the command put there. -/
def writePicked (s : Src) (x : Span) (b : List Byte) (u : Nat) : Act Unit := do
  countAccess s Ac.write x
  (cutAt u (x.len + 1) x.off 0 x.len).forM (fun y => do
    if ← pickFree then storeSpan s (x.sub y.1 y.2) ((b.drop y.1).take y.2))

/-- The runs of places that a list of choices takes: first place and length. -/
def runsOf : Nat → List Bool → List (Nat × Nat)
  | _, [] => []
  | i, false :: t => runsOf (i + 1) t
  | i, true :: t =>
    match runsOf (i + 1) t with
    | (j, n) :: r => if j = i + 1 then (i, n + 1) :: r else (i, 1) :: (j, n) :: r
    | [] => [(i, 1)]

/-- The places of `n` bytes that are written: where `lap` holds, the byte may keep what another write of the command put there. -/
def keepRuns (n : Nat) (lap : Nat → Bool) : Act (List (Nat × Nat)) := do
  let keep ← (List.range n).mapM (fun i => if lap i then pickFree else pure true)
  pure (runsOf 0 keep)

/-- Write a translated range whose bytes overlap other outputs of the command where `lap` says (R281). -/
def writeOver (s : Src) (x : Span) (b : List Byte) (lap : Nat → Bool) : Act Unit := do
  countAccess s Ac.write x
  let rs ← keepRuns x.len lap
  rs.forM (fun r => storeSpan s (x.sub r.1 r.2) ((b.drop r.1).take r.2))

/-- Accesses that each lie within one line: read `n` bytes at a pointer. -/
def readPtr (s : Src) (acc p disp n : Nat) : Act (List Byte) :=
  (piecesOf (p % 2 ^ 44 + disp) n).foldlM (fun b y => do
    let x ← translate s acc (p / 2 ^ 44 * 2 ^ 44) (y.1 * 128 + y.2.1) y.2.2 false (fun _ => true)
    let r ← readSpan s x acc
    pure (b ++ r)) []

/-- Accesses that each lie within one line: write bytes at a pointer. -/
def writePtr (s : Src) (p disp : Nat) (b : List Byte) : Act Unit :=
  let o := p % 2 ^ 44 + disp
  (piecesOf o b.length).forM (fun y => do
    let x ← translate s Ac.write (p / 2 ^ 44 * 2 ^ 44) (y.1 * 128 + y.2.1) y.2.2 false (fun _ => true)
    writeSpan s x ((b.drop (y.1 * 128 + y.2.1 - o)).take y.2.2))

/-- A tile is read: both ends are checked, then its bytes. -/
def readTile (s : Src) (acc p disp n : Nat) (chk : Seg → Bool) : Act (List Byte) := do
  let x ← translate s acc p disp n true chk
  readSpan s x acc

end Sys2Proof.Machine
end

