-- ==== Sys2Proof/Machine/Operands.lean ====
section
/-! DEFINITION. The fields of a descriptor (Tables 2.7 and 2.8, and the argument blocks of the privileged opcodes) and
the checks Shopfront makes of them at fetch (R55, R59 to R61, R69). -/

namespace Sys2Proof.Machine

/-- `w` bits at byte `o` of a descriptor, from bit `b` of that byte on. -/
def dfield (desc : BitVec 512) (o b w : Nat) : Nat := bitsOf desc.toNat (8 * o + b) w

/-- Opcodes of Table 2.8. -/
abbrev Op.NOP : Nat := 0x01
abbrev Op.LAUNCH : Nat := 0x02
abbrev Op.LAUNCH_INDIRECT : Nat := 0x03
abbrev Op.COPY : Nat := 0x08
abbrev Op.FILL : Nat := 0x09
abbrev Op.GATHER : Nat := 0x0A
abbrev Op.SCATTER : Nat := 0x0B
abbrev Op.REDUCE : Nat := 0x0C
abbrev Op.REDUCE_SCATTER : Nat := 0x0D
abbrev Op.DISPATCH : Nat := 0x10
abbrev Op.COMBINE : Nat := 0x11
abbrev Op.FENCE_WAIT : Nat := 0x18
abbrev Op.FENCE_SIGNAL : Nat := 0x19
abbrev Op.TIMESTAMP : Nat := 0x1A
abbrev Op.COUNTER_SNAP : Nat := 0x1B
abbrev Op.PRED_SKIP : Nat := 0x20
abbrev Op.SELECT : Nat := 0x21
abbrev Op.CALL_LIST : Nat := 0x22
abbrev Op.RETURN : Nat := 0x23
abbrev Op.YIELD : Nat := 0x24
abbrev Op.DEADLINE : Nat := 0x28
abbrev Op.WATCH : Nat := 0x30
abbrev Op.INVALIDATE : Nat := 0x80
abbrev Op.SLICE_CTL : Nat := 0x81
abbrev Op.KEY_CTL : Nat := 0x82
abbrev Op.MAP_WINDOW : Nat := 0x83
abbrev Op.SCRUB : Nat := 0x84
abbrev Op.LOG_CTL : Nat := 0x85

def Cmd.op (c : Cmd) : Nat := dfield c.desc 0 0 8
def Cmd.cpl (c : Cmd) : Bool := decide (dfield c.desc 1 0 1 = 1)
def Cmd.irq (c : Cmd) : Bool := decide (dfield c.desc 1 1 1 = 1)
def Cmd.overlap (c : Cmd) : Bool := decide (dfield c.desc 1 2 1 = 1)
def Cmd.yields (c : Cmd) : Bool := decide (dfield c.desc 1 3 1 = 1)
def Cmd.arg0 (c : Cmd) : Nat := dfield c.desc 2 0 16
def Cmd.est (c : Cmd) : Nat := dfield c.desc 4 0 32
/-- Fields by byte offset: 64, 48, 32 and 16 bits. -/
def Cmd.q (c : Cmd) (o : Nat) : Nat := dfield c.desc o 0 64
def Cmd.p6 (c : Cmd) (o : Nat) : Nat := dfield c.desc o 0 48
def Cmd.w (c : Cmd) (o : Nat) : Nat := dfield c.desc o 0 32
def Cmd.h (c : Cmd) (o : Nat) : Nat := dfield c.desc o 0 16
/-- The command has started. -/
def Cmd.started (c : Cmd) : Bool := decide (c.order ≠ 0)

/-- The opcode exists. -/
def opKnown (op : Nat) : Bool :=
  ([0x01, 0x02, 0x03, 0x08, 0x09, 0x0A, 0x0B, 0x0C, 0x0D, 0x10, 0x11, 0x18, 0x19, 0x1A, 0x1B] : List Nat).contains op ||
  ([0x20, 0x21, 0x22, 0x23, 0x24, 0x28, 0x30, 0x80, 0x81, 0x82, 0x83, 0x84, 0x85] : List Nat).contains op

/-- Opcodes that honour OVERLAP (R65). -/
def honours (op : Nat) : Bool := decide (op ≤ 0x11)

/-- Bytes `lo .. hi - 1` of a descriptor are 0. -/
def zeros (desc : BitVec 512) (lo hi : Nat) : Bool := decide (bitsOf desc.toNat (8 * lo) (8 * (hi - lo)) = 0)

/-- An 8-byte pointer field with bits [63:48] at 0 and an alignment. -/
def ptrOk (desc : BitVec 512) (o al : Nat) : Bool := decide (dfield desc o 0 64 < 2 ^ 48) && decide (dfield desc o 0 64 % al = 0)

/-- ARG0 of a reduction: reserved bits and a pair of formats that Table 10.1 lists (R311). -/
def fmtArg (a : Nat) : Bool := decide (a < 2 ^ 13) && fmtPair (bitsOf a 0 6) (bitsOf a 6 6)

/-- SLOT, DONE_FENCE and DONE_VALUE of an argument block: the first word's width, and the fence's alignment. -/
def blockHead (desc : BitVec 512) (w : Nat) : Bool := decide (dfield desc 8 0 64 < 2 ^ w) && ptrOk desc 16 8

/-- CLUSTER_MASK names present clusters only. -/
def maskOk (e : Env) (m : Nat) : Bool := decide (m < 2 ^ e.clusters)

/-- The fields of a privileged opcode's argument block (R98, R116, R186, R348, R163, R108). Fields of an INVALIDATE that its
scope does not use must be 0; log entry 101. -/
def privOk (e : Env) (x : BitVec 512) (op sub : Nat) : Bool :=
  if op = Op.INVALIDATE then
    let lg := dfield x 40 0 64
    blockHead x 16 && decide (sub < 4) &&
    (if sub = 3 then decide (dfield x 8 9 55 = 0) else if sub = 0 then decide (dfield x 8 12 52 = 0) else true) &&
    (if sub = 2 then
      decide (dfield x 32 0 64 < 2 ^ 44) && decide (dfield x 32 0 64 % 2 ^ 25 = 0) && decide (lg ≠ 0 ∧ lg % 2 ^ 25 = 0) &&
        decide (dfield x 32 0 64 + lg ≤ 2 ^ 44)
     else zeros x 32 48) && zeros x 48 64
  else if op = Op.SLICE_CTL then
    blockHead x 9 && decide (sub < 9) &&
    (if sub = 0 then
      let f := dfield x 32 0 64
      decide (f < 64) && maskOk e (dfield x 40 0 64) && zeros x 48 64 &&
        (decide (bitsOf f 2 1 = 0) || (decide (bitsOf f 0 1 = 1) && e.hasRegion (bitsOf f 3 3))) &&
        (decide (bitsOf f 0 1 = 0) || decide (dfield x 40 0 64 ≠ 0))
     else if sub = 1 then zeros x 32 40 && maskOk e (dfield x 40 0 64) && zeros x 48 64
     else if sub = 2 ∨ sub = 3 then
      let n := dfield x 36 0 32
      decide (n ≠ 0 ∧ n ≤ 18432) && decide (dfield x 32 0 32 + n ≤ 18432) && zeros x 40 64
     else if sub = 5 ∨ sub = 7 then zeros x 36 64
     else if sub = 8 then
      decide (dfield x 32 21 11 = 0) && decide (dfield x 36 6 1 = 0) && decide (dfield x 36 8 24 = 0) &&
        !(decide (dfield x 32 20 1 = 1) && decide (dfield x 36 7 1 = 1)) && zeros x 40 64
     else zeros x 32 64)
  else if op = Op.KEY_CTL then
    blockHead x 6 && decide (dfield x 8 0 6 ≠ 0) && decide (sub < 2) &&
    (if sub = 1 then zeros x 32 64
     else
      let cls := dfield x 32 9 2
      let n := dfield x 44 0 32
      let p := dfield x 40 0 32
      let t := dfield x 48 0 32
      decide (dfield x 32 11 53 = 0) && decide (cls = 1 ∨ cls = 2) && decide (n ≠ 0 ∧ n ≤ 2304) && decide (p + n ≤ 18432) &&
        (if cls = 1 then decide (t + ceilDiv n 16 ≤ 18432) else decide (t = 0)) && zeros x 52 64)
  else if op = Op.MAP_WINDOW then
    blockHead x 12 && decide (sub < 2) &&
    (if sub = 1 then zeros x 32 64
     else decide (dfield x 32 23 9 = 0) && decide (dfield x 32 0 1 = 1) && decide (dfield x 40 45 19 = 0) && decide (dfield x 48 45 19 = 0) &&
        decide (dfield x 56 44 20 = 0) && decide (dfield x 40 0 64 < dfield x 48 0 64) && decide (dfield x 48 0 64 ≤ 2 ^ 44))
  else if op = Op.SCRUB then
    let n := dfield x 12 0 32
    decide (sub = 0) && ptrOk x 16 8 && decide (n ≠ 0 ∧ n ≤ 18432) && decide (dfield x 8 0 32 + n ≤ 18432) &&
      decide (dfield x 32 0 64 < 2) && zeros x 40 64
  else
    decide (sub < 3) && decide (dfield x 8 0 64 < 512) &&
      decide (dfield x 16 0 12 = 0) && zeros x 24 64

/-- The fields of a descriptor by its opcode (Table 2.8). -/
def fieldsOk (e : Env) (x : BitVec 512) (op a0 : Nat) : Bool :=
  let no0 := decide (a0 = 0)
  if op = Op.NOP ∨ op = Op.RETURN ∨ op = Op.YIELD then no0 && zeros x 8 64
  else if op = Op.LAUNCH then
    no0 && ptrOk x 8 1 && ptrOk x 16 1 && decide (dfield x 24 0 32 ≠ 0 ∧ dfield x 28 0 16 ≠ 0 ∧ dfield x 30 0 16 ≠ 0) && zeros x 48 64
  else if op = Op.LAUNCH_INDIRECT then no0 && ptrOk x 8 1 && ptrOk x 16 1 && ptrOk x 24 4 && zeros x 48 64
  else if op = Op.COPY then no0 && ptrOk x 8 1 && ptrOk x 16 1 && decide (dfield x 24 0 64 < 2 ^ 44) && zeros x 32 64
  else if op = Op.FILL then no0 && ptrOk x 8 1 && decide (dfield x 16 0 64 < 2 ^ 44) && zeros x 32 64
  else if op = Op.GATHER ∨ op = Op.SCATTER then no0 && decide (dfield x 20 0 48 % 4 = 0) && decide (dfield x 26 14 2 = 0) && zeros x 32 64
  else if op = Op.REDUCE then fmtArg a0 && ptrOk x 8 1 && ptrOk x 16 1 && decide (dfield x 24 0 64 < 2 ^ 40) && zeros x 32 64
  else if op = Op.REDUCE_SCATTER then fmtArg a0 && decide (dfield x 20 0 48 % 4 = 0) && zeros x 32 64
  else if op = Op.DISPATCH then decide (a0 < 4) && ptrOk x 8 1 && ptrOk x 16 1 && ptrOk x 24 1 && zeros x 32 64
  else if op = Op.COMBINE then fmtArg a0 && ptrOk x 8 1 && ptrOk x 16 1 && ptrOk x 24 1 && zeros x 32 64
  else if op = Op.FENCE_WAIT then no0 && ptrOk x 8 8 && zeros x 28 64
  else if op = Op.FENCE_SIGNAL then no0 && ptrOk x 8 8 && zeros x 24 64
  else if op = Op.TIMESTAMP then no0 && ptrOk x 8 16 && zeros x 16 64
  else if op = Op.COUNTER_SNAP then no0 && ptrOk x 8 8 && zeros x 24 64
  else if op = Op.PRED_SKIP then decide (bitsOf a0 3 5 = 0) && decide (bitsOf a0 0 3 < 5) && ptrOk x 8 8 && zeros x 24 64
  else if op = Op.SELECT then
    decide (a0 < 5) && ptrOk x 8 8 && ptrOk x 24 64 && ptrOk x 32 64 && decide (dfield x 40 0 32 ≤ 65536) &&
      decide (dfield x 44 0 32 ≤ 65536) && zeros x 48 64
  else if op = Op.CALL_LIST then
    no0 && ptrOk x 8 64 && decide (1 ≤ dfield x 16 0 32 ∧ dfield x 16 0 32 ≤ 65536) && zeros x 20 64
  else if op = Op.DEADLINE then
    decide (a0 < 2) && zeros x 32 64 &&
      (decide (a0 = 1) || (ptrOk x 16 64 && decide (dfield x 24 0 32 ≤ 65536) && zeros x 28 32))
  else if op = Op.WATCH then
    decide (bitsOf a0 6 2 = 0 ∧ bitsOf a0 10 6 = 0) && decide (bitsOf a0 8 2 < 3) && ptrOk x 8 1 &&
      (decide (bitsOf a0 8 2 = 0) || decide (dfield x 8 0 64 = 0)) && zeros x 16 64
  else privOk e x op a0

/-- R61: the first failing status of a descriptor, or none. `v3` is the ring's version, `onPriv` that it stands on the
privileged ring, `depth` its list depth. -/
def fetchCheck (e : Env) (v3 onPriv : Bool) (depth : Nat) (x : BitVec 512) : Option Nat :=
  let op := dfield x 0 0 8
  if !(opKnown op) ∨ (!v3 ∧ op > 0x19) ∨
      (onPriv ∧ op < 0x80 ∧ op ≠ Op.NOP ∧ op ≠ Op.FENCE_WAIT ∧ op ≠ Op.FENCE_SIGNAL ∧ op ≠ Op.TIMESTAMP) then some St.BAD_OPCODE
  else if op ≥ 0x80 ∧ (!onPriv ∨ depth ≠ 0) then some St.PRIV
  else if dfield x 1 4 4 ≠ 0 ∨ (dfield x 1 1 1 = 1 ∧ dfield x 1 0 1 = 0) ∨
      (dfield x 1 3 1 = 1 ∧ op ≠ Op.LAUNCH ∧ op ≠ Op.LAUNCH_INDIRECT) ∨ (!v3 ∧ dfield x 4 0 32 ≠ 0) ∨
      (op = Op.DEADLINE ∧ depth ≠ 0) ∨ !(fieldsOk e x op (dfield x 2 0 16)) then some St.BAD_ARG
  else none

end Sys2Proof.Machine
end

