-- ==== Sys2Proof/Machine/Engines.lean ====
section
/-! DEFINITION. What the engines work on: the weighted round robin of DMEs and Sorters (R138), their queues, and the
commands whose contexts hold engine time (R44, R139, R277). -/

namespace Sys2Proof.Machine

/-- Elements of a register that hold something else than its reset value. -/
def Die.listed (d : Die) (r : Reg) : List Nat := ((Tab.get [] d.regs r.ctorIdx).map (fun x => x.1 / 8)).eraseDups

/-- A weight of 0 acts as 1 (R122). -/
def Die.weightS (d : Die) (s : Nat) : Nat := max 1 (d.getF F.TY_SHARE.EFFECTIVE s)
def Die.weightC (d : Die) (c : Nat) : Nat := max 1 (d.getF F.TY_CTX_SHARE.EFFECTIVE c)

/-- The context is being torn down. -/
def Die.tearing (d : Die) (c : Nat) : Bool := d.sf.tears.any (fun t => decide (t.ctx = c))

/-! ### Service in weighted round robin (R138) -/

/-- A started command of an engine may be worked on: its slice is ACTIVE or QUIESCING, and nothing of it is held. -/
def Die.serves (d : Die) (c : Cmd) : Bool :=
  d.ctxValid c.ctx && (d.isKernelCtx c.ctx || decide (d.sliceState (d.ctxSlice c.ctx) = 2 ∨ d.sliceState (d.ctxSlice c.ctx) = 3)) &&
    !(d.tearing c.ctx) && decide (d.ctxState c.ctx ≠ 5) && decide (c.st = .running) && !(d.stu.held.any (fun h => decide (h.cmd = some c.id)))

/-- The group of a context: its slice, or 512 for kernel contexts. -/
def Die.wrrGroup (d : Die) (c : Nat) : Nat := (d.sliceOf c).getD 512
def Die.wrrWeight (d : Die) (g : Nat) : Nat := if g = 512 then 256 else d.weightS g

/-- Command `a` is served by engine `n` before `b`: by the groups' passes, then the contexts', ties to the lower number. -/
def Die.serveBefore (d : Die) (n : Nat) (a b : Cmd) : Bool :=
  let ga := d.wrrGroup a.ctx
  let gb := d.wrrGroup b.ctx
  if ga ≠ gb then
    let p := Tab.get 0 d.eng.wrrS (1024 * n + ga)
    let q := Tab.get 0 d.eng.wrrS (1024 * n + gb)
    if p = q then decide (ga < gb) else decide (p < q)
  else if a.ctx ≠ b.ctx then
    let p := Tab.get 0 d.eng.wrrC (8192 * n + a.ctx)
    let q := Tab.get 0 d.eng.wrrC (8192 * n + b.ctx)
    if p = q then decide (a.ctx < b.ctx) else decide (p < q)
  else false

def insertServe (d : Die) (n : Nat) (c : Cmd) : List Cmd → List Cmd
  | [] => [c]
  | x :: t => if d.serveBefore n c x then c :: x :: t else x :: insertServe d n c t

/-- The commands an engine may work on, in the order in which it serves them. -/
def Die.serveOrder (d : Die) (n : Nat) (l : List Cmd) : List Cmd := (l.filter d.serves).foldl (fun a c => insertServe d n c a) []

/-- One unit of service: the passes of the group and of the context rise by the inverse of their weights. -/
def Die.served (d : Die) (n ctx : Nat) : Die :=
  let g := d.wrrGroup ctx
  { d with eng.wrrS := Tab.set 0 d.eng.wrrS (1024 * n + g) (Tab.get 0 d.eng.wrrS (1024 * n + g) + 2 ^ 24 / d.wrrWeight g),
           eng.wrrC := Tab.set 0 d.eng.wrrC (8192 * n + ctx) (Tab.get 0 d.eng.wrrC (8192 * n + ctx) + 2 ^ 24 / d.weightC ctx) }

/-- A command joins an engine: its group and context begin no further back than those already there. -/
def Die.joins (d : Die) (n ctx : Nat) (there : List Cmd) : Die :=
  let g := d.wrrGroup ctx
  let s := (there.filter (fun c => decide (d.wrrGroup c.ctx ≠ g))).map (fun c => Tab.get 0 d.eng.wrrS (1024 * n + d.wrrGroup c.ctx))
  let k := (there.filter (fun c => decide (d.wrrGroup c.ctx = g ∧ c.ctx ≠ ctx))).map (fun c => Tab.get 0 d.eng.wrrC (8192 * n + c.ctx))
  let up := fun (p : Nat) (l : List Nat) => match l with | [] => p | x :: t => max p (t.foldl min x)
  { d with eng.wrrS := Tab.set 0 d.eng.wrrS (1024 * n + g) (up (Tab.get 0 d.eng.wrrS (1024 * n + g)) s),
           eng.wrrC := Tab.set 0 d.eng.wrrC (8192 * n + ctx) (up (Tab.get 0 d.eng.wrrC (8192 * n + ctx)) k) }

/-! ### Queues -/

/-- Commands placed on DME `n`. -/
def Die.dmeCmds (d : Die) (n : Nat) : List Cmd := (d.eng.jobs.filter (fun j => decide (j.dme = n))).filterMap (fun j => d.cmd j.cmd)

/-- Lead commands of Sorter `n`, in the order in which they came. -/
def Die.leadCmds (d : Die) (n : Nat) : List Cmd := (d.eng.leads.filter (fun j => decide (j.dme = n))).filterMap (fun j => d.cmd j.cmd)

/-- The Sorter that leads a command. -/
def Die.leadOf (d : Die) (id : Nat) : Option Nat := (d.eng.leads.find? (fun j => decide (j.cmd = id))).map (·.dme)

/-- Lead commands that wait in the queue of Sorter `n`: all but the one it runs (R273). -/
def Die.leadsQueued (d : Die) (n : Nat) : List Cmd := (d.leadCmds n).filter (fun c => decide (Tab.get none d.eng.running n ≠ some c.id))

/-- The lead command that Sorter `n` takes next: a restarted one before all others (R301), then by the round robin. -/
def Die.leadNext (d : Die) (n : Nat) : Option Cmd :=
  let l := (d.leadCmds n).filter d.serves
  (l.find? (fun c => c.first)).or (d.serveOrder (64 + n) l).head?

/-- The first item of Sorter `n` by the round robin, with its command. -/
def Die.itemNext (d : Die) (n : Nat) : Option (Nat × Cmd) :=
  let l := d.eng.items.filter (fun x => decide (x.1 = n) && !x.2.2.2)
  (d.serveOrder (64 + n) (l.filterMap (fun x => d.cmd x.2.1))).head?.bind (fun c =>
    (l.find? (fun x => decide (x.2.1 = c.id))).map (fun x => (x.2.2.1, c)))

/-- Sorter `n` takes select items: it has no lead command, or its lead waits for helpers (R275). -/
def Die.takesItems (d : Die) (n : Nat) : Bool :=
  match Tab.get none d.eng.running n with
  | none => (d.leadCmds n).isEmpty || (d.leadNext n).isNone
  | some id => match d.cmd id with
    | some c => decide (c.op = Op.DISPATCH ∧ c.aux = 1)
    | none => true

/-! ### Engine time (R44, R139, R277); log entry 86 -/

/-- The contexts for which DME `n` works: that of a tile held at it, and that of the command it serves. -/
def Die.dmeWorks (d : Die) (n : Nat) : List Nat :=
  let l := d.dmeCmds n
  ((l.filter (fun c => d.stu.held.any (fun h => decide (h.cmd = some c.id)))).map (·.ctx) ++ ((d.serveOrder n l).head?.map (·.ctx)).toList).eraseDups

/-- The contexts for which Sorter `n` works: that of its lead command, and that of an item it runs meanwhile. A command whose Sorter
read is held charges nothing; one whose row is held at a DME goes on. -/
def Die.sorterWorks (d : Die) (n : Nat) : List Nat :=
  let lead := match (Tab.get none d.eng.running n).bind d.cmd with
    | some c =>
      if d.stu.held.any (fun h => decide (h.cmd = some c.id)) && !(d.eng.jobs.any (fun j => decide (j.cmd = c.id))) then none
      else some c.ctx
    | none => none
  let item := if d.takesItems n then (d.itemNext n).map (fun x => x.2.ctx) else none
  (lead.toList ++ item.toList).eraseDups

/-- The context holds the time of a cluster, a DME or a Sorter (Table 2.1). -/
def Die.holdsEngine (d : Die) (c : Nat) : Bool :=
  d.ty.kerns.any (fun k => decide (k.ctx = c) && k.ranks.any (fun r => r.cluster.isSome)) ||
  ((d.eng.jobs.map (·.dme)).eraseDups).any (fun n => (d.dmeWorks n).contains c) || (List.range 8).any (fun n => (d.sorterWorks n).contains c)

end Sys2Proof.Machine
end

