-- ==== Sys2Proof/Machine/Shop.lean ====
section
/-! DEFINITION. What every command shares: slots, records, context states, the teardown of a context (R68, R145), the
gate before a command starts (R65, R71, R142, R143), and how an access of a command waits, ends or faults. -/

namespace Sys2Proof.Machine

/-! ### Commands and slots -/

def Die.setCmd (d : Die) (c : Cmd) : Die := { d with sf.cmds := d.sf.cmds.map (fun x => if x.id = c.id then c else x) }
def Die.ringRt (d : Die) (n : Nat) : RingRt := Tab.get {} d.sf.rings n
def Die.setRingRt (d : Die) (n : Nat) (r : RingRt) : Die := { d with sf.rings := Tab.set {} d.sf.rings n r }
def Die.ctxCmds (d : Die) (c : Nat) : List Cmd := d.sf.cmds.filter (fun x => decide (x.ctx = c))

/-- A slot is taken or freed for a context (R56, R57). -/
def Die.slotAdd (d : Die) (c : Nat) (take : Bool) : Die :=
  let f := d.getF F.SF_STATUS.FREE_SLOTS 0
  let d := d.setF F.SF_STATUS.FREE_SLOTS 0 (if take then f - 1 else f + 1)
  match d.sliceOf c with
  | some s =>
    let u := d.getF F.SF_SLOT_QUOTA.IN_USE s
    d.setF F.SF_SLOT_QUOTA.IN_USE s (if take then u + 1 else u - 1)
  | none => d

/-- A slot can be granted for a ring of the context (R57). -/
def Die.slotFree (d : Die) (c : Nat) : Bool :=
  let f := d.getF F.SF_STATUS.FREE_SLOTS 0
  match d.sliceOf c with
  | none => decide (f ≠ 0)
  | some s =>
    let u := d.getF F.SF_SLOT_QUOTA.IN_USE s
    let owed := ((List.range 512).map (fun t => d.getF F.SF_SLOT_QUOTA.MIN t - d.getF F.SF_SLOT_QUOTA.IN_USE t)).sum
    decide (f ≠ 0) && decide (u < d.getF F.SF_SLOT_QUOTA.MAX s) && (decide (u < d.getF F.SF_SLOT_QUOTA.MIN s) || decide (f > owed))

/-- The command leaves; a ring-level command frees its slot. -/
def Die.dropCmd (d : Die) (c : Cmd) : Die :=
  let d : Die := { d with sf.cmds := d.sf.cmds.filter (fun x => decide (x.id ≠ c.id)) }
  let d := d.forget (.cmd c.id)
  if c.parent.isNone then d.slotAdd c.ctx false else d

/-- The source through which Shopfront acts for a command. -/
def Cmd.src (c : Cmd) : Src :=
  { id := 138, cache := 8, unit := 13, by_ := { ctx := c.ctx, source := 4, index := 0, seq := c.seq, ring := c.ring }, use := .cmd c.id }

/-- The source through which a DME acts for a command. -/
def Cmd.dmeSrc (c : Cmd) (n : Nat) : Src :=
  { id := 64 + n, cache := n / 8, unit := 9, by_ := { ctx := c.ctx, source := 1, index := n, seq := c.seq, ring := c.ring }, use := .cmd c.id }

/-- The source through which a Sorter acts for a command. -/
def Cmd.sorterSrc (c : Cmd) (n : Nat) : Src :=
  { id := 128 + n, cache := n, unit := 8, by_ := { ctx := c.ctx, source := 2, index := n, seq := c.seq, ring := c.ring }, use := .cmd c.id }

/-! ### The state of a context (R44) -/

/-- STATE follows what the context holds and what is pending; FAULTED and ABORTED stay. -/
def Die.ctxPump (d : Die) (c : Nat) : Die :=
  let st := d.ctxState c
  if st = 4 ∨ st = 5 then d
  else if d.holdsEngine c then d.setCtxState c 2
  else if d.ty.kerns.any (fun k => decide (k.ctx = c) && k.ranks.any (fun r => r.yielded)) then d.setCtxState c 3
  else if (d.ctxCmds c).length ≠ 0 ∨ (d.ringsOf c).any (fun n => decide (d.head n ≠ d.tail n)) then d.setCtxState c 1
  else d.setCtxState c 0

/-- STATE of every context that has work in an engine. -/
def Die.enginesPump (d : Die) : Die :=
  (((d.eng.jobs ++ d.eng.leads).filterMap (fun j => (d.cmd j.cmd).map (·.ctx)) ++
    d.eng.items.filterMap (fun x => (d.cmd x.2.1).map (·.ctx))).eraseDups).foldl Die.ctxPump d

/-! ### Releasing a cluster (R126, R129, R136) -/

def Die.clRt (d : Die) (k : Nat) : ClRt := Tab.get {} d.ty.clusters k
def Die.setClRt (d : Die) (k : Nat) (x : ClRt) : Die := { d with ty.clusters := Tab.set {} d.ty.clusters k x }
def Die.clState (d : Die) (k : Nat) : Nat := d.getF F.TY_CLUSTER.STATE k
def Die.lent (d : Die) (k : Nat) : Bool := d.bit F.TY_CLUSTER.LENT k

/-- LENT of a cluster, and its owner's count of lent clusters. -/
def Die.setLent (d : Die) (k : Nat) (v : Bool) : Die :=
  if d.lent k = v then d
  else
    let d := d.setF F.TY_CLUSTER.LENT k (Bool.num v)
    match d.ownerOf k with
    | some s => d.setF F.TY_SLICE_STAT.LENT s (d.getF F.TY_SLICE_STAT.LENT s + (if v then 1 else 127))
    | none => d

/-- Clusters claimed for a slice have all come free, or are claimed no more: CLUSTERS_PENDING clears (R85). -/
def Die.claimsDone (d : Die) : Die :=
  ((List.range 512).filter (fun s => d.bit F.SM_SLICE.CLUSTERS_PENDING s)).foldl (fun d s =>
    if (d.sm.claims.filter (fun x => decide (x.2 = s))).all (fun x => decide (d.clState x.1 = 0 ∨ d.clState x.1 = 4)) then
      { d.setF F.SM_SLICE.CLUSTERS_PENDING s 0 with sm.claims := d.sm.claims.filter (fun x => decide (x.2 ≠ s)) }
    else d) d

/-- Tally releases a cluster (R126, R136): `kept` is the context that keeps it across its own commands (R128), `back`
says that a lent cluster goes back to its owner (R134, R135). -/
def Die.freeCluster (e : Env) (d : Die) (k : Nat) (kept : Option Nat) (back : Bool) : Die :=
  let rt := d.clRt k
  let c := d.getF F.TY_CLUSTER.CONTEXT k
  let mine := decide ((d.ownerOf k).isSome ∧ d.ownerOf k = d.sliceOf c)
  let d := if d.clState k = 4 then d else ((d.setF F.TY_CLUSTER.STATE k 0).setF F.TY_CLUSTER.CONTEXT k 0).setF F.TY_CLUSTER.SLICE k 0
  let d := d.setClRt k { rt with idle := if mine then e.now else rt.idle, order := none, kept := kept, recalled := false }
  (if back ∨ rt.recalled then d.setLent k false else d).claimsDone

/-- The rank runs on its cluster: it holds it and has reported neither END nor YIELDED. -/
def Rank.runs (r : Rank) : Bool := r.cluster.isSome && !r.ended && !r.yielded

/-! ### Teardown (R145) -/

/-- Abandon orders to every cluster that runs the kernel; a cluster whose rank has ended or stands at a yield mark is released at
once, and a kernel on no cluster ends (R145 step 2). -/
def Die.abandonKern (e : Env) (d : Die) (k : Kern) : Die :=
  let d := k.ranks.foldl (fun d r =>
    match r.cluster with
    | some c =>
      if !r.runs then d.freeCluster e c none true
      else if d.getF F.TY_CLUSTER.STATE c = 3 then d
      else
        let rt := Tab.get {} d.ty.clusters c
        let d : Die := { d with ty.clusters := Tab.set {} d.ty.clusters c { rt with order := some e.now } }
        (d.setF F.TY_CLUSTER.STATE c 3).send (.kAbandon c k.kid)
    | none => d) d
  if k.ranks.any Rank.runs then
    let ranks := k.ranks.map (fun r : Rank => if r.runs then r else { r with cluster := none })
    { d with ty.kerns := d.ty.kerns.map (fun x => if x.kid = k.kid then { x with ranks := ranks, aband := true, req := none } else x) }
  else { d with ty.kerns := d.ty.kerns.filter (fun x => decide (x.kid ≠ k.kid)) }

/-- A request writes: a tile of it has one final response for all its lines (R467). -/
def HomeOp.writes (o : HomeOp) : Bool := decide (o = .writeFull ∨ o = .writeMask ∨ o = .reduce)

/-- A request of a cluster ends with a code of RSP (R467); the lines of a tile store answer together, with the first
code that is not COMP. -/
def Die.endReq (d : Die) (q : Req) (code : Nat) : Die :=
  let d := (d.dropReq q.rid).forget (.req q.rid)
  let same := fun (x : Req) => decide (x.who = q.who ∧ x.tag = q.tag) && x.op.writes && x.tile
  if q.who ≥ 64 ∨ q.op = .pf ∨ d.fenced q.who then d
  else if q.tile ∧ q.op.writes then
    let c := if q.rcode ≠ 0 then q.rcode else code
    if d.coh.reqs.any same then { d with coh.reqs := d.coh.reqs.map (fun x => if same x then { x with rcode := c } else x) }
    else d.send (.rsp q.who q.tag c q.beat)
  else d.send (.rsp q.who q.tag code q.beat)

/-- Requests of a context that no home has accepted are dropped: the cluster is answered DROPPED, a window packet not
yet sent is dropped, and responses to those sent will be discarded (R145 step 4, R196). -/
def Die.dropRequests (d : Die) (c : Nat) : Die :=
  let isOurs : WinReq → Bool := fun q => decide (q.ctx = c)
  let d : Die := { d with we.queue := d.we.queue.filter (fun q => !isOurs q),
                          we.trks := d.we.trks.map (fun t => if isOurs t.req then { t with dead := true } else t) }
  let out := fun (q : Req) => decide (q.op = .wb) || q.tracker.isSome || d.we.trks.any (fun t => decide (t.req.use = .req q.rid))
  let gone := d.coh.reqs.filter (fun q => decide (q.ctx = some c) && !(out q))
  let d := gone.foldl (fun d q => match d.req q.rid with | some q => d.endReq q 4 | none => d) d
  { d with coh.reqs := d.coh.reqs.map (fun q => if q.ctx = some c then { q with drop := true } else q) }

/-- The epoch of a context advances, and its translations leave every cache (R163 steps 1 and 2). -/
def Die.newEpoch (d : Die) (c : Nat) (drop : Xl → Bool) : Die :=
  { d.incWrap F.STU_EPOCH.EPOCH c 1 with stu.caches := d.stu.caches.filter (fun x => !(decide (x.ctx = c) && drop x)) }

/-- A DME or Sorter stops working for a command; `stopped` says that the command did not end by itself (R303). -/
def Die.unplace (d : Die) (id : Nat) (stopped : Bool) : Die :=
  let d := match (d.eng.leads ++ d.eng.away).find? (fun j => decide (j.cmd = id)) with
    | some j => if stopped then d.incSat F.SO_COUNT.CANCELS j.dme 1 else d
    | none => d
  { d with eng.jobs := d.eng.jobs.filter (fun j => decide (j.cmd ≠ id)), eng.leads := d.eng.leads.filter (fun j => decide (j.cmd ≠ id)),
           eng.away := d.eng.away.filter (fun j => decide (j.cmd ≠ id)),
           eng.items := d.eng.items.filter (fun x => decide (x.2.1 ≠ id)), eng.parity := d.eng.parity.filter (· ≠ id),
           eng.running := d.eng.running.filter (fun x => decide (x.2 ≠ some id)) }

/-- Held accesses and stalls of a context end. -/
def Die.unhold (d : Die) (c : Nat) : Die :=
  { d.setF F.STU_EPOCH.HELD c 0 with
      stu.held := d.stu.held.filter (fun h => decide (h.ctx ≠ c)),
      stu.stalled := d.stu.stalled.map (fun y => if y.frec.ctx = c then { y with held := none } else y) }

/-- Steps 1 to 3 of R145: the context is halted, its kernels abandoned, its engines stopped, its translations
dropped, and its requests not yet accepted are dropped. A further error in the same context changes nothing (R147). -/
def Die.teardown (e : Env) (d : Die) (c status : Nat) (failed : Option Nat) (named : Option (Nat × Nat)) (secur : Bool) : Die :=
  if d.tearing c ∨ d.ctxState c = 5 then d
  else
    let dead := (d.ctxCmds c).filter (fun x => !x.started && decide (x.st ≠ .done) && decide (failed ≠ some x.id))
    let d : Die := { d with sf.tears := d.sf.tears ++
      [{ ctx := c, status := status, secur := secur, failed := failed, named := named, had := (dead.map (·.ring)).eraseDups }] }
    let d := dead.foldl Die.dropCmd d
    let d := (d.ty.kerns.filter (fun k => decide (k.ctx = c))).foldl (Die.abandonKern e) d
    let d := ((d.ctxCmds c).foldl (fun d x => d.unplace x.id true) d).enginesPump
    let d := (d.unhold c).newEpoch c (fun _ => true)
    let d : Die := { d with ty.clusters := d.ty.clusters.map (fun x => if x.2.kept = some c then (x.1, { x.2 with kept := none }) else x) }
    d.dropRequests c

/-- Nothing of the context is in flight: no cluster runs its kernels, no home, window or host read holds its requests. -/
def Die.ctxIdle (d : Die) (c : Nat) : Bool :=
  !(d.ty.kerns.any (fun k => decide (k.ctx = c) && k.ranks.any (fun r => r.cluster.isSome))) &&
  !(d.coh.reqs.any (fun q => decide (q.ctx = some c))) && !(d.we.trks.any (fun t => decide (t.req.ctx = c))) &&
  !(d.bt.reads.any (fun r => decide (d.useCtx r.2.2.2.2 = some c)))

/-- A command has failed with a status: its context is torn down (R68). -/
def Die.cmdFail (e : Env) (d : Die) (c : Cmd) (status : Nat) (secur : Bool) : Die :=
  if d.tearing c.ctx then d.setCmd { c with st := .done, status := status }
  else (d.setCmd { c with status := status }).teardown e c.ctx status (some c.id) none secur

/-- A translation fault of an access (R167): under ABORT the context is torn down, under REPLAY the access is held. A context that
stalls keeps its state until its record has an entry (R172). -/
def Die.faulted (e : Env) (d : Die) (r : FRec) (cmd rid : Option Nat) : Die :=
  if d.getF F.SF_CTX_CFG.FAULT_POLICY r.ctx = 1 then
    d.frecord e { r with held := true } (some { ctx := r.ctx, cmd := cmd, rid := rid })
  else
    let d := d.frecord e { r with held := false }
    match cmd.bind d.cmd with
    | some c => d.cmdFail e c St.TRANSLATION false
    | none => d.teardown e r.ctx St.TRANSLATION none none false

/-! ### Records (R67) -/

/-- The 16 bytes of a completion record (Table 2.9). -/
def recordBytes (lg seq status op depth result : Nat) : List Byte :=
  bytesLE 4 seq ++ bytesLE 2 status ++ bytesLE 1 op ++ bytesLE 1 ((1 - bitsOf seq lg 1) + 2 * depth) ++ bytesLE 8 result

/-- Shopfront's own accesses to a ring, a completion ring or an error word at a device address (R47, R105). -/
def ctxPage (c a : Nat) (named : Bool) : Act Unit := do
  let e ← read
  let d ← get
  let p := pageOf a
  let ok := d.present e p && (match d.sliceOf c with | none => decide (d.pageState p = 4) | some s => d.ownedBy p s)
  if !ok then
    upd (fun e d => d.potFail e a 13 0 138 (if named then some c else none) (d.sliceOf c))
    throw (.status St.ISOLATION)

/-- Bytes written for a context at a device or host address. -/
def ctxWrite (c : Nat) (dev : Bool) (a : Nat) (b : List Byte) (use : Use) (named : Bool) : Act Unit := do
  if dev then
    ctxPage c a named
    physWrite a b (hubAsk (if named then some c else none) use)
  else upd (fun e d => d.hostWrite e (d.hostId c) a b)

/-- A completion record. -/
def writeRecord (c : Cmd) (status result : Nat) (use : Use) : Act Unit := do
  let d ← get
  let lg := d.getF F.SF_RING_CTL.LOG2_SIZE c.ring
  let a := 4096 * d.getF F.SF_RING_CPL.ADDR c.ring + 16 * (c.seq % 2 ^ lg)
  ctxWrite c.ctx (d.bit F.SF_RING_CPL.LOC c.ring) a (recordBytes lg c.seq status c.op c.depth result) use true
  modify (fun d => d.count 3862 1)

/-- The ring's MSI-X message. -/
def Die.ringIrq (e : Env) (d : Die) (n : Nat) : Die :=
  d.msix e (d.hostId (d.getF F.SF_RING_CTL.CONTEXT n)) (d.getF F.SF_RING_CTL.MSIX_VECTOR n)

/-! ### The gate (R65, R71, R142, R143) -/

/-- The command may start under the order of its ring or list. -/
def Die.inOrder (d : Die) (c : Cmd) : Bool :=
  match c.parent with
  | some p => !(d.sf.cmds.any (fun x => decide (x.parent = some p ∧ x.id < c.id)))
  | none =>
    let before := d.sf.cmds.filter (fun x => decide (x.ring = c.ring ∧ x.parent = none ∧ x.id < c.id))
    if !(honours c.op) then before.isEmpty
    else match before.getLast? with
      | none => true
      | some x =>
        if x.seq ≠ (c.seq + 2 ^ 32 - 1) % 2 ^ 32 then true
        else c.overlap && honours x.op && x.started

/-- The slack of an armed ring is predicted, and a negative one sets SWITCH_PENDING (R142, R143). -/
def Die.monitorRing (e : Env) (d : Die) (n : Nat) : Die :=
  let r := d.ringRt n
  if !(d.bit F.TY_RING_DL.ARMED n) ∨ d.bit F.TY_RING_DL.SWITCH_PENDING n ∨ d.bit F.TY_RING_DL.BYPASSING n ∨ r.took then d
  else
    let p := match r.est with | some (s, us) => max e.now (s + us * 1000) | none => e.now
    if r.dlNs < p then
      let d := (d.setF F.TY_RING_DL.SWITCH_PENDING n 1).incSat F.TY_STATUS.FALLBACKS 0 1
      match d.sliceOf (d.getF F.SF_RING_CTL.CONTEXT n) with
      | some s => d.incSat F.TY_SLICE_STAT.FALLBACKS s 1
      | none => d
    else d

/-- What the gate answers. -/
inductive Gate where
  | no
  | skip
  | bypass
  | fallback
  | go
  deriving DecidableEq, Repr

/-- Whether the command may start now, and how. -/
def Die.gate (d : Die) (c : Cmd) : Gate :=
  if !(d.runs c.ctx) ∨ d.tearing c.ctx ∨ d.ctxState c.ctx = 5 ∨ c.st ≠ .fetched ∨ c.started ∨ !(d.inOrder c) then .no
  else
    let sk := match c.parent with
      | some p => ((d.cmd p).map (·.skip)).getD 0
      | none => (d.ringRt c.ring).skip
    if sk ≠ 0 then .skip
    else if c.parent.isSome ∨ c.op = Op.DEADLINE then .go
    else if d.bit F.TY_RING_DL.BYPASSING c.ring then .bypass
    else if d.bit F.TY_RING_DL.SWITCH_PENDING c.ring then .fallback
    else .go

/-- The command ends without running: SKIPPED or BYPASSED. -/
def Die.endUnrun (d : Die) (c : Cmd) (status : Nat) : Die := d.setCmd { c with st := .done, status := status, result := 0 }

/-- One of the skips that stand before the command is used up. -/
def Die.useSkip (d : Die) (c : Cmd) : Die :=
  match c.parent with
  | some p =>
    match d.cmd p with
    | some x => d.setCmd { x with skip := x.skip - 1 }
    | none => d
  | none => let r := d.ringRt c.ring; d.setRingRt c.ring { r with skip := r.skip - 1 }

/-- The command starts: its place in the order of starts, and the monitor's view of it. -/
def Die.begin (e : Env) (d : Die) (c : Cmd) : Die :=
  let d := d.setCmd { c with st := .running, order := d.nid, start := e.now }
  let d := d.named
  if c.parent.isNone ∧ c.est ≠ 0 ∧ d.bit F.TY_RING_DL.ARMED c.ring then
    let r := d.ringRt c.ring
    (d.setRingRt c.ring { r with est := some (e.now, c.est) }).monitorRing e c.ring
  else d

/-- The command's work is done. -/
def Die.finish (d : Die) (id status result : Nat) : Die :=
  match d.cmd id with
  | some c => d.setCmd { c with st := .done, status := status, result := result }
  | none => d

/-- Take the pending switch: the command ends BYPASSED, its record is written where CPL asks for it, and the fallback
list runs in its place (R143). -/
def Die.takeFallback (e : Env) (d : Die) (c : Cmd) : Die :=
  let r := d.ringRt c.ring
  let go := fun (d : Die) =>
    let d := ((d.setF F.TY_RING_DL.SWITCH_PENDING c.ring 0).setF F.TY_RING_DL.BYPASSING c.ring 1).setRingRt c.ring { r with took := true }
    let d := (d.setCmd { c with st := .running, order := d.nid, start := e.now, bypass := true, status := St.BYPASSED, list := r.fb,
                                count := r.fbCount, closed := decide (r.fbCount = 0) }).named
    if r.fbCount = 0 then d.finish c.id St.BYPASSED 0 else d
  if c.cpl then
    match attempt e d (.cmd c.id) (writeRecord c St.BYPASSED 0 (.cmd c.id)) with
    | .ok _ d => go (if c.irq then d.ringIrq e c.ring else d)
    | .wait d => d
    | .stop s x d => d.teardown e c.ctx s none (some (c.ring, d.head c.ring)) x
    | .fault _ d => d
  else go d

/-- A row that starts a command of an opcode: where the gate lets it, the command begins and `body` runs it on. -/
def Die.start (e : Env) (d : Die) (id op : Nat) (sub : Cmd → Bool) (body : Cmd → Die → Die) : Die :=
  match d.cmd id with
  | none => d
  | some c =>
    if c.op ≠ op ∨ !(sub c) then d
    else if c.st = .running ∧ c.started ∧ !c.bypass then body c d
    else match d.gate c with
      | .no => d
      | .skip => (d.useSkip c).endUnrun c St.SKIPPED
      | .bypass => d.endUnrun c St.BYPASSED
      | .fallback => d.takeFallback e c
      | .go =>
        let d := d.begin e c
        match d.cmd id with
        | some c => (body c d).ctxPump c.ctx
        | none => d

/-- The accesses of a running command by Shopfront: they answer, wait, end it or fault. -/
def Die.runAct {α : Type} (e : Env) (d : Die) (c : Cmd) (a : Act α) (k : α → Die → Die) : Die :=
  if d.tearing c.ctx ∨ d.stu.held.any (fun h => decide (h.cmd = some c.id)) then d
  else match attempt e d (.cmd c.id) a with
    | .ok x d => k x d
    | .wait d => d
    | .stop s x d => d.cmdFail e c s x
    | .fault r d => d.faulted e r (some c.id) none

/-- A command that is one access: its answer is its RESULT. -/
def Die.oneAct (e : Env) (d : Die) (c : Cmd) (a : Act Nat) : Die := d.runAct e c a (fun x d => d.finish c.id St.OK x)

/-! ### Fences signalled when an operation finishes (R97, R513) -/

/-- The fence signal of R73 by a context through its pointer: the word before. -/
def fenceSignal (s : Src) (p value : Nat) (local_ : Bool) : Act Nat := do
  let x ← translate s Ac.fsig p 0 8 false (fun g => !local_ || decide (g.typ = 0))
  countAccess s Ac.fsig x
  let d ← get
  let c := s.by_.ctx
  if x.typ = 0 then
    match x.pieces with
    | y :: _ =>
      let r ← signalAt (y.1 / 128) (y.1 % 128) value (s.ask x.attr)
      if r.2 then
        upd (fun e d =>
          let d := (d.incSat F.SF_CTX_STATUS.FENCE_REGRESS c 1).count 62 1
          if d.bit F.SF_CTX_CFG.DIAG c then
            d.frecord e { typ := 3, ctx := c, source := s.by_.source, acc := Ac.fsig, index := s.by_.index, ptr := p, seq := s.by_.seq,
                          ring := s.by_.ring, time := e.now, d0 := value, d1 := r.1 }
          else d)
      pure r.1
    | [] => pure 0
  else
    let b ← winFetch { s.winReq d x 7 x.off with payload := bytesLE 8 value }
    pure (numLE b)

/-- DONE_FENCE of an operation of a kernel context: where the signal fails, that context is torn down (R513). The answer
says whether the signal has been dealt with. -/
def Die.doneFence (e : Env) (d : Die) (ctx ring seq p value : Nat) (use : Use) : Bool × Die :=
  if p = 0 ∨ d.tearing ctx ∨ d.ctxState ctx = 5 then (true, d)
  else
    let s : Src := { id := 138, cache := 8, unit := 13, by_ := { ctx := ctx, source := 4, index := 0, seq := seq, ring := ring }, use := use }
    match attempt e d use (fenceSignal s p value true) with
    | .ok _ d => (true, d)
    | .wait d => (false, d)
    | .stop c x d => (true, d.teardown e ctx c none (some (ring, seq)) x)
    | .fault _ d => (true, d.teardown e ctx St.TRANSLATION none (some (ring, seq)) false)

/-- Every fence whose operation has finished, and whose command has completed with its record, is signalled; one whose access waits
stays. -/
def Die.fencesGo (e : Env) (d : Die) : Die :=
  (d.sm.fences.filter (fun f => f.ready && f.pages.isEmpty && (d.cmd f.cmd).isNone)).foldl (fun d f =>
    let r := d.doneFence e f.ctx f.ring f.seq f.ptr f.val (.cmd f.cmd)
    if r.1 then { r.2 with sm.fences := r.2.sm.fences.filter (fun x => decide (x ≠ f)) } else r.2) d

end Sys2Proof.Machine
end

