-- ==== Sys2Proof/Machine/Bar0.lean ====
section
/-! DEFINITION. Who may write which register of BAR0, and what becomes of a write that may not (R5, R8, R439, R504 to
R507). -/

namespace Sys2Proof.Machine

/-- The element belongs to a region that is present (R5); a register that is no regional one always does. -/
def Env.hasElem (e : Env) (d : Die) (r : Reg) (i : Nat) : Bool :=
  match r with
  | .TY_CLUSTER | .LC_SLICE_STATUS | .CR_OPS | .CR_EXC | .CR_MX => decide (i / 8 < e.regions)
  | .LC_OCC => decide (i / 64 / 8 < e.regions)
  | .MC_CFG | .MC_STATUS | .MC_TEMP | .MC_ERR | .MC_UE_STATUS | .MC_PATROL | .MC_PATROL_POS | .SO_CFG | .SO_STATUS | .SO_COUNT
  | .SO_BUSY | .SO_ERR => decide (i < e.regions)
  | .MC_UE_LOG => decide (i / 16 < e.regions)
  | .MC_SBW => decide (i / 512 < e.regions)
  | .ST_REGION_CTL | .ST_REGION_STATUS | .ST_PWR_DOM => decide (i < e.regions ∨ i = 8)
  | .SM_POT | .STU_ACNT => d.present e i
  | _ => true

/-- Registers whose writes Table 18.1 keeps for Steward. -/
def stewardOnly : Reg → Bool
  | .SM_POT_SET | .AY_INJECT | .AY_INJECT_ADDR | .AY_WDOG | .CH_TIME_LOAD | .TS_LC_REQ | .TS_SVN_ADVANCE | .TS_KEY_REVOKE
  | .TS_KEX_CTL | .TS_KEX_BUF | .ST_SEAL | .ST_RETRAIN | .ST_PWR_RLIMIT | .ST_PWR_LIMIT => true
  | _ => false

/-- Registers that lock at firmware seal (R507). -/
def isRwl : Reg → Bool
  | .SF_PRIV_RING | .ST_DIE_ID | .SE_SLOT0 => true
  | _ => false

/-- PHASE of the start-up. -/
def Die.phase (d : Die) : Nat := d.getF F.ST_BOOT.PHASE 0

/-- A host request is answered with a completer abort (R505, R439). -/
def Die.abortHost (d : Die) : Die := d.count 3829 1

/-- A write of `who` to element `i` of a register: none where it may act, else the die after it has been turned away. -/
def Die.barGate (e : Env) (d : Die) (who : Who) (r : Reg) (i : Nat) : Option Die :=
  let host : Option Die :=
    match who with
    | .pf =>
      if d.phase < 3 then some d.abortHost
      else if d.phase < 5 ∧ r ≠ .ST_MBOX_CTL ∧ r ≠ .ST_RESET then some (d.incSat F.ST_MBOX_STATUS.REJECT 0 1)
      else none
    | .pasid _ | .vf _ =>
      if d.resolve who = .unbound then some ((d.incSat F.SM_STATUS.PASID_MISS 0 1).abortHost) else some d.abortHost
    | .steward | .tap => none
    | .bmc => if r = .ST_PWR_LIMIT then none else some d.badAccess
  match host with
  | some d' => some d'
  | none =>
    if !(e.hasElem d r i) then some d
    else if stewardOnly r ∧ who ≠ .steward ∧ !(who = .tap ∧ (r = .AY_INJECT ∨ r = .AY_INJECT_ADDR ∨ r = .TS_LC_REQ)) ∧
        !(who = .bmc) then some d.badAccess
    else if !(r.writable) then some d.badAccess
    else if isRwl r ∧ (e.fwSeal ∨ who ≠ .steward) then some d
    else none

/-- A write that the gate of SM_POT_SET or CH_TIME_LOAD turned away with `d'`: every write that is not taken counts in the unit's
CFG_REJECT (R121, R431), unless it was aborted at the host port. -/
def Die.gateReject (d : Die) (who : Who) (d' : Die) (f : Fld) (i : Nat) : Die :=
  if (who = .pf ∧ d.phase ≥ 3) ∨ who = .tap ∨ who = .bmc then d'.reject f i else d'

/-- A write to a register whose gate it passes. -/
def Die.barWrite (e : Env) (d : Die) (who : Who) (r : Reg) (i : Nat) (act : Die → Die) : Die :=
  match d.barGate e who r i with
  | some d' => d'
  | none => act d

/-- The register's word after a plain write of its fields (R10); a W1C bit that an event of this cycle has set stays (R11). -/
def Die.putWord (e : Env) (d : Die) (r : Reg) (i wd : Nat) (v : Word) : Die :=
  d.setReg r i wd (r.writeWord wd e.fwSeal (d.reg r i wd) v (d.offered r i wd v))

end Sys2Proof.Machine
end

