-- ==== Sys2Proof/Machine/Tally.lean ====
section
/-! DEFINITION. Tally: who is offered a cluster and on which set a kernel runs (R122 to R128, R515), yield requests,
lending and claims (R85, R129 to R135), the disable of a slice (R109 to R111), and a cluster declared dead (R21, R87). -/

namespace Sys2Proof.Machine

/-! ### Weights, passes and settings in force -/

def Die.passS (d : Die) (s : Nat) : Nat := (Tab.get (0, 0) d.ty.passS s).1
def Die.passC (d : Die) (c : Nat) : Nat := (Tab.get (0, 0) d.ty.passC c).1

/-- Pass `a` is behind pass `b`: the signed 64-bit difference (R123). -/
def passLt (a b : Nat) : Bool := decide (signed64 (a + 2 ^ 64 - b % 2 ^ 64) < 0)

/-- QUANTUM_US in ns, the yield grace in ns and LEND_IDLE_US in ns, as TY_CFG is in force (Table 4.1, R148). -/
def Die.quantumNs (d : Die) : Nat := 1000 * max 50 (bitsOf d.ty.cfg.toNat 0 16)
def Die.graceNs (d : Die) : Nat := max 1 (bitsOf d.ty.cfg.toNat 16 8) * d.quantumNs
def Die.lendNs (d : Die) : Nat := 1000 * max 1 (bitsOf d.ty.cfg.toNat 32 16)
def Die.lendOn (d : Die) : Bool := decide (bitsOf d.ty.cfg.toNat 48 1 = 1)

/-- The clusters a command's mask may name (R62), in ascending order. -/
def Die.heldClusters (e : Env) (d : Die) (c : Nat) : List Nat :=
  (List.range 64).filter (fun k =>
    match d.sliceOf c with
    | none => d.pooled e k
    | some s =>
      let m := d.reg .SM_SLICE_CLUSTERS s 0
      if d.bit F.SM_SLICE.KIND s then d.live e k && m.getLsbD k
      else d.pooled e k && (decide (m = 0) || m.getLsbD k))

/-- The named clusters of a launch: none where its mask is 0. -/
def Die.namedClusters (e : Env) (d : Die) (c : Cmd) : Option (List Nat) :=
  let m := c.q 40
  if m = 0 then none
  else some (((d.heldClusters e c.ctx).zipIdx).filterMap (fun x => if bitsOf m x.2 1 = 1 then some x.1 else none))

/-! ### Kernels and clusters -/

def Die.kernAt (d : Die) (k : Nat) : Option Kern := d.ty.kerns.find? (fun x => x.ranks.any (fun r => decide (r.cluster = some k)))
/-- The kernel that a rank runs on a cluster: from its START until the cluster has sent END, YIELDED or ABANDON_ACK (R464). -/
def Die.kernOn (d : Die) (k : Nat) : Option Kern :=
  (d.kernAt k).bind (fun x => if x.ranks.any (fun r => decide (r.cluster = some k) && r.runs) then some x else none)
def Die.setKern (d : Die) (x : Kern) : Die := { d with ty.kerns := d.ty.kerns.map (fun y => if y.kid = x.kid then x else y) }
def Die.dropKern (d : Die) (kid : Nat) : Die := { d with ty.kerns := d.ty.kerns.filter (fun y => decide (y.kid ≠ kid)) }

/-- The kernel runs on clusters. -/
def Kern.placed (x : Kern) : Bool := x.ranks.any (fun r => r.cluster.isSome)
def Kern.clusters (x : Kern) : List Nat := x.ranks.filterMap (·.cluster)
/-- Every rank has ended. -/
def Kern.over_ (x : Kern) : Bool := x.ranks.all (·.ended)
/-- Ranks that have still to run. -/
def Kern.left (x : Kern) : List Rank := x.ranks.filter (fun r => !r.ended)

/-- The kernel was launched with the YIELD bit. -/
def Die.kernYields (d : Die) (x : Kern) : Bool := ((d.cmd x.cmd).map (·.yields)).getD false

/-- The context that keeps a free cluster between its commands, while its quantum runs (R128). -/
def Die.keptBy (e : Env) (d : Die) (k : Nat) : Option Nat :=
  match (d.clRt k).kept with
  | some c => if e.now < (d.clRt k).quantum ∧ d.runs c ∧ (d.ctxState c = 1 ∨ d.ctxState c = 2 ∨ d.ctxState c = 3) then some c else none
  | none => none

/-! ### What waits for clusters (R126) -/

/-- A ready command, or a yielded kernel that awaits its resumption. -/
structure Job where
  ctx   : Nat
  slice : Option Nat
  cmd   : Cmd
  kern  : Option Kern
  deriving DecidableEq, Repr

/-- The context may be offered clusters (the conditions of eligibility that name the slice and the context). -/
def Die.offerable (d : Die) (c : Nat) : Bool :=
  d.runs c && !(d.tearing c) && decide (d.ctxState c = 1 ∨ d.ctxState c = 2 ∨ d.ctxState c = 3)

/-- Every eligible job. -/
def Die.jobs (d : Die) : List Job :=
  (d.ty.kerns.filterMap (fun x =>
    if !x.placed && !x.aband && d.offerable x.ctx then
      (d.cmd x.cmd).map (fun c => { ctx := x.ctx, slice := d.sliceOf x.ctx, cmd := c, kern := some x })
    else none)) ++
  (d.sf.cmds.filterMap (fun c =>
    if c.st = .ready ∧ d.offerable c.ctx then some { ctx := c.ctx, slice := d.sliceOf c.ctx, cmd := c, kern := none } else none))

/-- A cluster claimed for its new owner is not run on yet (R85). -/
def Die.claimed (d : Die) (k : Nat) : Bool := d.sm.claims.any (fun x => decide (x.1 = k))

/-- The job may run on the cluster: the owner's clusters, pool clusters under the mask, and lent clusters for a pooled
slice of mask 0 whose kernel has yield marks (R83, R131, R134, R515). -/
def Die.runsOn (e : Env) (d : Die) (j : Job) (k : Nat) : Bool :=
  d.live e k &&
  match d.ownerOf k, j.slice with
  | none, none => true
  | none, some s =>
    let m := d.reg .SM_SLICE_CLUSTERS s 0
    !(d.bit F.SM_SLICE.KIND s) && (decide (m = 0) || m.getLsbD k)
  | some _, none => false
  | some o, some s =>
    (decide (o = s) && !(d.claimed k)) ||
    (d.lent k && !(d.clRt k).recalled && !(d.bit F.SM_SLICE.KIND s) && decide (d.reg .SM_SLICE_CLUSTERS s 0 = 0) && j.cmd.yields)

/-- The cluster is free to the job. One promised to a context (R130) is withheld from others while that context has a job for it. -/
def Die.freeFor (e : Env) (d : Die) (j : Job) (k : Nat) : Bool :=
  decide (d.clState k = 0) && d.runsOn e j k &&
  (match d.keptBy e k with | some c => decide (c = j.ctx) | none => true) &&
  (match (d.clRt k).promised with
   | some c => decide (c = j.ctx) || !(d.jobs.any (fun x => decide (x.ctx = c) && d.runsOn e x k))
   | none => true)

/-- 0 the owner's contexts, 1 kernel contexts, 2 pooled slices. -/
def Die.group (d : Die) (k : Nat) (slice : Option Nat) : Nat :=
  match slice with
  | none => 1
  | some s => if d.ownerOf k = some s then 0 else 2

/-- Cluster `k` is offered to context `c` (of `s`) ahead of `c'` (of `s'`): R126 steps 1 to 3, R515. -/
def Die.ahead (d : Die) (k : Nat) (s : Option Nat) (c : Nat) (s' : Option Nat) (c' : Nat) : Bool :=
  let g := d.group k s
  let g' := d.group k s'
  if g ≠ g' then decide (g < g')
  else if s ≠ s' then
    let p := d.passS (s.getD 0)
    let p' := d.passS (s'.getD 0)
    if p = p' then decide (s.getD 0 < s'.getD 0) else passLt p p'
  else if c ≠ c' then
    if d.passC c = d.passC c' then decide (c < c') else passLt (d.passC c) (d.passC c')
  else false

/-- R126 in full: within one context a resumption comes first, then its rings in round robin. -/
def Die.jobBefore (d : Die) (k : Nat) (a b : Job) : Bool :=
  if a.ctx ≠ b.ctx then d.ahead k a.slice a.ctx b.slice b.ctx
  else if a.kern.isSome ≠ b.kern.isSome then a.kern.isSome
  else
    let l := Tab.get 8191 d.ty.lastRing a.ctx
    let x := (a.cmd.ring + 8191 - l) % 8192
    let y := (b.cmd.ring + 8191 - l) % 8192
    if x = y then decide (a.cmd.id < b.cmd.id) else decide (x < y)

/-- Insert a job in its place. -/
def insertJob (d : Die) (k : Nat) (j : Job) : List Job → List Job
  | [] => [j]
  | x :: t => if d.jobBefore k j x then j :: x :: t else x :: insertJob d k j t

/-- The jobs that may run on a cluster, in the order in which it is offered. -/
def Die.offers (e : Env) (d : Die) (k : Nat) : List Job :=
  (d.jobs.filter (fun j => d.runsOn e j k)).foldl (fun l j => insertJob d k j l) []

/-! ### Sets of clusters (R127) -/

/-- The clusters a pooled slice may run on now, lent ones included. -/
def Die.poolFor (e : Env) (d : Die) (s : Nat) : List Nat :=
  let m := d.reg .SM_SLICE_CLUSTERS s 0
  (List.range 64).filter (fun k =>
    (d.pooled e k && (decide (m = 0) || m.getLsbD k)) || (d.live e k && d.lent k && !(d.clRt k).recalled && decide (m = 0)))

/-- The entitlement of a pooled slice: ⌈E × WEIGHT ÷ W⌉ over the eligible pooled slices that share any of its clusters. -/
def Die.entitlement (e : Env) (d : Die) (s : Nat) : Nat :=
  let es := d.poolFor e s
  let others := ((d.jobs.filterMap (·.slice)).eraseDups).filter (fun t =>
    decide (t ≠ s) && !(d.bit F.SM_SLICE.KIND t) && (d.poolFor e t).any (fun k => decide (k ∈ es)))
  ceilDiv (es.length * d.weightS s) (d.weightS s + (others.map d.weightS).sum)

/-- Clusters that kernels of a slice hold. -/
def Die.sliceHolds (d : Die) (s : Nat) : Nat :=
  (((d.ty.kerns.filter (fun x => decide (d.sliceOf x.ctx = some s))).map (fun x => x.clusters.length))).sum

/-- The clusters a reserved slice's job of mask 0 may count on: those that do not run, and are not kept by, other work of
the slice. -/
def Die.ownSet (e : Env) (d : Die) (j : Job) (s : Nat) : List Nat :=
  (List.range 64).filter (fun k => decide (d.ownerOf k = some s) && d.runsOn e j k &&
    !(decide (d.clState k ≠ 0) && decide (d.sliceOf (d.getF F.TY_CLUSTER.CONTEXT k) = some s)) &&
    (match d.keptBy e k with | some c => decide (c = j.ctx) || decide (d.sliceOf c ≠ some s) | none => true))

/-- The set a job takes among the clusters `free` that it is offered: R127, for a first start or for a resumption. -/
def Die.chooseSet (e : Env) (d : Die) (j : Job) (free : List Nat) : List Nat :=
  match j.kern with
  | some x =>
    let n := x.left.length
    if x.named ≠ [] then (x.named.filter (fun k => d.live e k)).take n
    else
      if free.length ≥ n then free.take n
      else match j.slice with
        | some s => if d.bit F.SM_SLICE.KIND s then d.ownSet e j s else []
        | none => []
  | none =>
    match d.namedClusters e j.cmd with
    | some l => l
    | none =>
      match j.slice with
      | none => free
      | some s =>
        if d.bit F.SM_SLICE.KIND s then d.ownSet e j s
        else free.take (max 1 (d.entitlement e s - d.sliceHolds s))

/-- The clusters a job waits for. -/
def Die.wanted (e : Env) (d : Die) (j : Job) : List Nat := d.chooseSet e j ((List.range 64).filter (fun k => d.freeFor e j k))

/-- The clusters that a job needs at least. -/
def Job.least (j : Job) : Nat := match j.kern with | some x => x.left.length | none => 1

/-- All that the job waits for is free to it, cluster `k` among it. -/
def Die.couldTake (e : Env) (d : Die) (j : Job) (k : Nat) : Bool :=
  let l := d.wanted e j
  decide (k ∈ l ∧ l.length ≥ j.least) && l.all (fun i => d.freeFor e j i)

/-- Cluster `k` is offered to another job first, which could take it now (R126). -/
def Die.beaten (e : Env) (d : Die) (j : Job) (k : Nat) : Bool :=
  d.jobs.any (fun x => decide (x ≠ j) && d.runsOn e x k && d.jobBefore k x j && d.couldTake e x k)

/-- The set a job can be given now, if it can: of the clusters free to it, those that no job ahead of it takes. -/
def Die.grantSet (e : Env) (d : Die) (j : Job) : Option (List Nat) :=
  let mine := fun (k : Nat) => d.freeFor e j k && !(d.beaten e j k)
  let l := d.chooseSet e j ((List.range 64).filter mine)
  if l.length ≥ j.least ∧ l.all mine then some l else none

/-! ### Yield requests, recalls and claims (R85, R128 to R135) -/

/-- A yield request goes to every cluster of a kernel that runs; the grace is timed from now, but not while its slice
quiesces (R129, R130, R132). A kernel without yield marks receives none (R131). -/
def Die.postYield (e : Env) (d : Die) (x : Kern) (for_ : Option Nat) : Die :=
  if !(d.kernYields x) ∨ x.aband ∨ x.clusters.any (fun k => decide (d.clState k = 2)) then d
  else
    let quiet := match d.sliceOf x.ctx with | some s => decide (d.sliceState s = 3) | none => false
    let d := x.clusters.foldl (fun d k =>
      if d.clState k = 1 then (d.setF F.TY_CLUSTER.STATE k 2).send (.kYield k (x.kid % 256)) else d) d
    d.setKern { x with req := if quiet then none else some (e.now + d.graceNs, for_) }

/-- A lent cluster is recalled for its owner's context (R134, R135). RECALLS counts one for all the clusters of one borrowing kernel, and
one for each cluster that runs none; log entry 87. -/
def Die.recall_ (e : Env) (d : Die) (k : Nat) (for_ : Option Nat) : Die :=
  if !(d.lent k) ∨ (d.clRt k).recalled then d
  else
    match d.kernAt k with
    | none => ((d.incSat F.TY_STATUS.RECALLS 0 1).setClRt k { d.clRt k with kept := none, promised := none }).setLent k false
    | some x =>
      let d := if x.clusters.any (fun i => (d.clRt i).recalled) then d else d.incSat F.TY_STATUS.RECALLS 0 1
      (d.setClRt k { d.clRt k with recalled := true }).postYield e x for_

/-- Every lent cluster that a job of its owner waits for is recalled. -/
def Die.recallDue (e : Env) (d : Die) : Die :=
  d.jobs.foldl (fun d j =>
    match j.slice with
    | some s =>
      if d.bit F.SM_SLICE.KIND s then
        (d.wanted e j).foldl (fun d k => if d.ownerOf k = some s then d.recall_ e k (some j.ctx) else d) d
      else d
    | none => d) d

/-- Every lent cluster is recalled (LEND_ENABLE has gone to 0). -/
def Die.recallAll (e : Env) (d : Die) : Die := (List.range 64).foldl (fun d k => d.recall_ e k none) d

/-- A slice claims clusters (R85): those that run other work are recalled from it as a lent one would be, and
CLUSTERS_PENDING stands until every one has come free. -/
def Die.claim (e : Env) (d : Die) (s : Nat) (ks : List Nat) : Die :=
  let d := ks.foldl (fun d k => d.setClRt k { d.clRt k with kept := none, promised := none, idle := e.now }) d
  let busy := ks.filter (fun k => decide (d.clState k ≠ 0 ∧ d.clState k ≠ 4))
  if busy = [] then d
  else
    let d : Die := { d.setF F.SM_SLICE.CLUSTERS_PENDING s 1 with sm.claims := d.sm.claims ++ ks.map (fun k => (k, s)) }
    busy.foldl (fun d k => match d.kernAt k with | some x => d.postYield e x none | none => d) d

/-! ### A job becomes eligible (R125) -/

/-- A context returns from idleness: its slice and it carry at most LAG_QUANTA quanta of credit. -/
def Die.lagged (d : Die) (pass vmin weight : Nat) : Nat :=
  let lag := bitsOf d.ty.cfg.toNat 24 8 * d.quantumNs * 65536 / weight
  let floor := (vmin + 2 ^ 64 - lag % 2 ^ 64) % 2 ^ 64
  if signed64 (floor + 2 ^ 64 - pass) > 0 then floor else pass

/-- The lowest of some passes. -/
def minPass : List Nat → Option Nat
  | [] => none
  | x :: t => some (t.foldl (fun a b => if passLt b a then b else a) x)

/-- R125 at the moment a context gets its first job. -/
def Die.lagOn (d : Die) (c : Nat) : Die :=
  let js := d.jobs
  if js.any (fun j => decide (j.ctx = c)) then d
  else
    let s := d.sliceOf c
    let d := match s with
      | some sl =>
        if d.bit F.SM_SLICE.KIND sl ∨ js.any (fun j => decide (j.slice = s)) then d
        else
          let ps := ((js.filterMap (·.slice)).eraseDups).filter (fun t => !(d.bit F.SM_SLICE.KIND t))
          match minPass (ps.map d.passS) with
          | some v => { d with ty.passS := Tab.set (0, 0) d.ty.passS sl (d.lagged (d.passS sl) v (d.weightS sl), (Tab.get (0, 0) d.ty.passS sl).2) }
          | none => d
      | none => d
    match minPass (((js.filter (fun j => decide (j.slice = s))).map (fun j => d.passC j.ctx))) with
    | some v => { d with ty.passC := Tab.set (0, 0) d.ty.passC c (d.lagged (d.passC c) v (d.weightC c), (Tab.get (0, 0) d.ty.passC c).2) }
    | none => d

/-- A launch becomes ready where the gate lets it: it starts at its placement. A mask that names no held cluster ends
the command (R62). -/
def Die.makeReady (e : Env) (d : Die) (c : Cmd) : Die :=
  if d.namedClusters e c = some [] then d.cmdFail e c St.BAD_ARG false
  else (((d.lagOn c.ctx).setCmd { c with st := .ready }).ctxPump c.ctx).recallDue e

/-! ### The disable of a slice (R109 to R111) -/

/-- The valid contexts of a slice that have not ended, and whose own teardown does not run. -/
def Die.openCtxs (d : Die) (s : Nat) : List Nat := (d.sliceCtxs s).filter (fun c => decide (d.ctxState c ≠ 5) && !(d.tearing c))

/-- R109 step 1: the slice goes to QUIESCING, and its kernels are to stop at their next yield marks. -/
def Die.quiesceOn (e : Env) (d : Die) (s : Nat) (toTear : Bool) (graceEnd : Nat) : Die :=
  let d := if d.sliceState s = 2 then d.setF F.SM_SLICE.STATE s 3 else d
  let d := if toTear then d.setF F.SM_SLICE.STEP s 1 else d
  let d : Die := { d with sm.quiesce := d.sm.quiesce ++ [{ sl := s, toTear := toTear, graceEnd := graceEnd }] }
  let ks := d.ty.kerns.filter (fun x => decide (d.sliceOf x.ctx = some s))
  ks.foldl (fun d x => match d.ty.kerns.find? (fun y => decide (y.kid = x.kid)) with
    | some x => (d.setKern { x with req := none }).postYield e { x with req := none } none
    | none => d) d

/-- R109 steps 3 and 4: what still runs is cancelled, and requests that no home has accepted are dropped. -/
def Die.cancelSlice (e : Env) (d : Die) (s : Nat) : Die :=
  let d : Die := { d with sm.quiesce := d.sm.quiesce.map (fun q => if q.sl = s then { q with expired := true } else q) }
  (d.openCtxs s).foldl (fun d c =>
    let d := (d.ty.kerns.filter (fun x => decide (x.ctx = c))).foldl (Die.abandonKern e) d
    let d := ((d.ctxCmds c).foldl (fun d x => d.unplace x.id true) d).enginesPump
    (d.unhold c).dropRequests c) d

/-- R111: a disable with a grace of zero; during QUIESCING it ends the grace at once. Elsewhere it changes nothing (R95). -/
def Die.forceDisable (e : Env) (d : Die) (s : Nat) : Die :=
  if d.sm.quiesce.any (fun q => decide (q.sl = s)) then d.cancelSlice e s
  else if d.sliceState s = 1 ∨ d.sliceState s = 2 then (d.quiesceOn e s false e.now).cancelSlice e s
  else d

/-! ### A cluster declared dead (R21, R87, R146, R237) -/

/-- The slice has a live cluster on which it may run. -/
def Die.hasLive (e : Env) (d : Die) (s : Nat) : Bool :=
  let m := d.reg .SM_SLICE_CLUSTERS s 0
  (List.range 64).any (fun k => if d.bit F.SM_SLICE.KIND s then d.live e k && m.getLsbD k else d.pooled e k && (decide (m = 0) || m.getLsbD k))

/-- Cluster `k` is among those on which slice `s` may run. -/
def Die.mayUse (d : Die) (s k : Nat) : Bool :=
  let m := d.reg .SM_SLICE_CLUSTERS s 0
  if d.bit F.SM_SLICE.KIND s then m.getLsbD k else (d.ownerOf k).isNone && (decide (m = 0) || m.getLsbD k)

/-- A slice that has lost a cluster is disabled where it has no live one left (R87); an armed NO_CLUSTERS makes that check fail. -/
def Die.checkLive (e : Env) (d : Die) (s : Nat) : Die :=
  let inj := d.fire0 Cs.NO_CLUSTERS 0
  if d.hasLive e s ∧ !inj then d
  else
    let d := if inj then d.fired else d
    let w := d.ay.waiting.length
    let d := (d.forceDisable e s).report e { cause := Cs.NO_CLUSTERS, slice := some s, det0 := d.getF F.SM_SLICE.LOST_CLUSTERS s }
    if inj then d.markInj w else d

/-- A cluster is declared dead: its port is fenced, the context that had work on it is torn down, its owner loses it, and
its lines are reclaimed. -/
def Die.clusterDead (e : Env) (d : Die) (k : Nat) : Die :=
  if !(d.live e k) then d
  else
    let had := (d.slices.filter (fun s => d.hasLive e s)).filter (fun s => d.mayUse s k)
    let x := d.kernAt k
    let own := d.ownerOf k
    let d := d.setLent k false
    let d := ((d.setF F.TY_CLUSTER.STATE k 4).setF F.TY_CLUSTER.CONTEXT k 0).setF F.TY_CLUSTER.SLICE k 0
    let d := d.setClRt k {}
    let d := match own with
      | some s => (d.setReg .SM_SLICE_CLUSTERS s 0 (d.reg .SM_SLICE_CLUSTERS s 0 &&& ~~~ (BitVec.ofNat 64 (2 ^ k)))).incSat F.SM_SLICE.LOST_CLUSTERS s 1
      | none => d
    let d := match x with
      | some x =>
        let y : Kern := { x with ranks := x.ranks.map (fun r : Rank => if r.cluster = some k then { r with cluster := none } else r) }
        let d := d.setKern y
        let d := if y.aband ∧ !y.placed then d.dropKern y.kid else d
        d.teardown e x.ctx St.CANCELLED (some x.cmd) none false
      | none => d
    -- requests of the port that no home has accepted go; the port stop answers its snoops; its lines are lost
    let d : Die := { d with coh.reqs := d.coh.reqs.filter (fun (q : Req) => !(decide (q.who = k) && q.tracker.isNone && decide (q.op ≠ HomeOp.wb))) }
    let d := ((d.deadSnoops e k).deadWalk e k).claimsDone
    had.foldl (fun d s => d.checkLive e s) d

end Sys2Proof.Machine
end

