-- ==== Sys2Proof/Machine/Shopfront.lean ====
section
/-! DEFINITION. Rings, descriptors and fences (chapter 2): doorbells and set-up writes of contexts and rings, fetching,
the commands that Shopfront runs itself, completion, and the last steps of a teardown. -/

namespace Sys2Proof.Machine

/-! ### Doorbells (R50 to R52, R92, R510) -/

/-- The enabled ring at a doorbell slot of a context. -/
def Die.ringAt (d : Die) (c slot : Nat) : Option Nat := (d.ringsOf c).find? (fun n => decide (d.getF F.SF_RING_CTL.DB_INDEX n = slot))

/-- A doorbell write is discarded and counted. -/
def Die.badDoorbell (d : Die) : Die := (d.incSat F.SF_STATUS.DB_REJECT 0 1).count 60 1

/-- The regions whose clusters or engines a slice's work is placed on by its set-up alone (R41). -/
def Die.placeRegions (e : Env) (d : Die) (sl : Nat) : List Nat :=
  (List.range e.regions).filter (fun r =>
    (d.bit F.SM_SLICE.HOMING sl && decide (d.getF F.SM_SLICE.HOME_REGION sl = r)) ||
    (d.bit F.SM_SLICE.KIND sl && (List.range 8).any (fun i => (d.reg .SM_SLICE_CLUSTERS sl 0).getLsbD (8 * r + i))))

def execDoorbell (who : Who) (off : BitVec 24) (len : BitVec 7) (v : Word) (s : State) : Host.Outcome State Fault Refusal :=
  let e := s.env
  let d := s.d
  let c := off.toNat / 4096
  let slot := off.toNat % 4096 / 8
  let mine := match d.resolve who with
    | .privileged => true
    | .slice sl => !(d.isKernelCtx c) && decide (d.ctxSlice c = sl) && d.ctxValid c
    | .unbound => false
  s.go (
    if who ≠ .steward ∧ who ≠ .tap ∧ who ≠ .bmc ∧ d.phase < 3 then d.abortHost
    else if d.phase < 5 then d.incSat F.ST_MBOX_STATUS.REJECT 0 1
    else if d.resolve who = .unbound then (d.incSat F.SM_STATUS.PASID_MISS 0 1).abortHost
    else if len.toNat ≠ 8 ∨ off.toNat % 8 ≠ 0 ∨ !mine then d.badDoorbell
    else match d.ringAt c slot with
      | none => d.badDoorbell
      | some n =>
        let size := 2 ^ d.getF F.SF_RING_CTL.LOG2_SIZE n
        let x := v.toNat
        if x < 2 ^ 32 ∧ (x + 2 ^ 32 - d.head n) % 2 ^ 32 ≤ size ∧ (x + 2 ^ 32 - d.tail n) % 2 ^ 32 ≤ size ∧ d.usable c ∧
            d.ctxState c ≠ 5 then
          let d := (d.setF F.SF_RING_STATUS.TAIL n x).count 3856 1
          let d := if d.head n ≠ d.tail n then
              (match d.sliceOf c with
               | some sl => (d.placeRegions e sl).foldl (fun d r => d.wake e r) d
               | none => d)
            else d
          d.ctxPump c
        else d.badDoorbell)

/-! ### Contexts (R45, R46) -/

/-- The context accepts a write of its set-up: IDLE with no enabled ring, or ABORTED (R45), and no teardown of it under way; log
entry 90. -/
def Die.ctxSettable (d : Die) (c : Nat) : Bool :=
  (decide (d.ctxState c = 0) && (d.ringsOf c).isEmpty || decide (d.ctxState c = 5)) && !(d.tearing c)

/-- Assay's bank and the window error latch of a context clear (R202, R374). -/
def Die.clearCtxRecs (d : Die) (c : Nat) : Die := (d.clearElem .AY_CTX_REC c).clearElem .WE_WERR c

def execCtxCfgWrite (who : Who) (err : Bool) (c : BitVec 12) (v : Word) (s : State) : Host.Outcome State Fault Refusal :=
  let c := c.toNat
  let r : Reg := if err then .SF_CTX_ERR else .SF_CTX_CFG
  s.go (s.d.barWrite s.env who r c (fun d =>
    if d.ctxSettable c then
      let was := d.ctxValid c
      let d := d.putWord s.env r c 0 v
      if !err ∧ !was ∧ d.ctxValid c then
        let d := (d.setF F.TY_LEDGER_CLUSTER.CLUSTER_NS c 0).setF F.TY_LEDGER_ENGINE.ENGINE_NS c 0
        d.clearCtxRecs c
      else d
    else d.reject F.SF_STATUS.CFG_REJECT 0))

/-- The rings of a context, enabled or not, whose registers hold something else than at reset. -/
def Die.allRings (d : Die) (c : Nat) : List Nat :=
  ((d.listed .SF_RING_CTL ++ d.listed .SF_RING_STATUS).eraseDups).filter (fun n => decide (d.getF F.SF_RING_CTL.CONTEXT n = c))

/-- Every ring of the context is disabled and its HEAD and TAIL go to 0 (R46). -/
def Die.disableRings (d : Die) (c : Nat) : Die :=
  (d.allRings c).foldl (fun d n =>
    ((d.setF F.SF_RING_CTL.ENABLE n 0).setF F.SF_RING_STATUS.HEAD n 0).setF F.SF_RING_STATUS.TAIL n 0) d

def execCtxReset (who : Who) (c : BitVec 12) (s : State) : Host.Outcome State Fault Refusal :=
  let c := c.toNat
  s.go (s.d.barWrite s.env who .SF_CTX_CTL c (fun d =>
    if d.ctxState c = 5 ∧ !(d.tearing c) then ((d.disableRings c).setCtxState c 0).clearCtxRecs c
    else d.reject F.SF_STATUS.CFG_REJECT 0))

/-- The oldest started command of a context: earliest started, ties to the lower ring number. -/
def Die.oldest (d : Die) (c : Nat) : Option Cmd :=
  ((d.ctxCmds c).filter (fun x => x.started && x.parent.isNone)).foldl (fun (b : Option Cmd) x =>
    match b with
    | none => some x
    | some y => if x.start < y.start ∨ (x.start = y.start ∧ x.ring < y.ring) then some x else b) none

def execCtxAbort (who : Who) (c : BitVec 12) (s : State) : Host.Outcome State Fault Refusal :=
  let c := c.toNat
  s.go (s.d.barWrite s.env who .SF_CTX_CTL c (fun d =>
    if d.ctxState c = 5 then d.reject F.SF_STATUS.CFG_REJECT 0
    else d.teardown s.env c St.CANCELLED ((d.oldest c).map (·.id)) none false))

/-! ### Rings (R47 to R49) -/

/-- A write of SF_RING_BASE (0), SF_RING_CPL (1) or SF_RING_CTL (2) that R49 accepts. -/
def Die.ringAccept (d : Die) (n which : Nat) (v : Word) : Bool :=
  let c := d.getF F.SF_RING_CTL.CONTEXT n
  !(d.bit F.SF_RING_CTL.ENABLE n) || (decide (which = 2) && decide (fieldOf v 6 1 = 0) && decide (d.ctxState c = 0 ∨ d.ctxState c = 5))

def execRingEnable (who : Who) (n : BitVec 13) (v : Word) (s : State) : Host.Outcome State Fault Refusal :=
  let n := n.toNat
  s.go (s.d.barWrite s.env who .SF_RING_CTL n (fun d =>
    let c := fieldOf v 16 12
    let sets := decide (fieldOf v 6 1 = 1)
    let ok := !(d.bit F.SF_RING_CTL.ENABLE n) && d.usable c && decide (6 ≤ fieldOf v 0 5 ∧ fieldOf v 0 5 ≤ 16) &&
      !((d.ringsOf c).any (fun m => decide (m ≠ n ∧ d.getF F.SF_RING_CTL.DB_INDEX m = fieldOf v 7 9)))
    if !sets then (if d.ringAccept n 2 v then d.putWord s.env .SF_RING_CTL n 0 v else d.reject F.SF_STATUS.CFG_REJECT 0)
    else if ok then
      let d := ((d.putWord s.env .SF_RING_CTL n 0 v).setF F.SF_RING_STATUS.HEAD n 0).setF F.SF_RING_STATUS.TAIL n 0
      (d.clearElem .TY_RING_DL n).setRingRt n {}
    else d.reject F.SF_STATUS.CFG_REJECT 0))

def execRingDisable (who : Who) (n : BitVec 13) (v : Word) (s : State) : Host.Outcome State Fault Refusal :=
  let n := n.toNat
  s.go (s.d.barWrite s.env who .SF_RING_CTL n (fun d =>
    if d.ringAccept n 2 (putField v 6 1 0) then d.putWord s.env .SF_RING_CTL n 0 (putField v 6 1 0)
    else d.reject F.SF_STATUS.CFG_REJECT 0))

def execSlotQuotaWrite (who : Who) (sl : BitVec 9) (v : Word) (s : State) : Host.Outcome State Fault Refusal :=
  let sl := sl.toNat
  s.go (s.d.barWrite s.env who .SF_SLOT_QUOTA sl (fun d =>
    let mn := fieldOf v 0 12
    let sum := ((List.range 512).map (fun t => if t = sl then mn else d.getF F.SF_SLOT_QUOTA.MIN t)).sum
    if sum ≤ 2048 ∧ mn ≤ fieldOf v 16 12 then d.putWord s.env .SF_SLOT_QUOTA sl 0 v
    else d.setEv F.SF_STATUS.QUOTA_ERR 0))

/-! ### Fetching (R53, R54, R61, R69) -/

/-- The ring is the privileged ring of the die (R55). -/
def Die.isPriv (e : Env) (d : Die) (n : Nat) : Bool :=
  decide (fieldOf e.privRing 13 1 = 1 ∧ fieldOf e.privRing 0 13 = n) && d.bit F.SF_RING_CTL.VERSION n &&
    d.isKernelCtx (d.getF F.SF_RING_CTL.CONTEXT n)

/-- Rings that have a pending descriptor and whose contexts run, in number order. -/
def Die.hungry (d : Die) : List Nat :=
  ((Tab.get [] d.regs Reg.SF_RING_CTL.ctorIdx).map (fun x => x.1 / 8)).filter (fun n =>
    let c := d.getF F.SF_RING_CTL.CONTEXT n
    d.bit F.SF_RING_CTL.ENABLE n && decide (d.head n ≠ d.tail n) && d.runs c && !(d.tearing c) && decide (d.ctxState c ≠ 5))

/-- Those among them that may be granted a slot. The slots that rings of kernel contexts now ask for are not a slice's (R57). -/
def Die.fetchable (d : Die) : List Nat :=
  let kern := d.hungry.filter (fun n => d.isKernelCtx (d.getF F.SF_RING_CTL.CONTEXT n))
  d.hungry.filter (fun n =>
    d.slotFree (d.getF F.SF_RING_CTL.CONTEXT n) && (kern.contains n || decide (d.getF F.SF_STATUS.FREE_SLOTS 0 > kern.length)))

/-- It is the ring's turn in the round robin (R53). -/
def Die.turn (d : Die) (n : Nat) : Bool :=
  let l := d.fetchable
  match (l.find? (fun m => decide (m > d.sf.lastRing))).or l.head? with
  | some m => decide (m = n)
  | none => false

/-- A list of the ring that reaches its next descriptor: the innermost running list none of whose commands stands. -/
def Die.openList (d : Die) (n : Nat) : Option Cmd :=
  (d.sf.cmds.filter (fun c => decide (c.ring = n) && decide (c.st = .running) && (decide (c.op = Op.CALL_LIST ∨ c.op = Op.SELECT) || c.bypass) &&
    !c.closed && decide (c.next < c.count) && !(d.sf.cmds.any (fun x => decide (x.parent = some c.id))))).getLast?

/-- A command read from a ring or a list enters, and is checked (R61). -/
def Die.enter (e : Env) (d : Die) (c : Cmd) : Die :=
  let v3 := c.depth ≠ 0 ∨ d.bit F.SF_RING_CTL.VERSION c.ring
  let d : Die := { (d.count 3857 1) with nid := d.nid + 1, sf.cmds := d.sf.cmds ++ [c] }
  match fetchCheck e v3 (d.isPriv e c.ring) c.depth c.desc with
  | some st => d.cmdFail e c st false
  | none => d.ctxPump c.ctx

/-- Bytes of a descriptor of ring `n`. -/
def Die.descSize (d : Die) (n : Nat) : Nat := if d.bit F.SF_RING_CTL.VERSION n then 64 else 32

/-- Where the next descriptor of ring `n` lies (R48). -/
def Die.descAddr (d : Die) (n : Nat) : Nat :=
  4096 * d.getF F.SF_RING_BASE.ADDR n + (d.head n % 2 ^ d.getF F.SF_RING_CTL.LOG2_SIZE n) * d.descSize n

/-- The read of the next descriptor of ring `n`, at a device or a host address. -/
def Die.ringRead (d : Die) (n : Nat) : Act (List Byte) := do
  let c := d.getF F.SF_RING_CTL.CONTEXT n
  if d.bit F.SF_RING_BASE.LOC n then
    ctxPage c (d.descAddr n) true
    physRead (d.descAddr n) (d.descSize n) (hubAsk (some c) (.ring n))
  else hostRead (.ring n) (d.hostId c) (d.descAddr n) (d.descSize n)

/-- A descriptor read of ring `n` is under way, or is over. -/
def Die.ringAsked (d : Die) (n : Nat) (v : Bool) : Die := d.setRingRt n { d.ringRt n with asked := v }

/-- The next descriptor of the ring itself: at the ring's turn its read begins, and whatever it waits for, it is that ring's read
that goes on. -/
def Die.fetchRing (e : Env) (d : Die) (n : Nat) : Die :=
  let c := d.getF F.SF_RING_CTL.CONTEXT n
  let asked := (d.ringRt n).asked
  if !(n ∈ d.fetchable) ∨ !(asked ∨ d.turn n) then d
  else
    let q := d.head n
    let get_ := d.ringRead n
    let d : Die := if asked then d else { d.ringAsked n true with sf.lastRing := n }
    match attempt e d (.ring n) get_ with
    | .ok b d =>
      let d := ((d.ringAsked n false).setF F.SF_RING_STATUS.HEAD n (q + 1)).slotAdd c true
      d.enter e { id := d.nid, ring := n, ctx := c, seq := q, desc := BitVec.ofNat 512 (numLE b) }
    | .wait d => d
    | .stop s x d => (d.ringAsked n false).teardown e c s none (some (n, q)) x
    | .fault _ d => d.ringAsked n false

/-- The next descriptor of a running list (R69). -/
def Die.fetchList (e : Env) (d : Die) (l : Cmd) : Die :=
  if !(d.runs l.ctx) ∨ d.tearing l.ctx then d
  else d.runAct e l (readPtr l.src Ac.list l.list (64 * l.next) 64) (fun b d =>
    let d := d.setCmd { l with next := l.next + 1 }
    d.enter e { id := d.nid, ring := l.ring, ctx := l.ctx, seq := l.seq, depth := l.depth + 1, parent := some l.id, off := 64 * l.next,
                desc := BitVec.ofNat 512 (numLE b) })

def execDescriptorFetch (n : BitVec 13) (s : State) : Host.Outcome State Fault Refusal :=
  let e := s.env
  let d := s.d
  s.go (
    match d.openList n.toNat with
    | some l => d.fetchList e l
    | none => d.fetchRing e n.toNat)

/-! ### Completion (R66, R67, R71) -/

/-- What a command's end does to the list it stands in. -/
def Die.childEnded (d : Die) (c : Cmd) : Die :=
  match c.parent.bind d.cmd with
  | some p =>
    let closed := p.closed || decide (c.op = Op.RETURN ∧ c.status = St.OK)
    let d := d.setCmd { p with closed := closed }
    if closed ∨ p.next ≥ p.count then
      d.finish p.id (if p.bypass then St.BYPASSED else St.OK) (if p.op = Op.CALL_LIST then p.next else p.result)
    else d
  | none => d

/-- The command leaves, with its counts. -/
def Die.retire (e : Env) (d : Die) (c : Cmd) : Die :=
  let d := (d.count 3858 1).count 2 1
  let d := if c.status = St.SKIPPED then d.count 3859 1 else if c.status = St.BYPASSED then d.count 3860 1 else d
  (((d.dropCmd c).childEnded c).ctxPump c.ctx).fencesGo e

def execCommandComplete (id : Nat) (s : State) : Host.Outcome State Fault Refusal :=
  let e := s.env
  let d := s.d
  s.go (
    match d.cmd id with
    | none => d
    | some c =>
      if c.st ≠ .done ∨ d.tearing c.ctx ∨ d.winBusy (.cmd id) then d
      else if !c.cpl ∨ c.bypass then d.retire e c
      else match attempt e d (.cmd id) (writeRecord c c.status c.result (.cmd id)) with
        | .ok _ d => (if c.irq then d.ringIrq e c.ring else d).retire e c
        | .wait d => d
        | .stop st x d => (d.dropCmd c).teardown e c.ctx st none (some (c.ring, d.head c.ring)) x
        | .fault _ d => d)

/-! ### The end of a teardown (R145 steps 4 to 7) -/

/-- Try a write whose refusal loses it and nothing more. -/
def tryLose (a : Act Unit) : Act Unit := do
  let e ← read
  let d ← get
  let r := a.go e d
  match r.1 with
  | .ok _ => set r.2
  | .error (.status _) => set r.2
  | .error f => throw f

/-- Records of a context that ends: the failing command's status, CANCELLED for the others that had started. One that is refused is
lost, and the others are still written. -/
def tearRecords (d : Die) (c : Nat) (failed : Option Nat) (status : Nat) : Act Unit :=
  (d.ctxCmds c).forM (fun x => tryLose do
    if failed = some x.id then writeRecord x status (if x.depth ≠ 0 then x.off else 0) (.ctx c)
    else if x.st = .done ∧ x.status < 0x10 ∧ x.cpl ∧ !(x.bypass) then writeRecord x x.status x.result (.ctx c)
    else if x.st = .done ∧ x.status < 0x10 then pure ()
    else if x.started ∧ !(x.bypass) then writeRecord x St.CANCELLED (if x.depth ≠ 0 then x.off else 0) (.ctx c))

/-- The error word (Table 2.11). A word that cannot be written is lost (R68). -/
def errorWord (c status cls : Nat) (secur : Bool) (ring seq : Nat) : Act Unit := do
  let d ← get
  let w := status + cls * 2 ^ 16 + Bool.num secur * 2 ^ 18 + ring * 2 ^ 19 + seq % 2 ^ 32 * 2 ^ 32
  ctxWrite c (d.bit F.SF_CTX_ERR.LOC c) (8 * d.getF F.SF_CTX_ERR.ADDR c) (bytesLE 8 w) (.ctx c) false

/-- The rings that had work: a started or pending command, one that the teardown dropped at its start, or descriptors pending. -/
def Die.workRings (d : Die) (c : Nat) : List Nat :=
  (d.ringsOf c).filter (fun n => decide (d.head n ≠ d.tail n) || (d.ctxCmds c).any (fun x => decide (x.ring = n)) ||
    d.sf.tears.any (fun t => decide (t.ctx = c) && t.had.contains n))

/-- Watches that a context opened close without a record (R430). -/
def Die.closeWatches (d : Die) (c : Nat) : Die :=
  (List.range 64).foldl (fun d w =>
    if d.bit F.CH_WATCH.OPEN w ∧ d.getF F.CH_WATCH.CONTEXT w = c then
      { d.setF F.CH_WATCH.OPEN w 0 with ch.watch := Tab.set none d.ch.watch w none }
    else d) { d with ch.switch := d.ch.switch.filter (fun x => (d.cmd x.1).any (fun y => decide (y.ctx ≠ c))) }

/-- Records, error word, ABORTED and MSI-X messages of a context that has drained. `cls` is 1 CONTAINED or 2 SLICE. -/
def Die.abortCtx (e : Env) (d : Die) (c status cls : Nat) (named : Nat × Nat) (secur : Bool) (first : Option Nat)
    (records : Act Unit) : Option Die :=
  let act : Act Unit := do
    records
    tryLose (errorWord c status cls secur named.1 named.2)
  match attempt e d (.ctx c) act with
  | .ok _ d' =>
    let rings := d.workRings c
    let d' := (d.ctxCmds c).foldl Die.dropCmd d'
    let d' : Die := { d' with sf.tears := d'.sf.tears.filter (fun t => decide (t.ctx ≠ c)),
                              sm.fences := d'.sm.fences.filter (fun f => decide (f.ctx ≠ c)) }
    let d' := (d'.closeWatches c).setCtxState c 5
    let order := match first with
      | some n => n :: rings.filter (fun m => decide (m ≠ n))
      | none => rings
    some (order.foldl (fun d n => d.ringIrq e n) d')
  | .wait d' => some d'
  | .stop _ _ d' => some d'
  | .fault _ d' => some d'

def execTeardownDrained (c : BitVec 12) (s : State) : Host.Outcome State Fault Refusal :=
  let e := s.env
  let d := s.d
  let c := c.toNat
  s.go (
    match d.sf.tears.find? (fun t => decide (t.ctx = c)) with
    | none => d
    | some t =>
      if !(d.ctxIdle c) then d
      else
        let f := t.failed.bind d.cmd
        let named := (f.map (fun x => (x.ring, x.seq))).getD (t.named.getD (0, 0))
        let first := (f.map (fun x => x.ring)).or (t.named.map Prod.fst)
        (d.abortCtx e c t.status 1 named t.secur first (tearRecords d c t.failed t.status)).getD d)

/-! ### Commands that Shopfront runs itself -/

def execNop (id : Nat) (s : State) : Host.Outcome State Fault Refusal :=
  s.go (s.d.start s.env id Op.NOP (fun _ => true) (fun c d => d.finish c.id St.OK 0))

def execLaunch (id : Nat) (s : State) : Host.Outcome State Fault Refusal :=
  let e := s.env
  let d := s.d
  s.go (
    match d.cmd id with
    | none => d
    | some c =>
      if c.op ≠ Op.LAUNCH then d
      else match d.gate c with
        | .no => d
        | .skip => (d.useSkip c).endUnrun c St.SKIPPED
        | .bypass => d.endUnrun c St.BYPASSED
        | .fallback => d.takeFallback e c
        | .go => d.makeReady e c)

def execLaunchIndirect (id : Nat) (s : State) : Host.Outcome State Fault Refusal :=
  let e := s.env
  s.go (s.d.start e id Op.LAUNCH_INDIRECT (fun _ => true) (fun c d =>
    d.runAct e c (readPtr c.src Ac.read (c.p6 24) 0 12) (fun b d =>
      let x := numLE (b.take 4)
      let y := numLE ((b.drop 4).take 4)
      let z := numLE (b.drop 8)
      if y > 65535 ∨ z > 65535 then d.cmdFail e c St.BAD_ARG false
      else if x = 0 ∨ y = 0 ∨ z = 0 then d.finish c.id St.OK 0
      else match d.cmd c.id with
        | some c => d.makeReady e { c with tile := x, aux := y, acc := z }
        | none => d)))

/-! ### Fences (R72 to R74) -/

/-- FENCE_WAIT tests its word. -/
def waitTest (c : Cmd) : Act (Option Nat) := do
  let x ← translate c.src Ac.fwait (c.p6 8) 0 8 false (fun _ => true)
  let b ← readSpan c.src x Ac.fwait
  let w := numLE b
  pure (if signed64 (w + 2 ^ 64 - c.q 16) ≥ 0 then some w else none)

/-- The wait is tested: it completes, or goes on waiting. -/
def Die.testWait (e : Env) (d : Die) (c : Cmd) : Die :=
  d.runAct e c (waitTest c) (fun r d =>
    match r with
    | some w => d.finish c.id St.OK w
    | none => match d.cmd c.id with
      | some c => d.setCmd { c with tile := e.now, aux := 1 }
      | none => d)

def execFenceWait (id : Nat) (s : State) : Host.Outcome State Fault Refusal :=
  s.go (s.d.start s.env id Op.FENCE_WAIT (fun c => decide (c.aux = 0)) (fun c d => d.testWait s.env c))

/-- A wait that has been tested and still stands. -/
def Die.waiting (d : Die) (id : Nat) : Option Cmd :=
  (d.cmd id).bind (fun c => if c.op = Op.FENCE_WAIT ∧ c.st = .running ∧ c.aux = 1 then some c else none)

def execFenceNotify (id : Nat) (s : State) : Host.Outcome State Fault Refusal :=
  s.go (match s.d.waiting id with | some c => s.d.testWait s.env c | none => s.d)

def execFencePoll (id : Nat) (s : State) : Host.Outcome State Fault Refusal :=
  s.go (match s.d.waiting id with | some c => s.d.testWait s.env c | none => s.d)

/-- The wait's time is over: its word is looked at once more, and what is still unsatisfied ends (R74). -/
def Die.waitLate (e : Env) (d : Die) (c : Cmd) : Die :=
  if d.stu.held.any (fun h => decide (h.cmd = some c.id)) then d.cmdFail e c St.FENCE_TIMEOUT false
  else match attempt e d (.cmd c.id) (waitTest c) with
    | .ok (some w) d => d.finish c.id St.OK w
    | .ok none d => d.cmdFail e c St.FENCE_TIMEOUT false
    | .wait d => d.cmdFail e c St.FENCE_TIMEOUT false
    | .stop s x d => d.cmdFail e c s x
    | .fault r d => d.faulted e r (some c.id) none

def execFenceTimeout (id : Nat) (s : State) : Host.Outcome State Fault Refusal :=
  s.go (
    match s.d.cmd id with
    | some c =>
      if c.op = Op.FENCE_WAIT ∧ c.st = .running ∧ !(s.d.tearing c.ctx) ∧ c.w 24 ≠ 0 ∧ s.env.now ≥ c.start + 1000 * c.w 24 then
        s.d.waitLate s.env c
      else s.d
    | none => s.d)

def execFenceSignal (id : Nat) (s : State) : Host.Outcome State Fault Refusal :=
  s.go (s.d.start s.env id Op.FENCE_SIGNAL (fun _ => true) (fun c d =>
    d.oneAct s.env c (fenceSignal c.src (c.p6 8) (c.q 16) false)))

/-! ### Time stamps, predication and lists -/

/-- The clusters that run kernels of a context, in ascending order. -/
def Die.clustersOf (d : Die) (c : Nat) : List Nat :=
  (List.range 64).filter (fun k => d.ty.kerns.any (fun x => decide (x.ctx = c) && x.ranks.any (fun r => decide (r.cluster = some k))))

/-- Die time and its quality in the region of the lowest cluster the context holds, or in the hub (R434). -/
def Die.stampBytes (e : Env) (d : Die) (c : Nat) : List Byte :=
  bytesLE 8 e.now ++ bytesLE 8 (d.getF F.ST_REGION_STATUS.TIME_FINE (((d.clustersOf c).head?.map (· / 8)).getD 8))

/-- TIMESTAMP's write, where it names an address, and its result. -/
def stampAct (e : Env) (c : Cmd) (d : Die) : Act Nat := do
  if c.p6 8 ≠ 0 then writePtr c.src (c.p6 8) 0 (d.stampBytes e c.ctx)
  pure e.now

def execTimestamp (id : Nat) (s : State) : Host.Outcome State Fault Refusal :=
  s.go (s.d.start s.env id Op.TIMESTAMP (fun _ => true) (fun c d =>
    d.oneAct s.env c (stampAct s.env c d)))

/-- WORD of PRED_SKIP and SELECT: an 8-byte read that allocates no line (R70). -/
def predWord (c : Cmd) : Act Nat := do
  let b ← readPtr { c.src with noAlloc := true } Ac.read (c.p6 8) 0 8
  pure (numLE b)

/-- The comparisons of R70. -/
def cmpTrue (cmp word imm : Nat) : Bool :=
  if cmp = 0 then decide (word = imm)
  else if cmp = 1 then decide (word ≠ imm)
  else if cmp = 2 then decide (word < imm)
  else if cmp = 3 then decide (word ≥ imm)
  else decide (word &&& imm ≠ 0)

/-- PRED_SKIP's skip stands on its ring or list. -/
def Die.armSkip (d : Die) (c : Cmd) (n : Nat) : Die :=
  match c.parent with
  | some p => match d.cmd p with
    | some x => d.setCmd { x with skip := n }
    | none => d
  | none => d.setRingRt c.ring { d.ringRt c.ring with skip := n }

/-- RESULT is 1 wherever the comparison is false, a COUNT of 0 included; log entry 89. -/
def execPredSkip (id : Nat) (s : State) : Host.Outcome State Fault Refusal :=
  s.go (s.d.start s.env id Op.PRED_SKIP (fun _ => true) (fun c d =>
    d.runAct s.env c (predWord c) (fun w d =>
      if cmpTrue (bitsOf c.arg0 0 3) w (c.q 16) then d.finish c.id St.OK 0
      else (d.armSkip c (bitsOf c.arg0 8 8)).finish c.id St.OK 1)))

/-- A list command runs a list; a list of count 0 completes it at once. -/
def Die.openList_ (d : Die) (c : Cmd) (list count result : Nat) : Die :=
  if count = 0 then d.finish c.id St.OK result
  else match d.cmd c.id with
    | some c => d.setCmd { c with list := list, count := count, next := 0, skip := 0, closed := false, result := result, aux := 1 }
    | none => d

def execSelect (id : Nat) (s : State) : Host.Outcome State Fault Refusal :=
  s.go (s.d.start s.env id Op.SELECT (fun c => decide (c.aux = 0)) (fun c d =>
    if c.depth ≥ 8 then d.cmdFail s.env c St.CALL_DEPTH false
    else d.runAct s.env c (predWord c) (fun w d =>
      if cmpTrue (bitsOf c.arg0 0 3) w (c.q 16) then d.openList_ c (c.p6 24) (c.w 40) 1
      else d.openList_ c (c.p6 32) (c.w 44) 0)))

def execCallList (id : Nat) (s : State) : Host.Outcome State Fault Refusal :=
  s.go (s.d.start s.env id Op.CALL_LIST (fun c => decide (c.aux = 0)) (fun c d =>
    if c.depth ≥ 8 then d.cmdFail s.env c St.CALL_DEPTH false
    else d.openList_ c (c.p6 8) (c.w 16) 0))

def execRet (id : Nat) (s : State) : Host.Outcome State Fault Refusal :=
  s.go (s.d.start s.env id Op.RETURN (fun _ => true) (fun c d =>
    if c.depth = 0 then d.cmdFail s.env c St.RETURN_AT_TOP false else d.finish c.id St.OK 0))

/-! ### Deadlines (R141) -/

def execDeadline (id : Nat) (s : State) : Host.Outcome State Fault Refusal :=
  let e := s.env
  s.go (s.d.start e id Op.DEADLINE (fun _ => true) (fun c d =>
    let n := c.ring
    let r := d.ringRt n
    let missed := d.bit F.TY_RING_DL.ARMED n && decide (e.now % 2 ^ 64 > r.dlNs)
    let d := if missed then
        let d := (d.incSat F.TY_RING_DL.MISSES n 1).incSat F.TY_STATUS.DL_MISSES 0 1
        (match d.sliceOf c.ctx with
         | some sl => d.incSat F.TY_SLICE_STAT.DL_MISSES sl 1
         | none => d)
      else d
    let d := ((d.setF F.TY_RING_DL.BYPASSING n 0).setF F.TY_RING_DL.SWITCH_PENDING n 0).setF F.TY_RING_DL.PASSED n 0
    let d := if c.arg0 = 1 then (d.setF F.TY_RING_DL.ARMED n 0).setRingRt n { skip := r.skip, asked := r.asked }
      else (d.setF F.TY_RING_DL.ARMED n 1).setRingRt n { skip := r.skip, asked := r.asked, dlNs := c.q 8, fb := c.p6 16, fbCount := c.w 24 }
    d.finish c.id St.OK 0))

end Sys2Proof.Machine
end

