-- ==== Sys2Proof/Machine/Clusters.lean ====
section
/-! DEFINITION. Placement, quanta, yields, loans and the messages of kernel control (chapter 4; R470 to R473): the rows
of Tally and of KSTAT, and YIELD. -/

namespace Sys2Proof.Machine

/-! ### Placement (R126, R127, R470) -/

/-- The grid of a launch: in its descriptor, or as LAUNCH_INDIRECT read it (R63). -/
def Cmd.grid (c : Cmd) : Nat × Nat × Nat := if c.op = Op.LAUNCH then (c.w 24, c.h 28, c.h 30) else (c.tile, c.aux, c.acc)

/-- One cluster is given to a kernel: its state, its quantum, and the START message. -/
def Die.giveCluster (e : Env) (d : Die) (j : Job) (x : Kern) (r : Rank) (k : Nat) : Die :=
  let keeps := decide (d.keptBy e k = some j.ctx)
  let rt := d.clRt k
  let d := d.setClRt k { rt with quantum := if keeps then rt.quantum else e.now + d.quantumNs, kept := none, promised := none,
                                 order := none, recalled := false }
  let d := ((d.setF F.TY_CLUSTER.STATE k 1).setF F.TY_CLUSTER.CONTEXT k j.ctx).setF F.TY_CLUSTER.SLICE k (j.slice.getD 0)
  let d := if j.kern.isSome then d else (d.resetCount (64 + 8 * k + 6)).resetCount (64 + 8 * k + 7)
  let g := j.cmd.grid
  d.send (.kStart k (x.kid % 256) j.ctx (j.slice.getD 0) (j.cmd.p6 8) (j.cmd.p6 16) (j.cmd.q 32) g.1 g.2.1 g.2.2 r.rank x.ranks.length
    j.kern.isSome r.token)

/-- The ranks still to run take the clusters of the set, in ascending order. -/
def giveRanks : List Rank → List Nat → List Rank
  | [], _ => []
  | r :: t, [] => r :: t
  | r :: t, k :: ks => if r.ended then r :: giveRanks t (k :: ks) else { r with cluster := some k, yielded := false } :: giveRanks t ks

/-- A kernel starts or resumes on a set of clusters. Regions that are not RUNNING are woken first (R41). -/
def Die.place (e : Env) (d : Die) (j : Job) (ks : List Nat) : Die :=
  let cold := (ks.map (· / 8)).filter (fun r => !(d.running r))
  if cold ≠ [] then cold.foldl (fun d r => d.wake e r) d
  else
    let d := (ks.map (· / 8)).foldl (fun d r => d.wake e r) d
    let x : Kern := match j.kern with
      | some x => x
      | none => { kid := j.cmd.id, cmd := j.cmd.id, ctx := j.ctx, ranks := (List.range ks.length).map (fun i => { rank := i, cluster := none }),
                  named := (d.namedClusters e j.cmd).getD [] }
    let y : Kern := { x with ranks := giveRanks x.ranks ks, req := none }
    let d := y.ranks.foldl (fun d r => match r.cluster with | some k => d.giveCluster e j y r k | none => d) d
    let d : Die := if j.kern.isSome then d.setKern y else { d with ty.kerns := d.ty.kerns ++ [y] }
    let d : Die := { d with ty.lastRing := Tab.set 8191 d.ty.lastRing j.ctx j.cmd.ring }
    let d := if j.kern.isSome then d
      else if j.cmd.started then d.setCmd { j.cmd with st := .running }
      else d.begin e j.cmd
    d.ctxPump j.ctx

/-- The first job in the order of R126 that can be given its set. A cluster whose first job must wait for others of its set is
offered on to the next; log entry 88. -/
def firstGrant (e : Env) (d : Die) : List Job → Option (Job × List Nat)
  | [] => none
  | j :: t => match d.grantSet e j with
    | some ks => some (j, ks)
    | none => firstGrant e d t

def execPlacement (k : BitVec 6) (s : State) : Host.Outcome State Fault Refusal :=
  let e := s.env
  let k := k.toNat
  s.go (
    match s.d.jobs.find? (fun j => j.kern.isNone && decide (s.d.namedClusters e j.cmd = some [])) with
    | some j => s.d.cmdFail e j.cmd St.BAD_ARG false
    | none =>
      if !(s.d.live e k) ∨ s.d.clState k ≠ 0 then s.d
      else
        let d := s.d.recallDue e
        match firstGrant e d (d.offers e k) with
        | some g =>
          let c := g.1.cmd
          -- a LAUNCH starts only now: the switch and the bypass of R143 hold for it
          if g.1.kern.isSome ∨ c.started ∨ c.parent.isSome then d.place e g.1 g.2
          else if d.bit F.TY_RING_DL.BYPASSING c.ring then d.endUnrun c St.BYPASSED
          else if d.bit F.TY_RING_DL.SWITCH_PENDING c.ring then d.takeFallback e c
          else d.place e g.1 g.2
        | none => d)

/-! ### Quanta, graces and loans -/

/-- A waiting context to which R126 would offer the cluster ahead of context `c`. -/
def Die.rival (e : Env) (d : Die) (k c : Nat) : Option Job :=
  (d.offers e k).find? (fun j => decide (j.ctx ≠ c) && d.ahead k j.slice j.ctx (d.sliceOf c) c)

def execQuantumExpiry (k : BitVec 6) (s : State) : Host.Outcome State Fault Refusal :=
  let e := s.env
  let d := s.d
  let k := k.toNat
  s.go (
    let rt := d.clRt k
    if e.now < rt.quantum then d
    else if d.clState k = 0 then d.setClRt k { rt with kept := none }
    else if d.clState k = 1 then
      match d.rival e k (d.getF F.TY_CLUSTER.CONTEXT k), d.kernAt k with
      | some j, some x => d.postYield e x (some j.ctx)
      | _, _ => d.setClRt k { rt with quantum := e.now + d.quantumNs }
    else d)

def execYieldGraceExpiry (kid : Nat) (s : State) : Host.Outcome State Fault Refusal :=
  let e := s.env
  let d := s.d
  s.go (
    match d.ty.kerns.find? (fun x => decide (x.kid = kid)) with
    | some x =>
      match x.req with
      | some q =>
        let sl := d.sliceOf x.ctx
        let quiet : Bool := match sl with | some s => decide (d.sliceState s = 3) | none => false
        if e.now < q.1 ∨ x.aband ∨ quiet then d
        else
          let d := d.incSat F.TY_STATUS.OVERRUNS 0 1
          let d := match sl with | some s => d.incSat F.TY_SLICE_STAT.OVERRUNS s 1 | none => d
          let d := x.clusters.foldl (fun d k => d.setClRt k { d.clRt k with promised := if d.lent k then none else q.2 }) d
          (d.setKern { x with req := none }).teardown e x.ctx St.YIELD_OVERRUN (some x.cmd) none false
      | none => d
    | none => d)

def execLend (k : BitVec 6) (s : State) : Host.Outcome State Fault Refusal :=
  let e := s.env
  let d := s.d
  let k := k.toNat
  s.go (
    match d.ownerOf k with
    | some o =>
      let wants := d.jobs.any (fun j => decide (j.slice = some o) && decide (k ∈ d.wanted e j))
      if d.lendOn ∧ d.bit F.SM_SLICE.LENDABLE o ∧ d.sliceState o ≠ 5 ∧ d.live e k ∧ d.clState k = 0 ∧ d.keptBy e k = none ∧
          !(d.claimed k) ∧ !wants ∧ e.now ≥ (d.clRt k).idle + d.lendNs then d.setLent k true
      else d
    | none => d)

def execAbandonTimeout (k : BitVec 6) (s : State) : Host.Outcome State Fault Refusal :=
  let e := s.env
  let d := s.d
  let k := k.toNat
  s.go (
    match (d.clRt k).order with
    | some t =>
      if d.clState k = 3 ∧ e.now ≥ t + 20000 then
        let c := d.getF F.TY_CLUSTER.CONTEXT k
        (d.report e { cause := Cs.DEAD_CLUSTER, inst := k, ctx := some c, slice := d.sliceOf c, det0 := k, det1 := 1 }).clusterDead e k
      else d
    | none => d)

/-! ### KSTAT (R470 to R473) -/

/-- The kernel whose rank runs on a cluster and that a message's KID names. -/
def Die.kernMsg (d : Die) (k kid : Nat) : Option Kern :=
  if d.fenced k then none
  else (d.kernOn k).bind (fun x => if x.kid % 256 = kid then some x else none)

/-- A change of the rank on a cluster. -/
def Kern.onRank (x : Kern) (k : Nat) (f : Rank → Rank) : Kern :=
  { x with ranks := x.ranks.map (fun r : Rank => if r.cluster = some k then f r else r) }

/-- The rank on a cluster has left it. -/
def Kern.leave (x : Kern) (k : Nat) : Kern := x.onRank k (fun r => { r with cluster := none })

/-- What follows when the last cluster of a kernel has been released (R66, R129, R145): the command completes, or the
kernel stands yielded, or it is gone. -/
def Die.kernLeft (e : Env) (d : Die) (x : Kern) : Die :=
  if x.placed then d
  else if x.aband then (d.dropKern x.kid).ctxPump x.ctx
  else if x.over_ then
    let d := d.dropKern x.kid
    match d.cmd x.cmd with
    | some c => (d.finish c.id St.OK c.ns).ctxPump x.ctx
    | none => d
  else if d.runs x.ctx then (((d.lagOn x.ctx).setKern { x with req := none }).ctxPump x.ctx).recallDue e
  else (d.dropKern x.kid).ctxPump x.ctx

/-- Tally releases cluster `k` from the kernel; the context keeps it only after a command that ran to its end with no yield request
(R128). A borrowed one goes back where the borrower was abandoned or its slice does not run (R135). -/
def Die.release1 (e : Env) (d : Die) (x : Kern) (k : Nat) : Die :=
  d.freeCluster e k (if x.over_ ∧ !x.aband ∧ d.clState k = 1 then some x.ctx else none) (decide (d.clState k = 3) || !(d.runs x.ctx))

/-- A rank of kernel `x` has reported from cluster `k` (R129, R136, R471): the clusters are released once every one has reported, or
this one alone where the kernel is abandoned. -/
def Die.rankReport (e : Env) (d : Die) (x : Kern) (k : Nat) : Die :=
  if x.aband then
    let y := x.leave k
    ((d.release1 e x k).setKern y).kernLeft e y
  else if x.ranks.any Rank.runs then d.setKern x
  else
    let y : Kern := { x with ranks := x.ranks.map (fun r => { r with cluster := none }) }
    let d := x.clusters.foldl (fun d k => d.release1 e x k) d
    if x.over_ ∨ !(d.runs x.ctx) then (d.setKern y).kernLeft e y else d.kernLeft e y

def execEndK (k : BitVec 6) (kid : BitVec 8) (fault : Bool) (s : State) : Host.Outcome State Fault Refusal :=
  let e := s.env
  let d := s.d
  let k := k.toNat
  s.go (
    match d.kernMsg k kid.toNat with
    | some x =>
      let y := x.onRank k (fun r => { r with ended := true })
      if fault ∧ !y.aband then
        match d.cmd x.cmd with
        | some c => (d.setKern y).cmdFail e c St.BUS_ERROR false
        | none => d.rankReport e y k
      else d.rankReport e y k
    | none => d)

def execMark (k : BitVec 6) (kid : BitVec 8) (s : State) : Host.Outcome State Fault Refusal :=
  s.go (match s.d.kernMsg k.toNat kid.toNat with | some x => s.d.ctxPump x.ctx | none => s.d)

def execYielded (k : BitVec 6) (kid : BitVec 8) (token : Word) (s : State) : Host.Outcome State Fault Refusal :=
  let e := s.env
  let d := s.d
  let k := k.toNat
  s.go (
    match d.kernMsg k kid.toNat with
    | some x =>
      if d.clState k = 1 then d
      else (d.count (64 + 8 * k + 5) 1).rankReport e (x.onRank k (fun r => { r with yielded := true, token := token })) k
    | none => d)

def execAbandonAck (k : BitVec 6) (kid : BitVec 8) (s : State) : Host.Outcome State Fault Refusal :=
  let e := s.env
  let d := s.d
  let k := k.toNat
  s.go (
    match d.kernMsg k kid.toNat with
    | some x =>
      if d.clState k = 3 then d.rankReport e x k else d
    | none => d)

def execKernelError (k : BitVec 6) (_kid : BitVec 8) (_tag : BitVec 8) (_code : BitVec 3) (s : State) : Host.Outcome State Fault Refusal :=
  s.go (if s.d.live s.env k.toNat then { s.d with ty.kernErrors := s.d.ty.kernErrors + 1 } else s.d)

/-- The message fails at a port: CLP_PARITY is reported with the kernel placed there, and the cluster is declared dead
(R391, R462). -/
def Die.portDead (e : Env) (d : Die) (k : Nat) : Die :=
  if !(d.live e k) then d
  else
    let c := (d.kernAt k).map (·.ctx)
    let inj := d.fire0 Cs.CLP_PARITY k
    let w := d.ay.waiting.length
    let d := if inj then d.fired else d
    let mark : Die → Die := fun d => if inj then d.markInj w else d
    (mark (d.report e { cause := Cs.CLP_PARITY, inst := k, ctx := c, slice := c.bind d.sliceOf, det0 := k })).clusterDead e k

def execPortError (k : BitVec 6) (_chan : BitVec 4) (s : State) : Host.Outcome State Fault Refusal :=
  s.go (s.d.portDead s.env k.toNat)

/-! ### YIELD (R133) -/

def execYieldCmd (id : Nat) (s : State) : Host.Outcome State Fault Refusal :=
  let e := s.env
  s.go (s.d.start e id Op.YIELD (fun _ => true) (fun c d =>
    let runs := d.clustersOf c.ctx
    let kept := (List.range 64).filter (fun k => decide (d.clState k = 0 ∧ d.keptBy e k = some c.ctx))
    match (runs ++ kept).findSome? (fun k => d.rival e k c.ctx) with
    | some j =>
      let d := kept.foldl (fun d k => d.setClRt k { d.clRt k with kept := none }) d
      let d := (d.ty.kerns.filter (fun x => decide (x.ctx = c.ctx) && x.placed)).foldl (fun d x => d.postYield e x (some j.ctx)) d
      d.finish c.id St.OK 1
    | none => d.finish c.id St.OK 0))

end Sys2Proof.Machine
end

