-- ==== Sys2Proof/Machine/Dme.lean ====
section
/-! DEFINITION. The DMEs: placement and service in weighted round robin (R138, R139), tiles (R175, R406), copies, fills,
gathers and scatters (R64), and the reductions REDUCE and REDUCE_SCATTER (R319 to R324). -/

namespace Sys2Proof.Machine

/-! ### Placement (R139) -/

/-- Tiles of a command that are still to be issued. -/
def Cmd.tilesLeft (c : Cmd) : Nat :=
  if c.op = Op.COPY then ceilDiv (c.q 24 - c.tile) (2 ^ 18)
  else if c.op = Op.FILL then ceilDiv (c.q 16 - c.tile) (2 ^ 18)
  else if c.op = Op.GATHER ∨ c.op = Op.SCATTER then c.w 28 - c.tile
  else if c.op = Op.REDUCE then ceilDiv (4 * (c.q 24 - c.tile)) (2 ^ 18)
  else if c.op = Op.REDUCE_SCATTER then c.w 28 - 4096 * c.tile
  else c.work.length

/-- The engines of a kind that a context's work may be placed on: those of HOME_REGION for a region-locally homed slice. -/
def Die.homeEngines (e : Env) (d : Die) (ctx per : Nat) : List Nat :=
  match d.sliceOf ctx with
  | some s =>
    if d.bit F.SM_SLICE.HOMING s then (List.range per).map (fun i => per * d.getF F.SM_SLICE.HOME_REGION s + i)
    else List.range (per * e.regions)
  | none => List.range (per * e.regions)

/-- The least of a list under a measure, the earliest among equals. -/
def leastOf (f : Nat → Nat) : List Nat → Option Nat
  | [] => none
  | x :: t => some (t.foldl (fun a b => if f b < f a then b else a) x)

/-- Tally places a command's tiles on the DME with the fewest queued tiles (R139); its region wakes. -/
def Die.placeDme (e : Env) (d : Die) (c : Cmd) : Die :=
  match leastOf (fun n => ((d.dmeCmds n).map Cmd.tilesLeft).sum) (d.homeEngines e c.ctx 8) with
  | some n =>
    let d := d.joins n c.ctx (d.dmeCmds n)
    let d : Die := { d.setCmd { c with place := n } with eng.jobs := d.eng.jobs ++ [{ dme := n, cmd := c.id }] }
    ((d.wake e (n / 8)).ctxPump c.ctx).enginesPump
  | none => d

def Die.dmePlaced (d : Die) (id : Nat) : Bool := d.eng.jobs.any (fun j => decide (j.cmd = id))

/-- A DME command starts; `zero` says that it has nothing to do, `ok` that its arguments pass the checks at its start. -/
def Die.startDme (e : Env) (d : Die) (id op : Nat) (zero ok : Cmd → Bool) : Die :=
  d.start e id op (fun _ => true) (fun c d =>
    if d.dmePlaced c.id then d
    else if zero c then d.finish c.id St.OK 0
    else if !(ok c) then d.cmdFail e c St.BAD_ARG false
    else d.placeDme e c)

/-! ### Tiles -/

/-- Source and destination pages of a tile meet no slot that is BINDING or RETIRING (R406). -/
def keyCheck (xs : List Span) : Act Unit := do
  let d ← get
  let busy := fun (a : Nat) => match (d.rangeSlot (pageOf a)).or (d.spanSlot (pageOf a)) with
    | some k => decide (d.slotState k = 1 ∨ d.slotState k = 3)
    | none => false
  need (!(xs.any (fun x => x.pieces.any (fun y => busy y.1)))) (.need .key)

def anySeg : Seg → Bool := fun _ => true

/-- Bytes are counted as read and written by DME `n`. -/
def Die.dmeCount (d : Die) (n rd wr : Nat) : Die := ((d.count (2368 + 8 * n) 1).count (2368 + 8 * n + 1) rd).count (2368 + 8 * n + 2) wr

/-- Where source and destination of a tile overlap, a destination sector may hold what its source held, or what another
sector had put there by then: the place in the tile whose data it ends with (R64). -/
def hop (so do_ len m : Nat) : Nat → Nat → Act Nat
  | 0, q => pure q
  | fuel + 1, q => do
    if so + q ≥ do_ ∧ so + q + m ≤ do_ + len ∧ so ≠ do_ then
      if ← pickFree then hop so do_ len m fuel (so + q - do_) else pure q
    else pure q

/-- A tile moved from one pointer to another: both ends of both ranges are checked before a byte is read. `twice` says that
the command has named its destination before. -/
def moveTile (s : Src) (n src sd dst dd len : Nat) (twice : Bool) : Act Unit := do
  let x ← translate s Ac.read src sd len true anySeg
  let y ← translate s Ac.write dst dd len true anySeg
  keyCheck [x, y]
  let b ← readSpan s x Ac.read
  if twice then writePicked s y b 32
  else if x.typ = y.typ ∧ x.seg = y.seg ∧ x.off < y.off + len ∧ y.off < x.off + len ∧ x.off ≠ y.off then
    let parts ← (cutAt 32 (len + 1) y.off 0 len).mapM (fun z => do
      let q ← hop x.off y.off len z.2 (len + 1) z.1
      pure ((b.drop q).take z.2))
    writeSpan s y parts.flatten
  else writeSpan s y b
  modify (fun d => d.dmeCount n len len)

/-- The next tile of a COPY, from byte `c.tile` on. -/
def copyTile (n : Nat) (c : Cmd) : Act (Cmd × Bool) := do
  let len := min (2 ^ 18) (c.q 24 - c.tile)
  moveTile (c.dmeSrc n) n (c.p6 8) c.tile (c.p6 16) c.tile len false
  pure ({ c with tile := c.tile + len, result := c.q 24 }, decide (c.tile + len = c.q 24))

/-- The next tile of a FILL: the byte at device pointer a is byte a mod 8 of the pattern. -/
def fillTile (n : Nat) (c : Cmd) : Act (Cmd × Bool) := do
  let s := c.dmeSrc n
  let len := min (2 ^ 18) (c.q 16 - c.tile)
  let y ← translate s Ac.write (c.p6 8) c.tile len true anySeg
  keyCheck [y]
  writeSpan s y ((List.range len).map (fun i => BitVec.ofNat 8 (bitsOf (c.q 24) (8 * ((c.p6 8 + c.tile + i) % 8)) 8)))
  modify (fun d => d.dmeCount n 0 len)
  pure ({ c with tile := c.tile + len, result := c.q 16 }, decide (c.tile + len = c.q 16))

/-- A 32-bit row index. -/
def readIdx (s : Src) (p j : Nat) : Act Nat := do
  let b ← readPtr s Ac.read p (4 * j) 4
  pure (numLE b)

/-- The next row of a GATHER or a SCATTER. -/
def rowTile (n : Nat) (c : Cmd) (gather : Bool) : Act (Cmd × Bool) := do
  let s := c.dmeSrc n
  let rs := 4 * (dfield c.desc 26 0 14 + 1)
  let i ← readIdx s (c.p6 20) c.tile
  let sd := rs * (if gather then i else c.tile)
  let dd := rs * (if gather then c.tile else i)
  moveTile s n (c.p6 8) sd (c.p6 14) dd rs (!gather && c.stats.contains i)
  modify (fun d => d.count (2368 + 8 * n + (if gather then 3 else 4)) 1)
  pure ({ c with tile := c.tile + 1, result := c.w 28, stats := if gather then [] else i :: c.stats }, decide (c.tile + 1 = c.w 28))

/-! ### Elements and contributions (R310 to R313, R320, R323) -/

/-- The range that `n` elements from element `a` of an array occupy: offset and bytes (R312). -/
def elemRange (f a n : Nat) : Nat × Nat :=
  if fmtMx f then (128 * (a / mxEPL f), 128 * ((a + n - 1) / mxEPL f - a / mxEPL f + 1)) else (fmtSize f * a, fmtSize f * n)

/-- Alignment of an array of the format (R312). -/
def elemAlign (f : Nat) : Nat := if fmtMx f then 128 else fmtSize f

/-- The elements of a range that starts with element `a`, as contributions without their place. -/
def readElems (f a n : Nat) (b : List Byte) : List (FV × Nat) :=
  if fmtMx f then
    (List.range n).map (fun i =>
      let el := a + i
      let l := numLE ((b.drop (128 * (el / mxEPL f - a / mxEPL f))).take 128)
      let blk := el / 32 % mxNBL f
      (mxElemFV f (bitsOf l (8 * (mxS0 f + blk)) 8) (bitsOf l (8 * blk * mxEB f + mxW f * (el % 32)) (mxW f)), 0))
  else (List.range n).map (fun i =>
    let x := numLE ((b.drop (fmtSize f * i)).take (fmtSize f))
    (if f = 5 then .nan else elemFV f x, x))

/-- The elements as a RED packet carries them (R323): element bytes, or each block's scale byte before its elements. -/
def wireElems (f a n : Nat) (b : List Byte) : List Byte :=
  if fmtMx f then
    ((List.range (n / 32)).map (fun i =>
      let el := a + 32 * i
      let l := (b.drop (128 * (el / mxEPL f - a / mxEPL f))).take 128
      let blk := el / 32 % mxNBL f
      (l.drop (mxS0 f + blk)).take 1 ++ (l.drop (blk * mxEB f)).take (mxEB f))).flatten
  else b

/-- Bytes on the wire of `n` contributions. -/
def wireBytes (f n : Nat) : Nat := if fmtMx f then n / 32 * (mxEB f + 1) else fmtSize f * n

/-- FP32 or INT32 values as they travel. -/
def fp32Wire (l : List (FV × Nat)) (int : Bool) : List Byte := (l.map (fun x => bytesLE 4 (if int then x.2 else toFp32 x.1))).flatten

/-! ### Reduce-writes of a translated range -/

/-- Contributions enter the lines of a LOCAL destination; `a` is the first element's number in a microscaled array. -/
def reduceLocal (s : Src) (x : Span) (f : Nat) (round : Bool) (a : Nat) (vals : List (FV × Nat)) : Act Unit := do
  let d ← get
  let put (line : Nat) (cs : List Contrib) : Act Unit := do
    let _ ← reduceAt line f round cs (d.sliceOf s.by_.ctx) false (s.ask x.attr)
  if fmtMx f then
    (x.lines.zipIdx).forM (fun y => do
      let cs := (vals.zipIdx).filterMap (fun (v : (FV × Nat) × Nat) =>
        if (a + v.2) / mxEPL f = a / mxEPL f + y.2 then some (⟨(a + v.2) % mxEPL f, v.1.1, v.1.2⟩ : Contrib) else none)
      put y.1.1 cs)
  else
    let _ ← x.lines.foldlM (fun (k : Nat) y => do
      let m := y.2.2 / fmtSize f
      put y.1 ((((vals.drop k).take m).zipIdx).map (fun (v : (FV × Nat) × Nat) => (⟨y.2.1 / fmtSize f + v.2, v.1.1, v.1.2⟩ : Contrib)))
      pure (k + m)) 0

/-- How many contributions the next RED packet takes (R324): as many whole ones as fit in 512 bytes of payload and in one
512-byte block of destination bytes. -/
def redFit (sf df o a left : Nat) : Nat :=
  let room := if fmtMx df then (4 - o / 128 % 4) * mxEPL df - a % mxEPL df else (512 - o % 512) / fmtSize df
  let pay := if fmtMx sf then 32 * (512 / (mxEB sf + 1)) else 512 / fmtSize sf
  let n := min left (min room pay)
  if n = left then n else if fmtMx sf ∨ fmtMx df then n / 32 * 32 else n

/-- RED packets for contributions that go through a window (R194, R323, R324); `o` is the offset of the destination's
first byte, and of its first line where the format is microscaled; `fuel` bounds the packets. -/
def reduceWindow (s : Src) (x : Span) (sf df : Nat) (round : Bool) : Nat → Nat → Nat → Nat → List Byte → Act Unit
  | 0, _, _, _, _ => pure ()
  | fuel + 1, o, a, left, wire => do
    if left ≠ 0 then
      let n := max 1 (redFit sf df o a left)
      let off := if fmtMx df then o + (a / 32 % mxNBL df) * mxEB df else o
      let d ← get
      winPost { s.winReq d x 4 off with payload := wire.take (wireBytes sf n), arg := sf + 64 * df + 4096 * Bool.num round }
      let o' := if fmtMx df then o + 128 * ((a + n) / mxEPL df - a / mxEPL df) else o + n * fmtSize df
      reduceWindow s x sf df round fuel o' (a + n) (left - n) (wire.drop (wireBytes sf n))

/-- Contributions are delivered: to the homes, or through a window. Where microscaled blocks cannot all lie within 512-byte
blocks of a destination, or the range begins inside a block, they travel as FP32. -/
def deliver (s : Src) (x : Span) (sf df eff : Nat) (round : Bool) (a : Nat) (vals : List (FV × Nat)) (wire : List Byte) : Act Unit := do
  countAccess s Ac.reduce x
  if x.typ = 2 then
    let cut := fmtMx sf && !(fmtMx df) && decide (a % 32 ≠ 0 ∨ x.off % (32 * fmtSize df) ≠ 0)
    let sf' := if cut then 0 else sf
    reduceWindow s x sf' df round (vals.length + 1) x.off a vals.length (if cut then fp32Wire vals false else wire)
  else reduceLocal s x eff round a vals

/-- The effective destination format of a segment (R318); through a window DST_FMT alone counts. -/
def effFmt (g : Seg) (df : Nat) : Nat := if g.wide ∧ g.typ ≠ 2 then 0 else df

/-- The checks that R319 and R320 make from the destination's descriptor: a row's size comes with `rowElems`, none for a
REDUCE of `elems` elements. -/
def redSegOk (sf df dst elems : Nat) (rowElems : Option Nat) (g : Seg) : Bool :=
  let f := effFmt g df
  !(g.wide && decide (df = 5)) && decide (dst % 2 ^ 44 % elemAlign f = 0) &&
    (match rowElems with
     | some r => (!(fmtMx f) || decide (r % mxEPL f = 0)) && decide ((elemRange f 0 r).2 ≤ 2 ^ 18)
     | none => !(fmtMx sf || fmtMx f) || decide (elems % 32 = 0))

/-- The descriptor of the destination, read and checked before any tile is issued. A descriptor that faults gives none. -/
def destSeg (s : Src) (dst : Nat) (chk : Seg → Bool) : Act (Option Seg) := do
  match ← segCheck s Ac.reduce (dst / 2 ^ 44 % 16) chk with
  | .ok g => pure (some g)
  | .error _ => pure none

/-- The last element of the tile that begins with element `a` (R319): both ranges within 256 KiB, and whole destination
lines. -/
def tileEnd (sf f dst a total : Nat) : Nat :=
  let o := dst % 2 ^ 44
  let bs := if fmtMx sf then (a / mxEPL sf + 2048) * mxEPL sf else a + 2 ^ 18 / fmtSize sf
  let bd := if fmtMx f then (a / mxEPL f + 2048) * mxEPL f else a + 2 ^ 18 / fmtSize f
  let b := min total (min bs bd)
  if b = total then b
  else if fmtMx f then b / mxEPL f * mxEPL f
  else ((o + b * fmtSize f) / 128 * 128 - o) / fmtSize f

def Cmd.srcFmt (c : Cmd) : Nat := bitsOf c.arg0 0 6
def Cmd.dstFmt (c : Cmd) : Nat := bitsOf c.arg0 6 6
def Cmd.round (c : Cmd) : Bool := decide (bitsOf c.arg0 12 1 = 1)

/-- The next tile of a REDUCE. -/
def reduceTile (n : Nat) (c : Cmd) : Act (Cmd × Bool) := do
  let s := c.dmeSrc n
  let sf := c.srcFmt
  let chk := redSegOk sf c.dstFmt (c.p6 16) (c.q 24) none
  let g ← destSeg s (c.p6 16) chk
  let f := (g.map (fun g => effFmt g c.dstFmt)).getD c.dstFmt
  let b := tileEnd sf f (c.p6 16) c.tile (c.q 24)
  let k := b - c.tile
  let sr := elemRange sf c.tile k
  let dr := elemRange f c.tile k
  let x ← translate s Ac.read (c.p6 8) sr.1 sr.2 true anySeg
  let y ← translate s Ac.reduce (c.p6 16) dr.1 dr.2 true chk
  keyCheck [x, y]
  let bytes ← readSpan s x Ac.read
  deliver s y sf c.dstFmt f c.round c.tile (readElems sf c.tile k bytes) (wireElems sf c.tile k bytes)
  modify (fun d => d.dmeCount n sr.2 dr.2)
  pure ({ c with tile := b, result := c.q 24 }, decide (b = c.q 24))

/-- The distinct indices of a merge window in the order of their first positions, with their positions (R321). -/
def mergeGroups (idx : List Nat) : List (Nat × List Nat) :=
  ((idx.eraseDups).filter (fun i => decide (i ≠ 0xFFFFFFFF))).map (fun i =>
    (i, (idx.zipIdx).filterMap (fun x => if x.1 = i then some x.2 else none)))

/-- One source row enters the merge buffer's sum (R313, R314, R321): FP32 words, or INT32 words. -/
def mergeAdd (int : Bool) (a b : List Nat) : List Nat :=
  List.zipWith (fun x y => if int then (addInt32 x y).1 else toFp32 (addFp32 (fp32.decode x) (fp32.decode y))) a b

/-- The elements of a source row as the merge buffer holds them. -/
def mergeWords (int : Bool) (v : List (FV × Nat)) : List Nat := v.map (fun x => if int then x.2 else toFp32 x.1)

/-- A parity error of DME `n`'s merge buffer is reported; `hard` says that a row was being issued (R329). -/
def Die.mergeParity (e : Env) (d : Die) (n : Nat) (c : Cmd) (hard : Bool) : Die :=
  (d.fired.report e { cause := Cs.DME_MERGE_PARITY, inst := n, ctx := some c.ctx, slice := d.sliceOf c.ctx, det0 := c.ctx, hard := hard }).markInj
    d.ay.waiting.length

/-- The next row of a REDUCE_SCATTER: `c.tile` is the merge window, `c.stats` its indices, `c.aux` the row within it, and `c.acc` the rows
issued. A row that several positions name is summed one source row at a time, so that a source row held under REPLAY leaves the
partial sum in the merge buffer (R322). -/
def scatterTile (n : Nat) (c : Cmd) : Act (Cmd × Bool) := do
  let s := c.dmeSrc n
  let sf := c.srcFmt
  let r := dfield c.desc 26 0 16 + 1
  let chk := redSegOk sf c.dstFmt (c.p6 14) 0 (some r)
  let g ← destSeg s (c.p6 14) chk
  let f := (g.map (fun g => effFmt g c.dstFmt)).getD c.dstFmt
  let first := 4096 * c.tile
  let cnt := min 4096 (c.w 28 - first)
  let idx ← (if c.stats ≠ [] then pure c.stats else do
    let ib ← readPtr s Ac.read (c.p6 20) (4 * first) (4 * cnt)
    pure ((List.range cnt).map (fun i => numLE ((ib.drop (4 * i)).take 4))))
  let c := { c with stats := idx }
  let groups := mergeGroups idx
  let last := decide (first + cnt ≥ c.w 28)
  let int := decide (sf = 5)
  let srow := (elemRange sf 0 r).2
  let drow := (elemRange f 0 r).2
  let source (j : Nat) : Act Span := translate s Ac.read (c.p6 8) ((first + j) * srow) srow true anySeg
  let issued : Cmd :=
    let c := { c with acc := c.acc + 1, result := c.acc + 1, merge := [], mrow := 0 }
    if c.aux + 1 < groups.length then { c with aux := c.aux + 1 } else { c with tile := c.tile + 1, aux := 0, stats := [] }
  let ends := last && decide (c.aux + 1 ≥ groups.length)
  match groups[c.aux]? with
  | none => pure ({ c with tile := c.tile + 1, aux := 0, stats := [], result := c.acc }, last)
  | some (i, js) =>
    let dest : Act Span := translate s Ac.reduce (c.p6 14) (i * drow) drow true chk
    if js.length = 1 then
      let x ← source (js.headD 0)
      let y ← dest
      keyCheck [y, x]
      let b ← readSpan s x Ac.read
      deliver s y sf c.dstFmt f c.round 0 (readElems sf 0 r b) (wireElems sf 0 r b)
      modify (fun d => d.dmeCount n srow drow)
      pure (issued, ends)
    else
      let d ← get
      let bad := d.fire0 Cs.DME_MERGE_PARITY n
      match js[c.mrow]? with
      | some j =>
        let x ← source j
        keyCheck [x]
        let b ← readSpan s x Ac.read
        if bad && decide (c.mrow ≠ 0) then
          upd (fun e d => d.mergeParity e n c false)
          pure ({ c with merge := [], mrow := 0 }, false)
        else
          let v := mergeWords int (readElems sf 0 r b)
          modify (fun d => d.dmeCount n srow 0)
          pure ({ c with merge := if c.mrow = 0 then v else mergeAdd int c.merge v, mrow := c.mrow + 1 }, false)
      | none =>
        let y ← dest
        keyCheck [y]
        if bad then
          upd (fun e d => d.mergeParity e n c true)
          throw (.status St.BUS_ERROR)
        let v := c.merge.map (fun w => (if int then FV.nan else fp32.decode w, w))
        deliver s y (if int then 5 else 0) c.dstFmt f c.round 0 v (fp32Wire v int)
        modify (fun d => (d.count (2368 + 8 * n + 5) js.length).dmeCount n 0 drow)
        pure (issued, ends)

/-! ### The rows that start DME commands -/

def execCopy (id : Nat) (s : State) : Host.Outcome State Fault Refusal :=
  s.go (s.d.startDme s.env id Op.COPY (fun c => decide (c.q 24 = 0)) (fun _ => true))

def execFill (id : Nat) (s : State) : Host.Outcome State Fault Refusal :=
  s.go (s.d.startDme s.env id Op.FILL (fun c => decide (c.q 16 = 0)) (fun _ => true))

def execGather (id : Nat) (s : State) : Host.Outcome State Fault Refusal :=
  s.go (s.d.startDme s.env id Op.GATHER (fun c => decide (c.w 28 = 0)) (fun _ => true))

def execScatter (id : Nat) (s : State) : Host.Outcome State Fault Refusal :=
  s.go (s.d.startDme s.env id Op.SCATTER (fun c => decide (c.w 28 = 0)) (fun _ => true))

def execReduce (id : Nat) (s : State) : Host.Outcome State Fault Refusal :=
  s.go (s.d.startDme s.env id Op.REDUCE (fun c => decide (c.q 24 = 0)) (fun c =>
    decide (c.p6 8 % 2 ^ 44 % elemAlign c.srcFmt = 0) && (!(fmtMx c.srcFmt) || decide (c.q 24 % 32 = 0))))

def execReduceScatter (id : Nat) (s : State) : Host.Outcome State Fault Refusal :=
  s.go (s.d.startDme s.env id Op.REDUCE_SCATTER (fun c => decide (c.w 28 = 0)) (fun c =>
    let r := dfield c.desc 26 0 16 + 1
    decide (c.p6 8 % 2 ^ 44 % elemAlign c.srcFmt = 0) && (!(fmtMx c.srcFmt) || decide (r % mxEPL c.srcFmt = 0)) &&
      decide ((elemRange c.srcFmt 0 r).2 ≤ 2 ^ 18)))

end Sys2Proof.Machine
end

