-- ==== Sys2Proof/Machine/ClPort.lean ====
section
/-! DEFINITION. The cluster ports (R460 to R468): a cluster's requests are checked, translated in the port stop and sent
to their homes, to the host or through a window, and answered; prefetches (R215); WB messages. -/

namespace Sys2Proof.Machine

/-- The port takes messages: its cluster is live and its region RUNNING (R460). -/
def Die.portOn (e : Env) (d : Die) (k : Nat) : Bool := d.live e k && d.running (k / 8)

/-! ### Headers (Table 16.3) and the checks of R464 to R466 -/

def reqTag (h : BitVec 128) : Nat := bitsOf h.toNat 4 8
def reqCtx (h : BitVec 128) : Nat := bitsOf h.toNat 12 12
def reqPtr (h : BitVec 128) : Nat := bitsOf h.toNat 24 48
def reqLines (h : BitVec 128) : Nat := bitsOf h.toNat 76 11 + 1
def reqAop (h : BitVec 128) : Nat := bitsOf h.toNat 87 4
def reqAsize (h : BitVec 128) : Nat := if bitsOf h.toNat 91 1 = 1 then 8 else 4

/-- What a request asks of the homes: the code of its OP. -/
def reqOp (op : Nat) : HomeOp :=
  if op = 0 then .readShared else if op = 1 then .readOwn else if op = 2 ∨ op = 7 then .readOnce else if op = 3 then .writeFull
  else if op = 5 then .atomic else if op = 6 then .reduce else .writeMask

/-- The message keeps to R465 and R466. -/
def Die.reqOk (d : Die) (k op : Nat) (h : BitVec 128) (beats : List (BitVec 128 × Line)) : Bool :=
  let p := reqPtr h
  let wr := decide (op = 3 ∨ op = 4 ∨ op = 5 ∨ op = 6 ∨ op = 8)
  let be := ((beats.head?).map Prod.fst).getD 0
  decide (op ≤ 8) &&
  !(d.coh.reqs.any (fun q => decide (q.who = k ∧ q.tag = reqTag h ∧ q.op ≠ .wb ∧ q.op ≠ .pf))) &&
  decide (beats.length = if !wr then 0 else if op = 8 then reqLines h else 1) &&
  (if op = 5 then decide (p % reqAsize h = 0 ∧ reqAop h < 8)
   else if op = 7 ∨ op = 8 then decide (p % 128 = 0)
   else if op = 3 then decide (be = BitVec.allOnes 128)
   else if op = 4 ∨ op = 6 then be.getLsbD (p % 128)
   else true)

/-! ### Data to a cluster -/

/-- A line goes to a cluster: KIND 0 line, 1 tile beat, 2 old value. -/
def Die.rdat (e : Env) (d : Die) (q : Req) (kind st : Nat) (x : Line) : Die :=
  let d := (d.dropReq q.rid).forget (.req q.rid)
  if q.who ≥ 64 ∨ d.fenced q.who then d
  else
    let d := ((d.count (64 + 8 * q.who + 1) 128).count (64 + 8 * q.who + 7) 128).monitor e 0 q.who 0 128
    d.send (.rdat q.who q.tag kind st q.line (q.slice.getD 0) q.attr.watchEn q.attr.watchId q.beat x)

/-- A request fails with a status (R240, R68): LOST and BUS_ERROR reach the cluster as such, a window failure as
BUS_ERROR, and every other as DROPPED, since the request is not performed. Its context is torn down. -/
def Die.reqFail (e : Env) (d : Die) (q : Req) (status : Nat) (secur : Bool) : Die :=
  let d := d.endReq q (if status = St.LOST then 2 else if status = St.BUS_ERROR ∨ status = St.WINDOW then 3 else 4)
  match q.ctx with
  | some c =>
    if d.tearing c ∨ d.ctxState c = 5 then d
    else match q.cmd.bind d.cmd with
      | some x => d.cmdFail e x status secur
      | none => d.teardown e c status none none secur
  | none => d

/-! ### Contributions of a core reduce-write (R308, R466) -/

/-- The destination elements that a byte mask selects, none where it splits one (R308). Of a microscaled block, all the element bytes
must be selected where one or its scale byte is; log entry 95. -/
def maskElems (f : Nat) (be : BitVec 128) : Option (List Nat) :=
  let part := fun (i m : Nat) => bitsOf be.toNat (m * i) m
  let m := if fmtMx f then mxEB f else fmtSize f
  let ks := List.range (if fmtMx f then mxNBL f else 128 / m)
  let on := ks.filter (fun i => decide (part i m ≠ 0))
  let loose := fmtMx f && (ks.any (fun i => decide (part i m = 0 ∧ bitsOf be.toNat (mxS0 f + i) 1 = 1)) || decide (be ≠ 0 ∧ on = []))
  if loose || ks.any (fun i => decide (part i m ≠ 0 ∧ part i m ≠ 2 ^ m - 1)) then none
  else
    some (if fmtMx f then (on.map (fun b => (List.range 32).map (fun i => 32 * b + i))).flatten else on)

/-- `n` contributions as they travel in the bytes of a number (R466, R323): microscaled blocks bring their scale first. -/
def wireVals (sf n x : Nat) : List (FV × Nat) :=
  if fmtMx sf then
    let w := mxEB sf + 1
    (List.range n).map (fun i =>
      let o := 8 * (i / 32 * w)
      (mxElemFV sf (bitsOf x o 8) (bitsOf x (o + 8 + mxW sf * (i % 32)) (mxW sf)), 0))
  else (List.range n).map (fun i =>
    let b := bitsOf x (8 * fmtSize sf * i) (8 * fmtSize sf)
    (if sf = 5 then .nan else elemFV sf b, b))

/-- `n` contributions packed from byte 0 of a line, none where they do not fit there. -/
def packedVals (sf n : Nat) (x : Line) : Option (List (FV × Nat)) :=
  if fmtMx sf ∧ (n % 32 ≠ 0 ∨ n / 32 * (mxEB sf + 1) > 128) then none
  else if !(fmtMx sf) ∧ n * fmtSize sf > 128 then none
  else some (wireVals sf n x.toNat)

/-- The contributions of a core reduce-write into the effective format `f`. -/
def coreContribs (q : Req) (f : Nat) : Option (List Contrib) :=
  (maskElems f q.mask).bind (fun es => (packedVals q.srcFmt es.length q.data).map (fun vs =>
    List.zipWith (fun i v => (⟨i, v.1, v.2⟩ : Contrib)) es vs))

/-! ### Translation in the port stop (R463) -/

/-- The source through which the port stop acts. -/
def Req.src (q : Req) (d : Die) : Src :=
  let c := q.cmd.bind d.cmd
  { id := q.who, cache := q.who / 8, unit := 1, use := .req q.rid,
    by_ := { ctx := q.ctx.getD 0, source := 0, index := q.who, seq := (c.map (·.seq)).getD 0, ring := (c.map (·.ring)).getD 0 } }

/-- The access of Table 5.2. -/
def Req.acc (q : Req) : Nat :=
  match q.op with
  | .writeFull | .writeMask => Ac.write
  | .atomic => Ac.atomic
  | .reduce => Ac.reduce
  | _ => Ac.read

/-- Runs of ones in a byte mask: (first byte, bytes). -/
def maskRuns (m : BitVec 128) : List (Nat × Nat) :=
  ((List.range 128).filter (fun i => m.getLsbD i)).foldl (fun (a : List (Nat × Nat)) i =>
    match a.getLast? with
    | some y => if y.1 + y.2 = i then a.dropLast ++ [(y.1, y.2 + 1)] else a ++ [(i, 1)]
    | none => [(i, 1)]) []

/-- The bytes of its line that a request names: first byte and length. -/
def Req.bytes (q : Req) : Nat × Nat :=
  match q.op with
  | .writeFull | .writeMask | .reduce =>
    let on := (List.range 128).filter (fun i => q.mask.getLsbD i)
    let lo := on.headD 0
    (lo, on.getLastD lo - lo + 1)
  | .atomic => (q.off, q.asize)
  | _ => (q.off, 1)

/-- A reduce-write's DST_FMT of INT32 into a WIDE_ACC segment is refused at translation (R318). -/
def Req.segOk (q : Req) (g : Seg) : Bool :=
  !(decide (q.op = .reduce) && g.wide && decide (q.dstFmt = 5)) &&
  !(decide (q.op = .atomic) && decide (g.typ = 2) && decide (q.asize ≠ 8))

/-- A write of a cluster that leaves the die: to host memory, or as packets of a window. -/
def farWrite (q : Req) (s : Src) (x : Span) : Act Unit := do
  let d ← get
  let base := x.off / 128 * 128
  let byte := lineBytes q.data
  if q.op = .reduce then
    match maskElems q.dstFmt q.mask with
    | none => throw (.status St.BUS_ERROR)
    | some es =>
      match packedVals q.srcFmt es.length q.data with
      | none => throw (.status St.BUS_ERROR)
      | some vs =>
        let runs := es.zipIdx.foldl (fun (a : List (Nat × Nat × Nat)) i =>
          match a.getLast? with
          | some y => if y.1 + y.2.2 = i.1 then a.dropLast ++ [(y.1, y.2.1, y.2.2 + 1)] else a ++ [(i.1, i.2, 1)]
          | none => [(i.1, i.2, 1)]) []
        let fp := fmtMx q.srcFmt && !(runs.all (fun y => decide (y.2.1 % 32 = 0 ∧ y.2.2 % 32 = 0)))
        runs.forM (fun y => do
          let off := if fmtMx q.dstFmt then base + y.1 / 32 * mxEB q.dstFmt else base + y.1 * fmtSize q.dstFmt
          let pay := if fp then fp32Wire ((vs.drop y.2.1).take y.2.2) false
            else if fmtMx q.srcFmt then (byte.drop (y.2.1 / 32 * (mxEB q.srcFmt + 1))).take (wireBytes q.srcFmt y.2.2)
            else (byte.drop (y.2.1 * fmtSize q.srcFmt)).take (wireBytes q.srcFmt y.2.2)
          winPost { s.winReq d x 4 off with payload := pay, arg := (if fp then 0 else q.srcFmt) + 64 * q.dstFmt + 4096 * Bool.num q.round })
  else (maskRuns q.mask).forM (fun y => do
    let b := (byte.drop y.1).take y.2
    if x.typ = 1 then upd (fun e d => d.hostWrite e (d.hostId s.by_.ctx) (x.host - x.off % 128 + y.1) b)
    else winPost { s.winReq d x 3 (base + y.1) with payload := b })

/-- A prefetch is sent for a line (R215). -/
def Die.prefetch (d : Die) (q : Req) (line : Nat) : Die :=
  if d.coh.reqs.any (fun x => decide (x.op = .pf ∧ x.who = q.who ∧ x.line = line)) then d
  else { d with nid := d.nid + 1,
                coh.reqs := d.coh.reqs ++ [{ rid := d.nid, who := q.who, op := .pf, line := line, ctx := q.ctx, slice := q.slice,
                                             attr := q.attr, epoch := q.epoch }] }

/-- The stride detector of a demand read (R215). -/
def Die.strideSeen (d : Die) (q : Req) : Die :=
  if !(decide (q.op = .readShared ∨ q.op = .readOwn)) ∨ q.attr.pf = 1 then d
  else
    let i := 16 * q.who + q.stream
    let x := q.line
    match Tab.get none d.coh.strides i with
    | none => { d with coh.strides := Tab.set none d.coh.strides i (some { last := x }) }
    | some s =>
      let dl : Int := x - s.last
      let fits := decide (dl ≠ 0 ∧ dl.natAbs ≤ 32)
      let t := fits && decide (dl = s.stride)
      let d : Die := { d with coh.strides := Tab.set none d.coh.strides i (some { last := x, stride := if fits then dl else 0, trained := t }) }
      let depth := d.getF (if q.attr.pf = 2 then F.LC_CFG.PF_DEPTH_EAGER else F.LC_CFG.PF_DEPTH) 0
      if t ∧ d.bit F.LC_CFG.PF_ENABLE 0 then
        (List.range depth).foldl (fun d j =>
          let y : Int := x + dl * (j + 1)
          if 0 ≤ y ∧ pageOfLine y.toNat = pageOfLine x then d.prefetch q y.toNat else d) d
      else d

/-- The lines of one request, still in the port stop, are translated: a tile at both ends (R175), every other at its own
bytes. Writes to the host or through a window leave at once. -/
def portPlace (qs : List Req) : Act Unit := do
  match qs with
  | [] => pure ()
  | q :: _ =>
    let d ← get
    let s := q.src d
    let o := q.ptr - q.ptr % 128
    let x ← (if q.tile then translate s q.acc o 0 (128 * qs.length) true q.segOk
             else translate s q.acc (o + q.bytes.1) 0 q.bytes.2 false q.segOk)
    countAccess s q.acc x
    let ls := x.lines.map Prod.fst
    let far := (qs.zipIdx).map (fun y =>
      let off := x.off / 128 * 128 + 128 * y.2
      let r : Req := { y.1 with heldP := false, attr := x.attr, epoch := d.getF F.STU_EPOCH.EPOCH s.by_.ctx }
      if x.typ = 0 then { r with line := (ls[y.2]?).getD 0 }
      else if x.typ = 1 then { r with host := some (x.host - x.off % 128 + 128 * y.2) }
      else { r with window := some (x.die, x.win, off) })
    modify (fun d => far.foldl Die.setReq d)
    if x.typ = 0 then modify (fun d => far.foldl Die.strideSeen d)
    else if q.op.writes then
      (far.zipIdx).forM (fun y => farWrite y.1 { s with use := .req y.1.rid } { x with off := x.off + 128 * y.2, host := x.host + 128 * y.2 })

/-! ### Requests that leave the die -/

/-- Data from the host or through a window. -/
def farRead (q : Req) : Act (List Byte) := do
  let d ← get
  let c := q.ctx.getD 0
  match q.host, q.window with
  | some a, _ => hostRead (.req q.rid) (d.hostId c) a 128
  | none, some w =>
    let base : WinReq := { use := .req q.rid, ctx := c, slice := q.slice, die := w.1, win := w.2.1, op := 1, off := w.2.2, len := 128,
                           needSeal := decide (q.attr.cls ≠ 0) }
    if q.op = .atomic then
      let n := if q.aop = 7 then 16 else 8
      winFetch { base with op := 5, off := w.2.2 + q.off, len := 0, arg := q.aop, payload := (lineBytes q.data).take n }
    else winFetch base
  | none, none => throw .later

/-- A request to the host or through a window goes on: it is answered once everything it waits for has come. -/
def Die.farGo (e : Env) (d : Die) (rid : Nat) : Die :=
  match d.req rid with
  | none => d
  | some q =>
    if q.heldP ∨ (q.host.isNone ∧ q.window.isNone) then d
    else if q.drop ∨ q.op.writes then if d.winBusy (.req rid) then d else d.endReq q (if q.drop then 4 else 0)
    else match attempt e d (.req rid) (farRead q) with
      | .ok b d => d.rdat e q (if q.op = .atomic then 2 else if q.tile then 1 else 0) 0 (lineOf b)
      | .wait d => d
      | .stop s x d => d.reqFail e q s x
      | .fault _ d => d

/-! ### The port stop -/

/-- The requests of a port that still stand in its stop are translated in order, until one waits or is held; `fuel`
bounds them. -/
def Die.portPump (e : Env) : Nat → Die → Nat → Die
  | 0, d, _ => d
  | fuel + 1, d, k =>
    match d.coh.reqs.find? (fun q => decide (q.who = k) && q.heldP) with
    | none => d
    | some q =>
      if d.stu.held.any (fun h => decide (h.rid = some q.rid)) then d
      else
        let qs := if q.tile then d.coh.reqs.filter (fun x => decide (x.who = k ∧ x.tag = q.tag) && x.heldP && x.tile) else [q]
        match attempt e d (.req q.rid) (portPlace qs) with
        | .ok _ d => Die.portPump e fuel (qs.foldl (fun d x => d.farGo e x.rid) d) k
        | .wait d => d
        | .stop s x d => d.reqFail e q s x
        | .fault r d => d.faulted e r q.cmd (some q.rid)

/-- Every port stop goes on, and so does every request outside the die. -/
def Die.portsPump (e : Env) (d : Die) : Die :=
  let d := (List.range 64).foldl (fun d k => if d.coh.reqs.any (fun q => decide (q.who = k) && q.heldP) then d.portPump e 64 k else d) d
  (d.coh.reqs.filter (fun q => q.host.isSome || q.window.isSome)).foldl (fun d q => d.farGo e q.rid) d

/-- The requests that one message makes: one for each line (R233). -/
def Die.makeReqs (e : Env) (d : Die) (k op : Nat) (h : BitVec 128) (beats : List (BitVec 128 × Line)) (x : Kern) : List Req :=
  let n := if op = 7 ∨ op = 8 then reqLines h else 1
  let w := h.toNat
  (List.range n).map (fun i =>
    let b := (beats[i]?).getD (0, 0)
    { rid := d.nid + i, who := k, op := if op = 8 ∧ b.1 = BitVec.allOnes 128 then .writeFull else reqOp op, line := 0,
      off := reqPtr h % 128, ctx := some x.ctx, slice := d.sliceOf x.ctx, data := b.2, mask := b.1, aop := reqAop h, asize := reqAsize h,
      srcFmt := bitsOf w 92 6, dstFmt := bitsOf w 98 6, round := decide (bitsOf w 104 1 = 1), tag := reqTag h,
      tile := decide (op = 7 ∨ op = 8), beat := i, cmd := some x.cmd, at_ := e.tq, ptr := reqPtr h + 128 * i, heldP := true, stream := bitsOf w 72 4 })

/-- A REQ message with its WDAT beats at a port (R462 to R466). A request of a kernel that is being abandoned, or of a
context that is being torn down, is answered DROPPED (R467). -/
def Die.portReq (e : Env) (d : Die) (k op : Nat) (h : BitVec 128) (parOk : Bool) (beats : List (BitVec 128 × Line)) : Die :=
  if !(d.portOn e k) then d
  else
    let n := 128 * beats.length
    let d := (((d.count (64 + 8 * k) 1).count (64 + 8 * k + 2) n).count (64 + 8 * k + 7) n).monitor e 0 k 1 n
    match d.kernOn k with
    | none => d.portDead e k
    | some x =>
      if !parOk ∨ d.fire0 Cs.CLP_PARITY k ∨ reqCtx h ≠ x.ctx ∨ !(d.reqOk k op h beats) then d.portDead e k
      else
        let d := beats.foldl (fun d _ => d.send (.credit k 2)) (d.send (.credit k 0))
        let qs := d.makeReqs e k op h beats x
        let d : Die := { d with nid := d.nid + qs.length, coh.reqs := d.coh.reqs ++ qs }
        if x.aband ∨ d.tearing x.ctx ∨ d.ctxState x.ctx = 5 then
          qs.foldl (fun d q => match d.req q.rid with | some q => d.endReq q 4 | none => d) d
        else if op = 6 ∧ !(fmtPair (bitsOf h.toNat 92 6) (bitsOf h.toNat 98 6)) then
          qs.foldl (fun d q => d.reqFail e q St.BAD_ARG false) d
        else d.portPump e (qs.length + 64) k

def execClpReq (k : BitVec 6) (h : BitVec 128) (parOk : Bool) (beats : List (BitVec 128 × Line)) (s : State) :
    Host.Outcome State Fault Refusal :=
  s.go (s.d.portReq s.env k.toNat (bitsOf h.toNat 0 4) h parOk beats)

def execTileLoad (k : BitVec 6) (h : BitVec 128) (parOk : Bool) (s : State) : Host.Outcome State Fault Refusal :=
  s.go (s.d.portReq s.env k.toNat 7 h parOk [])

def execTileStore (k : BitVec 6) (h : BitVec 128) (parOk : Bool) (beats : List (BitVec 128 × Line)) (s : State) :
    Host.Outcome State Fault Refusal :=
  s.go (s.d.portReq s.env k.toNat 8 h parOk beats)

def execClpWb (k : BitVec 6) (h : BitVec 56) (parOk : Bool) (data : Line) (s : State) : Host.Outcome State Fault Refusal :=
  let e := s.env
  let d := s.d
  let k := k.toNat
  s.go (
    if !(d.portOn e k) then d
    else
      let d := ((d.count (64 + 8 * k + 2) 128).count (64 + 8 * k + 7) 128).monitor e 0 k 1 128
      if !parOk ∨ d.fire0 Cs.CLP_PARITY k then d.portDead e k
      else
        let q : Req := { rid := d.nid, who := k, op := .wb, line := bitsOf h.toNat 6 43, tag := bitsOf h.toNat 0 6, data := data, at_ := e.tq,
                         attr := { watchEn := decide (bitsOf h.toNat 49 1 = 1), watchId := bitsOf h.toNat 50 6 } }
        let d : Die := { d with nid := d.nid + 1, coh.reqs := d.coh.reqs ++ [q] }
        if d.wbHead e k (d.home e q.line) = some q.rid then d.wbFreed k else d)

end Sys2Proof.Machine
end

