-- ==== Sys2Proof/Machine/Flushes.lean ====
section
/-! DEFINITION. Flushes (R243 to R245), changes of page state and their purges (R32, R205, R206), page scrubs (R107,
R108), the retirement of a key slot (R350), and the fences of operations that finish later (R97, R513). -/

namespace Sys2Proof.Machine

/-- An outcome of the Foreman is counted (R403). -/
def Die.foreman (d : Die) (f : Fld) : Die := d.incSat f 0 1

/-- An activity with this key is paused: the pause is counted once (R403). -/
def Die.pause (d : Die) (key : Nat) : Die :=
  if key ∈ d.mem.paused then d
  else Die.foreman { d with mem.paused := key :: d.mem.paused } F.ST_FOREMAN_STATUS.PAUSES

def Die.unpause (d : Die) (key : Nat) : Die := { d with mem.paused := d.mem.paused.filter (· ≠ key) }

/-- An activity of region `r` that is due while the region is GATING pauses (R397, R404). -/
def Die.gatePause (d : Die) (r key : Nat) : Die := if d.powerState r = 3 then d.pause key else d

/-! ### Fences of finished operations (R97, R513) -/

/-- DONE_FENCE of a privileged command waits for its operation; all argument blocks hold it at the same place. -/
def Die.addFence (d : Die) (c : Cmd) (kind key : Nat) (pages : List Nat) (ready : Bool) : Die :=
  let f : DoneFence := ⟨kind, key, c.id, c.ctx, c.ring, c.seq, c.p6 16, c.q 24, pages, ready⟩
  { d with sm.fences := d.sm.fences ++ [f] }

/-- The operations of a kind and key have finished. -/
def Die.fenceReady (d : Die) (kind key : Nat) : Die :=
  { d with sm.fences := d.sm.fences.map (fun f => if f.kind = kind ∧ f.key = key then { f with ready := true } else f) }

/-- A privileged command and its whole operation have been carried out. -/
def Die.opDone (e : Env) (d : Die) (c : Cmd) (result : Nat) : Die :=
  ((d.finish c.id St.OK result).addFence c 7 0 [] true).fencesGo e

/-- A privileged command completes, and its operation finishes later. -/
def Die.opBegun (d : Die) (c : Cmd) (kind key : Nat) : Die := (d.finish c.id St.OK 0).addFence c kind key [] false

/-- A refused operation (Table 3.6): it changes nothing and signals no fence. -/
def Die.opRefused (d : Die) (c : Cmd) (reason detail : Nat) : Die :=
  d.finish c.id St.OK (2 ^ 63 + reason * 2 ^ 56 + detail)

/-! ### Flushes -/

/-- The lines that the homes hold, or home in cluster caches, and that a filter matches. -/
def Die.flushHits (e : Env) (d : Die) (f : Filter) : List Nat :=
  ((d.coh.lc.map Prod.fst ++ d.coh.dir.map Prod.fst ++ (d.coh.side.map (fun x => x.2.map (·.line))).flatten).eraseDups).filter (f.hits e d)

/-- One line of a flush: cluster copies are back-invalidated, a dirty line is written back, a clean one dropped. -/
def Die.flushLine (e : Env) (d : Die) (line : Nat) : Die :=
  let d := if (d.dirEnt line).isSome then d.startTxn e line 0 none none none true else d
  match attempt e d .other (writeback line) with
  | .ok _ d => (d.setLc line none).dropSide e line
  | .wait d => d
  | .stop _ _ d => (d.setLc line none).dropSide e line
  | .fault _ d => d

/-- A running flush goes over the lines it still matches. -/
def Die.flushStep (e : Env) (d : Die) (f : Filter) : Die := (d.flushHits e f).foldl (Die.flushLine e) d

/-- A flush starts; a line that another flush matches too is handled once for both. -/
def Die.startFlush (e : Env) (d : Die) (f : Filter) (after : After) : Die :=
  let both := d.coh.flushes.any (fun g => (d.flushHits e f).any (g.filter.hits e d))
  let d := if both then d.foreman F.ST_FOREMAN_STATUS.MERGES else d
  let d : Die := { d with nid := d.nid + 1, coh.flushes := d.coh.flushes ++ [{ id := d.nid, filter := f, after := after }] }
  d.flushStep e f

/-- A flush that something waits for is still running. -/
def Die.flushRuns (d : Die) (a : After) : Bool := d.coh.flushes.any (fun f => decide (f.after = a))

/-- Some line of the page can match the filter. -/
def Filter.meets (e : Env) (d : Die) (p : Nat) : Filter → Bool
  | .all r => if p ∈ d.sm.localHome then decide (stackOf p = r) else e.hasRegion r
  | .slice s => d.ownedBy p s
  | .pages ps => decide (p ∈ ps)
  | .slot k => decide (d.rangeSlot p = some k)

/-! ### Page scrubs -/

/-- A scrub of the page scrubs it (R108, R253): it is UNSCRUBBED, or withdrawn and orphaned under an order with RESTORE, and no
null-map page. -/
def Die.scrubbable (e : Env) (d : Die) (p : Nat) : Bool :=
  d.present e p && !(d.isNmapPage e p) &&
    (decide (d.pageState p = 0) || (d.sm.restore.contains p && decide (d.pageState p = 3) && d.bit F.SM_POT.ORPHAN p))

/-- The page has changed its state and its purge has not ended (R206). -/
def Die.potHolds (d : Die) (p : Nat) : Bool := d.sm.potOps.any (fun o => decide (o.kind ≠ 0 ∧ o.kind ≠ 5) && o.pages.contains p)

/-- The page's scrub is over, and whatever waits for it goes on. -/
def Die.scrubGone (d : Die) (p : Nat) : Die :=
  { d with sm.scrubs := d.sm.scrubs.filter (fun x => decide (x.1 ≠ p)), sm.restore := d.sm.restore.filter (· ≠ p),
           sm.waited := d.sm.waited.filter (· ≠ p),
           sm.fences := d.sm.fences.map (fun f => { f with pages := f.pages.filter (· ≠ p) }) }

/-- A page is queued for a scrub; two scrubs of one page merge (R108, R404), the one that a reclamation will make of its pages among
them (R115). -/
def Die.queueScrub (d : Die) (p : Nat) : Die :=
  if d.sm.scrubs.any (fun x => decide (x.1 = p)) ∨ d.sm.potOps.any (fun o => decide (o.kind = 2) && o.pages.contains p) then
    d.foreman F.ST_FOREMAN_STATUS.MERGES
  else { d with sm.scrubs := d.sm.scrubs ++ [(p, false)] }

/-- A running flush matches the page. -/
def Die.scrubMeets (e : Env) (d : Die) (p : Nat) : Bool := d.coh.flushes.any (fun f => f.filter.meets e d p)

/-- The queued pages of stack `n` whose turn has come and that wait for a flush are counted, each once (R403). -/
def Die.scrubWaits (e : Env) (d : Die) (n : Nat) : Die :=
  let mine := d.sm.scrubs.filter (fun x => !x.2 && decide (stackOf x.1 = n))
  (mine.takeWhile (fun x => d.potHolds x.1 || d.scrubMeets e x.1)).foldl (fun d x =>
    if !(d.scrubMeets e x.1) ∨ d.sm.waited.contains x.1 then d
    else Die.foreman { d with sm.waited := x.1 :: d.sm.waited } F.ST_FOREMAN_STATUS.WAITS) d

/-- Each stack scrubs one page at a time; a page that a running flush matches, or whose last change has not ended, waits (R404, R206).
A queued page that is not to be scrubbed any more is skipped. A scrub wakes its region (R397), and pauses during a blackout or a retraining of its stack (R404). -/
def Die.scrubPump (e : Env) (d : Die) : Die :=
  let d := (d.sm.scrubs.filter (fun x => !x.2 && !(d.scrubbable e x.1))).foldl (fun d x => d.scrubGone x.1) d
  (List.range 8).foldl (fun d n =>
    if d.sm.scrubs.any (fun x => x.2 && decide (stackOf x.1 = n)) then d
    else
      let d := d.scrubWaits e n
      match d.sm.scrubs.find? (fun x => decide (stackOf x.1 = n) && !(d.potHolds x.1) && !(d.scrubMeets e x.1)) with
      | some x =>
        let d : Die := { d with sm.scrubs := d.sm.scrubs.map (fun y => if y.1 = x.1 then (x.1, true) else y) }
        let d := if (Tab.get none d.mem.cal n).isSome ∨ d.mem.retr.contains n then d.foreman F.ST_FOREMAN_STATUS.PAUSES else d
        (d.setF F.SM_POT.SCRUBBING x.1 1).wake e n
      | none => d) d

/-! ### Changes of page state -/

/-- A change of page state begins: it waits for the requests checked under the old state (R32). -/
def Die.startPot (d : Die) (kind sl : Nat) (pages : List Nat) (cmd : Option Nat) : Die :=
  { d with nid := d.nid + 1,
           sm.potOps := d.sm.potOps ++ [{ id := d.nid, kind := kind, sl := sl, pages := pages, cmd := cmd,
                                          waits := (pages.map d.unaccepted).flatten }] }

def Die.dropPot (d : Die) (id : Nat) : Die := { d with sm.potOps := d.sm.potOps.filter (fun o => decide (o.id ≠ id)) }
def Die.setPot (d : Die) (o : PotOp) : Die := { d with sm.potOps := d.sm.potOps.map (fun x => if x.id = o.id then o else x) }

/-- The operation that caused the change goes on: LOCAL_HOME clears (R206 step 3), the command completes, or the
reclamation scrubs its pages. -/
def Die.potEnd (e : Env) (d : Die) (o : PotOp) : Die :=
  let d : Die := if o.kind = 0 then d else { d with sm.localHome := d.sm.localHome.filter (fun p => !(o.pages.contains p)) }
  if o.kind = 2 then
    let d := d.setPot { o with kind := 5, flush := none }
    (o.pages.foldl Die.queueScrub d).scrubPump e
  else
    let d := (d.dropPot o.id).scrubPump e
    match o.cmd.bind d.cmd with
    | some c => d.opDone e c o.pages.length
    | none => d

/-- Every request that the change waits for has been accepted at its home. -/
def Die.potFree (d : Die) (o : PotOp) : Bool :=
  d.coh.reqs.all (fun q => !(o.waits.contains q.rid) || q.tracker.isSome) && d.stu.passed.all (fun x => !(o.waits.contains x.n))

/-- The change is complete in every replica: an assignment is done; a page that has left OWNED or RESERVED is purged
(R206, R239). A withdrawn page leaves the homes' lists. -/
def Die.potChange (e : Env) (d : Die) (o : PotOp) : Die :=
  if o.kind = 5 ∨ o.flush.isSome ∨ !(d.potFree o) then d
  else if o.kind = 0 then d.potEnd e o
  else
    let d : Die := if o.kind = 3 then
        { d with coh.wdraw := (List.range 64).foldl (fun t h => Tab.set [] t h ((Tab.get [] t h).filter (fun p => !(o.pages.contains p)))) d.coh.wdraw }
      else d
    let d := d.setPot { o with flush := some d.nid }
    d.startFlush e (.pages o.pages) (.potOp o.id)

/-! ### Key slots leave service (R350) -/

/-- RETIRE steps 1 and 2. -/
def Die.startRetire (e : Env) (d : Die) (k : Nat) (cmd : Option Nat) : Die :=
  let d : Die := { d.setF F.SE_SLOT.STATE k 3 with se.ops := d.se.ops ++ [(k, cmd)] }
  (d.startFlush e (.slot k) (.retire k)).wake e (d.getF F.SE_SLOT.STACK k)

/-- RETIRE steps 3 and 4, once the flush has ended: the tag lines of the slot are written back and dropped, the keys
erased, and the slot goes to EMPTY. The answer says whether it did. -/
def Die.endRetire (e : Env) (d : Die) (k : Nat) : Bool × Die :=
  if d.flushRuns (.retire k) then (false, d)
  else
    let tags := (d.mem.tagc.map Prod.fst).filter (fun l => d.inSpan k (pageOfLine l))
    match attempt e d .other (tags.forM tagEvict) with
    | .ok _ d =>
      let g := d.getF F.SE_SLOT.GENERATION k
      let d := (d.clearElem .SE_SLOT k).setF F.SE_SLOT.GENERATION k (g + 1)
      (true, { d with se.keys := Tab.set none d.se.keys k none, se.ops := d.se.ops.filter (fun x => decide (x.1 ≠ k)) })
    | .wait d => (false, d)
    | .stop _ _ d => (false, d)
    | .fault _ d => (false, d)

/-! ### Key slots enter service (R349) -/

/-- The null bits of every line of a page become 1; the null-map lines are written as maintenance. -/
def Die.nullPage (e : Env) (d : Die) (p : Nat) : Die :=
  let n := stackOf p
  let key0 := nmapKey (p * 2 ^ 18)
  let inMap : Nat → Bool := fun k => decide (key0 ≤ k ∧ k < key0 + 1024)
  let d : Die := { d with
    mem.nmap := d.mem.nmap.filter (fun x => !(inMap x.1)),
    mem.nmapBad := d.mem.nmapBad.filter (fun x => !(inMap x.1)),
    mem.nmc := d.mem.nmc.map (fun x => if inMap x.1 then (x.1, x.2.map (fun c => { c with data := ones, dirty := false })) else x) }
  d.chargeBulk e n (2 ^ 17)

/-- BIND steps 1 and 2: the slot's bounds, and the flush of the range and the tag span. -/
def Die.startBind (e : Env) (d : Die) (k cls sl first count tag : Nat) (cmd : Option Nat) : Die :=
  let d := (((d.setF F.SE_SLOT.STATE k 1).setF F.SE_SLOT.CLASS k cls).setF F.SE_SLOT.SLICE k sl).setF F.SE_SLOT.STACK k (stackOf first)
  let d := ((d.setF F.SE_SLOT.FIRST_PAGE k first).setF F.SE_SLOT.COUNT k count).setF F.SE_SLOT.TAG_PAGE k tag
  let d : Die := { d with se.ops := d.se.ops ++ [(k, cmd)] }
  let span := if cls = 1 then (List.range (ceilDiv count 16)).map (tag + ·) else []
  (d.startFlush e (.pages ((List.range count).map (first + ·) ++ span)) (.bind k)).wake e (stackOf first)

/-- BIND steps 3 to 5, once the flush has ended: fresh keys, the null bits of the range, and the slot BOUND. The answer
says whether they were taken. -/
def Die.endBind (e : Env) (d : Die) (k : Nat) : Bool × Die :=
  let n := d.getF F.SE_SLOT.STACK k
  if d.flushRuns (.bind k) ∨ !(d.bit F.MC_STATUS.NMAP_READY n) ∨ d.mem.retr.contains n then (false, d)
  else if !(d.running n) then (false, d.wake e n)
  else
    let k1 := d.free256
    let d : Die := { d with ctr := d.ctr + 4 }
    let k2 := d.free256
    let d : Die := { d with ctr := d.ctr + 4 }
    let k3 := d.free256
    let d : Die := { d with ctr := d.ctr + 4, se.keys := Tab.set none d.se.keys k (some ⟨k1, k2, k3⟩) }
    let first := d.getF F.SE_SLOT.FIRST_PAGE k
    let d := ((List.range (d.getF F.SE_SLOT.COUNT k)).map (first + ·)).foldl (Die.nullPage e) d
    (true, { d.setF F.SE_SLOT.STATE k 2 with se.ops := d.se.ops.filter (fun x => decide (x.1 ≠ k)) })

/-- The BIND or RETIRE of slot `k`, begun by a command or by SE_SLOT0, goes on; its command completes with it. -/
def Die.keyGo (e : Env) (d : Die) (k : Nat) : Die :=
  match d.se.ops.find? (fun x => decide (x.1 = k)) with
  | none => d
  | some x =>
    let r := if d.getF F.SE_SLOT.STATE k = 1 then d.endBind e k
      else if x.2.isSome then d.endRetire e k else (false, d)
    if r.1 then
      match x.2.bind r.2.cmd with
      | some c => r.2.opDone e c 0
      | none => r.2
    else r.2

end Sys2Proof.Machine
end

