-- ==== Sys2Proof/Machine/Slices.lean ====
section
/-! DEFINITION. Slices and the Page Ownership Table (chapter 3): SLICE_CTL, the disable and the reclamation of a slice,
page states, scrubs, the dirty log, and the set-up writes of the Slice Manager. -/

namespace Sys2Proof.Machine

/-! ### SLICE_CTL (R96 to R100) -/

/-- REASON of Table 3.6. -/
abbrev Why.WRONG_STATE : Nat := 1
abbrev Why.PAGE_NOT_FREE : Nat := 2
abbrev Why.NOT_OWNER : Nat := 3
abbrev Why.KEY_BOUND : Nat := 4
abbrev Why.CLUSTER_UNAVAILABLE : Nat := 5
abbrev Why.PASID_IN_USE : Nat := 6
abbrev Why.VF_IN_USE : Nat := 7
abbrev Why.HOMING_MISMATCH : Nat := 8
abbrev Why.NOT_BOUND : Nat := 9
abbrev Why.LOG_STATE : Nat := 10

/-- The slice a SLICE_CTL or LOG_CTL addresses. -/
def Cmd.sl (c : Cmd) : Nat := dfield c.desc 8 0 9

/-- A SLICE_CTL of sub-operation `sub` starts; one whose effect has begun is not carried out again. -/
def Die.sliceCtl (e : Env) (d : Die) (id sub : Nat) (body : Cmd → Nat → Die → Die) : Die :=
  d.start e id Op.SLICE_CTL (fun c => decide (c.arg0 = sub)) (fun c d => if c.aux ≠ 0 then d else body c c.sl d)

/-- The state is one of those in which the sub-operation is accepted (Table 3.5). -/
def Die.inState (d : Die) (s : Nat) (l : List Nat) : Bool := l.contains (d.sliceState s)

/-- The lowest number of a list that meets a condition. -/
def firstBad (l : List Nat) (bad : Nat → Bool) : Option Nat := l.find? bad

/-- The clusters of a mask. -/
def maskList (m : Nat) : List Nat := (List.range 64).filter (fun k => decide (bitsOf m k 1 = 1))

/-- R100: a cluster named for reserved slice `s` that it cannot have. -/
def Die.unavailable (e : Env) (d : Die) (s : Nat) (homing : Bool) (r k : Nat) : Bool :=
  !(d.live e k) || (match d.ownerOf k with | some o => decide (o ≠ s) | none => false) || (homing && decide (k / 8 ≠ r))

/-- Clusters are assigned: they are claimed from the pool, and their regions wake (R41, R85). -/
def Die.takeClusters (e : Env) (d : Die) (s : Nat) (ks : List Nat) : Die :=
  let d := d.claim e s ks
  ((ks.map (· / 8)).eraseDups).foldl (fun d r => d.wake e r) d

/-- The slice's entry for a slice that has just come into being (R149, R374, R414). -/
def Die.newSlice (d : Die) (s : Nat) : Die :=
  let d := ((d.clearElem .SM_SLICE s).clearElem .TY_SLICE_STAT s).clearElem .AY_SLICE_REC s
  let d := (List.range 4).foldl (fun d k => d.resetCount (4096 + 4 * s + k)) d
  d.setF F.SM_SLICE.STATE s 1

def execCreate (id : Nat) (s : State) : Host.Outcome State Fault Refusal :=
  let e := s.env
  s.go (s.d.sliceCtl e id 0 (fun c sl d =>
    let f := c.q 32
    let rsv := decide (bitsOf f 0 1 = 1)
    let hom := decide (bitsOf f 2 1 = 1)
    let r := bitsOf f 3 3
    let m := c.q 40
    if d.sliceState sl ≠ 0 then d.opRefused c Why.WRONG_STATE 0
    else match firstBad (maskList m) (fun k => rsv && d.unavailable e sl hom r k) with
      | some k => d.opRefused c Why.CLUSTER_UNAVAILABLE k
      | none =>
        let d := d.newSlice sl
        let d := (((d.setF F.SM_SLICE.KIND sl (bitsOf f 0 1)).setF F.SM_SLICE.LENDABLE sl (bitsOf f 1 1)).setF F.SM_SLICE.HOMING sl
          (bitsOf f 2 1)).setF F.SM_SLICE.HOME_REGION sl r
        let d := d.setReg .SM_SLICE_CLUSTERS sl 0 (BitVec.ofNat 64 m)
        (if rsv then d.takeClusters e sl (maskList m) else d).opDone e c 0))

def execClusters (id : Nat) (s : State) : Host.Outcome State Fault Refusal :=
  let e := s.env
  s.go (s.d.sliceCtl e id 1 (fun c sl d =>
    let rsv := d.bit F.SM_SLICE.KIND sl
    let m := c.q 40
    let old := (d.reg .SM_SLICE_CLUSTERS sl 0).toNat
    let all := 2 ^ e.clusters - 1
    let cur := if !rsv ∧ old = 0 then all else old
    let new := if !rsv ∧ m = 0 then all else m
    if rsv ∧ m = 0 then d.cmdFail e c St.BAD_ARG false
    else if !(d.inState sl [1, 2, 4]) then d.opRefused c Why.WRONG_STATE 0
    else match firstBad (maskList cur) (fun k => decide (d.sliceState sl = 2) && decide (bitsOf new k 1 = 0)) with
      | some k => d.opRefused c Why.WRONG_STATE k
      | none => match firstBad (maskList m) (fun k => rsv && d.unavailable e sl (d.bit F.SM_SLICE.HOMING sl) (d.getF F.SM_SLICE.HOME_REGION sl) k) with
        | some k => d.opRefused c Why.CLUSTER_UNAVAILABLE k
        | none =>
          if rsv then
            let gone := (maskList old).filter (fun k => decide (bitsOf m k 1 = 0))
            let come := (maskList m).filter (fun k => decide (bitsOf old k 1 = 0))
            let d := gone.foldl (fun d k => d.setLent k false) d
            let d : Die := { d with sm.claims := d.sm.claims.filter (fun x => !(decide (x.2 = sl) && gone.contains x.1)) }
            (((d.setReg .SM_SLICE_CLUSTERS sl 0 (BitVec.ofNat 64 m)).claimsDone).takeClusters e sl come).opDone e c 0
          else (d.setReg .SM_SLICE_CLUSTERS sl 0 (BitVec.ofNat 64 m)).opDone e c 0))

/-- The pages that a page operation names. -/
def Cmd.pageList (c : Cmd) : List Nat := (List.range (c.w 36)).map (fun i => c.w 32 + i)

/-- Access counters of pages go to 0 (R177). -/
def Die.clearAcnt (d : Die) (ps : List Nat) : Die := ps.foldl (fun d p => d.clearElem .STU_ACNT p) d

def execPagesAssign (id : Nat) (s : State) : Host.Outcome State Fault Refusal :=
  let e := s.env
  s.go (s.d.sliceCtl e id 2 (fun c sl d =>
    let ps := c.pageList
    let hom := d.bit F.SM_SLICE.HOMING sl
    if !(d.inState sl [1, 2, 3, 4]) then d.opRefused c Why.WRONG_STATE 0
    else match firstBad ps (fun p => !(d.present e p) || decide (d.pageState p ≠ 1)) with
      | some p => d.opRefused c Why.PAGE_NOT_FREE p
      | none => match firstBad ps (fun p => hom && decide (stackOf p ≠ d.getF F.SM_SLICE.HOME_REGION sl)) with
        | some p => d.opRefused c Why.HOMING_MISMATCH p
        | none =>
          let d := ps.foldl (fun d p => d.setPage p 2 sl 0 0) d
          let d : Die := if hom then { d with sm.localHome := d.sm.localHome ++ ps } else d
          ((d.clearAcnt ps).setCmd { c with aux := 1 }).startPot 0 sl ps (some c.id)))

def execPagesRelease (id : Nat) (s : State) : Host.Outcome State Fault Refusal :=
  let e := s.env
  s.go (s.d.sliceCtl e id 3 (fun c sl d =>
    let ps := c.pageList
    if !(d.inState sl [1, 2, 3, 4]) then d.opRefused c Why.WRONG_STATE 0
    else match firstBad ps (fun p => !(d.present e p) || !(d.ownedBy p sl)) with
      | some p => d.opRefused c Why.NOT_OWNER p
      | none => match firstBad ps (fun p => (d.rangeSlot p).isSome || (d.spanSlot p).isSome) with
        | some p => d.opRefused c Why.KEY_BOUND p
        | none =>
          let d := ps.foldl (fun d p => d.setPage p 0 0 0 0) d
          ((d.clearAcnt ps).setCmd { c with aux := 1 }).startPot 1 sl ps (some c.id)))

/-- The slice has a host binding (R89). -/
def Die.bound (d : Die) (s : Nat) : Bool := d.bit F.SM_SLICE_BIND.PASID_VALID s || d.bit F.SM_SLICE_BIND.VF_VALID s

/-- A slice goes to ACTIVE: its generators are loaded (R316), and its contexts' states follow their pending work. -/
def Die.goActive (e : Env) (d : Die) (s : Nat) : Die :=
  let d := d.setF F.SM_SLICE.STATE s 2
  let d : Die := { d with eng.gens := (List.range (8 * e.regions)).foldl (fun g n =>
    Tab.set 0 g (genKey n (some s)) (genSeed n (d.reg .CR_SEED s 0) e.now)) d.eng.gens }
  (d.sliceCtxs s).foldl Die.ctxPump d

def execActivate (id : Nat) (s : State) : Host.Outcome State Fault Refusal :=
  let e := s.env
  s.go (s.d.sliceCtl e id 4 (fun c sl d =>
    if !(d.inState sl [1, 4]) ∨ d.sm.quiesce.any (fun q => decide (q.sl = sl)) then d.opRefused c Why.WRONG_STATE 0
    else if !(d.bound sl) then d.opRefused c Why.NOT_BOUND 0
    else (d.goActive e sl).opDone e c 0))

/-- The end of a grace that starts now (R109 step 3). -/
def Die.graceEnd (e : Env) (d : Die) (us : Nat) : Nat :=
  e.now + (if us = 0 then 500000 * max 1 (d.getF F.SM_CFG.GRACE_TICKS 0) else 1000 * us)

def execDisable (id : Nat) (s : State) : Host.Outcome State Fault Refusal :=
  let e := s.env
  s.go (s.d.sliceCtl e id 5 (fun c sl d =>
    if d.sliceState sl ≠ 2 then d.opRefused c Why.WRONG_STATE 0
    else (d.quiesceOn e sl false (d.graceEnd e (c.w 32))).opBegun c 0 sl))

def execForceDisable (id : Nat) (s : State) : Host.Outcome State Fault Refusal :=
  let e := s.env
  s.go (s.d.sliceCtl e id 6 (fun c sl d =>
    if !(d.inState sl [1, 2, 3]) then d.opRefused c Why.WRONG_STATE 0
    else
      let d := (d.forceDisable e sl).setCmd { c with aux := 1 }
      d.addFence c 2 sl [] false))

/-! ### Reclamation (R113 to R115) -/

/-- No request of the slice is in flight: none of its contexts', none of its own at the host. -/
def Die.sliceIdle (d : Die) (s : Nat) : Bool :=
  (d.sliceCtxs s).all d.ctxIdle && !(d.coh.reqs.any (fun q => decide (q.slice = some s))) &&
    !(d.bt.reads.any (fun r => decide (r.2.2.2.2 = .log s ∨ r.2.2.2.2 = .cons s)))

/-- The log of a slice stops (R119). A SWAP or STOP that still waits ends with OK; log entry 93. -/
def Die.logOff (d : Die) (s : Nat) : Die :=
  let waits := (d.sm.logs.filter (fun l => decide (l.sl = s))).flatMap (fun l => l.swap.toList ++ l.stop.toList)
  let d := waits.foldl (fun d i => d.finish i St.OK 0) d
  let d : Die := { d with sm.logs := d.sm.logs.filter (fun l => decide (l.sl ≠ s)) }
  ((d.setF F.SM_SLICE.LOG_ON s 0).setF F.SM_SLICE.LOG_FAILED s 0).forget (.log s)

/-- Reclamation steps 2 and 3: the slice is TEARDOWN, and once nothing of it is in flight its lines are flushed. -/
def Die.tearOn (e : Env) (d : Die) (s : Nat) : Die :=
  if d.sliceIdle s then (d.setF F.SM_SLICE.STEP s 3).startFlush e (.slice s) (.reclaim s) else d

/-- The slice enters TEARDOWN. -/
def Die.enterTear (e : Env) (d : Die) (s : Nat) : Die :=
  (((d.setF F.SM_SLICE.STATE s 5).setF F.SM_SLICE.STEP s 2).logOff s).tearOn e s

def execReclaim (id : Nat) (s : State) : Host.Outcome State Fault Refusal :=
  let e := s.env
  s.go (s.d.sliceCtl e id 7 (fun c sl d =>
    let q := d.sm.quiesce.find? (fun q => decide (q.sl = sl))
    if !(d.inState sl [1, 2, 3, 4]) ∨ (q.map (·.toTear)) = some true then d.opRefused c Why.WRONG_STATE 0
    else if q.isSome then
      let d : Die := { d with sm.quiesce := d.sm.quiesce.map (fun x => if x.sl = sl then { x with toTear := true } else x) }
      (d.setF F.SM_SLICE.STEP sl 1).opBegun c 1 sl
    else if d.sliceState sl = 2 then (d.quiesceOn e sl true (d.graceEnd e (c.w 32))).opBegun c 1 sl
    else (d.enterTear e sl).opBegun c 1 sl))

def execBind (id : Nat) (s : State) : Host.Outcome State Fault Refusal :=
  let e := s.env
  s.go (s.d.sliceCtl e id 8 (fun c sl d =>
    let pv := decide (dfield c.desc 32 20 1 = 1)
    let vv := decide (dfield c.desc 36 7 1 = 1)
    let pasid := dfield c.desc 32 0 20
    let vf := dfield c.desc 36 0 6
    if !(d.inState sl [1, 4]) then d.opRefused c Why.WRONG_STATE 0
    else if pv ∧ (List.range 512).any (fun t => decide (t ≠ sl) && d.bit F.SM_SLICE_BIND.PASID_VALID t && decide (d.getF F.SM_SLICE_BIND.PASID t = pasid))
      then d.opRefused c Why.PASID_IN_USE 0
    else if vv ∧ (List.range 512).any (fun t => decide (t ≠ sl) && d.bit F.SM_SLICE_BIND.VF_VALID t && decide (d.getF F.SM_SLICE_BIND.VF t = vf))
      then d.opRefused c Why.VF_IN_USE 0
    else
      let d := d.clearElem .SM_SLICE_BIND sl
      let d := if pv then (d.setF F.SM_SLICE_BIND.PASID sl pasid).setF F.SM_SLICE_BIND.PASID_VALID sl 1 else d
      let d := if vv then (d.setF F.SM_SLICE_BIND.VF sl vf).setF F.SM_SLICE_BIND.VF_VALID sl 1 else d
      d.opDone e c 0))

/-! ### Disabling with work in flight (R109 to R111) -/

def execGraceExpiry (sl : BitVec 9) (s : State) : Host.Outcome State Fault Refusal :=
  let e := s.env
  let d := s.d
  s.go (
    match d.sm.quiesce.find? (fun q => decide (q.sl = sl.toNat)) with
    | some q => if q.expired ∨ e.now < q.graceEnd then d else d.cancelSlice e sl.toNat
    | none => d)

/-- A started command has ended, or has stopped: a list whose commands have ended, or a kernel on no cluster. -/
def Die.stopped (d : Die) (c : Cmd) : Bool :=
  decide (c.st = .done) ||
  (if c.op = Op.LAUNCH ∨ c.op = Op.LAUNCH_INDIRECT then !c.bypass && !(d.ty.kerns.any (fun k => decide (k.cmd = c.id) && k.placed))
   else false) ||
  ((decide (c.op = Op.CALL_LIST ∨ c.op = Op.SELECT) || c.bypass) && decide (c.aux = 1 ∨ c.bypass = true) &&
    !(d.sf.cmds.any (fun x => decide (x.parent = some c.id) && x.started && decide (x.st ≠ .done))))

/-- Every started command of the slice has ended or stopped (R110). -/
def Die.allStopped (d : Die) (s : Nat) : Bool :=
  (d.openCtxs s).all (fun c => (d.ctxCmds c).all (fun x => !x.started || d.stopped x))

/-- The first cancelled command of a context: RING and SEQ of its error word (R109 step 6). -/
def Die.firstCancelled (d : Die) (c : Nat) : Nat × Nat :=
  let l := (d.ctxCmds c).filter (fun x => x.started && decide (x.st ≠ .done) && !x.bypass)
  match l.foldl (fun (b : Option Cmd) x =>
    match b with
    | none => some x
    | some y => if x.start < y.start ∨ (x.start = y.start ∧ x.ring < y.ring) then some x else b) none with
  | some x => (x.ring, x.seq)
  | none => (0, 0)

/-- R109 steps 5 and 6 for one context. -/
def Die.endCtx (e : Env) (d : Die) (c : Nat) : Die :=
  (d.abortCtx e c St.CANCELLED 2 (d.firstCancelled c) false none (tearRecords d c none St.CANCELLED)).getD d

/-- FORCE_DISABLE commands of the slice complete (R97). -/
def Die.forceDone (d : Die) (s : Nat) : Die :=
  ((d.sm.fences.filter (fun f => decide (f.kind = 2 ∧ f.key = s))).foldl (fun d f => d.finish f.cmd St.OK 0) d).fenceReady 2 s

/-- R109 step 7: DISABLED after a DISABLE, TEARDOWN after a RECLAIM, where the DISABLE's fence comes first. -/
def Die.sliceStopped (e : Env) (d : Die) (q : Quiesce) : Die :=
  let s := q.sl
  let d : Die := { d with sm.quiesce := d.sm.quiesce.filter (fun x => decide (x.sl ≠ s)) }
  let d := ((d.forceDone s).fenceReady 0 s)
  if q.toTear then (d.enterTear e s).fencesGo e else (d.setF F.SM_SLICE.STATE s 4).fencesGo e

def execSliceDrained (sl : BitVec 9) (s : State) : Host.Outcome State Fault Refusal :=
  let e := s.env
  let d := s.d
  let sl := sl.toNat
  s.go (
    match d.sm.quiesce.find? (fun q => decide (q.sl = sl)) with
    | some q =>
      if !q.expired ∧ !(d.allStopped sl) then d
      else
        let d := if q.expired then d else d.cancelSlice e sl
        if !((d.openCtxs sl).all d.ctxIdle) then d
        else
          let d := (d.openCtxs sl).foldl (fun d c => d.endCtx e c) d
          if (d.sliceCtxs sl).all (fun c => decide (d.ctxState c = 5) && !(d.tearing c)) ∧ d.sliceIdle sl then d.sliceStopped e q else d
    | none => if d.sliceState sl = 5 ∧ d.getF F.SM_SLICE.STEP sl = 2 then d.tearOn e sl else d.fencesGo e)

/-! ### Reclamation, steps 3 to 6 -/

/-- The key slots of a slice that are in use. -/
def Die.slotsOf (d : Die) (s : Nat) : List Nat :=
  (List.range 64).filter (fun k => decide (k ≠ 0 ∧ d.slotState k ≠ 0 ∧ d.getF F.SE_SLOT.SLICE k = s))

def execReclaimFlushDone (sl : BitVec 9) (s : State) : Host.Outcome State Fault Refusal :=
  let e := s.env
  let d := s.d
  let sl := sl.toNat
  s.go (
    if d.sliceState sl = 5 ∧ d.getF F.SM_SLICE.STEP sl = 3 ∧ !(d.flushRuns (.reclaim sl)) then
      (d.slotsOf sl).foldl (fun d k => if d.slotState k = 2 then d.startRetire e k none else d) (d.setF F.SM_SLICE.STEP sl 4)
    else d)

/-- Step 5: the slice's OWNED pages go to UNSCRUBBED. -/
def Die.unownPages (d : Die) (s : Nat) : Die :=
  let ps := d.pagesOf s
  (ps.foldl (fun d p => d.setPage p 0 0 0 0) d).startPot 2 s ps none

def execReclaimKeysDone (sl : BitVec 9) (s : State) : Host.Outcome State Fault Refusal :=
  let e := s.env
  let d := s.d
  let sl := sl.toNat
  s.go (
    if d.sliceState sl = 5 ∧ d.getF F.SM_SLICE.STEP sl = 4 then
      let d := (d.slotsOf sl).foldl (fun d k =>
        if d.slotState k = 3 then (d.endRetire e k).2 else if d.slotState k = 2 then d.startRetire e k none else d) d
      if d.slotsOf sl = [] then (d.setF F.SM_SLICE.STEP sl 5).unownPages sl else d
    else d)

/-- Registers and tables of a slice that its release clears (R113 step 6, R174, R202, R271, R422, R430). -/
def Die.releaseRegs (e : Env) (d : Die) (s : Nat) : Die :=
  let d := (d.setF F.SF_SLOT_QUOTA.MIN s 0).setF F.SF_SLOT_QUOTA.MAX s 0
  let d := ((d.clearElem .SM_SLICE_BIND s).clearElem .SM_SLICE_ACLASS s).clearElem .SM_SLICE_LOG s
  let d := (List.range e.regions).foldl (fun d n => d.clearElem .MC_SBW (512 * n + s)) d
  let d := ((d.clearElem .WE_LBW s).clearElem .CH_VIS s).clearElem .CH_WATCH_MASK s
  let d := (List.range 4096).foldl (fun d w =>
    if d.bit F.WE_WTAB.VALID w ∧ d.sliceOf (d.getF F.WE_WTAB.CONTEXT w) = some s then d.setF F.WE_WTAB.VALID w 0 else d) d
  (List.range 64).foldl (fun d w =>
    if d.bit F.CH_WATCH.OPEN w ∧ !(d.isKernelCtx (d.getF F.CH_WATCH.CONTEXT w)) ∧ d.getF F.CH_WATCH.SLICE w = s then
      { d.setF F.CH_WATCH.OPEN w 0 with ch.watch := Tab.set none d.ch.watch w none }
    else d) d

/-- The fault ring is disabled, and the records that still wait are discarded (R174). -/
def Die.releaseRing (d : Die) (s : Nat) : Die :=
  let x := d.fring s
  let st := d.stallsOf s
  let n := x.batch.length + x.replay.length + st.length
  let d : Die := { d with stu.stalled := d.stu.stalled.filter (fun y => decide (d.sliceOf y.frec.ctx ≠ some s)) }
  let d := st.foldl (fun d y => d.setF F.STU_EPOCH.STALLED y.frec.ctx 0) d
  let d := (d.setFring s { x with batch := [], replay := [] }).setF F.STU_FRING_CTL.ENABLE s 0
  if n = 0 then d else d.fringDrop s n

/-- Step 6. Lent clusters become ordinary pool clusters (R135). -/
def Die.release (e : Env) (d : Die) (s : Nat) : Die :=
  let d := ((Tab.get [] d.regs Reg.SM_POT.ctorIdx).map (fun x => x.1 / 8)).foldl (fun d p =>
    if d.pageState p = 3 ∧ d.pageOwner p = s ∧ d.getF F.SM_POT.CAUSE p ≠ 3 then d.setF F.SM_POT.ORPHAN p 1 else d) d
  let d := if d.bit F.SM_SLICE.KIND s then (maskList (d.reg .SM_SLICE_CLUSTERS s 0).toNat).foldl (fun d k => d.setLent k false) d else d
  let d : Die := { d with sm.claims := d.sm.claims.filter (fun x => decide (x.2 ≠ s)) }
  let d := ((d.releaseRegs e s).releaseRing s).clearElem .SM_SLICE_CLUSTERS s
  d.clearElem .SM_SLICE s

def execReclaimScrubDone (sl : BitVec 9) (s : State) : Host.Outcome State Fault Refusal :=
  let e := s.env
  let d := s.d
  let sl := sl.toNat
  s.go (
    if d.sliceState sl = 5 ∧ d.getF F.SM_SLICE.STEP sl = 5 then
      match d.sm.potOps.find? (fun o => decide (o.sl = sl ∧ (o.kind = 2 ∨ o.kind = 5))) with
      | some o =>
        if o.kind = 5 ∧ o.pages.all (fun p => !(d.sm.scrubs.any (fun x => decide (x.1 = p)))) then
          (((d.dropPot o.id).release e sl).fenceReady 1 sl).fencesGo e
        else d
      | none => d
    else d.fencesGo e)

/-! ### Page states and scrubs (R32, R107, R108, R121) -/

def execPotChangeDone (op : Nat) (s : State) : Host.Outcome State Fault Refusal :=
  s.go (
    match s.d.sm.potOps.find? (fun o => decide (o.id = op)) with
    | some o => s.d.potChange s.env o
    | none => s.d.fencesGo s.env)

def execScrub (id : Nat) (s : State) : Host.Outcome State Fault Refusal :=
  let e := s.env
  s.go (s.d.start e id Op.SCRUB (fun _ => true) (fun c d =>
    let r := decide (c.q 32 = 1)
    let ps := ((List.range (c.w 12)).map (fun i => c.w 8 + i)).filter (fun p =>
      Die.scrubbable e (if r then { d with sm.restore := [p] } else { d with sm.restore := [] }) p)
    let d := (ps.foldl (fun d p => Die.queueScrub (if r then { d with sm.restore := d.sm.restore ++ [p] } else d) p) d).scrubPump e
    ((d.finish c.id St.OK ps.length).addFence c 3 0 ps true).fencesGo e))

/-- Every line of the page is zeros with a valid line code and a zero side band, no copy of it stays, and its null bits
are clear (R107). -/
def Die.zeroPage (e : Env) (d : Die) (p : Nat) : Die :=
  let n := stackOf p
  let inPage : Nat → Bool := fun l => decide (pageOfLine l = p)
  let key0 := nmapKey (p * 2 ^ 18)
  let inMap : Nat → Bool := fun k => decide (key0 ≤ k ∧ k < key0 + 1024)
  let d : Die := { d with
    mem.dram := d.mem.dram.filter (fun x => decide (x.1 / 2 ^ 25 ≠ p)),
    mem.side := d.mem.side.filter (fun x => decide (x.1 / 2 ^ 22 ≠ p)),
    mem.nmap := (List.range 1024).foldl (fun t i => Tab.set ones t (key0 + i) 0) d.mem.nmap,
    mem.nmapBad := d.mem.nmapBad.filter (fun x => !(inMap x.1)),
    mem.nmc := d.mem.nmc.map (fun x => if inMap x.1 then (x.1, x.2.map (fun c => { c with data := 0, dirty := false })) else x),
    mem.tagc := d.mem.tagc.filter (fun x => !(inPage x.1)),
    coh.lc := d.coh.lc.filter (fun x => !(inPage x.1)),
    coh.dir := d.coh.dir.filter (fun x => !(inPage x.1)),
    coh.side := (d.coh.side.map (fun x => (x.1, x.2.filter (fun y => !(inPage y.line))))).filter (fun x => decide (x.2 ≠ [])) }
  d.chargeBulk e n (2 ^ 25)

def execPageScrubDone (p : BitVec 15) (s : State) : Host.Outcome State Fault Refusal :=
  let e := s.env
  let d := s.d
  let p := p.toNat
  let n := stackOf p
  s.go (
    if !(d.sm.scrubs.contains (p, true)) then (d.scrubPump e).fencesGo e
    else if d.scrubMeets e p ∨ d.mem.retr.contains n ∨ (Tab.get none d.mem.cal n).isSome ∨
        !(d.bit F.MC_STATUS.NMAP_READY n) then d
    else if !(d.running n) then d.wake e n
    else if (d.coh.dir.any (fun x => decide (pageOfLine x.1 = p) && x.2.isSome)) then
      -- cluster copies are invalidated by the write-invalidates before the page's last line is accepted
      (d.coh.dir.filterMap (fun x => if pageOfLine x.1 = p ∧ x.2.isSome then some x.1 else none)).foldl (fun d l => d.startTxn e l 0 none none none false) d
    else
      let d := (d.zeroPage e p).setF F.SM_POT.SCRUBBING p 0
      let d := if d.scrubbable e p then d.setPage p 1 0 0 0 else d
      ((d.scrubGone p).scrubPump e).fencesGo e)

def execPotSet (who : Who) (v : Word) (s : State) : Host.Outcome State Fault Refusal :=
  let e := s.env
  s.go (
    match s.d.barGate e who .SM_POT_SET 0 with
    | some d => s.d.gateReject who d F.SM_STATUS.CFG_REJECT 0
    | none =>
      let p := fieldOf v 0 15
      let st := fieldOf v 16 3
      if who = .steward ∧ !e.fwSeal ∧ s.d.present e p ∧ s.d.pageState p = 0 ∧ st = 4 then s.d.setPage p 4 0 0 0
      else if who = .steward ∧ !e.fwSeal ∧ s.d.present e p ∧ s.d.pageState p = 0 ∧ st = 3 then s.d.setPage p 3 0 1 3
      else s.d.reject F.SM_STATUS.CFG_REJECT 0)

def execAclassWrite (who : Who) (sl : BitVec 9) (v : Word) (s : State) : Host.Outcome State Fault Refusal :=
  s.go (s.d.barWrite s.env who .SM_SLICE_ACLASS sl.toNat (fun d =>
    if d.settable sl.toNat then d.putWord s.env .SM_SLICE_ACLASS sl.toNat 0 v else d.reject F.SM_STATUS.CFG_REJECT 0))

/-! ### The dirty log (R116 to R120) -/

def Die.dlog (d : Die) (s : Nat) : Option DLog := d.sm.logs.find? (fun l => decide (l.sl = s))
def Die.setLog (d : Die) (l : DLog) : Die := { d with sm.logs := d.sm.logs.map (fun x => if x.sl = l.sl then l else x) }

/-- What waits for bit-sets of a log goes on once they have been confirmed. -/
def Die.logPump (d : Die) (s : Nat) : Die :=
  match d.dlog s with
  | some l =>
    let d := match l.swap with
      | some i => if l.pend.all (fun x => decide (x.2.2 < 10)) then (d.setLog { l with swap := none }).finish i St.OK 0 else d
      | none => d
    match l.stop with
    | some _ => if l.pend = [] then d.logOff s else d
    | none => d
  | none => d

/-- The log of a slice fails (R120): held writes are released, and no further bit is set. -/
def Die.logFail (d : Die) (s : Nat) : Die :=
  match d.dlog s with
  | some l =>
    let d := (d.setF F.SM_SLICE.LOG_FAILED s 1).forget (.log s)
    let d := match l.swap.bind d.cmd with
      | some c => d.opRefused c Why.LOG_STATE 1
      | none => d
    let d := d.setLog { l with pend := [], filter := [], swap := none }
    if l.stop.isSome then d.logOff s else d
  | none => d

/-- Words of a slice's bitmap have been read (R118): bits to set are written and the word is read again to confirm; words read to
confirm are marked. A confirming read that does not show a bit reveals a failed write (R481), and the log fails. -/
def Die.logRead (e : Env) (d : Die) (s a : Nat) (word : Nat) : Die :=
  match d.dlog s with
  | some l =>
    let mine : Nat × Nat × Nat → Bool := fun x => decide (x.2.1 = a)
    if l.pend.any (fun x => mine x && decide (x.2.2 % 10 = 1) && decide (bitsOf word (x.1 % 64) 1 = 0)) then d.logFail s else
    let rmw := l.pend.filter (fun x => mine x && decide (x.2.2 % 10 = 0))
    let w := rmw.foldl (fun w x => w ||| 2 ^ (x.1 % 64)) word
    let d := d.setLog { l with pend := l.pend.map (fun x =>
      if mine x then (if x.2.2 % 10 < 2 then (x.1, x.2.1, x.2.2 + 1) else x) else x) }
    let d := d.forget (.log s)
    if rmw = [] then d else (d.hostWrite e .pf a (bytesLE 8 w)).hostAsk e (.log s) .pf a 8
  | none => d

def execLogStart (id : Nat) (s : State) : Host.Outcome State Fault Refusal :=
  s.go (s.d.start s.env id Op.LOG_CTL (fun c => decide (c.arg0 = 0)) (fun c d =>
    if d.bit F.SM_SLICE.LOG_ON c.sl ∨ !(d.inState c.sl [1, 2, 3, 4]) then d.opRefused c Why.LOG_STATE 0
    else
      let d := (d.setF F.SM_SLICE.LOG_ON c.sl 1).setF F.SM_SLICE_LOG.BITMAP c.sl (c.q 16 / 4096)
      let d : Die := { d with sm.logs := d.sm.logs ++ [{ sl := c.sl }] }
      d.finish c.id St.OK 0))

def execLogSwap (id : Nat) (s : State) : Host.Outcome State Fault Refusal :=
  s.go (s.d.start s.env id Op.LOG_CTL (fun c => decide (c.arg0 = 1)) (fun c d =>
    if c.aux ≠ 0 then d.logPump c.sl
    else if !(d.bit F.SM_SLICE.LOG_ON c.sl) then d.opRefused c Why.LOG_STATE 0
    else if d.bit F.SM_SLICE.LOG_FAILED c.sl then d.opRefused c Why.LOG_STATE 1
    else match d.dlog c.sl with
      | some l =>
        let d := d.setLog { l with filter := [], pend := l.pend.map (fun x => (x.1, x.2.1, x.2.2 % 10 + 10)), swap := some c.id }
        ((d.setF F.SM_SLICE_LOG.BITMAP c.sl (c.q 16 / 4096)).setCmd { c with aux := 1 }).logPump c.sl
      | none => d))

def execLogStop (id : Nat) (s : State) : Host.Outcome State Fault Refusal :=
  s.go (s.d.start s.env id Op.LOG_CTL (fun c => decide (c.arg0 = 2)) (fun c d =>
    if c.aux ≠ 0 then d.logPump c.sl
    else if !(d.bit F.SM_SLICE.LOG_ON c.sl) then d.opRefused c Why.LOG_STATE 0
    else match d.dlog c.sl with
      | some l => ((d.setLog { l with stop := some c.id }).setCmd { c with aux := 1 }).logPump c.sl
      | none => d))

/-- A confirmed granule joins the filter, which has no bound and keeps it to the next SWAP, failure or stop; log entry 94. -/
def execDirtyLogConfirm (sl : BitVec 9) (g : BitVec 19) (s : State) : Host.Outcome State Fault Refusal :=
  let d := s.d
  let sl := sl.toNat
  s.go (
    match d.dlog sl with
    | some l =>
      match l.pend.find? (fun x => decide (x.1 = g.toNat ∧ x.2.2 % 10 = 2)) with
      | some x =>
        let d := d.setLog { l with pend := l.pend.filter (fun y => decide (y ≠ x)),
                                   filter := if x.2.2 < 10 then l.filter ++ [g.toNat] else l.filter }
        (d.logPump sl).settleAll s.env
      | none => d
    | none => d)

end Sys2Proof.Machine
end

