-- ==== Sys2Proof/Machine/Windows.lean ====
section
/-! DEFINITION. Remote windows (chapter 6): the window table, received packets and their checks (Table 6.6), responses,
link ports going down and coming up, link sealing of received packets (R356), and system time (R199 to R201). -/

namespace Sys2Proof.Machine

/-! ### Headers (Table 6.3) -/

/-- `n` bytes of a packet at an offset, as a number. -/
def pktF (b : List Byte) (o n : Nat) : Nat := numLE ((b.drop o).take n)
def pktOp (b : List Byte) : Nat := pktF b 0 1
def pktLen (b : List Byte) : Nat := bitsOf (pktF b 2 2) 0 10
def pktSrc (b : List Byte) : Nat := pktF b 4 2
def pktWin (b : List Byte) : Nat := bitsOf (pktF b 8 4) 0 12
def pktTag (b : List Byte) : Nat := pktF b 12 2
def pktArg (b : List Byte) : Nat := pktF b 14 2
def pktOff (b : List Byte) : Nat := bitsOf (pktF b 16 8) 0 44
def pktAux (b : List Byte) : Nat := pktF b 24 4

/-- Step 1 of Table 6.6. -/
def pktTaken (e : Env) (b : List Byte) : Bool :=
  decide (32 ≤ b.length) && decide (pktF b 28 4 = crc32c (natBytes (b.take 28 ++ b.drop 32))) &&
    ([1, 2, 3, 4, 5, 6, 7, 8, 9, 0x10, 0x11] : List Nat).contains (pktOp b) && decide (fieldOf e.dieId 16 1 = 1)

/-! ### Link sealing of received packets (R356) -/

/-- A packet whose tag fails, or that came unsealed to a port that is ON. -/
def Die.linkFail (e : Env) (d : Die) (p : Nat) : Die :=
  let d := (d.incSat F.SE_ERR.LINK_FAIL 0 1).incSat F.SE_LINK.FAILS p 1
  let d :=
    if d.bit F.SE_ALARM.VALID 0 then d.setEv F.SE_ALARM.VALID 0
    else (((d.clearElem .SE_ALARM 0).setEv F.SE_ALARM.VALID 0).setF F.SE_ALARM.KIND 0 3).setF F.SE_ALARM.PORT 0 p
  (d.setF F.SE_LINK.STATE p 3).report e { cause := Cs.LINK_FAIL, inst := p }

/-- R356 on a packet with its trailer: the packet in the clear, and whether it was verified, `none` of it where the engine's second
mismatch makes it a BUS_ERROR (R347); none where it is dropped. -/
def Die.unseal (e : Env) (d : Die) (p : Nat) (b : List Byte) (tag : BitVec 128) : Die × Option (List Byte × Option Bool) :=
  let isSealed := decide (bitsOf (pktF b 1 1) 0 1 = 1)
  if d.getF F.SE_LINK.STATE p = 2 then
    match Tab.get none d.se.links p with
    | some k =>
      let n := d.getF F.SE_LINK_RXC.COUNT p
      let iv := sealNonce k.rxSalt n
      let ct := natBytes (b.drop 32)
      let rep := fun (d : Die) (c : Nat) => d.report e { cause := c, unit := some 7, inst := p, det0 := 1 }
      if isSealed ∧ d.fire0 Cs.SE_FAULT (8 + p) then
        let w := d.ay.waiting.length
        ((rep (rep (d.fired.incSat F.SE_ERR.MISMATCH 0 2) Cs.SE_MISMATCH) Cs.SE_FAULT).markInj w, some (b, none))
      else if isSealed ∧ natLE (gcmTag k.rxKey iv (natBytes (b.take 28)) ct) = tag.toNat ∧ !(d.fire0 Cs.LINK_FAIL p) then
        let w := d.ay.waiting.length
        let d := if d.fire0 Cs.SE_MISMATCH (8 + p) then (rep (d.fired.incSat F.SE_ERR.MISMATCH 0 1) Cs.SE_MISMATCH).markInj w else d
        let d := (d.incWrap F.SE_LINK_RXC.COUNT p 1).count (3568 + 16 * p + 11) 1
        (if n + 1 = 2 ^ 64 - 1 then d.setF F.SE_LINK.STATE p 3 else d, some (b.take 32 ++ byteList (gcmCrypt k.rxKey iv ct), some true))
      else
        let w := d.ay.waiting.length
        if d.fire0 Cs.LINK_FAIL p then ((d.fired.linkFail e p).markInj w, none) else (d.linkFail e p, none)
    | none => (d.linkFail e p, none)
  else if isSealed then (d.incSat F.SE_LINK.FAILS p 1, none)
  else (d, some (b, some false))

/-- The buffer class of a packet by its operation (R197): 0 request, 1 response, which is every other operation. -/
def pktClass (b : List Byte) : Nat := if ([1, 3, 4, 5, 7] : List Nat).contains (pktOp b) then 0 else 1

/-- A packet's buffer is freed, and its credit returns (R197). -/
def Die.rxFree (d : Die) (p : Nat) (b : List Byte) : Die := d.send (.credit (64 + p) (pktClass b))

/-- A packet arrives at a port: dropped at step 1 or after a port-down report (R198), else unsealed. `sealable` is false
for TIME packets, which are never sealed (R354). The buffer of a packet that is dropped is free at once. -/
def Die.rxArrive (e : Env) (d : Die) (p : Nat) (b : List Byte) (tag : BitVec 128) (sealable : Bool) : Die × Option (List Byte × Option Bool) :=
  if !(d.bit F.WE_PORT_STATUS.UP p) then (d.incSat F.WE_STATUS.RX_DROP 0 1, none)
  else
    let d := (((d.count (3568 + 16 * p + 5) b.length).count 9 b.length).monitor e 3 p 0 b.length)
    if !(pktTaken e b) then ((d.incSat F.WE_STATUS.RX_DROP 0 1).rxFree p b, none)
    else
      let d := d.count (3568 + 16 * p + 3 + pktClass b) 1
      if sealable then
        match d.unseal e p b tag with
        | (d, none) => (d.rxFree p b, none)
        | r => r
      else (d, some (b, some false))

/-! ### Remote reduce-writes (R194, R323) -/

/-- R323: the number of contributions of a RED packet, and the destination bytes as (first window offset, bytes). -/
def redPlan (arg off len : Nat) : Option (Nat × Nat × Nat) :=
  let sf := bitsOf arg 0 6
  let df := bitsOf arg 6 6
  let u := if fmtMx sf then mxEB sf + 1 else fmtSize sf
  let n := if fmtMx sf then 32 * (len / u) else len / u
  if !(fmtPair sf df) ∨ arg ≥ 2 ^ 13 ∨ len = 0 ∨ len % u ≠ 0 then none
  else if fmtMx df then
    let r := off % 128
    if n % 32 ≠ 0 ∨ r % mxEB df ≠ 0 ∨ r / mxEB df ≥ mxNBL df then none
    else some (n, off - r, 128 * ((r / mxEB df + n / 32 - 1) / mxNBL df + 1))
  else if off % fmtSize df ≠ 0 then none
  else some (n, off, n * fmtSize df)

/-- The contributions that fall on each line of the destination; `first` is the block of the first element within its
line, for a microscaled destination. -/
def redLines (df first : Nat) (vs : List (FV × Nat)) (pieces : List (Nat × Nat × Nat)) : List (Nat × List Contrib) :=
  let idx := vs.zipIdx
  if fmtMx df then
    pieces.zipIdx.map (fun y => (y.1.1, idx.filterMap (fun v =>
      let g := first + v.2 / 32
      if g / mxNBL df = y.2 then some ⟨32 * (g % mxNBL df) + v.2 % 32, v.1.1, v.1.2⟩ else none)))
  else
    let sz := fmtSize df
    (pieces.foldl (fun (a : Nat × List (Nat × List Contrib)) y =>
      let cs := idx.filterMap (fun v =>
        let k := sz * v.2
        if a.1 ≤ k ∧ k < a.1 + y.2.2 then some (⟨(y.2.1 + k - a.1) / sz, v.1.1, v.1.2⟩ : Contrib) else none)
      (a.1 + y.2.2, a.2 ++ [(y.1, cs)])) (0, [])).2

/-! ### The checks of a request packet (Table 6.6) -/

/-- The window bytes a request packet spans, none where it is malformed (step 3). -/
def pktSpan (b : List Byte) : Option (Nat × Nat) :=
  let op := pktOp b
  let n := pktLen b
  let o := pktOff b
  let arg := pktArg b
  let res := decide (bitsOf (pktF b 1 1) 1 7 = 0 ∧ bitsOf (pktF b 2 2) 10 6 = 0 ∧ bitsOf (pktF b 8 4) 12 20 = 0 ∧
    bitsOf (pktF b 16 8) 44 20 = 0) && decide (n = (b.drop 32).length) && decide (n ≤ 512) &&
    (decide (op = 1) || decide (pktAux b = 0)) && (decide (op = 4 ∨ op = 5) || decide (arg = 0))
  let fits := fun (x : Nat × Nat) => decide (x.1 % 512 + x.2 ≤ 512)
  if !res then none
  else if op = 1 then if n = 0 ∧ 1 ≤ pktAux b ∧ pktAux b ≤ 512 ∧ fits (o, pktAux b) then some (o, pktAux b) else none
  else if op = 3 then if 1 ≤ n ∧ fits (o, n) then some (o, n) else none
  else if op = 4 then
    match redPlan arg o n with
    | some (_, x) => if fits x then some x else none
    | none => none
  else if op = 5 then if arg ≤ 7 ∧ o % 8 = 0 ∧ n = (if arg = 7 then 16 else 8) then some (o, 8) else none
  else if n = 8 ∧ o % 8 = 0 then some (o, 8) else none

/-- A field of a latched window table entry. -/
def entF (ws : List Word) (f : Fld) : Nat := fieldOf ((ws[f.word]?).getD 0) f.lo f.width

/-- The entry of a window as its four words. -/
def Die.winEntry (d : Die) (w : Nat) : List Word := (List.range 4).map (fun i => d.reg .WE_WTAB w i)

/-- R184: source die `src` matches the entry. -/
def Die.winMatch (d : Die) (ws : List Word) (src : Nat) : Bool :=
  decide (entF ws F.WE_WTAB.VALID = 1) && decide ((src ^^^ entF ws F.WE_WTAB.SRC_DIE) &&& entF ws F.WE_WTAB.SRC_MASK = 0) &&
    d.ctxValid (entF ws F.WE_WTAB.CONTEXT) && !(d.isKernelCtx (entF ws F.WE_WTAB.CONTEXT))

/-- The access of Table 5.2 for a packet operation. -/
def pktAcc (op : Nat) : Nat :=
  if op = 1 then Ac.read else if op = 3 then Ac.write else if op = 4 then Ac.reduce else if op = 5 then Ac.atomic else Ac.fsig

/-- The entry allows the operation (step 5). -/
def entAllows (ws : List Word) (op : Nat) : Bool :=
  decide (entF ws (if op = 1 then F.WE_WTAB.OP_READ else if op = 3 then F.WE_WTAB.OP_WRITE else if op = 4 then F.WE_WTAB.OP_REDUCE
    else if op = 5 then F.WE_WTAB.OP_ATOMIC else F.WE_WTAB.OP_FENCE) = 1)

/-- A failed receive check, by its cause of Table 6.6. -/
def nackFail (cause : Nat) : Fail := .status (1000 + cause)

/-- Statuses of a part of an access become others. -/
def mapStatus {α : Type} (f : Nat → Nat) (a : Act α) : Act α := do
  let e ← read
  let d ← get
  match a.go e d with
  | (.ok x, d') =>
    set d'
    pure x
  | (.error (.status c), d') =>
    set d'
    throw (.status (f c))
  | (.error x, _) => throw x

/-- The source through which a received packet acts. -/
def pktSource (ctx k : Nat) : Src :=
  { id := 136, cache := 8, unit := 12, by_ := { ctx := ctx, source := 6, index := 0 }, use := .packet k, anon := true }

/-- Steps 4 and 5 to 11 of Table 6.6 on a packet that matched entry `ws` and spans `x` window bytes: the translated range.
The checks of R318, and of the landing place's alignment, belong to step 3 and need the segment. -/
def pktTranslate (p : RxPkt) (ws : List Word) (x : Nat × Nat) : Act Span := do
  let b := p.bytes
  let op := pktOp b
  let c := entF ws F.WE_WTAB.CONTEXT
  let seg := entF ws F.WE_WTAB.SEGMENT
  let base := entF ws F.WE_WTAB.BASE
  let s := pktSource c p.k
  let land := entF ws F.WE_WTAB.LOCAL_BASE + (x.1 - base)
  match (← get).passedFor s (pktAcc op) seg land x.2 with
  | some y => pure y
  | none =>
    let g ← mapStatus (fun _ => 1003) (segOf s seg)
    need (g.ok && decide (g.typ = 0)) (nackFail 3)
    let df := bitsOf (pktArg b) 6 6
    let unit := if op = 4 then (if fmtMx df then 128 else fmtSize df) else if op = 5 ∨ op = 7 then 8 else 1
    need (!(decide (op = 4) && g.wide && decide (df ≠ 0)) && (decide (x.1 < base) || decide (land % unit = 0))) (nackFail 1)
    need (entAllows ws op) (nackFail 4)
    need (decide (entF ws F.WE_WTAB.SEAL_REQ = 0) || p.verified) (nackFail 5)
    need (decide (base ≤ x.1 ∧ x.1 + x.2 ≤ entF ws F.WE_WTAB.LIMIT)) (nackFail 6)
    let d ← get
    let sl := d.ctxSlice c
    let st := d.sliceState sl
    need (decide (st = 1 ∨ st = 2 ∨ st = 3) && decide (d.ctxState c ≠ 5) && decide (d.getF F.SM_SLICE.STEP sl < 2)) (nackFail 7)
    need (g.grants (pktAcc op)) (nackFail 8)
    need ((d.reg .SM_SLICE_ACLASS sl 0).getLsbD g.aclass) (nackFail 9)
    let last := land + (x.2 - 1)
    let lost := mapStatus (fun c => if c = St.LOST then 1011 else 1010)
    need ((g.outside land).isNone && (g.outside last).isNone) (nackFail 9)
    let u ← mapStatus (fun _ => 1009) (pageWalk s seg g land)
    let v ← (if land / 2 ^ 25 = last / 2 ^ 25 then pure (u.map (fun y => y + (last - land)))
             else mapStatus (fun _ => 1009) (pageWalk s seg g last))
    match u, v with
    | .ok a, .ok z =>
      lost (potCheck s a)
      if land / 2 ^ 25 ≠ last / 2 ^ 25 then lost (potCheck s (z / 2 ^ 25 * 2 ^ 25))
      let k := min x.2 (2 ^ 25 - land % 2 ^ 25)
      let y : Span := { typ := 0, seg := seg, off := land, len := x.2, attr := g.attr,
                        pieces := if k = x.2 then [(a, x.2)] else [(a, k), (z - (x.2 - k - 1), x.2 - k)] }
      modify (fun d => d.pass s (pktAcc op) y)
      pure y
    | _, _ => throw (nackFail 9)

/-- Step 12: the access at its home; the answer is the response's OP and payload (R189 to R191, R194). -/
def pktPerform (p : RxPkt) (ws : List Word) (x : Span) : Act (Nat × List Byte) := do
  let b := p.bytes
  let op := pktOp b
  let pay := b.drop 32
  let c := entF ws F.WE_WTAB.CONTEXT
  let s := pktSource c p.k
  let e ← read
  let d ← get
  let word := (x.lines.headD (0, 0, 0))
  let r : Nat × List Byte ← (
    if op = 1 then do
      let y ← x.pieces.foldlM (fun a z => do
        let l ← physRead z.1 z.2 (s.ask x.attr)
        pure (a ++ l)) []
      pure (2, y)
    else if op = 3 then do
      storeSpan s x pay
      pure (8, [])
    else if op = 4 then do
      let arg := pktArg b
      let df := bitsOf arg 6 6
      let n := match redPlan arg (pktOff b) (pktLen b) with | some y => y.1 | none => 0
      let vs := wireVals (bitsOf arg 0 6) n (numLE pay)
      (redLines df (pktOff b % 128 / mxEB df) vs x.lines).forM (fun y => do
        let _ ← reduceAt y.1 df (decide (bitsOf arg 12 1 = 1) && !x.attr.wide) y.2 (d.sliceOf c) true (s.ask x.attr))
      pure (8, [])
    else if op = 5 then do
      let y ← atomicAt word.1 word.2.1 8 (pktArg b) (numLE (pay.take 8)) (numLE (pay.drop 8)) (s.ask x.attr)
      pure (6, bytesLE 8 y.1)
    else do
      let y ← signalAt word.1 word.2.1 (numLE pay) (s.ask x.attr)
      if y.2 then
        upd (fun e d =>
          let d := (d.incSat F.SF_CTX_STATUS.FENCE_REGRESS c 1).count 62 1
          if d.bit F.SF_CTX_CFG.DIAG c then
            d.frecord e { typ := 3, ctx := c, source := 6, acc := Ac.fsig, ptr := x.seg * 2 ^ 44 + x.off, time := e.now, d0 := numLE pay, d1 := y.1 }
          else d)
      pure (8, bytesLE 8 y.1))
  modify (fun d => x.pieces.foldl (fun d z => d.access e 1 (pageOf z.1) (piecesOf z.1 z.2).length (pktAcc op) s.by_) d)
  pure r

/-- The packet has been answered: its buffer is free, and its credit returns (R197). -/
def Die.rxDone (e : Env) (d : Die) (p : RxPkt) (op aux : Nat) (pay : List Byte) : Die :=
  let b := p.bytes
  let d : Die := { d with we.rx := d.we.rx.filter (fun y => decide (y.k ≠ p.k)) }
  let d := if op = 9 then (d.incSat F.WE_STATUS.RX_NACK 0 1).count (3568 + 16 * p.port + 6) 1 else d
  (d.rxFree p.port b).respond e p.port op (pktSrc b) (pktWin b) (pktTag b) aux (pktOff b) pay

/-- A received request goes on (R189): the first failing check decides, and one that passes them is performed once its
home lets it. An entry once matched stands (R34, R187). -/
def Die.rxGo (e : Env) (d : Die) (k : Nat) : Die :=
  match d.we.rx.find? (fun p => decide (p.k = k)) with
  | none => d
  | some p =>
    let b := p.bytes
    if pktF b 6 2 ≠ fieldOf e.dieId 0 16 then d.rxDone e p 9 2 []
    else match pktSpan b with
      | none => d.rxDone e p 9 1 []
      | some x =>
        let ws := if p.ent = [] then d.winEntry (pktWin b) else p.ent
        if p.ent = [] ∧ !(d.winMatch ws (pktSrc b)) then d.rxDone e p 9 3 []
        else
          let p := { p with ent := ws }
          let d : Die := { d with we.rx := d.we.rx.map (fun y => if y.k = k then p else y) }
          match attempt e d (.packet k) (do let y ← pktTranslate p ws x; pktPerform p ws y) with
          | .ok r d => d.rxDone e p r.1 0 r.2
          | .wait d => d
          | .stop c _ d => d.rxDone e p 9 (if c ≥ 1000 then c - 1000 else if c = St.LOST then 11 else 12) []
          | .fault _ d => d.rxDone e p 9 9 []

/-- Every received request that waits goes on. -/
def Die.rxPump (e : Env) (d : Die) : Die := d.we.rx.foldl (fun d p => d.rxGo e p.k) d

/-- A request packet of operation `op` arrives. -/
def Die.rxRequest (e : Env) (d : Die) (p op : Nat) (b : List Byte) (tag : BitVec 128) : Die :=
  if pktOp b ≠ op then d
  else match d.rxArrive e p b tag true with
    | (d, none) => d
    | (d, some (b, none)) => d.rxDone e { k := d.nid, port := p, bytes := b, verified := false } 9 12 []
    | (d, some (b, some v)) =>
      let k := d.nid
      Die.rxGo e { d with nid := d.nid + 1, we.rx := d.we.rx ++ [{ k := k, port := p, bytes := b, verified := v }] } k

def execRdReq (p : BitVec 4) (b : List Byte) (tag : BitVec 128) (s : State) : Host.Outcome State Fault Refusal :=
  s.go (s.d.rxRequest s.env p.toNat 1 b tag)

def execWr (p : BitVec 4) (b : List Byte) (tag : BitVec 128) (s : State) : Host.Outcome State Fault Refusal :=
  s.go (s.d.rxRequest s.env p.toNat 3 b tag)

def execRed (p : BitVec 4) (b : List Byte) (tag : BitVec 128) (s : State) : Host.Outcome State Fault Refusal :=
  s.go (s.d.rxRequest s.env p.toNat 4 b tag)

def execWindowAtomic (p : BitVec 4) (b : List Byte) (tag : BitVec 128) (s : State) : Host.Outcome State Fault Refusal :=
  s.go (s.d.rxRequest s.env p.toNat 5 b tag)

def execFsig (p : BitVec 4) (b : List Byte) (tag : BitVec 128) (s : State) : Host.Outcome State Fault Refusal :=
  s.go (s.d.rxRequest s.env p.toNat 7 b tag)

def execRxDrop (p : BitVec 4) (b : List Byte) (s : State) : Host.Outcome State Fault Refusal :=
  let d := s.d
  s.go (if d.bit F.WE_PORT_STATUS.UP p.toNat ∧ pktTaken s.env b then d else (d.rxArrive s.env p.toNat b 0 false).1)

/-! ### Responses (R181, R193, R195, R196) -/

/-- A window access ends in failure `status`. -/
def Die.winEnds (e : Env) (d : Die) (q : WinReq) (status : Nat) : Die :=
  match q.use with
  | .req r =>
    match d.req r with
    | some x => d.reqFail e x status false
    | none => d.teardown e q.ctx status none none false
  | .cmd id =>
    match d.cmd id with
    | some c => d.cmdFail e c status false
    | none => d.teardown e q.ctx status none none false
  | _ => d.teardown e q.ctx status none none false

/-- A window access has failed at this die or by a NACK (R195). -/
def Die.winFail (e : Env) (d : Die) (q : WinReq) (cause : Nat) : Die := (d.werr q.ctx cause q.die q.win).winEnds e q St.WINDOW

/-- What waited for a tracker, and who waited for its response, go on. -/
def Die.winGo (e : Env) (d : Die) (use : Use) : Die :=
  let d := d.winPump e
  match use with
  | .req r => d.farGo e r
  | _ => d

/-- The tracker is free again; `f` is what its response, or the want of one, does, unless the issuing context has gone. -/
def Die.trkEnd (e : Env) (d : Die) (t : Trk) (f : Die → Die) : Die :=
  let d : Die := { d with we.trks := d.we.trks.filter (fun y => decide (y.n ≠ t.n)) }
  (if t.dead then d else f d).winGo e t.req.use

/-- Requests waiting to leave that have no port left fail (R180). -/
def Die.routeGone (e : Env) (d : Die) : Die :=
  (d.we.queue.filter (fun q => (d.routePort q.die q.win q.needSeal).isNone)).foldl (fun d q =>
    if d.we.queue.contains q then Die.winFail e { d with we.queue := d.we.queue.erase q } q 18 else d) d

/-- The response answers the request (Table 6.4). -/
def answers (t : Trk) (op n : Nat) : Bool :=
  decide (op = 9) || (if t.req.op = 1 then decide (op = 2 ∧ n = t.req.len) else if t.req.op = 5 then decide (op = 6 ∧ n = 8)
    else if t.req.op = 7 then decide (op = 8 ∧ n = 8) else decide (op = 8))

/-- A response packet of operation `op` arrives. -/
def Die.rxResponse (e : Env) (d : Die) (p op : Nat) (b : List Byte) (tag : BitVec 128) : Die :=
  if pktOp b ≠ op then d
  else match d.rxArrive e p b tag true with
    | (d, none) => d
    | (d, some (b, v)) =>
      let d := d.rxFree p b
      let d := if op = 9 then d.count (3568 + 16 * p + 7) 1 else d
      let pay := b.drop 32
      match d.we.trks.find? (fun t => decide (t.n + 8192 * t.gen = pktTag b ∧ t.req.die = pktSrc b) && answers t op pay.length) with
      | none => d.incSat F.WE_STATUS.STALE 0 1
      | some t =>
        d.trkEnd e t (fun d =>
          if v.isNone then d.winEnds e t.req St.BUS_ERROR
          else if op = 9 then d.winFail e t.req (pktAux b)
          else if t.req.op = 3 ∨ t.req.op = 4 then d
          else { d with we.data := d.we.data ++ [{ use := t.req.use, die := t.req.die, win := t.req.win, op := t.req.op, off := t.req.off, bytes := pay }] })

def execRdRsp (p : BitVec 4) (b : List Byte) (tag : BitVec 128) (s : State) : Host.Outcome State Fault Refusal :=
  s.go (s.d.rxResponse s.env p.toNat 2 b tag)

def execAtomicRsp (p : BitVec 4) (b : List Byte) (tag : BitVec 128) (s : State) : Host.Outcome State Fault Refusal :=
  s.go (s.d.rxResponse s.env p.toNat 6 b tag)

def execAck (p : BitVec 4) (b : List Byte) (tag : BitVec 128) (s : State) : Host.Outcome State Fault Refusal :=
  s.go (s.d.rxResponse s.env p.toNat 8 b tag)

def execNack (p : BitVec 4) (b : List Byte) (tag : BitVec 128) (s : State) : Host.Outcome State Fault Refusal :=
  s.go (s.d.rxResponse s.env p.toNat 9 b tag)

/-- RSP_TIMEOUT_US in ns (R182). -/
def Die.rspTimeout (d : Die) : Nat := 1000 * max 10 (d.getF F.WE_CFG.RSP_TIMEOUT_US 0)

def execWindowRspTimeout (t : BitVec 13) (s : State) : Host.Outcome State Fault Refusal :=
  let e := s.env
  let d := s.d
  s.go (match d.we.trks.find? (fun x => decide (x.n = t.toNat)) with
    | some x =>
      if e.now < x.sent + d.rspTimeout then d
      else (d.count (3568 + 16 * x.port + 8) 1).trkEnd e x (fun d => d.winFail e x.req 16)
    | none => d)

/-! ### Link ports (R198, R354, R483) -/

/-- The key exchange is over: nothing of it stays (R358). -/
def Die.kexOver (d : Die) : Die := { (d.setF F.TS_KEX_STATUS.BUSY 0 0).setF F.TS_KEX_STATUS.STAGED 0 0 with se.kex := none }

/-- A port that was up is reported down (R198, R358). -/
def Die.portDown (e : Env) (d : Die) (p : Nat) : Die :=
  let d := ((d.setF F.WE_PORT_STATUS.UP p 0).incSat F.WE_PORT_STATUS.DOWN_COUNT p 1).report e { cause := Cs.LINK_DOWN, inst := p }
  let d := if d.se.kex.any (fun k => decide (k.port = p)) then d.kexOver else d
  let d : Die := { d.setF F.SE_LINK.STATE p 0 with se.links := Tab.set none d.se.links p none,
                                                   we.rspq := d.we.rspq.filter (fun r => decide (r.1 ≠ p)) }
  let d := (d.we.trks.filter (fun t => decide (t.port = p))).foldl (fun d t =>
    match d.we.trks.find? (fun y => decide (y.n = t.n)) with
    | some y => d.trkEnd e y (fun d => d.winFail e y.req 17)
    | none => d) d
  d.routeGone e

def execLinkDown (p : BitVec 4) (s : State) : Host.Outcome State Fault Refusal :=
  s.go (if s.d.bit F.WE_PORT_STATUS.UP p.toNat then s.d.portDown s.env p.toNat else s.d)

def execLinkUp (p : BitVec 4) (s : State) : Host.Outcome State Fault Refusal :=
  let d := s.d
  let p := p.toNat
  s.go (
    if d.bit F.WE_PORT_STATUS.UP p then d
    else (((d.setF F.WE_PORT_STATUS.UP p 1).setF F.WE_PORT_STATUS.REQ_CREDITS p 64).setF F.WE_PORT_STATUS.RSP_CREDITS p 64).winPump s.env)

/-! ### MAP_WINDOW (R186, R187) and WE_LBW (R202) -/

/-- The entry of a window is replaced; DONE_FENCE waits for the packets that matched the old one. -/
def Die.putEntry (d : Die) (c : Cmd) (w : Nat) (ws : List Word) : Die :=
  let old := (d.we.rx.filter (fun p => p.ent ≠ [] ∧ pktWin p.bytes = w)).map (·.k)
  let d := ws.zipIdx.foldl (fun d x => d.setReg .WE_WTAB w x.2 x.1) d
  { (d.opBegun c 4 d.nid) with nid := d.nid + 1, we.mapOps := d.we.mapOps ++ [(d.nid, w, old, c.id)] }

def execMapWindowSet (id : Nat) (s : State) : Host.Outcome State Fault Refusal :=
  let e := s.env
  s.go (s.d.start e id Op.MAP_WINDOW (fun c => decide (c.arg0 = 0)) (fun c d =>
    let w := dfield c.desc 8 0 12
    let ctx := dfield c.desc 32 1 12
    if !(d.ctxValid ctx) ∨ d.isKernelCtx ctx then d.cmdFail e c St.BAD_ARG false
    else if d.sliceState (d.ctxSlice ctx) = 0 ∨ d.sliceState (d.ctxSlice ctx) = 5 then d.opRefused c Why.WRONG_STATE 0
    else d.putEntry c w ((List.range 4).map (fun i => BitVec.ofNat 64 (c.q (32 + 8 * i))))))

def execMapWindowClear (id : Nat) (s : State) : Host.Outcome State Fault Refusal :=
  s.go (s.d.start s.env id Op.MAP_WINDOW (fun c => decide (c.arg0 = 1)) (fun c d =>
    let w := dfield c.desc 8 0 12
    d.putEntry c w [putField (d.reg .WE_WTAB w 0) 0 1 0]))

def execMapWindowDrained (op : Nat) (s : State) : Host.Outcome State Fault Refusal :=
  let d := s.d
  s.go (match d.we.mapOps.find? (fun x => decide (x.1 = op)) with
    | some x =>
      if d.we.rx.any (fun p => x.2.2.1.contains p.k) then d
      else (({ d with we.mapOps := d.we.mapOps.filter (fun y => decide (y.1 ≠ op)) }.fenceReady 4 op).fencesGo s.env)
    | none => d)

def execWeLbwWrite (who : Who) (sl : BitVec 9) (v : Word) (s : State) : Host.Outcome State Fault Refusal :=
  let sl := sl.toNat
  s.go (s.d.barWrite s.env who .WE_LBW sl (fun d =>
    if d.settable sl then
      let b := d.linkBucket s.env sl
      Die.winPump s.env { (d.putWord s.env .WE_LBW sl 0 v) with we.lbw := Tab.set (0, 0, 0) d.we.lbw sl (b.1, b.2, s.env.now) }
    else d.reject F.WE_STATUS.CFG_REJECT 0))

/-! ### System time (R199 to R201) -/

/-- The payload of Table 6.7. -/
def timePayload (t1 t2 depth : Nat) (locked : Bool) : List Byte :=
  bytesLE 8 t1 ++ bytesLE 8 t2 ++ bytesLE 8 0 ++ bytesLE 1 depth ++ bytesLE 1 (Bool.num locked) ++ bytesLE 6 0

def Die.isFollower (d : Die) : Bool := decide (d.getF F.WE_TIME_CFG.ROLE 0 = 2)

def execTimeExchange (s : State) : Host.Outcome State Fault Refusal :=
  let e := s.env
  let d := s.d
  let p := d.getF F.WE_TIME_CFG.PARENT_PORT 0
  s.go (
    if !d.isFollower ∨ d.we.timeTicks < max 1 (d.getF F.WE_TIME_CFG.INTERVAL_TICKS 0) ∨ fieldOf e.dieId 16 1 = 0 then d
    else
      let d : Die := { d with we.timeTicks := 0, we.timeT1 := none }
      if !(d.bit F.WE_PORT_STATUS.UP p) then d
      else d.respond e p 0x10 0 0 0 0 0 (timePayload 0 0 0 false))

def execTimeReq (p : BitVec 4) (b : List Byte) (s : State) : Host.Outcome State Fault Refusal :=
  let e := s.env
  let d := s.d
  let p := p.toNat
  s.go (
    if pktOp b ≠ 0x10 then d
    else match d.rxArrive e p b 0 false with
      | (d, none) => d
      | (d, some _) =>
        let d := d.rxFree p b
        let root := decide (d.getF F.WE_TIME_CFG.ROLE 0 = 1)
        if root ∨ d.isFollower then
          d.respond e p 0x11 (pktSrc b) 0 (pktTag b) 0 0 (timePayload (pktF b 32 8) e.now
            (if root then 0 else d.getF F.WE_TIME_STATUS.DEPTH 0) (root || d.bit F.WE_TIME_STATUS.LOCKED 0))
        else d)

/-- Die time steps from `e` to `e'` (R424): at each monitor the window that was open closes with STEPPED, the windows
between are not recorded, and the window the step lands in is marked too. -/
def Die.stepMons (e e' : Env) (d : Die) : Die :=
  (List.range 64).foldl (fun d m =>
    if d.getF F.CH_BWMON.WINDOW_US m = 0 then d
    else
      let d := d.rollMon e m
      let s := Tab.get (0, 0, false) d.ch.mons m
      let w := d.monWindow m e'.now
      if w < s.2.1 then d
      else if w = s.2.1 ∨ d.monWindow m e.now < s.2.1 then { d with ch.mons := Tab.set (0, 0, false) d.ch.mons m (if w = s.2.1 then s.1 else 0, w, true) }
      else
        let d := (d.setF F.CH_BWLAST.BYTES m s.1).setF F.CH_BWLAST.STEPPED m 1
        let d := (d.setF F.CH_BWPEAK.PEAK m (max (d.getF F.CH_BWPEAK.PEAK m) (s.1 % 2 ^ 48))).incWrap F.CH_BWCOUNT.WINDOWS m 1
        { d with ch.mons := Tab.set (0, 0, false) d.ch.mons m (0, w, true) }) d

/-- A signed number as 32 bits, saturating. -/
def sat32 (x : Int) : Nat := (BitVec.ofInt 32 (max (-(2 ^ 31)) (min (2 ^ 31 - 1) x))).toNat

/-- The lock state after an exchange with lead `th` (R200, R201). -/
def Die.timeLock (d : Die) (th : Int) (depth : Nat) (parent : Bool) : Die :=
  let good := if th.natAbs ≤ 20 ∧ parent then d.we.good + 1 else 0
  let depth := min 255 (depth + 1)
  let deep := decide (depth > 12)
  let was := d.bit F.WE_TIME_STATUS.LOCKED 0
  let now_ := !deep && decide (th.natAbs ≤ 100) && (was || decide (good ≥ 4))
  let d := (((d.setF F.WE_TIME_STATUS.LOCKED 0 (Bool.num now_)).setF F.WE_TIME_STATUS.TOO_DEEP 0 (Bool.num deep)).setF
    F.WE_TIME_STATUS.DEPTH 0 depth).incWrap F.WE_TIME_STATUS.SYNCS 0 1
  { (d.setF F.WE_TIME_STATUS.OFFSET_NS 0 (sat32 th)).count 3920 1 with we.good := good, we.timeT1 := none }

def execTimeRsp (p : BitVec 4) (b : List Byte) (s : State) : Host.Outcome State Fault Refusal :=
  let e := s.env
  let d := s.d
  let p := p.toNat
  if pktOp b ≠ 0x11 then s.go d
  else match d.rxArrive e p b 0 false with
    | (d, none) => s.go d
    | (d, some _) =>
      let d := d.rxFree p b
      let t1 := pktF b 32 8
      if !d.isFollower ∨ p ≠ d.getF F.WE_TIME_CFG.PARENT_PORT 0 ∨ d.we.timeT1 ≠ some t1 ∨ e.now > t1 + d.rspTimeout then s.go d
      else
        let th := (signed64 (pktF b 40 8 + 2 ^ 64 - t1) - signed64 (e.now % 2 ^ 64 + 2 ^ 64 - pktF b 48 8)) / 2
        let d := d.timeLock th (pktF b 56 1) (decide (bitsOf (pktF b 57 1) 0 1 = 1))
        if th > d.getF F.WE_TIME_CFG.STEP_NS 0 then
          let e' : Env := { e with tq := e.tq + th.toNat * 65536, slew := 0 }
          .next { s with env := e', d := d.stepMons e e' }
        else .next { s with env := { e with slew := th * 65536 }, d := d }

end Sys2Proof.Machine
end

