-- ==== Sys2Proof/Machine/Pump.lean ====
section
/-! DEFINITION. Requests for device memory at the host port (R91, R105, R233, R341), and what goes on once something it
waited for has come: transactions, port stops, window packets, host requests, fences and scrubs. -/

namespace Sys2Proof.Machine

/-! ### Device memory through the host port -/

/-- A host request is turned away with a completer abort (PCIe status CA); a debug access shifts out 0. -/
def Die.hpAbort (e : Env) (d : Die) (q : HpReq) : Die :=
  if q.who = .tap then (if q.wr then d else d.send (.tdo 0)) else d.abortHost.hpSend e (.hostCpl q.tag.toNat 4 [])

/-- What a read request brought is returned. -/
def Die.hpAnswer (e : Env) (d : Die) (q : HpReq) (b : List Byte) : Die :=
  if q.wr then d else if q.who = .tap then d.send (.tdo (numLE b)) else d.hpSend e (.hostCpl q.tag.toNat 0 b)

/-- The bytes a request moves. -/
def hpBytes (q : HpReq) : Nat := if q.wr then q.data.length else q.len.toNat

/-- The page passes the check of Table 3.9 for a host-port request; a debug access is not checked. -/
def Die.hostPage (e : Env) (d : Die) (who : Who) (p : Nat) : Bool :=
  d.present e p && decide (who = .tap) || d.present e p &&
    (match d.resolve who with
     | .slice s => d.ownedBy p s && decide (d.sliceState s = 1 ∨ d.sliceState s = 2 ∨ d.sliceState s = 3) && decide (d.getF F.SM_SLICE.STEP s < 2)
     | .privileged => decide (d.pageState p = 2 ∨ d.pageState p = 4)
     | .unbound => false)

/-- A read or write of device memory by the host: the check of every page, then the access at the homes. -/
def hostAccess (k : Nat) (q : HpReq) : Act (List Byte) := do
  let e ← read
  let d ← get
  let a := q.addr.toNat
  let n := hpBytes q
  let ps := [pageOf a, pageOf (a + n - 1)]
  match ps.find? (fun p => !(d.hostPage e q.who p)) with
  | some p =>
    upd (fun e d => (d.incSat F.SM_STATUS.HOST_ISOL 0 1).potFail e (if p = pageOf a then a else p * 2 ^ 25) 18 0 137 none
      (match d.resolve q.who with | .slice s => some s | _ => none))
    throw (.status St.ISOLATION)
  | none =>
    let ask : Ask := { id := if q.who = .tap then 138 else 137, use := .packet k, kind := if q.who = .tap then 2 else 1 }
    let r ← (if q.wr then do
        physWrite a q.data ask
        pure []
      else physRead a n ask)
    if q.who ≠ .tap then
      (piecesOf a n).forM (fun x => upd (fun e d => d.access e 2 (pageOfLine x.1) 1 (if q.wr then Ac.write else Ac.read)
        { ctx := 0, source := 5, index := 0 }))
    pure r

/-- A request leaves the host port's buffers: its header and the bytes it brought free them. A debug access holds none. -/
def Die.hpTaken (d : Die) (q : HpReq) : Die := if q.who = .tap then d else d.hpFree (if q.wr then q.data.length else 0)

/-- The waiting host requests go on in their order; `fuel` bounds them. -/
def Die.hpPump (e : Env) : Nat → Die → Die
  | 0, d => d
  | fuel + 1, d =>
    match d.bt.inq with
    | [] => d
    | x :: t =>
      match attempt e d (.packet x.1) (hostAccess x.1 x.2) with
      | .ok b d =>
        let d : Die := { d with bt.inq := t }
        Die.hpPump e fuel ((d.hpTaken x.2).hpAnswer e x.2 b)
      | .wait d => d
      | .stop _ _ d => Die.hpPump e fuel (Die.hpAbort e (Die.hpTaken { d with bt.inq := t } x.2) x.2)
      | .fault _ d => Die.hpPump e fuel (Die.hpAbort e (Die.hpTaken { d with bt.inq := t } x.2) x.2)

/-! ### Requests at a memory controller from outside the homes (R253, R255, R256, R258) -/

/-- Symbol `k` of a line in DRAM, numbered under R516, has bits of `x` inverted. -/
def Mem.flip (m : Mem) (line k : Nat) (x : BitVec 16) : Mem :=
  let go := fun (t : Tab Byte) (a : Nat) => putBytes t a (bytesLE 2 (numLE (getBytes t a 2) ^^^ x.toNat))
  if k < 64 then { m with dram := go m.dram (128 * line + 2 * k) }
  else if k < 66 then { m with side := go m.side (16 * line + 12 + 2 * (k - 64)) }
  else if k < 72 then { m with side := go m.side (16 * line + 2 * (k - 66)) }
  else m

/-- Symbol `k` of a stored null-map line has bits of `x` inverted. -/
def Mem.flipNmap (m : Mem) (key k : Nat) (x : BitVec 16) : Mem :=
  let pos := if k < 66 then k + 6 else k - 66
  let bad := Tab.get [] m.nmapBad key
  let y := ((bad.find? (fun b => decide (b.1 = pos))).map Prod.snd).getD 0 ^^^ x
  let rest := bad.filter (fun b => decide (b.1 ≠ pos))
  if k < 72 then { m with nmapBad := Tab.set [] m.nmapBad key (if y = 0 then rest else rest ++ [(pos, y)]) } else m

/-- A request from outside the controller for a line of a null-map page is answered with a completer abort (R253). -/
def Die.nmapAccess (e : Env) (d : Die) (line : Nat) : Die :=
  let p := pageOfLine line
  d.reportCtx e Cs.NMAP_ACCESS (stackOf p) (some (line * 128)) none p

/-- KIND 1 on arming: the controller reads the line, keeps it, and rewrites it with check symbols inverted. -/
def injectLine (line sym : Nat) : Act Unit := do
  memReady line
  let d ← get
  let n := stackOf (pageOfLine line)
  match ← nmapLine line 3 none with
  | none => pure ()
  | some x =>
    upd (fun e d => (d.charge e line 128 false true).charge e line 128 true true)
    let z := bitsOf x.toNat (nmapBit line) 4
    let raw := d.mem.rawLine line
    let dat := match lineDecode raw.1 raw.2.1 raw.2.2 with
      | some y => mergeSectors (15 - z) y.data 0
      | none => mergeSectors (15 - z) raw.1 0
    let hm := match lineDecode raw.1 raw.2.1 raw.2.2 with
      | some y => y.hm
      | none => raw.2.1
    let check := (lineCheck dat hm).zipIdx.map (fun c => if c.2 < sym then c.1 ^^^ 65535 else c.1)
    upd (fun e d => d.putNull e line x 0)
    modify (fun d => { d with mem := { (d.mem.putRaw line dat hm check) with injBuf := Tab.set none d.mem.injBuf n (some (line, dat)) } })

/-- A request is served at its controller: a read finds the given symbols wrong in DRAM. -/
def mcServe : McReq → Act Unit
  | .read l flips => do
    memReady l
    let e ← read
    let d ← get
    let n := stackOf (pageOfLine l)
    if d.isNmapPage e (pageOfLine l) then
      let key := n * 2 ^ 22 + (l - d.nmapAt e (n * 2 ^ 22))
      modify (fun d => { d with mem := flips.foldl (fun m f => m.flipNmap key f.1 f.2) d.mem })
      upd (fun e d => d.nmapAccess e l)
    else
      modify (fun d => { d with mem := flips.foldl (fun m f => m.flip l f.1 f.2) d.mem })
      let _ ← sealRead l none
  | .write l sectors zse data => do
    memReady l
    let e ← read
    let d ← get
    if d.isNmapPage e (pageOfLine l) then upd (fun e d => d.nmapAccess e l)
    else sealWrite l sectors data (zeroBits data) zse
  | .inject l sym => injectLine l sym

/-- The requests that wait at their controllers go on, each once it can (R258). -/
def Die.mcPump (e : Env) (d : Die) : Die :=
  d.mem.queue.foldl (fun d x =>
    match attempt e d (.packet x.1) (mcServe x.2) with
    | .wait d => d
    | .ok _ d => { d with mem.queue := d.mem.queue.erase x }
    | .stop _ _ d => { d with mem.queue := d.mem.queue.erase x }
    | .fault _ d => { d with mem.queue := d.mem.queue.erase x }) d

/-! ### What goes on -/

/-- Everything that waited and now can goes on, but for the rows' own work. -/
def Die.pump (e : Env) (d : Die) : Die :=
  let d := (((d.deadPump e).mcPump e).settleAll e).portsPump e
  let d := (d.rxPump e).hpPump e 64
  (((d.routeGone e).winPump e).fencesGo e).scrubPump e

/-- A request for a line comes to its memory controller. -/
def Die.mcArrive (e : Env) (d : Die) (line : Nat) (r : McReq) : Die :=
  if d.present e (pageOfLine line) then Die.pump e { d with nid := d.nid + 1, mem.queue := d.mem.queue ++ [(d.nid, r)] } else d

end Sys2Proof.Machine
end

