-- ==== Sys2Proof/Machine/Coherence.lean ====
section
/-! DEFINITION. Requests of the clusters at their homes (Table 7.3), retries and grants (R227 to R232), snoop answers
(R221, R222), dead clusters' snoops (R237), the directory sweep (R223), flushes (R243), the array scrub (R399), the
lost-line log (R241) and returned credits (R461). -/

namespace Sys2Proof.Machine

/-! ### What a home does for a request -/

/-- How a home answers a request of a cluster. -/
inductive HomeAns where
  | line (kind st : Nat) (x : Line)
  | comp
  deriving DecidableEq, Repr

def Req.ask (q : Req) : Ask := { id := q.who, ctx := q.ctx, attr := q.attr, use := .req q.rid }

/-- Directory entries in the set of a line, with their lines. -/
def Die.dirSetOf (e : Env) (d : Die) (line : Nat) : List (Nat × DirEnt) :=
  d.coh.dir.filterMap (fun x => if d.home e x.1 = d.home e line ∧ d.dirSet e x.1 = d.dirSet e line ∧ x.1 ≠ line then x.2.map (fun y => (x.1, y)) else none)

/-- Regions marked in an entry. -/
def DirEnt.count (x : DirEnt) : Nat := ((List.range 8).filter (fun r => x.present.getLsbD r)).length

/-- R224: the entry a full set gives up. -/
def dirVictim (l : List (Nat × DirEnt)) : Option (Nat × DirEnt) :=
  let worse := fun (a b : Nat × DirEnt) => if a.2.count ≠ b.2.count then decide (b.2.count < a.2.count) else decide (b.2.lru < a.2.lru)
  let sh := l.filter (fun x => !x.2.owned)
  let pick := fun (bad : Nat × DirEnt → Nat × DirEnt → Bool) (l : List (Nat × DirEnt)) =>
    l.foldl (fun (b : Option (Nat × DirEnt)) y => match b with | none => some y | some z => if bad z y then some y else b) none
  if sh = [] then pick (fun a b => decide (b.2.lru < a.2.lru)) l else pick worse sh

/-- What the snoops for request `rid` left in its settled transaction: the data a holder returned (R219), and the class of the
entry they removed (R212). -/
def Die.settledFor (d : Die) (line rid : Nat) : Option Txn :=
  d.coh.txns.find? (fun t => decide (t.line = line ∧ t.rid = some rid) && t.settled)

/-- A new or changed entry for a line: where the set is full, an entry of it is evicted first (R218, R219, R224). -/
def dirInstall (line : Nat) (q : Req) (owned : Bool) : Act Unit := do
  let e ← read
  let d ← get
  let bit : BitVec 8 := BitVec.ofNat 8 (2 ^ (q.who / 8))
  let old := d.dirEnt line
  let set_ := d.dirSetOf e line
  let way ← (match old with
    | some x => pure x.way
    | none =>
      match (List.range 16).find? (fun w => !(set_.any (fun x => decide (x.2.way = w)))) with
      | some w => pure w
      | none => match dirVictim set_ with
        | some v => throw (.need (.snoop v.1 0))
        | none => pure 0)
  let s := d.stamp
  let pres := match old with | some x => if owned then bit else x.present ||| bit | none => bit
  set (s.2.setDir line (some { way := way, owned := owned, present := pres, owner := if owned then q.who else 0,
                               aclass := ((old.map (·.aclass)).or ((d.settledFor line q.rid).bind (·.aclass))).getD q.attr.aclass, lru := s.1 }))

/-- The data of a read: what the snoop brought, else the LC's or memory's (R219). -/
def readData (q : Req) : Act Line := do
  let d ← get
  let x ← (match (d.settledFor q.line q.rid).bind (·.sdat) with
    | some x => pure x
    | none => fetchLine q.line q.attr.aclass q.attr.zse q.ctx true)
  carryTo q.line q.who 128 false
  pure x

/-- READ_SHARED (Table 7.3). -/
def sharedAct (q : Req) : Act HomeAns := do
  homeGate q.line q.ask
  mayTouch q.line (.req q.rid)
  dirLook q.line q.ctx
  let d ← get
  need (!(match d.dirEnt q.line with | some x => x.owned | none => false)) (.need (.snoop q.line 1))
  dirInstall q.line q false
  let x ← readData q
  pure (.line 0 1 x)

/-- READ_OWN (Table 7.3): a line that may be changed has its granule logged first (R118). -/
def ownAct (q : Req) : Act HomeAns := do
  homeGate q.line q.ask
  logGate q.line
  mayTouch q.line (.req q.rid)
  dirLook q.line q.ctx
  let d ← get
  need (match d.dirEnt q.line with | some x => x.owned && decide (x.owner = q.who) | none => true) (.need (.snoop q.line 0))
  dirInstall q.line q true
  let x ← readData q
  pure (.line 0 2 x)

/-- READ_ONCE, for a line or a tile beat. -/
def onceAct (q : Req) : Act HomeAns := do
  let x ← readOnceAt q.line q.ask
  pure (.line (if q.tile then 1 else 0) 0 x)

def writeAct (q : Req) : Act HomeAns := do
  writeAt q.line q.mask q.data q.ask
  pure .comp

def atomicAct (q : Req) : Act HomeAns := do
  let w := 8 * q.asize
  let r ← atomicAt q.line q.off q.asize q.aop (bitsOf q.data.toNat 0 w) (bitsOf q.data.toNat w w) q.ask
  pure (.line 2 0 (BitVec.ofNat 1024 r.1))

/-- A core reduce-write (R307, R308, R318): a byte mask that splits an element or a block is refused. -/
def reduceAct (q : Req) : Act HomeAns := do
  let e ← read
  let d ← get
  let f := if q.attr.wide then 0 else q.dstFmt
  let h := d.home e q.line
  homeGate q.line q.ask
  let inj := d.fire0 Cs.CR_MALFORMED h
  match (if inj then none else coreContribs q f) with
  | none =>
    upd (fun e d =>
      let w := d.ay.waiting.length
      let d := (((if inj then d.fired else d).incSat F.CR_MX.REFUSED h 1).report e
        { cause := Cs.CR_MALFORMED, inst := h, addr := some (q.line * 128), ctx := q.ctx, slice := q.slice, det0 := q.ctx.getD 0 })
      if inj then d.markInj w else d)
    throw (.status St.BUS_ERROR)
  | some cs =>
    let _ ← reduceAt q.line f (q.round && !q.attr.wide) cs q.slice false q.ask
    pure .comp

/-- What the home does for a request, by its operation. -/
def reqAct (q : Req) : Act HomeAns :=
  match q.op with
  | .readShared => sharedAct q
  | .readOwn => ownAct q
  | .readOnce => onceAct q
  | .writeFull | .writeMask => writeAct q
  | .atomic => atomicAct q
  | .reduce => reduceAct q
  | .pf | .wb => throw .later

/-! ### Acceptance, retries and grants (R227 to R230) -/

/-- The home answers RETRY (R227, R228); `cause` is the serial of what is in the way where the reason is CONFLICT. -/
def Die.retryReq (e : Env) (d : Die) (q : Req) (cause : Option Nat) : Die :=
  let h := d.home e q.line
  ((d.setReq { q with retried := true, told := false }).count (lcCount h 8) 1).queueGrant h
    { who := q.who, line := cause.map (fun _ => q.line), cause := cause.getD 0 }

/-- The transaction that served the request ends with it. One that had the data of a holder replaced by a whole line that has not
been written keeps that data for others. -/
def Die.endTxnOf (e : Env) (d : Die) (q : Req) (done : Bool) : Die :=
  match d.coh.txns.find? (fun t => decide (t.line = q.line ∧ t.rid = some q.rid)) with
  | some t =>
    if !done ∧ t.repl ∧ t.sdat.isSome then (d.setTxn { t with rid := none, use := none }).letGo e q.line
    else d.dropTxn q.line
  | none => d

/-- An accepted request is performed once those of its requester before it have been (R17). -/
def Die.homeGo (e : Env) (d : Die) (q : Req) : Die :=
  let h := d.home e q.line
  match (d.atHome e q.who h).head? with
  | none => d
  | some f =>
    if f.rid ≠ q.rid then d
    else if d.queuedAhead q.line q.won then d
    else match attempt e d (.req q.rid) (reqAct q) with
      | .ok (.line kind st x) d => (d.endTxnOf e q true).rdat e q kind st x
      | .ok .comp d => (d.endTxnOf e q true).endReq q 0
      | .wait d => d
      | .stop s x d => (d.endTxnOf e q false).reqFail e q s x
      | .fault _ d => d

/-- A request is accepted into a tracker and performed when its turn comes. -/
def Die.accept (e : Env) (d : Die) (q : Req) (t : Nat) : Die :=
  let q := { q with retried := false, told := false, tracker := some t, won := d.nid }
  (d.named.setReq q).homeGo e q

/-- A WB for the line reached its home together with the request, and is taken first (R231). -/
def Die.wbFirst (d : Die) (q : Req) : Bool := d.coh.reqs.any (fun w => decide (w.op = .wb ∧ w.line = q.line ∧ w.at_ = q.at_))

/-- A request of operation `op` at its home: it is accepted and performed, waits, or is retried. One without a credit of its class
has not reached the home (R225). -/
def Die.homeRow (e : Env) (d : Die) (rid : Nat) (op : HomeOp) : Die :=
  match d.req rid with
  | none => d
  | some q =>
    let h := d.home e q.line
    let before := (d.atHome e q.who h).takeWhile (fun x => decide (x.rid ≠ rid))
    if q.op ≠ op ∨ !q.homed ∨ q.use.isSome then d
    else if q.tracker.isSome then d.homeGo e q
    else if !(d.running (h / 8)) then (if d.hasCredit e (.gateway (h / 8)) .req rid then d.wake e (h / 8) else d)
    else if q.retried ∨ before.any (fun x => x.retried && x.told) ∨ before.any (fun x => x.tracker.isNone && !x.retried) then d
    else if !(d.hasCredit e (.home h) .req rid) ∨ d.wbFirst q then d
    else if before.any (·.retried) ∨ (d.wdrawList h).length ≥ 16 then d.retryReq e q none
    else match d.inTheWay e q.line q.who q.at_ with
      | some c => d.retryReq e q (some c)
      | none =>
        if d.freeShared e h = 0 then d.retryReq e q none
        else match (List.range 112).find? (fun i => !((d.sharedUsed e h).contains (144 + i))) with
          | some i => (d.wins e q.line q.who q.at_).accept e q (144 + i)
          | none => d.retryReq e q none

def execReadShared (rid : Nat) (s : State) : Host.Outcome State Fault Refusal := s.go (s.d.homeRow s.env rid .readShared)
def execReadOwn (rid : Nat) (s : State) : Host.Outcome State Fault Refusal := s.go (s.d.homeRow s.env rid .readOwn)
def execReadOnce (rid : Nat) (s : State) : Host.Outcome State Fault Refusal := s.go (s.d.homeRow s.env rid .readOnce)
def execWriteFull (rid : Nat) (s : State) : Host.Outcome State Fault Refusal := s.go (s.d.homeRow s.env rid .writeFull)
def execWriteMask (rid : Nat) (s : State) : Host.Outcome State Fault Refusal := s.go (s.d.homeRow s.env rid .writeMask)
def execAtomic (rid : Nat) (s : State) : Host.Outcome State Fault Refusal := s.go (s.d.homeRow s.env rid .atomic)
def execReduceWrite (rid : Nat) (s : State) : Host.Outcome State Fault Refusal := s.go (s.d.homeRow s.env rid .reduce)

def execRetry (rid : Nat) (s : State) : Host.Outcome State Fault Refusal :=
  let d := s.d
  s.go (match d.req rid with
    | some q => if q.retried ∧ !q.told then (d.setReq { q with told := true }).count (64 + 8 * q.who + 4) 1 else d
    | none => d)

/-- GRANT reaches the requester whose turn it is (R228, R229): its request is resent into the reserved tracker, and the later ones
that were retried meanwhile after it. An agent without a port makes its access again. -/
def execGrant (rid : Nat) (s : State) : Host.Outcome State Fault Refusal :=
  let e := s.env
  let d := s.d
  s.go (match d.req rid with
    | none => d
    | some q =>
      let h := d.home e q.line
      let mine := (d.atHome e q.who h).filter (·.retried)
      if !q.retried ∨ !q.told ∨ (mine.head?).map (·.rid) ≠ some rid ∨ !(d.running (h / 8)) then d
      else match d.grantNext e h with
        | some x =>
          if x.who ≠ q.who then d
          else
            let d := (d.setGrantQ h ((d.grantQ h).filter (fun y => decide (y.who ≠ x.who)))).count (lcCount h 9) 1
            let d := (mine.drop 1).foldl (fun d x => if x.use.isSome then d else d.setReq { x with retried := false, told := false }) d
            if q.use.isSome then
              (d.named.setReq { q with retried := false, told := false, tracker := some q.who, won := d.nid }).pump e
            else d.accept e q q.who
        | none => d)

/-! ### Prefetches (R216) -/

/-- A home drops a prefetch (R216). -/
def Die.pfDrops (e : Env) (d : Die) (line : Nat) : Bool :=
  (d.lcLine line).isSome || (d.sideLine e line).isSome || (match d.dirEnt line with | some x => x.owned | none => false) ||
    d.lineBusy line || decide (d.freeShared e (d.home e line) < 16) || d.flushing e line

/-- The line is read into the side buffer, which drops its oldest entry where it is full. The lookup is checked first (R236). -/
def prefetchAct (q : Req) : Act Unit := do
  let e ← read
  lcVisit q.line 0
  dirLook q.line none
  let d ← get
  if d.pfDrops e q.line then pure ()
  else
    homeGate q.line { q.ask with ctx := none }
    let d ← get
    let h := d.home e q.line
    match ← sealRead q.line none with
    | none => pure ()
    | some x =>
      modify (fun d =>
        let d := ((d.count (lcCount h 4) 1).count (lcCount h 2) 128)
        let l := d.sideBuf h
        let d := if l.length ≥ 64 then (d.setSide h (l.drop 1)).count (lcCount h 6) 1 else d
        d.setSide h (d.sideBuf h ++ [{ line := q.line, z := BitVec.ofNat 4 x.2, zse := q.attr.zse, data := x.1 }]))
      upd (fun e d => d.monitor e 1 h 1 128)

def execPf (rid : Nat) (s : State) : Host.Outcome State Fault Refusal :=
  let e := s.env
  let d := s.d
  s.go (match d.req rid with
    | none => d
    | some q =>
      if q.op ≠ .pf then d
      else
        let h := d.home e q.line
        if !(d.running (h / 8)) then d.wake e (h / 8)
        else match attempt e (d.dropReq rid) (.req rid) (prefetchAct q) with
          | .ok _ d => d
          | .wait d => { d with coh.reqs := d.coh.reqs ++ [q] }
          | .stop _ _ d => d
          | .fault _ d => d)

/-! ### Writebacks (R226, R232) -/

/-- A WB is written into the LC as dirty, or to memory; the writer's entry goes. -/
def wbAct (q : Req) : Act Unit := do
  lcVisit q.line 0
  dirLook q.line none
  carryTo q.line q.who 128 true
  logGate q.line
  let d ← get
  keepData q.line (((d.dirEnt q.line).map (·.aclass)).getD 0) q.data q.attr.watchEn q.attr.watchId (some q.rid)
  modify (fun d => match d.dirEnt q.line with
    | some x => if x.owned ∧ x.owner = q.who then d.setDir q.line none else d
    | none => d)

def execWb (rid : Nat) (s : State) : Host.Outcome State Fault Refusal :=
  let e := s.env
  let d := s.d
  s.go (match d.req rid with
    | none => d
    | some q =>
      let h := d.home e q.line
      let ack := fun (d : Die) => d.endWb e q
      if q.op ≠ .wb ∨ d.wbHead e q.who h ≠ some rid then d
      else if !(d.running (h / 8)) then d.wake e (h / 8)
      else if d.activeTxn q.line then (d.takeWb e q.who q.line).pump e
      else match attempt e d (.req rid) (wbAct q) with
        | .ok _ d => (ack d).pump e
        | .wait d => d
        | .stop _ _ d => (ack d).pump e
        | .fault _ d => d)

/-! ### Snoop answers (R221, R222, R469) -/

/-- Every answer so far is MISS. -/
def Txn.allMiss (t : Txn) : Bool := decide (t.ans = 0) && t.colls.all (fun c => c.2.1.all (fun a => decide (a.2 = 0)))

/-- The snoops of a line have all been answered MISS: counter 11 of its home. -/
def Die.missCount (e : Env) (d : Die) (line : Nat) (t : Txn) : Die := if t.allMiss then d.count (lcCount (d.home e line) 11) 1 else d

/-- A cluster that has left a snoop unanswered is declared dead (R237). -/
def Die.snoopDead (e : Env) (d : Die) (k : Nat) : Die :=
  let c := (d.kernAt k).map (·.ctx)
  (d.report e { cause := Cs.DEAD_CLUSTER, inst := k, ctx := c, slice := c.bind d.sliceOf, det0 := k, det1 := 0 }).clusterDead e k

def execSrsp (k : BitVec 6) (stag : BitVec 3) (code : BitVec 3) (s : State) : Host.Outcome State Fault Refusal :=
  let e := s.env
  let d := s.d
  let k := k.toNat
  let c := code.toNat
  s.go (
    if !(d.portOn e k) then d
    else if c > 4 then d.portDead e k
    else match d.coh.snps.find? (fun x => decide (x.k = k ∧ x.stag = stag.toNat ∧ x.wait = 0)) with
      | none => d
      | some x =>
        if d.fire0 Cs.DEAD_CLUSTER k then
          let w := d.ay.waiting.length
          ((Die.snoopDead e d.fired k).markInj w).pump e
        else
        let d := d.send (.credit k 4)
        let wait_ := fun (n : Nat) => ({ d with coh.snps := d.coh.snps.map (fun y => if y = x then { y with wait := n } else y) } : Die)
        if c = 3 ∧ x.sop ≠ 3 then wait_ 1
        else if c = 4 then ((wait_ 2).takeWb e k x.line).pump e
        else
          let d := match d.txn x.line with
            | some t => if t.owner = some k ∧ c = 0 then d.missCount e x.line t else d
            | none => d
          (d.answer e x c none false 0).pump e)

def execSdat (k : BitVec 6) (stag : BitVec 3) (watchEn : Bool) (watchId : BitVec 6) (data : Line) (s : State) :
    Host.Outcome State Fault Refusal :=
  let e := s.env
  let d := s.d
  let k := k.toNat
  s.go (
    if !(d.portOn e k) then d
    else match d.coh.snps.find? (fun x => decide (x.k = k ∧ x.stag = stag.toNat ∧ x.wait = 1)) with
      | none => d
      | some x =>
        let d := ((d.send (.credit k 5)).monitor e 0 k 1 128).carry e (whoPlace k) (homePlace (d.home e x.line)) 128
        (d.answer e x 3 (some data) watchEn watchId.toNat).pump e)

def execCollectorSrsp (line : BitVec 43) (r : BitVec 3) (s : State) : Host.Outcome State Fault Refusal :=
  let e := s.env
  let d := s.d
  let l := line.toNat
  s.go (match d.txn l with
    | none => d
    | some t =>
      if t.owner.isSome ∨ !(t.colls.any (fun c => decide (c.1 = r.toNat) && !c.2.2)) ∨
          d.coh.snps.any (fun x => decide (x.line = l ∧ x.k / 8 = r.toNat)) then d
      else
        let t : Txn := { t with colls := t.colls.map (fun c => if c.1 = r.toNat then (c.1, c.2.1, true) else c) }
        let d := d.setTxn t
        (if t.full then (d.missCount e l t).settle e l else d).pump e)

def execSnoopTimeout (k : BitVec 6) (stag : BitVec 3) (s : State) : Host.Outcome State Fault Refusal :=
  let e := s.env
  let d := s.d
  let k := k.toNat
  s.go (match d.coh.snps.find? (fun x => decide (x.k = k ∧ x.stag = stag.toNat ∧ x.wait = 0)) with
    | some x =>
      if e.now < x.sent + 20000 ∨ !(d.running (k / 8)) then d
      else
        (d.snoopDead e k).pump e
    | none => d)

/-! ### The directory sweep (R223) -/

/-- Cycles of a region's clock as ns. -/
def Die.cyclesNs (d : Die) (r n : Nat) : Nat := n * 100 / max 1 (d.getF F.ST_REGION_STATUS.FREQ_NOW r)

/-- The line whose directory entry stands at a position, in set and way order. -/
def Die.dirAt (e : Env) (d : Die) (h pos : Nat) : Option Nat :=
  d.coh.dir.findSome? (fun x => x.2.bind (fun y => if d.home e x.1 = h ∧ d.dirSet e x.1 = pos / 16 ∧ y.way = pos % 16 then some x.1 else none))

def execSweepVisit (h : BitVec 6) (s : State) : Host.Outcome State Fault Refusal :=
  let e := s.env
  let d := s.d
  let h := h.toNat
  let gap := d.getF F.DIR_CFG.SWEEP_INTERVAL 0
  s.go (
    if h ≥ 8 * e.regions ∨ gap = 0 ∨ e.now < Tab.get 0 d.coh.sweepAt h + d.cyclesNs (h / 8) gap then d
    else if !(d.running (h / 8)) then d.gatePause (h / 8) (96 + h)
    else
      let d := d.unpause (96 + h)
      let pos := Tab.get 0 d.coh.sweepPos h
      let d : Die := { d with coh.sweepPos := Tab.set 0 d.coh.sweepPos h ((pos + 1) % 32768), coh.sweepAt := Tab.set 0 d.coh.sweepAt h e.now }
      let d := d.count (lcCount h 13) 1
      match d.dirAt e h pos with
      | some line =>
        if d.flushing e line then d.foreman F.ST_FOREMAN_STATUS.SKIPS
        else if d.lineBusy line ∨ d.freeShared e h = 0 then d
        else match attempt e d .other (dirLook line none) with
          | .ok _ d => d.startTxn e line 3 none none none true
          | .wait d => d
          | .stop _ _ d => d
          | .fault _ d => d
      | none => d)

/-! ### Flushes (R243) -/

def execFlushDone (f : Nat) (s : State) : Host.Outcome State Fault Refusal :=
  let e := s.env
  let d := s.d
  s.go (match d.coh.flushes.find? (fun x => decide (x.id = f)) with
    | none => d
    | some x =>
      let d := d.flushStep e x.filter
      if d.flushHits e x.filter ≠ [] then d
      else
        let d : Die := { d with coh.flushes := d.coh.flushes.filter (fun y => decide (y.id ≠ f)) }
        let d : Die := match x.after with
          | .potOp id => match d.sm.potOps.find? (fun o => decide (o.id = id)) with
            | some o => d.potEnd e o
            | none => d
          | .bind k => d.keyGo e k
          | .retire k => d.keyGo e k
          | _ => d
        d.pump e)

/-! ### The array scrub (R399) -/

/-- ns between visits of an LC slice's scrub. -/
def Die.scrubGap (d : Die) : Nat := max 60 (min 3600 (d.getF F.LC_SCRUB_CFG.PERIOD_S 0)) * 10 ^ 9 / 24576

/-- The array scrub looks at a line of home `h`; one with an active transaction is skipped, and one that a flush matches too (R404). -/
def Die.scrubLine (e : Env) (d : Die) (h line : Nat) (again : Bool) : Die :=
  if d.activeTxn line then
    if again then { d with coh.scrubRe := Tab.set [] d.coh.scrubRe h (Tab.get [] d.coh.scrubRe h ++ [line]) } else d
  else if d.flushing e line then d.foreman F.ST_FOREMAN_STATUS.SKIPS
  else match attempt e d .other (lcChecks line 15 none) with
    | .ok _ d => d
    | .wait d => d
    | .stop _ _ d => d
    | .fault _ d => d

/-- After the last line of a set, those that were skipped in it are visited again. -/
def Die.scrubAgain (e : Env) (d : Die) (h pos : Nat) : Die :=
  if pos % 16 ≠ 15 then d
  else
    (Tab.get [] d.coh.scrubRe h).foldl (fun d l => d.scrubLine e h l false) { d with coh.scrubRe := Tab.set [] d.coh.scrubRe h [] }

def execLcScrubVisit (h : BitVec 6) (s : State) : Host.Outcome State Fault Refusal :=
  let e := s.env
  let d := s.d
  let h := h.toNat
  s.go (
    if h ≥ 8 * e.regions ∨ e.now < Tab.get 0 d.coh.scrubAt h + d.scrubGap then d
    else if !(d.running (h / 8)) then d.gatePause (h / 8) (32 + h)
    else
      let d := d.unpause (32 + h)
      let pos := Tab.get 0 d.coh.scrubPos h
      let d : Die := { d with coh.scrubPos := Tab.set 0 d.coh.scrubPos h (pos + 1),
                              coh.scrubAt := Tab.set 0 d.coh.scrubAt h (Tab.get 0 d.coh.scrubAt h + d.scrubGap) }
      let passes := ((List.range (8 * e.regions)).map (fun x => Tab.get 0 d.coh.scrubPos x / 24576)).foldl min (Tab.get 0 d.coh.scrubPos h / 24576)
      let d := d.setF F.LC_SCRUB_CFG.PASSES 0 passes
      let d := match (d.lcOf e h).find? (fun x => decide (d.lcSet e x.1 = pos % 24576 / 16 ∧ x.2.way = pos % 16)) with
        | some x => d.scrubLine e h x.1 true
        | none => d
      d.scrubAgain e h pos)

/-! ### The lost-line log and credits -/

def execLlogConsWrite (who : Who) (v : Word) (s : State) : Host.Outcome State Fault Refusal :=
  s.go (s.d.barWrite s.env who .DIR_LLOG_CONS 0 (fun d =>
    if (d.getF F.DIR_LLOG_STATUS.PRODUCED 0 + 2 ^ 32 - fieldOf v 0 32) % 2 ^ 32 ≤ 4096 then d.putWord s.env .DIR_LLOG_CONS 0 0 v else d))

/-- A receiver returns a credit: a cluster for SNP (channel 3), a link port for its request and response classes, the host port (port
80) for headers (channel 0) and data (channel 1). A credit beyond those of the channel changes nothing. -/
def execCreditReturn (port : BitVec 7) (chan : BitVec 4) (s : State) : Host.Outcome State Fault Refusal :=
  let e := s.env
  let d := s.d
  let p := port.toNat
  let c := chan.toNat
  s.go (
    if p < 64 then
      let used := Tab.get 0 d.coh.credits (16 * p + 3)
      if c = 3 ∧ used ≠ 0 ∧ d.portOn e p then
        Die.snpPump e { d with coh.credits := Tab.set 0 d.coh.credits (16 * p + 3) (used - 1) } p
      else d
    else if p < 80 then
      let f := if c = 0 then F.WE_PORT_STATUS.REQ_CREDITS else F.WE_PORT_STATUS.RSP_CREDITS
      if c < 2 ∧ d.bit F.WE_PORT_STATUS.UP (p - 64) ∧ d.getF f (p - 64) < 64 then (d.setF f (p - 64) (d.getF f (p - 64) + 1)).winPump e
      else d
    else if p = 80 then
      let d : Die := if c = 0 then { d with bt.hpHdr := min 64 (d.bt.hpHdr + 1) } else if c = 1 then { d with bt.hpDat := min 256 (d.bt.hpDat + 1) } else d
      d.hpDrain e d.bt.outq.length
    else d)

end Sys2Proof.Machine
end

