-- ==== Sys2Proof/Machine/MemRows.lean ====
section
/-! DEFINITION. What happens at a memory controller besides the homes' own accesses (chapters 8 and 13): line reads and
writes, refresh and temperature, PHY alerts, patrol, scrubs of pages and of the null map, calibration and retraining. -/

namespace Sys2Proof.Machine

/-- An access of no requester, made for what it does to the die. -/
def Die.tryAct {α : Type} (e : Env) (d : Die) (a : Act α) : Die :=
  match attempt e d .other a with
  | .ok _ d => d
  | .wait d => d
  | .stop _ _ d => d
  | .fault _ d => d

/-- The stack is present and trained. -/
def Die.trained (e : Env) (d : Die) (n : Nat) : Bool :=
  e.hasRegion n && decide (d.getF F.MC_STATUS.MODE n = 1 ∨ d.getF F.MC_STATUS.MODE n = 2)

/-- Pseudo-channels of a stack (Table 8.1). -/
def Die.pcs (d : Die) (n : Nat) : Nat := if d.getF F.MC_STATUS.MODE n = 2 then 32 else 64

/-! ### Line reads and writes (R255, R256) -/

def execMcRead (line : BitVec 43) (flips : List (Nat × BitVec 16)) (s : State) : Host.Outcome State Fault Refusal :=
  s.go (s.d.mcArrive s.env line.toNat (.read line.toNat flips))

def execMcWrite (line : BitVec 43) (sectors : BitVec 4) (zse : Bool) (data : Line) (s : State) : Host.Outcome State Fault Refusal :=
  s.go (s.d.mcArrive s.env line.toNat (.write line.toNat sectors.toNat zse data))

/-! ### Refresh and temperature (R265, R266) -/

/-- How many times as often as at 1× a stack is refreshed in its band (Table 8.6). -/
def Die.refreshRate (d : Die) (n : Nat) : Nat := match d.getF F.MC_TEMP.BAND n with | 0 => 1 | 1 => 2 | _ => 4

/-- ns between the all-bank refreshes of a pseudo-channel. -/
def Die.refreshGap (d : Die) (n : Nat) : Nat := max 1 (Config.refreshNs (d.getF F.MC_STATUS.MODE n) / d.refreshRate n)

/-- A refresh command goes to the stack: message `op`, for a pseudo-channel or a bank of it. -/
def Die.sendRefresh (d : Die) (n op x : Nat) : Die := (d.count (1600 + 16 * n + 6) 1).send (.dfi n op x)

/-- The refresh-management commands of a pseudo-channel, for the banks whose activations have reached the threshold; each counts
from 0 again. -/
def Die.refreshManage (d : Die) (n pc : Nat) : Die :=
  let pk := 64 * n + pc
  (List.range (d.banks n)).foldl (fun d b =>
    if Tab.get 0 d.mem.acts (64 * pk + b) < max 1 (Config.rfmThreshold n) then d
    else Die.sendRefresh { d with mem.acts := Tab.set 0 d.mem.acts (64 * pk + b) 0 } n 11 (64 * pc + b)) d

/-- The refresh of a pseudo-channel: of all banks, when that is due or no bank is idle, which closes their rows; else of the next idle
bank. Refresh management follows it. -/
def Die.refreshPc (e : Env) (d : Die) (n pc : Nat) : Die :=
  let pk := 64 * n + pc
  let due := decide (Tab.get 0 d.mem.refDue pk ≤ e.now)
  let from_ := Tab.get 0 d.mem.refBank pk
  let idle := (List.range (d.banks n)).map (fun i => (from_ + i) % d.banks n) |>.find? (fun b => (Tab.get none d.mem.rows (64 * pk + b)).isNone)
  let d : Die := match if due then none else idle with
    | some b => (Die.sendRefresh { d with mem.refBank := Tab.set 0 d.mem.refBank pk ((b + 1) % d.banks n) } n 10 (64 * pc + b))
    | none => (d.closeRows n (some pc)).sendRefresh n 1 pc
  let d : Die := if due then { d with mem.refDue := Tab.set 0 d.mem.refDue pk (e.now + d.refreshGap n) } else d
  d.refreshManage n pc

def execRefresh (n : BitVec 3) (pc : BitVec 6) (s : State) : Host.Outcome State Fault Refusal :=
  let d := s.d
  let n := n.toNat
  let pc := pc.toNat
  s.go (
    if !(d.trained s.env n) ∨ pc ≥ d.pcs n ∨ !(d.running n) then d
    else if Tab.get none d.mem.cal n = some pc then { d with mem.postponed := d.mem.postponed ++ [(n, pc)] }
    else d.refreshPc s.env n pc)

/-- The threshold of a band of Table 8.6. -/
def Die.bandFrom (d : Die) (n b : Nat) : Nat :=
  match b with
  | 0 => 0
  | 1 => 85
  | 2 => 95
  | _ => max 95 (d.getF F.MC_CFG.TEMP_THROTTLE_C n)

/-- The band of a temperature. -/
def Die.bandOf (d : Die) (n t : Nat) : Nat :=
  if t ≥ d.bandFrom n 3 then 3 else if t ≥ 95 then 2 else if t ≥ 85 then 1 else 0

/-- The band after a temperature: a band is left downwards only 3 °C below its threshold. -/
def Die.nextBand (d : Die) (n t : Nat) : Nat :=
  let b := d.getF F.MC_TEMP.BAND n
  if d.bandOf n t ≥ b then d.bandOf n t else if t + 3 ≤ d.bandFrom n b then d.bandOf n t else b

def execTempRead (n : BitVec 3) (t : BitVec 8) (s : State) : Host.Outcome State Fault Refusal :=
  let e := s.env
  let d := s.d
  let n := n.toNat
  let t := t.toNat
  s.go (match Tab.get none d.mem.temp n with
    | none => d
    | some t0 =>
      if e.now > t0 + 10000 then d
      else
        let d : Die := { d with mem.temp := Tab.set none d.mem.temp n none }
        let b := d.nextBand n t
        let enter := decide (b = 3 ∧ d.getF F.MC_TEMP.BAND n ≠ 3)
        let d := ((d.setF F.MC_TEMP.TEMP_C n t).setF F.MC_TEMP.BAND n b).setF F.MC_STATUS.THROTTLE n (Bool.num (decide (b = 3)))
        if enter then
          (d.incSat F.MC_TEMP.BAND3_COUNT n 1).report e { cause := Cs.THERMAL, inst := n, det0 := t }
        else d)

def execTempTimeout (n : BitVec 3) (s : State) : Host.Outcome State Fault Refusal :=
  let d := s.d
  let n := n.toNat
  s.go (match Tab.get none d.mem.temp n with
    | none => d
    | some t0 =>
      if s.env.now < t0 + 10000 then d
      else Die.incSat { d with mem.temp := Tab.set none d.mem.temp n none } F.MC_ERR.PHY_RETRY_COUNT n 1)

/-! ### PHY alerts (R267) -/

/-- `tries` is the number of the retry that succeeds; a larger one than PHY_RETRIES, or 0, means that none does. -/
def execPhyAlert (n : BitVec 3) (pc : BitVec 6) (tries : Nat) (s : State) : Host.Outcome State Fault Refusal :=
  let e := s.env
  let d := s.d
  let n := n.toNat
  let most := d.getF F.MC_CFG.PHY_RETRIES n
  s.go (
    if !(d.trained e n) ∨ pc.toNat ≥ d.pcs n then d
    else
      let inj := d.fire0 Cs.PHY_FAIL n
      let good := decide (0 < tries ∧ tries ≤ most) && !inj
      let d := if inj then d.fired else d
      let d := d.incSat F.MC_ERR.PHY_RETRY_COUNT n (if good then tries else most)
      let d := d.report e { cause := Cs.PHY_ALERT, inst := n, det0 := pc.toNat }
      let w := d.ay.waiting.length
      let d := if good then d else d.report e { cause := Cs.PHY_FAIL, inst := n, det0 := 1 }
      if inj then d.markInj w else d)

/-! ### Rates and the log (R264, R269) -/

/-- The sum of the guarantees at controller `n`, without slice `sl`. -/
def Die.guarSum (d : Die) (n sl : Nat) : Nat :=
  ((Tab.get [] d.regs Reg.MC_SBW.ctorIdx).filter (fun x => decide (x.1 / 8 / 512 = n ∧ x.1 / 8 % 512 ≠ sl))).foldl
    (fun a x => a + fieldOf x.2 0 16) 0

def execMcSbwWrite (who : Who) (n : BitVec 3) (sl : BitVec 9) (v : Word) (s : State) : Host.Outcome State Fault Refusal :=
  let e := s.env
  let n := n.toNat
  let k := sl.toNat
  s.go (s.d.barWrite e who .MC_SBW (512 * n + k) (fun d =>
    if d.settable k ∧ d.guarSum n k + fieldOf v 0 16 ≤ d.getF F.MC_CFG.GUAR_LIMIT_GBPS n then
      let b := d.bucket n k e.now
      let d : Die := { d with mem.buckets := Tab.set (0, 0, 0) d.mem.buckets (512 * n + k) (b.1, b.2, e.now) }
      d.putWord e .MC_SBW (512 * n + k) 0 v
    else d.reject F.MC_STATUS.CFG_REJECT n))

def execMcUeClear (who : Who) (n : BitVec 3) (v : Word) (s : State) : Host.Outcome State Fault Refusal :=
  let n := n.toNat
  s.go (s.d.barWrite s.env who .MC_UE_STATUS n (fun d =>
    let d := d.putWord s.env .MC_UE_STATUS n 0 v
    if fieldOf v 6 1 = 1 then
      ((List.range 16).foldl (fun d i => d.clearElem .MC_UE_LOG (16 * n + i)) d).setF F.MC_UE_STATUS.COUNT n 0
    else d))

/-! ### Patrol (R270, R398) -/

/-- PASS_HOURS in force. -/
def Die.passHours (d : Die) (n : Nat) : Nat :=
  let h := d.getF F.MC_PATROL.PASS_HOURS n
  if h = 0 ∨ h > 24 then 24 else h

/-- Lines that the patrol of a stack visits. -/
def Die.patrolLines (d : Die) (n : Nat) : Nat :=
  (d.getF F.MC_STATUS.PRESENT_PAGES n - d.getF F.MC_STATUS.NMAP_PAGES n) * 2 ^ 18

/-- ns between visits. -/
def Die.patrolGap (d : Die) (n : Nat) : Nat := d.passHours n * 3600000000000 / max 1 (d.patrolLines n)

/-- The page is being scrubbed now. -/
def Die.scrubbing (d : Die) (p : Nat) : Bool := d.sm.scrubs.contains (p, true)

/-- The patrol goes to line offset `o` of its stack, wrapping at the end of a pass. -/
def Die.patrolTo (d : Die) (n o : Nat) : Die :=
  let w := decide (o ≥ d.patrolLines n)
  let d := d.setF F.MC_PATROL_POS.LINE n (2304 * 2 ^ 18 * n + (if w then 0 else o))
  if w then d.incWrap F.MC_PATROL.PASSES n 1 else d

/-- The patrol's line offset within its stack. -/
def Die.patrolPos (d : Die) (n : Nat) : Nat := d.getF F.MC_PATROL_POS.LINE n - 2304 * 2 ^ 18 * n

/-- Pages under a scrub are skipped for the rest of the pass (R404). -/
def Die.patrolSkip : Nat → Nat → Die → Die
  | 0, _, d => d
  | fuel + 1, n, d =>
    let o := d.patrolPos n
    if d.scrubbing (2304 * n + o / 2 ^ 18) then
      Die.patrolSkip fuel n ((d.foreman F.ST_FOREMAN_STATUS.SKIPS).patrolTo n ((o / 2 ^ 18 + 1) * 2 ^ 18))
    else d

/-- Visits whose time has come by now are owed. -/
def Die.patrolOwe (e : Env) (d : Die) (n : Nat) : Die :=
  let due := Tab.get 0 d.mem.patrolDue n
  if e.now < due then d
  else
    let k := (e.now - due) / max 1 (d.patrolGap n) + 1
    Die.incSat { d with mem.patrolDue := Tab.set 0 d.mem.patrolDue n (due + k * d.patrolGap n) } F.MC_PATROL.BEHIND n k

def execPatrolVisit (n : BitVec 3) (s : State) : Host.Outcome State Fault Refusal :=
  let e := s.env
  let d := s.d
  let n := n.toNat
  s.go (
    if !(d.trained e n) ∨ !(d.bit F.MC_STATUS.NMAP_READY n) then d
    else if !(d.running n) then (if Tab.get 0 d.mem.patrolDue n ≤ e.now then d.gatePause n n else d)
    else
      let was := d.getF F.MC_PATROL.BEHIND n
      let d := d.patrolOwe e n
      let last := Tab.get 0 d.mem.patrolAt n
      if d.getF F.MC_PATROL.BEHIND n = 0 ∨ (!(decide (was = 0 ∧ d.getF F.MC_PATROL.BEHIND n = 1)) && decide (e.now < last + 1000)) then d
      else
        let d := d.patrolSkip 2304 n
        let line := 2304 * 2 ^ 18 * n + d.patrolPos n
        if d.mem.retr.contains n ∨ Tab.get none d.mem.cal n = some (d.pchan line) ∨ d.scrubbing (pageOfLine line) then d.pause n
        else if !(d.maintMay e n) then d
        else match attempt e d .other (memRead line 3 none true) with
          | .wait d => d
          | .ok _ d =>
            let d := (d.unpause n).patrolTo n (d.patrolPos n + 1)
            (Die.setF { d with mem.patrolAt := Tab.set 0 d.mem.patrolAt n e.now } F.MC_PATROL.BEHIND n (d.getF F.MC_PATROL.BEHIND n - 1)).pump e
          | .stop _ _ d =>
            let d := (d.unpause n).patrolTo n (d.patrolPos n + 1)
            (Die.setF { d with mem.patrolAt := Tab.set 0 d.mem.patrolAt n e.now } F.MC_PATROL.BEHIND n (d.getF F.MC_PATROL.BEHIND n - 1)).pump e
          | .fault _ d => d)

/-! ### The Planisher's page scrubs (R270) -/

def execPlanisherScrub (n : BitVec 3) (s : State) : Host.Outcome State Fault Refusal :=
  let e := s.env
  let d := s.d
  let n := n.toNat
  s.go (
    if !e.fwSeal ∨ !(d.bit F.MC_STATUS.NMAP_READY n) ∨ !(d.bit F.MC_CFG.AUTO_SCRUB n) ∨
        d.sm.scrubs.any (fun x => x.2 && decide (stackOf x.1 = n)) then d
    else match (List.range (d.stackPages e n)).find? (fun i =>
        decide (d.pageState (2304 * n + i) = 0) && !(d.isNmapPage e (2304 * n + i)) && !(d.sm.scrubs.any (fun x => decide (x.1 = 2304 * n + i))) && !(d.potHolds (2304 * n + i))) with
      | some i => (d.queueScrub (2304 * n + i)).scrubPump e
      | none => d.scrubPump e)

/-! ### The null-map scrub (R400) -/

/-- ns between visits of the null-map scrub. -/
def Die.nmapGap (d : Die) (n : Nat) : Nat := d.passHours n * 3600000000000 / max 1 (d.getF F.MC_STATUS.NMAP_PAGES n * 2 ^ 18)

/-- The null-map line covers a page under scrub, or a range whose slot is at BIND. -/
def Die.nmapBusy (d : Die) (n idx : Nat) : Bool :=
  let p := 2304 * n + idx / 1024
  d.scrubbing p || (match d.rangeSlot p with | some k => decide (d.slotState k = 1) | none => false)

/-- A visit to a null-map line. -/
def nmapVisit (key : Nat) : Act Unit := do
  let e ← read
  let d ← get
  let n := key / 2 ^ 22
  match Tab.get none d.mem.nmc key with
  | some c =>
    if c.dirty then upd (fun e d => d.nmcClean e key)
    else
      let at_ := d.nmapAt e key
      upd (fun e d => d.charge e at_ 128 false true)
      let bad := Tab.get [] d.mem.nmapBad key
      if bad ≠ [] ∨ Tab.get ones d.mem.nmap key ≠ c.data then
        let lowest := (bad.map (fun x => symbolNumber x.1)).foldl min 71
        let r : Report := { cause := Cs.MEM_CE, inst := n, addr := some (at_ * 128), det0 := d.pchan at_ * 256 + lowest, det1 := bad.length }
        upd (fun e d => ((d.incSat F.MC_ERR.CE_COUNT n 1).report e r).charge e at_ 128 true true)
        modify (fun d => { d with mem := d.mem.putNmap key c.data })
  | none =>
    let _ ← nmapFetch key 3 none
    pure ()

def execNmapScrubVisit (n : BitVec 3) (s : State) : Host.Outcome State Fault Refusal :=
  let e := s.env
  let d := s.d
  let n := n.toNat
  s.go (
    if !(d.trained e n) ∨ !(d.bit F.MC_STATUS.NMAP_READY n) ∨ e.now < Tab.get 0 d.mem.nmapDue n then d
    else if !(d.running n) then d.gatePause n (8 + n)
    else
      let idx := Tab.get 0 d.mem.nmapPos n
      let key := n * 2 ^ 22 + idx
      let total := d.getF F.MC_STATUS.NMAP_PAGES n * 2 ^ 18
      let next := fun (d : Die) =>
        let d : Die := { d with mem.nmapPos := Tab.set 0 d.mem.nmapPos n (if idx + 1 ≥ total then 0 else idx + 1),
                                mem.nmapDue := Tab.set 0 d.mem.nmapDue n (Tab.get 0 d.mem.nmapDue n + d.nmapGap n) }
        let d := d.unpause (8 + n)
        if idx + 1 ≥ total then d.incWrap F.MC_PATROL.NMAP_PASSES n 1 else d
      if d.mem.retr.contains n then
        if (8 + n) ∈ d.mem.paused then d
        else Die.foreman { d with mem.paused := (8 + n) :: d.mem.paused } F.ST_FOREMAN_STATUS.WAITS
      else if Tab.get none d.mem.cal n = some (d.pchan (d.nmapAt e key)) then d.pause (8 + n)
      else if d.nmapBusy n idx then next (d.foreman F.ST_FOREMAN_STATUS.SKIPS)
      else if !(d.maintMay e n) then d
      else (next (d.tryAct e (nmapVisit key))).pump e)

/-! ### Calibration (R401, R476) -/

def execCalibrationStart (n : BitVec 3) (pc : BitVec 6) (s : State) : Host.Outcome State Fault Refusal :=
  let e := s.env
  let d := s.d
  let n := n.toNat
  let pc := pc.toNat
  let tick := d.getF F.ST_TICK.TICK_COUNT 0
  let due := Tab.get 0 d.mem.calDue n
  s.go (
    if !(d.trained e n) ∨ !(d.bit F.MC_STATUS.NMAP_READY n) ∨ (Tab.get none d.mem.cal n).isSome ∨
        pc ≠ Tab.get 0 d.mem.calNext n ∨ tick < due then d
    else if !(d.running n) then d.gatePause n (24 + n)
    else
      let d := d.unpause (24 + n)
      let step := if d.getF F.MC_STATUS.MODE n = 2 then 16 else 8
      let d : Die := { d with mem.calNext := Tab.set 0 d.mem.calNext n ((pc + 1) % d.pcs n), mem.calDue := Tab.set 0 d.mem.calDue n (due + step) }
      if d.mem.retr.contains n then d.foreman F.ST_FOREMAN_STATUS.SKIPS
      else
        let ask := 64 * n + pc
        let d : Die := { d with mem.cal := Tab.set none d.mem.cal n (some pc), mem.calPc := Tab.set 0 d.mem.calPc n pc }
        let d := d.send (.dfi n 2 pc)
        let d := if d.sm.scrubs.any (fun x => x.2 && decide (stackOf x.1 = n)) then d.foreman F.ST_FOREMAN_STATUS.PAUSES else d
        if ask ∈ d.mem.phyupd then Die.send { d with mem.phyupd := d.mem.phyupd.filter (· ≠ ask) } (.dfi n 3 pc) else d)

def execCalibrationEnd (n : BitVec 3) (s : State) : Host.Outcome State Fault Refusal :=
  let d := s.d
  let n := n.toNat
  s.go (
    if (Tab.get none d.mem.cal n).isNone then d
    else
      let late := d.mem.postponed.filter (fun x => decide (x.1 = n))
      let d : Die := { d with mem.cal := Tab.set none d.mem.cal n none, mem.postponed := d.mem.postponed.filter (fun x => decide (x.1 ≠ n)) }
      (late.foldl (fun d x => d.refreshPc s.env n x.2) d).pump s.env)

def execPhyupdReq (n : BitVec 3) (s : State) : Host.Outcome State Fault Refusal :=
  let d := s.d
  let n := n.toNat
  let ask := 64 * n + Tab.get 0 d.mem.calPc n
  s.go (if !(d.trained s.env n) ∨ ask ∈ d.mem.phyupd then d else { d with mem.phyupd := d.mem.phyupd ++ [ask] })

/-! ### Retraining (R402, R404): the PHY is told at once, or when the region has woken -/

/-- The retraining of a stack goes on: its region runs, or is in the steps of GATING before self-refresh, whose step 3 waits for its
end (R404). -/
def Die.retrainRuns (d : Die) (n : Nat) : Bool := d.running n || (decide (d.powerState n = 3) && decide ((d.power n).step ≤ 3))

def execRetrain (who : Who) (v : Word) (s : State) : Host.Outcome State Fault Refusal :=
  let e := s.env
  s.go (s.d.barWrite e who .ST_RETRAIN 0 (fun d =>
    (List.range 8).foldl (fun d n =>
      if v.getLsbD n ∧ d.trained e n ∧ !(d.mem.retr.contains n) then
        let d : Die := { d with mem.retr := d.mem.retr ++ [n] }
        let d := d.setF F.ST_RETRAIN.REQ 0 (d.getF F.ST_RETRAIN.REQ 0 ||| 2 ^ n)
        let d := if d.sm.scrubs.any (fun x => x.2 && decide (stackOf x.1 = n)) then d.foreman F.ST_FOREMAN_STATUS.PAUSES else d
        if d.retrainRuns n then d.send (.dfi n 4 0) else d.wake e n
      else d) d))

def execRetrainDone (n : BitVec 3) (ok : Bool) (s : State) : Host.Outcome State Fault Refusal :=
  let e := s.env
  let d := s.d
  let n := n.toNat
  s.go (
    if !(d.mem.retr.contains n) ∨ !(d.retrainRuns n) then d
    else
      let d : Die := { d with mem.retr := d.mem.retr.filter (· ≠ n) }
      let d := d.setF F.ST_RETRAIN.REQ 0 (d.getF F.ST_RETRAIN.REQ 0 &&& (255 - 2 ^ n))
      let inj := d.fire0 Cs.PHY_FAIL n
      let d := if inj then d.fired else d
      let w := d.ay.waiting.length
      let d := if ok ∧ !inj then d else d.report e { cause := Cs.PHY_FAIL, inst := n, det0 := 0 }
      let d := if inj then d.markInj w else d
      d.pump e)

end Sys2Proof.Machine
end

