-- ==== Sys2Proof/Machine/Seal.lean ====
section
/-! DEFINITION. Key slots, link keys, the life cycle and the keys of firmware (chapter 11): the commands of the Seal
Engines and of Touchstone. -/

namespace Sys2Proof.Machine

/-! ### KEY_CTL (R348 to R350) -/

abbrev Why.SPAN : Nat := 11
abbrev Why.LIFE_CYCLE : Nat := 12

/-- State of the life cycle (Table 11.6). -/
def Die.lcState (d : Die) : Nat := d.getF F.TS_LC.STATE 0

/-- Memory sealing is permitted (Table 11.7). -/
def Die.maySeal (d : Die) : Bool := decide (d.lcState < 4)

/-- Link sealing and identity are permitted (Table 11.7). -/
def Die.mayLink (d : Die) : Bool := decide (d.lcState = 2 ∨ d.lcState = 3)

def execKeyBind (id : Nat) (s : State) : Host.Outcome State Fault Refusal :=
  let e := s.env
  s.go (match s.d.se.ops.find? (fun x => decide (x.2 = some id) && decide (s.d.slotState x.1 = 1)) with
    | some x => (s.d.keyGo e x.1).pump e
    | none => s.d.start e id Op.KEY_CTL (fun c => decide (c.arg0 = 0)) (fun c d =>
      let k := dfield c.desc 8 0 6
      let sl := dfield c.desc 32 0 9
      let cls := dfield c.desc 32 9 2
      let first := dfield c.desc 40 0 32
      let count := dfield c.desc 44 0 32
      let tag := dfield c.desc 48 0 32
      let range := (List.range count).map (first + ·)
      let span := if cls = 1 then (List.range (ceilDiv count 16)).map (tag + ·) else []
      let taken := fun p => (d.rangeSlot p).isSome || (d.spanSlot p).isSome || (decide (p ∈ range) && decide (p ∈ span))
      if d.slotState k ≠ 0 ∨ !(d.inState sl [1, 2, 4]) then d.opRefused c Why.WRONG_STATE 0
      else match (range ++ span).find? (fun p => !(d.present e p) || !(d.ownedBy p sl)) with
        | some p => d.opRefused c Why.NOT_OWNER p
        | none => match (range ++ span).find? taken with
          | some p => d.opRefused c Why.KEY_BOUND p
          | none => match (range ++ span).find? (fun p => decide (stackOf p ≠ stackOf first)) with
            | some p => d.opRefused c Why.SPAN p
            | none =>
              if !d.maySeal then d.opRefused c Why.LIFE_CYCLE 0
              else d.startBind e k cls sl first count tag (some id)))

def execKeyRetire (id : Nat) (s : State) : Host.Outcome State Fault Refusal :=
  let e := s.env
  s.go (match s.d.se.ops.find? (fun x => decide (x.2 = some id) && decide (s.d.slotState x.1 = 3)) with
    | some x => (s.d.keyGo e x.1).pump e
    | none => s.d.start e id Op.KEY_CTL (fun c => decide (c.arg0 = 1)) (fun c d =>
      let k := dfield c.desc 8 0 6
      if d.slotState k ≠ 2 ∨ d.sliceState (d.getF F.SE_SLOT.SLICE k) = 5 then d.opRefused c Why.WRONG_STATE 0
      else d.startRetire e k (some id)))

/-! ### The firmware slot (R352) -/

/-- The range, and for T class its tag span, lie in RESERVED pages of the firmware reserve, within one stack. -/
def Die.slot0Ok (e : Env) (d : Die) (v : Word) : Bool :=
  let first := fieldOf v 0 15
  let count := fieldOf v 16 15
  let cls := fieldOf v 32 2
  let tag := fieldOf v 34 15
  let range := (List.range count).map (first + ·)
  let span := if cls = 1 then (List.range (ceilDiv count 16)).map (tag + ·) else []
  decide (cls = 1 ∨ cls = 2) && decide (count ≠ 0) && d.maySeal && decide (d.slotState 0 = 0) &&
    (range ++ span).all (fun p => e.isReserve p && decide (d.pageState p = 4) && decide (stackOf p = stackOf first)) &&
    range.all (fun p => !(span.contains p))

def execSlot0Bind (who : Who) (v : Word) (s : State) : Host.Outcome State Fault Refusal :=
  let e := s.env
  let reject := s.go (s.d.reject F.SE_ERR.CFG_REJECT 0)
  match s.d.barGate e who .SE_SLOT0 0 with
  | some d => if e.fwSeal ∧ (who = .steward ∨ who = .tap ∨ (who = .pf ∧ s.d.phase ≥ 5)) then reject else s.go d
  | none =>
    let w := Reg.writeWord .SE_SLOT0 0 e.fwSeal e.slot0 v v
    if fieldOf v 49 1 = 0 then .next { s with env.slot0 := w }
    else if s.d.slot0Ok e v then
      .next { s with env.slot0 := w,
                     d := s.d.startBind e 0 (fieldOf v 32 2) 0 (fieldOf v 0 15) (fieldOf v 16 15)
                       (if fieldOf v 32 2 = 1 then fieldOf v 34 15 else 0) none }
    else reject

/-! ### Seeds of the generators (R330) -/

def execCrSeedWrite (who : Who) (sl : BitVec 9) (v : Word) (s : State) : Host.Outcome State Fault Refusal :=
  s.go (s.d.barWrite s.env who .CR_SEED sl.toNat (fun d =>
    if d.settable sl.toNat then d.putWord s.env .CR_SEED sl.toNat 0 v else d.reject F.CR_STATUS.CFG_REJECT 0))

/-! ### Link keys (R358) -/

/-- Bytes of TS_KEX_BUF, and the buffer with bytes put from its start. -/
def Die.kexBytes (d : Die) (o n : Nat) : List Nat :=
  (List.range n).map (fun i => fieldOf (d.reg .TS_KEX_BUF ((o + i) / 8) 0) (8 * ((o + i) % 8)) 8)

def Die.putKex (d : Die) (l : List Nat) : Die :=
  ((l ++ List.replicate (512 - l.length) 0).zipIdx).foldl (fun (d : Die) (x : Nat × Nat) =>
    d.setReg .TS_KEX_BUF (x.2 / 8) 0 (putField (d.reg .TS_KEX_BUF (x.2 / 8) 0) (8 * (x.2 % 8)) 8 x.1)) d

/-- A message in the buffer with its length. -/
def Die.kexMsg (d : Die) (msg rest : List Nat) : Die := (d.putKex (msg ++ rest)).setF F.TS_KEX_STATUS.LENGTH 0 msg.length

/-- A port's sealing goes OFF and its keys are erased. -/
def Die.linkOff (d : Die) (p : Nat) : Die := { d.setF F.SE_LINK.STATE p 0 with se.links := Tab.set none d.se.links p none }

/-- A failed signature or an action out of order: the exchange, if one runs, is discarded, and ERROR is set. -/
def Die.kexError (d : Die) : Die :=
  let d := match d.se.kex with
    | some k => (d.kexOver).linkOff k.port
    | none => d
  d.setEv F.TS_KEX_STATUS.ERROR 0

/-- A fresh private key or nonce below the group's order. -/
def Die.freeScalar (d : Die) : Nat × Die :=
  let a := d.free256
  let d : Die := { d with ctr := d.ctr + 4 }
  let b := d.free256
  (1 + (a.toNat + 2 ^ 256 * b.toNat) % (p384n - 1), { d with ctr := d.ctr + 4 })

/-- The identity key (R358): nothing outside PROVISIONED and DEPLOYED. -/
def Env.identity (e : Env) : Nat := Config.identityKey ((List.range 4).map (fun i => Tab.get 0 e.otp (1 + i))) % p384n

/-- The public identity key, 96 bytes. -/
def Die.idPub (e : Env) (d : Die) : List Nat := if d.mayLink then ecPublic e.identity else List.replicate 96 0

/-- M1, or the same fields of M2. -/
def kexHead (e : Env) (p : Nat) (nonce : BitVec 256) (pub : List Nat) : List Nat :=
  bytesOf 2 (fieldOf e.dieId 0 16) ++ [p] ++ List.replicate 5 0 ++ bytesOf 32 nonce.toNat ++ pub

/-- Keys and salts of both directions (R358); `init` says which die sends with the first. -/
def kexKeys (init : Bool) (priv : Nat) (peerE m1 m2 : List Nat) : LinkKeys :=
  let h := sha384 (m1 ++ m2.take 232)
  let o := hkdf384 ((m1.drop 8).take 32 ++ (m2.drop 8).take 32) (ecdh priv peerE) ("TRL-LINK".toList.map Char.toNat ++ h) 72
  let k1 := BitVec.ofNat 256 (natLE (o.take 32))
  let k2 := BitVec.ofNat 256 (natLE ((o.drop 32).take 32))
  let s1 := BitVec.ofNat 32 (natLE ((o.drop 64).take 4))
  let s2 := BitVec.ofNat 32 (natLE ((o.drop 68).take 4))
  if init then ⟨k1, k2, s1, s2⟩ else ⟨k2, k1, s2, s1⟩

/-- A port begins an exchange. -/
def Die.kexStart (d : Die) (p : Nat) (k : Kex) : Die :=
  let d := (d.linkOff p).setF F.SE_LINK.STATE p 1
  { d.setF F.TS_KEX_STATUS.BUSY 0 1 with se.kex := some k }

/-- Bytes as the exchange keeps them. -/
def asBytes (l : List Nat) : List Byte := l.map (BitVec.ofNat 8)
def asNats (l : List Byte) : List Nat := l.map BitVec.toNat

/-- An action of TS_KEX_CTL that its gate passes; it needs a life-cycle state that permits links. -/
def Die.kexAct (e : Env) (d : Die) (who : Who) (act : Die → Die) : Die :=
  d.barWrite e who .TS_KEX_CTL 0 (fun d => if d.mayLink then act d else d.kexError)

def execKexInit (who : Who) (p : BitVec 4) (s : State) : Host.Outcome State Fault Refusal :=
  let e := s.env
  s.go (s.d.kexAct e who (fun d =>
    if d.se.kex.isSome then d.kexError
    else
      let nonce := d.free256
      let r := Die.freeScalar { d with ctr := d.ctr + 4 }
      let m1 := kexHead e p.toNat nonce (ecPublic r.1)
      (r.2.kexStart p.toNat { port := p.toNat, stage := 1, init := true, priv := r.1, m1 := asBytes m1, m2 := [] }).kexMsg m1 []))

def execKexRespond (who : Who) (p : BitVec 4) (s : State) : Host.Outcome State Fault Refusal :=
  let e := s.env
  s.go (s.d.kexAct e who (fun d =>
    let m1 := d.kexBytes 0 136
    if d.se.kex.isSome ∨ (ptDecode (m1.drop 40)).isNone then d.kexError
    else
      let nonce := d.free256
      let r := Die.freeScalar { d with ctr := d.ctr + 4 }
      let k := r.2.freeScalar
      let head := kexHead e p.toNat nonce (ecPublic r.1) ++ d.idPub e
      let m2 := head ++ ecdsaSign e.identity k.1 (sha384 (m1 ++ head))
      (k.2.kexStart p.toNat { port := p.toNat, stage := 2, init := false, priv := r.1, m1 := asBytes m1, m2 := asBytes m2,
                              peer := natLE (m1.take 2) }).kexMsg m2 []))

def execKexConfirm (who : Who) (p : BitVec 4) (s : State) : Host.Outcome State Fault Refusal :=
  let e := s.env
  s.go (s.d.kexAct e who (fun d =>
    let m2 := d.kexBytes 0 328
    match d.se.kex with
    | some x =>
      let m1 := asNats x.m1
      let peerE := (m2.drop 40).take 96
      let peerP := (m2.drop 136).take 96
      if x.stage ≠ 1 ∨ x.port ≠ p.toNat ∨ (ptDecode peerE).isNone ∨
          !(ecdsaVerify peerP (m2.drop 232) (sha384 (m1 ++ m2.take 232))) then d.kexError
      else
        let k := d.freeScalar
        let id := d.idPub e
        let m3 := id ++ ecdsaSign e.identity k.1 (sha384 (m1 ++ m2 ++ id))
        let x : Kex := { x with stage := 3, m2 := asBytes m2, keys := some (kexKeys true x.priv peerE m1 m2), peer := natLE (m2.take 2) }
        Die.kexMsg { k.2.setF F.TS_KEX_STATUS.STAGED 0 1 with se.kex := some x } m3 peerP
    | none => d.kexError))

def execKexComplete (who : Who) (p : BitVec 4) (s : State) : Host.Outcome State Fault Refusal :=
  s.go (s.d.kexAct s.env who (fun d =>
    let m3 := d.kexBytes 0 192
    match d.se.kex with
    | some x =>
      let m1 := asNats x.m1
      let m2 := asNats x.m2
      let peerP := m3.take 96
      if x.stage ≠ 2 ∨ x.port ≠ p.toNat ∨ !(ecdsaVerify peerP (m3.drop 96) (sha384 (m1 ++ m2 ++ peerP))) then d.kexError
      else
        let x : Kex := { x with stage := 3, keys := some (kexKeys false x.priv ((m1.drop 40).take 96) m1 m2) }
        Die.kexMsg { d.setF F.TS_KEX_STATUS.STAGED 0 1 with se.kex := some x } [] peerP
    | none => d.kexError))

def execKexAccept (who : Who) (p : BitVec 4) (s : State) : Host.Outcome State Fault Refusal :=
  let n := p.toNat
  s.go (s.d.kexAct s.env who (fun d =>
    match d.se.kex with
    | some x =>
      if x.stage ≠ 3 ∨ x.port ≠ n then d.kexError
      else
        let d : Die := { d.kexOver with se.links := Tab.set none d.se.links n x.keys }
        let d := (d.setReg .SE_LINK_TXC n 0 0).setReg .SE_LINK_RXC n 0 0
        (d.setF F.SE_LINK.STATE n 2).setF F.SE_LINK.PEER_DIE n x.peer
    | none => d.kexError))

def execKexAbort (who : Who) (p : BitVec 4) (s : State) : Host.Outcome State Fault Refusal :=
  s.go (s.d.kexAct s.env who (fun d =>
    match d.se.kex with
    | some x => if x.port ≠ p.toNat then d.kexError else d.kexOver.linkOff p.toNat
    | none => d.kexError))

/-! ### The life cycle (R359 to R361) -/

/-- The life-cycle word of each state (Table 11.6). -/
def lcCode : Nat → Word
  | 1 => 0x0000000000003C96
  | 2 => 0x00000000A55A3C96
  | 3 => 0x00006C93A55A3C96
  | 4 => 0xFFFFFFFFFFFFFFFF
  | _ => 0

/-- The state a word decodes to; 7 is LOCKED. -/
def lcDecode (w : Word) : Nat :=
  if w = lcCode 0 then 0 else if w = lcCode 1 then 1 else if w = lcCode 2 then 2 else if w = lcCode 3 then 3
  else if w = lcCode 4 then 4 else 7

def Env.otpWord (e : Env) (i : Nat) : Word := Tab.get 0 e.otp i

/-- OTP programming sets bits only (R488). -/
def Env.program (e : Env) (i : Nat) (mask : Word) : Env := { e with otp := Tab.set 0 e.otp i (e.otpWord i ||| mask) }

/-- The transitions Touchstone accepts. -/
def lcMay (st target : Nat) : Bool := decide (target = 4 ∧ st ≠ 4) || (decide (target = st + 1) && decide (st < 3))

/-- A life-cycle request by one who may make it. -/
def Die.lcRequest (d : Die) (v : Word) : Die :=
  let t := fieldOf v 0 3
  if fieldOf v 48 16 = 0x4C43 ∧ lcMay d.lcState t ∧ d.se.prog.isNone then
    { (d.setF F.TS_LC.TARGET 0 t).setF F.TS_LC.PROGRAMMING 0 1 with se.prog := some t }
  else d

def execTsLcReq (who : Who) (v : Word) (s : State) : Host.Outcome State Fault Refusal :=
  s.go (s.d.barWrite s.env who .TS_LC_REQ 0 (fun d => if who = .tap ∧ d.lcState > 1 then d.badAccess else d.lcRequest v))

/-- Every key slot and every link key is erased (R361). -/
def Die.eraseKeys (d : Die) : Die :=
  let d : Die := { d with se.keys := [], se.ops := [], se.links := [] }
  let d := (List.range 64).foldl (fun d k =>
    if d.slotState k = 0 then d
    else (d.clearElem .SE_SLOT k).setF F.SE_SLOT.GENERATION k (d.getF F.SE_SLOT.GENERATION k)) d
  let d := (List.range 16).foldl (fun d p => d.setF F.SE_LINK.STATE p 0) d
  d.kexOver

def execLcProgramDone (s : State) : Host.Outcome State Fault Refusal :=
  match s.d.se.prog with
  | none => s.go s.d
  | some t =>
    let d : Die := { (s.d.setF F.TS_LC.TARGET 0 0).setF F.TS_LC.PROGRAMMING 0 0 with se.prog := none }
    let e := s.env.program 0 (lcCode t)
    if t = 2 then
      let e := (List.range 4).foldl (fun e i => e.program (1 + i) (Config.freeWord (d.ctr + i))) e
      .next { s with env := e, d := { d with ctr := d.ctr + 4 } }
    else if t = 4 then
      .next { s with env := (List.range 4).foldl (fun e i => e.program (1 + i) (BitVec.allOnes 64)) e, d := d.eraseKeys }
    else .next { s with env := e, d := d }

/-! ### Keys and versions of firmware (R364, R456) -/

/-- Number of set bits of a word. -/
def popCount (w : Word) : Nat := ((List.range 64).filter (fun i => w.getLsbD i)).length

/-- OTP minimum SVN. -/
def Env.minSvn (e : Env) : Nat := popCount (e.otpWord 35)

/-- The lowest `n` clear bits of a word. -/
def lowClear (w : Word) (n : Nat) : Word :=
  (((List.range 64).filter (fun i => !(w.getLsbD i))).take n).foldl (fun a i => a ||| (1#64 <<< i)) 0

/-- A write that only the running signed image may make, which programs OTP word `i`. -/
def signedWrite (s : State) (who : Who) (r : Reg) (i : Nat) (act : Nat → Nat → Env) : Host.Outcome State Fault Refusal :=
  match s.d.barGate s.env who r 0 with
  | some d => s.go d
  | none =>
    match s.d.se.image with
    | some (key, svn, true) =>
      let e := act key svn
      if e.otpWord i = s.env.otpWord i ∨ s.d.se.burn.any (fun x => decide (x.1 = i)) then .next { s with env := e }
      else .next { s with env := e, d := { s.d with se.burn := s.d.se.burn ++ [(i, s.env.otpWord i)] } }
    | _ => s.go s.d

def execSvnAdvance (who : Who) (v : Word) (s : State) : Host.Outcome State Fault Refusal :=
  signedWrite s who .TS_SVN_ADVANCE 35 (fun _ svn =>
    if fieldOf v 0 6 = svn ∧ s.env.minSvn < svn then s.env.program 35 (lowClear (s.env.otpWord 35) (svn - s.env.minSvn)) else s.env)

def execKeyRevoke (who : Who) (v : Word) (s : State) : Host.Outcome State Fault Refusal :=
  signedWrite s who .TS_KEY_REVOKE 36 (fun key _ =>
    s.env.program 36 (BitVec.ofNat 64 (fieldOf v 0 4) &&& ~~~(1#64 <<< key)))

end Sys2Proof.Machine
end

