-- ==== Sys2Proof/Machine/Reset.lean ====
section
/-! DEFINITION. Power-up, firmware download and reset (chapter 15): what each reset keeps, the phases of the start, the
flash, the mailbox, authentication and firmware seal. -/

namespace Sys2Proof.Machine

/-! ### Resets (R450 to R452, Table 15.7) -/

/-- The words of the registers that a warm reset keeps whole. -/
def keptRegs : List Reg :=
  [.AY_DIE_REC, .AY_SEC_REC, .AY_ALARM, .AY_RECOVERY, .DIR_LLOG, .DIR_LLOG_STATUS, .DIR_LLOG_CONS, .MC_UE_LOG, .MC_UE_STATUS,
   .TS_LC, .TS_LC_WORD, .TS_KEYS, .ST_PWR_LIMIT, .ST_PWR_RLIMIT]

/-- Fields that a warm reset keeps in registers it otherwise resets. -/
def keptFields : List Fld :=
  [F.AY_CFG.QUIET_TICKS, F.AY_CFG.RECOVERY_LIMIT, F.AY_CFG.WDOG_TICKS, F.AY_STATUS.ALIVE, F.AY_STATUS.STOPPED,
   F.AY_STATUS.HANDLING, F.AY_STATUS.LIMIT_HIT, F.ST_BOOT.NO_SETTINGS, F.ST_BOOT.SETTINGS_COPY, F.ST_BOOT.FLASH_TIMEOUT,
   F.ST_BOOT.FLASH_MS, F.ST_BOOT.LOG_BAD]

/-- Training of every stack of the configuration starts from its seeds (R443, R451 step 4, R477), and the die is in phase 2. -/
def Die.startTraining (e : Env) (d : Die) : Die :=
  let d : Die := { d.setF F.ST_BOOT.PHASE 0 2 with bt.phaseAt := e.now }
  let d : Die := { d with mem.stack := (List.range e.regions).foldl (fun t n => Tab.set 0 t n 1) d.mem.stack }
  (List.range e.regions).foldl (fun d n => (d.send (.seeds n (Tab.get [] d.bt.seeds n))).send (.dfi n 5 0)) d

/-- The clocks and locks after a reset: die time runs on at a warm one and starts at 0 at a cold one (R431). -/
def Env.reset (e : Env) (cold : Bool) : Env :=
  { e with tq := if cold then 0 else e.tq, phase := if cold then 0 else e.phase, slew := 0,
           privRing := 0, dieId := 0, slot0 := 0, fwSeal := false }

/-- The die at the end of step 3 of a warm reset; `fromDie` marks one that R377 starts. -/
def Die.warm (e : Env) (d : Die) (fromDie : Bool) : Die :=
  let kept := d.regs.filter (fun x => keptRegs.any (fun r => decide (r.ctorIdx = x.1)))
  let n : Die := { regs := kept, out := d.out, ctr := d.ctr, nid := d.nid,
                   mem := { dram := d.mem.dram, side := d.mem.side },
                   se := { prog := d.se.prog },
                   ay := { quiet := d.ay.quiet && !fromDie },
                   bt := { pwrGood := d.bt.pwrGood, bad := d.bt.bad, counts := d.bt.counts, trained := d.bt.trained, seeds := d.bt.seeds,
                           fromDie := fromDie || (d.bt.inWarm && d.bt.fromDie), inWarm := true } }
  let n := keptFields.foldl (fun n f => n.setF f 0 (d.getF f 0)) n
  n.startTraining e

/-- A warm reset of the whole machine. -/
def State.warm (s : State) (fromDie : Bool) : State :=
  { s with env := s.env.reset false, d := s.d.warm s.env fromDie }

/-- A part-written life-cycle word: some of the added bits, such that the word is no code (R360). A code adds at least eight bits
to the one before it, so a code with one bit more or less is none. -/
def partWord (old target free : Word) : Word :=
  let add := target &&& ~~~old
  let one := add &&& (0 - add)
  let w := old ||| (add &&& free)
  if w = target ∨ lcDecode w = 7 ∧ w ≠ old then (if w = target then target &&& ~~~one else w) else old ||| one

/-- Programming of the SVN field or of the revocations that a power loss cuts: bits of the former are set from the lowest on, bits of
the latter each alone (R456); `old` is the word before. -/
def Env.cutBurn (e : Env) (i : Nat) (old free : Word) : Env :=
  let add := e.otpWord i &&& ~~~old
  let done := if i = 35 then lowClear old (free.toNat % (popCount add + 1)) else add &&& free
  { e with otp := Tab.set 0 e.otp i (old ||| done) }

/-- A cold reset; `power` says whether the supplies fell, which cuts OTP programming short. -/
def State.cold (s : State) (power : Bool) : State :=
  let e := s.env.reset true
  let e := match s.d.se.prog with
    | some t =>
      if power then { e with otp := Tab.set 0 e.otp 0 (partWord (e.otpWord 0) (e.otpWord 0 ||| lcCode t) s.d.free) }
      else
        let e := e.program 0 (lcCode t)
        if t = 2 then (List.range 4).foldl (fun e i => e.program (1 + i) (Config.freeWord (s.d.ctr + i))) e
        else if t = 4 then (List.range 4).foldl (fun e i => e.program (1 + i) (BitVec.allOnes 64)) e
        else e
    | none => e
  let e := if power then s.d.se.burn.foldl (fun e x => e.cutBurn x.1 x.2 (Config.freeWord (s.d.ctr + 4 + x.1))) e else e
  { s with env := e, d := { out := s.d.out, ctr := s.d.ctr + 44, nid := s.d.nid, bt := { pwrGood := !power } } }

def execPowerGood (s : State) : Host.Outcome State Fault Refusal :=
  if s.d.bt.pwrGood then s.go s.d else s.go { s.d with bt.pwrGood := true, bt.phaseAt := s.env.now }

/-- `pin`: cold_reset_n pulses low; else pwr_good falls. -/
def execColdReset (pin : Bool) (s : State) : Host.Outcome State Fault Refusal :=
  if pin ∧ !s.d.bt.pwrGood then s.go s.d else .next (s.cold (!pin))

def execWarmReset (s : State) : Host.Outcome State Fault Refusal :=
  if s.d.bt.pwrGood then .next (s.warm false) else s.go s.d

/-- A write to ST_RESET (R450). -/
def State.resetWrite (s : State) (who : Who) (v : Word) : Host.Outcome State Fault Refusal :=
  match s.d.barGate s.env who .ST_RESET 0 with
  | some d => s.go d
  | none =>
    let w := fieldOf v 0 1
    let c := fieldOf v 1 1
    if fieldOf v 48 16 = 0x5253 ∧ w + c = 1 ∧ (who = .steward ∨ who = .pf) then
      if w = 1 then .next (s.warm false) else .next (s.cold false)
    else s.go (s.d.incSat F.ST_MBOX_STATUS.REJECT 0 1)

def execStResetWarm (who : Who) (v : Word) (s : State) : Host.Outcome State Fault Refusal := s.resetWrite who v

def execStResetCold (who : Who) (v : Word) (s : State) : Host.Outcome State Fault Refusal := s.resetWrite who v

/-! ### Phases 0 and 1 (R437, R440 to R444) -/

/-- Bit i set where KEY_HASH[i] is programmed. -/
def Env.keysPresent (e : Env) : Nat :=
  (List.range 4).foldl (fun a i => a + (if (List.range 6).any (fun j => decide (e.otpWord (5 + 6 * i + j) ≠ 0)) then 2 ^ i else 0)) 0

/-- The ROM starts: Touchstone has read the OTP (R359); `word` is what otp_rdata carried with otp_err. -/
def execRomStart (otpErr : Bool) (word : Word) (s : State) : Host.Outcome State Fault Refusal :=
  let e := s.env
  let d := s.d
  s.go (
    if !d.bt.pwrGood ∨ d.phase ≠ 0 then d
    else
      let w := e.otpWord 0
      let st := if otpErr then 7 else lcDecode w
      let d := (d.setF F.TS_LC.STATE 0 st).setF F.TS_LC.OTP_ERR 0 (Bool.num otpErr)
      let d := (d.setF F.TS_LC.MIN_SVN 0 e.minSvn).setReg .TS_LC_WORD 0 0 (if otpErr then word else w)
      let d := (d.setF F.TS_KEYS.REVOKED 0 (fieldOf (e.otpWord 36) 0 4)).setF F.TS_KEYS.PRESENT 0 e.keysPresent
      let d := if st = 7 then d.report e { cause := Cs.LC_LOCKED, inst := 0, det0 := Bool.num otpErr } else d
      { d.setF F.ST_BOOT.PHASE 0 1 with bt.phaseAt := e.now })

/-- Fields of a byte string of the flash. -/
def flashAt (b : List Byte) (o n : Nat) : Nat := numLE ((b.drop o).take n)

/-- A settings copy is valid (R442). -/
def settingsOk (b : List Byte) : Bool :=
  let n := flashAt b 12 4
  decide (flashAt b 0 4 = 0x53545447) && decide (flashAt b 4 4 = 1) && decide (64 ≤ n ∧ n ≤ 65536) && decide (n ≤ b.length) &&
    decide (crc32c ((b.take 16).map BitVec.toNat ++ [0, 0, 0, 0] ++ ((b.take n).drop 20).map BitVec.toNat) = flashAt b 16 4)

/-- The chosen copy, and whether it is copy B. -/
def chooseSettings (a b : List Byte) : Option (List Byte × Bool) :=
  if settingsOk a ∧ settingsOk b then
    if (BitVec.ofNat 32 (flashAt b 8 4) - BitVec.ofNat 32 (flashAt a 8 4)).toInt > 0 then some (b, true) else some (a, false)
  else if settingsOk a then some (a, false)
  else if settingsOk b then some (b, true)
  else none

/-- The limits of the chosen copy go into the power registers (R496), and its training blocks to the stacks. -/
def Die.useSettings (e : Env) (d : Die) (b : List Byte) : Die :=
  let put := fun (d : Die) (f : Fld) (v : Nat) => if v = 0 then d else d.setF f 0 v
  let d := put (put d F.ST_PWR_LIMIT.DIE_LIMIT_W (flashAt b 32 2)) F.ST_PWR_LIMIT.TURRIL_LIMIT_W (flashAt b 34 2)
  let d := (([F.ST_PWR_RLIMIT.LIMIT0, F.ST_PWR_RLIMIT.LIMIT1, F.ST_PWR_RLIMIT.LIMIT2, F.ST_PWR_RLIMIT.LIMIT3, F.ST_PWR_RLIMIT.LIMIT4,
    F.ST_PWR_RLIMIT.LIMIT5, F.ST_PWR_RLIMIT.LIMIT6, F.ST_PWR_RLIMIT.LIMIT7] : List Fld).zipIdx).foldl (fun d x =>
      if x.2 < e.regions then put d x.1 (flashAt b (36 + x.2) 1) else d) d
  { d with bt.seeds := (List.range e.regions).foldl (fun t n => Tab.set [] t n ((b.drop (4096 + 4096 * n)).take 4096)) d.bt.seeds }

/-- A slot copy of the log is usable (R444). -/
def logOk (b : List Byte) : Bool :=
  decide (b.length = 256) && decide (flashAt b 0 2 = 0x4C47) &&
    decide (crc32c ((b.take 252).map BitVec.toNat) = flashAt b 252 4)

/-- The copy of a slot that the ROM takes. -/
def slotPick (x : LogSlot) : Option (List Byte) := if logOk x.a then some x.a else if logOk x.b then some x.b else none

/-- The slot has no usable copy, and at least one copy is not erased. -/
def slotLost (x : LogSlot) : Bool := (slotPick x).isNone && !(x.a.all (· = 0xFF) && x.b.all (· = 0xFF))

/-- The usable record of a type with the highest SEQ. -/
def newest (recs : List (List Byte)) (typ : Nat) : Option (List Byte) :=
  (recs.filter (fun r => decide (flashAt r 2 1 = typ))).foldl (fun (b : Option (List Byte)) r =>
    match b with
    | none => some r
    | some x => if flashAt r 8 8 > flashAt x 8 8 then some r else some x) none

/-- Entries of every PAGES record: page, SEQ, cause and RESTORED. -/
def pageEntries (recs : List (List Byte)) : List (Nat × Nat × Nat × Bool) :=
  (recs.filter (fun r => decide (flashAt r 2 1 = 2))).flatMap (fun r =>
    (List.range (min 54 (flashAt r 32 4))).map (fun i =>
      let x := flashAt r (36 + 4 * i) 4
      (bitsOf x 0 15, flashAt r 8 8, bitsOf x 16 2, decide (bitsOf x 18 1 = 1))))

/-- The withdrawn-page list of R444: the pages whose latest entry has RESTORED 0. -/
def badPages (es : List (Nat × Nat × Nat × Bool)) : List (Nat × Nat) :=
  ((es.map Prod.fst).eraseDups).filterMap (fun p =>
    ((es.filter (fun x => decide (x.1 = p))).foldl (fun (b : Option (Nat × Nat × Nat × Bool)) x =>
      match b with
      | none => some x
      | some y => if x.2.1 ≥ y.2.1 then some x else some y) none).bind (fun x => if x.2.2.2 then none else some (p, x.2.2.1)))

/-- What the ROM takes from the log: RECOVERIES, the other counts with COLD_BOOTS one higher, and the withdrawn pages. -/
def Die.useLog (d : Die) (log : List LogSlot) : Die :=
  let recs := log.filterMap slotPick
  let c := (newest recs 1).getD []
  let d := d.setF F.ST_BOOT.LOG_BAD 0 (min 65535 ((log.filter slotLost).length))
  { d.setF F.AY_RECOVERY.RECOVERIES 0 (flashAt c 32 4) with
      bt.counts := [flashAt c 32 4, flashAt c 36 4 + 1, flashAt c 40 4, flashAt c 44 4, flashAt c 48 4, flashAt c 52 8],
      bt.bad := badPages (pageEntries recs) }

/-- Length of a phase in ms. -/
def Die.phaseMs (e : Env) (d : Die) : Nat := (e.now - d.bt.phaseAt) / 1000000

def execFlashReadDone (a b : List Byte) (log : List LogSlot) (s : State) : Host.Outcome State Fault Refusal :=
  let e := s.env
  let d := s.d
  s.go (
    if d.phase ≠ 1 then d
    else
      let d : Die := match chooseSettings a b with
        | some x => Die.useSettings e (d.setF F.ST_BOOT.SETTINGS_COPY 0 (Bool.num x.2)) x.1
        | none => d.setF F.ST_BOOT.NO_SETTINGS 0 1
      ((d.useLog log).setF F.ST_BOOT.FLASH_MS 0 (min 65535 (d.phaseMs e))).startTraining e)

def execFlashTimeout (s : State) : Host.Outcome State Fault Refusal :=
  let e := s.env
  let d := s.d
  s.go (
    if d.phase ≠ 1 ∨ e.now < d.bt.phaseAt + 2000000000 then d
    else
      let d := (d.setF F.ST_BOOT.FLASH_TIMEOUT 0 1).setF F.ST_BOOT.NO_SETTINGS 0 1
      ((d.useLog []).setF F.ST_BOOT.FLASH_MS 0 (min 65535 (d.phaseMs e))).startTraining e)

/-! ### Phase 2: training (R247, R258, R438, R477) -/

/-- The warm reset is complete (R377, R381, R382, R452). -/
def Die.warmDone (d : Die) : Die :=
  let lim := d.getF F.AY_CFG.RECOVERY_LIMIT 0
  let d : Die :=
    if d.bt.fromDie then
      let d := d.setF F.AY_STATUS.HANDLING 0 0
      if lim ≠ 0 ∧ d.getF F.AY_RECOVERY.DIE_COUNT 0 ≥ lim then { d.setF F.AY_STATUS.LIMIT_HIT 0 1 with ay.quiet := false }
      else { d with ay.quiet := true }
    else d
  { d.setF F.AY_STATUS.QUIET_COUNT 0 0 with bt.inWarm := false, bt.fromDie := false }

/-- A stack is ready, or has failed. -/
def Die.stackOver (d : Die) (n : Nat) : Bool := d.bit F.MC_STATUS.NMAP_READY n || decide (d.getF F.MC_STATUS.MODE n = 3)

/-- Phase 3 begins once every stack is ready or has failed (Table 15.1). The PHY_FAIL of a stack that failed in a warm reset of R377
is reported as HANDLING ends (log entry 53). -/
def Die.phase3 (e : Env) (d : Die) : Die :=
  if d.phase = 2 ∧ (List.range e.regions).all (fun n => d.stackOver n) then
    let d : Die := { d.setF F.ST_BOOT.PHASE 0 3 with bt.phaseAt := e.now, bt.hpReady := true }
    let handling := d.bit F.AY_STATUS.HANDLING 0
    let d := if d.bt.inWarm then d.warmDone else d
    if handling then
      ((List.range e.regions).filter (fun n => decide (d.getF F.MC_STATUS.MODE n = 3))).foldl (fun d n =>
        d.report e { cause := Cs.PHY_FAIL, inst := n, det0 := 0 }) d
    else d
  else d

/-- The length of the training, once no stack is at it. -/
def Die.trainMs (e : Env) (d : Die) : Die :=
  if (List.range e.regions).any (fun n => decide (Tab.get 0 d.mem.stack n = 1)) then d
  else d.setF F.ST_BOOT.TRAIN_MS 0 (min 65535 (d.phaseMs e))

/-- A stack that fails training (R247). -/
def Die.stackFailed (e : Env) (d : Die) (n : Nat) : Die :=
  let d := ((d.setF F.MC_STATUS.MODE n 3).setF F.MC_STATUS.PRESENT_PAGES n 0).setF F.MC_STATUS.NMAP_PAGES n 0
  let d : Die := { d with mem.stack := Tab.set 0 d.mem.stack n 3 }
  let d := d.setF F.ST_BOOT.TRAIN_FAIL 0 (d.getF F.ST_BOOT.TRAIN_FAIL 0 ||| 2 ^ n)
  Die.phase3 e ((d.trainMs e).report e { cause := Cs.PHY_FAIL, inst := n, det0 := 0 })

/-- dfi_init_complete, with the mode and geometry the PHY gives; the seed words that are read back from it are free (R477; log entry
105). -/
def execTrainingDone (n : BitVec 3) (mode : BitVec 2) (geom : BitVec 3) (s : State) : Host.Outcome State Fault Refusal :=
  let e := s.env
  let d := s.d
  let n := n.toNat
  s.go (
    if !(e.hasRegion n) ∨ Tab.get 0 d.mem.stack n ≠ 1 then d
    else match stackRow mode.toNat geom.toNat with
      | none => d.stackFailed e n
      | some r =>
        let d := ((d.setF F.MC_STATUS.MODE n r.mode).setF F.MC_STATUS.PRESENT_PAGES n r.pages).setF F.MC_STATUS.NMAP_PAGES n r.nmap
        let d := if r.mode = 2 then d.setF F.MC_CFG.GUAR_LIMIT_GBPS n 983 else d
        Die.trainMs e { d with mem.stack := Tab.set 0 d.mem.stack n 2, bt.trained := Tab.set 0 d.bt.trained n 1,
                               bt.seeds := Tab.set [] d.bt.seeds n ((List.range 4096).map (Config.trainedSeed d.ctr)), ctr := d.ctr + 1 })

def execNmapInitDone (n : BitVec 3) (s : State) : Host.Outcome State Fault Refusal :=
  let e := s.env
  let d := s.d
  let n := n.toNat
  s.go (
    if Tab.get 0 d.mem.stack n ≠ 2 then d
    else
      let mine : Nat → Bool := fun k => decide (k / 2 ^ 22 = n)
      let d : Die := { d.setF F.MC_STATUS.NMAP_READY n 1 with
        mem.stack := Tab.set 0 d.mem.stack n 3,
        mem.nmap := d.mem.nmap.filter (fun x => !(mine x.1)),
        mem.nmapBad := d.mem.nmapBad.filter (fun x => !(mine x.1)) }
      let d := d.setF F.MC_PATROL_POS.LINE n (2304 * 2 ^ 18 * n)
      let d : Die := { d with
        mem.patrolDue := Tab.set 0 d.mem.patrolDue n (e.now + d.patrolGap n),
        mem.nmapDue := Tab.set 0 d.mem.nmapDue n (e.now + d.nmapGap n),
        mem.calDue := Tab.set 0 d.mem.calDue n (d.getF F.ST_TICK.TICK_COUNT 0 + 1) }
      (Die.phase3 e (d.chargeBulk e n (d.getF F.MC_STATUS.NMAP_PAGES n * 2 ^ 25))).pump e)

def execTrainingTimeout (n : BitVec 3) (s : State) : Host.Outcome State Fault Refusal :=
  let e := s.env
  let d := s.d
  let n := n.toNat
  let ms := if d.bt.inWarm then 100 else if d.bit F.ST_BOOT.NO_SETTINGS 0 then 1500 else 400
  s.go (
    if !(e.hasRegion n) ∨ Tab.get 0 d.mem.stack n ≠ 1 ∨ e.now < d.bt.phaseAt + ms * 1000000 then d
    else d.stackFailed e n)

/-! ### The mailbox (R446, R447) -/

/-- A write to ST_MBOX_DATA at a byte offset of the window. -/
def Die.mboxWrite (d : Die) (who : Who) (off : Nat) (data : List Byte) : Die :=
  let reject := d.incSat F.ST_MBOX_STATUS.REJECT 0 1
  let store : Die := { d with bt.mbox := putBytes d.bt.mbox off data }
  let n := data.length
  let host :=
    if n % 4 ≠ 0 ∨ off % 4 ≠ 0 then d.badAccess
    else if off + n > 2 ^ 21 then reject
    else if d.phase = 3 then store
    else if d.phase ≥ 5 ∧ off + n ≤ 8192 then store
    else reject
  match who with
  | .pf => if d.phase < 3 then d.abortHost else host
  | .tap => host
  | .steward => if n % 4 ≠ 0 ∨ off % 4 ≠ 0 then d.badAccess else if off + n > 2 ^ 21 then reject else store
  | .bmc => d.badAccess
  | _ => if d.resolve who = .unbound then (d.incSat F.SM_STATUS.PASID_MISS 0 1).abortHost else d.abortHost

def execMboxDataWrite (who : Who) (off : BitVec 21) (data : List Byte) (s : State) : Host.Outcome State Fault Refusal :=
  s.go (s.d.mboxWrite who off.toNat data)

/-- A write to ST_MBOX_CTL: its RW fields, GO (R446), H2F and F2H (R447). F2H is Steward's, set by a write of 1 and
cleared by the next; Steward's write of 1 to H2F clears it as it takes the message. -/
def Die.mboxCtl (e : Env) (d : Die) (who : Who) (v : Word) : Die :=
  d.barWrite e who .ST_MBOX_CTL 0 (fun d =>
    let go := decide (fieldOf v 24 1 = 1)
    let h2f := decide (fieldOf v 32 1 = 1)
    let f2h := decide (fieldOf v 33 1 = 1)
    let d := (d.setF F.ST_MBOX_CTL.LENGTH 0 (fieldOf v 0 22)).setF F.ST_MBOX_CTL.MSIX_VECTOR 0 (fieldOf v 40 11)
    let d := if h2f then d.setF F.ST_MBOX_CTL.H2F 0 (if who = .steward then 0 else 1) else d
    let d :=
      if !f2h then d
      else if who ≠ .steward then d.badAccess
      else if d.bit F.ST_MBOX_CTL.F2H 0 then d.setF F.ST_MBOX_CTL.F2H 0 0
      else (d.setF F.ST_MBOX_CTL.F2H 0 1).msix e .pf (d.getF F.ST_MBOX_CTL.MSIX_VECTOR 0)
    if !go then d
    else if d.phase ≠ 3 then d.incSat F.ST_MBOX_STATUS.REJECT 0 1
    else { (d.incSat F.ST_MBOX_STATUS.ATTEMPTS 0 1).setF F.ST_BOOT.PHASE 0 4 with bt.phaseAt := e.now })

def execGo (who : Who) (v : Word) (s : State) : Host.Outcome State Fault Refusal := s.go (s.d.mboxCtl s.env who v)

def execH2f (who : Who) (v : Word) (s : State) : Host.Outcome State Fault Refusal := s.go (s.d.mboxCtl s.env who v)

def execF2h (who : Who) (v : Word) (s : State) : Host.Outcome State Fault Refusal := s.go (s.d.mboxCtl s.env who v)

/-! ### Authentication (R363) -/

/-- Bytes of the image as numbers. -/
def Die.image (d : Die) (o n : Nat) : List Nat := (getBytes d.bt.mbox o n).map BitVec.toNat

def Die.imageNum (d : Die) (o n : Nat) : Nat := natLE (d.image o n)

/-- KEY_HASH[k] of the OTP, 48 bytes. -/
def Env.keyHash (e : Env) (k : Nat) : List Nat := (List.range 6).flatMap (fun j => bytesOf 8 (e.otpWord (5 + 6 * k + j)).toNat)

/-- RESULT of TS_FW_STATUS for the image of the mailbox: the first check of R363 that fails. -/
def Die.authResult (e : Env) (d : Die) : Nat :=
  let body := d.imageNum 8 4
  let flags := d.imageNum 13 1
  let key := d.imageNum 12 1
  let svn := d.imageNum 16 1
  let zero := fun (o n : Nat) => (d.image o n).all (· = 0)
  if d.imageNum 0 4 ≠ 0x4E4C5256 ∨ d.imageNum 4 4 ≠ 1 ∨ flags > 1 ∨ !(zero 14 2) ∨ !(zero 17 15) ∨ !(zero 224 32) ∨ svn > 63 ∨
      d.getF F.ST_MBOX_CTL.LENGTH 0 ≠ 256 + body ∨ 256 + body > 2 ^ 21 then 2
  else if flags = 1 ∧ d.lcState ≠ 1 then 3
  else if flags = 0 ∧ (key > 3 ∨ sha384 (d.image 32 96) ≠ e.keyHash key) then 4
  else if flags = 0 ∧ (e.otpWord 36).getLsbD key then 5
  else if flags = 0 ∧ !(ecdsaVerify (d.image 32 96) (d.image 128 96) (sha384 (d.image 0 128 ++ d.image 256 body))) then 6
  else if svn < e.minSvn then 7
  else 1

def execAuthDone (s : State) : Host.Outcome State Fault Refusal :=
  let e := s.env
  let d := s.d
  s.go (
    if d.phase ≠ 4 then d
    else
      let r := d.authResult e
      let key := d.imageNum 12 1
      let svn := d.imageNum 16 1
      let uns := d.imageNum 13 1 % 2
      let d := ((d.setF F.TS_FW_STATUS.RESULT 0 r).setF F.TS_FW_STATUS.KEY_INDEX 0 key).setF F.TS_FW_STATUS.UNSIGNED 0 uns
      let d := (d.setF F.TS_FW_STATUS.TIME_US 0 (min 65535 ((e.now - d.bt.phaseAt) / 1000))).setF F.ST_MBOX_STATUS.RESULT 0 r
      if r = 1 then
        let armed := decide (d.getF F.AY_CFG.WDOG_TICKS 0 ≠ 0)
        let d := ((d.setF F.TS_FW_STATUS.SVN 0 svn).setF F.ST_BOOT.PHASE 0 5).setF F.AY_WDOG.ARMED 0 (Bool.num armed)
        { d with se.image := some (key, svn, decide (uns = 0)), ay.kicks := 0, bt.phaseAt := e.now }
      else { d.setF F.ST_BOOT.PHASE 0 3 with bt.phaseAt := e.now })

/-! ### Firmware seal (R449) -/

def execFirmwareSeal (who : Who) (v : Word) (s : State) : Host.Outcome State Fault Refusal :=
  let e := s.env
  match s.d.barGate e who .ST_SEAL 0 with
  | some d => s.go d
  | none =>
    if fieldOf v 0 1 = 0 ∨ e.fwSeal ∨ s.d.phase ≠ 5 then s.go s.d
    else
      let d : Die := { s.d.setF F.ST_BOOT.PHASE 0 6 with
        eng.gens := (List.range e.clusters).foldl (fun g n => Tab.set 0 g (genKey n none) (genSeed n 0 e.now)) s.d.eng.gens,
        bt.phaseAt := e.now }
      .next { s with env.fwSeal := true, d := d }

end Sys2Proof.Machine
end

