-- ==== Sys2Proof/Machine/Assay.lean ====
section
/-! DEFINITION. Assay (chapter 12): what a report does when it is taken, the record banks, DIE faults, the alive output and
its quiet count, the firmware watchdog, the security alarm, and the arming of injections. -/

namespace Sys2Proof.Machine

/-! ### Record banks (R374, R375, Table 12.4) -/

/-- A bank that a write has re-armed in this very cycle holds its old contents again: the report came with the write (R375). -/
def Die.unrearm (d : Die) (b : Reg) (i : Nat) : Die :=
  match d.rearmed.find? (fun x => decide (x.1 = b.ctorIdx ∧ x.2.1 = i)) with
  | some x => { x.2.2.zipIdx.foldl (fun d w => d.setReg b i w.2 w.1) d with rearmed := d.rearmed.erase x }
  | none => d

/-- A report reaches a bank: an empty one takes it whole, a valid one counts it as an overflow. -/
def Die.reach (d : Die) (b : Reg) (i : Nat) (r : Report) (cls : Nat) : Die :=
  let row := causeRow r.cause
  let d := d.unrearm b i
  if d.bit (F.REC.VALID b) i then
    let d := ((d.setEv (F.REC.VALID b) i).setF (F.REC.OVERFLOW b) i 1).incSat (F.REC.OVERFLOW_COUNT b) i 1
    let d := (d.setF (F.REC.LAST_TIME b) i r.time).setF (F.REC.LAST_CAUSE b) i row.code
    d.setF (F.REC.WORST b) i (max cls (d.getF (F.REC.WORST b) i))
  else
    let d := (((d.clearElem b i).setEv (F.REC.VALID b) i).setF (F.REC.CLASS b) i cls).setF (F.REC.WORST b) i cls
    let d := (d.setF (F.REC.SECURITY b) i (Bool.num (row.sec && !r.self))).setF (F.REC.INJECTED b) i (Bool.num (r.inj || r.self))
    let d := (d.setF (F.REC.ADDR_VALID b) i (Bool.num r.addr.isSome)).setF (F.REC.ADDR b) i (r.addr.getD 0)
    let d := (d.setF (F.REC.CTX_VALID b) i (Bool.num r.ctx.isSome)).setF (F.REC.CONTEXT b) i (r.ctx.getD 0)
    let d := (d.setF (F.REC.SLICE_VALID b) i (Bool.num r.slice.isSome)).setF (F.REC.SLICE b) i (r.slice.getD 0)
    let d := ((d.setF (F.REC.CAUSE b) i row.code).setF (F.REC.UNIT b) i (unitCode r)).setF (F.REC.INSTANCE b) i r.inst
    let d := (d.setF (F.REC.DETAIL0 b) i r.det0).setF (F.REC.DETAIL1 b) i r.det1
    d.setF (F.REC.TIME b) i r.time

/-- The message of R376, under the privileged identity. -/
def Die.assayMsix (e : Env) (d : Die) : Die := d.msix e .pf (d.getF F.AY_CFG.MSIX_VECTOR 0)

/-- A report reaches a bank, and a message is sent where `note` holds and VALID goes from 0 to 1. -/
def Die.reachNote (e : Env) (d : Die) (b : Reg) (i : Nat) (r : Report) (cls : Nat) (note : Bool) : Die :=
  let new := !((d.unrearm b i).bit (F.REC.VALID b) i)
  let d := d.reach b i r cls
  if new && note then d.assayMsix e else d

/-! ### Reports (R366 to R372, R384) -/

/-- sec_alarm is asserted (R384); its rise alerts the board controller (R486). -/
def Die.raiseAlarm (d : Die) : Die :=
  let d' := d.setEv F.AY_ALARM.SEC_ALARM 0
  if d.bit F.AY_ALARM.SEC_ALARM 0 then d' else d'.send (.alert 1)

/-- Everything a report of a class below DIE does, and what a DIE report does besides R377. -/
def Die.takeReport (e : Env) (d : Die) (r : Report) : Die :=
  let cls := repClass r
  if r.self then d.reach .AY_INJ_REC 0 r 0
  else
    let d := d.incSat F.AY_COUNT.COUNT r.cause 1
    let d := match cls, r.ctx, r.slice with
      | 1, some c, _ => d.reach .AY_CTX_REC c r 1
      | 1, none, some s | 2, _, some s =>
        let new := !((d.unrearm .AY_SLICE_REC s).bit (F.REC.VALID .AY_SLICE_REC) s)
        let d := d.reachNote e .AY_SLICE_REC s r cls true
        if new then d.setEvs F.AY_SLICE_PEND.PEND (s / 64) (2 ^ (s % 64)) else d
      | 0, _, _ => d.reachNote e .AY_CE_REC 0 r 0 (d.bit F.AY_CFG.CE_NOTIFY 0)
      | _, _, _ => d
    let d := if (causeRow r.cause).sec then d.raiseAlarm.reachNote e .AY_SEC_REC 0 r cls true else d
    match cls, r.slice with
    | 2, some s => d.forceDisable e s
    | _, _ => d

/-- A DIE fault (R377). The reports of `more` came in the same cycle: the lowest code is latched (R377 step 2). -/
def State.dieFault (s : State) (r : Report) (more : List Report) : State :=
  let e := s.env
  let d := (more ++ [r]).foldl (fun (d : Die) x => d.takeReport e x) s.d
  let first := more.foldl (fun (b : Report) x => if x.cause < b.cause then x else b) r
  let others := (r :: more).filter (fun x => decide (x ≠ first))
  let d := if d.bit F.AY_STATUS.STOPPED 0 then d else d.send (.alert 0)
  let d := (d.setF F.AY_STATUS.HANDLING 0 1).setF F.AY_STATUS.STOPPED 0 1
  let d := (d.reachNote e .AY_DIE_REC 0 first 3 true).incSat F.AY_RECOVERY.DIE_COUNT 0 1
  let d := others.foldl (fun (d : Die) x => d.reach .AY_DIE_REC 0 x 3) d
  State.warm { s with d := { d with ay.waiting := [], ay.merged := [], ay.held := [], ay.intake := [], ay.early := [],
                                                                                     ay.quiet := false } } true

/-- The report leaves its place: those merged behind it are counted, and the oldest report that its checker holds takes the place
(R372). A report that stands nowhere is one that is detected now. -/
def Die.leaveReporter (e : Env) (d : Die) (r : Report) : Report × Die :=
  let stands := d.ay.waiting.contains r || d.ay.held.contains r
  let mine := fun (x : Nat × Nat × Nat) => decide (x.1 = unitCode r ∧ x.2.1 = r.inst)
  let d := (d.ay.merged.filter mine).foldl (fun d x => d.incSat F.AY_COUNT.COUNT x.2.2 1) d
  let d : Die := { d with ay.waiting := d.ay.waiting.erase r, ay.merged := d.ay.merged.filter (fun x => !(mine x)),
                          ay.held := if d.ay.waiting.contains r then d.ay.held else d.ay.held.erase r }
  (if stands then r else { r with time := e.now },
   match d.ay.held.find? (fun x => decide (reporter x = reporter r)) with
   | some x => if d.placed (reporter r) < 4 then { d with ay.waiting := d.ay.waiting ++ [x], ay.held := d.ay.held.erase x } else d
   | none => d)

/-- The causes that are DIE in every case (R373). -/
def alwaysDie (r : Report) : Bool := decide ((causeRow r.cause).kind = .die) && !r.self

/-- Assay takes a report (R366 to R377). While HANDLING it takes none (R378). -/
def State.takeReport (s : State) (r : Report) : State :=
  if s.d.bit F.AY_STATUS.HANDLING 0 ∨ !s.d.bt.pwrGood then s
  else
    let x := s.d.leaveReporter s.env r
    if repClass x.1 = 3 then
      let more := x.2.ay.waiting.filter (fun y => alwaysDie y && alwaysDie x.1 && decide (y.time = x.1.time))
      State.dieFault { s with d := x.2 } x.1 more
    else { s with d := x.2.takeReport s.env x.1 }

/-- Places until reporter `k` is served by Assay's round robin over units and instances (R372). -/
def Die.reportTurn (d : Die) (k : Nat) : Nat := (k + 8191 - d.ay.rr) % 8192

/-- The report that enters the intake next: the oldest of the first reporter in turn. -/
def Die.nextReport (d : Die) : Option Report :=
  d.ay.waiting.foldl (fun (b : Option Report) x => match b with
    | none => some x
    | some y => if d.reportTurn (reporter x) < d.reportTurn (reporter y) then some x else b) none

/-- A report enters the intake queue. -/
def Die.enterIntake (e : Env) (d : Die) (r : Report) : Die :=
  let x := d.leaveReporter e r
  let d : Die := { x.2 with ay.intake := x.2.ay.intake ++ [x.1], ay.rr := reporter r }
  d.setF F.AY_STATUS.INTAKE_MAX 0 (max (d.getF F.AY_STATUS.INTAKE_MAX 0) d.ay.intake.length)

/-- The report at the head of the intake queue is classified. -/
def State.classify (s : State) : State :=
  match s.d.ay.intake with
  | [] => s
  | r :: t =>
    let s : State := { s with d := { s.d with ay.intake := t } }
    if repClass r = 3 then State.dieFault s r [] else { s with d := s.d.takeReport s.env r }

/-- The whole intake queue is classified, in the order of entry; `fuel` bounds it. -/
def State.classifyAll : Nat → State → State
  | 0, s => s
  | fuel + 1, s => if s.d.ay.intake = [] then s else State.classifyAll fuel s.classify

/-- Reports enter in their turns until `r` has; one that finds the queue full waits for its head to be classified. Those that
enter before `r` do so ahead of their own rows. -/
def State.enterUntil (r : Report) : Nat → State → State
  | 0, s => s
  | fuel + 1, s =>
    match s.d.nextReport with
    | none => s
    | some x =>
      let s := if s.d.ay.intake.length ≥ 256 then s.classify else s
      let d := s.d.enterIntake s.env x
      if x = r then { s with d := d }
      else State.enterUntil r fuel { s with d := { d with ay.early := d.ay.early ++ [x] } }

/-- A report comes to Assay through its reporter and the intake (R372): one that stands nowhere yet is detected now. One that
has been merged does not enter. -/
def State.intake (s : State) (r : Report) : State :=
  let e := s.env
  if s.d.bit F.AY_STATUS.HANDLING 0 ∨ !s.d.bt.pwrGood then s
  else if s.d.ay.early.contains r then { s with d := { s.d with ay.early := s.d.ay.early.erase r } }
  else if alwaysDie r then s.takeReport r
  else
    let stands := s.d.ay.waiting.contains r || s.d.ay.held.contains r
    let x : Report := if stands then r else { r with time := e.now }
    let s : State := if stands then s else
      let d := if x.cause = Cs.FABRIC_CE ∧ !x.self then (s.d.incSat F.RF_ERR.CE_COUNT 0 1).setF F.RF_ERR.LAST_CE_STOP 0 x.det0 else s.d
      { s with d := d.report e x }
    let n := s.d.ay.waiting.length + s.d.ay.held.length
    let s := if s.d.ay.waiting.contains x ∨ s.d.ay.held.contains x then State.enterUntil x n s else s
    let s := State.classifyAll (n + 1) s
    { s with d := s.d.pump s.env }

def execAssayReport (r : Report) (s : State) : Host.Outcome State Fault Refusal :=
  if r.cause < 43 then .next (s.intake r) else .next s

/-- The dedicated line of a cause that is DIE in every case (R373). -/
def execDieLine (r : Report) (s : State) : Host.Outcome State Fault Refusal :=
  if r.cause < 43 ∧ alwaysDie r then .next (s.takeReport r) else .next s

/-! ### The quiet count and the watchdog (R381 to R383) -/

/-- Tick edges the quiet count has to reach. -/
def Die.quietTicks (d : Die) : Nat := max 1 (d.getF F.AY_CFG.QUIET_TICKS 0)

def execQuietEnd (s : State) : Host.Outcome State Fault Refusal :=
  let d := s.d
  s.go (
    if d.ay.quiet ∧ !d.bt.inWarm ∧ d.getF F.AY_STATUS.QUIET_COUNT 0 ≥ d.quietTicks then
      let d := (d.setF F.AY_STATUS.ALIVE 0 (1 - d.getF F.AY_STATUS.ALIVE 0)).setF F.AY_STATUS.STOPPED 0 0
      { d.incWrap F.AY_RECOVERY.RECOVERIES 0 1 with ay.quiet := false }
    else d)

def execWdogKick (who : Who) (v : Word) (s : State) : Host.Outcome State Fault Refusal :=
  s.go (s.d.barWrite s.env who .AY_WDOG 0 (fun d => if fieldOf v 0 1 = 1 then { d with ay.kicks := 0 } else d))

def execWdogExpiry (s : State) : Host.Outcome State Fault Refusal :=
  let d := s.d
  let n := d.getF F.AY_CFG.WDOG_TICKS 0
  s.go (
    if d.bit F.AY_WDOG.ARMED 0 ∧ n ≠ 0 ∧ d.ay.kicks ≥ n then
      (d.setF F.AY_WDOG.ARMED 0 0).report s.env { cause := Cs.FW_WDOG, inst := 0, det0 := d.ay.kicks }
    else d)

/-- A write to AY_CFG: WDOG_TICKS of 0 disarms the watchdog, and a write that makes it non-zero arms it again while the
image that armed it runs (R383). -/
def Die.ayCfg (e : Env) (d : Die) (v : Word) : Die :=
  let old := d.getF F.AY_CFG.WDOG_TICKS 0
  let d := d.putWord e .AY_CFG 0 0 v
  let new := d.getF F.AY_CFG.WDOG_TICKS 0
  if new = 0 then d.setF F.AY_WDOG.ARMED 0 0
  else if old = 0 ∧ d.se.image.isSome then { d.setF F.AY_WDOG.ARMED 0 1 with ay.kicks := 0 }
  else d

def execAyCfgWrite (who : Who) (v : Word) (s : State) : Host.Outcome State Fault Refusal :=
  s.go (s.d.barWrite s.env who .AY_CFG 0 (fun d => d.ayCfg s.env v))

def execSecAlarmClear (who : Who) (v : Word) (s : State) : Host.Outcome State Fault Refusal :=
  s.go (s.d.barWrite s.env who .AY_ALARM 0 (fun d => d.putWord s.env .AY_ALARM 0 0 v))

/-! ### Injection (R385, R386, R512) -/

/-- The index of a cause's code in Table 12.1. -/
def causeIndex (code : Nat) : Option Nat := (List.range 43).find? (fun i => decide ((causeRow i).code = code))

/-- Table 12.5a: INSTANCE names a checker of the cause that is present. -/
def instanceOk (e : Env) (cause inst : Nat) : Bool :=
  let region := decide (inst < e.regions)
  let perCluster := decide (inst < e.clusters)
  if cause ≤ 1 then decide (inst = 255) || (decide (inst / 32 < e.regions) && decide (inst % 32 ≤ 26))
  else if cause ≤ 3 then perCluster
  else if ([4, 6, 7, 34, 40] : List Nat).contains cause then decide (inst = 0)
  else if cause = 5 then region || decide (inst = 8)
  else if cause ≤ 18 then perCluster
  else if cause ≤ 26 then region
  else if cause ≤ 29 then perCluster
  else if cause ≤ 32 then region || (decide (8 ≤ inst) && decide (inst < 24))
  else if cause = 33 ∨ cause = 41 then decide (inst < 16)
  else if cause = 35 ∨ cause = 36 ∨ cause = 42 then region
  else perCluster

/-- The word armed by a write of AY_INJECT breaks no rule of R385, R386 and R512. -/
def Die.injectOk (e : Env) (d : Die) (v : Word) : Bool :=
  let kind := fieldOf v 0 2
  let sym := fieldOf v 2 2
  let inst := fieldOf v 8 8
  let line := d.getF F.AY_INJECT_ADDR.LINE 0
  let p := pageOfLine line
  let kindOk := if kind = 0 then decide (d.lcState = 1) else decide (d.lcState ≠ 4)
  kindOk &&
  (if kind = 0 then
    decide (sym = 0) && (match causeIndex (fieldOf v 16 16) with | some c => instanceOk e c inst | none => false)
  else if kind = 1 then
    decide (sym = 1 ∨ sym = 2) && e.isReserve p && decide (d.pageState p = 4) && decide (inst = stackOf p) &&
      (d.rangeSlot p).isNone
  else if kind = 2 then decide (sym = 0) && d.inRange 0 p && decide (inst = stackOf p)
  else decide (sym = 0) && decide (inst < e.clusters))

/-- A write to AY_INJECT (R385, R386). -/
def Die.inject (e : Env) (d : Die) (v : Word) : Die :=
  if fieldOf v 4 1 = 0 then d.putWord e .AY_INJECT 0 0 v
  else if d.bit F.AY_INJECT.ARM 0 then d.setEv F.AY_INJECT_STATUS.REFUSED 0
  else if d.injectOk e v then
    let d := d.putWord e .AY_INJECT 0 0 v
    let l := d.getF F.AY_INJECT_ADDR.LINE 0
    if fieldOf v 0 2 = 1 then d.mcArrive e l (.inject l (fieldOf v 2 2)) else d
  else ((d.putWord e .AY_INJECT 0 0 v).setF F.AY_INJECT.ARM 0 0).setEv F.AY_INJECT_STATUS.REFUSED 0

/-- Test access may write the injection registers while the life-cycle state is TEST (R385). -/
def Die.mayInject (d : Die) (who : Who) : Bool := decide (who ≠ .tap) || decide (d.lcState = 1)

def execAyInject (who : Who) (v : Word) (s : State) : Host.Outcome State Fault Refusal :=
  s.go (if s.d.mayInject who then s.d.barWrite s.env who .AY_INJECT 0 (fun d => d.inject s.env v) else s.d.badAccess)

/-- INJECT of the test port (R487): AY_INJECT_ADDR, then AY_INJECT, while the life-cycle state is TEST. -/
def execInject (v line : Word) (s : State) : Host.Outcome State Fault Refusal :=
  s.go (
    if !s.d.bt.pwrGood then s.d
    else
      let d : Die := { s.d with bt.tapIr := 0xC }
      if d.lcState = 1 then (d.putWord s.env .AY_INJECT_ADDR 0 0 line).inject s.env v else d.badAccess)

/-- Causes whose check comes with no access of the die's own: an armed injection of one fires at the next tick edge (Table 12.5). A
port that is up goes down with LINK_DOWN. -/
def Die.tickInject (e : Env) (d : Die) : Die :=
  match ([25, 34, 40, 41, 42] : List Nat).find? (fun c => d.fire0 c (d.getF F.AY_INJECT.INSTANCE 0)) with
  | none => d
  | some c =>
    let i := d.getF F.AY_INJECT.INSTANCE 0
    let w := d.ay.waiting.length
    let d := d.fired
    if c = Cs.LINK_DOWN ∧ d.bit F.WE_PORT_STATUS.UP i then (d.portDown e i).markInj w
    else
      let det := if c = 41 ∨ c = 42 then i else if c = 40 then d.ay.kicks else if c = 25 then d.getF F.MC_TEMP.TEMP_C i else 0
      (d.report e { cause := c, inst := i, det0 := det }).markInj w

end Sys2Proof.Machine
end

