-- ==== Sys2Proof/Machine/Counting.lean ====
section
/-! DEFINITION. The Counting House (chapter 14): counters as they are sampled, latches and snapshots, watch windows,
bandwidth monitors, and the load of die time. -/

namespace Sys2Proof.Machine

/-! ### Samples (R409, R412, R414) -/

/-- Table 14.1 gives the counter to a block that is present. -/
def counterHere (e : Env) (id : Nat) : Bool :=
  if id < 64 then true
  else if id < 576 then decide ((id - 64) / 8 < e.clusters)
  else if id < 1600 then decide ((id - 576) / 16 < e.clusters)
  else if id < 1728 then decide ((id - 1600) / 16 < e.regions ∧ (id - 1600) % 16 < 11)
  else if id < 2240 then decide ((id - 1728) / 64 < e.regions)
  else if id < 2304 then decide ((id - 2240) / 8 < e.regions ∧ (id - 2240) % 8 < 6)
  else if id < 2368 then decide ((id - 2304) / 8 < e.regions)
  else if id < 2880 then decide ((id - 2368) / 8 < e.clusters)
  else if id < 3136 then decide ((id - 2880) / 4 < e.clusters)
  else if id < 3568 then decide ((id - 3136) / 54 < e.regions)
  else if id < 3824 then decide ((id - 3568) % 16 < 12)
  else if id < 3856 then decide (id < 3830)
  else if id < 4096 then decide (id < 3863 ∨ (3888 ≤ id ∧ id < 3892) ∨ (3920 ≤ id ∧ id < 3922))
  else decide (id < 6144)

/-- Counters whose events the manual names and gives no way to number: flits and cycles of a stop, row activations, cycles
with a read waiting on C(s), cycles without request credit, ring-cycles waiting for a slot and tracker busy-cycles. -/
def counterOpen (id : Nat) : Bool :=
  decide (3136 ≤ id ∧ id < 3568) || (decide (1600 ≤ id ∧ id < 1728) && decide ((id - 1600) % 16 = 5 ∨ (id - 1600) % 16 = 10)) ||
    (decide (3568 ≤ id ∧ id < 3824) && decide ((id - 3568) % 16 = 9)) || decide (id = 3861 ∨ id = 3921)

/-- The 64-bit entry of a counter: its value and its epoch (R414); `n` names the moment for a counter whose value is open. -/
def Die.sample (e : Env) (d : Die) (id n : Nat) : Word :=
  if !(counterHere e id) then 0
  else
    let v : Nat :=
      if 16 ≤ id ∧ id < 59 then d.getF F.AY_COUNT.COUNT (id - 16)
      else if counterOpen id then (Config.unstatedCount id n).toNat
      else (Tab.get 0 d.ch.cnt id).toNat
    BitVec.ofNat 64 (v % 2 ^ 48 + (Tab.get 0 d.ch.epoch id).toNat * 2 ^ 48)

/-- Every counter as a latch takes it (R417); of those whose value is open, the epoch alone. The shadow of a gated region's bank holds
what the bank holds (R413). -/
def Die.latchAll (e : Env) (d : Die) : Tab Word :=
  let ids := (List.range 43).map (· + 16) ++ d.ch.cnt.map Prod.fst ++ d.ch.epoch.map Prod.fst
  ids.foldl (fun t i =>
    Tab.set 0 t i (if counterOpen i then BitVec.ofNat 64 ((Tab.get 0 d.ch.epoch i).toNat * 2 ^ 48) else d.sample e i 0)) []

/-- An entry of a buffer that a latch filled. -/
def latched (e : Env) (b : Nat × Tab Word) (id : Nat) : Word :=
  let x := Tab.get 0 b.2 id
  if counterOpen id ∧ counterHere e id ∧ b.1 ≠ 0 then x + BitVec.ofNat 64 ((Config.unstatedCount id b.1).toNat % 2 ^ 48) else x

/-- A latch raises CH_LATCH.NUMBER; its number (R417). -/
def Die.latch (d : Die) : Nat × Die :=
  let d := d.incWrap F.CH_LATCH.NUMBER 0 1
  (d.getF F.CH_LATCH.NUMBER 0, d)

/-- Some bank with its own clock has quality COARSE (R419, R433). -/
def Die.coarse (e : Env) (d : Die) : Bool :=
  (8 :: List.range e.regions).any (fun r => !(d.bit F.ST_REGION_STATUS.TIME_FINE r) && (decide (r = 8) || decide (d.powerState r ≥ 2)))

/-- The tick latch: the sweep into the half of the buffer that is not read starts (R418). -/
def Die.tickLatch (e : Env) (d : Die) : Die :=
  let x := d.latch
  let d : Die := { x.2 with ch.sweep := some (x.1, e.now, x.2.latchAll e) }
  d.setF F.CH_SWEEP.BUSY 0 1

def execSweepDone (s : State) : Host.Outcome State Fault Refusal :=
  let d := s.d
  s.go (match d.ch.sweep with
    | some x =>
      let d := ((d.setF F.CH_SWEEP.NUMBER 0 x.1).setF F.CH_SWEEP.BUSY 0 0).setF F.CH_SWEEP_TIME.TIME 0 x.2.1
      { d with ch.snap := (x.1, x.2.2), ch.sweep := none }
    | none => d)

/-! ### The global freeze (R419) -/

/-- Every bank latches into the freeze buffer. -/
def Die.freezeNow (e : Env) (d : Die) (late : Bool) : Die :=
  let x := d.latch
  let d : Die := { x.2 with ch.frz := (x.1, x.2.latchAll e) }
  let d := (d.setF F.CH_FREEZE_CTL.ARM 0 0).setEv F.CH_FREEZE_CTL.DONE 0
  (d.setF F.CH_FREEZE_CTL.LATE 0 (Bool.num late)).setF F.CH_FREEZE_CTL.COARSE 0 (Bool.num (d.coarse e))

/-- A write to CH_FREEZE_CTL. -/
def Die.freezeWrite (e : Env) (d : Die) (v : Word) : Die :=
  let was := d.bit F.CH_FREEZE_CTL.ARM 0
  let d := d.putWord e .CH_FREEZE_CTL 0 0 v
  if !was ∧ d.bit F.CH_FREEZE_CTL.ARM 0 ∧ d.getF F.CH_FREEZE_TIME.TIME 0 < e.now then d.freezeNow e true else d

def execFreezeArm (who : Who) (v : Word) (s : State) : Host.Outcome State Fault Refusal :=
  s.go (s.d.barWrite s.env who .CH_FREEZE_CTL 0 (fun d => d.freezeWrite s.env v))

def execFreeze (s : State) : Host.Outcome State Fault Refusal :=
  s.go (if s.d.bit F.CH_FREEZE_CTL.ARM 0 ∧ s.d.getF F.CH_FREEZE_TIME.TIME 0 ≤ s.env.now then s.d.freezeNow s.env false else s.d)

/-! ### Clearing counters (R411, R414) -/

/-- Counters `first` to `first + n - 1` go to 0 and their epochs rise, the always-on set apart. -/
def Die.clearCounts (e : Env) (d : Die) (first n : Nat) : Die :=
  (List.range n).foldl (fun d i =>
    let id := first + i
    if id < 64 ∨ id ≥ 6144 ∨ !(counterHere e id) then d else d.resetCount id) d

def execChClear (who : Who) (v : Word) (s : State) : Host.Outcome State Fault Refusal :=
  s.go (s.d.barWrite s.env who .CH_CLEAR 0 (fun d => d.clearCounts s.env (fieldOf v 0 13) (fieldOf v 16 13)))

/-! ### COUNTER_SNAP (R420, R421) -/

/-- The SET of a COUNTER_SNAP is well formed, and the context may see it. -/
def Die.snapOk (d : Die) (c : Cmd) : Bool :=
  let x := c.q 16
  let kind := bitsOf x 0 4
  let target := bitsOf x 16 12
  let first := bitsOf x 32 13
  let count := bitsOf x 48 13
  decide (kind < 5) && decide (bitsOf x 4 12 = 0) && decide (bitsOf x 28 4 = 0) && decide (bitsOf x 45 3 = 0) &&
  decide (bitsOf x 61 3 = 0) && (decide (kind < 2) || decide (target = 0)) && (decide (kind ≠ 0) || decide (target < 512)) &&
  (decide (kind ≠ 2) || (decide (1 ≤ count) && decide (first + count ≤ 6144))) &&
  (match d.sliceOf c.ctx with
   | none => true
   | some s => d.bit F.CH_VIS.SNAP_ENABLE s && ((decide (kind = 0) && decide (target = s)) ||
      (decide (kind = 1) && d.ctxValid target && decide (d.sliceOf target = some s))))

def execCounterSnap (id : Nat) (s : State) : Host.Outcome State Fault Refusal :=
  s.go (s.d.start s.env id Op.COUNTER_SNAP (fun c => decide (c.aux = 0)) (fun c d =>
    if d.snapOk c then d.setCmd { c with aux := 1 } else d.cmdFail s.env c St.BAD_ARG false))

/-- The entries of a snapshot record. -/
def Die.snapEntries (e : Env) (d : Die) (x n : Nat) : List Nat :=
  let target := bitsOf x 16 12
  let ids := fun (first count : Nat) => (List.range count).map (fun i => (d.sample e (first + i) n).toNat)
  match bitsOf x 0 4 with
  | 0 => ids (4096 + 4 * target) 4
  | 1 => [d.getF F.TY_LEDGER_CLUSTER.CLUSTER_NS target, d.getF F.TY_LEDGER_ENGINE.ENGINE_NS target]
  | 2 => ids (bitsOf x 32 13) (bitsOf x 48 13)
  | 3 => ids 0 64
  | _ => (List.range 64).map (fun m => d.getF F.CH_BWLAST.BYTES m + d.getF F.CH_BWCOUNT.WINDOWS m % 65536 * 2 ^ 48)

/-- The latch of a COUNTER_SNAP that has started: its number, FINE and the entries are kept with the command. For MONITORS the windows
that have ended are closed first (R424). -/
def Die.snapLatch (e : Env) (d : Die) (c : Cmd) : Die :=
  let d := if bitsOf (c.q 16) 0 4 = 4 then (List.range 64).foldl (fun d m => d.rollMon e m) d else d
  let x := d.latch
  let d := x.2
  d.setCmd { c with aux := 2, result := x.1, tile := Bool.num (!(d.coarse e)), stats := d.snapEntries e (c.q 16) x.1 }

/-- Table 14.4. -/
def snapRecord (c : Cmd) : List Byte :=
  bytesLE 8 c.result ++ bytesLE 8 (c.start + 2000) ++ bytesLE 4 (bitsOf (c.q 16) 0 4 + 16 * c.tile) ++
    bytesLE 4 c.stats.length ++ bytesLE 8 0 ++ c.stats.flatMap (bytesLE 8)

def execSnapLatch (id : Nat) (s : State) : Host.Outcome State Fault Refusal :=
  let e := s.env
  let d := s.d
  s.go (match d.cmd id with
    | none => d
    | some c =>
      if c.op ≠ Op.COUNTER_SNAP ∨ c.st ≠ .running ∨ c.aux = 0 ∨ d.tearing c.ctx ∨ e.now < c.start + 2000 then d
      else
        let d := if c.aux = 1 then d.snapLatch e c else d
        match d.cmd id with
        | none => d
        | some c => d.oneAct e c (do
            if c.p6 8 ≠ 0 then writePtr c.src (c.p6 8) 0 (snapRecord c)
            pure c.result))

/-! ### What a slice may see (R422) -/

def execChVisWrite (who : Who) (mask : Bool) (sl : BitVec 9) (v : Word) (s : State) : Host.Outcome State Fault Refusal :=
  let e := s.env
  let i := sl.toNat
  let r : Reg := if mask then .CH_WATCH_MASK else .CH_VIS
  s.go (s.d.barWrite e who r i (fun d =>
    let taken : Bool := mask && (List.range 512).any (fun t => decide (t ≠ i) && decide (d.reg .CH_WATCH_MASK t 0 &&& v ≠ 0))
    if d.settable i ∧ !taken then d.putWord e r i 0 v else d.reject F.CH_STATUS.CFG_REJECT 0))

/-! ### Watch windows (R425 to R429) -/

/-- Table 14.6: the block of WATCH OPEN as (FORMAT, LOG2_SIZE, RING, CONS); none where it breaks the rules of R279. -/
def watchBlock (b : List Byte) : Option (Nat × Nat × Nat × Nat) :=
  let x := numLE b
  let fmt := bitsOf x 0 6
  let lg := bitsOf x 8 4
  let ring := bitsOf x 64 64
  let cons := bitsOf x 128 64
  if fmt < 6 ∧ bitsOf x 6 2 = 0 ∧ bitsOf x 12 52 = 0 ∧ 4 ≤ lg ∧ lg ≤ 12 ∧ ring ≠ 0 ∧ ring < 2 ^ 48 ∧ ring % 64 = 0 ∧
      cons ≠ 0 ∧ cons < 2 ^ 48 ∧ cons % 8 = 0 ∧ x < 2 ^ 192 then some (fmt, lg, ring, cons)
  else none

/-- WATCH_ID of a command. -/
def Cmd.watch (c : Cmd) : Nat := bitsOf c.arg0 0 6

def execWatchOpen (id : Nat) (s : State) : Host.Outcome State Fault Refusal :=
  let e := s.env
  s.go (s.d.start e id Op.WATCH (fun c => decide (bitsOf c.arg0 8 2 = 0)) (fun c d =>
    let w := c.watch
    let may := match d.sliceOf c.ctx with | some sl => (d.reg .CH_WATCH_MASK sl 0).getLsbD w | none => true
    if d.bit F.CH_WATCH.OPEN w ∨ !may ∨ c.p6 8 = 0 ∨ c.p6 8 % 64 ≠ 0 then d.cmdFail e c St.BAD_ARG false
    else d.runAct e c (readPtr c.src Ac.read (c.p6 8) 0 64) (fun b d =>
      match watchBlock b with
      | none => d.cmdFail e c St.BAD_ARG false
      | some x =>
        let d := ((d.setF F.CH_WATCH.OPEN w 1).setF F.CH_WATCH.CONTEXT w c.ctx).setF F.CH_WATCH.SLICE w ((d.sliceOf c.ctx).getD 0)
        let d := (d.setF F.CH_WATCH.FORMAT w x.1).setF F.CH_WATCH_SEQ.EPOCH w 0
        Die.finish { d with ch.watch := Tab.set none d.ch.watch w (some { start := e.now, log2 := x.2.1, ring := x.2.2.1, cons := x.2.2.2 }) }
          c.id St.OK 0)))

/-- SNAP and CLOSE: the interval is switched; what its homes had accepted before still counts in it (R428). -/
def Die.watchSwitch (e : Env) (d : Die) (c : Cmd) (close : Bool) : Die :=
  let w := c.watch
  match Tab.get none d.ch.watch w with
  | none => d.cmdFail e c St.BAD_ARG false
  | some a =>
    if !(d.bit F.CH_WATCH.OPEN w) ∨ d.getF F.CH_WATCH.CONTEXT w ≠ c.ctx then d.cmdFail e c St.BAD_ARG false
    else
      let early := d.coh.reqs.filter (fun q => (q.tracker.isSome || (decide (q.op = .wb) && decide (d.wbHead e q.who (d.home e q.line) = some q.rid))) && q.attr.watchEn && decide (q.attr.watchId = w) && d.feeds q.line w)
      let ep := d.getF F.CH_WATCH_SEQ.EPOCH w
      let old : WatchAcc := { a with watch := w, fmt := d.getF F.CH_WATCH.FORMAT w, waits := early.map (·.rid) }
      let next : Option WatchAcc :=
        if close then none else some { start := e.now, log2 := a.log2, ring := a.ring, cons := a.cons, lost := a.lost }
      let d := (d.setCmd { c with aux := 1, tile := ep, acc := e.now }).setF F.CH_WATCH_SEQ.EPOCH w (ep + 1)
      let d := if close then d.setF F.CH_WATCH.OPEN w 0 else d
      { d with ch.watch := Tab.set none d.ch.watch w next, ch.switch := d.ch.switch ++ [(c.id, old)] }

def execWatchSnap (id : Nat) (s : State) : Host.Outcome State Fault Refusal :=
  s.go (s.d.start s.env id Op.WATCH (fun c => decide (bitsOf c.arg0 8 2 = 2 ∧ c.aux = 0)) (fun c d => d.watchSwitch s.env c false))

def execWatchClose (id : Nat) (s : State) : Host.Outcome State Fault Refusal :=
  s.go (s.d.start s.env id Op.WATCH (fun c => decide (bitsOf c.arg0 8 2 = 1 ∧ c.aux = 0)) (fun c d => d.watchSwitch s.env c true))

/-- Table 14.7, for ring position `q`. -/
def digestRecord (c : Cmd) (a : WatchAcc) (q : Nat) (lost : Bool) : List Byte :=
  let cap := fun (n : Nat) => min n (2 ^ 48 - 1)
  let full := decide (a.zeros ≥ 2 ^ 48 ∨ a.nans ≥ 2 ^ 48 ∨ a.infs ≥ 2 ^ 48)
  let ex := fun (x : Option Int) => (BitVec.ofInt 16 (x.getD 0)).toNat
  bytesLE 1 (if bitsOf c.arg0 8 2 = 2 then 1 else 2) ++ bytesLE 1 c.watch ++ bytesLE 1 a.fmt ++
    bytesLE 1 ((1 - bitsOf q a.log2 1) + 2 * Bool.num a.minE.isSome + 4 * Bool.num lost + 8 * Bool.num full) ++ bytesLE 4 c.tile ++
    bytesLE 8 a.digest.toNat ++ bytesLE 8 a.lines.toNat ++ bytesLE 6 (cap a.zeros) ++ bytesLE 2 (ex a.minE) ++
    bytesLE 6 (cap a.nans) ++ bytesLE 2 (ex a.maxE) ++ bytesLE 6 (cap a.infs) ++ bytesLE 2 0 ++ bytesLE 8 a.start ++ bytesLE 8 c.acc

/-- LOST as the next record of the watch carries it. -/
def Die.watchLost (d : Die) (a : WatchAcc) : Bool :=
  match Tab.get none d.ch.watch a.watch with | some x => x.lost | none => a.lost

/-- LOST of the watch's next record is set or cleared. -/
def Die.setWatchLost (d : Die) (w : Nat) (v : Bool) : Die :=
  match Tab.get none d.ch.watch w with
  | some x => { d with ch.watch := Tab.set none d.ch.watch w (some { x with lost := v }) }
  | none => d

def execWatchSwitchDone (id : Nat) (s : State) : Host.Outcome State Fault Refusal :=
  let e := s.env
  let d := s.d
  s.go (match d.cmd id, d.ch.switch.find? (fun x => decide (x.1 = id)) with
    | some c, some (_, a) =>
      if c.st ≠ .running ∨ d.coh.reqs.any (fun q => a.waits.contains q.rid) then d
      else
        let w := a.watch
        let q := d.getF F.CH_WATCH_SEQ.PRODUCED w
        let done : Die → Die := fun d => Die.finish { d with ch.switch := d.ch.switch.filter (fun x => decide (x.1 ≠ id)) } id St.OK c.tile
        d.runAct e c (do
          let b ← readPtr c.src Ac.read a.cons 0 8
          if (q + 2 ^ 32 - numLE b % 2 ^ 32) % 2 ^ 32 < 2 ^ a.log2 then
            writePtr c.src a.ring (64 * (q % 2 ^ a.log2)) (digestRecord c a q (d.watchLost a))
            pure true
          else pure false) (fun ok d =>
            if ok then done ((d.incWrap F.CH_WATCH_SEQ.PRODUCED w 1).setWatchLost w false)
            else done ((d.incSat F.CH_WATCH.DROPPED w 1).setWatchLost w true))
    | _, _ => d)

/-! ### Bandwidth monitors (R423, R424) -/

def execBwmonWrite (who : Who) (m : BitVec 6) (v : Word) (s : State) : Host.Outcome State Fault Refusal :=
  let e := s.env
  let i := m.toNat
  s.go (s.d.barWrite e who .CH_BWMON i (fun d =>
    let d := (((d.putWord e .CH_BWMON i 0 v).clearElem .CH_BWLAST i).clearElem .CH_BWPEAK i).clearElem .CH_BWCOUNT i
    let next := if d.getF F.CH_BWMON.WINDOW_US i = 0 then 0 else d.monWindow i e.now + 1
    { d with ch.mons := Tab.set (0, 0, false) d.ch.mons i (0, next, false) }))

def execBwmonWindowEnd (m : BitVec 6) (s : State) : Host.Outcome State Fault Refusal :=
  s.go (s.d.rollMon s.env m.toNat)

def execBwpeakClear (who : Who) (m : BitVec 6) (v : Word) (s : State) : Host.Outcome State Fault Refusal :=
  s.go (s.d.barWrite s.env who .CH_BWPEAK m.toNat (fun d => if fieldOf v 63 1 = 1 then d.setF F.CH_BWPEAK.PEAK m.toNat 0 else d))

/-! ### Die time (R431) -/

def execChTimeLoad (who : Who) (v : Word) (s : State) : Host.Outcome State Fault Refusal :=
  match s.d.barGate s.env who .CH_TIME_LOAD 0 with
  | some d => s.go (s.d.gateReject who d F.CH_STATUS.CFG_REJECT 0)
  | none =>
    if !s.env.fwSeal ∧ s.env.now < v.toNat then
      let e' : Env := { s.env with tq := v.toNat * 65536 }
      .next { s with env := e', d := s.d.stepMons s.env e' }
    else s.go (s.d.reject F.CH_STATUS.CFG_REJECT 0)

end Sys2Proof.Machine
end

