-- ==== Sys2Proof/Machine/Power.lean ====
section
/-! DEFINITION. Time and power: what passes with die time (R136, R137, R139, R431), the work of a tick edge (R35, Table 1.6),
the sleep and wake of regions (R38 to R42, R489, R498), their clocks (R26) and power caps (R494, R495). -/

namespace Sys2Proof.Machine

/-! ### What time charges (R123, R136, R137, R139) -/

/-- `ns` of die time during which a command works on an engine, charged to its context; `k` counts slices (Table 14.1). -/
def Die.chargeEngine (d : Die) (ctx ns : Nat) : Die :=
  let d := d.incWrap F.TY_LEDGER_ENGINE.ENGINE_NS ctx ns
  let d := d.count 1 ns
  match d.sliceOf ctx with
  | some s => d.count (4097 + 4 * s) ns
  | none => d

/-- A pass rises by `ns` × 65,536 ÷ `w`; the remainder is carried forward (R123). -/
def passUp (p : Nat × Nat) (ns w : Nat) : Nat × Nat :=
  let t := ns * 65536 + p.2
  ((p.1 + t / w) % 2 ^ 64, t % w)

/-- One cluster held for `ns`: the Ledger, the passes, and the command that runs there. -/
def Die.chargeCluster (d : Die) (k ns : Nat) : Die :=
  let c := d.getF F.TY_CLUSTER.CONTEXT k
  let d := ((d.incWrap F.TY_LEDGER_CLUSTER.CLUSTER_NS c ns).count 0 ns).count (64 + 8 * k + 6) ns
  let d : Die := match d.sliceOf c with
    | some s =>
      let d := d.count (4096 + 4 * s) ns
      if d.bit F.SM_SLICE.KIND s then d
      else { d with ty.passS := Tab.set (0, 0) d.ty.passS s (passUp (Tab.get (0, 0) d.ty.passS s) ns (d.weightS s)) }
    | none => d
  let d : Die := { d with ty.passC := Tab.set (0, 0) d.ty.passC c (passUp (Tab.get (0, 0) d.ty.passC c) ns (d.weightC c)) }
  match (d.kernAt k).bind (fun x => d.cmd x.cmd) with
  | some c => d.setCmd { c with ns := c.ns + ns }
  | none => d

/-- The clusters that contexts hold. -/
def Die.heldNow (e : Env) (d : Die) : List Nat :=
  (List.range e.clusters).filter (fun k => decide (1 ≤ d.clState k ∧ d.clState k ≤ 3))

/-- `ns` of die time pass over everything that is charged by time. -/
def Die.elapse (e : Env) (d : Die) (ns : Nat) : Die :=
  let d := (d.heldNow e).foldl (fun d k => d.chargeCluster k ns) d
  let dmes := ((d.eng.jobs.map (·.dme)).eraseDups).filter (fun n => d.running (n / 8))
  let d := dmes.foldl (fun d n => (d.dmeWorks n).foldl (fun d c => d.chargeEngine c ns) d) d
  let d := (List.range e.regions).foldl (fun d n =>
    if !(d.running n) ∨ d.sorterWorks n = [] then d
    else (((d.sorterWorks n).foldl (fun d c => d.chargeEngine c ns) d).incWrap F.SO_BUSY.BUSY_NS n ns).count 13 ns) d
  d.count 14 (ns * ((List.range e.regions).filter d.running).length)

/-- What the slewing of R200 adds within `n` periods: at most 500 ppm. -/
def Env.slewPart (e : Env) (n : Nat) : Int := max (-(1310 * (n : Int))) (min (1310 * (n : Int)) e.slew)

/-- The clocks after `n` periods of the 25 MHz reference (R431). -/
def Env.periods (e : Env) (n : Nat) : Env :=
  let s := e.slewPart n
  { e with tq := ((e.tq + n * 2621440 : Nat) + s).toNat, slew := e.slew - s, phase := e.phase + n }

/-! ### Idle regions (R38, R397) -/

/-- Non-deferrable maintenance is due in the region. -/
def Die.maintDue (d : Die) (r : Nat) : Bool :=
  decide (d.phase < 3) || d.mem.retr.contains r || d.sm.scrubs.any (fun x => decide (stackOf x.1 = r)) ||
    d.se.ops.any (fun x => decide (d.getF F.SE_SLOT.STACK x.1 = r))

/-- A RUNNABLE, RUNNING or YIELDED context has work placed on the region's clusters: it holds one there, or its slice's work is
placed there by its set-up alone. -/
def Die.clusterWork (e : Env) (d : Die) (r : Nat) : Bool :=
  (List.range 8).any (fun i =>
    let k := 8 * r + i
    decide (1 ≤ d.clState k ∧ d.clState k ≤ 3 ∧ 1 ≤ d.ctxState (d.getF F.TY_CLUSTER.CONTEXT k) ∧
      d.ctxState (d.getF F.TY_CLUSTER.CONTEXT k) ≤ 3)) ||
  (d.listed .SF_CTX_STATUS).any (fun c => decide (1 ≤ d.ctxState c ∧ d.ctxState c ≤ 3) &&
    (match d.sliceOf c with | some s => decide (r ∈ d.placeRegions e s) | none => false))

/-- Engines of the region hold commands, whose messages enter it. -/
def Die.engineWork (d : Die) (r : Nat) : Bool :=
  d.eng.jobs.any (fun j => decide (j.dme / 8 = r)) || d.eng.leads.any (fun j => decide (j.dme = r)) ||
    d.eng.items.any (fun x => decide (x.1 = r) && !x.2.2.2)

/-- Something keeps the region from being idle now. -/
def Die.occupied (e : Env) (d : Die) (r : Nat) : Bool := d.maintDue r || d.clusterWork e r || d.engineWork r

/-- Idle ticks of a region, counted at a tick edge. -/
def Die.tickIdle (e : Env) (d : Die) (r : Nat) : Die :=
  let p := d.power r
  let w := d.occupied e r
  if d.running r then d.setPower r { p with idle := if p.busy || w then 0 else p.idle + 1, busy := w }
  else d.setPower r { p with idle := 0 }

/-! ### Clocks and caps (R26, R494, R495) -/

/-- The target clock in force, in units of 10 MHz (Table 1.10). -/
def Die.freqTarget (d : Die) (n : Nat) : Nat := max 80 (min 220 (d.getF F.ST_REGION_CTL.FREQ_CODE n))

/-- The limit of region `n` in units of 10 mW; 0 for none, as for the hub. -/
def Die.regionLimit (d : Die) (n : Nat) : Nat := if n < 8 then 400 * fieldOf (d.reg .ST_PWR_RLIMIT 0 0) (8 * n) 8 else 0

/-- The estimate of a domain for the tick that has ended: a GATED region is at its idle figure of Table 17.3. -/
def Die.estimate (d : Die) (n : Nat) : Nat :=
  if n < 8 ∧ d.powerState n = 0 then 30 else Config.powerEstimate n d.ctr % 65536

/-- The cap of domain `n` after a tick whose block estimate is `block` against `lim`. -/
def Die.tickCap (d : Die) (block lim n : Nat) : Die :=
  let est := d.getF F.ST_PWR_DOM.EST n
  let rl := d.regionLimit n
  let cap := d.getF F.ST_PWR_DOM.CAP n
  let d := if d.bit F.ST_PWR_DOM.CAPPED n then d.incSat F.ST_PWR_DOM.CAP_TICKS n 1 else d
  let own := decide (rl ≠ 0 ∧ est > rl)
  let all := decide (block > lim ∧ (n = 8 ∨ d.powerState n = 2))
  let below := decide (rl = 0 ∨ 10 * est < 9 * rl) && decide (10 * block < 9 * lim)
  let p := d.power n
  let d := if own ∧ cap = 80 then d.setF F.ST_PWR_DOM.FLOOR n 1 else d
  let x : Nat × Nat :=
    if own || all then (max 80 (cap - 5), 0)
    else if below then (if p.belowTicks + 1 ≥ 8 then (min 220 (cap + 5), 0) else (cap, p.belowTicks + 1))
    else (cap, 0)
  let d := (d.setPower n { d.power n with belowTicks := x.2 }).setF F.ST_PWR_DOM.CAP n x.1
  let d := d.setF F.ST_PWR_DOM.CAPPED n (Bool.num (decide (x.1 < d.freqTarget n)))
  if n = 8 ∨ d.powerState n ≥ 2 then d.setF F.ST_REGION_STATUS.FREQ_NOW n (min (d.freqTarget n) x.1) else d

/-- Estimates, caps and clocks at a tick edge. -/
def Die.tickPower (e : Env) (d : Die) : Die :=
  let doms := List.range e.regions ++ [8]
  let block := Config.powerEstimate 9 d.ctr % 65536
  let lim := 100 * max 40 (d.getF F.ST_PWR_LIMIT.TURRIL_LIMIT_W 0)
  let d := doms.foldl (fun d n => d.setF F.ST_PWR_DOM.EST n (d.estimate n)) d
  let d := (d.setF F.ST_PWR_TOTAL.EST 0 block).setF F.ST_PWR_TOTAL.OVER 0 (Bool.num (decide (block > lim)))
  (doms.foldl (fun d n => d.tickCap block lim n) d).drawn

/-! ### The tick edge (R35, R36, Table 1.6) -/

/-- Written weights and TY_CFG take effect (R122, R148). -/
def Die.tickShares (e : Env) (d : Die) : Die :=
  let d := (d.listed .TY_SHARE).foldl (fun d s => d.setF F.TY_SHARE.EFFECTIVE s (d.getF F.TY_SHARE.WEIGHT s)) d
  let d := (d.listed .TY_CTX_SHARE).foldl (fun d c => d.setF F.TY_CTX_SHARE.EFFECTIVE c (d.getF F.TY_CTX_SHARE.WEIGHT c)) d
  let was := d.lendOn
  let d : Die := { d with ty.cfg := d.reg .TY_CFG 0 0 }
  if was ∧ !d.lendOn then d.recallAll e else d

/-- The temperature of every stack that is awake is asked for (R266, R397). -/
def Die.tickTemps (e : Env) (d : Die) : Die :=
  (List.range e.regions).foldl (fun d n =>
    if d.trained e n ∧ d.running n ∧ (Tab.get none d.mem.temp n).isNone then
      Die.send { d with mem.temp := Tab.set none d.mem.temp n (some e.now) } (.dfi n 8 0)
    else d) d

/-- The alive output, the quiet count and the watchdog's count at a tick edge (R380, R381, R383). -/
def Die.tickAssay (d : Die) : Die :=
  let d := if d.bit F.AY_STATUS.STOPPED 0 then d else d.setF F.AY_STATUS.ALIVE 0 (1 - d.getF F.AY_STATUS.ALIVE 0)
  let d := if d.ay.quiet ∧ !d.bt.inWarm ∧ d.getF F.AY_STATUS.QUIET_COUNT 0 < d.quietTicks then d.incSat F.AY_STATUS.QUIET_COUNT 0 1 else d
  if d.bit F.AY_WDOG.ARMED 0 then { d with ay.kicks := d.ay.kicks + 1 } else d

/-- The work of a tick edge; `late` says that the firmware's tick work still runs (R36). -/
def Die.tickEdge (e : Env) (d : Die) (late : Bool) : Die :=
  let d := d.incWrap F.ST_TICK.TICK_COUNT 0 1
  let d := if late then (d.incSat F.ST_TICK.OVERRUN_COUNT 0 1).count 15 1 else d
  let d := (d.tickAssay.tickInject e).tickLatch e
  let d := (List.range e.regions).foldl (fun d r => d.tickIdle e r) d
  let d := (d.tickPower e).tickShares e
  let d := (d.listed .TY_RING_DL).foldl (fun d n => d.monitorRing e n) d
  let d := d.tickTemps e
  let k := d.getF F.STU_CFG.DECAY_TICKS 0
  let d : Die := if k ≠ 0 ∧ d.getF F.ST_TICK.TICK_COUNT 0 % k = 0 then { d with stu.decayDue := d.stu.decayDue + 1 } else d
  { d with we.timeTicks := d.we.timeTicks + 1, se.burn := [] }

/-- Die time has moved on: events and writes of the earlier cycle are over (R11), and what waited for its buckets to fill goes on
(R183, R264). -/
def Die.later (e : Env) (d : Die) : Die :=
  let d : Die := { d with rose := [], rearmed := [] }
  if d.we.queue = [] ∧ d.mem.waits = [] ∧ d.mem.queue = [] then d else d.pump e

/-- `n` periods of the reference pass, at most to the next tick edge, whose work is then done. -/
def State.pass (s : State) (n : Nat) (late : Bool) : State :=
  if !s.d.bt.pwrGood then s
  else
    let e := s.env.periods n
    let d := (s.d.elapse e (e.now - s.env.now)).later e
    if e.phase < 12500 then { s with env := e, d := d }
    else
      let e := { e with phase := 0 }
      { s with env := e, d := d.tickEdge e late }

/-- What the block does on an empty queue: one period of the reference. -/
def State.idle (s : State) : State := s.pass 1 false

def execTick (fwBusy : Bool) (s : State) : Host.Outcome State Fault Refusal := .next (s.pass (12500 - s.env.phase) fwBusy)

/-! ### Regions asleep and awake (R38 to R42, R489, R498) -/

def execGatingStart (r : BitVec 3) (s : State) : Host.Outcome State Fault Refusal :=
  let e := s.env
  let d := s.d
  let r := r.toNat
  let p := d.power r
  s.go (
    if d.bt.pwrGood ∧ e.hasRegion r ∧ d.running r ∧ d.getF F.ST_REGION_CTL.GATE_POLICY r = 0 ∧ !p.busy ∧ !(d.occupied e r) ∧
        p.idle ≥ max 1 (d.getF F.ST_REGION_CTL.IDLE_TICKS r) then
      (d.setF F.ST_REGION_STATUS.POWER r 3).setPower r { p with step := 1, at_ := e.now, left := e.now, idle := 0, wake := false }
    else d)

/-- Every dirty tag line of stack `n` is written back and the tag cache empties (R345). -/
def Die.tagFlush (e : Env) (d : Die) (n : Nat) : Die := (d.mem.tagsOf n).foldl (fun d x => d.tryAct e (tagEvict x.1)) d

/-- The next step of GATING begins once the present one has ended. -/
def Die.gatingStep (e : Env) (d : Die) (r : Nat) : Die :=
  let p := d.power r
  match p.step with
  | 1 => (d.setPower r { p with step := 2 }).startFlush e (.all r) (.gating r)
  | 2 =>
    if d.flushRuns (.gating r) then d
    else
      let d := (d.setPower r { p with step := 3 }).tagFlush e r
      if (d.mem.tagsOf r).isEmpty then d else d.setPower r { d.power r with step := 2 }
  | 3 =>
    if d.mem.retr.contains r then
      if (16 + r) ∈ d.mem.paused then d else Die.foreman { d with mem.paused := (16 + r) :: d.mem.paused } F.ST_FOREMAN_STATUS.WAITS
    else
      let d := d.unpause (16 + r)
      let d := (d.nmcFlush e r).setPower r { p with step := 4 }
      Die.send { d.closeRows r none with mem.selfRef := d.mem.selfRef ++ [r] } (.dfi r 6 0)
  | 4 =>
    let d : Die := { d with stu.caches := d.stu.caches.filter (fun x => decide (x.cache ≠ r)),
                            coh.strides := d.coh.strides.filter (fun x => decide (x.1 / 128 ≠ r)) }
    ((d.setPower r { p with step := 5, at_ := e.now }).setF F.ST_REGION_STATUS.TIME_FINE r 0).send (.dfi r 7 0)
  | _ => d

def execGatingStepDone (r : BitVec 3) (s : State) : Host.Outcome State Fault Refusal :=
  s.go (if s.d.powerState r.toNat = 3 then s.d.gatingStep s.env r.toNat else s.d)

/-- The supply is good: isolation is released and the clock starts. -/
def execRpsOnAckRise (r : BitVec 3) (s : State) : Host.Outcome State Fault Refusal :=
  let d := s.d
  let r := r.toNat
  s.go (
    if d.powerState r = 1 ∧ !(d.power r).ack then (d.setPower r { d.power r with ack := true }).setF F.ST_REGION_STATUS.TIME_FINE r 0
    else d)

/-- The switch is open: the region is GATED, and a trigger that waited wakes it at once (R40). -/
def execRpsOnAckFall (r : BitVec 3) (s : State) : Host.Outcome State Fault Refusal :=
  let d := s.d
  let r := r.toNat
  s.go (
    if d.powerState r = 3 ∧ (d.power r).step = 5 then
      let p := d.power r
      let d := (d.setF F.ST_REGION_STATUS.POWER r 0).setPower r { p with step := 0, ack := false, wake := false }
      if p.wake then d.wake s.env r else d
    else d)

/-- A region reaches RUNNING: its clusters leave reset with fresh credits, its stack leaves self-refresh, and what waited
for it goes on. -/
def execRegionRunning (r : BitVec 3) (s : State) : Host.Outcome State Fault Refusal :=
  let e := s.env
  let d := s.d
  let r := r.toNat
  s.go (
    if d.powerState r = 1 ∧ (d.power r).ack then
      let d := d.setF F.ST_REGION_STATUS.POWER r 2
      let d := d.setF F.ST_REGION_STATUS.FREQ_NOW r (min (d.freqTarget r) (d.getF F.ST_PWR_DOM.CAP r))
      let d : Die := { d with mem.selfRef := d.mem.selfRef.filter (· ≠ r),
                              coh.credits := d.coh.credits.filter (fun x => decide (x.1 ≥ 1024 ∨ x.1 / 128 ≠ r)) }
      let d := (d.setPower r { d.power r with busy := true, idle := 0, step := 0 }).send (.dfi r 9 0)
      let d := if d.mem.retr.contains r then d.send (.dfi r 4 0) else d
      (d.awake e r).pump e
    else d)

/-- A region's interpolator, or the hub's, locks (R433). -/
def execInterpolatorLock (n : BitVec 4) (s : State) : Host.Outcome State Fault Refusal :=
  let d := s.d
  let n := n.toNat
  let clock := if n = 8 then true else s.env.hasRegion n && (decide (d.powerState n ≥ 2 ∧ (d.power n).step < 5) || (decide (d.powerState n = 1) && (d.power n).ack))
  s.go (if d.bt.pwrGood ∧ clock then d.setF F.ST_REGION_STATUS.TIME_FINE n 1 else d)

/-- A woken region that has not reached RUNNING 50 µs after its trigger (Table 12.1). -/
def execRegionPwr (r : BitVec 3) (s : State) : Host.Outcome State Fault Refusal :=
  let d := s.d
  let r := r.toNat
  let due := decide (d.powerState r = 1) && decide (s.env.now ≥ (d.power r).at_ + 50000) &&
    !(d.reported Cs.REGION_PWR r)
  s.go (if due then d.report s.env { cause := Cs.REGION_PWR, inst := r, det0 := r } else d)

/-- A write to ST_REGION_CTL (R26, R41). -/
def Die.regionCtl (e : Env) (d : Die) (n : Nat) (v : Word) : Die :=
  let was := d.getF F.ST_REGION_CTL.GATE_POLICY n
  let d := d.putWord e .ST_REGION_CTL n 0 v
  let f := d.getF F.ST_REGION_CTL.FREQ_CODE n
  let d := if f < 80 ∨ f > 220 then d.setEv F.ST_REGION_STATUS.FREQ_CLAMP n else d
  if n < 8 ∧ was = 0 ∧ d.getF F.ST_REGION_CTL.GATE_POLICY n ≠ 0 then d.wake e n else d

def execStRegionCtlWrite (who : Who) (n : BitVec 4) (v : Word) (s : State) : Host.Outcome State Fault Refusal :=
  s.go (if n.toNat < 9 then s.d.barWrite s.env who .ST_REGION_CTL n.toNat (fun d => d.regionCtl s.env n.toNat v) else s.d)

end Sys2Proof.Machine
end

