-- ==== Sys2Proof/Machine/Sorter.lean ====
section
/-! DEFINITION. The Sorters (chapter 9): lead commands and select items, parameter blocks, the four modes of DISPATCH,
COMBINE, and the tiles that DMEs issue for them and for their own commands (R175). -/

namespace Sys2Proof.Machine

/-! ### Leads and helpers (R272 to R277) -/

/-- Counter `k` of Sorter `n` (Table 14.1). -/
def soCount (n k : Nat) : Nat := 2304 + 8 * n + k

/-- A DISPATCH or COMBINE is placed on its lead, whose region wakes (R273, R276). -/
def Die.placeLead (e : Env) (d : Die) (c : Cmd) : Die :=
  match leastOf (fun n => (d.leadsQueued n).length) (d.homeEngines e c.ctx 1) with
  | some n =>
    let d := d.joins (64 + n) c.ctx (d.leadCmds n)
    let d : Die := { d with eng.leads := d.eng.leads ++ [{ dme := n, cmd := c.id }] }
    (d.wake e n).ctxPump c.ctx
  | none => d

/-- The Sorter takes up a lead command: its per-command counters reset (R415). -/
def Die.takeLead (d : Die) (n : Nat) (c : Cmd) : Die :=
  let d := if c.first then d else (((d.count (soCount n 0) 1).resetCount (soCount n 6)).resetCount (soCount n 7)).served (64 + n) c.ctx
  Die.enginesPump { d.setCmd { c with first := false } with eng.running := Tab.set none d.eng.running n (some c.id) }

/-- The lead command leaves its Sorter. -/
def Die.endLead (d : Die) (n : Nat) (c : Cmd) (result : Nat) : Die :=
  (((((d.unplace c.id false).incWrap F.SO_COUNT.COMPLETED n 1).setCmd c).finish c.id St.OK result).ctxPump c.ctx).enginesPump

/-- A DISPATCH that faulted, or whose SRAM failed, stops on every Sorter, to start again from the beginning (R301, R304). -/
def Die.unrun (d : Die) (c : Cmd) : Die :=
  let c := { c with aux := 0, tile := 0, acc := 0, work := [], sums := [], stats := [], block := 0, outs := [], late := [], first := true }
  { d.setCmd c with
    eng.items := d.eng.items.filter (fun x => decide (x.2.1 ≠ c.id)),
    eng.jobs := d.eng.jobs.filter (fun j => decide (j.cmd ≠ c.id)),
    eng.running := d.eng.running.filter (fun x => decide (x.2 ≠ some c.id)) }

/-- A DISPATCH held under REPLAY leaves its lead's queue as well; it returns to the head of it (R301). -/
def Die.sendAway (d : Die) (c : Cmd) : Die :=
  let mine := fun (j : DmeJob) => decide (j.cmd = c.id)
  { d.unrun c with eng.leads := d.eng.leads.filter (fun j => !(mine j)), eng.away := d.eng.away ++ d.eng.leads.filter mine }

/-- A restart of a Sorter command is counted. -/
def Die.restarts (d : Die) (n : Nat) : Die := (d.incSat F.SO_COUNT.RESTARTS n 1).count (soCount n 5) 1

/-- The accesses of a lead, or of a helper for its item. -/
def Die.soAct {α : Type} (e : Env) (d : Die) (c : Cmd) (a : Act α) (k : α → Die → Die) : Die :=
  match attempt e d (.cmd c.id) a with
  | .ok x d => k x d
  | .wait d => d
  | .stop s x d => d.cmdFail e c s x
  | .fault r d =>
    let hold := decide (c.op = Op.DISPATCH) && decide (d.getF F.SF_CTX_CFG.FAULT_POLICY c.ctx = 1)
    ((if hold then d.sendAway c else d).faulted e r (some c.id) none).enginesPump

/-- Parity errors of a Sorter's SRAM (R304), whether Sorter `n` leads the command or runs an item of it: the command starts again
once, and ends at the second, or once a COMBINE has issued a row. The answer is none where none is found. -/
def Die.soParity (e : Env) (d : Die) (n : Nat) (c : Cmd) : Option Die :=
  let again := d.eng.parity.contains c.id || (decide (c.op = Op.COMBINE) && decide (c.tile ≠ 0 ∨ c.acc ≠ 0 ∨ c.aux = 3))
  let w := d.ay.waiting.length
  let rep := fun (d : Die) (cause : Nat) => (d.fired.reportCtx e cause n none (some c.ctx) c.ctx).markInj w
  if !again ∧ d.fire0 Cs.SO_PARITY n then
    let d := ((rep d Cs.SO_PARITY).incSat F.SO_ERR.PARITY n 1).restarts n
    some (Die.enginesPump { d.unrun c with eng.parity := d.eng.parity ++ [c.id] })
  else if again ∧ (d.fire0 Cs.SO_PARITY n ∨ d.fire0 Cs.SO_PARITY_REPEAT n) then
    let d := ((rep d Cs.SO_PARITY_REPEAT).incSat F.SO_ERR.PARITY n 1).incSat F.SO_ERR.REPEAT n 1
    some (d.cmdFail e c St.BUS_ERROR false)
  else none

/-! ### Parameter blocks (R279) -/

/-- A field of a parameter block. -/
def pb (b o lo w : Nat) : Nat := bitsOf b (8 * o + lo) w

/-- Bits `lo .. hi - 1` of the word at byte `o` are 0. -/
def pbZero (b o lo hi : Nat) : Bool := decide (pb b o lo (hi - lo) = 0)

/-- A pointer field: bits [63:48] at 0 and an alignment; a required one is not 0. -/
def pbPtr (b o al : Nat) (req : Bool) : Bool := pbZero b o 48 64 && decide (pb b o 0 48 % al = 0) && !(req && decide (pb b o 0 48 = 0))

/-- Bytes of a score format (Table 9.2). -/
def scoreSize (f : Nat) : Nat := if f = 0 then 4 else if f ≤ 2 then 2 else 1

def Cmd.mode (c : Cmd) : Nat := bitsOf c.arg0 0 2
def Cmd.pPtr (c : Cmd) : Nat := c.p6 8
def Cmd.pIn (c : Cmd) : Nat := c.p6 16
def Cmd.pOut (c : Cmd) : Nat := c.p6 24

/-- Table 9.3. -/
def expertOk (c : Cmd) (b : Nat) : Bool :=
  let f := pb b 0 4 3
  let k := pb b 0 16 4
  let ne := pb b 0 32 13
  let cap := pb b 24 0 25
  let resid := decide (pb b 0 9 2 = 2)
  let g := decide (pb b 0 11 1 = 1)
  let row := 4 * (pb b 104 0 14 + 1)
  let lst := 4 * (cap + if resid then pb b 32 16 25 else 0)
  decide (pb b 0 0 4 ≤ 8 ∧ f ≤ 4 ∧ pb b 0 7 2 < 3 ∧ pb b 0 9 2 < 3) && pbZero b 0 12 16 && pbZero b 0 20 32 && pbZero b 0 45 64 &&
  decide (1 ≤ k ∧ k ≤ 8 ∧ k ≤ ne ∧ 1 ≤ ne ∧ ne ≤ 4096) &&
  decide (1 ≤ pb b 8 0 25 ∧ pb b 8 0 25 ≤ 2 ^ 24) && pbZero b 8 25 64 &&
  decide (pb b 16 0 32 % scoreSize f = 0 ∧ pb b 16 0 32 ≥ ne * scoreSize f) && pbZero b 16 32 64 &&
  decide (1 ≤ cap ∧ cap ≤ 2 ^ 24) && pbZero b 24 25 32 && pbZero b 24 40 64 &&
  (if resid then decide (pb b 32 0 12 < ne ∧ pb b 32 16 25 ≤ 2 ^ 24) && pbZero b 32 12 16 && pbZero b 32 41 64 else pbZero b 32 0 64) &&
  decide (pb b 40 0 32 % 4 = 0 ∧ pb b 40 0 32 ≥ lst) &&
  pbPtr b 48 4 false && pbPtr b 56 8 false && pbPtr b 64 4 (decide (pb b 40 32 32 ≠ 0)) && pbPtr b 72 8 false && pbPtr b 80 8 true &&
  pbPtr b 88 64 false &&
  (if g then pbPtr b 96 1 false && pbZero b 104 14 32 && decide (pb b 104 32 32 % 4 = 0 ∧ pb b 104 32 32 ≥ row) && pbPtr b 112 8 false
   else pbZero b 96 0 64 && pbZero b 104 0 64 && pbZero b 112 0 64) &&
  pbZero b 120 0 64 && decide (c.pIn % scoreSize f = 0 ∧ c.pOut % 4 = 0)

/-- Key blocks of a sequence. -/
def blockCount (b : Nat) : Nat := ceilDiv (pb b 8 0 25) (2 ^ pb b 0 8 4)

/-- Table 9.6. -/
def blockOk (b : Nat) : Bool :=
  let f := pb b 0 4 3
  let k := pb b 0 16 7
  decide (pb b 0 0 4 ≤ 8 ∧ f ≤ 4 ∧ 6 ≤ pb b 0 8 4 ∧ pb b 0 8 4 ≤ 10) && pbZero b 0 12 16 && decide (1 ≤ k ∧ k ≤ 64) && pbZero b 0 23 24 &&
  decide (pb b 0 24 7 ≤ 64) && pbZero b 0 31 32 && decide (pb b 0 32 7 ≤ 64 ∧ pb b 0 24 7 + pb b 0 32 7 ≤ k) && pbZero b 0 39 64 &&
  decide (1 ≤ pb b 8 0 25 ∧ pb b 8 0 25 ≤ 2 ^ 24) && pbZero b 8 25 64 && pbZero b 16 18 32 && pbZero b 16 51 64 &&
  decide (1 ≤ pb b 16 32 19 ∧ pb b 16 32 19 ≤ 2 ^ 18 ∧ pb b 16 0 18 + pb b 16 32 19 ≤ blockCount b) && pbZero b 24 0 64 &&
  decide (pb b 32 0 32 % scoreSize f = 0) && pbZero b 32 32 64 && pbPtr b 40 4 false && pbPtr b 48 64 false && pbZero b 56 0 64

/-- Table 9.8. -/
def compactOk (b : Nat) : Bool :=
  decide (pb b 0 0 2 < 3) && pbZero b 0 3 64 && decide (1 ≤ pb b 8 0 33 ∧ pb b 8 0 33 ≤ 2 ^ 32) && pbZero b 8 33 64 &&
  decide (pb b 24 0 33 ≤ 2 ^ 32) && pbZero b 24 33 64 && pbPtr b 32 8 false && pbPtr b 40 1 (decide (pb b 16 32 32 ≠ 0)) &&
  pbPtr b 48 64 false && pbZero b 56 0 64

/-- Table 9.9. -/
def bucketOk (b : Nat) : Bool :=
  pbZero b 0 2 64 && decide (1 ≤ pb b 8 0 25 ∧ pb b 8 0 25 ≤ 2 ^ 24) && pbZero b 8 25 64 &&
  (decide (pb b 0 0 1 = 1) || pbZero b 16 32 64) && pbPtr b 24 4 true && pbPtr b 32 1 false && pbPtr b 40 1 false && pbPtr b 48 128 true &&
  pbPtr b 56 64 false

/-- Table 9.12. -/
def combineOk (b : Nat) : Bool :=
  decide (1 ≤ pb b 0 0 13 ∧ pb b 0 0 13 ≤ 4096) && pbZero b 0 13 16 && pbZero b 0 17 64 && pbPtr b 8 4 false &&
  decide (pb b 16 0 32 % 4 = 0) && pbZero b 16 48 64 && pbPtr b 24 1 true &&
  (if pb b 0 16 1 = 1 then pbZero b 32 0 64 else pbPtr b 32 1 true) && pbZero b 48 0 64 && pbZero b 56 0 64

/-! ### Reads and writes of a Sorter -/

/-- Bytes read and written by Sorter `n`. -/
def soBytes (n rd wr : Nat) : Act Unit :=
  modify (fun d => (((d.count (soCount n 2) rd).count (soCount n 3) wr).count (soCount n 6) rd).count (soCount n 7) wr)

/-- Bytes at a pointer, read line by line. -/
def soRead (c : Cmd) (n p disp len : Nat) : Act (List Byte) := do
  let b ← readPtr (c.sorterSrc n) Ac.read p disp len
  soBytes n len 0
  pure b

/-- A range of a pointer is translated line by line, and no byte of it is read. -/
def soCheck (s : Src) (acc p disp len : Nat) (chk : Seg → Bool) : Act (List Span) :=
  (piecesOf (p % 2 ^ 44 + disp) len).mapM (fun y => translate s acc (p / 2 ^ 44 * 2 ^ 44) (y.1 * 128 + y.2.1) y.2.2 false chk)

/-- The command's parameter block, checked before anything else is read or written. -/
def readBlock (c : Cmd) (n len : Nat) (ok : Nat → Bool) : Act Nat := do
  need (decide (c.pPtr % 64 = 0)) (.status St.BAD_ARG)
  let b ← soRead c n c.pPtr 0 len
  need (ok (numLE b)) (.status St.BAD_ARG)
  pure (numLE b)

/-- An output: pointer, displacement and bytes. -/
abbrev OutPut := Nat × Nat × List Byte

/-- The range an output takes: its first byte's pointer, and bytes. -/
def OutPut.range (x : OutPut) : Nat × Nat := (x.1 + x.2.1, x.2.2.length)

/-- A pointer lies in one of some ranges. -/
def inRanges (l : List (Nat × Nat)) (p : Nat) : Bool := l.any (fun y => decide (y.1 ≤ p ∧ p < y.1 + y.2))

/-- The outputs of a DISPATCH are written in order, after those that took the ranges `before`. A byte of an output that overlaps an
earlier one may keep what that put there (R281). -/
def writeOuts (c : Cmd) (n : Nat) : List (Nat × Nat) → List OutPut → Act Unit
  | _, [] => pure ()
  | before, x :: t => do
    let rs ← keepRuns x.2.2.length (fun i => inRanges before (x.range.1 + i))
    rs.forM (fun r => writePtr (c.sorterSrc n) x.1 (x.2.1 + r.1) ((x.2.2.drop r.1).take r.2))
    soBytes n 0 x.2.2.length
    writeOuts c n (x.range :: before) t

/-- Scratch lies in a LOCAL segment (R280), and what it holds afterwards is open (R278, R294). -/
def writeScratch (c : Cmd) (n p len : Nat) : Act Unit := do
  let xs ← soCheck (c.sorterSrc n) Ac.write p 0 len (fun g => decide (g.typ = 0))
  let d ← get
  modify Die.drawn
  let _ ← xs.foldlM (fun (k : Nat) x => do
    writeSpan (c.sorterSrc n) x ((List.range x.len).map (fun i => Config.scratchByte d.ctr (k + i)))
    pure (k + x.len)) 0

/-- The optional output of a pointer field. -/
def optOut (p disp : Nat) (b : List Byte) : List OutPut := if p = 0 ∨ b = [] then [] else [(p, disp, b)]

/-- X, Y and Z of DIMS (R287). -/
def dimsBytes (count div : Nat) : List Byte := bytesLE 4 (ceilDiv count div) ++ bytesLE 4 1 ++ bytesLE 4 1

/-! ### Scores (R282 to R284) -/

/-- Scores of a row. -/
def scoresOf (f : Nat) (b : List Byte) : List FV :=
  (List.range (b.length / scoreSize f)).map (fun i => elemFV f (numLE ((b.drop (scoreSize f * i)).take (scoreSize f))))

def eligible (v : FV) : Bool := decide (v ≠ .nan ∧ v ≠ .inf true)

/-- A candidate enters a ranking: behind those whose score is not lower. -/
def rankIn (x : Nat × FV) : List (Nat × FV) → List (Nat × FV)
  | [] => [x]
  | y :: t => if ltFV y.2 x.2 then x :: y :: t else y :: rankIn x t

/-- Eligible candidates by score, highest first, ties to the lower index; candidates are given in ascending index. -/
def ranking (l : List (Nat × FV)) : List (Nat × FV) := (l.filter (fun x => eligible x.2)).foldl (fun a x => rankIn x a) []

/-- exp(−y ÷ 2^320) in units of 2^−320: the series at y ÷ 256, then eight squarings. Below 2^−280 it answers 0. -/
def expNeg (y : Nat) : Nat :=
  if y ≥ 200 * 2 ^ 320 then 0
  else
    let r := y / 256
    let series := (List.range 60).foldl (fun (a : Int × Int) k =>
      let t := -(a.2 * r / (2 ^ 320 * ((k : Int) + 1)))
      (a.1 + t, t)) (2 ^ 320, 2 ^ 320)
    (List.range 8).foldl (fun (x : Nat) _ => x * x / 2 ^ 320) series.1.toNat

/-- m − s in units of 2^−320, for finite values with s ≤ m. -/
def gapOf (m s : FV) : Nat :=
  match m, s with
  | .fin n1 m1 e1, .fin n2 m2 e2 =>
    (signedOf n1 (m1 * 2 ^ (e1 + 320).toNat) - signedOf n2 (m2 * 2 ^ (e2 + 320).toNat)).toNat
  | _, _ => 0

/-- A quotient rounded to FP32. -/
def quotFp32 (a b : Nat) : Nat :=
  let m := a * 2 ^ 200 / b
  toFp32 (.fin false (2 * m + (if a * 2 ^ 200 % b = 0 then 0 else 1)) (-201))

/-- The gate of score `v` in a normalisation set (R284), as FP32 bits. -/
def softmax (v : FV) (set : List FV) : Nat :=
  let m := set.foldl (fun a x => if ltFV a x then x else a) (.inf true)
  if m = .inf false then
    let n := (set.filter (fun x => decide (x = .inf false))).length
    if v = .inf false then quotFp32 1 n else 0
  else
    let q := quotFp32 (expNeg (gapOf m v)) ((set.map (fun x => expNeg (gapOf m x))).sum)
    q + Config.softmaxUlp (toFp32 v) (set.map toFp32) % 9 - 4

/-! ### EXPERT (R283 to R288) -/

/-- What a token asks for: its ranking, and its choices with their gates. -/
structure Choices where
  ranks : List Nat
  picks : List (Nat × Nat)
  nans  : Nat
  deriving DecidableEq, Repr

/-- A token's choices. -/
def chooseOf (norm k : Nat) (row : List FV) : Choices :=
  let all := (row.zipIdx).map (fun x => (x.2, x.1))
  let r := ranking all
  let picks := r.take k
  let set := if norm = 1 then (all.filter (fun x => eligible x.2)).map Prod.snd
    else ((picks.foldl (fun (a : List (Nat × FV)) x =>
      a.takeWhile (fun y => decide (y.1 < x.1)) ++ [x] ++ a.dropWhile (fun y => decide (y.1 < x.1))) []).map Prod.snd)
  { ranks := r.map Prod.fst, picks := picks.map (fun x => (x.1, if norm = 0 then toFp32 x.2 else softmax x.2 set)),
    nans := (row.filter (fun v => decide (v = .nan))).length }

/-- The assign phase: entries (expert, token, rank, gate), newest first. -/
structure Assign where
  ents    : List (Nat × Nat × Nat × Nat) := []
  nreg    : Tab Nat := []
  dem     : Tab Nat := []
  nres    : Nat := 0
  spilled : Nat := 0
  dropped : Nat := 0
  deriving DecidableEq, Repr

def Assign.holds (a : Assign) (x t : Nat) : Bool := a.ents.any (fun y => decide (y.1 = x ∧ y.2.1 = t))
def Assign.reg (a : Assign) (x : Nat) : Nat := Tab.get 0 a.nreg x

/-- One choice of R285. -/
def assignOne (b : Nat) (ch : Choices) (t r : Nat) (a : Assign) : Assign :=
  match ch.picks[r]? with
  | none => a
  | some (x, g) =>
    let cap := pb b 24 0 25
    let a := { a with dem := Tab.set 0 a.dem x (Tab.get 0 a.dem x + 1) }
    let add := fun (a : Assign) (y : Nat) => { a with ents := (y, t, r, g) :: a.ents, nreg := Tab.set 0 a.nreg y (a.reg y + 1) }
    if a.reg x < cap then add a x
    else if pb b 0 9 2 = 1 then
      let cand := (ch.ranks.drop (pb b 0 16 4)).filter (fun y => !(a.holds y t))
      let cand := if pb b 24 32 8 = 0 then cand else cand.take (pb b 24 32 8)
      match cand.find? (fun y => decide (a.reg y < cap)) with
      | some y => { add a y with spilled := a.spilled + 1 }
      | none => { a with dropped := a.dropped + 1 }
    else if pb b 0 9 2 = 2 then
      let y := pb b 32 0 12
      if a.nres < pb b 32 16 25 ∧ !(a.holds y t) then
        { a with ents := (y, t, r, g) :: a.ents, nres := a.nres + 1, spilled := a.spilled + 1 }
      else { a with dropped := a.dropped + 1 }
    else { a with dropped := a.dropped + 1 }

/-- The assign phase in rank order, then token order. -/
def assignAll (b : Nat) (chs : List Choices) : Assign :=
  (List.range (pb b 0 16 4)).foldl (fun a r => (chs.zipIdx).foldl (fun a x => assignOne b x.1 x.2 r a) a) {}

/-- Entries of each expert in the order of append. -/
def Assign.lists (a : Assign) (ne : Nat) : List (List (Nat × Nat × Nat)) :=
  let l := a.ents.reverse
  (List.range ne).map (fun x => (l.filter (fun y => decide (y.1 = x))).map Prod.snd)

/-- The Sorter that a row of the input belongs to: the lead, or the helper of its item (R274). -/
def Die.rowSorter (d : Die) (c : Cmd) (n rows i : Nat) : Nat :=
  let per := ceilDiv rows (max 1 c.tile)
  match d.eng.items.find? (fun x => decide (x.2.1 = c.id ∧ x.2.2.1 = i / per)) with
  | some x => x.1
  | none => n

/-- What a mode computes: lists, indices and gates; counts and DIMS; RESULT, gathers, load counters and statistics. -/
structure Computed where
  outs   : List OutPut
  late   : List OutPut := []
  result : Nat
  entries : Nat
  work   : List (Nat × Nat × Nat) := []
  sums   : List (Nat × Nat) := []
  stats  : List Nat
  dests  : List Nat := []
  deriving DecidableEq, Repr

/-- EXPERT: select, assign and the outputs. -/
def expertRun (c : Cmd) (n : Nat) : Act Computed := do
  let b := c.block
  let ne := pb b 0 32 13
  let f := pb b 0 4 3
  let t := pb b 8 0 25
  let ls := pb b 40 0 32
  let div := pb b 40 32 32
  let d ← get
  let rows ← (List.range t).mapM (fun i => soRead c (d.rowSorter c n t i) c.pIn (i * pb b 16 0 32) (ne * scoreSize f))
  let chs := rows.map (fun r => chooseOf (pb b 0 7 2) (pb b 0 16 4) (scoresOf f r))
  let a := assignAll b chs
  let ls' := a.lists ne
  let g := decide (pb b 0 11 1 = 1)
  let dests ← (if g then do
      let x ← soRead c n (pb b 112 0 48) 0 (8 * ne)
      pure ((List.range ne).map (fun i => numLE ((x.drop (8 * i)).take 8)))
    else pure [])
  writeScratch c n (pb b 80 0 48) (t * pb b 0 16 4 * 8)
  let lists := ((ls'.zipIdx).map (fun x =>
    (if x.1 = [] then [] else [(c.pOut, x.2 * ls, (x.1.map (fun y => bytesLE 4 (y.1 + y.2.1 * 2 ^ 24))).flatten)]) ++
      optOut (pb b 48 0 48) (x.2 * ls) ((x.1.map (fun y => bytesLE 4 y.2.2)).flatten))).flatten
  let counts := optOut (pb b 56 0 48) 0 ((ls'.map (fun x => bytesLE 8 x.length)).flatten)
  let dims := if div = 0 then [] else optOut (pb b 64 0 48) 0 ((ls'.map (fun x => dimsBytes x.length div)).flatten)
  let short := (chs.map (fun x => pb b 0 16 4 - x.picks.length)).sum
  pure { outs := lists, late := counts ++ dims, result := a.ents.length, entries := a.ents.length,
         work := if g then ((ls'.zipIdx).map (fun x => (x.1.zipIdx).map (fun y => (x.2, y.2, y.1.1)))).flatten else [],
         sums := if pb b 72 0 48 = 0 ∧ !g then [] else (ls'.zipIdx).map (fun x => (Tab.get 0 a.dem x.2, x.1.length)),
         stats := [a.ents.length, a.dropped, a.spilled, short, (chs.map (·.nans)).sum], dests := dests }

/-! ### BLOCK (R289 to R292) -/

/-- A row's key blocks in ascending order with their MANDATORY bits, whether it is short, and its NaN scores. -/
def blockRow (b p : Nat) (row : List FV) : List (Nat × Bool) × Bool × Nat :=
  let all := (row.zipIdx).map (fun x => (x.2, x.1))
  let mand := fun (kb : Nat) => decide (kb < pb b 0 24 7) || decide (p < kb + pb b 0 32 7 ∧ kb ≤ p)
  let m := (all.filter (fun x => mand x.1)).length
  let more := ((ranking (all.filter (fun x => !(mand x.1)))).take (pb b 0 16 7 - m)).map Prod.fst
  let got := (all.filter (fun x => mand x.1 || more.contains x.1)).map (fun x => (x.1, mand x.1))
  (got, decide (got.length < pb b 0 16 7), (row.filter (fun v => decide (v = .nan))).length)

def blockRun (c : Cmd) (n : Nat) : Act Computed := do
  let b := c.block
  let f := pb b 0 4 3
  let q := pb b 16 32 19
  let k := pb b 0 16 7
  let d ← get
  let rows ← (List.range q).mapM (fun i => do
    let p := pb b 16 0 18 + i
    let m := if pb b 0 7 1 = 1 then p + 1 else blockCount b
    let x ← soRead c (d.rowSorter c n q i) c.pIn (i * pb b 32 0 32) (m * scoreSize f)
    pure (blockRow b p (scoresOf f x)))
  let lists := (rows.zipIdx).map (fun x => (c.pOut, x.2 * k * 4,
    ((x.1.1.map (fun y => bytesLE 4 (y.1 + 2 ^ 18 * Bool.num y.2))) ++ List.replicate (k - x.1.1.length) (bytesLE 4 0xFFFFFFFF)).flatten))
  let sel := (rows.map (fun x => x.1.length)).sum
  pure { outs := lists, late := optOut (pb b 40 0 48) 0 ((rows.map (fun x => bytesLE 4 x.1.length)).flatten), result := sel, entries := sel,
         stats := [sel, (rows.map (fun x => (x.1.filter Prod.snd).length)).sum, (rows.filter (fun x => x.2.1)).length,
                   (rows.map (fun x => x.2.2)).sum] }

/-! ### COMPACT and BUCKET (R293, R294) -/

def compactRun (c : Cmd) (n : Nat) : Act Computed := do
  let b := c.block
  let el := pb b 0 0 2
  let cnt := pb b 8 0 33
  let x ← soRead c n c.pIn 0 (if el = 0 then ceilDiv cnt 8 else if el = 1 then cnt else 4 * cnt)
  let v := numLE x
  let isSet := fun (i : Nat) => decide ((if el = 0 then bitsOf v i 1 else if el = 1 then bitsOf v (8 * i) 8 else bitsOf v (32 * i) 32) ≠ 0)
  let sel := (List.range cnt).filter (fun i => isSet i != decide (pb b 0 2 1 = 1))
  let wr := sel.take (pb b 24 0 33)
  let div := pb b 16 32 32
  pure { outs := if wr = [] then [] else [(c.pOut, 0, (wr.map (fun i => bytesLE 4 (pb b 16 0 32 + i))).flatten)],
         late := optOut (pb b 32 0 48) 0 (bytesLE 8 wr.length) ++ (if div = 0 then [] else optOut (pb b 40 0 48) 0 (dimsBytes wr.length div)),
         result := sel.length, entries := wr.length,
         stats := [sel.length, wr.length, Bool.num (decide (sel.length > pb b 24 0 33))] }

/-- The smallest power of two that is at least `n`; `fuel` bounds it. -/
def powAtLeast (n : Nat) : Nat → Nat → Nat
  | 0, p => p
  | fuel + 1, p => if p ≥ n then p else powAtLeast n fuel (2 * p)

def bucketRun (c : Cmd) (n : Nat) : Act Computed := do
  let b := c.block
  let w := if pb b 0 0 1 = 1 then 8 else 4
  let cnt := pb b 8 0 25
  let x ← soRead c n c.pIn 0 (w * cnt)
  let ids := (List.range cnt).map (fun i => numLE ((x.drop (w * i)).take w))
  let skip := fun (i : Nat) => decide (pb b 0 1 1 = 1 ∧ i = pb b 16 0 64)
  let uniq := (ids.filter (fun i => !(skip i))).eraseDups
  let occ := uniq.map (fun u => (ids.filter (fun i => decide (i = u))).length)
  let ign := (ids.filter skip).length
  writeScratch c n (pb b 48 0 48) (16 * powAtLeast (2 * cnt) 30 1)
  pure { outs := (if uniq = [] then [] else [(c.pOut, 0, (uniq.map (bytesLE w)).flatten)]) ++
           [(pb b 24 0 48, 0, (ids.map (fun i => bytesLE 4 (if skip i then 0xFFFFFFFF else uniq.idxOf i))).flatten)],
         late := optOut (pb b 32 0 48) 0 (bytesLE 8 uniq.length) ++ optOut (pb b 40 0 48) 0 ((occ.map (bytesLE 4)).flatten),
         result := uniq.length, entries := uniq.length, stats := [uniq.length, ign, occ.foldl max 0] }

/-! ### A DISPATCH from start to completion (R295) -/

/-- What a mode of DISPATCH is: the size and checks of its block, its computation, where STATS stands, and the rows and
width of a spread select phase. -/
structure Mode where
  code  : Nat
  size  : Nat
  ok    : Cmd → Nat → Bool
  run   : Cmd → Nat → Act Computed
  stats : Nat
  spread : Bool := false
  rows  : Nat → Nat := fun _ => 0

/-- The helpers of a spread select phase (R274). -/
def Die.helpers (e : Env) (d : Die) (n want : Nat) : List Nat :=
  (((List.range (e.regions - 1)).map (fun i => (n + 1 + i) % e.regions)).filter (fun m => d.bit F.SO_CFG.HELP_ENABLE m)).take want

/-- The block has been read: items go to the helpers. `tile` keeps the spread. -/
def Die.spreadOut (e : Env) (d : Die) (n : Nat) (c : Cmd) (m : Mode) (b : Nat) : Die :=
  let homed := match d.sliceOf c.ctx with | some s => d.bit F.SM_SLICE.HOMING s | none => false
  let want := if m.spread && !homed then max 1 (pb b 0 0 4) else 1
  let hs := d.helpers e n (want - 1)
  let d := hs.foldl (fun d h => d.wake e h) d
  { d.setCmd { c with aux := 1, block := b, tile := hs.length + 1 } with
    eng.items := d.eng.items ++ (hs.zipIdx).map (fun x => (x.1, c.id, x.2 + 1, false)) }

/-- The ranges of rows that a DISPATCH gathers for the experts but `x`, where `c.stats` holds the destination table behind eight words. -/
def Cmd.gatherRanges (c : Cmd) (x : Option Nat) : List (Nat × Nat) :=
  (((c.stats.drop 8).zipIdx).filter (fun y => decide (x ≠ some y.2))).map (fun y =>
    (y.1, ((c.sums[y.2]?).getD (0, 0)).2 * (4 * (pb c.block 104 0 14 + 1))))

/-- Load counters and statistics (R288, R295): every range is translated before the first word changes. -/
def lastWrites (c : Cmd) (n : Nat) (m : Mode) : Act Unit := do
  let s := c.sorterSrc n
  let load := if m.code = 0 then pb c.block 72 0 48 else 0
  let st := pb c.block m.stats 0 48
  let xs ← (if load = 0 then pure [] else soCheck s Ac.atomic load 0 (16 * c.sums.length) anySeg)
  let ys ← (if st = 0 then pure [] else soCheck s Ac.write st 0 64 anySeg)
  if load ≠ 0 then
    ((c.sums.map (fun x => [x.1, x.2])).flatten.zipIdx).forM (fun v => do
      match xs.find? (fun x => decide (x.off ≤ load % 2 ^ 44 + 8 * v.2 ∧ load % 2 ^ 44 + 8 * v.2 < x.off + x.len)) with
      | some x =>
        let y := x.sub (load % 2 ^ 44 + 8 * v.2 - x.off) 8
        countAccess s Ac.atomic y
        if y.typ = 0 then
          y.pieces.forM (fun p => do
            let _ ← atomicAt (p.1 / 128) (p.1 % 128) 8 0 v.1 0 (s.ask y.attr))
        else
          let d ← get
          let _ ← winFetch { s.winReq d y 5 y.off with payload := bytesLE 8 v.1 }
        soBytes n 8 8
      | none => pure ())
  if st ≠ 0 then
    let b := ((List.range 8).map (fun i => bytesLE 8 ((c.stats[i]?).getD 0))).flatten
    let _ ← ys.foldlM (fun (k : Nat) y => do
      writeOver s y ((b.drop k).take y.len) (fun i => inRanges (c.outs ++ c.gatherRanges none) (st + k + i))
      pure (k + y.len)) 0
    soBytes n 0 64

/-- One phase of a DISPATCH on its lead: aux 0 before its block is read, 1 while items run, 2 before its lists, 5 before its counts, 6 before
its gathers, 3 while rows stand at a DME, 4 before its last writes. A phase begins once every write of those before it has been
accepted (R295). -/
def Die.dispatchPhase (e : Env) (d : Die) (n : Nat) (c : Cmd) (m : Mode) : Die :=
  if c.aux = 0 then d.soAct e c (readBlock c n m.size (m.ok c)) (fun b d => d.spreadOut e n c m b)
  else if c.aux = 1 then
    if d.eng.items.any (fun x => decide (x.2.1 = c.id) && !x.2.2.2) then d else d.setCmd { c with aux := 2 }
  else if c.aux = 2 then
    d.soAct e c (do
      let r ← m.run c n
      writeOuts c n [] r.outs
      modify (fun d => d.count (soCount n 4) r.entries)
      pure r) (fun r d => d.setCmd { c with
        aux := 5, result := r.result, work := r.work, sums := r.sums, outs := r.outs.map OutPut.range, late := r.late,
        stats := r.stats ++ List.replicate (8 - r.stats.length) 0 ++ r.dests })
  else if d.winBusy (.cmd c.id) then d
  else if c.aux = 5 then
    d.soAct e c (writeOuts c n c.outs c.late) (fun _ d =>
      d.setCmd { c with aux := 6, outs := c.outs ++ c.late.map OutPut.range, late := [] })
  else if c.aux = 6 then
    let c := { c with aux := if c.work = [] then 4 else 3 }
    if c.work = [] then d.setCmd c else (d.setCmd c).placeDme e c
  else if c.aux = 4 then d.soAct e c (lastWrites c n m) (fun _ d => d.endLead n c c.result)
  else d

/-- The phases that follow one another; `fuel` bounds them. -/
def Die.dispatchRun (e : Env) (m : Mode) : Nat → Die → Nat → Nat → Die
  | 0, d, _, _ => d
  | fuel + 1, d, n, id =>
    match d.cmd id with
    | some c =>
      if d.serves c ∧ d.leadOf id = some n then
        match d.soParity e n c with
        | some d => d
        | none =>
          let d' := d.dispatchPhase e n c m
          match d'.cmd id with
          | some c' => if c'.aux = c.aux ∨ c'.st = .done then d' else Die.dispatchRun e m fuel d' n id
          | none => d'
      else d
    | none => d

/-- A lead command goes on, where its Sorter runs it or takes it up now; one not yet placed is placed. -/
def Die.leadStep (e : Env) (d : Die) (c : Cmd) (run : Die → Nat → Die) : Die :=
  match d.leadOf c.id with
  | none => if c.st = .done ∨ d.eng.away.any (fun j => decide (j.cmd = c.id)) then d else d.placeLead e c
  | some n =>
    if !(d.running n) then d.wake e n
    else match Tab.get none d.eng.running n with
      | some id => if id = c.id then run d n else d
      | none =>
        if (d.leadNext n).map (·.id) = some c.id then run (d.takeLead n c) n else d

/-- A row that runs a DISPATCH of one mode. -/
def Die.dispatchRow (e : Env) (d : Die) (id : Nat) (m : Mode) : Die :=
  d.start e id Op.DISPATCH (fun c => decide (c.mode = m.code)) (fun c d => d.leadStep e c (fun d n => Die.dispatchRun e m 12 d n c.id))

def modeExpert : Mode :=
  { code := 0, size := 128, ok := expertOk, run := expertRun, stats := 88, spread := true, rows := fun b => pb b 8 0 25 }
def modeBlock : Mode :=
  { code := 1, size := 64, ok := fun _ b => blockOk b, run := blockRun, stats := 48, spread := true, rows := fun b => pb b 16 32 19 }
def modeCompact : Mode := { code := 2, size := 64, ok := fun _ b => compactOk b, run := compactRun, stats := 48 }
def modeBucket : Mode := { code := 3, size := 64, ok := fun _ b => bucketOk b, run := bucketRun, stats := 56 }

def execDispatchExpert (id : Nat) (s : State) : Host.Outcome State Fault Refusal := s.go (s.d.dispatchRow s.env id modeExpert)
def execDispatchBlock (id : Nat) (s : State) : Host.Outcome State Fault Refusal := s.go (s.d.dispatchRow s.env id modeBlock)
def execDispatchCompact (id : Nat) (s : State) : Host.Outcome State Fault Refusal := s.go (s.d.dispatchRow s.env id modeCompact)
def execDispatchBucket (id : Nat) (s : State) : Host.Outcome State Fault Refusal := s.go (s.d.dispatchRow s.env id modeBucket)

/-! ### COMBINE (R298 to R300) -/

/-- The checks of a COMBINE before any row is issued: each expert's count and the pointer to its rows. -/
def combineHead (c : Cmd) (n : Nat) : Act (Nat × List (Nat × Nat)) := do
  let b ← readBlock c n 64 combineOk
  let ne := pb b 0 0 13
  let r := pb b 16 32 16 + 1
  let sf := c.srcFmt
  let chk := redSegOk 0 c.dstFmt c.pOut 0 (some r)
  need (decide (c.dstFmt ≠ 5) && (!(fmtMx sf) || decide (r % mxEPL sf = 0)) && decide ((elemRange sf 0 r).2 ≤ 2 ^ 18) &&
    decide (pb b 40 0 32 % elemAlign sf = 0)) (.status St.BAD_ARG)
  let g ← destSeg (c.sorterSrc n) c.pOut chk
  let f := (g.map (fun g => effFmt g c.dstFmt)).getD c.dstFmt
  need (decide (pb b 40 32 32 % elemAlign f = 0)) (.status St.BAD_ARG)
  let cs ← soRead c n (pb b 24 0 48) 0 (8 * ne)
  let ps ← soRead c n c.pIn 0 (8 * ne)
  let l := (List.range ne).map (fun i => (numLE ((cs.drop (8 * i)).take 8), numLE ((ps.drop (8 * i)).take 8)))
  need (l.all (fun x => decide (x.1 ≤ pb b 16 0 32 / 4 ∧ x.2 < 2 ^ 48 ∧ x.2 % elemAlign sf = 0))) (.status St.BAD_ARG)
  pure (b, l)

/-- The next entry at or after (expert, position). -/
def nextEntry (l : List (Nat × Nat)) (x j : Nat) : Option (Nat × Nat) :=
  ((List.range l.length).find? (fun y => decide (y ≥ x) && decide ((if y = x then j else 0) < ((l[y]?).getD (0, 0)).1))).map
    (fun y => (y, if y = x then j else 0))

/-- The list entry and gate of one row: (token, gate). -/
def combineEntry (c : Cmd) (n x j : Nat) : Act (Nat × Nat) := do
  let o := x * pb c.block 16 0 32 + 4 * j
  let t ← soRead c n (pb c.block 8 0 48) o 4
  let g ← (if pb c.block 0 16 1 = 1 then pure (bytesLE 4 0x3F800000) else soRead c n (pb c.block 32 0 48) o 4)
  pure (numLE t % 2 ^ 24, numLE g)

/-- A COMBINE on its lead: aux 0 before its checks, 2 between rows, 3 while a row stands at a DME. -/
def Die.combineRun (e : Env) (d : Die) (n id : Nat) : Die :=
  match d.cmd id with
  | none => d
  | some c =>
    if !(d.serves c) ∨ d.leadOf id ≠ some n then d
    else match d.soParity e n c with
      | some d => d
      | none =>
        let rows := fun (d : Die) (c : Cmd) =>
          match nextEntry c.sums c.tile c.acc with
          | none => d.endLead n c c.result
          | some (x, j) =>
            d.soAct e c (combineEntry c n x j) (fun y d =>
              let c := { c with tile := x, acc := j, work := [(x, j, y.1 + 2 ^ 24 * y.2)], aux := 3 }
              (d.setCmd c).placeDme e c)
        if c.aux = 0 then
          d.soAct e c (combineHead c n) (fun x d =>
            let c := { c with aux := 2, block := x.1, sums := x.2, result := (x.2.map Prod.fst).sum }
            rows (d.setCmd c) c)
        else if c.aux = 2 then rows d c
        else d

def execCombine (id : Nat) (s : State) : Host.Outcome State Fault Refusal :=
  let e := s.env
  s.go (s.d.start e id Op.COMBINE (fun _ => true) (fun c d => d.leadStep e c (fun d n => d.combineRun e n c.id)))

/-! ### Tiles of a DME (R175) -/

/-- A row that a DISPATCH gathers (R296), into a LOCAL or a WINDOW segment. -/
def gatherTile (n : Nat) (c : Cmd) : Act (Cmd × Bool) := do
  match c.work with
  | [] => pure (c, true)
  | (x, j, t) :: rest =>
    let rs := 4 * (pb c.block 104 0 14 + 1)
    let ds := c.stats.drop 8
    let dst := (ds[x]?).getD 0
    need (decide (dst < 2 ^ 48)) (.status St.BAD_ARG)
    let s := c.dmeSrc n
    let src ← translate s Ac.read (pb c.block 96 0 48) (t * pb c.block 104 32 32) rs true anySeg
    let y ← translate s Ac.write dst (j * rs) rs true (fun g => decide (g.typ ≠ 1))
    keyCheck [src, y]
    let b ← readSpan s src Ac.read
    writeOver s y b (fun i => inRanges (c.outs ++ c.gatherRanges (some x)) (dst + j * rs + i))
    modify (fun d => (d.dmeCount n rs rs).count (2368 + 8 * n + 3) 1)
    pure ({ c with work := rest, aux := if rest = [] then 4 else 3 }, true)

/-- A weighted row of a COMBINE (R299). -/
def combineTile (n : Nat) (c : Cmd) : Act (Cmd × Bool) := do
  match c.work with
  | [] => pure (c, true)
  | (x, j, tg) :: _ =>
    let s := c.dmeSrc n
    let r := pb c.block 16 32 16 + 1
    let chk := redSegOk 0 c.dstFmt c.pOut 0 (some r)
    let g ← destSeg s c.pOut chk
    let f := (g.map (fun g => effFmt g c.dstFmt)).getD c.dstFmt
    let sr := elemRange c.srcFmt 0 r
    let dr := elemRange f 0 r
    let a ← translate s Ac.read (((c.sums[x]?).getD (0, 0)).2) (j * pb c.block 40 0 32) sr.2 true anySeg
    let y ← translate s Ac.reduce c.pOut (tg % 2 ^ 24 * pb c.block 40 32 32) dr.2 true chk
    keyCheck [a, y]
    let b ← readSpan s a Ac.read
    let gate := fp32.decode (tg / 2 ^ 24)
    let v := (readElems c.srcFmt 0 r b).map (fun z => (mulFp32 (asFp32 z.1) gate, 0))
    deliver s y 0 c.dstFmt f c.round 0 v (fp32Wire v false)
    modify (fun d => d.dmeCount n sr.2 dr.2)
    pure ({ c with work := [], acc := j + 1, aux := 2 }, true)

/-- The next tile of a command placed on DME `n`. -/
def tileOf (n : Nat) (c : Cmd) : Act (Cmd × Bool) :=
  if c.op = Op.COPY then copyTile n c
  else if c.op = Op.FILL then fillTile n c
  else if c.op = Op.GATHER then rowTile n c true
  else if c.op = Op.SCATTER then rowTile n c false
  else if c.op = Op.REDUCE then reduceTile n c
  else if c.op = Op.REDUCE_SCATTER then scatterTile n c
  else if c.op = Op.DISPATCH then gatherTile n c
  else combineTile n c

/-- A tile has been issued. The command ends with its last tile; a Sorter's command goes on at its lead, and the rows it
still has are placed again. -/
def Die.tileDone (e : Env) (d : Die) (n : Nat) (c : Cmd) (done : Bool) : Die :=
  let d := (d.served n c.ctx).setCmd c
  let sorter := decide (c.op = Op.DISPATCH ∨ c.op = Op.COMBINE)
  if !done then
    Die.enginesPump { d with eng.jobs := d.eng.jobs.map (fun j => if j.cmd = c.id then { j with keyWait := false } else j) }
  else
    let d : Die := { d with eng.jobs := d.eng.jobs.filter (fun j => decide (j.cmd ≠ c.id)) }
    if !sorter then ((d.finish c.id St.OK c.result).ctxPump c.ctx).enginesPump
    else if c.work ≠ [] then d.placeDme e c
    else d.enginesPump

/-- The first command, in the order of service, that can issue a tile issues it. -/
def Die.tryTiles (e : Env) (n : Nat) : List Cmd → Die → Die
  | [], d => d
  | c :: t, d =>
    match attempt e d (.cmd c.id) (tileOf n c) with
    | .ok x d => d.tileDone e n x.1 x.2
    | .wait d => Die.tryTiles e n t d
    | .stop s x d => d.cmdFail e c s x
    | .fault r d =>
      let d := if d.getF F.SF_CTX_CFG.FAULT_POLICY c.ctx = 1 then d.count (2368 + 8 * n + 6) 1 else d
      (d.faulted e r (some c.id) none).enginesPump

def execDmeTile (n : BitVec 6) (s : State) : Host.Outcome State Fault Refusal :=
  let e := s.env
  let d := s.d
  let n := n.toNat
  s.go (
    if n ≥ e.clusters then d
    else if !(d.running (n / 8)) then (if (d.dmeCmds n).isEmpty then d else d.wake e (n / 8))
    else Die.tryTiles e n (d.serveOrder n (d.dmeCmds n)) d)

/-! ### Select items and keep-alives -/

/-- The accesses of an item: the scores of its range. -/
def itemAct (c : Cmd) (n i : Nat) : Act Unit := do
  let b := c.block
  let expert := decide (c.mode = 0)
  let rows := if expert then pb b 8 0 25 else pb b 16 32 19
  let per := ceilDiv rows (max 1 c.tile)
  let sz := scoreSize (pb b 0 4 3)
  ((List.range per).map (fun k => i * per + k)).forM (fun r => do
    if r < rows then
      let len := if expert then pb b 0 32 13 * sz else (if pb b 0 7 1 = 1 then pb b 16 0 18 + r + 1 else blockCount b) * sz
      let stride := if expert then pb b 16 0 32 else pb b 32 0 32
      let _ ← soCheck (c.sorterSrc n) Ac.read c.pIn (r * stride) len anySeg)

def execSelectItem (n : BitVec 3) (s : State) : Host.Outcome State Fault Refusal :=
  let e := s.env
  let d := s.d
  let n := n.toNat
  s.go (
    match d.itemNext n with
    | none => d
    | some (i, c) =>
      if !(d.takesItems n) then d
      else if !(d.running n) then d.wake e n
      else match d.soParity e n c with
        | some d => d
        | none => d.soAct e c (itemAct c n i) (fun _ d =>
            Die.enginesPump { (d.count (soCount n 1) 1).served (64 + n) c.ctx with
              eng.items := d.eng.items.map (fun x => if x.1 = n ∧ x.2.1 = c.id ∧ x.2.2.1 = i then (x.1, x.2.1, x.2.2.1, true) else x) }))

/-- Sorter `n` holds a queued or running command or item. -/
def Die.sorterBusy (d : Die) (n : Nat) : Bool :=
  d.eng.leads.any (fun j => decide (j.dme = n)) || d.eng.items.any (fun x => decide (x.1 = n) && !x.2.2.2)

def execKeepAlive (n : BitVec 3) (s : State) : Host.Outcome State Fault Refusal :=
  let n := n.toNat
  s.go (
    if s.d.sorterBusy n then
      let d := s.d.wake s.env n
      { d with eng.keepAt := Tab.set 0 d.eng.keepAt n s.env.now }
    else s.d)

end Sys2Proof.Machine
end

