-- ==== Sys2Proof/Machine/Stu.lean ====
section
/-! DEFINITION. The Segment Translation Unit (chapter 5): segment tables, RESUME and FAIL, fault batches and their
consumer words, access counters, and INVALIDATE. -/

namespace Sys2Proof.Machine

def execSegtabWrite (who : Who) (c : BitVec 12) (v : Word) (s : State) : Host.Outcome State Fault Refusal :=
  let c := c.toNat
  s.go (s.d.barWrite s.env who .STU_CTX_SEGTAB c (fun d =>
    if d.ctxSettable c then d.putWord s.env .STU_CTX_SEGTAB c 0 v else d.reject F.STU_STATUS.CFG_REJECT 0))

/-! ### Held accesses (R168, R301, R302) -/

/-- A held DISPATCH returns to the head of its lead's queue (R301). -/
def Die.restartHeld (d : Die) (h : Held) : Die :=
  let mine := fun (j : DmeJob) => decide (h.cmd = some j.cmd)
  match d.eng.away.find? mine with
  | some j => Die.restarts { d with eng.leads := j :: d.eng.leads, eng.away := d.eng.away.filter (fun x => !(mine x)) } j.dme
  | none => d

/-- The context leaves FAULTED, and every held access of it is translated again. -/
def Die.resume (e : Env) (d : Die) (c : Nat) : Die :=
  let held := d.stu.held.filter (fun h => decide (h.ctx = c))
  let d := d.unhold c
  let d : Die := { d with stu.faultAt := Tab.set 0 d.stu.faultAt c 0 }
  let d := (held.foldl Die.restartHeld (d.lagOn c)).enginesPump
  ((d.setCtxState c (if d.holdsEngine c then 2 else 1)).recallDue e).portsPump e

def execStuResume (who : Who) (c : BitVec 12) (s : State) : Host.Outcome State Fault Refusal :=
  let c := c.toNat
  s.go (s.d.barWrite s.env who .STU_CTX_CTL c (fun d =>
    if d.ctxState c = 4 ∧ !(d.tearing c) then d.resume s.env c else d.reject F.STU_STATUS.CFG_REJECT 0))

/-- The command whose access is held, the oldest where there are several (R145 step 5). -/
def Die.heldCmd (d : Die) (c : Nat) : Option Nat :=
  let ids := (d.stu.held.filter (fun h => decide (h.ctx = c))).filterMap (fun h => h.cmd)
  (((d.ctxCmds c).filter (fun x => ids.contains x.id)).foldl (fun (b : Option Cmd) x =>
    match b with
    | none => some x
    | some y => if x.start < y.start ∨ (x.start = y.start ∧ x.ring < y.ring) then some x else b) none).map (·.id)

/-- A FAULTED context is torn down with TRANSLATION. -/
def Die.failHeld (e : Env) (d : Die) (c : Nat) : Die := d.teardown e c St.TRANSLATION (d.heldCmd c) none false

def execStuFail (who : Who) (c : BitVec 12) (s : State) : Host.Outcome State Fault Refusal :=
  let c := c.toNat
  s.go (s.d.barWrite s.env who .STU_CTX_CTL c (fun d =>
    if d.ctxState c = 4 ∧ !(d.tearing c) then d.failHeld s.env c else d.reject F.STU_STATUS.CFG_REJECT 0))

def execHoldTimeout (c : BitVec 12) (s : State) : Host.Outcome State Fault Refusal :=
  let d := s.d
  let c := c.toNat
  let edges := (d.getF F.ST_TICK.TICK_COUNT 0 + 2 ^ 48 - Tab.get 0 d.stu.faultAt c) % 2 ^ 48
  s.go (if d.ctxState c = 4 ∧ edges ≥ max 1 (d.getF F.STU_CFG.HOLD_TICKS 0) then d.failHeld s.env c else d)

/-! ### Fault rings (R170, R171, R178) -/

def execFaultBatchClose (sl : BitVec 9) (s : State) : Host.Outcome State Fault Refusal :=
  let sl := sl.toNat
  let x := s.d.fring sl
  s.go (if x.batch ≠ [] ∧ s.env.now ≥ x.opened + 16000 then ((s.d.closeBatch s.env sl).fringPump s.env sl).portsPump s.env else s.d)

/-- The consumer word of slice `sl` has been read: records that waited go on (R171, R172). -/
def Die.consRead (e : Env) (d : Die) (sl word : Nat) : Die :=
  let x := d.fring sl
  ((d.setFring sl { x with cons := word % 2 ^ 32 }).fringPump e sl).portsPump e

def execFringConsRead (sl : BitVec 9) (s : State) : Host.Outcome State Fault Refusal :=
  let d := s.d
  let sl := sl.toNat
  let full := d.bit F.STU_FRING_CTL.ENABLE sl && !(d.fringRoom sl)
  s.go (if full ∧ d.sliceState sl ≠ 0 then d.hostAsk s.env (.cons sl) (d.sliceId sl) (8 * d.getF F.STU_FRING_CONS.ADDR sl) 8 else d)

/-- The fault-ring register that a write names: 0 STU_FRING_BASE, 1 STU_FRING_CTL, else STU_FRING_CONS. -/
def fringReg (which : Nat) : Reg := if which = 0 then .STU_FRING_BASE else if which = 1 then .STU_FRING_CTL else .STU_FRING_CONS

def execFringRegWrite (who : Who) (which : BitVec 2) (sl : BitVec 9) (v : Word) (s : State) : Host.Outcome State Fault Refusal :=
  let e := s.env
  let sl := sl.toNat
  let r := fringReg which.toNat
  s.go (s.d.barWrite e who r sl (fun d =>
    let on := d.bit F.STU_FRING_CTL.ENABLE sl
    let ctl := decide (which.toNat = 1)
    let sets := ctl && decide (fieldOf v 5 1 = 1)
    if on then
      if ctl ∧ !sets then (d.fringStop sl).putWord e r sl 0 v else d.reject F.STU_STATUS.CFG_REJECT 0
    else if sets then
      if 6 ≤ fieldOf v 0 5 ∧ fieldOf v 0 5 ≤ 16 then
        let d := (d.putWord e r sl 0 v).setF F.STU_FRING_STATUS.PRODUCED sl 0
        ((d.setFring sl { d.fring sl with cons := 0 }).fringPump e sl).portsPump e
      else d.reject F.STU_STATUS.CFG_REJECT 0
    else d.putWord e r sl 0 v))

/-! ### Access counters (R177) -/

def execAcntClr (who : Who) (v : Word) (s : State) : Host.Outcome State Fault Refusal :=
  let p := fieldOf v 0 15
  s.go (s.d.barWrite s.env who .STU_ACNT_CLR 0 (fun d => if p < 18432 then d.clearElem .STU_ACNT p else d))

/-- Every halving that is due is made (R177). The edges that count are those at which TICK_COUNT is a multiple of DECAY_TICKS; log
entry 103. -/
def execAcntDecay (s : State) : Host.Outcome State Fault Refusal :=
  let d := s.d
  s.go (if d.stu.decayDue = 0 then d else { (List.range (min 16 d.stu.decayDue)).foldl (fun d _ => d.decay) d with stu.decayDue := 0 })

/-! ### INVALIDATE (R163 to R165) -/

/-- The contexts an INVALIDATE names, none where it names nothing that exists. -/
def Die.invCtxs (d : Die) (c : Cmd) : Option (List Nat) :=
  if c.arg0 = 3 then
    if d.sliceState (c.q 8) = 0 then none else some ((List.range 4096).filter (fun k => decide (d.ctxSlice k = c.q 8)))
  else if d.ctxValid (c.q 8 % 4096) then some [c.q 8 % 4096] else none

/-- A translation that the scope of Table 5.5 drops. -/
def invDrops (c : Cmd) (x : Xl) : Bool :=
  let seg := bitsOf (c.q 8) 12 4
  if c.arg0 = 1 then decide (x.seg = seg)
  else if c.arg0 = 2 then
    match x.block with
    | some b => decide (x.seg = seg ∧ b.1 < c.q 32 + c.q 40 ∧ c.q 32 < b.1 + b.2)
    | none => false
  else true

/-- Requests that carry a translation of the named contexts now. -/
def Die.older (d : Die) (start cmd : Nat) (cs : List Nat) : Inval :=
  let ours := fun (c : Option Nat) => match c with | some c => cs.contains c | none => false
  { cmd := cmd, start := start, ctxs := cs,
    waits := (d.coh.reqs.filter (fun q => ours q.ctx && !q.heldP && q.tracker.isNone)).map (·.rid) ++
      (d.stu.passed.filter (fun x => ours (some x.ctx))).map (·.n) ++ (d.we.queue.filter (fun q => ours (some q.ctx))).map (·.n),
    trks := (d.we.trks.filter (fun t => ours (some t.req.ctx))).map (fun t => (t.n, t.gen)),
    tags := (d.bt.reads.filter (fun r => ours (d.useCtx r.2.2.2.2))).map (fun r => r.1) }

def execInvalidate (id : Nat) (s : State) : Host.Outcome State Fault Refusal :=
  let e := s.env
  s.go (s.d.start e id Op.INVALIDATE (fun c => decide (c.aux = 0)) (fun c d =>
    match d.invCtxs c with
    | none => d.cmdFail e c St.BAD_ARG false
    | some cs =>
      let x := d.older e.now c.id cs
      let d := cs.foldl (fun d k => d.newEpoch k (invDrops c)) (d.setCmd { c with aux := 1 })
      { d.setF F.STU_STATUS.INV_ACTIVE 0 1 with stu.inval := some x }))

/-- Every request that carried an older epoch has retired: a home has accepted it, or it is gone. -/
def Die.retired (d : Die) (x : Inval) : Bool :=
  !(d.coh.reqs.any (fun q => q.tracker.isNone && x.waits.contains q.rid)) && !(d.stu.passed.any (fun y => x.waits.contains y.n)) &&
    !(d.we.queue.any (fun q => x.waits.contains q.n)) && !(d.we.trks.any (fun t => x.trks.contains (t.n, t.gen))) &&
    !(d.bt.reads.any (fun r => x.tags.contains r.1))

/-- INV_MAX_US takes the time of step 3 rounded up to whole µs; log entry 100. -/
def execInvalidateDrained (id : Nat) (s : State) : Host.Outcome State Fault Refusal :=
  let e := s.env
  let d := s.d
  s.go (
    match d.stu.inval, d.cmd id with
    | some x, some c =>
      if x.cmd ≠ id ∨ !(d.retired x) then d
      else if d.fire0 Cs.INV_TIMEOUT 0 then
        let w := d.ay.waiting.length
        Die.markInj { d.fired.report e { cause := Cs.INV_TIMEOUT, det0 := x.ctxs.headD 0 } with stu.inval := none } w
      else
        let d := ({ d with stu.inval := none }.setF F.STU_STATUS.INV_ACTIVE 0 0).incWrap F.STU_STATUS.INV_COUNT 0 1
        let us := min 65535 (ceilDiv (e.now - x.start) 1000)
        let d := d.setF F.STU_STATUS.INV_MAX_US 0 (max us (d.getF F.STU_STATUS.INV_MAX_US 0))
        (d.count 3891 1).opDone e c 0
    | _, _ => d)

def execInvTimeout (id : Nat) (s : State) : Host.Outcome State Fault Refusal :=
  let e := s.env
  let d := s.d
  s.go (
    match d.stu.inval with
    | some x =>
      if x.cmd = id ∧ e.now ≥ x.start + 1000000 ∧ !(d.retired x) then
        { d.report e { cause := Cs.INV_TIMEOUT, det0 := x.ctxs.headD 0 } with stu.inval := none }
      else d
    | none => d)

end Sys2Proof.Machine
end

