-- ==== Sys2Proof/Machine/Bar.lean ====
section
/-! DEFINITION. BAR0 as a whole (chapter 18): which access reaches which register, what a read of a register returns that shows
other state of the machine, and where each write goes. -/

namespace Sys2Proof.Machine

/-! ### Reads -/

/-- Access of the debugger: 0 CLOSED, 1 AUTHORISED, 2 OPEN (Table 11.7, R362). It is closed until Touchstone has read the life-cycle
word (R359). -/
def Die.debugState (d : Die) : Nat := if d.phase = 0 then 0 else if d.lcState ≤ 1 then 2 else if d.lcState = 2 ∧ d.se.auth then 1 else 0

/-- A word with a field set. -/
def withF (x : Word) (f : Fld) (v : Nat) : Word := putField x f.lo f.width v

/-- SM_PAGES: the pages in each state. -/
def Die.pagesWord (e : Env) (d : Die) : Word :=
  let l := (d.listed .SM_POT).filter (d.present e)
  let n := fun (st : Nat) => (l.filter (fun p => decide (d.pageState p = st))).length
  let all := ((List.range e.regions).map (d.stackPages e)).sum
  let x := withF (withF 0 F.SM_PAGES.FREE (n 1)) F.SM_PAGES.UNSCRUBBED (all - (l.length - n 0))
  withF (withF x F.SM_PAGES.OWNED (n 2)) F.SM_PAGES.WITHDRAWN (n 3)

/-- LC_SLICE_STATUS of LC slice `n`. -/
def Die.lcStatusWord (e : Env) (d : Die) (n : Nat) : Word :=
  let l := d.lcOf e n
  let x := withF 0 F.LC_SLICE_STATUS.VALID_LINES (l.filter (fun x => decide (x.2.v ≠ 0))).length
  let x := withF x F.LC_SLICE_STATUS.DIRTY_LINES (l.filter (fun x => decide (x.2.d ≠ 0))).length
  let x := withF x F.LC_SLICE_STATUS.DIR_ENTRIES (d.coh.dir.filter (fun y => y.2.isSome && decide (d.home e y.1 = n))).length
  withF x F.LC_SLICE_STATUS.SIDE_LINES (d.sideBuf n).length

/-- SO_STATUS of Sorter `n`. -/
def Die.soStatusWord (d : Die) (n : Nat) : Word :=
  let lead := (Tab.get none d.eng.running n).bind d.cmd
  let mine := d.eng.items.filter (fun x => decide (x.1 = n) && !x.2.2.2)
  let waits := match lead with
    | some c => d.eng.items.any (fun x => decide (x.2.1 = c.id) && !x.2.2.2)
    | none => false
  let x := withF 0 F.SO_STATUS.STATE (if waits then 2 else if lead.isSome ∨ !mine.isEmpty then 1 else 0)
  let x := withF x F.SO_STATUS.LEAD_QUEUED (d.leadsQueued n).length
  let x := withF x F.SO_STATUS.SELECT_QUEUED mine.length
  withF (withF x F.SO_STATUS.CONTEXT ((lead.map (·.ctx)).getD 0)) F.SO_STATUS.CONTEXT_VALID (Bool.num lead.isSome)

/-- ST_ID (R1, R511). -/
def Env.idWord (e : Env) : Word :=
  let x := withF (withF 0 F.ST_ID.REGIONS e.regions) F.ST_ID.CLUSTERS e.clusters
  withF (withF (withF x F.ST_ID.RELEASE 6) F.ST_ID.STEPPING e.stepping) F.ST_ID.MESH_COLUMNS e.meshColumns

/-- What word `w` of element `i` of a register holds, whether it stands in `regs` or shows other state. -/
def Die.shows (e : Env) (d : Die) (r : Reg) (i w : Nat) : Word :=
  let x := d.reg r i w
  match r with
  | .SF_PRIV_RING => e.privRing
  | .ST_DIE_ID => e.dieId
  | .SE_SLOT0 => e.slot0
  | .ST_SEAL => withF 0 F.ST_SEAL.SEALED (Bool.num e.fwSeal)
  | .ST_ID => e.idWord
  | .CH_TIME => BitVec.ofNat 64 e.now
  | .SM_PAGES => d.pagesWord e
  | .SM_SLICE => withF x F.SM_SLICE.PAGES (d.pagesOf i).length
  | .SM_POT => withF x F.SM_POT.PRESENT (Bool.num (d.present e i))
  | .LC_SLICE_STATUS => d.lcStatusWord e i
  | .LC_OCC => withF 0 F.LC_OCC.LINES ((d.lcOf e (i / 64)).filter (fun y => decide (y.2.v ≠ 0 ∧ y.2.aclass = i % 64))).length
  | .SO_STATUS => d.soStatusWord i
  | .CH_SNAP => latched e d.ch.snap i
  | .CH_FRZ => latched e d.ch.frz i
  | .CH_LIVE => d.sample e i d.ctr
  | .TY_RING_DL =>
    withF x F.TY_RING_DL.PASSED (Bool.num (d.bit F.TY_RING_DL.ARMED i && decide (e.now % 2 ^ 64 > (d.ringRt i).dlNs)))
  | .TS_DEBUG => withF (withF x F.TS_DEBUG.STATE d.debugState) F.TS_DEBUG.MEM (Bool.num (decide (d.debugState = 2)))
  | .TS_ID_PUB => BitVec.ofNat 64 (numLE (((d.idPub e).map (BitVec.ofNat 8)).drop (8 * i) |>.take 8))
  | .ST_PWR_RLIMIT => BitVec.ofNat 64 (x.toNat % 2 ^ (8 * e.regions))
  | _ => x

/-- A read of one register word: what it shows, WO fields and reserved bits 0 (R9, R10), 0 for an absent element (R5).
Windows of a monitor that have ended close first, and a counter whose value is open takes a new one. -/
def Die.readReg (e : Env) (d : Die) (r : Reg) (i w : Nat) : Word × Die :=
  if !(e.hasElem d r i) then (0, d)
  else
    let d := match r with
      | .CH_BWLAST | .CH_BWPEAK | .CH_BWCOUNT => d.rollMon e i
      | _ => d
    (r.readWord w (d.shows e r i w), match r with | .CH_LIVE => d.drawn | _ => d)

/-- Offset of ST_MBOX_DATA (R447). -/
def mboxBase : Nat := 0x03E00000

/-- The access begins in the window of ST_MBOX_DATA, the last 2 MiB of BAR0. -/
def inMbox (off : Nat) : Bool := decide (mboxBase ≤ off ∧ off < 2 ^ 26)

/-- A request of the host that BAR0 turns away for who makes it or for the phase (R91, R439, R505). -/
def Die.hostGate (d : Die) (who : Who) : Option Die :=
  match who with
  | .pf => if d.phase < 3 then some d.abortHost else none
  | .pasid _ | .vf _ => some (if d.resolve who = .unbound then (d.incSat F.SM_STATUS.PASID_MISS 0 1).abortHost else d.abortHost)
  | _ => none

/-- A read of ST_MBOX_DATA: the bytes Steward sees, for the host those of the message area from phase 5 alone. One that is not of
multiples of 4 bytes at a 4-byte offset returns 0 and counts as R8 has it; log entry 92. -/
def Die.mboxRead (d : Die) (who : Who) (off len : Nat) : List Byte × Die :=
  if len % 4 ≠ 0 ∨ off % 4 ≠ 0 then (List.replicate len 0, d.badAccess)
  else
    let all := getBytes d.bt.mbox off len
    if who = .steward then (all, d)
    else (all.zipIdx.map (fun x => if d.phase ≥ 5 ∧ off + x.2 < 8192 then x.1 else 0), d)

/-- A read of BAR0: the bytes it returns, or none for a completer abort. -/
def Die.bar0Read (e : Env) (d : Die) (who : Who) (off len : Nat) : Option (List Byte) × Die :=
  match d.hostGate who with
  | some d => (none, d)
  | none =>
    if inMbox off then let x := d.mboxRead who (off - mboxBase) len; (some x.1, x.2)
    else if len ≠ 8 ∨ off % 8 ≠ 0 then (some (List.replicate len 0), d.badAccess)
    else match Reg.decode off with
      | none => (some (List.replicate 8 0), d.badAccess)
      | some (r, i, w) => let x := d.readReg e r i w; (some (bytesLE 8 x.1.toNat), x.2)

/-! ### Writes -/

/-- A write of 1 to VALID of a record bank re-arms it; the banks of contexts and slices ignore it (R375). -/
def Die.rearm (e : Env) (d : Die) (who : Who) (r : Reg) (i w : Nat) (v : Word) : Die :=
  d.barWrite e who r i (fun d =>
    match r with
    | .AY_CTX_REC | .AY_SLICE_REC => d
    | _ =>
      let d' := d.putWord e r i w v
      if d.bit (F.REC.VALID r) i ∧ !(d'.bit (F.REC.VALID r) i) then
        { d' with rearmed := (r.ctorIdx, i, (List.range 8).map (fun w => d.reg r i w)) :: d'.rearmed }
      else d')

/-- TS_KEX_CTL: the action that the write names (R358). -/
def State.kexWrite (s : State) (who : Who) (v : Word) : Host.Outcome State Fault Refusal :=
  let p := BitVec.ofNat 4 (fieldOf v 0 4)
  match fieldOf v 4 3 with
  | 1 => execKexInit who p s
  | 2 => execKexRespond who p s
  | 3 => execKexConfirm who p s
  | 4 => execKexComplete who p s
  | 5 => execKexAccept who p s
  | 6 => execKexAbort who p s
  | _ => s.go (s.d.barWrite s.env who .TS_KEX_CTL 0 id)

/-- A write to a register that has no behaviour of its own, but for the few conditions of its chapter. -/
def Die.plainWrite (e : Env) (d : Die) (who : Who) (r : Reg) (i w : Nat) (v : Word) : Die :=
  if r = .AY_INJECT_ADDR ∧ !(d.mayInject who) then d.badAccess
  else
    d.barWrite e who r i (fun d =>
      match r with
      | .SF_RING_BASE => if d.ringAccept i 0 v then d.putWord e r i w v else d.reject F.SF_STATUS.CFG_REJECT 0
      | .SF_RING_CPL => if d.ringAccept i 1 v then d.putWord e r i w v else d.reject F.SF_STATUS.CFG_REJECT 0
      | .CH_FREEZE_TIME => if d.bit F.CH_FREEZE_CTL.ARM 0 then d.reject F.CH_STATUS.CFG_REJECT 0 else d.putWord e r i w v
      | .ST_PWR_LIMIT =>
        if who = .bmc then d.setF F.ST_PWR_LIMIT.DIE_LIMIT_W 0 (fieldOf v 0 16) else d.putWord e r i w v
      | _ => d.putWord e r i w v)

/-- Where a write to a register word goes: to the command that its register carries out, or to a plain write. -/
def State.regWrite (s : State) (who : Who) (r : Reg) (i w : Nat) (v : Word) : Host.Outcome State Fault Refusal :=
  match r with
  | .SF_PRIV_RING => match s.d.barGate s.env who r i with
    | some d => s.go d
    | none => .next { s with env.privRing := r.writeWord w s.env.fwSeal s.env.privRing v v }
  | .ST_DIE_ID => match s.d.barGate s.env who r i with
    | some d => s.go d
    | none => .next { s with env.dieId := r.writeWord w s.env.fwSeal s.env.dieId v v }
  | .SE_SLOT0 => execSlot0Bind who v s
  | .SF_CTX_CFG => execCtxCfgWrite who false (BitVec.ofNat 12 i) v s
  | .SF_CTX_ERR => execCtxCfgWrite who true (BitVec.ofNat 12 i) v s
  | .SF_CTX_CTL =>
    if fieldOf v 0 2 = 1 then execCtxReset who (BitVec.ofNat 12 i) s
    else if fieldOf v 0 2 = 2 then execCtxAbort who (BitVec.ofNat 12 i) s
    else s.go (s.d.barWrite s.env who r i id)
  | .SF_RING_CTL =>
    if fieldOf v 6 1 = 1 then execRingEnable who (BitVec.ofNat 13 i) v s else execRingDisable who (BitVec.ofNat 13 i) v s
  | .SF_SLOT_QUOTA => execSlotQuotaWrite who (BitVec.ofNat 9 i) v s
  | .SM_POT_SET => execPotSet who v s
  | .SM_SLICE_ACLASS => execAclassWrite who (BitVec.ofNat 9 i) v s
  | .STU_CTX_SEGTAB => execSegtabWrite who (BitVec.ofNat 12 i) v s
  | .STU_CTX_CTL =>
    if fieldOf v 0 2 = 1 then execStuResume who (BitVec.ofNat 12 i) s
    else if fieldOf v 0 2 = 2 then execStuFail who (BitVec.ofNat 12 i) s
    else s.go (s.d.barWrite s.env who r i id)
  | .STU_FRING_BASE => execFringRegWrite who 0 (BitVec.ofNat 9 i) v s
  | .STU_FRING_CTL => execFringRegWrite who 1 (BitVec.ofNat 9 i) v s
  | .STU_FRING_CONS => execFringRegWrite who 2 (BitVec.ofNat 9 i) v s
  | .STU_ACNT_CLR => execAcntClr who v s
  | .WE_LBW => execWeLbwWrite who (BitVec.ofNat 9 i) v s
  | .DIR_LLOG_CONS => execLlogConsWrite who v s
  | .MC_SBW => execMcSbwWrite who (BitVec.ofNat 3 (i / 512)) (BitVec.ofNat 9 (i % 512)) v s
  | .MC_UE_STATUS => execMcUeClear who (BitVec.ofNat 3 i) v s
  | .CR_SEED => execCrSeedWrite who (BitVec.ofNat 9 i) v s
  | .AY_CFG => execAyCfgWrite who v s
  | .AY_WDOG => execWdogKick who v s
  | .AY_ALARM => execSecAlarmClear who v s
  | .AY_INJECT => execAyInject who v s
  | .AY_DIE_REC | .AY_CE_REC | .AY_SEC_REC | .AY_INJ_REC | .AY_CTX_REC | .AY_SLICE_REC => s.go (s.d.rearm s.env who r i w v)
  | .CH_TIME_LOAD => execChTimeLoad who v s
  | .CH_FREEZE_CTL => execFreezeArm who v s
  | .CH_CLEAR => execChClear who v s
  | .CH_BWMON => execBwmonWrite who (BitVec.ofNat 6 i) v s
  | .CH_BWPEAK => execBwpeakClear who (BitVec.ofNat 6 i) v s
  | .CH_VIS => execChVisWrite who false (BitVec.ofNat 9 i) v s
  | .CH_WATCH_MASK => execChVisWrite who true (BitVec.ofNat 9 i) v s
  | .TS_LC_REQ => execTsLcReq who v s
  | .TS_SVN_ADVANCE => execSvnAdvance who v s
  | .TS_KEY_REVOKE => execKeyRevoke who v s
  | .TS_KEX_CTL => s.kexWrite who v
  | .ST_REGION_CTL => execStRegionCtlWrite who (BitVec.ofNat 4 i) v s
  | .ST_RETRAIN => execRetrain who v s
  | .ST_RESET => s.resetWrite who v
  | .ST_SEAL => execFirmwareSeal who v s
  | .ST_MBOX_CTL => s.go (s.d.mboxCtl s.env who v)
  | _ => s.go (s.d.plainWrite s.env who r i w v)

/-- A write to BAR0 that reaches no register as R8 asks: it is counted, and before phase 5 the host's is refused as well (R439). -/
def Die.strayWrite (d : Die) (who : Who) : Die :=
  if who = .pf ∧ d.phase < 5 then d.badAccess.incSat F.ST_MBOX_STATUS.REJECT 0 1 else d.badAccess

/-- A write to BAR0. -/
def State.bar0Write (s : State) (who : Who) (off : Nat) (data : List Byte) : Host.Outcome State Fault Refusal :=
  match s.d.hostGate who with
  | some d => s.go d
  | none =>
    if inMbox off then s.go (s.d.mboxWrite who (off - mboxBase) data)
    else if data.length ≠ 8 ∨ off % 8 ≠ 0 then s.go (s.d.strayWrite who)
    else match Reg.decode off with
      | none => s.go (s.d.strayWrite who)
      | some (r, i, w) => s.regWrite who r i w (BitVec.ofNat 64 (numLE data))

/-- REGISTER_WRITE (R10). -/
def execRegisterWrite (who : Who) (off : BitVec 26) (v : Word) (s : State) : Host.Outcome State Fault Refusal :=
  if s.d.bt.pwrGood then s.bar0Write who off.toNat (bytesLE 8 v.toNat) else s.go s.d

/-- RECORD_REARM (R375): a write to a record bank. -/
def execRecordRearm (who : Who) (off : BitVec 26) (v : Word) (s : State) : Host.Outcome State Fault Refusal :=
  s.go (match Reg.decode off.toNat with
    | some (r, i, w) =>
      if r ∈ ([.AY_DIE_REC, .AY_CE_REC, .AY_SEC_REC, .AY_INJ_REC, .AY_CTX_REC, .AY_SLICE_REC] : List Reg) then s.d.rearm s.env who r i w v
      else s.d
    | none => s.d)

/-- BAR0_UNMAPPED_ACCESS (R8, R506): an access that reaches no register, or a write that its register refuses to this requester.
An access of any other kind is not this event, and changes nothing. -/
def execBar0UnmappedAccess (who : Who) (wr : Bool) (off : BitVec 26) (len : BitVec 10) (s : State) : Host.Outcome State Fault Refusal :=
  let o := off.toNat
  let stray := decide (o < mboxBase) && (decide (len.toNat ≠ 8 ∨ o % 8 ≠ 0) || (Reg.decode o).isNone)
  let barred := wr && (match Reg.decode o with
    | some (r, _, _) => !(r.writable) || (stewardOnly r && decide (who ≠ .steward))
    | none => false)
  s.go (
    if !s.d.bt.pwrGood then s.d
    else match s.d.hostGate who with
      | some d => d
      | none =>
        if stray then (if wr then s.d.strayWrite who else s.d.badAccess.send (.busRead 0))
        else if barred then
          (match Reg.decode o with
           | some (.SM_POT_SET, _, _) => (s.d.barGate s.env who .SM_POT_SET 0).elim s.d (fun d => s.d.gateReject who d F.SM_STATUS.CFG_REJECT 0)
           | some (.CH_TIME_LOAD, _, _) => (s.d.barGate s.env who .CH_TIME_LOAD 0).elim s.d (fun d => s.d.gateReject who d F.CH_STATUS.CFG_REJECT 0)
           | some (r, i, _) => s.d.barWrite s.env who r i id
           | none => s.d)
        else s.d)

end Sys2Proof.Machine
end

