-- ==== Sys2Proof/Machine/HostPort.lean ====
section
/-! DEFINITION. The host port's inbound side: requests (R91, R439, R478, R505, R510) and completions (R54, R156, R391, R481). -/

namespace Sys2Proof.Machine

/-- A flit with bad parity, or an armed HOST_ABORT, is reported with DETAIL0 0x100 (R391). -/
def Die.hostParity (e : Env) (d : Die) (ctx slice : Option Nat) : Die :=
  let inj := d.fire0 Cs.HOST_ABORT 0
  let w := d.ay.waiting.length
  let d := (if inj then d.fired else d).report e { cause := Cs.HOST_ABORT, inst := 0, ctx := ctx, slice := slice, det0 := 0x100 }
  if inj then d.markInj w else d

/-- A 64-bit read of a doorbell slot (R51): HEAD and TAIL, or 0 where no enabled ring is; any other read of BAR2 returns 0 and is
counted. -/
def Die.slotRead (d : Die) (who : Who) (off len : Nat) : List Byte × Die :=
  let c := off / 4096
  let mine := match d.resolve who with
    | .privileged => true
    | .slice sl => d.ctxValid c && decide (d.sliceOf c = some sl)
    | .unbound => false
  if len ≠ 8 ∨ off % 8 ≠ 0 ∨ c ≥ 4096 ∨ !mine then (List.replicate len 0, d.badDoorbell)
  else match d.ringAt c (off % 4096 / 8) with
    | some n => (bytesLE 8 (d.head n + d.tail n * 2 ^ 32), d)
    | none => (List.replicate 8 0, d)

/-- The bytes of a request enter the host port's counters. -/
def Die.hostInCount (e : Env) (d : Die) (n : Nat) : Die :=
  (((d.count 3824 1).count 3825 n).count 10 n).monitor e 4 0 0 n

/-- An accepted request goes to BAR0, to BAR2 or to device memory. -/
def State.hostTarget (s : State) (q : HpReq) : Host.Outcome State Fault Refusal :=
  let e := s.env
  let d := s.d
  let a := q.addr.toNat
  let f := d.hpTaken q
  match q.target with
  | .bar0 =>
    if d.resolve q.who ≠ .privileged then s.go (f.hpAbort e q)
    else if q.wr then State.bar0Write { s with d := f } q.who a q.data
    else match f.bar0Read e q.who a q.len.toNat with
      | (some b, d) => s.go (d.hpAnswer e q b)
      | (none, d) => s.go (d.hpSend e (.hostCpl q.tag.toNat 4 []))
  | .bar2 =>
    if q.wr then execDoorbell q.who (BitVec.ofNat 24 a) (BitVec.ofNat 7 (min 127 q.data.length)) (BitVec.ofNat 64 (numLE (q.data.take 8))) { s with d := f }
    else let x := f.slotRead q.who a q.len.toNat; s.go (x.2.hpAnswer e q x.1)
  | .mem =>
    if q.wr ∧ d.phase < 5 then s.go (f.incSat F.ST_MBOX_STATUS.REJECT 0 1)
    else
      let d : Die := { d with nid := d.nid + 1, bt.inq := d.bt.inq ++ [(d.nid, q)] }
      s.go (d.pump e)

def execHostPortRequest (q : HpReq) (s : State) : Host.Outcome State Fault Refusal :=
  let e := s.env
  let host := match q.who with | .pf | .pasid _ | .vf _ => true | _ => false
  if !s.d.bt.pwrGood ∨ !host then s.go s.d
  else
    let d := s.d.hostInCount e (if q.wr then q.data.length else 0)
    let f := d.hpTaken q
    if d.phase < 3 then s.go (f.hpAbort e q)
    else if !q.parOk ∨ d.fire0 Cs.HOST_ABORT 0 then
      s.go ((f.hostParity e none (match d.resolve q.who with | .slice sl => some sl | _ => none)).hpAbort e q)
    else if d.resolve q.who = .unbound then s.go ((f.incSat F.SM_STATUS.PASID_MISS 0 1).hpAbort e q)
    else State.hostTarget { s with d := d } q

/-- What asked for host data still waits for it. -/
def Die.useLives (d : Die) : Use → Bool
  | .cmd id => (d.cmd id).isSome
  | .ring n => d.bit F.SF_RING_CTL.ENABLE n
  | .ctx c => d.ctxValid c
  | .req rid => d.coh.reqs.any (fun q => decide (q.rid = rid))
  | .cons sl => decide (d.sliceState sl ≠ 0)
  | .log sl => (d.dlog sl).isSome
  | .packet k => d.we.rx.any (fun x => decide (x.k = k)) || d.bt.inq.any (fun x => decide (x.1 = k))
  | .other => false

/-- The slice for which a read was made, where no context was. -/
def Die.useSlice (d : Die) (u : Use) : Option Nat :=
  match u with
  | .cons sl => some sl
  | .log sl => some sl
  | _ => (d.useCtx u).bind d.sliceOf

/-- The data of a completion reaches what asked for it. -/
def Die.hostData (e : Env) (d : Die) (u : Use) (a : Nat) (data : List Byte) : Die :=
  match u with
  | .cons sl => d.consRead e sl (numLE (data.take 4))
  | .log sl => d.logRead e sl a (numLE data)
  | _ => if d.useLives u then { d with bt.hdata := d.bt.hdata ++ [(u, a, data)] } else d

/-- A completion that carries an error ends the access as a host error. -/
def Die.hostError (d : Die) (u : Use) (a status : Nat) : Die :=
  match u with
  | .cons _ => d
  | .log sl => d.logFail sl
  | _ => if d.useLives u then { d with bt.herr := d.bt.herr ++ [(u, a, status)] } else d

/-- The read is one of a dirty log, whose host errors go to no report (R120). -/
def Use.isLog : Use → Bool
  | .log _ => true
  | _ => false

/-- The read of this tag has not left yet. -/
def Die.readWaits (d : Die) (tag : Nat) : Bool := d.bt.outq.any (fun m => match m with | .hostRead t _ _ _ => decide (t = tag) | _ => false)

/-- A completion for an outbound read; one that answers no outstanding read, or brings another number of bytes, is no completion of
it. -/
def execHostCompletion (tag : BitVec 10) (status : BitVec 4) (data : List Byte) (parOk : Bool) (s : State) :
    Host.Outcome State Fault Refusal :=
  let e := s.env
  let d := s.d
  let st := status.toNat
  s.go (match d.bt.reads.find? (fun r => decide (r.1 = tag.toNat) && !(d.readWaits r.1)) with
    | none => d
    | some r =>
      let u := r.2.2.2.2
      if st = 0 ∧ data.length ≠ r.2.2.2.1 then d
      else
        let d : Die := { d with bt.reads := d.bt.reads.filter (fun x => decide (x.1 ≠ tag.toNat)) }
        let d := (d.hostInCount e data.length).hpFree data.length
        let bad := !parOk || d.fire0 Cs.HOST_ABORT 0
        let d :=
          if bad then (d.hostParity e (d.useCtx u) (d.useSlice u)).hostError u r.2.2.1 0x100
          else if st ≠ 0 then
            (if u.isLog then d else d.report e { cause := Cs.HOST_ABORT, inst := 0, ctx := d.useCtx u, slice := d.useSlice u, det0 := st }).hostError u r.2.2.1 st
          else d.hostData e u r.2.2.1 data
        d.pump e)

end Sys2Proof.Machine
end

