-- ==== Sys2Proof/Machine/Ports.lean ====
section
/-! DEFINITION. The test access port (R341, R362, R487) and the board controller's port (R486). -/

namespace Sys2Proof.Machine

/-! ### The test access port -/

/-- An instruction of the test access port is loaded; without power nothing happens. -/
def State.tapDo (s : State) (ir : Nat) (f : Env → Die → Die) : Host.Outcome State Fault Refusal :=
  if s.d.bt.pwrGood then s.go (f s.env { s.d with bt.tapIr := ir }) else s.go s.d

/-- The 32 bits of IDCODE. -/
def Env.idcode (e : Env) : Nat :=
  e.stepping % 16 * 2 ^ 28 + 0x7A06 * 2 ^ 12 + fieldOf (e.otpWord 39) 0 11 * 2 + 1

def execIdcode (s : State) : Host.Outcome State Fault Refusal := s.tapDo 0x1 (fun e d => d.send (.tdo e.idcode))

/-- A fresh challenge is presented, and shifted out. -/
def execDbgChallenge (s : State) : Host.Outcome State Fault Refusal :=
  s.tapDo 0x8 (fun _ d =>
    let c := d.free256.toNat
    Die.send { d with ctr := d.ctr + 4, se.chal := some (bytesLE 32 c) } (.tdo c))

/-- The 48 bytes of DEBUG_KEY_HASH and the 16 bytes of the serial number. -/
def Env.debugHash (e : Env) : List Nat := (List.range 6).flatMap (fun j => bytesOf 8 (e.otpWord (29 + j)).toNat)
def Env.serial (e : Env) : List Nat := bytesOf 8 (e.otpWord 37).toNat ++ bytesOf 8 (e.otpWord 38).toNat

/-- The debugger's answer: the signature over the challenge and the serial number, and the public key it verifies under. -/
def execDbgResponse (sig : BitVec 768) (key : BitVec 768) (s : State) : Host.Outcome State Fault Refusal :=
  s.tapDo 0x9 (fun e d =>
    let pub := bytesOf 96 key.toNat
    let ok := match d.se.chal with
      | some c => decide (d.lcState = 2) && decide (sha384 pub = e.debugHash) &&
          ecdsaVerify pub (bytesOf 96 sig.toNat) (sha384 (c.map BitVec.toNat ++ e.serial))
      | none => false
    let d : Die := { d with se.chal := none }
    if ok then { d with se.auth := true } else d.incSat F.TS_DEBUG.FAILS 0 1)

/-- DBG_ACCESS: BAR0, or 8 bytes of device memory where Table 11.7 allows them; CLOSED reads shift out 0. -/
def execDbgAccess (wr : Bool) (mem : Bool) (addr : BitVec 64) (data : Word) (s : State) : Host.Outcome State Fault Refusal :=
  if !s.d.bt.pwrGood then s.go s.d
  else
    let e := s.env
    let d : Die := { s.d with bt.tapIr := 0xA }
    let zero := if wr then d else d.send (.tdo 0)
    if d.debugState = 0 then s.go zero
    else if mem then
      if d.lcState ≤ 1 then
        let q : HpReq := { who := .tap, target := .mem, wr := wr, addr := addr, len := 8, tag := 0,
                           data := if wr then bytesLE 8 data.toNat else [], parOk := true }
        let d : Die := { d with nid := d.nid + 1, bt.inq := d.bt.inq ++ [(d.nid, q)] }
        s.go (d.pump e)
      else s.go zero
    else if wr then State.bar0Write { s with d := d } .tap addr.toNat (bytesLE 8 data.toNat)
    else
      let x := d.bar0Read e .tap addr.toNat 8
      s.go (x.2.send (.tdo (numLE (x.1.getD []))))

/-- LC_REQ writes TS_LC_REQ in BLANK and TEST (R360), once Touchstone has read the life-cycle word (R359). -/
def execLcReq (v : Word) (s : State) : Host.Outcome State Fault Refusal :=
  s.tapDo 0xB (fun _ d => if d.phase ≠ 0 ∧ d.lcState ≤ 1 then d.lcRequest v else d.badAccess)

/-- BYPASS, or an instruction that Table 16.12 does not list. -/
def execBypass (code : BitVec 4) (s : State) : Host.Outcome State Fault Refusal :=
  s.tapDo (if code.toNat ∈ ([0x1, 0x8, 0x9, 0xA, 0xB, 0xC] : List Nat) then 0xF else code.toNat) (fun _ d => d)

/-- tap_trst_n: the controller resets, and IDCODE is selected, as IEEE 1149.1 lays down. -/
def execTapReset (s : State) : Host.Outcome State Fault Refusal := s.tapDo 0x1 (fun _ d => d)

/-! ### The board controller -/

/-- What the board controller reads at element `i` of a register: the value, where it may (R486). Any MC_TEMP of a memory controller that
is present shows the highest temperature, one of an absent controller 0 (R5); log entry 91. -/
def Die.bmcValue (e : Env) (d : Die) (r : Reg) (i : Nat) : Option Word :=
  match r with
  | .ST_ID => some e.idWord
  | .ST_BOOT => some (BitVec.ofNat 64 d.phase)
  | .AY_STATUS => some (Reg.readWord .AY_STATUS 0 (d.reg .AY_STATUS 0 0))
  | .AY_RECOVERY => some (Reg.readWord .AY_RECOVERY 0 (d.reg .AY_RECOVERY 0 0))
  | .MC_TEMP => some (if !(e.hasElem d .MC_TEMP i) then 0 else BitVec.ofNat 64 ((List.range e.regions).foldl (fun m n => max m (d.getF F.MC_TEMP.TEMP_C n)) 0))
  | _ => none

def execBmcRead (off : BitVec 26) (s : State) : Host.Outcome State Fault Refusal :=
  let d := s.d
  s.go (
    if !d.bt.pwrGood then d
    else match (Reg.decode off.toNat).bind (fun x => d.bmcValue s.env x.1 x.2.1) with
      | some v => d.send (.busRead v)
      | none => d.badAccess.send (.busRead 0))

def execBmcWrite (off : BitVec 26) (v : Word) (s : State) : Host.Outcome State Fault Refusal :=
  let d := s.d
  s.go (
    if !d.bt.pwrGood then d
    else match Reg.decode off.toNat with
      | some (.ST_PWR_LIMIT, _, _) => d.setF F.ST_PWR_LIMIT.DIE_LIMIT_W 0 (fieldOf v 0 16)
      | some (.SM_POT_SET, _, _) => d.badAccess.reject F.SM_STATUS.CFG_REJECT 0
      | some (.CH_TIME_LOAD, _, _) => d.badAccess.reject F.CH_STATUS.CFG_REJECT 0
      | _ => d.badAccess)

/-- SETDASA or ENTDAA. -/
def execDynamicAddress (a : BitVec 7) (s : State) : Host.Outcome State Fault Refusal :=
  s.go (if s.d.bt.pwrGood then { s.d with bt.bmcAddr := a.toNat } else s.d)

end Sys2Proof.Machine
end

