-- ==== Sys2Proof/Machine/Dispatch.lean ====
section
/-! DEFINITION. exec: one arm for each command, one direct call of its meaning. -/

namespace Sys2Proof.Machine

def exec (i : Instr) (s : State) : Host.Outcome State Fault Refusal :=
  match i with
  | .registerWrite who off v => Sys2Proof.Machine.execRegisterWrite who off v s
  | .bar0UnmappedAccess who wr off len => Sys2Proof.Machine.execBar0UnmappedAccess who wr off len s
  | .recordRearm who off v => Sys2Proof.Machine.execRecordRearm who off v s
  | .tick fwBusy => Sys2Proof.Machine.execTick fwBusy s
  | .sweepDone => Sys2Proof.Machine.execSweepDone s
  | .gatingStart r => Sys2Proof.Machine.execGatingStart r s
  | .gatingStepDone r => Sys2Proof.Machine.execGatingStepDone r s
  | .rpsOnAckRise r => Sys2Proof.Machine.execRpsOnAckRise r s
  | .rpsOnAckFall r => Sys2Proof.Machine.execRpsOnAckFall r s
  | .regionRunning r => Sys2Proof.Machine.execRegionRunning r s
  | .interpolatorLock n => Sys2Proof.Machine.execInterpolatorLock n s
  | .regionPwr r => Sys2Proof.Machine.execRegionPwr r s
  | .stRegionCtlWrite who n v => Sys2Proof.Machine.execStRegionCtlWrite who n v s
  | .doorbell who off len v => Sys2Proof.Machine.execDoorbell who off len v s
  | .ctxCfgWrite who err c v => Sys2Proof.Machine.execCtxCfgWrite who err c v s
  | .ctxReset who c => Sys2Proof.Machine.execCtxReset who c s
  | .ctxAbort who c => Sys2Proof.Machine.execCtxAbort who c s
  | .ringEnable who n v => Sys2Proof.Machine.execRingEnable who n v s
  | .ringDisable who n v => Sys2Proof.Machine.execRingDisable who n v s
  | .slotQuotaWrite who sl v => Sys2Proof.Machine.execSlotQuotaWrite who sl v s
  | .descriptorFetch n => Sys2Proof.Machine.execDescriptorFetch n s
  | .teardownDrained c => Sys2Proof.Machine.execTeardownDrained c s
  | .commandComplete id => Sys2Proof.Machine.execCommandComplete id s
  | .nop id => Sys2Proof.Machine.execNop id s
  | .launch id => Sys2Proof.Machine.execLaunch id s
  | .launchIndirect id => Sys2Proof.Machine.execLaunchIndirect id s
  | .copy id => Sys2Proof.Machine.execCopy id s
  | .fill id => Sys2Proof.Machine.execFill id s
  | .gather id => Sys2Proof.Machine.execGather id s
  | .scatter id => Sys2Proof.Machine.execScatter id s
  | .reduce id => Sys2Proof.Machine.execReduce id s
  | .reduceScatter id => Sys2Proof.Machine.execReduceScatter id s
  | .dmeTile n => Sys2Proof.Machine.execDmeTile n s
  | .dispatchExpert id => Sys2Proof.Machine.execDispatchExpert id s
  | .dispatchBlock id => Sys2Proof.Machine.execDispatchBlock id s
  | .dispatchCompact id => Sys2Proof.Machine.execDispatchCompact id s
  | .dispatchBucket id => Sys2Proof.Machine.execDispatchBucket id s
  | .combine id => Sys2Proof.Machine.execCombine id s
  | .selectItem n => Sys2Proof.Machine.execSelectItem n s
  | .keepAlive n => Sys2Proof.Machine.execKeepAlive n s
  | .fenceWait id => Sys2Proof.Machine.execFenceWait id s
  | .fenceNotify id => Sys2Proof.Machine.execFenceNotify id s
  | .fencePoll id => Sys2Proof.Machine.execFencePoll id s
  | .fenceTimeout id => Sys2Proof.Machine.execFenceTimeout id s
  | .fenceSignal id => Sys2Proof.Machine.execFenceSignal id s
  | .timestamp id => Sys2Proof.Machine.execTimestamp id s
  | .counterSnap id => Sys2Proof.Machine.execCounterSnap id s
  | .snapLatch id => Sys2Proof.Machine.execSnapLatch id s
  | .predSkip id => Sys2Proof.Machine.execPredSkip id s
  | .select id => Sys2Proof.Machine.execSelect id s
  | .callList id => Sys2Proof.Machine.execCallList id s
  | .ret id => Sys2Proof.Machine.execRet id s
  | .yieldCmd id => Sys2Proof.Machine.execYieldCmd id s
  | .deadline id => Sys2Proof.Machine.execDeadline id s
  | .watchOpen id => Sys2Proof.Machine.execWatchOpen id s
  | .watchSnap id => Sys2Proof.Machine.execWatchSnap id s
  | .watchClose id => Sys2Proof.Machine.execWatchClose id s
  | .watchSwitchDone id => Sys2Proof.Machine.execWatchSwitchDone id s
  | .invalidate id => Sys2Proof.Machine.execInvalidate id s
  | .invalidateDrained id => Sys2Proof.Machine.execInvalidateDrained id s
  | .invTimeout id => Sys2Proof.Machine.execInvTimeout id s
  | .create id => Sys2Proof.Machine.execCreate id s
  | .clusters id => Sys2Proof.Machine.execClusters id s
  | .pagesAssign id => Sys2Proof.Machine.execPagesAssign id s
  | .pagesRelease id => Sys2Proof.Machine.execPagesRelease id s
  | .activate id => Sys2Proof.Machine.execActivate id s
  | .disable id => Sys2Proof.Machine.execDisable id s
  | .forceDisable id => Sys2Proof.Machine.execForceDisable id s
  | .reclaim id => Sys2Proof.Machine.execReclaim id s
  | .bind id => Sys2Proof.Machine.execBind id s
  | .graceExpiry sl => Sys2Proof.Machine.execGraceExpiry sl s
  | .sliceDrained sl => Sys2Proof.Machine.execSliceDrained sl s
  | .reclaimFlushDone sl => Sys2Proof.Machine.execReclaimFlushDone sl s
  | .reclaimKeysDone sl => Sys2Proof.Machine.execReclaimKeysDone sl s
  | .reclaimScrubDone sl => Sys2Proof.Machine.execReclaimScrubDone sl s
  | .potChangeDone op => Sys2Proof.Machine.execPotChangeDone op s
  | .scrub id => Sys2Proof.Machine.execScrub id s
  | .pageScrubDone p => Sys2Proof.Machine.execPageScrubDone p s
  | .logStart id => Sys2Proof.Machine.execLogStart id s
  | .logSwap id => Sys2Proof.Machine.execLogSwap id s
  | .logStop id => Sys2Proof.Machine.execLogStop id s
  | .dirtyLogConfirm sl g => Sys2Proof.Machine.execDirtyLogConfirm sl g s
  | .potSet who v => Sys2Proof.Machine.execPotSet who v s
  | .aclassWrite who sl v => Sys2Proof.Machine.execAclassWrite who sl v s
  | .hostPortRequest q => Sys2Proof.Machine.execHostPortRequest q s
  | .hostCompletion tag status data parOk => Sys2Proof.Machine.execHostCompletion tag status data parOk s
  | .placement k => Sys2Proof.Machine.execPlacement k s
  | .quantumExpiry k => Sys2Proof.Machine.execQuantumExpiry k s
  | .yieldGraceExpiry kid => Sys2Proof.Machine.execYieldGraceExpiry kid s
  | .lend k => Sys2Proof.Machine.execLend k s
  | .abandonTimeout k => Sys2Proof.Machine.execAbandonTimeout k s
  | .segtabWrite who c v => Sys2Proof.Machine.execSegtabWrite who c v s
  | .stuResume who c => Sys2Proof.Machine.execStuResume who c s
  | .stuFail who c => Sys2Proof.Machine.execStuFail who c s
  | .holdTimeout c => Sys2Proof.Machine.execHoldTimeout c s
  | .faultBatchClose sl => Sys2Proof.Machine.execFaultBatchClose sl s
  | .fringConsRead sl => Sys2Proof.Machine.execFringConsRead sl s
  | .fringRegWrite who which sl v => Sys2Proof.Machine.execFringRegWrite who which sl v s
  | .acntClr who v => Sys2Proof.Machine.execAcntClr who v s
  | .acntDecay => Sys2Proof.Machine.execAcntDecay s
  | .mapWindowSet id => Sys2Proof.Machine.execMapWindowSet id s
  | .mapWindowClear id => Sys2Proof.Machine.execMapWindowClear id s
  | .mapWindowDrained op => Sys2Proof.Machine.execMapWindowDrained op s
  | .weLbwWrite who sl v => Sys2Proof.Machine.execWeLbwWrite who sl v s
  | .rdReq p b tag => Sys2Proof.Machine.execRdReq p b tag s
  | .wr p b tag => Sys2Proof.Machine.execWr p b tag s
  | .red p b tag => Sys2Proof.Machine.execRed p b tag s
  | .windowAtomic p b tag => Sys2Proof.Machine.execWindowAtomic p b tag s
  | .fsig p b tag => Sys2Proof.Machine.execFsig p b tag s
  | .rdRsp p b tag => Sys2Proof.Machine.execRdRsp p b tag s
  | .atomicRsp p b tag => Sys2Proof.Machine.execAtomicRsp p b tag s
  | .ack p b tag => Sys2Proof.Machine.execAck p b tag s
  | .nack p b tag => Sys2Proof.Machine.execNack p b tag s
  | .timeReq p b => Sys2Proof.Machine.execTimeReq p b s
  | .timeRsp p b => Sys2Proof.Machine.execTimeRsp p b s
  | .timeExchange => Sys2Proof.Machine.execTimeExchange s
  | .windowRspTimeout t => Sys2Proof.Machine.execWindowRspTimeout t s
  | .linkDown p => Sys2Proof.Machine.execLinkDown p s
  | .linkUp p => Sys2Proof.Machine.execLinkUp p s
  | .clpReq k h parOk beats => Sys2Proof.Machine.execClpReq k h parOk beats s
  | .tileLoad k h parOk => Sys2Proof.Machine.execTileLoad k h parOk s
  | .tileStore k h parOk beats => Sys2Proof.Machine.execTileStore k h parOk beats s
  | .clpWb k h parOk data => Sys2Proof.Machine.execClpWb k h parOk data s
  | .readShared rid => Sys2Proof.Machine.execReadShared rid s
  | .readOwn rid => Sys2Proof.Machine.execReadOwn rid s
  | .readOnce rid => Sys2Proof.Machine.execReadOnce rid s
  | .writeFull rid => Sys2Proof.Machine.execWriteFull rid s
  | .writeMask rid => Sys2Proof.Machine.execWriteMask rid s
  | .atomic rid => Sys2Proof.Machine.execAtomic rid s
  | .reduceWrite rid => Sys2Proof.Machine.execReduceWrite rid s
  | .pf rid => Sys2Proof.Machine.execPf rid s
  | .wb rid => Sys2Proof.Machine.execWb rid s
  | .retry rid => Sys2Proof.Machine.execRetry rid s
  | .grant rid => Sys2Proof.Machine.execGrant rid s
  | .srsp k stag code => Sys2Proof.Machine.execSrsp k stag code s
  | .sdat k stag watchEn watchId data => Sys2Proof.Machine.execSdat k stag watchEn watchId data s
  | .collectorSrsp line r => Sys2Proof.Machine.execCollectorSrsp line r s
  | .snoopTimeout k stag => Sys2Proof.Machine.execSnoopTimeout k stag s
  | .sweepVisit h => Sys2Proof.Machine.execSweepVisit h s
  | .flushDone f => Sys2Proof.Machine.execFlushDone f s
  | .lcScrubVisit h => Sys2Proof.Machine.execLcScrubVisit h s
  | .llogConsWrite who v => Sys2Proof.Machine.execLlogConsWrite who v s
  | .mcRead line flips => Sys2Proof.Machine.execMcRead line flips s
  | .mcWrite line sectors zse data => Sys2Proof.Machine.execMcWrite line sectors zse data s
  | .refresh n pc => Sys2Proof.Machine.execRefresh n pc s
  | .tempRead n t => Sys2Proof.Machine.execTempRead n t s
  | .tempTimeout n => Sys2Proof.Machine.execTempTimeout n s
  | .phyAlert n pc tries => Sys2Proof.Machine.execPhyAlert n pc tries s
  | .mcSbwWrite who n sl v => Sys2Proof.Machine.execMcSbwWrite who n sl v s
  | .mcUeClear who n v => Sys2Proof.Machine.execMcUeClear who n v s
  | .patrolVisit n => Sys2Proof.Machine.execPatrolVisit n s
  | .planisherScrub n => Sys2Proof.Machine.execPlanisherScrub n s
  | .nmapScrubVisit n => Sys2Proof.Machine.execNmapScrubVisit n s
  | .trainingDone n mode geom => Sys2Proof.Machine.execTrainingDone n mode geom s
  | .nmapInitDone n => Sys2Proof.Machine.execNmapInitDone n s
  | .trainingTimeout n => Sys2Proof.Machine.execTrainingTimeout n s
  | .calibrationStart n pc => Sys2Proof.Machine.execCalibrationStart n pc s
  | .calibrationEnd n => Sys2Proof.Machine.execCalibrationEnd n s
  | .phyupdReq n => Sys2Proof.Machine.execPhyupdReq n s
  | .retrain who v => Sys2Proof.Machine.execRetrain who v s
  | .retrainDone n ok => Sys2Proof.Machine.execRetrainDone n ok s
  | .crSeedWrite who sl v => Sys2Proof.Machine.execCrSeedWrite who sl v s
  | .keyBind id => Sys2Proof.Machine.execKeyBind id s
  | .keyRetire id => Sys2Proof.Machine.execKeyRetire id s
  | .slot0Bind who v => Sys2Proof.Machine.execSlot0Bind who v s
  | .kexInit who p => Sys2Proof.Machine.execKexInit who p s
  | .kexRespond who p => Sys2Proof.Machine.execKexRespond who p s
  | .kexConfirm who p => Sys2Proof.Machine.execKexConfirm who p s
  | .kexComplete who p => Sys2Proof.Machine.execKexComplete who p s
  | .kexAccept who p => Sys2Proof.Machine.execKexAccept who p s
  | .kexAbort who p => Sys2Proof.Machine.execKexAbort who p s
  | .tsLcReq who v => Sys2Proof.Machine.execTsLcReq who v s
  | .lcProgramDone => Sys2Proof.Machine.execLcProgramDone s
  | .svnAdvance who v => Sys2Proof.Machine.execSvnAdvance who v s
  | .keyRevoke who v => Sys2Proof.Machine.execKeyRevoke who v s
  | .assayReport r => Sys2Proof.Machine.execAssayReport r s
  | .dieLine r => Sys2Proof.Machine.execDieLine r s
  | .quietEnd => Sys2Proof.Machine.execQuietEnd s
  | .wdogKick who v => Sys2Proof.Machine.execWdogKick who v s
  | .wdogExpiry => Sys2Proof.Machine.execWdogExpiry s
  | .ayCfgWrite who v => Sys2Proof.Machine.execAyCfgWrite who v s
  | .ayInject who v => Sys2Proof.Machine.execAyInject who v s
  | .secAlarmClear who v => Sys2Proof.Machine.execSecAlarmClear who v s
  | .chClear who v => Sys2Proof.Machine.execChClear who v s
  | .freezeArm who v => Sys2Proof.Machine.execFreezeArm who v s
  | .freeze => Sys2Proof.Machine.execFreeze s
  | .chTimeLoad who v => Sys2Proof.Machine.execChTimeLoad who v s
  | .bwmonWrite who m v => Sys2Proof.Machine.execBwmonWrite who m v s
  | .bwmonWindowEnd m => Sys2Proof.Machine.execBwmonWindowEnd m s
  | .bwpeakClear who m v => Sys2Proof.Machine.execBwpeakClear who m v s
  | .chVisWrite who mask sl v => Sys2Proof.Machine.execChVisWrite who mask sl v s
  | .endK k kid fault => Sys2Proof.Machine.execEndK k kid fault s
  | .mark k kid => Sys2Proof.Machine.execMark k kid s
  | .yielded k kid token => Sys2Proof.Machine.execYielded k kid token s
  | .abandonAck k kid => Sys2Proof.Machine.execAbandonAck k kid s
  | .kernelError k kid tag code => Sys2Proof.Machine.execKernelError k kid tag code s
  | .portError k chan => Sys2Proof.Machine.execPortError k chan s
  | .powerGood => Sys2Proof.Machine.execPowerGood s
  | .coldReset pin => Sys2Proof.Machine.execColdReset pin s
  | .warmReset => Sys2Proof.Machine.execWarmReset s
  | .stResetWarm who v => Sys2Proof.Machine.execStResetWarm who v s
  | .stResetCold who v => Sys2Proof.Machine.execStResetCold who v s
  | .flashReadDone a b log => Sys2Proof.Machine.execFlashReadDone a b log s
  | .flashTimeout => Sys2Proof.Machine.execFlashTimeout s
  | .mboxDataWrite who off data => Sys2Proof.Machine.execMboxDataWrite who off data s
  | .go who v => Sys2Proof.Machine.execGo who v s
  | .authDone => Sys2Proof.Machine.execAuthDone s
  | .h2f who v => Sys2Proof.Machine.execH2f who v s
  | .f2h who v => Sys2Proof.Machine.execF2h who v s
  | .firmwareSeal who v => Sys2Proof.Machine.execFirmwareSeal who v s
  | .idcode => Sys2Proof.Machine.execIdcode s
  | .dbgChallenge => Sys2Proof.Machine.execDbgChallenge s
  | .dbgResponse sig key => Sys2Proof.Machine.execDbgResponse sig key s
  | .dbgAccess wr mem addr data => Sys2Proof.Machine.execDbgAccess wr mem addr data s
  | .lcReq v => Sys2Proof.Machine.execLcReq v s
  | .inject v line => Sys2Proof.Machine.execInject v line s
  | .bypass code => Sys2Proof.Machine.execBypass code s
  | .bmcRead off => Sys2Proof.Machine.execBmcRead off s
  | .bmcWrite off v => Sys2Proof.Machine.execBmcWrite off v s
  | .romStart otpErr word => Sys2Proof.Machine.execRomStart otpErr word s
  | .creditReturn port chan => Sys2Proof.Machine.execCreditReturn port chan s
  | .rxDrop p b => Sys2Proof.Machine.execRxDrop p b s
  | .dynamicAddress a => Sys2Proof.Machine.execDynamicAddress a s
  | .tapReset => Sys2Proof.Machine.execTapReset s

end Sys2Proof.Machine
end

