-- ==== Sys2Proof/Safety.lean ====
section
/-! DEFINITION. What the statements speak of: a safe run, what a command answers, what a next state has kept of the
state before it, and the canonical form of memory. -/

namespace Sys2Proof

/-- The step at `s` gives a next state. -/
def goesOn (s : Machine.State) : Prop := ∃ t, Machine.step s = .next t

end Sys2Proof

namespace Sys2Proof.Machine

/-- Command `i` at `s` answers a next state, and `P` holds of it. -/
def gives (i : Instr) (s : State) (P : State → Prop) : Prop := ∃ t, exec i s = .next t ∧ P t

/-- The words of every register but those listed read in `t` as in `d`. -/
def keepsRegs (d t : Die) (but : List Reg) : Prop := ∀ r, r ∉ but → ∀ i w, t.reg r i w = d.reg r i w

/-- Nothing but words of the listed registers differs. -/
def onlyRegs (s t : State) (but : List Reg) : Prop :=
  t = { s with d := { s.d with regs := t.d.regs } } ∧ keepsRegs s.d t.d but

/-- Nothing but words of the listed registers, and the note of the W1C bits that events of this cycle have set, differs. -/
def onlyRegsRose (s t : State) (but : List Reg) : Prop :=
  t = { s with d := { s.d with regs := t.d.regs, rose := t.d.rose } } ∧ keepsRegs s.d t.d but

/-- Nothing but words of the listed registers and event counters differs. -/
def onlyRegsCounts (s t : State) (but : List Reg) : Prop :=
  t = { s with d := { s.d with regs := t.d.regs, ch := { s.d.ch with cnt := t.d.ch.cnt } } } ∧ keepsRegs s.d t.d but

/-- An event of this cycle has set the one-bit W1C field (R11). -/
def Die.risen (d : Die) (f : Fld) (i : Nat) : Bool := d.rose.contains (f.reg.ctorIdx, 8 * i + f.word, f.lo)

/-- Element `i` of register `r` reads as the word list `ws`, and no other element of it has changed. -/
def elemOnly (d t : Die) (r : Reg) (i : Nat) : Prop := ∀ j w, j ≠ i → w < r.layout.words → t.reg r j w = d.reg r j w

/-- Memory stands in its one canonical form: addresses strictly rising, and no zero byte listed. -/
def Memory.wf (m : Mem) : Bool := Tab.wf 0 m.dram && Tab.wf 0 m.side

/-- Command `c`, as it stands in `d` and may be carried out there, of opcode `op`: either it has started and runs, or it
may start now, and `d` is the die in which it has begun. -/
inductive Acting (s : State) (id op : Nat) : Cmd → Die → Prop where
  | running (c : Cmd) : s.d.cmd id = some c → c.op = op → c.st = .running → c.started = true → c.bypass = false → Acting s id op c s.d
  | starting (c : Cmd) : s.d.cmd id = some c → c.op = op → s.d.gate c = .go →
      Acting s id op { c with st := .running, order := s.d.nid, start := s.env.now } (s.d.begin s.env c)

/-- The state that a row answers whose command, acting in `d`, leaves die `x`: where the command has just begun, the state of
its context follows (R44). -/
def actsTo (s : State) (id : Nat) (c : Cmd) (x : Die) : State :=
  match s.d.cmd id with
  | some c0 => if c0.st = .running then { s with d := x } else { s with d := x.ctxPump c.ctx }
  | none => s

end Sys2Proof.Machine
end

