-- ==== Sys2Proof/Certificates/Slice0/Obligations.lean ====
section
/-! DEFINITION. The statements for the provers, each a property of the model that a rule of the manual asks for.
That a row whose event is not due changes nothing is the model's own choice throughout (log entry 1), and so is that a
row happens at a reference edge, whose die time its stamps show (log entry 9). -/

open Sys2Proof Sys2Proof.Machine

/-! ### The queue, the clock and the whole machine -/

/-- A step takes the command at the front of the queue and runs it with the rest. -/
def Obligations.StepRunsFrontCommand : Prop :=
  ∀ (s : State) (c : Instr) (rest : List Instr), step { s with pending := c :: rest } = exec c { s with pending := rest }

/-- The 25 MHz reference. On an empty queue a step is one period (the model's choice, log entry 2); before power-good nothing
moves. TICK runs the reference to the next tick edge (R35): the phase within the tick is 0 again and the edge adds 1 to TICK_COUNT,
and 1 to OVERRUN_COUNT, which saturates, where the firmware's tick work still runs (R36). Either way die time advances by 40 ns
for each period and the slew that R200 lets in, in units of 2^-16 ns, and nothing else of the always-on state changes. What waits for die time
alone (R183, R264) goes on before the edge.
Log entries 2, 6 (the model's own choices). -/
def Obligations.PeriodsAndTicksAdvanceDieTime : Prop :=
  (∀ s : State, s.pending = [] → s.d.bt.pwrGood = false → step s = .next s) ∧
  (∀ s : State, s.pending = [] → s.d.bt.pwrGood = true →
    ∃ t, step s = .next t ∧ t.pending = [] ∧
      t.env = { s.env with tq := ((s.env.tq + 2621440 : Nat) + s.env.slewPart 1).toNat,
                           slew := s.env.slew - s.env.slewPart 1,
                           phase := if s.env.phase + 1 < 12500 then s.env.phase + 1 else 0 }) ∧
  (∀ (s : State) (b : Bool), s.d.bt.pwrGood = true → s.env.phase < 12500 →
    ∃ t, exec (.tick b) s = .next t ∧ t.pending = s.pending ∧
      t.env = { s.env with tq := ((s.env.tq + (12500 - s.env.phase) * 2621440 : Nat) + s.env.slewPart (12500 - s.env.phase)).toNat,
                           slew := s.env.slew - s.env.slewPart (12500 - s.env.phase),
                           phase := 0 } ∧
      t.d = (((s.d.elapse { t.env with phase := 12500 } (t.env.now - s.env.now)).later { t.env with phase := 12500 }).tickEdge t.env b) ∧
      (s.d.we.queue = [] → s.d.mem.waits = [] → s.d.mem.queue = [] →
        t.d.getF F.ST_TICK.TICK_COUNT 0 = (s.d.getF F.ST_TICK.TICK_COUNT 0 + 1) % 2 ^ F.ST_TICK.TICK_COUNT.width)) ∧
  (∀ (e : Env) (d : Die) (b : Bool),
    (d.tickEdge e b).getF F.ST_TICK.TICK_COUNT 0 = (d.getF F.ST_TICK.TICK_COUNT 0 + 1) % 2 ^ F.ST_TICK.TICK_COUNT.width ∧
    (d.tickEdge e b).getF F.ST_TICK.OVERRUN_COUNT 0 =
      if b then min (d.getF F.ST_TICK.OVERRUN_COUNT 0 + 1) (2 ^ F.ST_TICK.OVERRUN_COUNT.width - 1)
      else d.getF F.ST_TICK.OVERRUN_COUNT 0)

/-- No command and no idle step stops the machine, and running a command never touches the commands that wait behind it. -/
def Obligations.EveryStepGoesOnAndKeepsTheQueue : Prop :=
  (∀ s : State, goesOn s) ∧
  (∀ (i : Instr) (s : State), ∃ t, exec i s = .next t ∧ t.pending = s.pending)

/-- OTP bits are programmed and never cleared (R488): a step leaves every programmed bit of every word programmed, but for one of the SVN
field or of the revocations whose programming has begun and not ended, which a power loss may leave not done (R456).
Log entry 48 (the model's own choices). -/
def Obligations.OtpBitsNeverClear : Prop :=
  ∀ s t : State, step s = .next t →
    ∀ w i : Nat, (∀ x ∈ s.d.se.burn, x.1 = w → x.2.getLsbD i = true) → (Tab.get 0 s.env.otp w).getLsbD i = true → (Tab.get 0 t.env.otp w).getLsbD i = true

/-- The registers with a field of type RWL are SF_PRIV_RING, ST_DIE_ID and SE_SLOT0 and no others, and from firmware seal they hold what they
hold until a reset releases the seal; SM_POT_SET and CH_TIME_LOAD have no field of another type than WO, and after the seal a write of either changes
nothing but the count of ignored writes (R507). -/
def Obligations.SealedRegistersHoldUntilReset : Prop :=
  (∀ r : Reg, (∃ f ∈ r.fields, f.acc = .RWL) ↔ r ∈ ([.SF_PRIV_RING, .ST_DIE_ID, .SE_SLOT0] : List Reg)) ∧
  (∀ r ∈ ([.SM_POT_SET, .CH_TIME_LOAD] : List Reg), ∀ f ∈ r.fields, f.acc = .WO) ∧
  (∀ s t : State, s.env.fwSeal = true → step s = .next t → t.env.fwSeal = true →
    t.env.privRing = s.env.privRing ∧ t.env.dieId = s.env.dieId ∧ t.env.slot0 = s.env.slot0) ∧
  (∀ (s : State) (who : Who) (v : Word), s.env.fwSeal = true →
    (s.d.barGate s.env who .SM_POT_SET 0 = none → exec (.potSet who v) s = .next { s with d := s.d.reject F.SM_STATUS.CFG_REJECT 0 }) ∧
    (s.d.barGate s.env who .CH_TIME_LOAD 0 = none → exec (.chTimeLoad who v) s = .next { s with d := s.d.reject F.CH_STATUS.CFG_REJECT 0 }))

/-- Die time never runs backwards (R431): no step makes it fall, in units of 2^-16 ns, but one that sets it to 0, a cold reset. -/
def Obligations.DieTimeNeverRunsBackwards : Prop :=
  ∀ s t : State, step s = .next t → s.env.tq ≤ t.env.tq ∨ t.env.tq = 0

/-- The reference period within the tick is below 12,500 after every step that began so (R35), and the build of the die, its
regions, its stepping and the stacks fitted, is the same after every step (R1). -/
def Obligations.StepsKeepTheTickPhaseAndTheBuild : Prop :=
  ∀ s t : State, s.env.phase < 12500 → step s = .next t →
    t.env.phase < 12500 ∧ t.env.regions = s.env.regions ∧ t.env.stepping = s.env.stepping ∧ t.env.fit = s.env.fit

/-- The state after reset: every word of every register at its reset value, memory with nothing listed and in canonical form,
die time and the phase within the tick 0, nothing sealed, the queue empty and power not yet good.
Log entries 3, 4, 80 (the model's own choices). -/
def Obligations.ResetLeavesResetValues : Prop :=
  (∀ (r : Reg) (i w : Nat), State.reset.d.reg r i w = r.resetWord w) ∧
  State.reset.d.mem.dram = [] ∧ Memory.wf State.reset.d.mem = true ∧ State.reset.env.tq = 0 ∧ State.reset.env.phase = 0 ∧ State.reset.env.fwSeal = false ∧
  State.reset.pending = [] ∧ State.reset.d.bt.pwrGood = false

/-! ### BAR0 and the board controller's port (chapters 0, 12, 16 and 18) -/

/-- The registers of Table 18.1 whose writes set their fields and do nothing else. -/
def plainRegs : List Reg :=
  ([.SF_STATUS, .SM_CFG, .TY_CFG, .TY_SHARE, .TY_CTX_SHARE, .STU_CFG, .STU_CNT_CFG, .STU_FRING_STATUS, .WE_CFG, .WE_TIME_CFG] : List Reg) ++
  ([.WE_ROUTE, .LC_CFG, .DIR_CFG, .DIR_LLOG_STATUS, .LC_SCRUB_CFG, .LC_ACLASS, .MC_CFG, .MC_PATROL, .SO_CFG, .CR_CFG] : List Reg) ++
  ([.AY_RECOVERY, .AY_INJECT_STATUS, .AY_SLICE_PEND, .CH_CFG, .ST_REGION_STATUS, .ST_PWR_RLIMIT, .TS_KEX_BUF] : List Reg)

/-- What Table 0.4 says a field holds after a write of `n` where it held `x`. -/
def afterWrite (f : Fld) (x n : Nat) : Nat :=
  match f.acc with
  | .RW | .RWS => n
  | .W1C => x &&& (2 ^ f.width - 1 - n)
  | .W1S => x ||| n
  | .RO | .WO | .RWL => x

/-- REGISTER_WRITE on a register without a behaviour of its own, by a requester that the register admits: every field of the
written word takes what its access type says (Table 0.4), but that a W1C bit which an event of the same cycle has set stays (R11); no other word
of any register and nothing else changes.
Log entry 25 (the model's own choices). -/
def Obligations.RegisterWriteFollowsAccessTypes : Prop :=
  ∀ (s : State) (who : Who) (off : BitVec 26) (v : Word) (r : Reg) (i w : Nat),
    s.d.bt.pwrGood = true → off.toNat < mboxBase → off.toNat % 8 = 0 → Reg.decode off.toNat = some (r, i, w) → r ∈ plainRegs →
    s.d.barGate s.env who r i = none →
    ∃ t, exec (.registerWrite who off v) s = .next t ∧
      (∀ f ∈ r.fields, f.word = w → t.d.getF f i = afterWrite f (s.d.getF f i) (fieldOf (if f.acc = .W1C then s.d.offered r i w v else v) f.lo f.width)) ∧
      (∀ b < 64, (s.d.offered r i w v).getLsbD b = (v.getLsbD b && !(s.d.rose.contains (r.ctorIdx, 8 * i + w, b)))) ∧
      (∀ r' j x, x < 8 → ¬ (r' = r ∧ j = i ∧ x = w) → w < 8 → t.d.reg r' j x = s.d.reg r' j x) ∧
      t = { s with d := { s.d with regs := t.d.regs } }

/-- A register write that its requester may not make (R91, R439, R505, R506): before phase 3 the host is answered with a
completer abort, which counter 3829 counts; in phases 3 and 4 its write is ignored and counted in REJECT; a PASID or function
bound to no slice is counted in PASID_MISS and aborted; a slice's own request is aborted; the host's write to ST_PWR_RLIMIT
or TS_KEX_BUF, which Table 18.1 reserves for Steward, and one to SF_RING_STATUS, ST_BOOT or MC_STATUS, whose fields are all RO, are counted in
always-on counter 59.
Log entry 26 (the model's own choices). -/
def Obligations.RegisterWriteTurnsAwayOtherRequesters : Prop :=
  ∀ (s : State) (off : BitVec 26) (v : Word) (r : Reg) (i w : Nat),
    s.d.bt.pwrGood = true → off.toNat < mboxBase → off.toNat % 8 = 0 → Reg.decode off.toNat = some (r, i, w) →
    (s.d.phase < 3 → exec (.registerWrite .pf off v) s = .next { s with d := s.d.count 3829 1 }) ∧
    (3 ≤ s.d.phase → s.d.phase < 5 → r ∈ plainRegs →
      exec (.registerWrite .pf off v) s = .next { s with d := s.d.incSat F.ST_MBOX_STATUS.REJECT 0 1 }) ∧
    (∀ n, s.d.resolve (.pasid n) = .unbound →
      exec (.registerWrite (.pasid n) off v) s = .next { s with d := (s.d.incSat F.SM_STATUS.PASID_MISS 0 1).count 3829 1 }) ∧
    (∀ n, s.d.resolve (.vf n) = .unbound →
      exec (.registerWrite (.vf n) off v) s = .next { s with d := (s.d.incSat F.SM_STATUS.PASID_MISS 0 1).count 3829 1 }) ∧
    (∀ n sl, s.d.resolve (.pasid n) = .slice sl → exec (.registerWrite (.pasid n) off v) s = .next { s with d := s.d.count 3829 1 }) ∧
    (5 ≤ s.d.phase → s.env.hasElem s.d r i = true → r ∈ ([.ST_PWR_RLIMIT, .TS_KEX_BUF] : List Reg) →
      exec (.registerWrite .pf off v) s = .next { s with d := s.d.count 59 1 }) ∧
    (5 ≤ s.d.phase → s.env.hasElem s.d r i = true → r ∈ ([.SF_RING_STATUS, .ST_BOOT, .MC_STATUS] : List Reg) →
      exec (.registerWrite .pf off v) s = .next { s with d := s.d.count 59 1 })

/-- BAR0_UNMAPPED_ACCESS: an access to an offset that no register occupies, or of the wrong width or alignment, returns 0 or is
discarded, adds 1 to always-on counter 59 and has no other effect (R8, R506), but that a host write in phases 3 and 4 adds 1 to REJECT as well (R439);
so is a host write to a register of RO fields. -/
def Obligations.UnmappedAccessReadsZeroAndIsCounted : Prop :=
  ∀ (s : State) (who : Who) (off : BitVec 26) (len : BitVec 10),
    s.d.bt.pwrGood = true → off.toNat < mboxBase →
    (who = .steward ∨ who = .tap ∨ (who = .pf ∧ 3 ≤ s.d.phase)) →
    let early := who = .pf ∧ s.d.phase < 5
    ((len.toNat ≠ 8 ∨ off.toNat % 8 ≠ 0 ∨ Reg.decode off.toNat = none) →
      (∃ t, exec (.bar0UnmappedAccess who false off len) s = .next t ∧
        t = { s with d := { s.d with ch := { s.d.ch with cnt := t.d.ch.cnt }, out := .busRead 0 :: s.d.out } } ∧
        ∀ n, Tab.get 0 t.d.ch.cnt n = Tab.get 0 s.d.ch.cnt n + if n = 59 then 1 else 0) ∧
      (∃ t, exec (.bar0UnmappedAccess who true off len) s = .next t ∧
        t = { s with d := { s.d with regs := t.d.regs, ch := { s.d.ch with cnt := t.d.ch.cnt } } } ∧
        (early → keepsRegs s.d t.d [.ST_MBOX_STATUS] ∧
          t.d.getF F.ST_MBOX_STATUS.REJECT 0 = min (s.d.getF F.ST_MBOX_STATUS.REJECT 0 + 1) (2 ^ F.ST_MBOX_STATUS.REJECT.width - 1)) ∧
        (¬ early → t.d.regs = s.d.regs) ∧ ∀ n, Tab.get 0 t.d.ch.cnt n = Tab.get 0 s.d.ch.cnt n + if n = 59 then 1 else 0)) ∧
    (∀ r i w, ¬ early → len = 8 → off.toNat % 8 = 0 → Reg.decode off.toNat = some (r, i, w) → r.writable = false → s.env.hasElem s.d r i = true →
      exec (.bar0UnmappedAccess who true off len) s = .next { s with d := s.d.count 59 1 })

/-- The board controller's port (R486): a read of ST_BOOT shows the start-up phase and one of ST_ID the build; an
offset that no register occupies reads 0 and discards a write, counted in always-on counter 59; a write of ST_PWR_LIMIT sets DIE_LIMIT_W alone; it has a dynamic address.
The test access port (R341, R360, R362, R385, R487): IDCODE shifts out the identification; a challenge is presented once, and a response that
verifies under the debug key in PROVISIONED authorises debug, any other counts a failure; DBG_ACCESS reaches BAR0 while debug is not CLOSED, and memory in BLANK
and TEST; LC_REQ and INJECT act in the states that permit them; BYPASS and a reset of the port change its instruction alone.
Log entries 27, 28, 29, 52 (the model's own choices). -/
def Obligations.BoardAndTestPortsReachTheirSubsets : Prop :=
  (∀ (s : State) (off : BitVec 26) (v : Word), s.d.bt.pwrGood = true →
      (∀ i w, Reg.decode off.toNat = some (.ST_BOOT, i, w) →
        exec (.bmcRead off) s = .next { s with d := s.d.send (.busRead (BitVec.ofNat 64 s.d.phase)) }) ∧
      (∀ i w, Reg.decode off.toNat = some (.ST_ID, i, w) → exec (.bmcRead off) s = .next { s with d := s.d.send (.busRead s.env.idWord) }) ∧
      (Reg.decode off.toNat = none →
        exec (.bmcRead off) s = .next { s with d := (s.d.count 59 1).send (.busRead 0) } ∧
        exec (.bmcWrite off v) s = .next { s with d := s.d.count 59 1 }) ∧
      (∀ i w, Reg.decode off.toNat = some (.ST_PWR_LIMIT, i, w) →
        ∃ t, exec (.bmcWrite off v) s = .next t ∧ t.d.getF F.ST_PWR_LIMIT.DIE_LIMIT_W 0 = fieldOf v 0 16 ∧
          t.d.getF F.ST_PWR_LIMIT.TURRIL_LIMIT_W 0 = s.d.getF F.ST_PWR_LIMIT.TURRIL_LIMIT_W 0 ∧ onlyRegs s t [.ST_PWR_LIMIT])) ∧
  (∀ (s : State) (a : BitVec 7), s.d.bt.pwrGood = true →
    exec (.dynamicAddress a) s = .next { s with d := { s.d with bt := { s.d.bt with bmcAddr := a.toNat } } }) ∧
  (∀ (s : State), s.d.bt.pwrGood = true →
    let ir := fun n : Nat => ({ s.d with bt := { s.d.bt with tapIr := n } } : Die)
    (exec .idcode s = .next { s with d := (ir 1).send (.tdo s.env.idcode) } ∧ s.env.idcode % 2 = 1 ∧
      s.env.idcode = s.env.stepping % 16 * 2 ^ 28 + 0x7A06 * 2 ^ 12 + fieldOf (Tab.get 0 s.env.otp 39) 0 11 * 2 + 1) ∧
    (∃ t x, exec .dbgChallenge s = .next t ∧ x < 2 ^ 256 ∧ t.d.se = { s.d.se with chal := some (bytesLE 32 x) } ∧ t.d.out = Msg.tdo x :: s.d.out ∧
      t.d.bt = (ir 8).bt ∧ t.d.regs = s.d.regs ∧ t.d.mem = s.d.mem ∧ t.env = s.env) ∧
    (∀ sig key : BitVec 768,
      let pub := bytesOf 96 key.toNat
      let good := s.d.lcState = 2 ∧ sha384 pub = s.env.debugHash ∧
        ∃ c, s.d.se.chal = some c ∧ ecdsaVerify pub (bytesOf 96 sig.toNat) (sha384 (c.map BitVec.toNat ++ s.env.serial)) = true
      (good → ∃ t, exec (.dbgResponse sig key) s = .next t ∧ t = { s with d := { ir 9 with se := { s.d.se with chal := none, auth := true } } }) ∧
      (¬ good → ∃ t, exec (.dbgResponse sig key) s = .next t ∧ t.d.se = { s.d.se with chal := none } ∧
        t.d.getF F.TS_DEBUG.FAILS 0 = min (s.d.getF F.TS_DEBUG.FAILS 0 + 1) 65535 ∧ keepsRegs s.d t.d [.TS_DEBUG] ∧ t.d.mem = s.d.mem ∧ t.env = s.env)) ∧
    (∀ (mem : Bool) (a : BitVec 64) (v : Word),
      ((s.d.debugState = 0 ∨ (mem = true ∧ 1 < s.d.lcState)) →
        exec (.dbgAccess false mem a v) s = .next { s with d := (ir 0xA).send (.tdo 0) } ∧ exec (.dbgAccess true mem a v) s = .next { s with d := ir 0xA }) ∧
      (s.d.debugState ≠ 0 →
        (∃ d : Die, exec (.dbgAccess false false a v) s = .next { s with d := d.send (.tdo (numLE (((ir 0xA).bar0Read s.env .tap a.toNat 8).1.getD []))) } ∧
          d = ((ir 0xA).bar0Read s.env .tap a.toNat 8).2) ∧
        (∃ t, exec (.dbgAccess true false a v) s = .next t ∧ .next t = State.bar0Write { s with d := ir 0xA } .tap a.toNat (bytesLE 8 v.toNat)) ∧
        (s.d.lcState ≤ 1 → ∀ wr, ∃ q d, exec (.dbgAccess wr true a v) s = .next { s with d := Die.pump s.env d } ∧ d.bt.inq = s.d.bt.inq ++ [(s.d.nid, q)] ∧
          q.addr = a ∧ q.wr = wr ∧ q.len = 8 ∧ q.data = (if wr then bytesLE 8 v.toNat else []) ∧ d.mem = s.d.mem ∧ d.regs = s.d.regs))) ∧
    (∀ v : Word, (s.d.phase ≠ 0 → s.d.lcState ≤ 1 → exec (.lcReq v) s = .next { s with d := (ir 0xB).lcRequest v }) ∧
      (s.d.phase = 0 ∨ 1 < s.d.lcState → exec (.lcReq v) s = .next { s with d := (ir 0xB).badAccess })) ∧
    (∀ v line : Word, (s.d.lcState = 1 → ∃ d : Die, exec (.inject v line) s = .next { s with d := d.inject s.env v } ∧
        d.getF F.AY_INJECT_ADDR.LINE 0 = fieldOf line 7 43 ∧ keepsRegs s.d d [.AY_INJECT_ADDR] ∧ d.mem = s.d.mem) ∧
      (s.d.lcState ≠ 1 → exec (.inject v line) s = .next { s with d := (ir 0xC).badAccess })) ∧
    (∀ code : BitVec 4, (code = 0 ∨ code = 15) → exec (.bypass code) s = .next { s with d := ir code.toNat }) ∧
    exec .tapReset s = .next { s with d := ir 1 }) ∧
  (∀ s : State, s.d.bt.pwrGood = false → ∀ row ∈ ([.idcode, .dbgChallenge, .tapReset, .bypass 15, .dynamicAddress 8] : List Instr), exec row s = .next s)
/-! ### Regions asleep and awake (chapter 1) -/

/-- GATING_START: a RUNNING region whose policy is automatic, that has been idle for IDLE_TICKS ticks and holds no work and no
entered message, goes to GATING in step 1 (R38, R39); any other region stays as it is.
Log entries 1, 19 (the model's own choices). -/
def Obligations.GatingStartsOnlyFromAnIdleRunningRegion : Prop :=
  ∀ (s : State) (r : BitVec 3),
    let n := r.toNat
    let p := s.d.power n
    let due := s.d.bt.pwrGood = true ∧ s.env.hasRegion n = true ∧ s.d.powerState n = 2 ∧ s.d.getF F.ST_REGION_CTL.GATE_POLICY n = 0 ∧
      p.busy = false ∧ s.d.occupied s.env n = false ∧ max 1 (s.d.getF F.ST_REGION_CTL.IDLE_TICKS n) ≤ p.idle
    (due → ∃ t, exec (.gatingStart r) s = .next t ∧ t.d.powerState n = 3 ∧ (t.d.power n).step = 1 ∧ (t.d.power n).left = s.env.now ∧
      t.d.getF F.ST_REGION_STATUS.WAKE_COUNT n = s.d.getF F.ST_REGION_STATUS.WAKE_COUNT n ∧
      keepsRegs s.d t.d [.ST_REGION_STATUS] ∧
      t = { s with d := { s.d with regs := t.d.regs, bt := { s.d.bt with powers := t.d.bt.powers } } }) ∧
    (¬ due → exec (.gatingStart r) s = .next s)

/-- GATING_STEP_DONE ends a step of GATING (R39): step 1 is followed by the flush of the region's lines, and step 2
goes on once that flush has ended and no tag line of the region is cached; step 3 by self-refresh of its stack, step 4 by the loss of the region's
translations and stride detectors and of its time stamp's FINE quality.
Log entries 1, 21 (the model's own choices). -/
def Obligations.GatingStepsFollowInOrder : Prop :=
  ∀ (s : State) (r : BitVec 3), s.d.powerState r.toNat = 3 →
    let n := r.toNat
    ((s.d.power n).step = 1 → exec (.gatingStepDone r) s =
      .next { s with d := (s.d.setPower n { s.d.power n with step := 2 }).startFlush s.env (.all n) (.gating n) }) ∧
    ((s.d.power n).step = 2 → s.d.flushRuns (.gating n) = true → exec (.gatingStepDone r) s = .next s) ∧
    ((s.d.power n).step = 2 → s.d.flushRuns (.gating n) = false → s.d.mem.tagsOf n = [] →
      exec (.gatingStepDone r) s = .next { s with d := s.d.setPower n { s.d.power n with step := 3 } }) ∧
    ((s.d.power n).step = 3 → n ∉ s.d.mem.retr →
      ∃ t, exec (.gatingStepDone r) s = .next t ∧ (t.d.power n).step = 4 ∧ n ∈ t.d.mem.selfRef ∧ t.env = s.env) ∧
    ((s.d.power n).step = 4 →
      ∃ t, exec (.gatingStepDone r) s = .next t ∧ (t.d.power n).step = 5 ∧ (∀ x ∈ t.d.stu.caches, x.cache ≠ n) ∧
        (∀ x ∈ t.d.coh.strides, x.1 / 128 ≠ n) ∧ t.d.getF F.ST_REGION_STATUS.TIME_FINE n = 0 ∧ t.d.powerState n = 3 ∧
        t.d.mem = s.d.mem ∧ t.env = s.env)

/-- RPS_ON_ACK_FALL in step 5 makes the region GATED, or WAKING where a trigger waited (R40); RPS_ON_ACK_RISE while WAKING
releases isolation with its time stamp COARSE; neither does anything in RUNNING.
REGION_RUNNING: a WAKING region whose supply has been acknowledged reaches RUNNING, at the lower of its target clock and its
cap (R26), its stack out of self-refresh; what waited for it then goes on.
Log entry 1 (the model's own choices). -/
def Obligations.SupplyAcknowledgesAndLocksMoveTheRegion : Prop :=
  (∀ (s : State) (r : BitVec 3),
    let n := r.toNat
    let p := s.d.power n
    (s.d.powerState n = 3 → p.step = 5 → p.wake = false →
      ∃ t, exec (.rpsOnAckFall r) s = .next t ∧ t.d.powerState n = 0 ∧ (t.d.power n).step = 0 ∧ keepsRegs s.d t.d [.ST_REGION_STATUS] ∧
        t = { s with d := { s.d with regs := t.d.regs, bt := { s.d.bt with powers := t.d.bt.powers } } }) ∧
    (s.d.powerState n = 3 → p.step = 5 → p.wake = true →
      ∃ t, exec (.rpsOnAckFall r) s = .next t ∧ t.d.powerState n = 1 ∧ t.d.mem = s.d.mem ∧ t.d.coh = s.d.coh ∧ t.env = s.env) ∧
    (s.d.powerState n = 1 → p.ack = false →
      ∃ t, exec (.rpsOnAckRise r) s = .next t ∧ t.d.powerState n = 1 ∧ (t.d.power n).ack = true ∧
        t.d.getF F.ST_REGION_STATUS.TIME_FINE n = 0 ∧ keepsRegs s.d t.d [.ST_REGION_STATUS] ∧
        t = { s with d := { s.d with regs := t.d.regs, bt := { s.d.bt with powers := t.d.bt.powers } } }) ∧
    (s.d.powerState n = 2 → exec (.rpsOnAckFall r) s = .next s ∧ exec (.rpsOnAckRise r) s = .next s)) ∧
  (∀ (s : State) (r : BitVec 3), s.d.powerState r.toNat = 1 → (s.d.power r.toNat).ack = true →
    ∃ d : Die, exec (.regionRunning r) s = .next { s with d := d.pump s.env } ∧ d.powerState r.toNat = 2 ∧ r.toNat ∉ d.mem.selfRef ∧
      d.mem.dram = s.d.mem.dram ∧ keepsRegs s.d d [.ST_REGION_STATUS] ∧
      d.getF F.ST_REGION_STATUS.FREQ_NOW r.toNat =
        min (max 80 (min 220 (s.d.getF F.ST_REGION_CTL.FREQ_CODE r.toNat))) (s.d.getF F.ST_PWR_DOM.CAP r.toNat) % 256)

/-- INTERPOLATOR_LOCK sets TIME_FINE of a domain whose clock runs (R433), and nothing else changes; REGION_PWR reports a region
that has been WAKING for 50 us or more, once, as cause 0x0703 of class DIE (Table 12.1). ST_REGION_CTL_WRITE (R26, R41): the
register takes the value; a FREQ_CODE outside 80 to 220 sets FREQ_CLAMP; a GATED region whose policy leaves 0 wakes, and FREQ_NOW
follows at the next tick edge alone.
Log entries 1, 22 (the model's own choices). -/
def Obligations.RegionsTakeLocksLateWakesAndControlWrites : Prop :=
  (∀ (s : State), s.d.bt.pwrGood = true →
      (∃ t, exec (.interpolatorLock 8) s = .next t ∧ t.d.getF F.ST_REGION_STATUS.TIME_FINE 8 = 1 ∧ onlyRegs s t [.ST_REGION_STATUS] ∧
        ∀ j, j ≠ 8 → t.d.reg .ST_REGION_STATUS j 0 = s.d.reg .ST_REGION_STATUS j 0) ∧
      (∀ n : BitVec 4, n.toNat < s.env.regions → n.toNat < 8 → s.d.powerState n.toNat = 2 → (s.d.power n.toNat).step < 5 →
        ∃ t, exec (.interpolatorLock n) s = .next t ∧ t.d.getF F.ST_REGION_STATUS.TIME_FINE n.toNat = 1 ∧ onlyRegs s t [.ST_REGION_STATUS]) ∧
      (∀ n : BitVec 4, s.env.regions ≤ n.toNat → n.toNat ≠ 8 → exec (.interpolatorLock n) s = .next s) ∧
      (∀ r : BitVec 3, s.d.powerState r.toNat = 1 → (s.d.power r.toNat).at_ + 50000 ≤ s.env.now → s.d.bit F.AY_STATUS.HANDLING 0 = false →
        s.d.reported Cs.REGION_PWR r.toNat = false →
        ∃ t x, exec (.regionPwr r) s = .next t ∧
          (t.d.ay.waiting = s.d.ay.waiting ++ [x] ∧ t.d.ay.held = s.d.ay.held ∨ t.d.ay.waiting = s.d.ay.waiting ∧ t.d.ay.held = s.d.ay.held ++ [x]) ∧ (causeRow x.cause).code = 0x0703 ∧
          repClass x = 3 ∧ x.inst = r.toNat ∧ x.time = s.env.now ∧ keepsRegs s.d t.d [.AY_STATUS]) ∧
      (∀ r : BitVec 3, s.env.now < (s.d.power r.toNat).at_ + 50000 → exec (.regionPwr r) s = .next s)) ∧
  (∀ (s : State) (who : Who) (n : BitVec 4) (v : Word), n.toNat < 9 → s.d.barGate s.env who .ST_REGION_CTL n.toNat = none →
      ∃ t, exec (.stRegionCtlWrite who n v) s = .next t ∧
        t.d.getF F.ST_REGION_CTL.GATE_POLICY n.toNat = fieldOf v 0 2 ∧ t.d.getF F.ST_REGION_CTL.FREQ_CODE n.toNat = fieldOf v 8 8 ∧
        t.d.getF F.ST_REGION_CTL.IDLE_TICKS n.toNat = fieldOf v 16 8 ∧
        ((fieldOf v 8 8 < 80 ∨ 220 < fieldOf v 8 8) → t.d.getF F.ST_REGION_STATUS.FREQ_CLAMP n.toNat = 1) ∧
        (n.toNat < 8 → s.d.getF F.ST_REGION_CTL.GATE_POLICY n.toNat = 0 → fieldOf v 0 2 ≠ 0 → s.d.powerState n.toNat = 0 →
          t.d.powerState n.toNat = 1) ∧
        t.d.getF F.ST_REGION_STATUS.FREQ_NOW n.toNat = s.d.getF F.ST_REGION_STATUS.FREQ_NOW n.toNat ∧
        keepsRegs s.d t.d [.ST_REGION_CTL, .ST_REGION_STATUS] ∧ t.d.mem.dram = s.d.mem.dram ∧ t.env = s.env)

/-! ### Doorbells, contexts, rings and slots (chapter 2) -/

/-- DOORBELL (R50, R51): a 64-bit write to the slot of an enabled ring of a usable context by a requester that owns the page moves
TAIL to its value where it exceeds neither HEAD nor TAIL by more than the ring's size; any other write of such a requester is
discarded and counted in DB_REJECT, and so is one by an identity of another slice. -/
def Obligations.DoorbellMovesTailOrIsDiscarded : Prop :=
  ∀ (s : State) (who : Who) (off : BitVec 24) (len : BitVec 7) (v : Word),
    let c := off.toNat / 4096
    let owns := s.d.resolve who = .privileged ∨ ∃ sl, s.d.resolve who = .slice sl ∧ s.d.isKernelCtx c = false ∧ s.d.ctxSlice c = sl ∧ s.d.ctxValid c = true
    let fits := fun n => v.toNat < 2 ^ 32 ∧ (v.toNat + 2 ^ 32 - s.d.head n) % 2 ^ 32 ≤ 2 ^ s.d.getF F.SF_RING_CTL.LOG2_SIZE n ∧
      (v.toNat + 2 ^ 32 - s.d.tail n) % 2 ^ 32 ≤ 2 ^ s.d.getF F.SF_RING_CTL.LOG2_SIZE n ∧ s.d.usable c = true ∧ s.d.ctxState c ≠ 5
    let discarded : Die := (s.d.incSat F.SF_STATUS.DB_REJECT 0 1).count 60 1
    5 ≤ s.d.phase →
    (∀ n, len = 8 → off.toNat % 8 = 0 → owns → s.d.ringAt c (off.toNat % 4096 / 8) = some n → fits n →
      ∃ t, exec (.doorbell who off len v) s = .next t ∧ t.d.tail n = v.toNat ∧ t.d.head n = s.d.head n ∧
        keepsRegs s.d t.d [.SF_RING_STATUS, .SF_CTX_STATUS, .ST_REGION_STATUS] ∧ t.d.sf = s.d.sf ∧ t.d.mem.dram = s.d.mem.dram ∧ t.env = s.env) ∧
    (∀ n, len = 8 → off.toNat % 8 = 0 → owns → s.d.ringAt c (off.toNat % 4096 / 8) = some n → ¬ fits n →
      exec (.doorbell who off len v) s = .next { s with d := discarded }) ∧
    (owns → (len ≠ 8 ∨ off.toNat % 8 ≠ 0 ∨ s.d.ringAt c (off.toNat % 4096 / 8) = none) →
      exec (.doorbell who off len v) s = .next { s with d := discarded }) ∧
    (s.d.resolve who ≠ .unbound → ¬ owns → exec (.doorbell who off len v) s = .next { s with d := discarded })

/-- CTX_CFG_WRITE (R45): while the context is IDLE with no enabled ring, or ABORTED, SF_CTX_CFG or SF_CTX_ERR takes the written
fields, and a context that becomes valid has its Ledger at 0; at any other time the write is ignored and counted, and so is one while a teardown
of the context is under way.
Log entry 90 (the model's own choice). -/
def Obligations.ContextSetUpWritesOnlyWhileSettable : Prop :=
  ∀ (s : State) (who : Who) (c : BitVec 12) (v : Word),
    let settable := ((s.d.ctxState c.toNat = 0 ∧ s.d.ringsOf c.toNat = []) ∨ s.d.ctxState c.toNat = 5) ∧ s.d.tearing c.toNat = false
    (s.d.barGate s.env who .SF_CTX_CFG c.toNat = none → settable →
      ∃ t, exec (.ctxCfgWrite who false c v) s = .next t ∧ t.d.ctxSlice c.toNat = fieldOf v 0 9 ∧
        t.d.getF F.SF_CTX_CFG.VALID c.toNat = fieldOf v 9 1 ∧ t.d.getF F.SF_CTX_CFG.KERNEL c.toNat = fieldOf v 10 1 ∧
        t.d.getF F.SF_CTX_CFG.DIAG c.toNat = fieldOf v 11 1 ∧ t.d.getF F.SF_CTX_CFG.FAULT_POLICY c.toNat = fieldOf v 12 2 ∧
        (s.d.ctxValid c.toNat = false → fieldOf v 9 1 = 1 →
          t.d.getF F.TY_LEDGER_CLUSTER.CLUSTER_NS c.toNat = 0 ∧ t.d.getF F.TY_LEDGER_ENGINE.ENGINE_NS c.toNat = 0) ∧
        onlyRegs s t [.SF_CTX_CFG, .TY_LEDGER_CLUSTER, .TY_LEDGER_ENGINE, .AY_CTX_REC, .WE_WERR]) ∧
    (s.d.barGate s.env who .SF_CTX_ERR c.toNat = none → settable →
      ∃ t, exec (.ctxCfgWrite who true c v) s = .next t ∧ t.d.getF F.SF_CTX_ERR.LOC c.toNat = fieldOf v 0 1 ∧
        t.d.getF F.SF_CTX_ERR.ADDR c.toNat = fieldOf v F.SF_CTX_ERR.ADDR.lo F.SF_CTX_ERR.ADDR.width ∧ onlyRegs s t [.SF_CTX_ERR]) ∧
    (∀ err, s.d.barGate s.env who (if err then .SF_CTX_ERR else .SF_CTX_CFG) c.toNat = none → ¬ settable →
      exec (.ctxCfgWrite who err c v) s = .next { s with d := s.d.reject F.SF_STATUS.CFG_REJECT 0 })

/-- CTX_RESET and CTX_ABORT (R46, R145). RESET: an ABORTED context goes to IDLE, every ring of it is disabled with HEAD and TAIL 0, and no ring of
another context changes; in any other state the action is ignored and counted. ABORT: in any state but ABORTED the teardown of the context starts, with
status CANCELLED: it is recorded, its epoch has advanced by 1, no cache holds a translation of it and no access of it is held; where one is under way
it goes on as it was (R147); the action is ignored and counted where the context is ABORTED. -/
def Obligations.ContextsAreResetAndAborted : Prop :=
  ∀ (s : State) (who : Who) (c : BitVec 12), s.d.barGate s.env who .SF_CTX_CTL c.toNat = none →
    (s.d.ctxState c.toNat = 5 → s.d.tearing c.toNat = false →
      ∃ t, exec (.ctxReset who c) s = .next t ∧ t.d.ctxState c.toNat = 0 ∧
        (∀ n, s.d.getF F.SF_RING_CTL.CONTEXT n = c.toNat → t.d.getF F.SF_RING_CTL.ENABLE n = 0 ∧ t.d.head n = 0 ∧ t.d.tail n = 0) ∧
        (∀ n, s.d.getF F.SF_RING_CTL.CONTEXT n ≠ c.toNat → t.d.reg .SF_RING_CTL n 0 = s.d.reg .SF_RING_CTL n 0 ∧ t.d.reg .SF_RING_STATUS n 0 = s.d.reg .SF_RING_STATUS n 0) ∧
        onlyRegs s t [.SF_RING_CTL, .SF_RING_STATUS, .SF_CTX_STATUS, .AY_CTX_REC, .WE_WERR]) ∧
    (s.d.ctxState c.toNat ≠ 5 → exec (.ctxReset who c) s = .next { s with d := s.d.reject F.SF_STATUS.CFG_REJECT 0 }) ∧
    (s.d.ctxState c.toNat ≠ 5 → s.d.tearing c.toNat = false →
      ∃ t, exec (.ctxAbort who c) s = .next t ∧ t.d.tearing c.toNat = true ∧
        (∃ x ∈ t.d.sf.tears, x.ctx = c.toNat ∧ x.status = St.CANCELLED) ∧
        t.d.getF F.STU_EPOCH.EPOCH c.toNat = (s.d.getF F.STU_EPOCH.EPOCH c.toNat + 1) % 2 ^ 16 ∧
        (∀ x ∈ t.d.stu.caches, x.ctx ≠ c.toNat) ∧ (∀ h ∈ t.d.stu.held, h.ctx ≠ c.toNat) ∧ t.d.mem.dram = s.d.mem.dram ∧ t.env = s.env) ∧
    (s.d.ctxState c.toNat ≠ 5 → s.d.tearing c.toNat = true → exec (.ctxAbort who c) s = .next s) ∧
    (s.d.ctxState c.toNat = 5 → exec (.ctxAbort who c) s = .next { s with d := s.d.reject F.SF_STATUS.CFG_REJECT 0 })

/-- RING_ENABLE and RING_DISABLE (R49): a disabled ring whose context is usable, of a legal size and a doorbell slot that no other
enabled ring of the context has, is enabled with HEAD and TAIL 0; a ring whose context is IDLE or ABORTED, or that is disabled,
takes a write that clears ENABLE, by either row; a rejected write changes nothing but the count. -/
def Obligations.RingsEnableAndDisableUnderTheirConditions : Prop :=
  ∀ (s : State) (who : Who) (n : BitVec 13) (v : Word), s.d.barGate s.env who .SF_RING_CTL n.toNat = none →
    let c := fieldOf v 16 12
    let ok := s.d.getF F.SF_RING_CTL.ENABLE n.toNat = 0 ∧ s.d.usable c = true ∧ 6 ≤ fieldOf v 0 5 ∧ fieldOf v 0 5 ≤ 16 ∧
      ∀ m ∈ s.d.ringsOf c, m ≠ n.toNat → s.d.getF F.SF_RING_CTL.DB_INDEX m ≠ fieldOf v 7 9
    let c0 := s.d.ctxState (s.d.getF F.SF_RING_CTL.CONTEXT n.toNat)
    (fieldOf v 6 1 = 1 → ok →
      ∃ t, exec (.ringEnable who n v) s = .next t ∧ t.d.getF F.SF_RING_CTL.ENABLE n.toNat = 1 ∧ t.d.getF F.SF_RING_CTL.CONTEXT n.toNat = c ∧
        t.d.getF F.SF_RING_CTL.LOG2_SIZE n.toNat = fieldOf v 0 5 ∧ t.d.getF F.SF_RING_CTL.VERSION n.toNat = fieldOf v 5 1 ∧
        t.d.getF F.SF_RING_CTL.DB_INDEX n.toNat = fieldOf v 7 9 ∧ t.d.getF F.SF_RING_CTL.MSIX_VECTOR n.toNat = fieldOf v 32 11 ∧
        t.d.head n.toNat = 0 ∧ t.d.tail n.toNat = 0 ∧ keepsRegs s.d t.d [.SF_RING_CTL, .SF_RING_STATUS, .TY_RING_DL] ∧
        t = { s with d := { s.d with regs := t.d.regs, sf := { s.d.sf with rings := t.d.sf.rings } } }) ∧
    (fieldOf v 6 1 = 1 → ¬ ok → exec (.ringEnable who n v) s = .next { s with d := s.d.reject F.SF_STATUS.CFG_REJECT 0 }) ∧
    (fieldOf v 6 1 = 0 → exec (.ringEnable who n v) s = exec (.ringDisable who n v) s) ∧
    ((s.d.getF F.SF_RING_CTL.ENABLE n.toNat = 0 ∨ c0 = 0 ∨ c0 = 5) →
      ∃ t, exec (.ringDisable who n v) s = .next t ∧ t.d.getF F.SF_RING_CTL.ENABLE n.toNat = 0 ∧
        t.d.getF F.SF_RING_CTL.CONTEXT n.toNat = c ∧ t.d.getF F.SF_RING_CTL.LOG2_SIZE n.toNat = fieldOf v 0 5 ∧ onlyRegs s t [.SF_RING_CTL]) ∧
    (¬ (s.d.getF F.SF_RING_CTL.ENABLE n.toNat = 0 ∨ c0 = 0 ∨ c0 = 5) →
      exec (.ringDisable who n v) s = .next { s with d := s.d.reject F.SF_STATUS.CFG_REJECT 0 })

/-- Element `i` of register `r` takes the RW fields of `v` where `ok` holds, and nothing but a bucket brought up to date changes with
it; where it does not, the write is ignored and counted in `rej`. -/
def guardedWrite (i : Instr) (s : State) (ok : Prop) (r : Reg) (el : Nat) (v : Word) (rej : Fld) (ri : Nat) : Prop :=
  (ok → ∃ t, exec i s = .next t ∧ (∀ f ∈ r.fields, f.acc = .RW → t.d.getF f el = fieldOf v f.lo f.width) ∧
    (∀ j, j ≠ el → t.d.reg r j 0 = s.d.reg r j 0) ∧ keepsRegs s.d t.d [r] ∧
    t = { s with d := { s.d with regs := t.d.regs, mem := { s.d.mem with buckets := t.d.mem.buckets } } }) ∧
  (¬ ok → exec i s = .next { s with d := s.d.reject rej ri })

/-- The set-up registers that their chapters guard: SM_SLICE_ACLASS (R81), WE_LBW (R183), MC_SBW (R264), CR_SEED (R330), CH_VIS and
CH_WATCH_MASK (R422) only while the slice is BUILDING or DISABLED, the guaranteed rates of a controller within its limit and a
watch with one slice alone, and after a write of WE_LBW what its new rates let leave goes; STU_CTX_SEGTAB under R45's conditions (R152), and not while a teardown of the context is under way.
SLOT_QUOTA_WRITE (R58): MIN and MAX are taken where MIN is at most MAX and the sum of MIN over all slices at most 2,048; else
QUOTA_ERR is set and nothing else changes, but that the set bit is an event of this cycle (R11).
Log entry 90 (the model's own choice). -/
def Obligations.GuardedSetUpWritesNeedTheirConditions : Prop :=
  (∀ (s : State) (who : Who) (sl : BitVec 9) (c : BitVec 12) (n : BitVec 3) (v : Word),
      (s.d.barGate s.env who .SM_SLICE_ACLASS sl.toNat = none →
        guardedWrite (.aclassWrite who sl v) s (s.d.settable sl.toNat = true) .SM_SLICE_ACLASS sl.toNat v F.SM_STATUS.CFG_REJECT 0) ∧
      (s.d.barGate s.env who .STU_CTX_SEGTAB c.toNat = none →
        guardedWrite (.segtabWrite who c v) s
          (((s.d.ctxState c.toNat = 0 ∧ s.d.ringsOf c.toNat = []) ∨ s.d.ctxState c.toNat = 5) ∧ s.d.tearing c.toNat = false) .STU_CTX_SEGTAB c.toNat v F.STU_STATUS.CFG_REJECT 0) ∧
      (s.d.barGate s.env who .WE_LBW sl.toNat = none →
        (s.d.settable sl.toNat = true → ∃ d₁ : Die, exec (.weLbwWrite who sl v) s = .next { s with d := d₁.winPump s.env } ∧
          (∀ f ∈ Reg.WE_LBW.fields, f.acc = .RW → d₁.getF f sl.toNat = fieldOf v f.lo f.width) ∧
          (∀ j, j ≠ sl.toNat → d₁.reg .WE_LBW j 0 = s.d.reg .WE_LBW j 0) ∧ keepsRegs s.d d₁ [.WE_LBW] ∧
          d₁ = { s.d with regs := d₁.regs, we := { s.d.we with lbw := d₁.we.lbw } }) ∧
        (s.d.settable sl.toNat = false → exec (.weLbwWrite who sl v) s = .next { s with d := s.d.reject F.WE_STATUS.CFG_REJECT 0 })) ∧
      (s.d.barGate s.env who .MC_SBW (512 * n.toNat + sl.toNat) = none →
        guardedWrite (.mcSbwWrite who n sl v) s
          (s.d.settable sl.toNat = true ∧ s.d.guarSum n.toNat sl.toNat + fieldOf v 0 16 ≤ s.d.getF F.MC_CFG.GUAR_LIMIT_GBPS n.toNat)
          .MC_SBW (512 * n.toNat + sl.toNat) v F.MC_STATUS.CFG_REJECT n.toNat) ∧
      (s.d.barGate s.env who .CR_SEED sl.toNat = none →
        guardedWrite (.crSeedWrite who sl v) s (s.d.settable sl.toNat = true) .CR_SEED sl.toNat v F.CR_STATUS.CFG_REJECT 0) ∧
      (s.d.barGate s.env who .CH_VIS sl.toNat = none →
        guardedWrite (.chVisWrite who false sl v) s (s.d.settable sl.toNat = true) .CH_VIS sl.toNat v F.CH_STATUS.CFG_REJECT 0) ∧
      (s.d.barGate s.env who .CH_WATCH_MASK sl.toNat = none →
        guardedWrite (.chVisWrite who true sl v) s
          (s.d.settable sl.toNat = true ∧ ∀ t < 512, t ≠ sl.toNat → s.d.reg .CH_WATCH_MASK t 0 &&& v = 0)
          .CH_WATCH_MASK sl.toNat v F.CH_STATUS.CFG_REJECT 0)) ∧
  (∀ (s : State) (who : Who) (sl : BitVec 9) (v : Word), s.d.barGate s.env who .SF_SLOT_QUOTA sl.toNat = none →
      let sum := ((List.range 512).map (fun t => if t = sl.toNat then fieldOf v 0 12 else s.d.getF F.SF_SLOT_QUOTA.MIN t)).sum
      let ok := sum ≤ 2048 ∧ fieldOf v 0 12 ≤ fieldOf v 16 12
      (ok → ∃ t, exec (.slotQuotaWrite who sl v) s = .next t ∧ t.d.getF F.SF_SLOT_QUOTA.MIN sl.toNat = fieldOf v 0 12 ∧
        t.d.getF F.SF_SLOT_QUOTA.MAX sl.toNat = fieldOf v 16 12 ∧
        t.d.getF F.SF_SLOT_QUOTA.IN_USE sl.toNat = s.d.getF F.SF_SLOT_QUOTA.IN_USE sl.toNat ∧ onlyRegs s t [.SF_SLOT_QUOTA]) ∧
      (¬ ok → ∃ t, exec (.slotQuotaWrite who sl v) s = .next t ∧ t.d.getF F.SF_STATUS.QUOTA_ERR 0 = 1 ∧
        t.d.getF F.SF_STATUS.FREE_SLOTS 0 = s.d.getF F.SF_STATUS.FREE_SLOTS 0 ∧ keepsRegs s.d t.d [.SF_STATUS] ∧
        t = { s with d := { s.d with regs := t.d.regs, rose := (Reg.SF_STATUS.ctorIdx, 0, F.SF_STATUS.QUOTA_ERR.lo) :: s.d.rose } }))

/-! ### Commands that Shopfront fetches, runs itself and completes (chapter 2) -/

/-- DESCRIPTOR_FETCH (R48, R53, R61, R69): with no list of the ring open, a ring that may be fetched from and whose turn it is reads the
descriptor at HEAD; once its bytes are there HEAD has risen by 1 and the command stands, read and not started; with a list open
the next entry of the list is read in the same way, and HEAD stays.
Log entries 1, 8, 64 (the model's own choices). -/
def Obligations.DescriptorFetchTakesTheNextDescriptor : Prop :=
  ∀ (s : State) (n : BitVec 13) (b : List Byte) (d : Die),
    let k := n.toNat
    let c := s.d.getF F.SF_RING_CTL.CONTEXT k
    let q := s.d.head k
    let turned : Die := if (s.d.ringRt k).asked then s.d else { s.d.ringAsked k true with sf.lastRing := k }
    (s.d.openList k = none → k ∈ s.d.fetchable → ((s.d.ringRt k).asked = true ∨ s.d.turn k = true) →
      attempt s.env turned (.ring k) (s.d.ringRead k) = .ok b d →
      fetchCheck s.env (((d.setF F.SF_RING_STATUS.HEAD k (q + 1)).slotAdd c true).bit F.SF_RING_CTL.VERSION k)
        (((d.setF F.SF_RING_STATUS.HEAD k (q + 1)).slotAdd c true).isPriv s.env k) 0 (BitVec.ofNat 512 (numLE b)) = none →
      ∃ t, exec (.descriptorFetch n) s = .next t ∧ t.d.head k = (q + 1) % 2 ^ 32 ∧
        t.d.sf.cmds = d.sf.cmds ++ [{ id := d.nid, ring := k, ctx := c, seq := q, desc := BitVec.ofNat 512 (numLE b) }] ∧ t.env = s.env) ∧
    (s.d.openList k = none → k ∉ s.d.fetchable → exec (.descriptorFetch n) s = .next s) ∧
    (∀ l, s.d.openList k = some l → s.d.runs l.ctx = true → s.d.tearing l.ctx = false →
      (∀ h ∈ s.d.stu.held, h.cmd ≠ some l.id) →
      attempt s.env s.d (.cmd l.id) (readPtr l.src Ac.list l.list (64 * l.next) 64) = .ok b d →
      fetchCheck s.env true (({ (d.setCmd { l with next := l.next + 1 }).count 3857 1 with nid := d.nid + 1 } : Die).isPriv s.env l.ring) (l.depth + 1)
        (BitVec.ofNat 512 (numLE b)) = none →
      ∃ t, exec (.descriptorFetch n) s = .next t ∧ t.d.head k = d.head k ∧
        t.d.sf.cmds = (d.setCmd { l with next := l.next + 1 }).sf.cmds ++
          [{ id := d.nid, ring := l.ring, ctx := l.ctx, seq := l.seq, depth := l.depth + 1, parent := some l.id, off := 64 * l.next,
             desc := BitVec.ofNat 512 (numLE b) }] ∧ t.env = s.env)

/-- COMMAND_COMPLETE (R66, R67): a command whose work is done leaves; where it asks for a record, only after its record has been written,
and with its MSI-X message where it asks for one; a command that leaves stands no more, and one of a ring itself gives its slot back. A record that
waits keeps the command; one that is refused tears the context down (R68). Until its work is done, and while its context is torn down, nothing happens.
Log entries 1, 8 (the model's own choices). -/
def Obligations.CommandCompleteWritesTheRecordFirst : Prop :=
  ∀ (s : State) (id : Nat) (c : Cmd), s.d.cmd id = some c →
    (c.st = .done → s.d.tearing c.ctx = false → s.d.winBusy (.cmd id) = false → (c.cpl = false ∨ c.bypass = true) →
      exec (.commandComplete id) s = .next { s with d := s.d.retire s.env c }) ∧
    (∀ d, c.st = .done → s.d.tearing c.ctx = false → s.d.winBusy (.cmd id) = false → c.cpl = true → c.bypass = false →
      attempt s.env s.d (.cmd id) (writeRecord c c.status c.result (.cmd id)) = .ok () d →
      exec (.commandComplete id) s = .next { s with d := (if c.irq then d.ringIrq s.env c.ring else d).retire s.env c }) ∧
    (∀ d, c.st = .done → s.d.tearing c.ctx = false → s.d.winBusy (.cmd id) = false → c.cpl = true → c.bypass = false →
      attempt s.env s.d (.cmd id) (writeRecord c c.status c.result (.cmd id)) = .wait d → exec (.commandComplete id) s = .next { s with d := d }) ∧
    (∀ st x d, c.st = .done → s.d.tearing c.ctx = false → s.d.winBusy (.cmd id) = false → c.cpl = true → c.bypass = false →
      attempt s.env s.d (.cmd id) (writeRecord c c.status c.result (.cmd id)) = .stop st x d →
      exec (.commandComplete id) s = .next { s with d := (d.dropCmd c).teardown s.env c.ctx st none (some (c.ring, d.head c.ring)) x }) ∧
    (∀ (e : Env) (d : Die), d.sm.fences = [] → (d.retire e c).cmd c.id = none ∧
      (c.parent = none → (d.retire e c).getF F.SF_STATUS.FREE_SLOTS 0 = (d.getF F.SF_STATUS.FREE_SLOTS 0 + 1) % 2 ^ F.SF_STATUS.FREE_SLOTS.width)) ∧
    ((c.st ≠ .done ∨ s.d.tearing c.ctx = true ∨ s.d.winBusy (.cmd id) = true) → exec (.commandComplete id) s = .next s)

/-- TEARDOWN_DRAINED (R145): nothing happens while something of the context is in flight; once all has drained and the records and the
error word are dealt with, the context is ABORTED and its teardown is over, and every ring that had work has sent its MSI-X message.
Log entries 1, 8 (the model's own choices). -/
def Obligations.DrainedTeardownAbortsTheContext : Prop :=
  ∀ (s : State) (c : BitVec 12) (t0 : Tear), s.d.sf.tears.find? (fun t => decide (t.ctx = c.toNat)) = some t0 →
    (s.d.ctxIdle c.toNat = false → exec (.teardownDrained c) s = .next s) ∧
    (∀ d, s.d.ctxIdle c.toNat = true →
      let named := ((t0.failed.bind s.d.cmd).map (fun x => (x.ring, x.seq))).getD (t0.named.getD (0, 0))
      attempt s.env s.d (.ctx c.toNat) (do
        tearRecords s.d c.toNat t0.failed t0.status
        tryLose (errorWord c.toNat t0.status 1 t0.secur named.1 named.2)) = .ok () d →
      ∃ t, exec (.teardownDrained c) s = .next t ∧ t.d.ctxState c.toNat = 5 ∧ t.d.tearing c.toNat = false ∧
        (∀ n ∈ s.d.workRings c.toNat, Msg.msix (d.hostId c.toNat) (d.getF F.SF_RING_CTL.MSIX_VECTOR n) ∈ t.d.out ++ t.d.bt.outq) ∧ t.env = s.env)

/-- NOP ends at once with status OK and RESULT 0; TIMESTAMP ends with die time as its RESULT once its write, if it names one, is made;
RETURN ends its list, and at the top of a ring is an error (R69); no other command changes.
Log entry 8 (the model's own choices). -/
def Obligations.NopTimestampAndReturnComplete : Prop :=
  ∀ (s : State) (id : Nat) (c : Cmd) (d : Die),
    (Acting s id Op.NOP c d → ∃ t, exec (.nop id) s = .next t ∧ t = actsTo s id c (d.finish id St.OK 0) ∧
      t.d.cmd id = some { c with st := .done, status := St.OK, result := 0 } ∧ (∀ j, j ≠ id → t.d.cmd j = d.cmd j)) ∧
    (∀ d', Acting s id Op.TIMESTAMP c d → d.tearing c.ctx = false → (∀ h ∈ d.stu.held, h.cmd ≠ some id) →
      attempt s.env d (.cmd id) (stampAct s.env c d) = .ok s.env.now d' →
      exec (.timestamp id) s = .next (actsTo s id c (d'.finish id St.OK s.env.now))) ∧
    (Acting s id Op.RETURN c d → c.depth ≠ 0 → ∃ t, exec (.ret id) s = .next t ∧ t = actsTo s id c (d.finish id St.OK 0) ∧
      t.d.cmd id = some { c with st := .done, status := St.OK, result := 0 }) ∧
    (Acting s id Op.RETURN c d → c.depth = 0 → exec (.ret id) s = .next (actsTo s id c (d.cmdFail s.env c St.RETURN_AT_TOP false)))

/-- A skipped command ends with status SKIPPED and RESULT 0 and uses up one of the skips before it; a bypassed one ends BYPASSED
(R71, R143); a command that may not start yet changes nothing.
Log entries 1, 64 (the model's own choices). -/
def Obligations.SkippedAndBypassedCommandsEndUnrun : Prop :=
  ∀ x ∈ ([(Instr.nop, Op.NOP), (.launch, Op.LAUNCH), (.launchIndirect, Op.LAUNCH_INDIRECT), (.copy, Op.COPY), (.fill, Op.FILL), (.gather, Op.GATHER)] :
      List ((Nat → Instr) × Nat)) ++
    ([(Instr.scatter, Op.SCATTER), (.reduce, Op.REDUCE), (.reduceScatter, Op.REDUCE_SCATTER), (.combine, Op.COMBINE), (.fenceSignal, Op.FENCE_SIGNAL),
      (.timestamp, Op.TIMESTAMP), (.predSkip, Op.PRED_SKIP), (.ret, Op.RETURN), (.yieldCmd, Op.YIELD), (.deadline, Op.DEADLINE), (.scrub, Op.SCRUB)] :
      List ((Nat → Instr) × Nat)),
    ∀ (s : State) (id : Nat) (c : Cmd), s.d.cmd id = some c → c.op = x.2 → c.st ≠ .running →
      (s.d.gate c = .skip → exec (x.1 id) s = .next { s with d := (s.d.useSkip c).endUnrun c St.SKIPPED }) ∧
      (s.d.gate c = .bypass → exec (x.1 id) s = .next { s with d := s.d.endUnrun c St.BYPASSED }) ∧
      (s.d.gate c = .no → exec (x.1 id) s = .next s)

/-- PRED_SKIP, SELECT and CALL_LIST (R69 to R71), once the word they compare has been read, by a read that allocates no line: a false comparison arms
COUNT skips and ends with RESULT 1; SELECT opens the list that its comparison chooses, and CALL_LIST its list, with the list of count 0 completing at once;
a CALL_LIST at depth 8 ends with CALL_DEPTH. The comparisons: equal, not equal, below, at least, and any bit in common.
Log entries 8, 89 (the model's own choices). -/
def Obligations.PredicatesAndListsChooseWhatRuns : Prop :=
  (∀ (s : State) (id : Nat) (c : Cmd) (d d' : Die) (w : Nat), d.tearing c.ctx = false → (∀ h ∈ d.stu.held, h.cmd ≠ some id) →
    (Acting s id Op.PRED_SKIP c d → attempt s.env d (.cmd id) (predWord c) = .ok w d' →
      exec (.predSkip id) s = .next (actsTo s id c (
        if cmpTrue (bitsOf c.arg0 0 3) w (c.q 16) then d'.finish id St.OK 0 else (d'.armSkip c (bitsOf c.arg0 8 8)).finish id St.OK 1))) ∧
    (Acting s id Op.SELECT c d → c.aux = 0 → c.depth < 8 → attempt s.env d (.cmd id) (predWord c) = .ok w d' →
      exec (.select id) s = .next (actsTo s id c (
        if cmpTrue (bitsOf c.arg0 0 3) w (c.q 16) then d'.openList_ c (c.p6 24) (c.w 40) 1 else d'.openList_ c (c.p6 32) (c.w 44) 0))) ∧
    (Acting s id Op.CALL_LIST c d → c.aux = 0 → c.depth < 8 → c.w 16 ≠ 0 →
      ∃ t x, exec (.callList id) s = .next t ∧ t.d.cmd id = some x ∧ x.list = c.p6 8 ∧ x.count = c.w 16 ∧ x.next = 0 ∧ x.closed = false ∧ x.st = c.st) ∧
    (Acting s id Op.CALL_LIST c d → c.aux = 0 → c.depth < 8 → c.w 16 = 0 →
      ∃ t, exec (.callList id) s = .next t ∧ t.d.cmd id = some { c with st := .done, status := St.OK, result := 0 }) ∧
    (Acting s id Op.CALL_LIST c d → c.aux = 0 → 8 ≤ c.depth →
      exec (.callList id) s = .next (actsTo s id c (d.cmdFail s.env c St.CALL_DEPTH false)))) ∧
  (∀ w imm : Nat, (cmpTrue 0 w imm = true ↔ w = imm) ∧ (cmpTrue 1 w imm = true ↔ w ≠ imm) ∧ (cmpTrue 2 w imm = true ↔ w < imm) ∧
    (cmpTrue 3 w imm = true ↔ imm ≤ w) ∧ (cmpTrue 4 w imm = true ↔ w &&& imm ≠ 0))

/-- FENCE_WAIT, FENCE_NOTIFY and FENCE_POLL (R72, R74) test the word: where it is not behind the value, by the signed 64-bit difference, the wait ends
with the word as its RESULT, and otherwise it goes on; FENCE_TIMEOUT looks once more at the word of a wait that has stood for TIMEOUT_US, and ends one that
is still unsatisfied, or whose word is not at hand, with FENCE_TIMEOUT; before that time, or with TIMEOUT_US 0, it does nothing; FENCE_SIGNAL ends with the word before its signal.
Log entries 1, 8 (the model's own choices). -/
def Obligations.FencesWaitForTheirWord : Prop :=
  ∀ (s : State) (id : Nat) (c : Cmd) (d d' : Die) (w : Nat),
    (d.tearing c.ctx = false → (∀ h ∈ d.stu.held, h.cmd ≠ some id) → Acting s id Op.FENCE_WAIT c d → c.aux = 0 →
      (attempt s.env d (.cmd id) (waitTest c) = .ok (some w) d' →
        exec (.fenceWait id) s = .next (actsTo s id c (d'.finish id St.OK w))) ∧
      (∀ c', attempt s.env d (.cmd id) (waitTest c) = .ok none d' → d'.cmd id = some c' →
        exec (.fenceWait id) s = .next (actsTo s id c (d'.setCmd { c' with tile := s.env.now, aux := 1 })))) ∧
    (s.d.waiting id = some c → s.d.tearing c.ctx = false → (∀ h ∈ s.d.stu.held, h.cmd ≠ some c.id) →
      attempt s.env s.d (.cmd c.id) (waitTest c) = .ok (some w) d' →
      exec (.fenceNotify id) s = .next { s with d := d'.finish c.id St.OK w } ∧ exec (.fencePoll id) s = .next { s with d := d'.finish c.id St.OK w }) ∧
    (s.d.cmd id = some c → c.op = Op.FENCE_WAIT → c.st = .running → s.d.tearing c.ctx = false → c.w 24 ≠ 0 → c.start + 1000 * c.w 24 ≤ s.env.now →
      ((∃ h ∈ s.d.stu.held, h.cmd = some c.id) → exec (.fenceTimeout id) s = .next { s with d := s.d.cmdFail s.env c St.FENCE_TIMEOUT false }) ∧
      ((∀ h ∈ s.d.stu.held, h.cmd ≠ some c.id) →
        (attempt s.env s.d (.cmd c.id) (waitTest c) = .ok (some w) d' → exec (.fenceTimeout id) s = .next { s with d := d'.finish c.id St.OK w }) ∧
        ((attempt s.env s.d (.cmd c.id) (waitTest c) = .ok none d' ∨ attempt s.env s.d (.cmd c.id) (waitTest c) = .wait d') →
          exec (.fenceTimeout id) s = .next { s with d := d'.cmdFail s.env c St.FENCE_TIMEOUT false }))) ∧
    (s.d.cmd id = some c → c.op = Op.FENCE_WAIT → (c.w 24 = 0 ∨ s.env.now < c.start + 1000 * c.w 24) → exec (.fenceTimeout id) s = .next s) ∧
    (d.tearing c.ctx = false → (∀ h ∈ d.stu.held, h.cmd ≠ some id) → Acting s id Op.FENCE_SIGNAL c d →
      attempt s.env d (.cmd id) (fenceSignal c.src (c.p6 8) (c.q 16) false) = .ok w d' →
      exec (.fenceSignal id) s = .next (actsTo s id c (d'.finish id St.OK w)))

/-- DEADLINE (R141): mode 0 arms the ring with its die time, its fallback list and no switch pending, mode 1 disarms it; a deadline that was armed and has
passed is counted as missed by the ring, the die and the slice; the command ends with status OK. -/
def Obligations.DeadlineArmsAndDisarmsItsRing : Prop :=
  ∀ (s : State) (id : Nat) (c : Cmd) (d : Die), Acting s id Op.DEADLINE c d →
    ∃ t, exec (.deadline id) s = .next t ∧ t.d.cmd id = some { c with st := .done, status := St.OK, result := 0 } ∧
      t.d.getF F.TY_RING_DL.ARMED c.ring = (if c.arg0 = 1 then 0 else 1) ∧ t.d.getF F.TY_RING_DL.BYPASSING c.ring = 0 ∧
      t.d.getF F.TY_RING_DL.SWITCH_PENDING c.ring = 0 ∧
      (c.arg0 ≠ 1 → (t.d.ringRt c.ring).dlNs = c.q 8 ∧ (t.d.ringRt c.ring).fb = c.p6 16 ∧ (t.d.ringRt c.ring).fbCount = c.w 24) ∧
      (t.d.ringRt c.ring).skip = (d.ringRt c.ring).skip ∧
      (let missed := d.bit F.TY_RING_DL.ARMED c.ring = true ∧ (d.ringRt c.ring).dlNs < s.env.now % 2 ^ 64
       let more := fun (f : Fld) (i : Nat) => t.d.getF f i = min (d.getF f i + 1) (2 ^ f.width - 1)
       (missed → more F.TY_RING_DL.MISSES c.ring ∧ more F.TY_STATUS.DL_MISSES 0 ∧ ∀ sl, d.sliceOf c.ctx = some sl → more F.TY_SLICE_STAT.DL_MISSES sl) ∧
       (¬ missed → t.d.getF F.TY_RING_DL.MISSES c.ring = d.getF F.TY_RING_DL.MISSES c.ring ∧ t.d.getF F.TY_STATUS.DL_MISSES 0 = d.getF F.TY_STATUS.DL_MISSES 0))


/-! ### Launches, engines and counters that commands name (chapters 4, 9 and 14) -/

/-- LAUNCH (R62, R63, R126): where the gate lets it and its mask is 0 or names a cluster that the context holds, it becomes ready, to start at its
placement; a mask that names none is an error. LAUNCH_INDIRECT reads its grid: an empty grid completes it at once, one too large is an error, and
any other makes it ready with the grid read.
Log entry 8 (the model's own choices). -/
def Obligations.LaunchesWaitForTheirClusters : Prop :=
  ∀ (s : State) (id : Nat) (c : Cmd) (d d' : Die) (b : List Byte),
    (s.d.cmd id = some c → c.op = Op.LAUNCH → s.d.gate c = .go → s.d.namedClusters s.env c ≠ some [] →
      ∃ t, exec (.launch id) s = .next t ∧ t.d.cmd id = some { c with st := .ready } ∧ (∀ j, j ≠ id → t.d.cmd j = s.d.cmd j) ∧ t.env = s.env ∧
        t.d.mem = s.d.mem) ∧
    (s.d.cmd id = some c → c.op = Op.LAUNCH → s.d.gate c = .go → s.d.namedClusters s.env c = some [] →
      exec (.launch id) s = .next { s with d := s.d.cmdFail s.env c St.BAD_ARG false }) ∧
    (Acting s id Op.LAUNCH_INDIRECT c d → d.tearing c.ctx = false → (∀ h ∈ d.stu.held, h.cmd ≠ some id) →
      attempt s.env d (.cmd id) (readPtr c.src Ac.read (c.p6 24) 0 12) = .ok b d' →
      let x := numLE (b.take 4)
      let y := numLE ((b.drop 4).take 4)
      let z := numLE (b.drop 8)
      (65535 < y ∨ 65535 < z → exec (.launchIndirect id) s = .next (actsTo s id c (d'.cmdFail s.env c St.BAD_ARG false))) ∧
      (y ≤ 65535 → z ≤ 65535 → x * y * z = 0 → exec (.launchIndirect id) s = .next (actsTo s id c (d'.finish id St.OK 0))) ∧
      (∀ c', y ≤ 65535 → z ≤ 65535 → x * y * z ≠ 0 → d'.cmd id = some c' →
        d'.namedClusters s.env { c' with tile := x, aux := y, acc := z } ≠ some [] →
        ∃ t, exec (.launchIndirect id) s = .next t ∧ t.d.cmd id = some { c' with tile := x, aux := y, acc := z, st := .ready } ∧ t.env = s.env))

/-- The commands that DMEs carry out: the row, its opcode, that it has nothing to do, and that its arguments pass the checks at its start. -/
def dmeRows : List ((Nat → Instr) × Nat × (Cmd → Bool) × (Cmd → Bool)) :=
  ([(Instr.copy, Op.COPY, fun c => decide (c.q 24 = 0), fun _ => true),
    (Instr.fill, Op.FILL, fun c => decide (c.q 16 = 0), fun _ => true),
    (Instr.gather, Op.GATHER, fun c => decide (c.w 28 = 0), fun _ => true)] : List ((Nat → Instr) × Nat × (Cmd → Bool) × (Cmd → Bool))) ++
  ([(Instr.scatter, Op.SCATTER, fun c => decide (c.w 28 = 0), fun _ => true),
    (Instr.reduce, Op.REDUCE, fun c => decide (c.q 24 = 0), fun c =>
      decide (c.p6 8 % 2 ^ 44 % elemAlign c.srcFmt = 0 ∧ (fmtMx c.srcFmt = true → c.q 24 % 32 = 0))),
    (Instr.reduceScatter, Op.REDUCE_SCATTER, fun c => decide (c.w 28 = 0), fun c =>
      let r := dfield c.desc 26 0 16 + 1
      decide (c.p6 8 % 2 ^ 44 % elemAlign c.srcFmt = 0 ∧ (fmtMx c.srcFmt = true → r % mxEPL c.srcFmt = 0) ∧ (elemRange c.srcFmt 0 r).2 ≤ 2 ^ 18))] :
      List ((Nat → Instr) × Nat × (Cmd → Bool) × (Cmd → Bool)))

/-- COPY, FILL, GATHER, SCATTER, REDUCE and REDUCE_SCATTER (R139, R319, R320): an empty one completes with OK and RESULT 0; one whose arguments fail is BAD_ARG; any
other is placed on the DME with the fewest queued tiles, the lower index first, of the DMEs its slice may use, and the jobs before it stay.
Log entry 76 (the model's own choices). -/
def Obligations.DmeCommandsGoToTheLeastLoadedEngine : Prop :=
  ∀ x ∈ dmeRows, ∀ (s : State) (id : Nat) (c : Cmd) (d : Die), Acting s id x.2.1 c d → d.dmePlaced id = false →
    (x.2.2.1 c = true → exec (x.1 id) s = .next (actsTo s id c (d.finish id St.OK 0))) ∧
    (x.2.2.1 c = false → x.2.2.2 c = false → exec (x.1 id) s = .next (actsTo s id c (d.cmdFail s.env c St.BAD_ARG false))) ∧
    (x.2.2.1 c = false → x.2.2.2 c = true → d.homeEngines s.env c.ctx 8 ≠ [] →
      ∃ t n, exec (x.1 id) s = .next t ∧ n ∈ d.homeEngines s.env c.ctx 8 ∧ t.d.eng.jobs = d.eng.jobs ++ [{ dme := n, cmd := id }] ∧
        (∀ m ∈ d.homeEngines s.env c.ctx 8, ((d.dmeCmds n).map Cmd.tilesLeft).sum < ((d.dmeCmds m).map Cmd.tilesLeft).sum ∨
          (((d.dmeCmds n).map Cmd.tilesLeft).sum = ((d.dmeCmds m).map Cmd.tilesLeft).sum ∧ n ≤ m)) ∧
        t.d.mem.dram = d.mem.dram ∧ t.env = s.env)

/-- DME_TILE (R138, R175): the first command in the order of service issues its next tile, and the others stay queued; a command whose last tile this was ends with
its RESULT and leaves the engine. A tile of a COPY or FILL has up to 256 KiB, the last tile reaches the command's length, and a row of a GATHER or SCATTER is one tile.
A REDUCE ends with its last element, and the RESULT of a REDUCE_SCATTER counts the rows it has issued.
Log entries 8, 76 (the model's own choices). -/
def Obligations.TilesAreIssuedInTurnAndTheLastEndsTheCommand : Prop :=
  ∀ (s : State) (n : BitVec 6) (c : Cmd) (l : List Cmd) (x : Cmd × Bool) (d : Die),
    n.toNat < s.env.clusters → s.d.running (n.toNat / 8) = true → s.d.serveOrder n.toNat (s.d.dmeCmds n.toNat) = c :: l →
    attempt s.env s.d (.cmd c.id) (tileOf n.toNat c) = .ok x d →
    exec (.dmeTile n) s = .next { s with d := d.tileDone s.env n.toNat x.1 x.2 } ∧
    (c.op = Op.COPY → x.1 = { c with tile := c.tile + min (2 ^ 18) (c.q 24 - c.tile), result := c.q 24 } ∧ (x.2 = true ↔ x.1.tile = c.q 24)) ∧
    (c.op = Op.FILL → x.1 = { c with tile := c.tile + min (2 ^ 18) (c.q 16 - c.tile), result := c.q 16 } ∧ (x.2 = true ↔ x.1.tile = c.q 16)) ∧
    ((c.op = Op.GATHER ∨ c.op = Op.SCATTER) → x.1.tile = c.tile + 1 ∧ x.1.result = c.w 28 ∧ (x.2 = true ↔ c.tile + 1 = c.w 28)) ∧
    (c.op = Op.REDUCE → x.1.result = c.q 24 ∧ (x.2 = true ↔ x.1.tile = c.q 24)) ∧
    (c.op = Op.REDUCE_SCATTER → x.2 = true → x.1.result = x.1.acc) ∧
    (x.2 = false → (d.tileDone s.env n.toNat x.1 x.2).eng.jobs.map (fun j => (j.dme, j.cmd)) = d.eng.jobs.map (fun j => (j.dme, j.cmd))) ∧
    (x.2 = true → c.op ≠ Op.DISPATCH → c.op ≠ Op.COMBINE → x.1.id = c.id → x.1.op = c.op → d.cmd c.id ≠ none →
      ∃ y, (d.tileDone s.env n.toNat x.1 x.2).cmd c.id = some y ∧ y = { x.1 with st := .done, status := St.OK } ∧
        ∀ j ∈ (d.tileDone s.env n.toNat x.1 x.2).eng.jobs, j.cmd ≠ c.id)

/-- The four modes of DISPATCH, by row. -/
def dispatchRows : List ((Nat → Instr) × Mode) :=
  [(Instr.dispatchExpert, modeExpert), (Instr.dispatchBlock, modeBlock), (Instr.dispatchCompact, modeCompact), (Instr.dispatchBucket, modeBucket)]

/-- DISPATCH and COMBINE (R272, R273): a new one is placed on the Sorter with the fewest queued lead commands, the lower index first, of those
its slice may use; one that stands before its last writes on the Sorter that runs it, with every write before them accepted, ends, when they are made, with OK and
its RESULT, and leaves the Sorter. SELECT_ITEM (R274, R275): the first item by the round robin on a Sorter that takes items ends, and only it. KEEP_ALIVE (R276) reaches the region of a Sorter
that holds work, at the die time of the message, and does nothing where it holds none.
Log entries 1, 8, 67, 76 (the model's own choices). -/
def Obligations.SorterWorkIsPlacedRunAndEnded : Prop :=
  (∀ (s : State) (id : Nat) (c : Cmd) (d : Die),
    let placed := fun (i : Instr) => ∃ t n, exec i s = .next t ∧ n ∈ d.homeEngines s.env c.ctx 1 ∧
      t.d.eng.leads = d.eng.leads ++ [{ dme := n, cmd := id }] ∧ t.d.eng.jobs = d.eng.jobs ∧ t.env = s.env ∧
      ∀ m ∈ d.homeEngines s.env c.ctx 1, (d.leadsQueued n).length < (d.leadsQueued m).length ∨ ((d.leadsQueued n).length = (d.leadsQueued m).length ∧ n ≤ m)
    let held := ∃ j ∈ d.eng.away, j.cmd = id
    (∀ x ∈ dispatchRows, Acting s id Op.DISPATCH c d → c.mode = x.2.code → d.leadOf id = none → ¬ held → d.homeEngines s.env c.ctx 1 ≠ [] → placed (x.1 id)) ∧
    (Acting s id Op.COMBINE c d → d.leadOf id = none → ¬ held → d.homeEngines s.env c.ctx 1 ≠ [] → placed (.combine id)) ∧
    (∀ x ∈ dispatchRows, ∀ n d', s.d.cmd id = some c → c.op = Op.DISPATCH → c.st = .running → c.started = true → c.bypass = false → c.mode = x.2.code → c.aux = 4 →
      s.d.leadOf id = some n → s.d.running n = true → Tab.get none s.d.eng.running n = some id → s.d.serves c = true → s.d.soParity s.env n c = none →
      s.d.winBusy (.cmd id) = false → attempt s.env s.d (.cmd id) (lastWrites c n x.2) = .ok () d' → (d'.cmd id).isSome = true →
      ∃ t, exec (x.1 id) s = .next t ∧ t.d.cmd id = some { c with st := .done, status := St.OK } ∧ t.d.leadOf id = none ∧
        t.d.getF F.SO_COUNT.COMPLETED n = (d'.getF F.SO_COUNT.COMPLETED n + 1) % 2 ^ F.SO_COUNT.COMPLETED.width ∧ t.env = s.env) ∧
    (∀ n, s.d.cmd id = some c → c.op = Op.COMBINE → c.st = .running → c.started = true → c.bypass = false → c.aux = 2 → nextEntry c.sums c.tile c.acc = none →
      s.d.leadOf id = some n → s.d.running n = true → Tab.get none s.d.eng.running n = some id → s.d.serves c = true → s.d.soParity s.env n c = none →
      ∃ t, exec (.combine id) s = .next t ∧ t.d.cmd id = some { c with st := .done, status := St.OK } ∧ t.d.leadOf id = none ∧ t.d.mem.dram = s.d.mem.dram ∧ t.env = s.env)) ∧
  (∀ (s : State) (n : BitVec 3) (i : Nat) (c : Cmd) (d : Die),
    (s.d.itemNext n.toNat = some (i, c) → s.d.takesItems n.toNat = true → s.d.running n.toNat = true → s.d.soParity s.env n.toNat c = none →
      attempt s.env s.d (.cmd c.id) (itemAct c n.toNat i) = .ok () d →
      ∃ t, exec (.selectItem n) s = .next t ∧ t.env = s.env ∧ keepsRegs d t.d [.SF_CTX_STATUS] ∧ t.d.eng.jobs = d.eng.jobs ∧ t.d.mem = d.mem ∧
        t.d.eng.items = d.eng.items.map (fun x => if x.1 = n.toNat ∧ x.2.1 = c.id ∧ x.2.2.1 = i then (x.1, x.2.1, x.2.2.1, true) else x)) ∧
    ((s.d.itemNext n.toNat = none ∨ s.d.takesItems n.toNat = false) → exec (.selectItem n) s = .next s) ∧
    (s.d.sorterBusy n.toNat = true → s.d.running n.toNat = true →
      ∃ t, exec (.keepAlive n) s = .next t ∧ Tab.get 0 t.d.eng.keepAt n.toNat = s.env.now ∧ t.d.running n.toNat = true ∧ t.d.mem.dram = s.d.mem.dram ∧ t.env = s.env) ∧
    (s.d.sorterBusy n.toNat = false → exec (.keepAlive n) s = .next s))

/-- One choice of the assign phase (R285): no regular list of an expert grows past CAPACITY, a list that stands at CAPACITY or below stays there, one choice adds at most one entry,
and the choice is demanded of its expert, placed, spilled or dropped. -/
def Obligations.ExpertListsKeepToTheirCapacity : Prop :=
  ∀ (b : Nat) (ch : Choices) (t r : Nat) (a : Assign),
    ((∀ x, a.reg x ≤ pb b 24 0 25) → ∀ x, (assignOne b ch t r a).reg x ≤ pb b 24 0 25) ∧
    (a.nres ≤ pb b 32 16 25 → (assignOne b ch t r a).nres ≤ pb b 32 16 25) ∧
    (∃ l, (assignOne b ch t r a).ents = l ++ a.ents ∧ l.length + ((assignOne b ch t r a).dropped - a.dropped) = if r < ch.picks.length then 1 else 0) ∧
    (∀ x g, ch.picks[r]? = some (x, g) → a.reg x < pb b 24 0 25 → (assignOne b ch t r a).ents = (x, t, r, g) :: a.ents) ∧
    (∀ p, ch.picks[r]? = some p → Tab.get 0 (assignOne b ch t r a).dem p.1 = Tab.get 0 a.dem p.1 + 1)

/-- COUNTER_SNAP (R420, R421): a SET that the context may take starts its latch, any other is BAD_ARG; SNAP_LATCH takes its values 2 µs after the start, raises the
latch number by 1, writes the record of Table 14.4 and ends with the number as RESULT; before that nothing happens. SWEEP_DONE (R418) makes the half that the sweep of the last tick edge filled the one that
reads show, with its number and die time, and clears BUSY.
Log entries 1, 8, 36 (the model's own choices). -/
def Obligations.SnapshotsLatchTwoMicrosecondsAfterTheirStart : Prop :=
  (∀ (s : State) (id : Nat) (c : Cmd) (d : Die),
    (Acting s id Op.COUNTER_SNAP c d → c.aux = 0 → d.snapOk c = true →
      ∃ t, exec (.counterSnap id) s = .next t ∧ t.d.cmd id = some { c with aux := 1 } ∧ t.env = s.env ∧ t.d.mem = s.d.mem) ∧
    (Acting s id Op.COUNTER_SNAP c d → c.aux = 0 → d.snapOk c = false →
      exec (.counterSnap id) s = .next (actsTo s id c (d.cmdFail s.env c St.BAD_ARG false))) ∧
    (s.d.cmd id = some c → s.env.now < c.start + 2000 → exec (.snapLatch id) s = .next s) ∧
    (∀ c' d', s.d.cmd id = some c → c.op = Op.COUNTER_SNAP → c.st = .running → c.aux = 1 → s.d.tearing c.ctx = false → (∀ h ∈ s.d.stu.held, h.cmd ≠ some id) →
      c.start + 2000 ≤ s.env.now → (s.d.snapLatch s.env c).cmd id = some c' →
      attempt s.env (s.d.snapLatch s.env c) (.cmd id) (do
        if c'.p6 8 ≠ 0 then writePtr c'.src (c'.p6 8) 0 (snapRecord c')
        pure c'.result) = .ok c'.result d' →
      exec (.snapLatch id) s = .next { s with d := d'.finish id St.OK c'.result } ∧
      c'.result = (s.d.getF F.CH_LATCH.NUMBER 0 + 1) % 2 ^ F.CH_LATCH.NUMBER.width ∧ c'.start = c.start ∧
      c'.stats = s.d.latch.2.snapEntries s.env (c.q 16) s.d.latch.1)) ∧
  (∀ s : State,
    (∀ n tm t, s.d.ch.sweep = some (n, tm, t) →
      ∃ u, exec .sweepDone s = .next u ∧ u.d.ch.snap = (n, t) ∧ u.d.ch.sweep = none ∧ u.d.getF F.CH_SWEEP.BUSY 0 = 0 ∧
        u.d.getF F.CH_SWEEP.NUMBER 0 = n % 2 ^ F.CH_SWEEP.NUMBER.width ∧ u.d.getF F.CH_SWEEP_TIME.TIME 0 = tm % 2 ^ F.CH_SWEEP_TIME.TIME.width ∧
        keepsRegs s.d u.d [.CH_SWEEP, .CH_SWEEP_TIME] ∧ u.env = s.env) ∧
    (s.d.ch.sweep = none → exec .sweepDone s = .next s))

/-- Watch windows (R425, R428): OPEN takes the block of Table 14.6 and opens the watch for its context at epoch 0; SNAP and CLOSE switch the interval at once, SNAP going on in a new one and
CLOSE closing the watch; WATCH_SWITCH_DONE writes the digest record of the ended interval, where its ring has room, and ends the command with the epoch as RESULT, and waits while a
write accepted before the switch is under way.
Log entries 1, 8, 37 (the model's own choices). -/
def Obligations.WatchesOpenSwitchAndWriteTheirDigests : Prop :=
  ∀ (s : State) (id : Nat) (c : Cmd) (d d' : Die) (a : WatchAcc) (b : List Byte) (x : Nat × Nat × Nat × Nat),
    let w := c.watch
    (Acting s id Op.WATCH c d → bitsOf c.arg0 8 2 = 0 → d.bit F.CH_WATCH.OPEN w = false → (∀ sl, d.sliceOf c.ctx = some sl → (d.reg .CH_WATCH_MASK sl 0).getLsbD w = true) →
      c.p6 8 ≠ 0 → c.p6 8 % 64 = 0 → d.tearing c.ctx = false → (∀ h ∈ d.stu.held, h.cmd ≠ some id) →
      attempt s.env d (.cmd id) (readPtr c.src Ac.read (c.p6 8) 0 64) = .ok b d' → watchBlock b = some x → (d'.cmd id).isSome = true →
      ∃ t, exec (.watchOpen id) s = .next t ∧ t.d.bit F.CH_WATCH.OPEN w = true ∧ t.d.getF F.CH_WATCH.CONTEXT w = c.ctx % 4096 ∧ t.d.getF F.CH_WATCH_SEQ.EPOCH w = 0 ∧
        Tab.get none t.d.ch.watch w = some { start := s.env.now, log2 := x.2.1, ring := x.2.2.1, cons := x.2.2.2 } ∧
        (∃ y, t.d.cmd id = some y ∧ y.st = .done ∧ y.status = St.OK ∧ y.result = 0) ∧ t.env = s.env) ∧
    (∀ row code, (row, code) ∈ ([(Instr.watchSnap, 2), (Instr.watchClose, 1)] : List ((Nat → Instr) × Nat)) →
      Acting s id Op.WATCH c d → bitsOf c.arg0 8 2 = code → c.aux = 0 → Tab.get none d.ch.watch w = some a → d.bit F.CH_WATCH.OPEN w = true → d.getF F.CH_WATCH.CONTEXT w = c.ctx →
      ∃ t, exec (row id) s = .next t ∧ t.d.cmd id = some { c with aux := 1, tile := d.getF F.CH_WATCH_SEQ.EPOCH w, acc := s.env.now } ∧
        t.d.bit F.CH_WATCH.OPEN w = decide (code = 2) ∧ (Tab.get none t.d.ch.watch w = none ↔ code = 1) ∧
        t.d.getF F.CH_WATCH_SEQ.EPOCH w = (d.getF F.CH_WATCH_SEQ.EPOCH w + 1) % 2 ^ F.CH_WATCH_SEQ.EPOCH.width ∧ t.env = s.env) ∧
    (s.d.cmd id = some c → s.d.ch.switch.find? (fun y => decide (y.1 = id)) = some (id, a) →
      ((∃ q ∈ s.d.coh.reqs, q.rid ∈ a.waits) → exec (.watchSwitchDone id) s = .next s) ∧
      (∀ b d₁, c.st = .running → (∀ q ∈ s.d.coh.reqs, q.rid ∉ a.waits) → s.d.tearing c.ctx = false → (∀ h ∈ s.d.stu.held, h.cmd ≠ some id) →
        attempt s.env s.d (.cmd id) (do
          let b' ← readPtr c.src Ac.read a.cons 0 8
          if (s.d.getF F.CH_WATCH_SEQ.PRODUCED a.watch + 2 ^ 32 - numLE b' % 2 ^ 32) % 2 ^ 32 < 2 ^ a.log2 then
            writePtr c.src a.ring (64 * (s.d.getF F.CH_WATCH_SEQ.PRODUCED a.watch % 2 ^ a.log2)) (digestRecord c a (s.d.getF F.CH_WATCH_SEQ.PRODUCED a.watch) (s.d.watchLost a))
            pure true
          else pure false) = .ok b d₁ → (d₁.cmd id).isSome = true →
        ∃ t, exec (.watchSwitchDone id) s = .next t ∧ (∃ y, t.d.cmd id = some y ∧ y.st = .done ∧ y.status = St.OK ∧ y.result = c.tile) ∧
          (∀ y ∈ t.d.ch.switch, y.1 ≠ id) ∧ t.d.getF F.CH_WATCH_SEQ.PRODUCED a.watch =
            (d₁.getF F.CH_WATCH_SEQ.PRODUCED a.watch + Bool.num b) % 2 ^ F.CH_WATCH_SEQ.PRODUCED.width ∧ t.env = s.env))


/-! ### Clusters, kernels, quanta and loans (chapters 4 and 16) -/

/-- Messages of kernel control (R470 to R473): END and YIELDED of a rank are noted, and its cluster stays with the kernel while another rank still runs (R129, R136); with the
last report every cluster of the kernel is released, and where every rank has ended its command ends with OK and its cluster time as RESULT. A faulted END fails the command with BUS_ERROR. An acknowledged
abandon order releases its cluster at once, and on the last cluster ends the kernel. MARK leaves everything but the state of its context, KERNEL_ERROR is counted and
nothing else, and a message that names no kernel that runs on the cluster has no effect. PORT_ERROR reports CLP_PARITY, and the cluster is declared dead (R391, R462).
Log entries 1, 71 (the model's own choices). -/
def Obligations.KernelMessagesReleaseTheirClusters : Prop :=
  ∀ (s : State) (k : BitVec 6) (kid : BitVec 8) (x : Kern),
    let n := k.toNat
    let st := s.d.clState n
    let ended := x.onRank n (fun r => { r with ended := true })
    let yielded := fun token => x.onRank n (fun r => { r with yielded := true, token := token })
    let free := fun (t : State) => ∀ m ∈ x.clusters, s.d.clState m ≠ 4 → t.d.clState m = 0 ∧ t.d.getF F.TY_CLUSTER.CONTEXT m = 0
    (s.d.kernMsg n kid.toNat = some x → x.aband = false → ended.ranks.any Rank.runs = true →
      exec (.endK k kid false) s = .next { s with d := s.d.setKern ended }) ∧
    (∀ c, s.d.kernMsg n kid.toNat = some x → x.aband = false → ended.ranks.any Rank.runs = false → ended.over_ = true → s.d.cmd x.cmd = some c →
      ∃ t, exec (.endK k kid false) s = .next t ∧ t.d.cmd x.cmd = some { c with st := .done, status := St.OK, result := c.ns } ∧ free t ∧
        (∀ y ∈ t.d.ty.kerns, y.kid ≠ x.kid) ∧ t.d.mem = s.d.mem ∧ t.env = s.env) ∧
    (∀ c, s.d.kernMsg n kid.toNat = some x → x.aband = false → s.d.cmd x.cmd = some c →
      exec (.endK k kid true) s = .next { s with d := (s.d.setKern ended).cmdFail s.env c St.BUS_ERROR false }) ∧
    (∀ token, s.d.kernMsg n kid.toNat = some x → x.aband = false → st ≠ 1 → (yielded token).ranks.any Rank.runs = true →
      ∃ t, exec (.yielded k kid token) s = .next t ∧ t.d.ty.kerns = s.d.ty.kerns.map (fun y => if y.kid = x.kid then yielded token else y) ∧
        t.d.regs = s.d.regs ∧ t.d.mem = s.d.mem ∧ t.env = s.env) ∧
    (∀ token, s.d.kernMsg n kid.toNat = some x → x.aband = false → st ≠ 1 → (yielded token).ranks.any Rank.runs = false →
      ∃ t, exec (.yielded k kid token) s = .next t ∧ free t ∧ t.d.mem = s.d.mem ∧ t.env = s.env) ∧
    (s.d.kernMsg n kid.toNat = some x → st = 3 → x.aband = true →
      ∃ t, exec (.abandonAck k kid) s = .next t ∧ t.d.clState n = 0 ∧ t.d.getF F.TY_CLUSTER.CONTEXT n = 0 ∧ t.d.mem = s.d.mem ∧ t.env = s.env ∧
        ((x.leave n).placed = false → ∀ y ∈ t.d.ty.kerns, y.kid ≠ x.kid)) ∧
    (s.d.kernMsg n kid.toNat = some x → exec (.mark k kid) s = .next { s with d := s.d.ctxPump x.ctx }) ∧
    (s.d.kernMsg n kid.toNat = none → ∀ token fault, exec (.endK k kid fault) s = .next s ∧ exec (.yielded k kid token) s = .next s ∧
      exec (.abandonAck k kid) s = .next s ∧ exec (.mark k kid) s = .next s) ∧
    (∀ tag code, s.d.live s.env n = true → exec (.kernelError k kid tag code) s = .next { s with d := { s.d with ty.kernErrors := s.d.ty.kernErrors + 1 } }) ∧
    (∀ chan, s.d.live s.env n = true → s.d.kernAt n = none → s.d.fire0 Cs.CLP_PARITY n = false →
      exec (.portError k chan) s = .next { s with d := (s.d.report s.env { cause := Cs.CLP_PARITY, inst := n, det0 := n }).clusterDead s.env n }) ∧
    (∀ chan, s.d.live s.env n = false → exec (.portError k chan) s = .next s)

/-- PLACEMENT (R126, R127, R470): a free cluster goes to the first job in the order of offers that can be given its whole set; where the regions of the set run, every cluster of it runs for the job's context, and for a new launch each has been sent a START
with the descriptor's pointers, arguments and grid. A cluster that is not free, or for which no job can be given its set, starts nothing. A launch of a ring whose switch came meanwhile
ends BYPASSED, or gives way to the fallback list (R143).
Log entries 1, 69, 88 (the model's own choices). -/
def Obligations.PlacementGivesTheWholeSet : Prop :=
  ∀ (s : State) (k : BitVec 6) (j : Job) (ks : List Nat),
    let d := s.d.recallDue s.env
    let g := j.cmd.grid
    let fresh := j.kern = none ∧ j.cmd.started = false ∧ j.cmd.parent = none
    let bypassing := d.bit F.TY_RING_DL.BYPASSING j.cmd.ring
    let switching := d.bit F.TY_RING_DL.SWITCH_PENDING j.cmd.ring
    (∀ x ∈ s.d.jobs, x.kern = none → s.d.namedClusters s.env x.cmd ≠ some []) →
    (s.d.live s.env k.toNat = true → s.d.clState k.toNat = 0 → firstGrant s.env d (d.offers s.env k.toNat) = some (j, ks) →
      (fresh → bypassing = false ∧ switching = false) → (∀ c ∈ ks, d.running (c / 8) = true) → j.kern = none → j.ctx < 4096 →
      ∃ t, exec (.placement k) s = .next t ∧ t.env = s.env ∧ t.d.mem.dram = s.d.mem.dram ∧
        ∀ c ∈ ks, t.d.clState c = 1 ∧ t.d.getF F.TY_CLUSTER.CONTEXT c = j.ctx ∧
          ∃ r token, Msg.kStart c (j.cmd.id % 256) j.ctx (j.slice.getD 0) (j.cmd.p6 8) (j.cmd.p6 16) (j.cmd.q 32) g.1 g.2.1 g.2.2 r ks.length false token ∈ t.d.out) ∧
    (s.d.live s.env k.toNat = true → s.d.clState k.toNat = 0 → firstGrant s.env d (d.offers s.env k.toNat) = some (j, ks) →
      ((fresh → bypassing = false ∧ switching = false) → exec (.placement k) s = .next { s with d := d.place s.env j ks }) ∧
      (fresh → bypassing = true → exec (.placement k) s = .next { s with d := d.endUnrun j.cmd St.BYPASSED }) ∧
      (fresh → bypassing = false → switching = true → exec (.placement k) s = .next { s with d := d.takeFallback s.env j.cmd })) ∧
    (s.d.live s.env k.toNat = true → s.d.clState k.toNat = 0 → firstGrant s.env d (d.offers s.env k.toNat) = none → exec (.placement k) s = .next { s with d := d }) ∧
    ((s.d.live s.env k.toNat = false ∨ s.d.clState k.toNat ≠ 0) → exec (.placement k) s = .next s)

/-- Quanta, graces, loans and abandon orders (R128 to R130, R133, R134, R146): at the end of a quantum a new one starts where nothing of a higher place waits, and otherwise the kernel is asked on all its clusters to yield; a yield request not
satisfied in its grace tears the context down with YIELD_OVERRUN and is counted; an idle lendable cluster is lent; a cluster that has not acknowledged an abandon order for 20 µs is reported and declared dead;
YIELD ends with RESULT 1 where some other context waits for a cluster ahead of it and 0 where none does. Before its time each of them changes nothing.
Log entries 1, 70 (the model's own choices). -/
def Obligations.QuantaGracesAndLoansEnd : Prop :=
  ∀ (s : State) (k : BitVec 6) (id : Nat) (c : Cmd) (d : Die) (x : Kern),
    let n := k.toNat
    let rt := s.d.clRt n
    let holder := s.d.getF F.TY_CLUSTER.CONTEXT n
    (s.env.now < rt.quantum → exec (.quantumExpiry k) s = .next s) ∧
    (rt.quantum ≤ s.env.now → s.d.clState n = 1 → s.d.rival s.env n holder = none →
      exec (.quantumExpiry k) s = .next { s with d := s.d.setClRt n { rt with quantum := s.env.now + s.d.quantumNs } }) ∧
    (∀ j, rt.quantum ≤ s.env.now → s.d.clState n = 1 → s.d.rival s.env n holder = some j → s.d.kernAt n = some x → s.d.kernYields x = true → x.aband = false →
      (∀ m ∈ x.clusters, s.d.clState m = 1) →
      ∃ t, exec (.quantumExpiry k) s = .next t ∧ (∀ m ∈ x.clusters, t.d.clState m = 2 ∧ Msg.kYield m (x.kid % 256) ∈ t.d.out) ∧ t.d.mem = s.d.mem ∧ t.env = s.env) ∧
    (∀ kid q, s.d.ty.kerns.find? (fun y => decide (y.kid = kid)) = some x → x.req = some q →
      (s.env.now < q.1 → exec (.yieldGraceExpiry kid) s = .next s) ∧
      (q.1 ≤ s.env.now → x.aband = false → (∀ sl, s.d.sliceOf x.ctx = some sl → s.d.sliceState sl ≠ 3) → s.d.tearing x.ctx = false → s.d.ctxState x.ctx ≠ 5 →
        ∃ t, exec (.yieldGraceExpiry kid) s = .next t ∧
          (∃ y ∈ t.d.sf.tears, y.ctx = x.ctx ∧ y.status = St.YIELD_OVERRUN ∧ y.failed = some x.cmd) ∧
          t.d.getF F.TY_STATUS.OVERRUNS 0 = min (s.d.getF F.TY_STATUS.OVERRUNS 0 + 1) (2 ^ F.TY_STATUS.OVERRUNS.width - 1) ∧ t.env = s.env)) ∧
    (∀ o, s.d.ownerOf n = some o →
      let due := s.d.lendOn = true ∧ s.d.bit F.SM_SLICE.LENDABLE o = true ∧ s.d.sliceState o ≠ 5 ∧ s.d.live s.env n = true ∧ s.d.clState n = 0 ∧ s.d.keptBy s.env n = none ∧
        s.d.claimed n = false ∧ (∀ j ∈ s.d.jobs, ¬ (j.slice = some o ∧ n ∈ s.d.wanted s.env j)) ∧ rt.idle + s.d.lendNs ≤ s.env.now
      (due → s.d.lent n = false → ∃ t, exec (.lend k) s = .next t ∧ t.d.lent n = true ∧ t.d.getF F.TY_SLICE_STAT.LENT o = (s.d.getF F.TY_SLICE_STAT.LENT o + 1) % 128 ∧
        onlyRegs s t [.TY_CLUSTER, .TY_SLICE_STAT]) ∧
      (¬ due → exec (.lend k) s = .next s)) ∧
    (∀ t0, rt.order = some t0 → s.d.clState n = 3 → t0 + 20000 ≤ s.env.now →
      exec (.abandonTimeout k) s = .next { s with d :=
        (s.d.report s.env { cause := Cs.DEAD_CLUSTER, inst := n, ctx := some holder, slice := s.d.sliceOf holder, det0 := n, det1 := 1 }).clusterDead s.env n }) ∧
    (∀ t0, rt.order = some t0 → s.env.now < t0 + 20000 → exec (.abandonTimeout k) s = .next s) ∧
    (Acting s id Op.YIELD c d →
      let kept := (List.range 64).filter (fun m => decide (d.clState m = 0 ∧ d.keptBy s.env m = some c.ctx))
      ((d.clustersOf c.ctx ++ kept).findSome? (fun m => d.rival s.env m c.ctx) = none → exec (.yieldCmd id) s = .next (actsTo s id c (d.finish id St.OK 0))) ∧
      (((d.clustersOf c.ctx ++ kept).findSome? (fun m => d.rival s.env m c.ctx)).isSome = true →
        ∃ t, exec (.yieldCmd id) s = .next t ∧ t.d.cmd id = some { c with st := .done, status := St.OK, result := 1 } ∧ t.d.mem = d.mem ∧ t.env = s.env))

/-! ### Translations, faults held and fault rings (chapter 5) -/

/-- INVALIDATE (R163 to R165): it advances the epoch of every context it names and drops the translations of its scope, and ends, counted, once every request that carried an older epoch has retired; one that lasts 1 ms is reported.
One that names nothing that exists is BAD_ARG.
Log entries 1, 74 (the model's own choices). -/
def Obligations.InvalidationsDropTranslationsAndWaitForOlderRequests : Prop :=
  ∀ (s : State) (id : Nat) (c : Cmd) (d : Die),
    (∀ cs, Acting s id Op.INVALIDATE c d → c.aux = 0 → d.invCtxs c = some cs →
      ∃ t, exec (.invalidate id) s = .next t ∧ t.d.cmd id = some { c with aux := 1 } ∧ t.d.bit F.STU_STATUS.INV_ACTIVE 0 = true ∧
        t.d.stu.inval = some (d.older s.env.now id cs) ∧
        (∀ k ∈ cs, t.d.getF F.STU_EPOCH.EPOCH k = (d.getF F.STU_EPOCH.EPOCH k + 1) % 2 ^ F.STU_EPOCH.EPOCH.width) ∧
        (∀ x ∈ t.d.stu.caches, x.ctx ∈ cs → invDrops c x = false) ∧ (∀ x ∈ d.stu.caches, x.ctx ∉ cs → x ∈ t.d.stu.caches) ∧ t.d.mem = d.mem ∧ t.env = s.env) ∧
    (Acting s id Op.INVALIDATE c d → c.aux = 0 → d.invCtxs c = none → exec (.invalidate id) s = .next (actsTo s id c (d.cmdFail s.env c St.BAD_ARG false))) ∧
    (∀ x, s.d.stu.inval = some x → x.cmd = id → s.d.cmd id = some c →
      (s.d.retired x = false → exec (.invalidateDrained id) s = .next s) ∧
      (s.d.retired x = true → s.d.fire0 Cs.INV_TIMEOUT 0 = false →
        ∃ d₁ : Die, exec (.invalidateDrained id) s = .next { s with d := d₁.opDone s.env c 0 } ∧ d₁.stu.inval = none ∧ d₁.bit F.STU_STATUS.INV_ACTIVE 0 = false ∧
          d₁.getF F.STU_STATUS.INV_COUNT 0 = (s.d.getF F.STU_STATUS.INV_COUNT 0 + 1) % 2 ^ F.STU_STATUS.INV_COUNT.width ∧ d₁.mem = s.d.mem ∧ keepsRegs s.d d₁ [.STU_STATUS]) ∧
      (x.start + 1000000 ≤ s.env.now → s.d.retired x = false →
        exec (.invTimeout id) s = .next { s with d :=
          { s.d.report s.env { cause := Cs.INV_TIMEOUT, det0 := x.ctxs.headD 0 } with stu := { (s.d.report s.env { cause := Cs.INV_TIMEOUT, det0 := x.ctxs.headD 0 }).stu with inval := none } } }) ∧
      ((s.env.now < x.start + 1000000 ∨ s.d.retired x = true) → exec (.invTimeout id) s = .next s))

/-- Held accesses, fault rings and access counters (R168, R170, R171, R177, R178): RESUME lets a FAULTED context run again with nothing held, FAIL and the hold timeout tear it down with TRANSLATION, and either written to another context is counted; a batch closes 16 µs after its first record;
a full ring's consumer word is read again; a ring's registers are written while it is disabled, or to disable it; STU_ACNT_CLR clears a page's three counts, and for every DECAY_TICKS-th tick edge that has passed every count is halved.
Log entries 1, 75 (the model's own choices). -/
def Obligations.FaultedContextsAndFaultRingsFollowTheirRules : Prop :=
  (∀ (s : State) (who : Who) (c : BitVec 12), s.d.barGate s.env who .STU_CTX_CTL c.toNat = none →
    (s.d.ctxState c.toNat = 4 → s.d.tearing c.toNat = false →
      (∃ d₀ d₁ : Die, exec (.stuResume who c) s = .next { s with d := d₁.portsPump s.env } ∧
        d₁ = (d₀.setCtxState c.toNat (if d₀.holdsEngine c.toNat then 2 else 1)).recallDue s.env ∧ d₀.stu.held = d₁.stu.held ∧
        d₀.ty.kerns = s.d.ty.kerns ∧ d₀.eng.jobs = s.d.eng.jobs ∧ d₁.ctxState c.toNat = (if d₀.holdsEngine c.toNat then 2 else 1) ∧
        (∀ h ∈ d₁.stu.held, h.ctx ≠ c.toNat) ∧ (∀ h ∈ s.d.stu.held, h.ctx ≠ c.toNat → h ∈ d₁.stu.held) ∧ d₁.getF F.STU_EPOCH.HELD c.toNat = 0 ∧ d₁.mem = s.d.mem) ∧
      (∃ t, exec (.stuFail who c) s = .next t ∧ t.d.tearing c.toNat = true ∧ (∃ y ∈ t.d.sf.tears, y.ctx = c.toNat ∧ y.status = St.TRANSLATION ∧ y.failed = s.d.heldCmd c.toNat) ∧ t.env = s.env)) ∧
    (s.d.ctxState c.toNat ≠ 4 → exec (.stuResume who c) s = .next { s with d := s.d.reject F.STU_STATUS.CFG_REJECT 0 } ∧
      exec (.stuFail who c) s = .next { s with d := s.d.reject F.STU_STATUS.CFG_REJECT 0 })) ∧
  (∀ (s : State) (c : BitVec 12),
    let edges := (s.d.getF F.ST_TICK.TICK_COUNT 0 + 2 ^ 48 - Tab.get 0 s.d.stu.faultAt c.toNat) % 2 ^ 48
    (s.d.ctxState c.toNat = 4 → s.d.tearing c.toNat = false → max 1 (s.d.getF F.STU_CFG.HOLD_TICKS 0) ≤ edges →
      ∃ t, exec (.holdTimeout c) s = .next t ∧ (∃ y ∈ t.d.sf.tears, y.ctx = c.toNat ∧ y.status = St.TRANSLATION ∧ y.failed = s.d.heldCmd c.toNat) ∧ t.env = s.env) ∧
    ((s.d.ctxState c.toNat ≠ 4 ∨ edges < max 1 (s.d.getF F.STU_CFG.HOLD_TICKS 0)) → exec (.holdTimeout c) s = .next s)) ∧
  (∀ (s : State) (sl : BitVec 9),
    let n := sl.toNat
    ((s.d.fring n).batch ≠ [] → (s.d.fring n).opened + 16000 ≤ s.env.now →
      exec (.faultBatchClose sl) s = .next { s with d := ((s.d.closeBatch s.env n).fringPump s.env n).portsPump s.env } ∧ ((s.d.closeBatch s.env n).fring n).batch = [] ∧
        (s.d.closeBatch s.env n).getF F.STU_FRING_STATUS.PRODUCED n =
          (s.d.getF F.STU_FRING_STATUS.PRODUCED n + (s.d.fring n).batch.length) % 2 ^ F.STU_FRING_STATUS.PRODUCED.width) ∧
    (((s.d.fring n).batch = [] ∨ s.env.now < (s.d.fring n).opened + 16000) → exec (.faultBatchClose sl) s = .next s) ∧
    (s.d.bit F.STU_FRING_CTL.ENABLE n = true → s.d.fringRoom n = false → s.d.sliceState n ≠ 0 →
      exec (.fringConsRead sl) s = .next { s with d := s.d.hostAsk s.env (.cons n) (s.d.sliceId n) (8 * s.d.getF F.STU_FRING_CONS.ADDR n) 8 }) ∧
    ((s.d.bit F.STU_FRING_CTL.ENABLE n = false ∨ s.d.fringRoom n = true) → exec (.fringConsRead sl) s = .next s) ∧
    (∀ (who : Who) (which : BitVec 2) (v : Word),
      let r := fringReg which.toNat
      let sets := which.toNat = 1 ∧ fieldOf v 5 1 = 1
      s.d.barGate s.env who r n = none →
      (s.d.bit F.STU_FRING_CTL.ENABLE n = false → ¬ sets →
        ∃ t, exec (.fringRegWrite who which sl v) s = .next t ∧ (∀ f ∈ r.fields, f.acc = .RW → t.d.getF f n = fieldOf v f.lo f.width) ∧ onlyRegs s t [r]) ∧
      (s.d.bit F.STU_FRING_CTL.ENABLE n = true → which.toNat = 1 → fieldOf v 5 1 = 0 →
        ∃ t, exec (.fringRegWrite who which sl v) s = .next t ∧ t.d.bit F.STU_FRING_CTL.ENABLE n = false ∧ (t.d.fring n).batch = [] ∧ t.env = s.env) ∧
      (sets → s.d.bit F.STU_FRING_CTL.ENABLE n = false → 6 ≤ fieldOf v 0 5 → fieldOf v 0 5 ≤ 16 →
        ∃ d₁ : Die, exec (.fringRegWrite who which sl v) s = .next { s with d := (d₁.fringPump s.env n).portsPump s.env } ∧ d₁.bit F.STU_FRING_CTL.ENABLE n = true ∧
          d₁.getF F.STU_FRING_STATUS.PRODUCED n = 0 ∧ d₁.getF F.STU_FRING_CTL.LOG2_SIZE n = fieldOf v 0 5) ∧
      ((s.d.bit F.STU_FRING_CTL.ENABLE n = true ∧ (which.toNat ≠ 1 ∨ fieldOf v 5 1 = 1) ∨
          s.d.bit F.STU_FRING_CTL.ENABLE n = false ∧ sets ∧ (fieldOf v 0 5 < 6 ∨ 16 < fieldOf v 0 5)) →
        exec (.fringRegWrite who which sl v) s = .next { s with d := s.d.reject F.STU_STATUS.CFG_REJECT 0 }))) ∧
  (∀ (s : State) (who : Who) (v : Word), s.d.barGate s.env who .STU_ACNT_CLR 0 = none → fieldOf v 0 15 < 18432 →
    ∃ t, exec (.acntClr who v) s = .next t ∧ t.d.getF F.STU_ACNT.LOCAL (fieldOf v 0 15) = 0 ∧ t.d.getF F.STU_ACNT.REMOTE (fieldOf v 0 15) = 0 ∧
      t.d.getF F.STU_ACNT.HOST (fieldOf v 0 15) = 0 ∧ onlyRegs s t [.STU_ACNT] ∧ ∀ p, p ≠ fieldOf v 0 15 → t.d.reg .STU_ACNT p 0 = s.d.reg .STU_ACNT p 0) ∧
  (∀ s : State,
    let due := s.d.stu.decayDue ≠ 0
    let k := min 16 s.d.stu.decayDue
    (due → ∃ t, exec .acntDecay s = .next t ∧ t.d.stu.decayDue = 0 ∧ keepsRegs s.d t.d [.STU_ACNT] ∧ t.d.mem = s.d.mem ∧ t.env = s.env ∧
      ∀ f ∈ ([F.STU_ACNT.LOCAL, F.STU_ACNT.REMOTE, F.STU_ACNT.HOST] : List Fld), ∀ p, t.d.getF f p ≤ s.d.getF f p / 2 ^ k ∧
        (((Tab.get [] s.d.regs Reg.STU_ACNT.ctorIdx).map (fun x => x.1 / 8)).Nodup → t.d.getF f p = s.d.getF f p / 2 ^ k)) ∧
    (¬ due → exec .acntDecay s = .next s))

/-! ### The host port (chapters 2, 12 and 16) -/

/-- A HOST_PORT_REQUEST (R91, R439, R478, R505, R510) before phase 3, or by an identity bound to nothing, is aborted, and the second is counted in PASID_MISS; one for BAR0 by an identity of a slice is aborted; a write to BAR2 acts as a doorbell, a read of a doorbell slot answers HEAD and TAIL, and a request
for device memory joins the others in their order. HOST_COMPLETION (R54, R481) ends the outstanding read of its tag: its bytes reach what asked for them, and a status other than 0 is reported as HOST_ABORT, but for the read of a dirty log (R120); one that answers no read, or one that waits for its credit (R461, R478), has no effect. The buffers of a request that does not wait are freed at once.
Log entries 1, 26, 30, 97 (the model's own choices). -/
def Obligations.HostRequestsAndCompletionsReachTheirTargets : Prop :=
  (∀ (s : State) (q : HpReq), s.d.bt.pwrGood = true → (q.who = .pf ∨ (∃ n, q.who = .pasid n) ∨ ∃ n, q.who = .vf n) →
    let d := (s.d.hostInCount s.env (if q.wr then q.data.length else 0)).hpTaken q
    let e := s.env
    (s.d.phase < 3 → exec (.hostPortRequest q) s = .next { s with d := d.hpAbort e q }) ∧
    (3 ≤ s.d.phase → q.parOk = true → s.d.fire0 Cs.HOST_ABORT 0 = false → s.d.resolve q.who = .unbound →
      exec (.hostPortRequest q) s = .next { s with d := (d.incSat F.SM_STATUS.PASID_MISS 0 1).hpAbort e q }) ∧
    (3 ≤ s.d.phase → q.parOk = true → s.d.fire0 Cs.HOST_ABORT 0 = false → s.d.resolve q.who ≠ .unbound →
      (q.target = .bar0 → s.d.resolve q.who ≠ .privileged → exec (.hostPortRequest q) s = .next { s with d := d.hpAbort e q }) ∧
      (q.target = .bar0 → s.d.resolve q.who = .privileged → q.wr = true → exec (.hostPortRequest q) s = State.bar0Write { s with d := d } q.who q.addr.toNat q.data) ∧
      (q.target = .bar0 → s.d.resolve q.who = .privileged → q.wr = false → ∀ b d', d.bar0Read s.env q.who q.addr.toNat q.len.toNat = (some b, d') →
        exec (.hostPortRequest q) s = .next { s with d := d'.hpAnswer e q b }) ∧
      (q.target = .bar2 → q.wr = true → q.data.length ≤ 127 → exec (.hostPortRequest q) s =
        exec (.doorbell q.who (BitVec.ofNat 24 q.addr.toNat) (BitVec.ofNat 7 q.data.length) (BitVec.ofNat 64 (numLE (q.data.take 8)))) { s with d := d }) ∧
      (∀ n, q.target = .bar2 → q.wr = false → q.len.toNat = 8 → q.addr.toNat % 8 = 0 → q.addr.toNat / 4096 < 4096 → d.resolve q.who = .privileged →
        d.ringAt (q.addr.toNat / 4096) (q.addr.toNat % 4096 / 8) = some n →
        exec (.hostPortRequest q) s = .next { s with d := d.hpAnswer e q (bytesLE 8 (d.head n + d.tail n * 2 ^ 32)) }) ∧
      (q.target = .mem → (q.wr = false ∨ 5 ≤ s.d.phase) →
        ∃ d₁ : Die, exec (.hostPortRequest q) s = .next { s with d := d₁.pump s.env } ∧ d₁.bt.inq = s.d.bt.inq ++ [(s.d.nid, q)] ∧ d₁.regs = d.regs ∧ d₁.mem = s.d.mem))) ∧
  (∀ (s : State) (tag : BitVec 10) (st : BitVec 4) (data : List Byte) (ok : Bool),
    ((s.d.bt.reads.find? (fun r => decide (r.1 = tag.toNat)) = none ∨ s.d.readWaits tag.toNat = true) → exec (.hostCompletion tag st data ok) s = .next s) ∧
    (s.d.readWaits tag.toNat = false →
    (∀ who a u, s.d.bt.reads.find? (fun r => decide (r.1 = tag.toNat)) = some (tag.toNat, who, a, data.length, u) → st = 0 → ok = true → s.d.fire0 Cs.HOST_ABORT 0 = false →
      ∃ d₁ : Die, exec (.hostCompletion tag st data ok) s = .next { s with d := (d₁.hostData s.env u a data).pump s.env } ∧ (∀ r ∈ d₁.bt.reads, r.1 ≠ tag.toNat) ∧
        (∀ r ∈ s.d.bt.reads, r.1 ≠ tag.toNat → r ∈ d₁.bt.reads) ∧ d₁.mem = s.d.mem ∧ d₁.sf = s.d.sf) ∧
    (∀ who a n u, s.d.bt.reads.find? (fun r => decide (r.1 = tag.toNat)) = some (tag.toNat, who, a, n, u) → st ≠ 0 → ok = true → s.d.fire0 Cs.HOST_ABORT 0 = false → u.isLog = true →
      ∃ d₁ : Die, exec (.hostCompletion tag st data ok) s = .next { s with d := (d₁.hostError u a st.toNat).pump s.env } ∧
        (∀ r ∈ d₁.bt.reads, r.1 ≠ tag.toNat) ∧ d₁.ay = s.d.ay ∧ d₁.sf = s.d.sf) ∧
    (∀ who a n u, s.d.bt.reads.find? (fun r => decide (r.1 = tag.toNat)) = some (tag.toNat, who, a, n, u) → st ≠ 0 → ok = true → s.d.fire0 Cs.HOST_ABORT 0 = false →
      u.isLog = false → s.d.bit F.AY_STATUS.HANDLING 0 = false →
      ∃ d₁ : Die, exec (.hostCompletion tag st data ok) s = .next { s with d := ((d₁.report s.env
          { cause := Cs.HOST_ABORT, inst := 0, ctx := d₁.useCtx u, slice := d₁.useSlice u, det0 := st.toNat }).hostError u a st.toNat).pump s.env } ∧
        (∀ r ∈ d₁.bt.reads, r.1 ≠ tag.toNat) ∧ d₁.sf = s.d.sf)))

/-! ### Slices, pages and the dirty log (chapter 3) -/

/-- The sub-operations of SLICE_CTL that set a slice up (R83, R85, R96 to R100, Tables 3.5 and 3.6), once begun: CREATE makes an UNUSED slice BUILDING with its kind, homing and clusters; CLUSTERS replaces the mask; PAGES_ASSIGN
makes FREE pages OWNED by the slice and PAGES_RELEASE makes owned pages UNSCRUBBED, and no other page changes; BIND replaces both identities; ACTIVATE makes a bound slice ACTIVE. CREATE of a slice in use is
refused with reason WRONG_STATE, PAGES_RELEASE of a page not owned with NOT_OWNER and ACTIVATE of an unbound slice with its reason, and nothing but the command changes.
Log entry 72 (the model's own choices). -/
def Obligations.SliceSetUpFollowsItsStates : Prop :=
  ∀ (s : State) (id : Nat) (c : Cmd) (d : Die), Acting s id Op.SLICE_CTL c d → c.aux = 0 →
    let sl := c.sl
    let refused := fun (i : Instr) (why detail : Nat) => exec i s = .next (actsTo s id c (d.finish id St.OK (2 ^ 63 + why * 2 ^ 56 + detail)))
    let done := fun (i : Instr) (P : Die → Prop) => ∃ d₁ : Die, exec i s = .next (actsTo s id c (d₁.opDone s.env c 0)) ∧ P d₁ ∧ d₁.mem.dram = d.mem.dram
    (c.arg0 = 0 → d.sliceState sl ≠ 0 → refused (.create id) 1 0) ∧
    (c.arg0 = 0 → d.sliceState sl = 0 → (bitsOf (c.q 32) 0 1 = 1 → ∀ k ∈ maskList (c.q 40), d.unavailable s.env sl (decide (bitsOf (c.q 32) 2 1 = 1)) (bitsOf (c.q 32) 3 3) k = false) →
      done (.create id) (fun d₁ => d₁.sliceState sl = 1 ∧ d₁.getF F.SM_SLICE.KIND sl = bitsOf (c.q 32) 0 1 ∧ d₁.getF F.SM_SLICE.LENDABLE sl = bitsOf (c.q 32) 1 1 ∧
        d₁.getF F.SM_SLICE.HOMING sl = bitsOf (c.q 32) 2 1 ∧ d₁.getF F.SM_SLICE.HOME_REGION sl = bitsOf (c.q 32) 3 3 ∧
        d₁.reg .SM_SLICE_CLUSTERS sl 0 = BitVec.ofNat 64 (c.q 40))) ∧
    (c.arg0 = 1 → d.bit F.SM_SLICE.KIND sl = true → c.q 40 = 0 → exec (.clusters id) s = .next (actsTo s id c (d.cmdFail s.env c St.BAD_ARG false))) ∧
    (c.arg0 = 1 → d.bit F.SM_SLICE.KIND sl = false → (d.sliceState sl = 1 ∨ d.sliceState sl = 4) →
      done (.clusters id) (fun d₁ => d₁.reg .SM_SLICE_CLUSTERS sl 0 = BitVec.ofNat 64 (c.q 40) ∧ d₁.sliceState sl = d.sliceState sl)) ∧
    (c.arg0 = 1 → d.bit F.SM_SLICE.KIND sl = true → c.q 40 ≠ 0 → (d.sliceState sl = 1 ∨ d.sliceState sl = 4) →
      (∀ k ∈ maskList (c.q 40), d.unavailable s.env sl (d.bit F.SM_SLICE.HOMING sl) (d.getF F.SM_SLICE.HOME_REGION sl) k = false) →
      done (.clusters id) (fun d₁ => d₁.reg .SM_SLICE_CLUSTERS sl 0 = BitVec.ofNat 64 (c.q 40) ∧ d₁.sliceState sl = d.sliceState sl)) ∧
    (c.arg0 = 2 → d.inState sl [1, 2, 3, 4] = true → (∀ p ∈ c.pageList, d.present s.env p = true ∧ d.pageState p = 1) →
      (d.bit F.SM_SLICE.HOMING sl = true → ∀ p ∈ c.pageList, stackOf p = d.getF F.SM_SLICE.HOME_REGION sl) →
      ∃ d₁ : Die, exec (.pagesAssign id) s = .next (actsTo s id c (d₁.startPot 0 sl c.pageList (some id))) ∧
        (∀ p ∈ c.pageList, d₁.pageState p = 2 ∧ d₁.pageOwner p = sl) ∧ (∀ p, p ∉ c.pageList → d₁.reg .SM_POT p 0 = d.reg .SM_POT p 0) ∧
        keepsRegs d d₁ [.SM_POT, .STU_ACNT] ∧ d₁.mem = d.mem) ∧
    (c.arg0 = 3 → d.inState sl [1, 2, 3, 4] = true → (∀ p ∈ c.pageList, d.present s.env p = true ∧ d.ownedBy p sl = true ∧ d.rangeSlot p = none ∧ d.spanSlot p = none) →
      ∃ d₁ : Die, exec (.pagesRelease id) s = .next (actsTo s id c (d₁.startPot 1 sl c.pageList (some id))) ∧
        (∀ p ∈ c.pageList, d₁.pageState p = 0) ∧ (∀ p, p ∉ c.pageList → d₁.reg .SM_POT p 0 = d.reg .SM_POT p 0) ∧
        keepsRegs d d₁ [.SM_POT, .STU_ACNT] ∧ d₁.mem = d.mem) ∧
    (c.arg0 = 3 → d.inState sl [1, 2, 3, 4] = true → ∀ p, firstBad c.pageList (fun p => !(d.present s.env p) || !(d.ownedBy p sl)) = some p → refused (.pagesRelease id) 3 p) ∧
    (c.arg0 = 4 → d.inState sl [1, 4] = true → (∀ q ∈ d.sm.quiesce, q.sl ≠ sl) → d.bound sl = true → done (.activate id) (fun d₁ => d₁.sliceState sl = 2)) ∧
    (c.arg0 = 4 → d.inState sl [1, 4] = true → (∀ q ∈ d.sm.quiesce, q.sl ≠ sl) → d.bound sl = false → refused (.activate id) 9 0) ∧
    (c.arg0 = 8 → d.inState sl [1, 4] = true →
      let pv := dfield c.desc 32 20 1
      let vv := dfield c.desc 36 7 1
      let pasid := dfield c.desc 32 0 20
      let vf := dfield c.desc 36 0 6
      (pv = 1 → ∀ t < 512, t ≠ sl → ¬ (d.bit F.SM_SLICE_BIND.PASID_VALID t = true ∧ d.getF F.SM_SLICE_BIND.PASID t = pasid)) →
      (vv = 1 → ∀ t < 512, t ≠ sl → ¬ (d.bit F.SM_SLICE_BIND.VF_VALID t = true ∧ d.getF F.SM_SLICE_BIND.VF t = vf)) →
      done (.bind id) (fun d₁ => d₁.getF F.SM_SLICE_BIND.PASID_VALID sl = pv ∧ (pv = 1 → d₁.getF F.SM_SLICE_BIND.PASID sl = pasid) ∧
        d₁.getF F.SM_SLICE_BIND.VF_VALID sl = vv ∧ (vv = 1 → d₁.getF F.SM_SLICE_BIND.VF sl = vf) ∧ keepsRegs d d₁ [.SM_SLICE_BIND]))

/-- A slice stops and is reclaimed (R95, R109 to R115): DISABLE and RECLAIM of an ACTIVE slice make it QUIESCING with a grace, after whose end its work is cancelled; FORCE_DISABLE cancels at once; a slice that has drained goes to
DISABLED, and RECLAIM of a slice that does not run takes it to TEARDOWN; its lines are flushed, its keys retired, its pages become UNSCRUBBED, and with the last page scrubbed its entry is cleared and the slice UNUSED.
Log entries 1, 72 (the model's own choices). -/
def Obligations.SlicesStopAndAreReclaimedStepByStep : Prop :=
  (∀ (s : State) (id : Nat) (c : Cmd) (d : Die), Acting s id Op.SLICE_CTL c d → c.aux = 0 →
    let sl := c.sl
    (c.arg0 = 5 → d.sliceState sl = 2 →
      ∃ d₁ : Die, exec (.disable id) s = .next (actsTo s id c (d₁.opBegun c 0 sl)) ∧ d₁.sliceState sl = 3 ∧
        d₁.sm.quiesce = d.sm.quiesce ++ [{ sl := sl, toTear := false, graceEnd := d.graceEnd s.env (c.w 32) }] ∧ d₁.mem = d.mem) ∧
    (c.arg0 = 6 → (d.sliceState sl = 1 ∨ d.sliceState sl = 2) → (∀ q ∈ d.sm.quiesce, q.sl ≠ sl) →
      ∃ d₁ : Die, exec (.forceDisable id) s = .next (actsTo s id c ((d₁.setCmd { c with aux := 1 }).addFence c 2 sl [] false)) ∧ d₁ = d.forceDisable s.env sl ∧
        d₁.sm.quiesce = d.sm.quiesce ++ [{ sl := sl, toTear := false, graceEnd := s.env.now, expired := true }]) ∧
    (c.arg0 = 7 → d.sliceState sl = 2 → (∀ q ∈ d.sm.quiesce, q.sl ≠ sl) →
      ∃ d₁ : Die, exec (.reclaim id) s = .next (actsTo s id c (d₁.opBegun c 1 sl)) ∧ d₁.sliceState sl = 3 ∧ d₁.getF F.SM_SLICE.STEP sl = 1 ∧
        d₁.sm.quiesce = d.sm.quiesce ++ [{ sl := sl, toTear := true, graceEnd := d.graceEnd s.env (c.w 32) }]) ∧
    (c.arg0 = 7 → (d.sliceState sl = 1 ∨ d.sliceState sl = 4) → (∀ q ∈ d.sm.quiesce, q.sl ≠ sl) →
      exec (.reclaim id) s = .next (actsTo s id c ((d.enterTear s.env sl).opBegun c 1 sl)))) ∧
  (∀ (s : State) (sl : BitVec 9) (q : Quiesce),
    let n := sl.toNat
    (s.d.sm.quiesce.find? (fun q => decide (q.sl = n)) = some q →
      (s.env.now < q.graceEnd → exec (.graceExpiry sl) s = .next s) ∧
      (q.graceEnd ≤ s.env.now → q.expired = false → exec (.graceExpiry sl) s = .next { s with d := s.d.cancelSlice s.env n }) ∧
      (q.expired = true → q.toTear = false → s.d.openCtxs n = [] → (∀ c ∈ s.d.sliceCtxs n, s.d.ctxState c = 5 ∧ s.d.tearing c = false) → s.d.sliceIdle n = true →
        ∃ d₁ : Die, exec (.sliceDrained sl) s = .next { s with d := d₁.fencesGo s.env } ∧ d₁.sliceState n = 4 ∧ (∀ x ∈ d₁.sm.quiesce, x.sl ≠ n) ∧ d₁.mem = s.d.mem) ∧
      (q.expired = false → s.d.allStopped n = false → exec (.sliceDrained sl) s = .next s)) ∧
    (s.d.sliceState n = 5 → s.d.getF F.SM_SLICE.STEP n = 3 →
      (s.d.flushRuns (.reclaim n) = true → exec (.reclaimFlushDone sl) s = .next s) ∧
      (s.d.flushRuns (.reclaim n) = false → (∀ k ∈ s.d.slotsOf n, s.d.slotState k ≠ 2) →
        ∃ t, exec (.reclaimFlushDone sl) s = .next t ∧ t.d.getF F.SM_SLICE.STEP n = 4 ∧ t.d.sliceState n = 5 ∧ onlyRegs s t [.SM_SLICE])) ∧
    (s.d.sliceState n = 5 → s.d.getF F.SM_SLICE.STEP n = 4 → s.d.slotsOf n = [] →
      ∃ t, exec (.reclaimKeysDone sl) s = .next t ∧ t.d.getF F.SM_SLICE.STEP n = 5 ∧ (∀ p ∈ s.d.pagesOf n, t.d.pageState p = 0) ∧
        (∀ p, p ∉ s.d.pagesOf n → t.d.reg .SM_POT p 0 = s.d.reg .SM_POT p 0) ∧ keepsRegs s.d t.d [.SM_SLICE, .SM_POT] ∧ t.d.mem = s.d.mem ∧ t.env = s.env) ∧
    (∀ o, s.d.sliceState n = 5 → s.d.getF F.SM_SLICE.STEP n = 5 → s.d.sm.potOps.find? (fun o => decide (o.sl = n ∧ (o.kind = 2 ∨ o.kind = 5))) = some o →
      o.kind = 5 → (∀ p ∈ o.pages, ∀ x ∈ s.d.sm.scrubs, x.1 ≠ p) →
      ∃ d₁ : Die, exec (.reclaimScrubDone sl) s = .next { s with d := d₁.fencesGo s.env } ∧ d₁.sliceState n = 0 ∧
        (∀ r ∈ ([.SM_SLICE, .SM_SLICE_CLUSTERS, .SM_SLICE_BIND, .SM_SLICE_ACLASS, .SM_SLICE_LOG, .CH_VIS, .CH_WATCH_MASK, .WE_LBW] : List Reg), d₁.reg r n 0 = r.resetWord 0) ∧
        d₁.getF F.SF_SLOT_QUOTA.MIN n = 0 ∧ d₁.getF F.SF_SLOT_QUOTA.MAX n = 0 ∧ d₁.mem = s.d.mem))

/-- Changes of page state, scrubs and the dirty log (R32, R107, R108, R116 to R121, R206): an assignment is done once every request checked before has been accepted; a page that left its owner is then purged; SCRUB queues the UNSCRUBBED pages it names that are no null-map pages, or joins the scrub that a reclamation
will make of them, and a page still to be scrubbed leaves its scrub FREE, its bytes zero; START, SWAP and STOP of the log take effect at once where no bit is being set, and a confirmed bit stays in the filter; SM_POT_SET reserves or withdraws an UNSCRUBBED page for Steward before firmware seal.
Log entries 1, 8, 73 (the model's own choices). -/
def Obligations.PagesChangeAreScrubbedAndLogged : Prop :=
  (∀ (s : State) (o : PotOp), s.d.sm.potOps.find? (fun x => decide (x.id = o.id)) = some o → o.flush = none →
    (s.d.potFree o = false → exec (.potChangeDone o.id) s = .next s) ∧
    (s.d.potFree o = true → o.kind = 0 → exec (.potChangeDone o.id) s = .next { s with d := s.d.potEnd s.env o }) ∧
    (s.d.potFree o = true → o.kind = 1 →
      exec (.potChangeDone o.id) s = .next { s with d := (s.d.setPot { o with flush := some s.d.nid }).startFlush s.env (.pages o.pages) (.potOp o.id) })) ∧
  (∀ (s : State) (id : Nat) (c : Cmd) (d : Die), Acting s id Op.SCRUB c d →
    ∃ d₁ : Die, exec (.scrub id) s = .next (actsTo s id c (d₁.fencesGo s.env)) ∧
      ∃ ps : List Nat, d₁.cmd id = some { c with st := .done, status := St.OK, result := ps.length } ∧
        (∀ p, p ∈ ps ↔ (∃ i, i < c.w 12 ∧ p = c.w 8 + i) ∧ d.present s.env p = true ∧
          d.isNmapPage s.env p = false ∧ (d.pageState p = 0 ∨ (c.q 32 = 1 ∧ d.pageState p = 3 ∧ d.bit F.SM_POT.ORPHAN p = true))) ∧
        (∀ p ∈ ps, (∃ b, (p, b) ∈ d₁.sm.scrubs) ∨ ∃ o ∈ d₁.sm.potOps, o.kind = 2 ∧ p ∈ o.pages) ∧ (∀ p, d₁.pageState p = d.pageState p) ∧ d₁.mem.dram = d.mem.dram) ∧
  (∀ (s : State) (p : BitVec 15),
    let n := stackOf p.toNat
    ((p.toNat, true) ∈ s.d.sm.scrubs → (∀ f ∈ s.d.coh.flushes, f.filter.meets s.env s.d p.toNat = false) → n ∉ s.d.mem.retr → Tab.get none s.d.mem.cal n = none →
      s.d.bit F.MC_STATUS.NMAP_READY n = true → s.d.running n = true → (∀ x ∈ s.d.coh.dir, pageOfLine x.1 = p.toNat → x.2 = none) →
      ∃ d₁ : Die, exec (.pageScrubDone p) s = .next { s with d := (d₁.scrubPump s.env).fencesGo s.env } ∧
        (s.d.scrubbable s.env p.toNat = true → d₁.pageState p.toNat = 1) ∧ (s.d.scrubbable s.env p.toNat = false → d₁.pageState p.toNat = s.d.pageState p.toNat) ∧ d₁.getF F.SM_POT.SCRUBBING p.toNat = 0 ∧
        (∀ a, a / 2 ^ 25 = p.toNat → Tab.get 0 d₁.mem.dram a = 0) ∧ (∀ a, a / 2 ^ 25 ≠ p.toNat → Tab.get 0 d₁.mem.dram a = Tab.get 0 s.d.mem.dram a) ∧
        (∀ x ∈ d₁.sm.scrubs, x.1 ≠ p.toNat))) ∧
  (∀ (s : State) (id : Nat) (c : Cmd) (d : Die), Acting s id Op.LOG_CTL c d →
    (c.arg0 = 0 → d.bit F.SM_SLICE.LOG_ON c.sl = false → d.inState c.sl [1, 2, 3, 4] = true →
      ∃ t, exec (.logStart id) s = .next t ∧ t.d.bit F.SM_SLICE.LOG_ON c.sl = true ∧ t.d.cmd id = some { c with st := .done, status := St.OK, result := 0 } ∧
        t.d.getF F.SM_SLICE_LOG.BITMAP c.sl = c.q 16 / 4096 % 2 ^ F.SM_SLICE_LOG.BITMAP.width ∧ t.d.sm.logs = d.sm.logs ++ [{ sl := c.sl }]) ∧
    (∀ l, c.arg0 = 1 → c.aux = 0 → d.bit F.SM_SLICE.LOG_ON c.sl = true → d.bit F.SM_SLICE.LOG_FAILED c.sl = false → d.dlog c.sl = some l → l.pend = [] → l.stop = none →
      ∃ t, exec (.logSwap id) s = .next t ∧ (∃ x, t.d.cmd id = some x ∧ x.st = .done ∧ x.status = St.OK ∧ x.result = 0) ∧
        (∃ m, t.d.dlog c.sl = some m ∧ m.filter = []) ∧
        t.d.getF F.SM_SLICE_LOG.BITMAP c.sl = c.q 16 / 4096 % 2 ^ F.SM_SLICE_LOG.BITMAP.width) ∧
    (∀ l, c.arg0 = 2 → c.aux = 0 → d.bit F.SM_SLICE.LOG_ON c.sl = true → d.dlog c.sl = some l → l.pend = [] → l.swap = none →
      ∃ t, exec (.logStop id) s = .next t ∧ (∃ x, t.d.cmd id = some x ∧ x.st = .done ∧ x.status = St.OK ∧ x.result = 0) ∧
        t.d.bit F.SM_SLICE.LOG_ON c.sl = false ∧ t.d.dlog c.sl = none) ∧
    (c.arg0 = 2 → c.aux = 0 → d.bit F.SM_SLICE.LOG_ON c.sl = false → exec (.logStop id) s = .next (actsTo s id c (d.finish id St.OK (2 ^ 63 + 10 * 2 ^ 56))))) ∧
  (∀ (s : State) (sl : BitVec 9) (g : BitVec 19) (l : DLog) (x : Nat × Nat × Nat), s.d.dlog sl.toNat = some l →
    (l.pend.find? (fun x => decide (x.1 = g.toNat ∧ x.2.2 % 10 = 2)) = some x → x.2.2 < 10 →
      exec (.dirtyLogConfirm sl g) s = .next { s with d :=
        ((s.d.setLog { l with pend := l.pend.filter (fun y => decide (y ≠ x)), filter := l.filter ++ [g.toNat] }).logPump sl.toNat).settleAll s.env }) ∧
    (l.pend.find? (fun x => decide (x.1 = g.toNat ∧ x.2.2 % 10 = 2)) = none → exec (.dirtyLogConfirm sl g) s = .next s)) ∧
  (∀ (s : State) (v : Word), s.d.barGate s.env .steward .SM_POT_SET 0 = none →
    (∀ st, (st = 3 ∨ st = 4) → fieldOf v 16 3 = st → s.env.fwSeal = false → s.d.present s.env (fieldOf v 0 15) = true → s.d.pageState (fieldOf v 0 15) = 0 →
      ∃ t, exec (.potSet .steward v) s = .next t ∧ t.d.pageState (fieldOf v 0 15) = st ∧ onlyRegs s t [.SM_POT] ∧
        ∀ p, p ≠ fieldOf v 0 15 → t.d.reg .SM_POT p 0 = s.d.reg .SM_POT p 0) ∧
    ((s.env.fwSeal = true ∨ s.d.pageState (fieldOf v 0 15) ≠ 0) → exec (.potSet .steward v) s = .next { s with d := s.d.reject F.SM_STATUS.CFG_REJECT 0 }))

/-! ### Windows, link ports and system time (chapter 6) -/

/-- The request packets of Table 6.4, by row. -/
def packetRows : List ((BitVec 4 → List Byte → BitVec 128 → Instr) × Nat) :=
  [(Instr.rdReq, 1), (Instr.wr, 3), (Instr.red, 4), (Instr.windowAtomic, 5), (Instr.fsig, 7)]

/-- A received request packet (R184, R189, Table 6.6): one dropped at step 1, or at a port that is down, is counted in RX_DROP and answered by nothing; the first failing check decides the NACK, BAD_DEST 2, MALFORMED 1, NO_WINDOW 3 and the causes of the later
steps; one that passes them all is performed, and answered with RD_RSP, ATOMIC_RSP or ACK; one whose opening mismatched twice is answered with NACK 12.
Log entries 8, 57 (the model's own choices). -/
def Obligations.RequestPacketsAreCheckedInOrderAndAnswered : Prop :=
  ∀ x ∈ packetRows, ∀ (s : State) (p : BitVec 4) (b b' : List Byte) (tag : BitVec 128) (v : Bool) (d : Die), pktOp b = x.2 →
    let k := d.nid
    let pk : RxPkt := { k := k, port := p.toNat, bytes := b', verified := v }
    let dr : Die := { d with nid := k + 1, we := { d.we with rx := d.we.rx ++ [pk] } }
    (s.d.bit F.WE_PORT_STATUS.UP p.toNat = false → exec (x.1 p b tag) s = .next { s with d := s.d.incSat F.WE_STATUS.RX_DROP 0 1 }) ∧
    (s.d.rxArrive s.env p.toNat b tag true = (d, none) → exec (x.1 p b tag) s = .next { s with d := d }) ∧
    (s.d.rxArrive s.env p.toNat b tag true = (d, some (b', none)) → ∃ r : RxPkt, r.port = p.toNat ∧ r.bytes = b' ∧ exec (x.1 p b tag) s = .next { s with d := d.rxDone s.env r 9 12 [] }) ∧
    (s.d.rxArrive s.env p.toNat b tag true = (d, some (b', some v)) → (∀ y ∈ d.we.rx, y.k ≠ k) →
      (pktF b' 6 2 ≠ fieldOf s.env.dieId 0 16 → exec (x.1 p b tag) s = .next { s with d := dr.rxDone s.env pk 9 2 [] }) ∧
      (pktF b' 6 2 = fieldOf s.env.dieId 0 16 → pktSpan b' = none → exec (x.1 p b tag) s = .next { s with d := dr.rxDone s.env pk 9 1 [] }) ∧
      (∀ r, pktF b' 6 2 = fieldOf s.env.dieId 0 16 → pktSpan b' = some r → d.winMatch (d.winEntry (pktWin b')) (pktSrc b') = false →
        exec (x.1 p b tag) s = .next { s with d := dr.rxDone s.env pk 9 3 [] }) ∧
      (∀ r, pktF b' 6 2 = fieldOf s.env.dieId 0 16 → pktSpan b' = some r → d.winMatch (d.winEntry (pktWin b')) (pktSrc b') = true →
        let ws := d.winEntry (pktWin b')
        let pm : RxPkt := { pk with ent := ws }
        let dm : Die := { dr with we := { dr.we with rx := dr.we.rx.map (fun y => if y.k = k then pm else y) } }
        let act : Act (Nat × List Byte) := do
          let y ← pktTranslate pm ws r
          pktPerform pm ws y
        (∀ a d', attempt s.env dm (.packet k) act = .ok a d' → exec (x.1 p b tag) s = .next { s with d := d'.rxDone s.env pm a.1 0 a.2 }) ∧
        (∀ c u d', attempt s.env dm (.packet k) act = .stop c u d' →
          exec (x.1 p b tag) s = .next { s with d := d'.rxDone s.env pm 9 (if 1000 ≤ c then c - 1000 else if c = St.LOST then 11 else 12) [] }) ∧
        (∀ d', attempt s.env dm (.packet k) act = .wait d' → exec (x.1 p b tag) s = .next { s with d := d' })))

/-- A response packet (R181, R193, R195, R196): one that matches no outstanding request is counted in STALE; otherwise its tracker is free, and the data of RD_RSP, ATOMIC_RSP or of an FSIG's ACK reaches the request, a NACK fails it with its cause, and a response whose opening mismatched twice ends it with BUS_ERROR. WINDOW_RSP_TIMEOUT fails a request that has stood for
RSP_TIMEOUT_US with cause 16, and changes nothing before.
Log entries 1, 58 (the model's own choices). -/
def Obligations.ResponsesEndTheirTrackers : Prop :=
  (∀ x ∈ ([(Instr.rdRsp, 2), (Instr.atomicRsp, 6), (Instr.ack, 8), (Instr.nack, 9)] : List ((BitVec 4 → List Byte → BitVec 128 → Instr) × Nat)),
    ∀ (s : State) (p : BitVec 4) (b b' : List Byte) (tag : BitVec 128) (v : Option Bool) (d : Die), pktOp b = x.2 →
      s.d.rxArrive s.env p.toNat b tag true = (d, some (b', v)) →
      let free := d.send (.credit (64 + p.toNat) (pktClass b'))
      let dc := if x.2 = 9 then free.count (3568 + 16 * p.toNat + 7) 1 else free
      let mine : Trk → Bool := fun t => decide (t.n + 8192 * t.gen = pktTag b' ∧ t.req.die = pktSrc b') && answers t x.2 (b'.drop 32).length
      (d.we.trks.find? mine = none → exec (x.1 p b tag) s = .next { s with d := dc.incSat F.WE_STATUS.STALE 0 1 }) ∧
      (∀ t, d.we.trks.find? mine = some t → t.dead = false →
        let d₀ : Die := { dc with we := { dc.we with trks := dc.we.trks.filter (fun y => decide (y.n ≠ t.n)) } }
        (v = none → exec (x.1 p b tag) s = .next { s with d := (d₀.winEnds s.env t.req St.BUS_ERROR).winGo s.env t.req.use }) ∧
        (v ≠ none → x.2 = 9 → exec (x.1 p b tag) s = .next { s with d := (d₀.winFail s.env t.req (pktAux b')).winGo s.env t.req.use }) ∧
        (v ≠ none → x.2 ≠ 9 → (t.req.op = 3 ∨ t.req.op = 4) → exec (x.1 p b tag) s = .next { s with d := d₀.winGo s.env t.req.use }) ∧
        (v ≠ none → x.2 ≠ 9 → t.req.op ≠ 3 → t.req.op ≠ 4 →
          ∃ d₁ : Die, exec (x.1 p b tag) s = .next { s with d := d₁.winGo s.env t.req.use } ∧ d₁.regs = d₀.regs ∧ d₁.mem = d.mem ∧ d₁.sf = d.sf ∧ (∀ y ∈ d₁.we.trks, y.n ≠ t.n) ∧
            d₁.we.data = d₀.we.data ++ [{ use := t.req.use, die := t.req.die, win := t.req.win, op := t.req.op, off := t.req.off, bytes := b'.drop 32 }])) ∧
      (∀ t, d.we.trks.find? mine = some t → t.dead = true →
        exec (x.1 p b tag) s = .next { s with d := Die.winGo s.env { dc with we := { dc.we with trks := dc.we.trks.filter (fun y => decide (y.n ≠ t.n)) } } t.req.use })) ∧
  (∀ (s : State) (n : BitVec 13) (t : Trk), s.d.we.trks.find? (fun x => decide (x.n = n.toNat)) = some t →
    (s.env.now < t.sent + s.d.rspTimeout → exec (.windowRspTimeout n) s = .next s) ∧
    (t.sent + s.d.rspTimeout ≤ s.env.now → t.dead = false →
      ∃ d₁ : Die, exec (.windowRspTimeout n) s = .next { s with d := (d₁.winFail s.env t.req 16).winGo s.env t.req.use } ∧ (∀ y ∈ d₁.we.trks, y.n ≠ n.toNat) ∧ d₁.regs = s.d.regs ∧ d₁.mem = s.d.mem))

/-- MAP_WINDOW, link ports and credits (R186, R187, R197, R198): SET writes the window's entry whole and CLEAR clears its VALID, and the fence waits for the packets that matched the old entry; a SET for a kernel or invalid context is BAD_ARG, and one for a slice that is UNUSED or in TEARDOWN is refused; a port that goes
down with no request outstanding is counted and leaves its exchange and its keys, and one that comes up has 64 credits of each class; a returned credit is one more; a dropped packet is counted, and its
buffer's credit returns.
Log entries 1, 59, 60, 81 (the model's own choices). -/
def Obligations.WindowEntriesAndLinkPortsChange : Prop :=
  (∀ (s : State) (id : Nat) (c : Cmd) (d : Die), Acting s id Op.MAP_WINDOW c d →
    let w := dfield c.desc 8 0 12
    let ctx := dfield c.desc 32 1 12
    let begun_ := fun (t : State) => (∃ x, t.d.cmd id = some x ∧ x.st = .done ∧ x.status = St.OK ∧ x.result = 0) ∧ (∀ v j, v ≠ w → j < 8 → t.d.reg .WE_WTAB v j = d.reg .WE_WTAB v j) ∧
      t.d.we.mapOps = d.we.mapOps ++ [(d.nid, w, (d.we.rx.filter (fun p => decide (p.ent ≠ [] ∧ pktWin p.bytes = w))).map (·.k), id)] ∧ t.d.mem = d.mem ∧ t.env = s.env
    (c.arg0 = 0 → d.ctxValid ctx = true → d.isKernelCtx ctx = false → d.sliceState (d.ctxSlice ctx) ≠ 0 → d.sliceState (d.ctxSlice ctx) ≠ 5 →
      ∃ t, exec (.mapWindowSet id) s = .next t ∧ begun_ t ∧ ∀ i < 4, t.d.reg .WE_WTAB w i = BitVec.ofNat 64 (c.q (32 + 8 * i))) ∧
    (c.arg0 = 0 → (d.ctxValid ctx = false ∨ d.isKernelCtx ctx = true) → exec (.mapWindowSet id) s = .next (actsTo s id c (d.cmdFail s.env c St.BAD_ARG false))) ∧
    (c.arg0 = 0 → d.ctxValid ctx = true → d.isKernelCtx ctx = false → (d.sliceState (d.ctxSlice ctx) = 0 ∨ d.sliceState (d.ctxSlice ctx) = 5) →
      exec (.mapWindowSet id) s = .next (actsTo s id c (d.finish id St.OK (2 ^ 63 + 2 ^ 56)))) ∧
    (c.arg0 = 1 → ∃ t, exec (.mapWindowClear id) s = .next t ∧ begun_ t ∧ t.d.getF F.WE_WTAB.VALID w = 0)) ∧
  (∀ (s : State) (op : Nat) (x : Nat × Nat × List Nat × Nat), s.d.we.mapOps.find? (fun x => decide (x.1 = op)) = some x →
    ((∃ p ∈ s.d.we.rx, p.k ∈ x.2.2.1) → exec (.mapWindowDrained op) s = .next s) ∧
    ((∀ p ∈ s.d.we.rx, p.k ∉ x.2.2.1) → exec (.mapWindowDrained op) s = .next { s with d :=
      (({ s.d with we := { s.d.we with mapOps := s.d.we.mapOps.filter (fun y => decide (y.1 ≠ op)) } } : Die).fenceReady 4 op).fencesGo s.env })) ∧
  (∀ (s : State) (p : BitVec 4),
    let n := p.toNat
    (s.d.bit F.WE_PORT_STATUS.UP n = true → (∀ t ∈ s.d.we.trks, t.port ≠ n) →
      ∃ d₁ : Die, exec (.linkDown p) s = .next { s with d := d₁.routeGone s.env } ∧ d₁.bit F.WE_PORT_STATUS.UP n = false ∧ d₁.getF F.SE_LINK.STATE n = 0 ∧ Tab.get none d₁.se.links n = none ∧
        d₁.getF F.WE_PORT_STATUS.DOWN_COUNT n = min (s.d.getF F.WE_PORT_STATUS.DOWN_COUNT n + 1) (2 ^ F.WE_PORT_STATUS.DOWN_COUNT.width - 1) ∧ (∀ k ∈ d₁.se.kex, k.port ≠ n) ∧
        ((∃ k ∈ s.d.se.kex, k.port = n) → d₁.getF F.TS_KEX_STATUS.BUSY 0 = 0 ∧ d₁.getF F.TS_KEX_STATUS.STAGED 0 = 0) ∧ (∀ r ∈ d₁.we.rspq, r.1 ≠ n) ∧ d₁.mem = s.d.mem) ∧
    (s.d.bit F.WE_PORT_STATUS.UP n = false → exec (.linkDown p) s = .next s ∧
      ∃ d₁ : Die, exec (.linkUp p) s = .next { s with d := d₁.winPump s.env } ∧ d₁.bit F.WE_PORT_STATUS.UP n = true ∧ d₁.getF F.WE_PORT_STATUS.REQ_CREDITS n = 64 ∧
        d₁.getF F.WE_PORT_STATUS.RSP_CREDITS n = 64 ∧ keepsRegs s.d d₁ [.WE_PORT_STATUS] ∧ d₁.mem = s.d.mem) ∧
    (s.d.bit F.WE_PORT_STATUS.UP n = true → exec (.linkUp p) s = .next s) ∧
    (∀ c < 2, s.d.bit F.WE_PORT_STATUS.UP n = true →
      let f := if c = 0 then F.WE_PORT_STATUS.REQ_CREDITS else F.WE_PORT_STATUS.RSP_CREDITS
      (s.d.getF f n < 64 → ∃ d₁ : Die, exec (.creditReturn (BitVec.ofNat 7 (64 + n)) (BitVec.ofNat 4 c)) s = .next { s with d := d₁.winPump s.env } ∧ d₁.getF f n = s.d.getF f n + 1 ∧
        keepsRegs s.d d₁ [.WE_PORT_STATUS] ∧ d₁.mem = s.d.mem) ∧
      (64 ≤ s.d.getF f n → exec (.creditReturn (BitVec.ofNat 7 (64 + n)) (BitVec.ofNat 4 c)) s = .next s)) ∧
    (∀ b, s.d.bit F.WE_PORT_STATUS.UP n = false → exec (.rxDrop p b) s = .next { s with d := s.d.incSat F.WE_STATUS.RX_DROP 0 1 }) ∧
    (∀ b, s.d.bit F.WE_PORT_STATUS.UP n = true → pktTaken s.env b = true → exec (.rxDrop p b) s = .next s) ∧
    (∀ b, s.d.bit F.WE_PORT_STATUS.UP n = true → pktTaken s.env b = false → ∃ t, exec (.rxDrop p b) s = .next t ∧
      t.d.getF F.WE_STATUS.RX_DROP 0 = min (s.d.getF F.WE_STATUS.RX_DROP 0 + 1) (2 ^ F.WE_STATUS.RX_DROP.width - 1) ∧ (∃ d₁ : Die, t.d = d₁.send (.credit (64 + n) (pktClass b))) ∧ t.d.we = s.d.we ∧ t.d.mem = s.d.mem ∧ t.env = s.env))

/-- System time (R199, R200): a FOLLOWER whose interval has run sends TIME_REQ on its parent port; a die that is not OFF answers a TIME_REQ with the arrival stamp, its depth and its lock; a TIME_RSP that answers the follower's exchange steps die time forward by a lead above STEP_NS, and otherwise makes the lead the slew that is to come; the
exchange is counted. A response that answers no exchange changes no time.
Log entries 1, 58, 61 (the model's own choices). -/
def Obligations.TimeExchangesStepOrSlewDieTime : Prop :=
  (∀ s : State,
    let due := s.d.isFollower = true ∧ max 1 (s.d.getF F.WE_TIME_CFG.INTERVAL_TICKS 0) ≤ s.d.we.timeTicks ∧ fieldOf s.env.dieId 16 1 ≠ 0
    let d₁ : Die := { s.d with we := { s.d.we with timeTicks := 0, timeT1 := none } }
    let port := s.d.getF F.WE_TIME_CFG.PARENT_PORT 0
    (due → s.d.bit F.WE_PORT_STATUS.UP port = true → exec .timeExchange s = .next { s with d := d₁.respond s.env port 0x10 0 0 0 0 0 (timePayload 0 0 0 false) }) ∧
    (due → s.d.bit F.WE_PORT_STATUS.UP port = false → exec .timeExchange s = .next { s with d := d₁ }) ∧
    (¬ due → exec .timeExchange s = .next s)) ∧
  (∀ (s : State) (p : BitVec 4) (b b' : List Byte) (v : Option Bool) (d : Die),
    (pktOp b = 0x10 → s.d.rxArrive s.env p.toNat b 0 false = (d, some (b', v)) →
      let dc := d.send (.credit (64 + p.toNat) 1)
      (s.d.getF F.WE_TIME_CFG.ROLE 0 = 1 → exec (.timeReq p b) s = .next { s with d := dc.respond s.env p.toNat 0x11 (pktSrc b) 0 (pktTag b) 0 0 (timePayload (pktF b 32 8) s.env.now 0 true) }) ∧
      (s.d.getF F.WE_TIME_CFG.ROLE 0 = 2 → exec (.timeReq p b) s = .next { s with d := dc.respond s.env p.toNat 0x11 (pktSrc b) 0 (pktTag b) 0 0 (timePayload (pktF b 32 8) s.env.now (s.d.getF F.WE_TIME_STATUS.DEPTH 0) (s.d.bit F.WE_TIME_STATUS.LOCKED 0)) }) ∧
      (s.d.getF F.WE_TIME_CFG.ROLE 0 ≠ 1 → s.d.getF F.WE_TIME_CFG.ROLE 0 ≠ 2 → exec (.timeReq p b) s = .next { s with d := dc })) ∧
    (pktOp b = 0x11 → s.d.rxArrive s.env p.toNat b 0 false = (d, some (b', v)) →
      let t1 := pktF b 32 8
      let mine := s.d.isFollower = true ∧ p.toNat = s.d.getF F.WE_TIME_CFG.PARENT_PORT 0 ∧ s.d.we.timeT1 = some t1 ∧ s.env.now ≤ t1 + s.d.rspTimeout
      let th : Int := (signed64 (pktF b 40 8 + 2 ^ 64 - t1) - signed64 (s.env.now % 2 ^ 64 + 2 ^ 64 - pktF b 48 8)) / 2
      (mine → ∃ t, exec (.timeRsp p b) s = .next t ∧ t.pending = s.pending ∧
        t.env = (if (s.d.getF F.WE_TIME_CFG.STEP_NS 0 : Int) < th then { s.env with tq := s.env.tq + th.toNat * 65536, slew := 0 } else { s.env with slew := th * 65536 }) ∧
        t.d.getF F.WE_TIME_STATUS.SYNCS 0 = (s.d.getF F.WE_TIME_STATUS.SYNCS 0 + 1) % 2 ^ F.WE_TIME_STATUS.SYNCS.width ∧
        t.d.getF F.WE_TIME_STATUS.DEPTH 0 = min 255 (pktF b 56 1 + 1) ∧ (12 < pktF b 56 1 + 1 → t.d.bit F.WE_TIME_STATUS.LOCKED 0 = false ∧ t.d.bit F.WE_TIME_STATUS.TOO_DEEP 0 = true) ∧
        (100 < th.natAbs → t.d.bit F.WE_TIME_STATUS.LOCKED 0 = false) ∧ t.d.mem = s.d.mem) ∧
      (¬ mine → exec (.timeRsp p b) s = .next { s with d := d.send (.credit (64 + p.toNat) 1) })))

/-! ### Cluster ports, homes and snoops (chapters 7 and 16) -/

/-- Messages of a cluster's port (R462 to R467): a request that keeps to R465 and R466, of the kernel on the cluster, enters the port stop, one request for each line of a tile, its credit returned, and is translated in its turn; bad parity, a wrong context or a broken rule
fences the cluster as CLP_PARITY; a WB takes its cluster's one entry in its home's buffer, its credits returned, or waits at the port
stop behind the WB that has it (R226). A port that is fenced or whose region does not run takes nothing. A returned snoop credit frees one in use.
Log entries 1, 68 (the model's own choices). -/
def Obligations.ClusterRequestsEnterThePortStop : Prop :=
  ∀ (s : State) (k : BitVec 6) (h : BitVec 128) (beats : List (BitVec 128 × Line)),
    let n := k.toNat
    let counted := (((s.d.count (64 + 8 * n) 1).count (64 + 8 * n + 2) (128 * beats.length)).count (64 + 8 * n + 7) (128 * beats.length)).monitor s.env 0 n 1 (128 * beats.length)
    (∀ row op, (row, op) ∈ ([(fun p => Instr.clpReq k h p beats, bitsOf h.toNat 0 4), (fun p => Instr.tileStore k h p beats, 8)] : List ((Bool → Instr) × Nat)) ++
        (if beats = [] then ([(fun p => Instr.tileLoad k h p, 7)] : List ((Bool → Instr) × Nat)) else []) →
      (s.d.portOn s.env n = false → ∀ p, exec (row p) s = .next s) ∧
      (∀ x, s.d.portOn s.env n = true → s.d.kernOn n = some x → s.d.fire0 Cs.CLP_PARITY n = false → reqCtx h = x.ctx → s.d.reqOk n op h beats = true → x.aband = false → s.d.tearing x.ctx = false → s.d.ctxState x.ctx ≠ 5 →
        (op = 6 → fmtPair (bitsOf h.toNat 92 6) (bitsOf h.toNat 98 6) = true) →
        ∃ d₁ : Die, exec (row true) s = .next { s with d := d₁.portPump s.env ((s.d.makeReqs s.env n op h beats x).length + 64) n } ∧
          d₁.coh.reqs = s.d.coh.reqs ++ s.d.makeReqs s.env n op h beats x ∧ (s.d.makeReqs s.env n op h beats x).length = (if op = 7 ∨ op = 8 then reqLines h else 1) ∧ d₁.mem = s.d.mem ∧ d₁.sf = s.d.sf ∧ Msg.credit n 0 ∈ d₁.out) ∧
      (∀ x, s.d.portOn s.env n = true → s.d.kernOn n = some x → reqCtx h ≠ x.ctx → exec (row true) s = .next { s with d := counted.portDead s.env n }) ∧
      (s.d.portOn s.env n = true → exec (row false) s = .next { s with d := counted.portDead s.env n }) ∧
      (s.d.portOn s.env n = true → s.d.kernOn n = none → exec (row true) s = .next { s with d := counted.portDead s.env n })) ∧
    (∀ (w : BitVec 56) (data : Line),
      (s.d.portOn s.env n = true → s.d.fire0 Cs.CLP_PARITY n = false → ∃ t, exec (.clpWb k w true data) s = .next t ∧
        t.d.coh.reqs = s.d.coh.reqs ++ [{ rid := s.d.nid, who := n, op := .wb, line := bitsOf w.toNat 6 43, tag := bitsOf w.toNat 0 6, data := data, at_ := s.env.tq, attr := { watchEn := decide (bitsOf w.toNat 49 1 = 1), watchId := bitsOf w.toNat 50 6 } }] ∧
        (s.d.wbHead s.env n (s.d.home s.env (bitsOf w.toNat 6 43)) = none → t.d.out = Msg.credit n 2 :: Msg.credit n 1 :: s.d.out) ∧
        (∀ r, s.d.wbHead s.env n (s.d.home s.env (bitsOf w.toNat 6 43)) = some r → r ≠ s.d.nid → t.d.out = s.d.out) ∧ t.d.mem = s.d.mem ∧ t.d.sf = s.d.sf ∧ t.env = s.env) ∧
      (s.d.portOn s.env n = false → exec (.clpWb k w true data) s = .next s)) ∧
    (∀ used, used = Tab.get 0 s.d.coh.credits (16 * n + 3) →
      (used ≠ 0 → s.d.portOn s.env n = true → exec (.creditReturn (BitVec.ofNat 7 n) 3) s = .next { s with d := Die.snpPump s.env { s.d with coh := { s.d.coh with credits := Tab.set 0 s.d.coh.credits (16 * n + 3) (used - 1) } } n }) ∧
      (used = 0 → exec (.creditReturn (BitVec.ofNat 7 n) 3) s = .next s)) ∧
    (∃ d₁ : Die, exec (.creditReturn 80 0) s = .next { s with d := d₁.hpDrain s.env s.d.bt.outq.length } ∧
      d₁ = { s.d with bt := { s.d.bt with hpHdr := min 64 (s.d.bt.hpHdr + 1) } }) ∧
    (∃ d₁ : Die, exec (.creditReturn 80 1) s = .next { s with d := d₁.hpDrain s.env s.d.bt.outq.length } ∧
      d₁ = { s.d with bt := { s.d.bt with hpDat := min 256 (s.d.bt.hpDat + 1) } })

/-- The requests of the homes, by row. -/
def homeRows : List ((Nat → Instr) × HomeOp) :=
  [(Instr.readShared, .readShared), (Instr.readOwn, .readOwn), (Instr.readOnce, .readOnce), (Instr.writeFull, .writeFull), (Instr.writeMask, .writeMask),
    (Instr.atomic, .atomic), (Instr.reduceWrite, .reduce)]

/-- KIND and STATE of the data that answers a request, none where a response alone does (Tables 7.3 and 16.5). -/
def answerKind (q : Req) : Option (Nat × Nat) :=
  match q.op with
  | .readShared => some (0, 1)
  | .readOwn => some (0, 2)
  | .readOnce => some (if q.tile then 1 else 0, 0)
  | .atomic => some (2, 0)
  | _ => none

/-- Requests at their homes (R17, R226 to R230, Table 7.3): an accepted request whose requester has none before it, and whose line no earlier winner holds, is performed, and answered by the line in S, in M, without state, by the word before, or by COMP; a
new one that something stands in the way of, that finds no free tracker or the home's list of pages full, is retried and queued for a grant, and one with none of these wins its lookup and a tracker; one without its class's credit, or with a WB for its line, waits; RETRY is told
to its port once, and the GRANT of the next requester in turn gives it its own tracker and has its later requests resent. The WB at the head of its home's buffer is kept and acknowledged; a prefetch for a line that is at hand ends with no effect.
Log entries 1, 8, 84 (the model's own choices). -/
def Obligations.HomesPerformRetryAndGrantRequests : Prop :=
  (∀ x ∈ homeRows, ∀ (s : State) (rid : Nat) (q : Req), s.d.req rid = some q → q.op = x.2 → q.homed = true → q.use = none →
    let h := s.d.home s.env q.line
    (∀ f a d, q.tracker.isSome = true → (s.d.atHome s.env q.who h).head? = some f → f.rid = rid → s.d.queuedAhead q.line q.won = false →
      attempt s.env s.d (.req rid) (reqAct q) = .ok a d →
      (∀ kind st, answerKind q = some (kind, st) → ∃ l, a = .line kind st l ∧ exec (x.1 rid) s = .next { s with d := (d.endTxnOf s.env q true).rdat s.env q kind st l }) ∧
      (answerKind q = none → exec (x.1 rid) s = .next { s with d := (d.endTxnOf s.env q true).endReq q 0 })) ∧
    (∀ f c u d, q.tracker.isSome = true → (s.d.atHome s.env q.who h).head? = some f → f.rid = rid → s.d.queuedAhead q.line q.won = false →
      attempt s.env s.d (.req rid) (reqAct q) = .stop c u d → exec (x.1 rid) s = .next { s with d := (d.endTxnOf s.env q false).reqFail s.env q c u }) ∧
    (∀ f, q.tracker.isSome = true → (s.d.atHome s.env q.who h).head? = some f → (f.rid ≠ rid ∨ s.d.queuedAhead q.line q.won = true) → exec (x.1 rid) s = .next s) ∧
    (q.tracker = none → s.d.running (h / 8) = true → q.retried = false → (s.d.atHome s.env q.who h).head? = some q →
      ((s.d.hasCredit s.env (.home h) .req rid = false ∨ s.d.wbFirst q = true) → exec (x.1 rid) s = .next s) ∧
      (s.d.hasCredit s.env (.home h) .req rid = true → s.d.wbFirst q = false →
        (16 ≤ (s.d.wdrawList h).length → exec (x.1 rid) s = .next { s with d := s.d.retryReq s.env q none }) ∧
        ((s.d.wdrawList h).length < 16 →
          (∀ c, s.d.inTheWay s.env q.line q.who q.at_ = some c → exec (x.1 rid) s = .next { s with d := s.d.retryReq s.env q (some c) }) ∧
          (s.d.inTheWay s.env q.line q.who q.at_ = none →
            (s.d.freeShared s.env h = 0 → exec (x.1 rid) s = .next { s with d := s.d.retryReq s.env q none }) ∧
            (s.d.freeShared s.env h ≠ 0 → ∀ i, (List.range 112).find? (fun i => !((s.d.sharedUsed s.env h).contains (144 + i))) = some i →
              ∃ d₁ : Die, exec (x.1 rid) s = .next { s with d := d₁.homeGo s.env { q with told := false, tracker := some (144 + i), won := s.d.nid } } ∧
                d₁.req rid = some { q with told := false, tracker := some (144 + i), won := s.d.nid } ∧ d₁.regs = s.d.regs ∧ d₁.mem = s.d.mem)))))) ∧
  (∀ (s : State) (rid : Nat) (q : Req), s.d.req rid = some q →
    (q.retried = true → q.told = false → ∃ t, exec (.retry rid) s = .next t ∧ t.d.coh.reqs = s.d.coh.reqs.map (fun x => if x.rid = q.rid then { q with told := true } else x) ∧ t.d.regs = s.d.regs ∧ t.d.mem = s.d.mem) ∧
    ((q.retried = false ∨ q.told = true) → exec (.retry rid) s = .next s) ∧
    (let h := s.d.home s.env q.line
     let mine := (s.d.atHome s.env q.who h).filter (·.retried)
     ∀ x, q.retried = true → q.told = true → (mine.head?).map (·.rid) = some rid → s.d.running (h / 8) = true → s.d.grantNext s.env h = some x → x.who = q.who →
      ∃ d₁ : Die, (q.use = none → exec (.grant rid) s = .next { s with d := d₁.accept s.env q q.who }) ∧
        (q.use ≠ none → exec (.grant rid) s = .next { s with d := (d₁.named.setReq { q with retried := false, told := false, tracker := some q.who, won := d₁.nid }).pump s.env }) ∧
        d₁.grantQ h = (s.d.grantQ h).filter (fun y => decide (y.who ≠ q.who)) ∧
        (∀ y ∈ mine.drop 1, y.use = none → ∃ z ∈ d₁.coh.reqs, z.rid = y.rid ∧ z.retried = false ∧ z.told = false) ∧ d₁.regs = s.d.regs ∧ d₁.mem = s.d.mem) ∧
    (q.retried = false → exec (.grant rid) s = .next s) ∧
    (q.op = .wb → s.d.running (s.d.home s.env q.line / 8) = true → s.d.wbHead s.env q.who (s.d.home s.env q.line) = some rid → s.d.activeTxn q.line = false →
      ∀ d, attempt s.env s.d (.req rid) (wbAct q) = .ok () d →
        ∃ d₁ : Die, exec (.wb rid) s = .next { s with d := d₁.pump s.env } ∧ (∀ y ∈ d₁.coh.reqs, y.rid ≠ rid) ∧ (d.fenced q.who = false → Msg.rsp q.who q.tag 1 0 ∈ d₁.out) ∧
          (d.fenced q.who = true → d₁.out = d.out) ∧ d₁.regs = d.regs ∧ d₁.mem = d.mem) ∧
    (q.op = .wb → s.d.wbHead s.env q.who (s.d.home s.env q.line) ≠ some rid → exec (.wb rid) s = .next s) ∧
    (q.op = .pf → s.d.running (s.d.home s.env q.line / 8) = true →
      (s.d.coh.txns = [] → s.d.bit F.AY_INJECT.ARM 0 = false → (s.d.dropReq rid).pfDrops s.env q.line = true → exec (.pf rid) s = .next { s with d := (s.d.dropReq rid).forget (.req rid) }) ∧
      (∀ d, attempt s.env (s.d.dropReq rid) (.req rid) (prefetchAct q) = .ok () d → exec (.pf rid) s = .next { s with d := d })))

/-- Snoop answers, sweeps and flushes (R221 to R223, R237, R241, R243, R399): an SRSP of a snoop that stands answers it for its line, DATA_FOLLOWS waits for its SDAT, which brings the data, and WB_PENDING for the WB; a collector's answer counts once every cluster of its region has answered; a snoop unanswered for 20 µs makes the cluster dead; the sweep
and the array scrub each go on by one position a visit, once their time has come; FLUSH_DONE ends a flush that no line matches any more; the log's consumer count is written within the log.
Log entries 1, 62 (the model's own choices). -/
def Obligations.SnoopsSweepsAndFlushesGoOn : Prop :=
  (∀ (s : State) (k : BitVec 6) (stag : BitVec 3) (x : Snp),
    let n := k.toNat
    (s.d.portOn s.env n = true → s.d.fire0 Cs.DEAD_CLUSTER n = false → s.d.coh.snps.find? (fun x => decide (x.k = n ∧ x.stag = stag.toNat ∧ x.wait = 0)) = some x →
      (∀ code : BitVec 3, code.toNat < 3 → (∀ t, s.d.txn x.line = some t → t.owner = none) →
        exec (.srsp k stag code) s = .next { s with d := (((s.d.send (.credit n 4)).answer s.env x code.toNat none false 0).pump s.env) }) ∧
      (x.sop ≠ 3 → ∃ t, exec (.srsp k stag 3) s = .next t ∧ t.d.coh.snps = s.d.coh.snps.map (fun y => if y = x then { y with wait := 1 } else y) ∧ t.d.regs = s.d.regs ∧ t.d.mem = s.d.mem ∧ t.env = s.env) ∧
      (∃ d₁ : Die, exec (.srsp k stag 4) s = .next { s with d := (d₁.takeWb s.env n x.line).pump s.env } ∧ d₁.coh.snps = s.d.coh.snps.map (fun y => if y = x then { y with wait := 2 } else y) ∧
        d₁.regs = s.d.regs ∧ d₁.mem = s.d.mem)) ∧
    (∀ code : BitVec 3, 4 < code.toNat → s.d.portOn s.env n = true → exec (.srsp k stag code) s = .next { s with d := s.d.portDead s.env n }) ∧
    (s.d.portOn s.env n = true → s.d.coh.snps.find? (fun x => decide (x.k = n ∧ x.stag = stag.toNat ∧ x.wait = 0)) = none → ∀ code : BitVec 3, code.toNat ≤ 4 → exec (.srsp k stag code) s = .next s) ∧
    (∀ (en : Bool) (w : BitVec 6) (data : Line), s.d.portOn s.env n = true →
      (s.d.coh.snps.find? (fun x => decide (x.k = n ∧ x.stag = stag.toNat ∧ x.wait = 1)) = some x →
        exec (.sdat k stag en w data) s = .next { s with d := ((((s.d.send (.credit n 5)).monitor s.env 0 n 1 128).carry s.env (whoPlace n) (homePlace (s.d.home s.env x.line)) 128).answer s.env x 3 (some data) en w.toNat).pump s.env }) ∧
      (s.d.coh.snps.find? (fun x => decide (x.k = n ∧ x.stag = stag.toNat ∧ x.wait = 1)) = none → exec (.sdat k stag en w data) s = .next s)) ∧
    (s.d.coh.snps.find? (fun x => decide (x.k = n ∧ x.stag = stag.toNat ∧ x.wait = 0)) = some x →
      ((s.env.now < x.sent + 20000 ∨ s.d.running (n / 8) = false) → exec (.snoopTimeout k stag) s = .next s) ∧
      (x.sent + 20000 ≤ s.env.now → s.d.running (n / 8) = true → exec (.snoopTimeout k stag) s = .next { s with d := (s.d.snoopDead s.env n).pump s.env }))) ∧
  (∀ (s : State) (line : BitVec 43) (r : BitVec 3) (t : Txn), s.d.txn line.toNat = some t → t.owner = none → (∃ c ∈ t.colls, c.1 = r.toNat ∧ c.2.2 = false) →
    let t' : Txn := { t with colls := t.colls.map (fun c => if c.1 = r.toNat then (c.1, c.2.1, true) else c) }
    ((∃ x ∈ s.d.coh.snps, x.line = line.toNat ∧ x.k / 8 = r.toNat) → exec (.collectorSrsp line r) s = .next s) ∧
    ((∀ x ∈ s.d.coh.snps, ¬ (x.line = line.toNat ∧ x.k / 8 = r.toNat)) → t'.full = false → exec (.collectorSrsp line r) s = .next { s with d := (s.d.setTxn t').pump s.env }) ∧
    ((∀ x ∈ s.d.coh.snps, ¬ (x.line = line.toNat ∧ x.k / 8 = r.toNat)) → t'.full = true →
      exec (.collectorSrsp line r) s = .next { s with d := ((((s.d.setTxn t').missCount s.env line.toNat t').settle s.env line.toNat).pump s.env) })) ∧
  (∀ (s : State) (h : BitVec 6),
    let n := h.toNat
    let gap := s.d.getF F.DIR_CFG.SWEEP_INTERVAL 0
    let pos := Tab.get 0 s.d.coh.scrubPos n
    (n < 8 * s.env.regions → s.d.running (n / 8) = true → gap ≠ 0 → Tab.get 0 s.d.coh.sweepAt n + s.d.cyclesNs (n / 8) gap ≤ s.env.now → s.d.dirAt s.env n (Tab.get 0 s.d.coh.sweepPos n) = none →
      ∃ t, exec (.sweepVisit h) s = .next t ∧ Tab.get 0 t.d.coh.sweepPos n = (Tab.get 0 s.d.coh.sweepPos n + 1) % 32768 ∧ Tab.get 0 t.d.coh.sweepAt n = s.env.now ∧ t.d.coh.dir = s.d.coh.dir ∧ t.d.regs = s.d.regs ∧
        t.d.mem.dram = s.d.mem.dram) ∧
    ((8 * s.env.regions ≤ n ∨ (s.d.running (n / 8) = false ∧ s.d.powerState (n / 8) ≠ 3) ∨ gap = 0 ∨ s.env.now < Tab.get 0 s.d.coh.sweepAt n + s.d.cyclesNs (n / 8) gap) → exec (.sweepVisit h) s = .next s) ∧
    (n < 8 * s.env.regions → s.d.running (n / 8) = true → Tab.get 0 s.d.coh.scrubAt n + s.d.scrubGap ≤ s.env.now →
      (∀ x ∈ s.d.lcOf s.env n, ¬ (s.d.lcSet s.env x.1 = pos % 24576 / 16 ∧ x.2.way = pos % 16)) → Tab.get [] s.d.coh.scrubRe n = [] →
      ∃ t, exec (.lcScrubVisit h) s = .next t ∧ Tab.get 0 t.d.coh.scrubPos n = pos + 1 ∧ Tab.get 0 t.d.coh.scrubAt n = Tab.get 0 s.d.coh.scrubAt n + s.d.scrubGap ∧ t.d.coh.lc = s.d.coh.lc ∧
        keepsRegs s.d t.d [.LC_SCRUB_CFG] ∧ t.d.mem.dram = s.d.mem.dram) ∧
    (s.env.now < Tab.get 0 s.d.coh.scrubAt n + s.d.scrubGap → exec (.lcScrubVisit h) s = .next s)) ∧
  (∀ (s : State) (f : Nat),
    (s.d.coh.flushes.find? (fun x => decide (x.id = f)) = none → exec (.flushDone f) s = .next s) ∧
    (∀ x, s.d.coh.flushes.find? (fun x => decide (x.id = f)) = some x → s.d.flushHits s.env x.filter = [] → (∀ id, x.after ≠ .potOp id) → (∀ k, x.after ≠ .bind k ∧ x.after ≠ .retire k) →
      exec (.flushDone f) s = .next { s with d := (({ s.d with coh := { s.d.coh with flushes := s.d.coh.flushes.filter (fun y => decide (y.id ≠ f)) } } : Die).pump s.env) })) ∧
  (∀ (s : State) (who : Who) (v : Word), s.d.barGate s.env who .DIR_LLOG_CONS 0 = none →
    ((s.d.getF F.DIR_LLOG_STATUS.PRODUCED 0 + 2 ^ 32 - fieldOf v 0 32) % 2 ^ 32 ≤ 4096 →
      ∃ t, exec (.llogConsWrite who v) s = .next t ∧ t.d.getF F.DIR_LLOG_CONS.CONSUMED 0 = fieldOf v 0 32 ∧ onlyRegs s t [.DIR_LLOG_CONS]) ∧
    (4096 < (s.d.getF F.DIR_LLOG_STATUS.PRODUCED 0 + 2 ^ 32 - fieldOf v 0 32) % 2 ^ 32 → exec (.llogConsWrite who v) s = .next s))

/-! ### Memory controllers (chapters 8 and 13) -/

/-- MC_READ and MC_WRITE join their controller's queue, wait there until it is ready, and pass the Seal Engine, and a write of a null-map page is reported instead (R253, R255, R256, R258); a refresh is of all banks when that is due or no bank is idle, else of the next
idle bank, refresh management goes to each bank activated often enough, and it waits where the pseudo-channel is being calibrated (R265); a temperature that was asked for sets TEMP_C, the band and the throttle (R266), and one
that has not come in 10 µs is counted as a retry; a PHY alert is counted with its retries and reported, and once more where no retry succeeds (R267); CLEAR empties the log of uncorrectable errors (R269).
Log entries 1, 8, 39, 41, 42, 85 (the model's own choices). -/
def Obligations.ControllersReadWriteRefreshAndWatchTheirStacks : Prop :=
  (∀ (s : State) (line : BitVec 43) (fl : List (Nat × BitVec 16)) (sec : BitVec 4) (z : Bool) (data : Line),
    let l := line.toNat
    let rd := McReq.read l fl
    let wr := McReq.write l sec.toNat z data
    (∀ i r, (i, r) ∈ ([(.mcRead line fl, rd), (.mcWrite line sec z data, wr)] : List (Instr × McReq)) →
      (s.d.present s.env (pageOfLine l) = true → ∃ d₁ : Die, exec i s = .next { s with d := d₁.pump s.env } ∧ d₁.mem.queue = s.d.mem.queue ++ [(s.d.nid, r)] ∧ d₁.nid = s.d.nid + 1 ∧
        d₁.regs = s.d.regs ∧ d₁.mem.dram = s.d.mem.dram) ∧
      (s.d.present s.env (pageOfLine l) = false → exec i s = .next s)) ∧
    (∀ (k : Nat) (d : Die), d.coh.txns = [] →
      let served := fun (r : McReq) (act : Act Unit) => d.mem.queue = [(k, r)] →
        (∀ d', attempt s.env d (.packet k) act = .ok () d' → d.mcPump s.env = { d' with mem := { d'.mem with queue := d'.mem.queue.erase (k, r) } }) ∧
        (∀ d', attempt s.env d (.packet k) act = .wait d' → d.mcPump s.env = d')
      (d.isNmapPage s.env (pageOfLine l) = false →
        served rd (do
          memReady l
          modify (fun d => { d with mem := fl.foldl (fun m f => m.flip l f.1 f.2) d.mem })
          let _ ← sealRead l none) ∧
        served wr (do
          memReady l
          sealWrite l sec.toNat data (zeroBits data) z)) ∧
      (d.isNmapPage s.env (pageOfLine l) = true →
        served wr (do
          memReady l
          upd (fun e d => d.reportCtx e Cs.NMAP_ACCESS (stackOf (pageOfLine l)) (some (l * 128)) none (pageOfLine l)))))) ∧
  (∀ (s : State) (r : BitVec 3) (pc : BitVec 6),
    let n := r.toNat
    (s.d.trained s.env n = true → pc.toNat < s.d.pcs n → s.d.running n = true →
      (Tab.get none s.d.mem.cal n ≠ some pc.toNat →
        let pk := 64 * n + pc.toNat
        let due := Tab.get 0 s.d.mem.refDue pk ≤ s.env.now
        let idle := ((List.range (s.d.banks n)).map (fun i => (Tab.get 0 s.d.mem.refBank pk + i) % s.d.banks n)).find? (fun b => (Tab.get none s.d.mem.rows (64 * pk + b)).isNone)
        ∃ t, exec (.refresh r pc) s = .next t ∧ t.d.regs = s.d.regs ∧ t.d.mem.dram = s.d.mem.dram ∧ t.env = s.env ∧
          ((due ∨ idle = none) → Msg.dfi n 1 pc.toNat ∈ t.d.out ∧ ∀ b < 64, Tab.get none t.d.mem.rows (64 * pk + b) = none) ∧
          (∀ b, ¬ due → idle = some b → Msg.dfi n 10 (64 * pc.toNat + b) ∈ t.d.out ∧ Tab.get 0 t.d.mem.refBank pk = (b + 1) % s.d.banks n ∧ t.d.mem.rows = s.d.mem.rows) ∧
          (due → Tab.get 0 t.d.mem.refDue pk = s.env.now + s.d.refreshGap n) ∧ (¬ due → Tab.get 0 t.d.mem.refDue pk = Tab.get 0 s.d.mem.refDue pk) ∧
          (∀ b < s.d.banks n, max 1 (Config.rfmThreshold n) ≤ Tab.get 0 s.d.mem.acts (64 * pk + b) → Msg.dfi n 11 (64 * pc.toNat + b) ∈ t.d.out ∧ Tab.get 0 t.d.mem.acts (64 * pk + b) = 0)) ∧
      (Tab.get none s.d.mem.cal n = some pc.toNat → ∃ t, exec (.refresh r pc) s = .next t ∧ t.d.mem.postponed = s.d.mem.postponed ++ [(n, pc.toNat)] ∧ t.d.mem.dram = s.d.mem.dram ∧ t.d.regs = s.d.regs ∧ t.env = s.env)) ∧
    ((s.d.trained s.env n = false ∨ s.d.pcs n ≤ pc.toNat ∨ s.d.running n = false) → exec (.refresh r pc) s = .next s) ∧
    (∀ (tm : BitVec 8) (t0 : Nat), Tab.get none s.d.mem.temp n = some t0 →
      (s.env.now ≤ t0 + 10000 → ∃ t, exec (.tempRead r tm) s = .next t ∧ Tab.get none t.d.mem.temp n = none ∧ t.d.getF F.MC_TEMP.TEMP_C n = tm.toNat ∧ t.d.getF F.MC_TEMP.BAND n = s.d.nextBand n tm.toNat ∧
        t.d.getF F.MC_STATUS.THROTTLE n = (if s.d.nextBand n tm.toNat = 3 then 1 else 0) ∧ t.d.mem.dram = s.d.mem.dram ∧ keepsRegs s.d t.d [.MC_TEMP, .MC_STATUS, .AY_STATUS] ∧ t.env = s.env) ∧
      (max 95 (s.d.getF F.MC_CFG.TEMP_THROTTLE_C n) ≤ tm.toNat → s.d.nextBand n tm.toNat = 3) ∧
      (t0 + 10000 < s.env.now → exec (.tempRead r tm) s = .next s) ∧
      (t0 + 10000 ≤ s.env.now → ∃ t, exec (.tempTimeout r) s = .next t ∧ Tab.get none t.d.mem.temp n = none ∧
        t.d.getF F.MC_ERR.PHY_RETRY_COUNT n = min (s.d.getF F.MC_ERR.PHY_RETRY_COUNT n + 1) (2 ^ F.MC_ERR.PHY_RETRY_COUNT.width - 1) ∧ keepsRegs s.d t.d [.MC_ERR] ∧ t.d.mem.dram = s.d.mem.dram ∧ t.env = s.env) ∧
      (s.env.now < t0 + 10000 → exec (.tempTimeout r) s = .next s)) ∧
    (∀ tries, s.d.trained s.env n = true → pc.toNat < s.d.pcs n → s.d.fire0 Cs.PHY_FAIL n = false →
      let most := s.d.getF F.MC_CFG.PHY_RETRIES n
      let good := 0 < tries ∧ tries ≤ most
      (good → exec (.phyAlert r pc tries) s = .next { s with d := (s.d.incSat F.MC_ERR.PHY_RETRY_COUNT n tries).report s.env { cause := Cs.PHY_ALERT, inst := n, det0 := pc.toNat } }) ∧
      (¬ good → exec (.phyAlert r pc tries) s = .next { s with d :=
        (((s.d.incSat F.MC_ERR.PHY_RETRY_COUNT n most).report s.env { cause := Cs.PHY_ALERT, inst := n, det0 := pc.toNat }).report s.env { cause := Cs.PHY_FAIL, inst := n, det0 := 1 }) })) ∧
    (∀ (who : Who) (v : Word), s.d.barGate s.env who .MC_UE_STATUS n = none → fieldOf v 6 1 = 1 →
      ∃ t, exec (.mcUeClear who r v) s = .next t ∧ t.d.getF F.MC_UE_STATUS.COUNT n = 0 ∧ (∀ i w, i < 16 → w < Reg.MC_UE_LOG.layout.words → t.d.reg .MC_UE_LOG (16 * n + i) w = Reg.MC_UE_LOG.resetWord w) ∧ onlyRegs s t [.MC_UE_STATUS, .MC_UE_LOG]))

/-- Training, patrol, calibration and retraining (R247, R270, R398, R400 to R402, R404, R438, R476, R477): a trained stack takes the mode and the pages of its row of Table 8.1, one that fails has none and its bit in TRAIN_FAIL; with its null map initialised it is ready; the patrol, the null-map scrub and the calibration each go on by one position when
their time has come; a Planisher that scrubs by itself queues the lowest UNSCRUBBED page; retraining stands until its end. Before its time each changes nothing.
Log entries 1, 8, 40, 43, 53, 105 (the model's own choices). -/
def Obligations.StacksTrainAndAreMaintained : Prop :=
  ∀ (s : State) (r : BitVec 3),
    let n := r.toNat
    let line := 2304 * 2 ^ 18 * n + (s.d.patrolOwe s.env n).patrolPos n
    (∀ mode geom row, s.env.hasRegion n = true → Tab.get 0 s.d.mem.stack n = 1 → stackRow mode.toNat geom.toNat = some row →
      ∃ t, exec (.trainingDone r mode geom) s = .next t ∧ Tab.get [] t.d.bt.seeds n = (List.range 4096).map (Config.trainedSeed s.d.ctr) ∧ t.d.getF F.MC_STATUS.PRESENT_PAGES n = row.pages % 2 ^ F.MC_STATUS.PRESENT_PAGES.width ∧ t.d.getF F.MC_STATUS.NMAP_PAGES n = row.nmap % 2 ^ F.MC_STATUS.NMAP_PAGES.width ∧
        t.d.getF F.MC_STATUS.MODE n = row.mode % 4 ∧ Tab.get 0 t.d.mem.stack n = 2 ∧ t.d.mem.dram = s.d.mem.dram ∧ keepsRegs s.d t.d [.MC_STATUS, .MC_CFG, .ST_BOOT]) ∧
    (∀ ms, s.env.hasRegion n = true → Tab.get 0 s.d.mem.stack n = 1 → ms = (if s.d.bt.inWarm then 100 else if s.d.bit F.ST_BOOT.NO_SETTINGS 0 then 1500 else 400) →
      (s.env.now < s.d.bt.phaseAt + ms * 1000000 → exec (.trainingTimeout r) s = .next s) ∧
      (s.d.bt.phaseAt + ms * 1000000 ≤ s.env.now → ∃ t, exec (.trainingTimeout r) s = .next t ∧ t.d.getF F.MC_STATUS.MODE n = 3 ∧ t.d.getF F.MC_STATUS.PRESENT_PAGES n = 0 ∧ t.d.getF F.MC_STATUS.NMAP_PAGES n = 0 ∧
        t.d.getF F.ST_BOOT.TRAIN_FAIL 0 = s.d.getF F.ST_BOOT.TRAIN_FAIL 0 ||| 2 ^ n ∧ t.d.mem.dram = s.d.mem.dram)) ∧
    (Tab.get 0 s.d.mem.stack n = 2 → ∃ d₁ : Die, exec (.nmapInitDone r) s = .next { s with d := (d₁.phase3 s.env).pump s.env } ∧ d₁.bit F.MC_STATUS.NMAP_READY n = true ∧ (∀ k, k / 2 ^ 22 = n → Tab.get ones d₁.mem.nmap k = ones) ∧
      keepsRegs s.d d₁ [.MC_STATUS, .MC_PATROL_POS, .CH_BWLAST, .CH_BWPEAK, .CH_BWCOUNT] ∧ d₁.mem.dram = s.d.mem.dram) ∧
    (Tab.get 0 s.d.mem.stack n ≠ 2 → exec (.nmapInitDone r) s = .next s) ∧
    (s.d.trained s.env n = true → s.d.bit F.MC_STATUS.NMAP_READY n = true → s.d.running n = true →
      ((s.d.patrolOwe s.env n).getF F.MC_PATROL.BEHIND n = 0 → exec (.patrolVisit r) s = .next { s with d := s.d.patrolOwe s.env n }) ∧
      (∀ x d', (s.d.patrolOwe s.env n).getF F.MC_PATROL.BEHIND n = 1 → (s.d.getF F.MC_PATROL.BEHIND n = 0 ∨ Tab.get 0 s.d.mem.patrolAt n + 1000 ≤ s.env.now) → (s.d.patrolOwe s.env n).scrubbing (2304 * n + (s.d.patrolOwe s.env n).patrolPos n / 2 ^ 18) = false → (s.d.patrolOwe s.env n).scrubbing (pageOfLine line) = false →
        n ∉ (s.d.patrolOwe s.env n).mem.retr → Tab.get none (s.d.patrolOwe s.env n).mem.cal n ≠ some ((s.d.patrolOwe s.env n).pchan line) → (s.d.patrolOwe s.env n).maintMay s.env n = true →
        attempt s.env (s.d.patrolOwe s.env n) .other (memRead line 3 none true) = .ok x d' →
        ∃ d₁ : Die, exec (.patrolVisit r) s = .next { s with d := d₁.pump s.env } ∧ Tab.get 0 d₁.mem.patrolAt n = s.env.now ∧ d₁.getF F.MC_PATROL.BEHIND n = d'.getF F.MC_PATROL.BEHIND n - 1 ∧ d₁.mem.dram = d'.mem.dram) ∧
      (s.env.now < Tab.get 0 s.d.mem.nmapDue n → exec (.nmapScrubVisit r) s = .next s) ∧
      (Tab.get 0 s.d.mem.nmapDue n ≤ s.env.now → n ∉ s.d.mem.retr → Tab.get none s.d.mem.cal n = none → s.d.nmapBusy n (Tab.get 0 s.d.mem.nmapPos n) = false → s.d.maintMay s.env n = true →
        ∃ d₁ : Die, exec (.nmapScrubVisit r) s = .next { s with d := d₁.pump s.env } ∧
          Tab.get 0 d₁.mem.nmapPos n = (if s.d.getF F.MC_STATUS.NMAP_PAGES n * 2 ^ 18 ≤ Tab.get 0 s.d.mem.nmapPos n + 1 then 0 else Tab.get 0 s.d.mem.nmapPos n + 1) ∧
          d₁.mem.dram = (s.d.tryAct s.env (nmapVisit (n * 2 ^ 22 + Tab.get 0 s.d.mem.nmapPos n))).mem.dram) ∧
      (∀ pc : BitVec 6, Tab.get none s.d.mem.cal n = none → pc.toNat = Tab.get 0 s.d.mem.calNext n → Tab.get 0 s.d.mem.calDue n ≤ s.d.getF F.ST_TICK.TICK_COUNT 0 → n ∉ s.d.mem.retr →
        ∃ t, exec (.calibrationStart r pc) s = .next t ∧ Tab.get none t.d.mem.cal n = some pc.toNat ∧ Tab.get 0 t.d.mem.calNext n = (pc.toNat + 1) % s.d.pcs n ∧
          Tab.get 0 t.d.mem.calDue n = Tab.get 0 s.d.mem.calDue n + (if s.d.getF F.MC_STATUS.MODE n = 2 then 16 else 8) ∧ Msg.dfi n 2 pc.toNat ∈ t.d.out ∧ t.d.mem.dram = s.d.mem.dram) ∧
      (∀ pc : BitVec 6, s.d.getF F.ST_TICK.TICK_COUNT 0 < Tab.get 0 s.d.mem.calDue n → exec (.calibrationStart r pc) s = .next s)) ∧
    (∀ pc, Tab.get none s.d.mem.cal n = some pc → ∃ d₁ : Die, exec (.calibrationEnd r) s = .next { s with d := d₁.pump s.env } ∧ Tab.get none d₁.mem.cal n = none ∧ (∀ x ∈ d₁.mem.postponed, x.1 ≠ n) ∧
      (∀ p, (n, p) ∈ s.d.mem.postponed → Msg.dfi n 1 p ∈ d₁.out ∨ ∃ b, Msg.dfi n 10 (64 * p + b) ∈ d₁.out) ∧ d₁.regs = s.d.regs ∧ d₁.mem.dram = s.d.mem.dram) ∧
    (Tab.get none s.d.mem.cal n = none → exec (.calibrationEnd r) s = .next s) ∧
    (s.d.trained s.env n = true → 64 * n + Tab.get 0 s.d.mem.calPc n ∉ s.d.mem.phyupd →
      ∃ t, exec (.phyupdReq r) s = .next t ∧ t.d.mem.phyupd = s.d.mem.phyupd ++ [64 * n + Tab.get 0 s.d.mem.calPc n] ∧ t.d.regs = s.d.regs ∧ t.d.mem.dram = s.d.mem.dram ∧ t.env = s.env) ∧
    (∀ i, s.env.fwSeal = true → s.d.bit F.MC_STATUS.NMAP_READY n = true → s.d.bit F.MC_CFG.AUTO_SCRUB n = true → (∀ x ∈ s.d.sm.scrubs, x.2 = true → stackOf x.1 ≠ n) →
      (List.range (s.d.stackPages s.env n)).find? (fun i => decide (s.d.pageState (2304 * n + i) = 0) && !(s.d.isNmapPage s.env (2304 * n + i)) && !(s.d.sm.scrubs.any (fun x => decide (x.1 = 2304 * n + i))) && !(s.d.potHolds (2304 * n + i))) = some i →
      exec (.planisherScrub r) s = .next { s with d := (s.d.queueScrub (2304 * n + i)).scrubPump s.env }) ∧
    (s.env.fwSeal = false → exec (.planisherScrub r) s = .next s) ∧
    (∀ who v, s.d.barGate s.env who .ST_RETRAIN 0 = none → ∃ t, exec (.retrain who v) s = .next t ∧ t.d.mem.dram = s.d.mem.dram ∧ t.env = s.env ∧
      ∀ k < 8, k ∈ t.d.mem.retr ↔ (k ∈ s.d.mem.retr ∨ (v.getLsbD k = true ∧ s.d.trained s.env k = true))) ∧
    (∀ ok, n ∈ s.d.mem.retr → s.d.running n = true → ∃ d₁ : Die, exec (.retrainDone r ok) s = .next { s with d := d₁.pump s.env } ∧ n ∉ d₁.mem.retr ∧
      d₁.getF F.ST_RETRAIN.REQ 0 = s.d.getF F.ST_RETRAIN.REQ 0 &&& (255 - 2 ^ n) ∧ d₁.mem.dram = s.d.mem.dram) ∧
    (∀ ok, n ∉ s.d.mem.retr → exec (.retrainDone r ok) s = .next s)

/-! ### Key slots, link keys and the life cycle (chapter 11) -/

/-- KEY_CTL and SE_SLOT0 (R348 to R350, R352, Table 11.4): a BIND or RETIRE that may be carried out puts its slot into BINDING or RETIRING
and starts the flush of its pages, any other is refused with its reason; once the flush has ended, BIND loads fresh keys and the slot is
BOUND, and RETIRE drops its tag lines, erases the keys, and leaves the slot EMPTY with GENERATION one higher. Firmware binds slot 0 through
SE_SLOT0 by the same steps, before firmware seal.
Log entries 8, 44, 45 (the model's own choices). -/
def Obligations.KeySlotsAreBoundAndRetired : Prop :=
  (∀ (s : State) (id : Nat) (c : Cmd) (d : Die), Acting s id Op.KEY_CTL c d →
    let k := dfield c.desc 8 0 6
    let sl := dfield c.desc 32 0 9
    let cls := dfield c.desc 32 9 2
    let first := dfield c.desc 40 0 32
    let count := dfield c.desc 44 0 32
    let tag := dfield c.desc 48 0 32
    let range := (List.range count).map (first + ·)
    let span := if cls = 1 then (List.range (ceilDiv count 16)).map (tag + ·) else []
    let owned := ∀ p ∈ range ++ span, d.present s.env p = true ∧ d.ownedBy p sl = true
    let free := ∀ p ∈ range ++ span, d.rangeSlot p = none ∧ d.spanSlot p = none ∧ ¬ (p ∈ range ∧ p ∈ span)
    (c.arg0 = 0 → (∀ x ∈ s.d.se.ops, x.2 ≠ some id) →
      (d.slotState k = 0 → d.sliceState sl ∈ [1, 2, 4] → owned → free → (∀ p ∈ range ++ span, stackOf p = stackOf first) → d.lcState < 4 →
        ∃ d₁ : Die, exec (.keyBind id) s =
            .next (actsTo s id c ((d₁.startFlush s.env (.pages (range ++ span)) (.bind k)).wake s.env (stackOf first))) ∧
          d₁.slotState k = 1 ∧ d₁.getF F.SE_SLOT.CLASS k = cls ∧ d₁.getF F.SE_SLOT.SLICE k = sl ∧ d₁.getF F.SE_SLOT.FIRST_PAGE k = first % 2 ^ 15 ∧
          d₁.getF F.SE_SLOT.COUNT k = count % 2 ^ 15 ∧ d₁.se.ops = d.se.ops ++ [(k, some id)] ∧ keepsRegs d d₁ [.SE_SLOT]) ∧
      ((d.slotState k ≠ 0 ∨ d.sliceState sl ∉ [1, 2, 4]) → exec (.keyBind id) s = .next (actsTo s id c (d.opRefused c Why.WRONG_STATE 0))) ∧
      (d.slotState k = 0 → d.sliceState sl ∈ [1, 2, 4] → ¬ owned →
        ∃ p ∈ range ++ span, (d.present s.env p = false ∨ d.ownedBy p sl = false) ∧
          exec (.keyBind id) s = .next (actsTo s id c (d.opRefused c Why.NOT_OWNER p))) ∧
      (d.slotState k = 0 → d.sliceState sl ∈ [1, 2, 4] → owned → ¬ free →
        ∃ p ∈ range ++ span, exec (.keyBind id) s = .next (actsTo s id c (d.opRefused c Why.KEY_BOUND p))) ∧
      (d.slotState k = 0 → d.sliceState sl ∈ [1, 2, 4] → owned → free → (∀ p ∈ range ++ span, stackOf p = stackOf first) → 4 ≤ d.lcState →
        exec (.keyBind id) s = .next (actsTo s id c (d.opRefused c Why.LIFE_CYCLE 0)))) ∧
    (c.arg0 = 1 → (∀ x ∈ s.d.se.ops, x.2 ≠ some id) →
      (d.slotState k = 2 → d.sliceState (d.getF F.SE_SLOT.SLICE k) ≠ 5 →
        ∃ d₁ : Die, exec (.keyRetire id) s =
            .next (actsTo s id c ((d₁.startFlush s.env (.slot k) (.retire k)).wake s.env (d.getF F.SE_SLOT.STACK k))) ∧
          d₁.slotState k = 3 ∧ d₁.se.ops = d.se.ops ++ [(k, some id)] ∧ keepsRegs d d₁ [.SE_SLOT]) ∧
      ((d.slotState k ≠ 2 ∨ d.sliceState (d.getF F.SE_SLOT.SLICE k) = 5) →
        exec (.keyRetire id) s = .next (actsTo s id c (d.opRefused c Why.WRONG_STATE 0))))) ∧
  (∀ (s : State) (id k : Nat) (d : Die), s.d.se.ops = [(k, some id)] →
    let ends := fun x : Die => State.mk s.env (Die.pump s.env (match x.cmd id with | some c => x.opDone s.env c 0 | none => x)) s.pending
    (s.d.slotState k = 1 → s.d.flushRuns (.bind k) = true → exec (.keyBind id) s = .next { s with d := s.d.pump s.env }) ∧
    (s.d.slotState k = 1 → s.d.flushRuns (.bind k) = false → s.d.bit F.MC_STATUS.NMAP_READY (s.d.getF F.SE_SLOT.STACK k) = true →
      s.d.getF F.SE_SLOT.STACK k ∉ s.d.mem.retr → s.d.running (s.d.getF F.SE_SLOT.STACK k) = true →
      ∃ d₁ : Die, exec (.keyBind id) s = .next (ends d₁) ∧ d₁.slotState k = 2 ∧ (Tab.get none d₁.se.keys k).isSome = true ∧ d₁.se.ops = [] ∧
        d₁.mem.dram = s.d.mem.dram) ∧
    (s.d.slotState k = 3 → s.d.flushRuns (.retire k) = false →
      attempt s.env s.d .other (((s.d.mem.tagc.map Prod.fst).filter (fun l => s.d.inSpan k (pageOfLine l))).forM tagEvict) = .ok () d →
      ∃ d₁ : Die, exec (.keyRetire id) s = .next (ends d₁) ∧ d₁.slotState k = 0 ∧
        d₁.getF F.SE_SLOT.GENERATION k = (d.getF F.SE_SLOT.GENERATION k + 1) % 2 ^ 16 ∧ Tab.get none d₁.se.keys k = none ∧ d₁.mem = d.mem)) ∧
  (∀ (s : State) (v : Word),
    (s.env.fwSeal = false → fieldOf v 49 1 = 0 →
      ∃ t, exec (.slot0Bind .steward v) s = .next t ∧ t = { s with env := { s.env with slot0 := t.env.slot0 } } ∧
        fieldOf t.env.slot0 0 15 = fieldOf v 0 15 ∧ fieldOf t.env.slot0 16 15 = fieldOf v 16 15 ∧ fieldOf t.env.slot0 32 2 = fieldOf v 32 2 ∧
        fieldOf t.env.slot0 34 15 = fieldOf v 34 15 ∧ fieldOf t.env.slot0 49 1 = 0) ∧
    (s.env.fwSeal = false → fieldOf v 49 1 = 1 → s.d.slot0Ok s.env v = true →
      ∃ d, exec (.slot0Bind .steward v) s =
          .next { s with env := { s.env with slot0 := Reg.writeWord .SE_SLOT0 0 false s.env.slot0 v v },
                         d := s.d.startBind s.env 0 (fieldOf v 32 2) 0 (fieldOf v 0 15) (fieldOf v 16 15) d none } ∧
        (fieldOf v 32 2 = 1 → d = fieldOf v 34 15)) ∧
    ((s.env.fwSeal = true ∨ (fieldOf v 49 1 = 1 ∧ s.d.slot0Ok s.env v = false)) →
      exec (.slot0Bind .steward v) s = .next { s with d := s.d.reject F.SE_ERR.CFG_REJECT 0 }))

/-- Link keys, the life cycle and firmware's keys (R358, R360, R361, R364, Table 11.5): each action of TS_KEX_CTL in its order makes its
message and state, any other discards the exchange and sets ERROR; ACCEPT installs the staged keys and the port is ON; an accepted
TS_LC_REQ programs its code, which RETIRED follows by erasing every key slot and link key; the signed image advances the minimum SVN to its
own and revokes any signing key but its own.
Log entries 1, 46, 47, 48 (the model's own choices). -/
def Obligations.LinkKeysAndTheLifeCycleFollowTheirOrder : Prop :=
  (∀ (s : State) (who : Who) (p : BitVec 4), s.d.barGate s.env who .TS_KEX_CTL 0 = none →
    let n := p.toNat
    let discards := fun t : State => t.d.se.kex = none ∧ t.d.getF F.TS_KEX_STATUS.ERROR 0 = 1 ∧ t.env = s.env ∧ t.d.mem = s.d.mem ∧
      keepsRegs s.d t.d [.TS_KEX_STATUS, .SE_LINK] ∧
      ∀ x, s.d.se.kex = some x → t.d.getF F.SE_LINK.STATE x.port = 0 ∧ Tab.get none t.d.se.links x.port = none ∧ t.d.getF F.TS_KEX_STATUS.BUSY 0 = 0
    let begins := fun (t : State) (stage len : Nat) => ∃ x, t.d.se.kex = some x ∧ x.port = n ∧ x.stage = stage ∧
      (x.init = true ↔ stage = 1) ∧ t.d.getF F.TS_KEX_STATUS.BUSY 0 = 1 ∧ t.d.getF F.TS_KEX_STATUS.LENGTH 0 = len ∧
      t.d.getF F.SE_LINK.STATE n = 1 ∧ Tab.get none t.d.se.links n = none ∧ t.env = s.env ∧ t.d.mem = s.d.mem ∧
      keepsRegs s.d t.d [.TS_KEX_STATUS, .TS_KEX_BUF, .SE_LINK]
    let row := fun (a : Nat) => (([.kexInit who p, .kexRespond who p, .kexConfirm who p, .kexComplete who p, .kexAccept who p] : List Instr)[a]?).getD (.kexAbort who p)
    (s.d.mayLink = false → ∀ a, ∃ t, exec (row a) s = .next t ∧ discards t) ∧
    (s.d.mayLink = true → s.d.se.kex = none →
      (∃ t, exec (.kexInit who p) s = .next t ∧ begins t 1 136) ∧
      ((ptDecode ((s.d.kexBytes 0 136).drop 40)).isSome = true → ∃ t, exec (.kexRespond who p) s = .next t ∧ begins t 2 328) ∧
      (∀ a, 2 ≤ a → ∃ t, exec (row a) s = .next t ∧ discards t)) ∧
    (∀ x, s.d.mayLink = true → s.d.se.kex = some x →
      (∀ a < 2, ∃ t, exec (row a) s = .next t ∧ discards t) ∧
      (x.port ≠ n → ∀ a, ∃ t, exec (row a) s = .next t ∧ discards t) ∧
      (let m1 := asNats x.m1
       let m2 := s.d.kexBytes 0 328
       let good := x.stage = 1 ∧ x.port = n ∧ (ptDecode ((m2.drop 40).take 96)).isSome = true ∧
         ecdsaVerify ((m2.drop 136).take 96) (m2.drop 232) (sha384 (m1 ++ m2.take 232)) = true
       (good → ∃ t, exec (.kexConfirm who p) s = .next t ∧
          t.d.se.kex = some { x with stage := 3, m2 := asBytes m2, keys := some (kexKeys true x.priv ((m2.drop 40).take 96) m1 m2), peer := natLE (m2.take 2) } ∧
          t.d.getF F.TS_KEX_STATUS.STAGED 0 = 1 ∧ t.d.getF F.TS_KEX_STATUS.LENGTH 0 = 192 ∧ t.d.se.links = s.d.se.links ∧ t.env = s.env) ∧
       (¬ good → ∃ t, exec (.kexConfirm who p) s = .next t ∧ discards t)) ∧
      (let m1 := asNats x.m1
       let m3 := s.d.kexBytes 0 192
       let good := x.stage = 2 ∧ x.port = n ∧ ecdsaVerify (m3.take 96) (m3.drop 96) (sha384 (m1 ++ asNats x.m2 ++ m3.take 96)) = true
       (good → ∃ t, exec (.kexComplete who p) s = .next t ∧
          t.d.se.kex = some { x with stage := 3, keys := some (kexKeys false x.priv ((m1.drop 40).take 96) m1 (asNats x.m2)) } ∧
          t.d.getF F.TS_KEX_STATUS.STAGED 0 = 1 ∧ t.d.getF F.TS_KEX_STATUS.LENGTH 0 = 0 ∧ t.d.se.links = s.d.se.links ∧ t.env = s.env) ∧
       (¬ good → ∃ t, exec (.kexComplete who p) s = .next t ∧ discards t)) ∧
      (x.stage = 3 → x.port = n → ∃ t, exec (.kexAccept who p) s = .next t ∧ t.d.se.kex = none ∧ Tab.get none t.d.se.links n = x.keys ∧
        t.d.getF F.SE_LINK.STATE n = 2 ∧ t.d.getF F.SE_LINK.PEER_DIE n = x.peer % 2 ^ 16 ∧ t.d.reg .SE_LINK_TXC n 0 = 0 ∧ t.d.reg .SE_LINK_RXC n 0 = 0 ∧
        t.d.getF F.TS_KEX_STATUS.BUSY 0 = 0 ∧ t.d.getF F.TS_KEX_STATUS.STAGED 0 = 0 ∧ keepsRegs s.d t.d [.TS_KEX_STATUS, .SE_LINK, .SE_LINK_TXC, .SE_LINK_RXC]) ∧
      (x.stage ≠ 3 → ∃ t, exec (.kexAccept who p) s = .next t ∧ discards t) ∧
      (x.port = n → ∃ t, exec (.kexAbort who p) s = .next t ∧ t.d.se.kex = none ∧ Tab.get none t.d.se.links n = none ∧ t.d.getF F.SE_LINK.STATE n = 0 ∧
        t.d.getF F.TS_KEX_STATUS.BUSY 0 = 0 ∧ keepsRegs s.d t.d [.TS_KEX_STATUS, .SE_LINK]))) ∧
  (∀ (s : State) (who : Who) (v : Word), s.d.barGate s.env who .TS_LC_REQ 0 = none → (who = .tap → s.d.lcState ≤ 1) →
    (fieldOf v 48 16 = 0x4C43 → lcMay s.d.lcState (fieldOf v 0 3) = true → s.d.se.prog = none →
      ∃ t, exec (.tsLcReq who v) s = .next t ∧ t.d.se = { s.d.se with prog := some (fieldOf v 0 3) } ∧ t.d.getF F.TS_LC.TARGET 0 = fieldOf v 0 3 ∧
        t.d.getF F.TS_LC.PROGRAMMING 0 = 1 ∧ t.d.lcState = s.d.lcState ∧ keepsRegs s.d t.d [.TS_LC] ∧ t.env = s.env) ∧
    ((fieldOf v 48 16 ≠ 0x4C43 ∨ lcMay s.d.lcState (fieldOf v 0 3) = false) → exec (.tsLcReq who v) s = .next s)) ∧
  (∀ s : State,
    (s.d.se.prog = none → exec .lcProgramDone s = .next s) ∧
    (∀ t, s.d.se.prog = some t → ∃ u, exec .lcProgramDone s = .next u ∧ Tab.get 0 u.env.otp 0 = Tab.get 0 s.env.otp 0 ||| lcCode t ∧
      u.d.se.prog = none ∧ u.d.getF F.TS_LC.PROGRAMMING 0 = 0 ∧ u.d.lcState = s.d.lcState ∧
      (t = 4 → (∀ k < 64, u.d.slotState k = 0) ∧ (∀ p < 16, u.d.getF F.SE_LINK.STATE p = 0) ∧ u.d.se.keys = [] ∧ u.d.se.links = [] ∧
        ∀ i < 4, Tab.get 0 u.env.otp (1 + i) = BitVec.allOnes 64) ∧
      (t ≠ 4 → u.d.se.keys = s.d.se.keys ∧ u.d.se.links = s.d.se.links ∧ keepsRegs s.d u.d [.TS_LC]))) ∧
  (∀ (s : State) (who : Who) (v : Word) (key svn : Nat),
    (s.d.barGate s.env who .TS_SVN_ADVANCE 0 = none → s.d.se.image = some (key, svn, true) →
      (fieldOf v 0 6 = svn → s.env.minSvn < svn →
        ∃ t, exec (.svnAdvance who v) s = .next t ∧ t.env = s.env.program 35 (lowClear (s.env.otpWord 35) (svn - s.env.minSvn)) ∧
          (∃ b, t.d = { s.d with se := { s.d.se with burn := b } }) ∧ t.pending = s.pending) ∧
      (fieldOf v 0 6 ≠ svn → exec (.svnAdvance who v) s = .next s)) ∧
    (s.d.barGate s.env who .TS_KEY_REVOKE 0 = none → s.d.se.image = some (key, svn, true) →
      ∃ t, exec (.keyRevoke who v) s = .next t ∧ (∃ b, t.d = { s.d with se := { s.d.se with burn := b } }) ∧
        (∀ w, w ≠ 36 → Tab.get 0 t.env.otp w = Tab.get 0 s.env.otp w) ∧
        ∀ i < 4, (Tab.get 0 t.env.otp 36).getLsbD i = ((Tab.get 0 s.env.otp 36).getLsbD i || (v.getLsbD i && decide (i ≠ key)))) ∧
    (s.d.barGate s.env who .TS_SVN_ADVANCE 0 = none → s.d.barGate s.env who .TS_KEY_REVOKE 0 = none → s.d.se.image = some (key, svn, false) →
      exec (.svnAdvance who v) s = .next s ∧ exec (.keyRevoke who v) s = .next s))

/-! ### Assay (chapter 12) -/

/-- The record of `t` in element `i` of bank `b` after report `r` of class `cls` has reached the bank of `d` (R374, Table 12.4): an empty record
takes the report whole; a valid one keeps it, and counts the new one in its overflow fields. -/
def banked (d t : Die) (b : Reg) (i : Nat) (r : Report) (cls : Nat) : Prop :=
  (d.bit (F.REC.VALID b) i = false →
    t.getF (F.REC.VALID b) i = 1 ∧ t.getF (F.REC.CLASS b) i = cls % 4 ∧ t.getF (F.REC.WORST b) i = cls % 4 ∧
    t.getF (F.REC.CAUSE b) i = (causeRow r.cause).code % 2 ^ 16 ∧ t.getF (F.REC.UNIT b) i = unitCode r % 256 ∧ t.getF (F.REC.INSTANCE b) i = r.inst % 256 ∧
    t.getF (F.REC.DETAIL0 b) i = r.det0 % 2 ^ 32 ∧ t.getF (F.REC.DETAIL1 b) i = r.det1 % 2 ^ 64 ∧ t.getF (F.REC.TIME b) i = r.time % 2 ^ 64 ∧
    t.getF (F.REC.ADDR_VALID b) i = Bool.num r.addr.isSome ∧ t.getF (F.REC.ADDR b) i = r.addr.getD 0 % 2 ^ 50 ∧
    t.getF (F.REC.CTX_VALID b) i = Bool.num r.ctx.isSome ∧ t.getF (F.REC.CONTEXT b) i = r.ctx.getD 0 % 2 ^ 12 ∧
    t.getF (F.REC.SLICE_VALID b) i = Bool.num r.slice.isSome ∧ t.getF (F.REC.SLICE b) i = r.slice.getD 0 % 2 ^ 9 ∧
    t.getF (F.REC.OVERFLOW b) i = 0 ∧ t.getF (F.REC.OVERFLOW_COUNT b) i = 0) ∧
  (d.bit (F.REC.VALID b) i = true →
    t.getF (F.REC.VALID b) i = 1 ∧
    (∀ f ∈ ([F.REC.CLASS b, F.REC.CAUSE b, F.REC.UNIT b, F.REC.INSTANCE b, F.REC.DETAIL0 b, F.REC.DETAIL1 b, F.REC.TIME b, F.REC.ADDR b, F.REC.CONTEXT b] : List Fld),
      t.getF f i = d.getF f i) ∧
    t.getF (F.REC.OVERFLOW b) i = 1 ∧ t.getF (F.REC.OVERFLOW_COUNT b) i = min (d.getF (F.REC.OVERFLOW_COUNT b) i + 1) 65535 ∧
    t.getF (F.REC.LAST_TIME b) i = r.time % 2 ^ 64 ∧ t.getF (F.REC.LAST_CAUSE b) i = (causeRow r.cause).code % 2 ^ 16 ∧
    t.getF (F.REC.WORST b) i = max cls (d.getF (F.REC.WORST b) i) % 4)

/-- A DIE fault of report `r`, standing in `x`, leaves `t` (R377): the record, the stop, and a warm reset that keeps the record and memory. -/
def dieStops (s t : State) (x : Die) (r : Report) : Prop :=
  banked (x.unrearm .AY_DIE_REC 0) t.d .AY_DIE_REC 0 r 3 ∧ t.d.phase = 2 ∧ t.d.bit F.AY_STATUS.HANDLING 0 = true ∧
    t.d.bit F.AY_STATUS.STOPPED 0 = true ∧ t.d.getF F.AY_RECOVERY.DIE_COUNT 0 = min (x.getF F.AY_RECOVERY.DIE_COUNT 0 + 1) 65535 ∧
    t.d.ay.waiting = [] ∧ t.d.mem.dram = s.d.mem.dram ∧ t.d.bt.fromDie = true ∧ t.env = s.env.reset false ∧ t.pending = s.pending

/-- Reports (R366 to R378, R384): the report whose reporter's turn it is, or one detected now where none stands, enters the intake; Assay counts its cause, and
records it in the bank of its class and, where it is a security event, in AY_SEC_REC with sec_alarm asserted; SLICE forces its slice to be disabled; DIE stops the
die with a warm reset that keeps the record and memory, and a cause that is DIE in every case does so by its dedicated line; a place that a report leaves goes to the
oldest that its checker holds; while a DIE fault is handled none is taken. RECORD_REARM: a 1 written to VALID of a die, corrected, security or injection record clears
VALID and nothing else of it, but for one that a report of this cycle has set, and a bank so written that a report of this cycle reaches stands as before (R375); AY_CTX_REC
and AY_SLICE_REC ignore the write.
Log entries 1, 7, 34 (the model's own choices). -/
def Obligations.ReportsReachTheirRecords : Prop :=
  (∀ (s : State) (r y : Report) (d₀ : Die), r.cause < 43 → s.d.bt.pwrGood = true → s.d.bit F.AY_STATUS.HANDLING 0 = false → alwaysDie r = false →
    r ∉ s.d.ay.early → s.d.ay.intake = [] →
    ((y = r ∧ d₀ = s.d ∧ s.d.nextReport = some r) ∨
      (y = { r with time := s.env.now } ∧ s.d.ay.waiting = [] ∧ s.d.ay.held = [] ∧ d₀ = { s.d with ay := { s.d.ay with waiting := [y] } })) →
    let x := (d₀.leaveReporter s.env y).2
    (d₀.ay.held.find? (fun h => decide (reporter h = reporter y)) = none → x.ay.waiting = d₀.ay.waiting.erase y) ∧
    (∀ h, d₀.ay.held.find? (fun h => decide (reporter h = reporter y)) = some h → d₀.placed (reporter y) ≤ 4 →
      x.ay.waiting = d₀.ay.waiting.erase y ++ [h] ∧ x.ay.held = d₀.ay.held.erase h) ∧
    x.mem = s.d.mem ∧
    (repClass y < 3 → ∃ d₁ : Die,
      exec (.assayReport r) s = .next { s with d := Die.pump s.env (match repClass y, y.slice with | 2, some sl => d₁.forceDisable s.env sl | _, _ => d₁) } ∧
      (y.cause = Cs.FABRIC_CE → y.self = false → s.d.ay.waiting = [] →
        d₁.getF F.RF_ERR.CE_COUNT 0 = min (x.getF F.RF_ERR.CE_COUNT 0 + 1) (2 ^ 32 - 1) ∧ d₁.getF F.RF_ERR.LAST_CE_STOP 0 = y.det0 % 2 ^ 8) ∧
      d₁.getF F.AY_STATUS.INTAKE_MAX 0 = max (x.getF F.AY_STATUS.INTAKE_MAX 0) 1 ∧ d₁.ay.intake = [] ∧ d₁.ay.waiting = x.ay.waiting ∧ d₁.ay.rr = reporter y ∧
      (y.self = true → banked (x.unrearm .AY_INJ_REC 0) d₁ .AY_INJ_REC 0 y 0 ∧ keepsRegs x d₁ [.AY_INJ_REC, .AY_STATUS]) ∧
      (y.self = false →
        d₁.getF F.AY_COUNT.COUNT y.cause = min (x.getF F.AY_COUNT.COUNT y.cause + 1) (2 ^ 32 - 1) ∧
        (repClass y = 0 → banked (x.unrearm .AY_CE_REC 0) d₁ .AY_CE_REC 0 y 0) ∧
        (∀ c, repClass y = 1 → y.ctx = some c → banked (x.unrearm .AY_CTX_REC c) d₁ .AY_CTX_REC c y 1) ∧
        (∀ sl, y.slice = some sl → (repClass y = 2 ∨ (repClass y = 1 ∧ y.ctx = none)) → banked (x.unrearm .AY_SLICE_REC sl) d₁ .AY_SLICE_REC sl y (repClass y) ∧
          ((x.unrearm .AY_SLICE_REC sl).bit (F.REC.VALID .AY_SLICE_REC) sl = false → (d₁.getF F.AY_SLICE_PEND.PEND (sl / 64)).testBit (sl % 64) = true)) ∧
        ((causeRow y.cause).sec = true → d₁.getF F.AY_ALARM.SEC_ALARM 0 = 1 ∧ banked (x.unrearm .AY_SEC_REC 0) d₁ .AY_SEC_REC 0 y (repClass y)) ∧
        d₁.mem = s.d.mem)) ∧
    (repClass y = 3 → ∃ u : State, exec (.assayReport r) s = .next { u with d := u.d.pump u.env } ∧ dieStops s u x y)) ∧
  (∀ (s : State) (r : Report), r.cause < 43 → s.d.bt.pwrGood = true → s.d.bit F.AY_STATUS.HANDLING 0 = false → alwaysDie r = true →
    let x := s.d.leaveReporter s.env r
    (∀ y ∈ x.2.ay.waiting, alwaysDie y = true → y.time ≠ x.1.time) →
    ∃ t, exec (.dieLine r) s = .next t ∧ dieStops s t x.2 x.1 ∧ (r ∉ s.d.ay.early → exec (.assayReport r) s = .next t)) ∧
  (∀ (s : State) (r : Report), (alwaysDie r = false → exec (.dieLine r) s = .next s) ∧
    (s.d.bit F.AY_STATUS.HANDLING 0 = true → exec (.assayReport r) s = .next s ∧ exec (.dieLine r) s = .next s)) ∧
  (∀ (s : State) (who : Who) (off : BitVec 26) (v : Word) (i : Nat), fieldOf v 0 1 = 1 →
    (∀ r ∈ ([.AY_DIE_REC, .AY_CE_REC, .AY_SEC_REC, .AY_INJ_REC] : List Reg),
      Reg.decode off.toNat = some (r, i, 0) → s.d.barGate s.env who r i = none →
      ∃ t, exec (.recordRearm who off v) s = .next t ∧ t.d.getF (F.REC.VALID r) i = (if s.d.risen (F.REC.VALID r) i then s.d.getF (F.REC.VALID r) i else 0) ∧
        (s.d.bit (F.REC.VALID r) i = true → s.d.risen (F.REC.VALID r) i = false → ∀ w < 8, (t.d.unrearm r i).reg r i w = s.d.reg r i w) ∧
        (∀ f ∈ r.fields, f.acc = .RO → t.d.getF f i = s.d.getF f i) ∧ keepsRegs s.d t.d [r] ∧
        t = { s with d := { s.d with regs := t.d.regs, rearmed := t.d.rearmed } }) ∧
    (∀ r ∈ ([.AY_CTX_REC, .AY_SLICE_REC] : List Reg),
      Reg.decode off.toNat = some (r, i, 0) → s.d.barGate s.env who r i = none → exec (.recordRearm who off v) s = .next s))

/-- The quiet count, the watchdog, the alarm and injections (R381 to R386): QUIET_END toggles the alive output and counts a recovery; a kick starts the watchdog's count
again, and an armed watchdog whose count has reached WDOG_TICKS disarms and reports; AY_CFG arms and disarms it; SEC_ALARM is cleared by a 1;
AY_INJECT arms an injection that keeps the rules of Table 12.5a, and any other, or one on top of an armed one, is refused.
Log entries 1, 32, 33 (the model's own choices). -/
def Obligations.QuietWatchdogAlarmAndInjections : Prop :=
  (∀ s : State,
    let due := s.d.ay.quiet = true ∧ s.d.bt.inWarm = false ∧ max 1 (s.d.getF F.AY_CFG.QUIET_TICKS 0) ≤ s.d.getF F.AY_STATUS.QUIET_COUNT 0
    (due → ∃ t, exec .quietEnd s = .next t ∧ t.d.getF F.AY_STATUS.ALIVE 0 = 1 - s.d.getF F.AY_STATUS.ALIVE 0 ∧ t.d.getF F.AY_STATUS.STOPPED 0 = 0 ∧
      t.d.getF F.AY_STATUS.HANDLING 0 = s.d.getF F.AY_STATUS.HANDLING 0 ∧
      t.d.getF F.AY_RECOVERY.RECOVERIES 0 = (s.d.getF F.AY_RECOVERY.RECOVERIES 0 + 1) % 2 ^ 32 ∧ t.d.getF F.AY_RECOVERY.DIE_COUNT 0 = s.d.getF F.AY_RECOVERY.DIE_COUNT 0 ∧
      t.d.ay.quiet = false ∧ keepsRegs s.d t.d [.AY_STATUS, .AY_RECOVERY] ∧ t.d.mem = s.d.mem ∧ t.env = s.env) ∧
    (¬ due → exec .quietEnd s = .next s)) ∧
  (∀ (s : State) (who : Who) (v : Word),
    (s.d.barGate s.env who .AY_WDOG 0 = none →
      (fieldOf v 0 1 = 1 → exec (.wdogKick who v) s = .next { s with d := { s.d with ay := { s.d.ay with kicks := 0 } } }) ∧
      (fieldOf v 0 1 = 0 → exec (.wdogKick who v) s = .next s)) ∧
    (let n := s.d.getF F.AY_CFG.WDOG_TICKS 0
     let due := s.d.bit F.AY_WDOG.ARMED 0 = true ∧ n ≠ 0 ∧ n ≤ s.d.ay.kicks
     (due → s.d.bit F.AY_STATUS.HANDLING 0 = false →
        ∃ t y, exec .wdogExpiry s = .next t ∧ t.d.getF F.AY_WDOG.ARMED 0 = 0 ∧
          (if s.d.placed (reporter y) < 4 then t.d.ay.waiting = s.d.ay.waiting ++ [y] else t.d.ay.held = s.d.ay.held ++ [y]) ∧ y.cause = Cs.FW_WDOG ∧
          y.time = s.env.now ∧ keepsRegs s.d t.d [.AY_WDOG, .AY_STATUS] ∧ t.d.mem = s.d.mem ∧ t.env = s.env) ∧
     (¬ due → exec .wdogExpiry s = .next s)) ∧
    (s.d.barGate s.env who .AY_CFG 0 = none →
      ∃ t, exec (.ayCfgWrite who v) s = .next t ∧ t.d.getF F.AY_CFG.QUIET_TICKS 0 = fieldOf v 0 16 ∧ t.d.getF F.AY_CFG.RECOVERY_LIMIT 0 = fieldOf v 16 8 ∧
        t.d.getF F.AY_CFG.WDOG_TICKS 0 = fieldOf v 24 16 ∧ t.d.getF F.AY_CFG.MSIX_VECTOR 0 = fieldOf v 40 11 ∧ t.d.getF F.AY_CFG.CE_NOTIFY 0 = fieldOf v 51 1 ∧
        (fieldOf v 24 16 = 0 → t.d.getF F.AY_WDOG.ARMED 0 = 0) ∧
        (fieldOf v 24 16 ≠ 0 → s.d.getF F.AY_CFG.WDOG_TICKS 0 = 0 → s.d.se.image.isSome = true → t.d.getF F.AY_WDOG.ARMED 0 = 1 ∧ t.d.ay.kicks = 0) ∧
        (fieldOf v 24 16 ≠ 0 → s.d.getF F.AY_CFG.WDOG_TICKS 0 ≠ 0 → t.d.getF F.AY_WDOG.ARMED 0 = s.d.getF F.AY_WDOG.ARMED 0 ∧ t.d.ay = s.d.ay) ∧
        keepsRegs s.d t.d [.AY_CFG, .AY_WDOG] ∧ t.d.mem = s.d.mem ∧ t.env = s.env) ∧
    (s.d.barGate s.env who .AY_ALARM 0 = none →
      ∃ t, exec (.secAlarmClear who v) s = .next t ∧ onlyRegs s t [.AY_ALARM] ∧
        t.d.getF F.AY_ALARM.SEC_ALARM 0 = if fieldOf v 0 1 = 1 ∧ s.d.risen F.AY_ALARM.SEC_ALARM 0 = false then 0 else s.d.getF F.AY_ALARM.SEC_ALARM 0)) ∧
  (∀ (s : State) (who : Who) (v : Word),
    let takes := fun (d : Die) (arm : Nat) => d.getF F.AY_INJECT.KIND 0 = fieldOf v 0 2 ∧ d.getF F.AY_INJECT.SYMBOLS 0 = fieldOf v 2 2 ∧
      d.getF F.AY_INJECT.ARM 0 = arm ∧ d.getF F.AY_INJECT.INSTANCE 0 = fieldOf v 8 8 ∧ d.getF F.AY_INJECT.CAUSE 0 = fieldOf v 16 16
    (s.d.mayInject who = false → exec (.ayInject who v) s = .next { s with d := s.d.badAccess }) ∧
    (s.d.mayInject who = true → s.d.barGate s.env who .AY_INJECT 0 = none →
      (fieldOf v 4 1 = 0 → ∃ t, exec (.ayInject who v) s = .next t ∧ takes t.d 0 ∧ onlyRegs s t [.AY_INJECT]) ∧
      (fieldOf v 4 1 = 1 → s.d.bit F.AY_INJECT.ARM 0 = true →
        ∃ t, exec (.ayInject who v) s = .next t ∧ t.d.getF F.AY_INJECT_STATUS.REFUSED 0 = 1 ∧ onlyRegsRose s t [.AY_INJECT_STATUS]) ∧
      (fieldOf v 4 1 = 1 → s.d.bit F.AY_INJECT.ARM 0 = false → s.d.injectOk s.env v = true →
        (fieldOf v 0 2 ≠ 1 → ∃ t, exec (.ayInject who v) s = .next t ∧ takes t.d 1 ∧ onlyRegs s t [.AY_INJECT]) ∧
        (fieldOf v 0 2 = 1 → ∃ t, takes t.d 1 ∧ onlyRegs s t [.AY_INJECT] ∧
          exec (.ayInject who v) s = .next { t with d := t.d.mcArrive s.env (s.d.getF F.AY_INJECT_ADDR.LINE 0) (.inject (s.d.getF F.AY_INJECT_ADDR.LINE 0) (fieldOf v 2 2)) })) ∧
      (fieldOf v 4 1 = 1 → s.d.bit F.AY_INJECT.ARM 0 = false → s.d.injectOk s.env v = false →
        ∃ t, exec (.ayInject who v) s = .next t ∧ takes t.d 0 ∧ t.d.getF F.AY_INJECT_STATUS.REFUSED 0 = 1 ∧ onlyRegsRose s t [.AY_INJECT, .AY_INJECT_STATUS])))

/-! ### The Counting House (chapter 14) -/

/-- CH_CLEAR (R411), the global freeze (R419), the bandwidth monitors (R423, R424) and CH_TIME_LOAD (R431): a clear sets its counters to 0 and raises their epochs, the
always-on set apart; a freeze latches every bank once its time has come, at once and LATE where the time is past as it is armed; a monitor written
counts from its next window boundary, and at a boundary shows the bytes of the window that ended; CH_TIME_LOAD moves die time forward before firmware
seal, and no other way.
Log entries 1, 35, 38 (the model's own choices). -/
def Obligations.CountersFreezesMonitorsAndDieTime : Prop :=
  (∀ (s : State) (who : Who) (v : Word), s.d.barGate s.env who .CH_CLEAR 0 = none →
    ∃ t, exec (.chClear who v) s = .next t ∧ t = { s with d := { s.d with ch := { s.d.ch with cnt := t.d.ch.cnt, epoch := t.d.ch.epoch } } } ∧
      ∀ id, let hit := fieldOf v 0 13 ≤ id ∧ id < fieldOf v 0 13 + fieldOf v 16 13 ∧ 64 ≤ id ∧ id < 6144 ∧ counterHere s.env id = true
        (hit → Tab.get 0 t.d.ch.cnt id = 0 ∧ Tab.get 0 t.d.ch.epoch id = Tab.get 0 s.d.ch.epoch id + 1) ∧
        (¬ hit → Tab.get 0 t.d.ch.cnt id = Tab.get 0 s.d.ch.cnt id ∧ Tab.get 0 t.d.ch.epoch id = Tab.get 0 s.d.ch.epoch id)) ∧
  (∀ (s : State) (who : Who) (v : Word),
    let late := s.d.bit F.CH_FREEZE_CTL.ARM 0 = false ∧ fieldOf v 0 1 = 1 ∧ s.d.getF F.CH_FREEZE_TIME.TIME 0 < s.env.now
    let due := s.d.bit F.CH_FREEZE_CTL.ARM 0 = true ∧ s.d.getF F.CH_FREEZE_TIME.TIME 0 ≤ s.env.now
    let froze := fun (t : State) (l : Nat) => t.d.getF F.CH_FREEZE_CTL.ARM 0 = 0 ∧ t.d.getF F.CH_FREEZE_CTL.DONE 0 = 1 ∧ t.d.getF F.CH_FREEZE_CTL.LATE 0 = l ∧
      t.d.getF F.CH_FREEZE_CTL.COARSE 0 = Bool.num (s.d.coarse s.env) ∧ t.d.getF F.CH_LATCH.NUMBER 0 = (s.d.getF F.CH_LATCH.NUMBER 0 + 1) % 2 ^ 64 ∧
      t.d.ch.frz = (t.d.getF F.CH_LATCH.NUMBER 0, s.d.latchAll s.env) ∧ keepsRegs s.d t.d [.CH_FREEZE_CTL, .CH_LATCH] ∧ t.d.mem = s.d.mem ∧ t.env = s.env
    (s.d.barGate s.env who .CH_FREEZE_CTL 0 = none →
      (late → ∃ t, exec (.freezeArm who v) s = .next t ∧ froze t 1) ∧
      (¬ late → ∃ t, exec (.freezeArm who v) s = .next t ∧ t.d.getF F.CH_FREEZE_CTL.ARM 0 = fieldOf v 0 1 ∧
        t.d.getF F.CH_FREEZE_CTL.DONE 0 = s.d.getF F.CH_FREEZE_CTL.DONE 0 * (if s.d.risen F.CH_FREEZE_CTL.DONE 0 then 1 else 1 - fieldOf v 1 1) ∧ onlyRegs s t [.CH_FREEZE_CTL])) ∧
    (due → ∃ t, exec .freeze s = .next t ∧ froze t 0) ∧
    (¬ due → exec .freeze s = .next s)) ∧
  (∀ (s : State) (who : Who) (m : BitVec 6) (v : Word),
    let n := m.toNat
    let x := Tab.get (0, 0, false) s.d.ch.mons n
    let w := s.d.monWindow n s.env.now
    (s.d.barGate s.env who .CH_BWMON n = none →
      ∃ t, exec (.bwmonWrite who m v) s = .next t ∧ t.d.getF F.CH_BWMON.SOURCE n = fieldOf v 0 4 ∧ t.d.getF F.CH_BWMON.INSTANCE n = fieldOf v 4 9 ∧
        t.d.getF F.CH_BWMON.DIR n = fieldOf v 13 1 ∧ t.d.getF F.CH_BWMON.WINDOW_US n = fieldOf v 32 20 ∧ t.d.reg .CH_BWLAST n 0 = 0 ∧
        t.d.reg .CH_BWPEAK n 0 = 0 ∧ t.d.reg .CH_BWCOUNT n 0 = 0 ∧
        Tab.get (0, 0, false) t.d.ch.mons n = (0, (if fieldOf v 32 20 = 0 then 0 else t.d.monWindow n s.env.now + 1), false) ∧
        (∀ j, j ≠ n → Tab.get (0, 0, false) t.d.ch.mons j = Tab.get (0, 0, false) s.d.ch.mons j) ∧
        keepsRegs s.d t.d [.CH_BWMON, .CH_BWLAST, .CH_BWPEAK, .CH_BWCOUNT] ∧ t.d.mem = s.d.mem ∧ t.env = s.env) ∧
    (s.d.getF F.CH_BWMON.WINDOW_US n ≠ 0 → x.2.1 < w →
      ∃ t, exec (.bwmonWindowEnd m) s = .next t ∧ t.d.getF F.CH_BWLAST.BYTES n = (if w = x.2.1 + 1 then x.1 % 2 ^ 48 else 0) ∧
        t.d.getF F.CH_BWPEAK.PEAK n = max (s.d.getF F.CH_BWPEAK.PEAK n) (x.1 % 2 ^ 48) ∧
        t.d.getF F.CH_BWCOUNT.WINDOWS n = (s.d.getF F.CH_BWCOUNT.WINDOWS n + (w - x.2.1)) % 2 ^ 32 ∧
        Tab.get (0, 0, false) t.d.ch.mons n = (0, w, false) ∧ keepsRegs s.d t.d [.CH_BWLAST, .CH_BWPEAK, .CH_BWCOUNT] ∧ t.d.mem = s.d.mem ∧ t.env = s.env) ∧
    ((s.d.getF F.CH_BWMON.WINDOW_US n = 0 ∨ w ≤ x.2.1) → exec (.bwmonWindowEnd m) s = .next s) ∧
    (s.d.barGate s.env who .CH_BWPEAK n = none →
      (fieldOf v 63 1 = 1 → ∃ t, exec (.bwpeakClear who m v) s = .next t ∧ t.d.getF F.CH_BWPEAK.PEAK n = 0 ∧ onlyRegs s t [.CH_BWPEAK] ∧
        ∀ j, j ≠ n → t.d.reg .CH_BWPEAK j 0 = s.d.reg .CH_BWPEAK j 0) ∧
      (fieldOf v 63 1 = 0 → exec (.bwpeakClear who m v) s = .next s))) ∧
  (∀ (s : State) (who : Who) (v : Word), s.d.barGate s.env who .CH_TIME_LOAD 0 = none →
    (s.env.fwSeal = false → s.env.now < v.toNat →
      ∃ t, exec (.chTimeLoad who v) s = .next t ∧ t.env.now = v.toNat ∧ t.env = { s.env with tq := t.env.tq } ∧
        keepsRegs s.d t.d [.CH_BWLAST, .CH_BWPEAK, .CH_BWCOUNT] ∧ t.d.mem = s.d.mem) ∧
    ((s.env.fwSeal = true ∨ v.toNat ≤ s.env.now) → exec (.chTimeLoad who v) s = .next { s with d := s.d.reject F.CH_STATUS.CFG_REJECT 0 }))

/-! ### Reset and start-up (chapters 11 and 15) -/

/-- Resets and the start of the die (R437 to R452, R363, R449): power-good starts phase 0; a cold reset puts every register at its reset value and die time at 0, and keeps
the OTP; a warm reset keeps the registers and fields of Table 15.7, memory and die time, and trains the stacks again; the ROM takes the
life cycle from OTP; the flash gives the settings and the log, or NO_SETTINGS after two seconds; the mailbox takes an image in phase 3, GO hands it to Touchstone, whose
result starts it or returns to phase 3; firmware seal ends the start.
Log entries 1, 49, 50, 51, 53, 54, 55, 56, 92 (the model's own choices). -/
def Obligations.TheDieResetsAndStarts : Prop :=
  (∀ s : State,
    (s.d.bt.pwrGood = false → exec .powerGood s = .next { s with d := { s.d with bt := { s.d.bt with pwrGood := true, phaseAt := s.env.now } } }) ∧
    (s.d.bt.pwrGood = true → exec .powerGood s = .next s) ∧
    (let cold := fun (t : State) (power : Bool) => (∀ (r : Reg) (i w : Nat), t.d.reg r i w = r.resetWord w) ∧ t.env.tq = 0 ∧ t.env.phase = 0 ∧ t.env.fwSeal = false ∧
       t.env.privRing = 0 ∧ t.env.dieId = 0 ∧ t.env.slot0 = 0 ∧ t.d.bt.pwrGood = power ∧ t.pending = s.pending ∧ (s.d.se.prog = none → (power = true ∨ s.d.se.burn = []) → t.env.otp = s.env.otp)
     let warm := fun t : State => t.d.phase = 2 ∧ (∀ r ∈ keptRegs, ∀ i w, t.d.reg r i w = s.d.reg r i w) ∧ (∀ f ∈ keptFields, t.d.getF f 0 = s.d.getF f 0) ∧
       (∀ r, r ∉ keptRegs → r ∉ ([.AY_CFG, .AY_STATUS, .ST_BOOT] : List Reg) → ∀ i w, t.d.reg r i w = r.resetWord w) ∧
       t.d.mem.dram = s.d.mem.dram ∧ t.d.mem.side = s.d.mem.side ∧ t.env = s.env.reset false ∧ t.env.tq = s.env.tq ∧ t.env.fwSeal = false ∧ t.pending = s.pending ∧
       (∀ n < s.env.regions, Tab.get 0 t.d.mem.stack n = 1)
     (∀ pin, (pin = false ∨ s.d.bt.pwrGood = true) → ∃ t, exec (.coldReset pin) s = .next t ∧ cold t pin) ∧
     (s.d.bt.pwrGood = false → exec (.coldReset true) s = .next s ∧ exec .warmReset s = .next s) ∧
     (s.d.bt.pwrGood = true → ∃ t, exec .warmReset s = .next t ∧ warm t) ∧
     (∀ (who : Who) (v : Word), (who = .steward ∨ (who = .pf ∧ 3 ≤ s.d.phase)) →
       (∀ row ∈ ([.stResetWarm who v, .stResetCold who v] : List Instr),
         (fieldOf v 48 16 = 0x5253 → fieldOf v 0 1 = 1 → fieldOf v 1 1 = 0 → ∃ t, exec row s = .next t ∧ warm t) ∧
         (fieldOf v 48 16 = 0x5253 → fieldOf v 0 1 = 0 → fieldOf v 1 1 = 1 → ∃ t, exec row s = .next t ∧ cold t true) ∧
         ((fieldOf v 48 16 ≠ 0x5253 ∨ fieldOf v 0 1 + fieldOf v 1 1 ≠ 1) → exec row s = .next { s with d := s.d.incSat F.ST_MBOX_STATUS.REJECT 0 1 }))))) ∧
  (∀ (s : State) (otpErr : Bool) (word : Word),
    (s.d.bt.pwrGood = true → s.d.phase = 0 →
      ∃ t, exec (.romStart otpErr word) s = .next t ∧ t.d.phase = 1 ∧ t.d.lcState = (if otpErr then 7 else lcDecode (Tab.get 0 s.env.otp 0)) ∧
        t.d.getF F.TS_LC.OTP_ERR 0 = Bool.num otpErr ∧ t.d.reg .TS_LC_WORD 0 0 = (if otpErr then word else Tab.get 0 s.env.otp 0) ∧
        t.d.getF F.TS_LC.MIN_SVN 0 = s.env.minSvn % 64 ∧ t.d.getF F.TS_KEYS.REVOKED 0 = fieldOf (Tab.get 0 s.env.otp 36) 0 4 ∧
        t.d.getF F.TS_KEYS.PRESENT 0 = s.env.keysPresent % 16 ∧ keepsRegs s.d t.d [.TS_LC, .TS_LC_WORD, .TS_KEYS, .ST_BOOT, .AY_STATUS] ∧ t.env = s.env) ∧
    (s.d.phase ≠ 0 → exec (.romStart otpErr word) s = .next s)) ∧
  (∀ (s : State) (a b : List Byte) (log : List LogSlot),
    (s.d.phase = 1 →
      ∃ t, exec (.flashReadDone a b log) s = .next t ∧ t.d.phase = 2 ∧ (∀ n < s.env.regions, Tab.get 0 t.d.mem.stack n = 1) ∧
        (chooseSettings a b = none → t.d.getF F.ST_BOOT.NO_SETTINGS 0 = 1) ∧
        (∀ x c, chooseSettings a b = some (x, c) → t.d.getF F.ST_BOOT.SETTINGS_COPY 0 = Bool.num c ∧
          t.d.getF F.ST_PWR_LIMIT.DIE_LIMIT_W 0 = if flashAt x 32 2 = 0 then s.d.getF F.ST_PWR_LIMIT.DIE_LIMIT_W 0 else flashAt x 32 2 % 2 ^ 16) ∧
        t.d.getF F.ST_BOOT.LOG_BAD 0 = min 65535 (log.filter slotLost).length ∧ t.d.bt.bad = badPages (pageEntries (log.filterMap slotPick)) ∧
        t.d.getF F.AY_RECOVERY.RECOVERIES 0 = flashAt ((newest (log.filterMap slotPick) 1).getD []) 32 4 % 2 ^ 32 ∧
        keepsRegs s.d t.d [.ST_BOOT, .ST_PWR_LIMIT, .ST_PWR_RLIMIT, .AY_RECOVERY] ∧ t.d.mem.dram = s.d.mem.dram ∧ t.env = s.env) ∧
    (s.d.phase = 1 → s.d.bt.phaseAt + 2000000000 ≤ s.env.now →
      ∃ t, exec .flashTimeout s = .next t ∧ t.d.phase = 2 ∧ t.d.getF F.ST_BOOT.FLASH_TIMEOUT 0 = 1 ∧ t.d.getF F.ST_BOOT.NO_SETTINGS 0 = 1 ∧
        (∀ n < s.env.regions, Tab.get 0 t.d.mem.stack n = 1) ∧ keepsRegs s.d t.d [.ST_BOOT, .AY_RECOVERY] ∧ t.d.mem.dram = s.d.mem.dram) ∧
    (s.d.phase ≠ 1 → exec (.flashReadDone a b log) s = .next s ∧ exec .flashTimeout s = .next s) ∧
    (s.env.now < s.d.bt.phaseAt + 2000000000 → exec .flashTimeout s = .next s)) ∧
  (∀ (s : State) (off : BitVec 21) (data : List Byte),
    let put : State := { s with d := { s.d with bt := { s.d.bt with mbox := putBytes s.d.bt.mbox off.toNat data } } }
    let fits := data.length % 4 = 0 ∧ off.toNat % 4 = 0 ∧ off.toNat + data.length ≤ 2 ^ 21
    let may := s.d.phase = 3 ∨ (5 ≤ s.d.phase ∧ off.toNat + data.length ≤ 8192)
    (fits → exec (.mboxDataWrite .steward off data) s = .next put ∧ (may → exec (.mboxDataWrite .pf off data) s = .next put)) ∧
    (fits → 3 ≤ s.d.phase → ¬ may → exec (.mboxDataWrite .pf off data) s = .next { s with d := s.d.incSat F.ST_MBOX_STATUS.REJECT 0 1 }) ∧
    ((data.length % 4 ≠ 0 ∨ off.toNat % 4 ≠ 0) → exec (.mboxDataWrite .steward off data) s = .next { s with d := s.d.count 59 1 } ∧
      (3 ≤ s.d.phase → exec (.mboxDataWrite .pf off data) s = .next { s with d := s.d.count 59 1 })) ∧
    (s.d.phase < 3 → exec (.mboxDataWrite .pf off data) s = .next { s with d := s.d.count 3829 1 })) ∧
  (∀ (s : State) (who : Who) (v : Word), s.d.barGate s.env who .ST_MBOX_CTL 0 = none →
    ∀ row ∈ ([.go who v, .h2f who v, .f2h who v] : List Instr),
      ∃ t, exec row s = .next t ∧ t.d.getF F.ST_MBOX_CTL.LENGTH 0 = fieldOf v 0 22 ∧ t.d.getF F.ST_MBOX_CTL.MSIX_VECTOR 0 = fieldOf v 40 11 ∧
        t.d.getF F.ST_MBOX_CTL.H2F 0 = (if fieldOf v 32 1 = 1 then (if who = .steward then 0 else 1) else s.d.getF F.ST_MBOX_CTL.H2F 0) ∧
        t.d.getF F.ST_MBOX_CTL.F2H 0 = (if fieldOf v 33 1 = 1 ∧ who = .steward then 1 - s.d.getF F.ST_MBOX_CTL.F2H 0 else s.d.getF F.ST_MBOX_CTL.F2H 0) ∧
        (fieldOf v 33 1 = 1 → who = .steward → s.d.getF F.ST_MBOX_CTL.F2H 0 = 0 → Msg.msix .pf (fieldOf v 40 11) ∈ t.d.out ++ t.d.bt.outq) ∧
        t.d.phase = (if fieldOf v 24 1 = 1 ∧ s.d.phase = 3 then 4 else s.d.phase) ∧
        t.d.getF F.ST_MBOX_STATUS.ATTEMPTS 0 = min (s.d.getF F.ST_MBOX_STATUS.ATTEMPTS 0 + (if fieldOf v 24 1 = 1 ∧ s.d.phase = 3 then 1 else 0)) 65535 ∧
        t.d.getF F.ST_MBOX_STATUS.REJECT 0 = min (s.d.getF F.ST_MBOX_STATUS.REJECT 0 + (if fieldOf v 24 1 = 1 ∧ s.d.phase ≠ 3 then 1 else 0)) 65535 ∧
        keepsRegs s.d t.d [.ST_MBOX_CTL, .ST_MBOX_STATUS, .ST_BOOT] ∧ t.d.mem = s.d.mem ∧ t.env = s.env) ∧
  (∀ s : State,
    (s.d.phase = 4 →
      ∃ t, exec .authDone s = .next t ∧ t.d.getF F.TS_FW_STATUS.RESULT 0 = s.d.authResult s.env ∧ t.d.getF F.ST_MBOX_STATUS.RESULT 0 = s.d.authResult s.env ∧
        t.d.phase = (if s.d.authResult s.env = 1 then 5 else 3) ∧
        (s.d.authResult s.env = 1 → t.d.se.image = some (s.d.imageNum 12 1, s.d.imageNum 16 1, decide (s.d.imageNum 13 1 % 2 = 0)) ∧
          t.d.getF F.TS_FW_STATUS.SVN 0 = s.d.imageNum 16 1 % 64 ∧ t.d.ay.kicks = 0 ∧
          (t.d.getF F.AY_WDOG.ARMED 0 = 1 ↔ s.d.getF F.AY_CFG.WDOG_TICKS 0 ≠ 0)) ∧
        (s.d.authResult s.env ≠ 1 → t.d.se = s.d.se ∧ t.d.ay = s.d.ay) ∧
        keepsRegs s.d t.d [.TS_FW_STATUS, .ST_MBOX_STATUS, .ST_BOOT, .AY_WDOG] ∧ t.d.mem = s.d.mem ∧ t.env = s.env) ∧
    (s.d.phase ≠ 4 → exec .authDone s = .next s)) ∧
  (∀ (s : State) (who : Who) (v : Word), s.d.barGate s.env who .ST_SEAL 0 = none →
    (fieldOf v 0 1 = 1 → s.env.fwSeal = false → s.d.phase = 5 →
      ∃ t, exec (.firmwareSeal who v) s = .next t ∧ t.env = { s.env with fwSeal := true } ∧ t.d.phase = 6 ∧ keepsRegs s.d t.d [.ST_BOOT] ∧
        (∀ n < s.env.clusters, Tab.get 0 t.d.eng.gens (genKey n none) = genSeed n 0 s.env.now) ∧ t.d.mem = s.d.mem) ∧
    ((fieldOf v 0 1 = 0 ∨ s.env.fwSeal = true ∨ s.d.phase ≠ 5) → exec (.firmwareSeal who v) s = .next s))
end

