-- ==== Sys2Proof/Laws/Fields.lean ====
section
/-! SUPPORT. The laws of the fields of a word: what a field reads as after a write of it, and of another. -/

namespace Sys2Proof

/-- The parts of a word around a field. -/
theorem field_split (x : Word) (lo w : Nat) :
    x.toNat = x.toNat % 2 ^ lo + fieldOf x lo w * 2 ^ lo + x.toNat / 2 ^ (lo + w) * 2 ^ (lo + w) := by
  unfold fieldOf
  have h1 := Nat.div_add_mod x.toNat (2 ^ lo)
  have h2 := Nat.div_add_mod (x.toNat / 2 ^ lo) (2 ^ w)
  rw [Nat.div_div_eq_div_mul, ← pow_add] at h2
  have h3 : x.toNat / 2 ^ (lo + w) * 2 ^ (lo + w) = 2 ^ lo * (2 ^ w * (x.toNat / 2 ^ (lo + w))) := by
    rw [pow_add]; ring
  have h4 : x.toNat / 2 ^ lo % 2 ^ w * 2 ^ lo = 2 ^ lo * (x.toNat / 2 ^ lo % 2 ^ w) := Nat.mul_comm _ _
  rw [h3, h4]
  have h5 : 2 ^ lo * (2 ^ w * (x.toNat / 2 ^ (lo + w))) + 2 ^ lo * (x.toNat / 2 ^ lo % 2 ^ w) = 2 ^ lo * (x.toNat / 2 ^ lo) := by
    rw [← Nat.mul_add, h2]
  omega

/-- The number a word holds after a write of a field. -/
theorem putField_toNat (x : Word) (lo w v : Nat) (h : lo + w ≤ 64) :
    (putField x lo w v).toNat = x.toNat % 2 ^ lo + (v % 2 ^ w) * 2 ^ lo + x.toNat / 2 ^ (lo + w) * 2 ^ (lo + w) := by
  have hs := field_split x lo w
  unfold putField
  rw [BitVec.toNat_ofNat]
  have hb : x.toNat / 2 ^ (lo + w) < 2 ^ (64 - (lo + w)) := by
    rw [Nat.div_lt_iff_lt_mul (by positivity), ← pow_add]
    have : 64 - (lo + w) + (lo + w) = 64 := by omega
    rw [this]; exact x.isLt
  have hm : x.toNat % 2 ^ lo < 2 ^ lo := Nat.mod_lt _ (by positivity)
  have hv : v % 2 ^ w < 2 ^ w := Nat.mod_lt _ (by positivity)
  have hlow : x.toNat % 2 ^ lo + (v % 2 ^ w) * 2 ^ lo < 2 ^ (lo + w) := by
    have h1 : (v % 2 ^ w + 1) * 2 ^ lo ≤ 2 ^ w * 2 ^ lo := Nat.mul_le_mul_right _ hv
    rw [pow_add, Nat.mul_comm (2 ^ lo)]
    have h2 : (v % 2 ^ w + 1) * 2 ^ lo = (v % 2 ^ w) * 2 ^ lo + 2 ^ lo := by ring
    omega
  have htop : (x.toNat / 2 ^ (lo + w) + 1) * 2 ^ (lo + w) ≤ 2 ^ 64 := by
    have h1 : (x.toNat / 2 ^ (lo + w) + 1) * 2 ^ (lo + w) ≤ 2 ^ (64 - (lo + w)) * 2 ^ (lo + w) := Nat.mul_le_mul_right _ hb
    rw [← pow_add] at h1
    have : 64 - (lo + w) + (lo + w) = 64 := by omega
    rwa [this] at h1
  have htop' : (x.toNat / 2 ^ (lo + w) + 1) * 2 ^ (lo + w) = x.toNat / 2 ^ (lo + w) * 2 ^ (lo + w) + 2 ^ (lo + w) := by ring
  rw [Nat.mod_eq_of_lt (by omega)]
  omega

/-- A written field reads as written. -/
theorem fieldOf_putField_same (x : Word) (lo w v : Nat) (h : lo + w ≤ 64) : fieldOf (putField x lo w v) lo w = v % 2 ^ w := by
  have hp := putField_toNat x lo w v h
  have hm : x.toNat % 2 ^ lo < 2 ^ lo := Nat.mod_lt _ (by positivity)
  unfold fieldOf
  rw [hp]
  have e : x.toNat % 2 ^ lo + v % 2 ^ w * 2 ^ lo + x.toNat / 2 ^ (lo + w) * 2 ^ (lo + w) =
      x.toNat % 2 ^ lo + 2 ^ lo * (v % 2 ^ w + 2 ^ w * (x.toNat / 2 ^ (lo + w))) := by rw [pow_add]; ring
  rw [e, Nat.add_mul_div_left _ _ (by positivity), Nat.div_eq_of_lt hm, Nat.zero_add, Nat.add_mul_mod_self_left, Nat.mod_mod]

/-- A field that lies apart from the written one reads as before. -/
theorem fieldOf_putField_apart (x : Word) (lo w v lo' w' : Nat) (h : lo + w ≤ 64) (hd : lo' + w' ≤ lo ∨ lo + w ≤ lo') :
    fieldOf (putField x lo w v) lo' w' = fieldOf x lo' w' := by
  have hp := putField_toNat x lo w v h
  have hm : x.toNat % 2 ^ lo < 2 ^ lo := Nat.mod_lt _ (by positivity)
  have hv : v % 2 ^ w < 2 ^ w := Nat.mod_lt _ (by positivity)
  unfold fieldOf
  rcases hd with hd | hd
  · -- below: both words agree modulo 2 ^ lo
    have key : (putField x lo w v).toNat % 2 ^ lo = x.toNat % 2 ^ lo := by
      rw [hp]
      have e : x.toNat % 2 ^ lo + v % 2 ^ w * 2 ^ lo + x.toNat / 2 ^ (lo + w) * 2 ^ (lo + w) =
        x.toNat % 2 ^ lo + 2 ^ lo * (v % 2 ^ w + 2 ^ w * (x.toNat / 2 ^ (lo + w))) := by rw [pow_add]; ring
      rw [e, Nat.add_mul_mod_self_left, Nat.mod_mod]
    have aux : ∀ n : Nat, n / 2 ^ lo' % 2 ^ w' = n % 2 ^ lo / 2 ^ lo' % 2 ^ w' := by
      intro n
      have e1 : lo = lo' + (lo - lo') := by omega
      conv_rhs => rw [e1, pow_add, Nat.mod_mul_right_div_self]
      rw [Nat.mod_mod_of_dvd _ (pow_dvd_pow 2 (by omega))]
    rw [aux, key, ← aux]
  · -- above: both words agree above the field
    have key : (putField x lo w v).toNat / 2 ^ (lo + w) = x.toNat / 2 ^ (lo + w) := by
      rw [hp]
      have hlow : x.toNat % 2 ^ lo + (v % 2 ^ w) * 2 ^ lo < 2 ^ (lo + w) := by
        have h1 : (v % 2 ^ w + 1) * 2 ^ lo ≤ 2 ^ w * 2 ^ lo := Nat.mul_le_mul_right _ hv
        rw [pow_add, Nat.mul_comm (2 ^ lo)]
        have h2 : (v % 2 ^ w + 1) * 2 ^ lo = (v % 2 ^ w) * 2 ^ lo + 2 ^ lo := by ring
        omega
      rw [Nat.add_mul_div_right _ _ (by positivity), Nat.div_eq_of_lt hlow, Nat.zero_add]
    have aux : ∀ n : Nat, n / 2 ^ lo' = n / 2 ^ (lo + w) / 2 ^ (lo' - (lo + w)) := by
      intro n
      rw [Nat.div_div_eq_div_mul, ← pow_add]
      congr 2
      omega
    rw [aux, key, ← aux]

theorem fieldOf_lt (x : Word) (lo w : Nat) : fieldOf x lo w < 2 ^ w := Nat.mod_lt _ (by positivity)

end Sys2Proof
end

