-- ==== Sys2Proof/Laws/Tab.lean ====
section
/-! SUPPORT. The laws of the sparse table: reading after writing, and the canonical form. -/

namespace Sys2Proof

@[simp] theorem Tab.get_nil {α : Type} (d : α) (k : Nat) : Tab.get d [] k = d := rfl

theorem Tab.get_erase {α : Type} (d : α) (t : Tab α) (k j : Nat) :
    Tab.get d (Tab.erase t k) j = if j = k then d else Tab.get d t j := by
  induction t with
  | nil => simp [Tab.erase]
  | cons x t ih =>
    obtain ⟨k', v⟩ := x
    by_cases h : k = k'
    · subst h
      simp only [Tab.erase, if_true, ih, Tab.get]
      split <;> simp_all
    · simp only [Tab.erase, if_neg h, Tab.get, ih]
      split
      · subst_vars; simp [Ne.symm h]
      · rfl

theorem Tab.get_insert {α : Type} (d : α) (t : Tab α) (k j : Nat) (v : α) :
    Tab.get d (Tab.insert t k v) j = if j = k then v else Tab.get d t j := by
  induction t with
  | nil => simp [Tab.insert, Tab.get]
  | cons x t ih =>
    obtain ⟨k', w⟩ := x
    by_cases h : k < k'
    · simp only [Tab.insert, if_pos h, Tab.get]
    · by_cases h2 : k = k'
      · subst h2
        simp only [Tab.insert, lt_irrefl, if_false, if_true, Tab.get]
        split <;> rfl
      · simp only [Tab.insert, if_neg h, if_neg h2, Tab.get, ih]
        split
        · subst_vars; simp [Ne.symm h2]
        · rfl

/-- A write and a read of a table: the written key reads as written, and no other key changes. -/
theorem Tab.get_set {α : Type} [DecidableEq α] (d : α) (t : Tab α) (k j : Nat) (v : α) :
    Tab.get d (Tab.set d t k v) j = if j = k then v else Tab.get d t j := by
  unfold Tab.set
  split
  · simp_all [Tab.get_erase]
  · exact Tab.get_insert d t k j v

@[simp] theorem Tab.get_set_same {α : Type} [DecidableEq α] (d : α) (t : Tab α) (k : Nat) (v : α) :
    Tab.get d (Tab.set d t k v) k = v := by simp [Tab.get_set]

theorem Tab.get_set_ne {α : Type} [DecidableEq α] (d : α) (t : Tab α) {k j : Nat} (h : j ≠ k) (v : α) :
    Tab.get d (Tab.set d t k v) j = Tab.get d t j := by simp [Tab.get_set, h]

/-- Another key reads as before, whatever an unlisted key is taken to read as. -/
theorem Tab.get_set_apart {α : Type} [DecidableEq α] (d d' : α) (t : Tab α) {k j : Nat} (h : j ≠ k) (v : α) :
    Tab.get d' (Tab.set d t k v) j = Tab.get d' t j := by
  unfold Tab.set
  split
  · simp [Tab.get_erase, h]
  · simp [Tab.get_insert, h]

/-! ### The canonical form -/

theorem Tab.sortedFrom_weaken {α : Type} {a b : Nat} (h : a ≤ b) (t : Tab α) :
    Tab.sortedFrom (some b) t = true → Tab.sortedFrom (some a) t = true := by
  cases t with
  | nil => simp [Tab.sortedFrom]
  | cons x t =>
    simp only [Tab.sortedFrom, Bool.and_eq_true, decide_eq_true_eq]
    exact fun h' => ⟨by omega, h'.2⟩

theorem Tab.sortedFrom_none {α : Type} {a : Nat} (t : Tab α) :
    Tab.sortedFrom (some a) t = true → Tab.sortedFrom none t = true := by
  cases t with
  | nil => simp [Tab.sortedFrom]
  | cons x t => simp only [Tab.sortedFrom, Bool.and_eq_true]; exact And.right

theorem Tab.sorted_erase {α : Type} (t : Tab α) (k : Nat) (lo : Option Nat) :
    Tab.sortedFrom lo t = true → Tab.sortedFrom lo (Tab.erase t k) = true := by
  induction t generalizing lo with
  | nil => simp [Tab.erase]
  | cons x t ih =>
    obtain ⟨k', v⟩ := x
    intro h
    by_cases hk : k = k'
    · simp only [Tab.erase, if_pos hk]
      apply ih
      cases lo with
      | none => exact Tab.sortedFrom_none t h
      | some a =>
        simp only [Tab.sortedFrom, Bool.and_eq_true, decide_eq_true_eq] at h
        exact Tab.sortedFrom_weaken (by omega) t h.2
    · simp only [Tab.erase, if_neg hk]
      cases lo with
      | none => exact ih (some k') h
      | some a =>
        simp only [Tab.sortedFrom, Bool.and_eq_true] at h ⊢
        exact ⟨h.1, ih _ h.2⟩

theorem Tab.sorted_insert {α : Type} (t : Tab α) (k : Nat) (v : α) (lo : Option Nat) (hlo : ∀ a, lo = some a → a < k) :
    Tab.sortedFrom lo t = true → Tab.sortedFrom lo (Tab.insert t k v) = true := by
  induction t generalizing lo with
  | nil =>
    intro _
    cases lo with
    | none => rfl
    | some a => simp [Tab.insert, Tab.sortedFrom, hlo a rfl]
  | cons x t ih =>
    obtain ⟨k', w⟩ := x
    intro h
    by_cases h1 : k < k'
    · simp only [Tab.insert, if_pos h1]
      cases lo with
      | none => simpa [Tab.sortedFrom, h1] using h
      | some a =>
        simp only [Tab.sortedFrom, Bool.and_eq_true, decide_eq_true_eq] at h ⊢
        exact ⟨hlo a rfl, h1, h.2⟩
    · by_cases h2 : k = k'
      · subst h2
        simp only [Tab.insert, lt_irrefl, if_false, if_true]
        cases lo with
        | none => exact h
        | some a => exact h
      · simp only [Tab.insert, if_neg h1, if_neg h2]
        cases lo with
        | none => exact ih (some k') (by intro a ha; cases ha; omega) h
        | some a =>
          simp only [Tab.sortedFrom, Bool.and_eq_true] at h ⊢
          exact ⟨h.1, ih (some k') (by intro a ha; cases ha; omega) h.2⟩

theorem Tab.mem_erase {α : Type} (t : Tab α) (k : Nat) (x : Nat × α) : x ∈ Tab.erase t k → x ∈ t := by
  induction t with
  | nil => simp [Tab.erase]
  | cons y t ih =>
    obtain ⟨k', v⟩ := y
    simp only [Tab.erase]
    split
    · intro h; exact List.mem_cons_of_mem _ (ih h)
    · intro h
      rcases List.mem_cons.1 h with h | h
      · simp [h]
      · exact List.mem_cons_of_mem _ (ih h)

theorem Tab.mem_insert {α : Type} (t : Tab α) (k : Nat) (v : α) (x : Nat × α) :
    x ∈ Tab.insert t k v → x = (k, v) ∨ x ∈ t := by
  induction t with
  | nil => simp [Tab.insert]
  | cons y t ih =>
    obtain ⟨k', w⟩ := y
    simp only [Tab.insert]
    split
    · intro h; simpa using h
    · split
      · intro h
        rcases List.mem_cons.1 h with h | h
        · exact .inl h
        · exact .inr (List.mem_cons_of_mem _ h)
      · intro h
        rcases List.mem_cons.1 h with h | h
        · exact .inr (by simp [h])
        · rcases ih h with h | h
          · exact .inl h
          · exact .inr (List.mem_cons_of_mem _ h)

/-- A write of a table keeps its canonical form. -/
theorem Tab.wf_set {α : Type} [DecidableEq α] (d : α) (t : Tab α) (k : Nat) (v : α) (h : Tab.wf d t = true) :
    Tab.wf d (Tab.set d t k v) = true := by
  unfold Tab.wf at *
  simp only [Bool.and_eq_true, List.all_eq_true, decide_eq_true_eq] at *
  unfold Tab.set
  split
  · exact ⟨Tab.sorted_erase t k none h.1, fun x hx => h.2 x (Tab.mem_erase t k x hx)⟩
  · refine ⟨Tab.sorted_insert t k v none (by simp) h.1, fun x hx => ?_⟩
    rcases Tab.mem_insert t k v x hx with hx | hx
    · subst hx; assumption
    · exact h.2 x hx

@[simp] theorem Tab.wf_nil {α : Type} [DecidableEq α] (d : α) : Tab.wf d ([] : Tab α) = true := rfl

/-- A key at or below a bound that every listed key exceeds reads as unlisted. -/
theorem Tab.get_of_lt {α : Type} (d : α) (t : Tab α) (lo : Nat) (h : Tab.sortedFrom (some lo) t = true) (k : Nat) (hk : k ≤ lo) :
    Tab.get d t k = d := by
  induction t generalizing lo with
  | nil => rfl
  | cons x t ih =>
    obtain ⟨k', v⟩ := x
    simp only [Tab.sortedFrom, Bool.and_eq_true, decide_eq_true_eq] at h
    rw [Tab.get, if_neg (by omega)]
    exact ih k' h.2 (by omega)

end Sys2Proof
end

