-- ==== Sys2Proof/Laws/State.lean ====
section
/-! SUPPORT. One lemma per field of the die and per named update: what the update leaves as it was, and what a
register reads as afterwards. -/

namespace Sys2Proof.Machine

/-! ### What each update leaves as it was -/

@[simp] theorem Die.setReg_sf (d : Die) (r : Reg) (i w : Nat) (v : Word) : (d.setReg r i w v).sf = d.sf := rfl
@[simp] theorem Die.setReg_sm (d : Die) (r : Reg) (i w : Nat) (v : Word) : (d.setReg r i w v).sm = d.sm := rfl
@[simp] theorem Die.setReg_ty (d : Die) (r : Reg) (i w : Nat) (v : Word) : (d.setReg r i w v).ty = d.ty := rfl
@[simp] theorem Die.setReg_stu (d : Die) (r : Reg) (i w : Nat) (v : Word) : (d.setReg r i w v).stu = d.stu := rfl
@[simp] theorem Die.setReg_we (d : Die) (r : Reg) (i w : Nat) (v : Word) : (d.setReg r i w v).we = d.we := rfl
@[simp] theorem Die.setReg_coh (d : Die) (r : Reg) (i w : Nat) (v : Word) : (d.setReg r i w v).coh = d.coh := rfl
@[simp] theorem Die.setReg_mem (d : Die) (r : Reg) (i w : Nat) (v : Word) : (d.setReg r i w v).mem = d.mem := rfl
@[simp] theorem Die.setReg_eng (d : Die) (r : Reg) (i w : Nat) (v : Word) : (d.setReg r i w v).eng = d.eng := rfl
@[simp] theorem Die.setReg_se (d : Die) (r : Reg) (i w : Nat) (v : Word) : (d.setReg r i w v).se = d.se := rfl
@[simp] theorem Die.setReg_ay (d : Die) (r : Reg) (i w : Nat) (v : Word) : (d.setReg r i w v).ay = d.ay := rfl
@[simp] theorem Die.setReg_ch (d : Die) (r : Reg) (i w : Nat) (v : Word) : (d.setReg r i w v).ch = d.ch := rfl
@[simp] theorem Die.setReg_bt (d : Die) (r : Reg) (i w : Nat) (v : Word) : (d.setReg r i w v).bt = d.bt := rfl
@[simp] theorem Die.setReg_out (d : Die) (r : Reg) (i w : Nat) (v : Word) : (d.setReg r i w v).out = d.out := rfl
@[simp] theorem Die.setReg_rose (d : Die) (r : Reg) (i w : Nat) (v : Word) : (d.setReg r i w v).rose = d.rose := rfl
@[simp] theorem Die.setReg_rearmed (d : Die) (r : Reg) (i w : Nat) (v : Word) : (d.setReg r i w v).rearmed = d.rearmed := rfl
@[simp] theorem Die.setReg_ctr (d : Die) (r : Reg) (i w : Nat) (v : Word) : (d.setReg r i w v).ctr = d.ctr := rfl
@[simp] theorem Die.setReg_nid (d : Die) (r : Reg) (i w : Nat) (v : Word) : (d.setReg r i w v).nid = d.nid := rfl

@[simp] theorem Die.setF_sf (d : Die) (f : Fld) (i v : Nat) : (d.setF f i v).sf = d.sf := rfl
@[simp] theorem Die.setF_sm (d : Die) (f : Fld) (i v : Nat) : (d.setF f i v).sm = d.sm := rfl
@[simp] theorem Die.setF_ty (d : Die) (f : Fld) (i v : Nat) : (d.setF f i v).ty = d.ty := rfl
@[simp] theorem Die.setF_stu (d : Die) (f : Fld) (i v : Nat) : (d.setF f i v).stu = d.stu := rfl
@[simp] theorem Die.setF_we (d : Die) (f : Fld) (i v : Nat) : (d.setF f i v).we = d.we := rfl
@[simp] theorem Die.setF_coh (d : Die) (f : Fld) (i v : Nat) : (d.setF f i v).coh = d.coh := rfl
@[simp] theorem Die.setF_mem (d : Die) (f : Fld) (i v : Nat) : (d.setF f i v).mem = d.mem := rfl
@[simp] theorem Die.setF_eng (d : Die) (f : Fld) (i v : Nat) : (d.setF f i v).eng = d.eng := rfl
@[simp] theorem Die.setF_se (d : Die) (f : Fld) (i v : Nat) : (d.setF f i v).se = d.se := rfl
@[simp] theorem Die.setF_ay (d : Die) (f : Fld) (i v : Nat) : (d.setF f i v).ay = d.ay := rfl
@[simp] theorem Die.setF_ch (d : Die) (f : Fld) (i v : Nat) : (d.setF f i v).ch = d.ch := rfl
@[simp] theorem Die.setF_bt (d : Die) (f : Fld) (i v : Nat) : (d.setF f i v).bt = d.bt := rfl
@[simp] theorem Die.setF_out (d : Die) (f : Fld) (i v : Nat) : (d.setF f i v).out = d.out := rfl
@[simp] theorem Die.setF_rose (d : Die) (f : Fld) (i v : Nat) : (d.setF f i v).rose = d.rose := rfl
@[simp] theorem Die.setF_rearmed (d : Die) (f : Fld) (i v : Nat) : (d.setF f i v).rearmed = d.rearmed := rfl
@[simp] theorem Die.setF_ctr (d : Die) (f : Fld) (i v : Nat) : (d.setF f i v).ctr = d.ctr := rfl
@[simp] theorem Die.setF_nid (d : Die) (f : Fld) (i v : Nat) : (d.setF f i v).nid = d.nid := rfl

@[simp] theorem Die.incSat_sf (d : Die) (f : Fld) (i n : Nat) : (d.incSat f i n).sf = d.sf := rfl
@[simp] theorem Die.incSat_sm (d : Die) (f : Fld) (i n : Nat) : (d.incSat f i n).sm = d.sm := rfl
@[simp] theorem Die.incSat_ty (d : Die) (f : Fld) (i n : Nat) : (d.incSat f i n).ty = d.ty := rfl
@[simp] theorem Die.incSat_stu (d : Die) (f : Fld) (i n : Nat) : (d.incSat f i n).stu = d.stu := rfl
@[simp] theorem Die.incSat_we (d : Die) (f : Fld) (i n : Nat) : (d.incSat f i n).we = d.we := rfl
@[simp] theorem Die.incSat_coh (d : Die) (f : Fld) (i n : Nat) : (d.incSat f i n).coh = d.coh := rfl
@[simp] theorem Die.incSat_mem (d : Die) (f : Fld) (i n : Nat) : (d.incSat f i n).mem = d.mem := rfl
@[simp] theorem Die.incSat_eng (d : Die) (f : Fld) (i n : Nat) : (d.incSat f i n).eng = d.eng := rfl
@[simp] theorem Die.incSat_se (d : Die) (f : Fld) (i n : Nat) : (d.incSat f i n).se = d.se := rfl
@[simp] theorem Die.incSat_ay (d : Die) (f : Fld) (i n : Nat) : (d.incSat f i n).ay = d.ay := rfl
@[simp] theorem Die.incSat_ch (d : Die) (f : Fld) (i n : Nat) : (d.incSat f i n).ch = d.ch := rfl
@[simp] theorem Die.incSat_bt (d : Die) (f : Fld) (i n : Nat) : (d.incSat f i n).bt = d.bt := rfl
@[simp] theorem Die.incSat_out (d : Die) (f : Fld) (i n : Nat) : (d.incSat f i n).out = d.out := rfl
@[simp] theorem Die.incSat_rose (d : Die) (f : Fld) (i n : Nat) : (d.incSat f i n).rose = d.rose := rfl
@[simp] theorem Die.incSat_rearmed (d : Die) (f : Fld) (i n : Nat) : (d.incSat f i n).rearmed = d.rearmed := rfl
@[simp] theorem Die.incSat_ctr (d : Die) (f : Fld) (i n : Nat) : (d.incSat f i n).ctr = d.ctr := rfl
@[simp] theorem Die.incSat_nid (d : Die) (f : Fld) (i n : Nat) : (d.incSat f i n).nid = d.nid := rfl

@[simp] theorem Die.incWrap_sf (d : Die) (f : Fld) (i n : Nat) : (d.incWrap f i n).sf = d.sf := rfl
@[simp] theorem Die.incWrap_sm (d : Die) (f : Fld) (i n : Nat) : (d.incWrap f i n).sm = d.sm := rfl
@[simp] theorem Die.incWrap_ty (d : Die) (f : Fld) (i n : Nat) : (d.incWrap f i n).ty = d.ty := rfl
@[simp] theorem Die.incWrap_stu (d : Die) (f : Fld) (i n : Nat) : (d.incWrap f i n).stu = d.stu := rfl
@[simp] theorem Die.incWrap_we (d : Die) (f : Fld) (i n : Nat) : (d.incWrap f i n).we = d.we := rfl
@[simp] theorem Die.incWrap_coh (d : Die) (f : Fld) (i n : Nat) : (d.incWrap f i n).coh = d.coh := rfl
@[simp] theorem Die.incWrap_mem (d : Die) (f : Fld) (i n : Nat) : (d.incWrap f i n).mem = d.mem := rfl
@[simp] theorem Die.incWrap_eng (d : Die) (f : Fld) (i n : Nat) : (d.incWrap f i n).eng = d.eng := rfl
@[simp] theorem Die.incWrap_se (d : Die) (f : Fld) (i n : Nat) : (d.incWrap f i n).se = d.se := rfl
@[simp] theorem Die.incWrap_ay (d : Die) (f : Fld) (i n : Nat) : (d.incWrap f i n).ay = d.ay := rfl
@[simp] theorem Die.incWrap_ch (d : Die) (f : Fld) (i n : Nat) : (d.incWrap f i n).ch = d.ch := rfl
@[simp] theorem Die.incWrap_bt (d : Die) (f : Fld) (i n : Nat) : (d.incWrap f i n).bt = d.bt := rfl
@[simp] theorem Die.incWrap_out (d : Die) (f : Fld) (i n : Nat) : (d.incWrap f i n).out = d.out := rfl
@[simp] theorem Die.incWrap_rose (d : Die) (f : Fld) (i n : Nat) : (d.incWrap f i n).rose = d.rose := rfl
@[simp] theorem Die.incWrap_rearmed (d : Die) (f : Fld) (i n : Nat) : (d.incWrap f i n).rearmed = d.rearmed := rfl
@[simp] theorem Die.incWrap_ctr (d : Die) (f : Fld) (i n : Nat) : (d.incWrap f i n).ctr = d.ctr := rfl
@[simp] theorem Die.incWrap_nid (d : Die) (f : Fld) (i n : Nat) : (d.incWrap f i n).nid = d.nid := rfl

@[simp] theorem Die.setEvs_sf (d : Die) (f : Fld) (i v : Nat) : (d.setEvs f i v).sf = d.sf := rfl
@[simp] theorem Die.setEvs_sm (d : Die) (f : Fld) (i v : Nat) : (d.setEvs f i v).sm = d.sm := rfl
@[simp] theorem Die.setEvs_ty (d : Die) (f : Fld) (i v : Nat) : (d.setEvs f i v).ty = d.ty := rfl
@[simp] theorem Die.setEvs_stu (d : Die) (f : Fld) (i v : Nat) : (d.setEvs f i v).stu = d.stu := rfl
@[simp] theorem Die.setEvs_we (d : Die) (f : Fld) (i v : Nat) : (d.setEvs f i v).we = d.we := rfl
@[simp] theorem Die.setEvs_coh (d : Die) (f : Fld) (i v : Nat) : (d.setEvs f i v).coh = d.coh := rfl
@[simp] theorem Die.setEvs_mem (d : Die) (f : Fld) (i v : Nat) : (d.setEvs f i v).mem = d.mem := rfl
@[simp] theorem Die.setEvs_eng (d : Die) (f : Fld) (i v : Nat) : (d.setEvs f i v).eng = d.eng := rfl
@[simp] theorem Die.setEvs_se (d : Die) (f : Fld) (i v : Nat) : (d.setEvs f i v).se = d.se := rfl
@[simp] theorem Die.setEvs_ay (d : Die) (f : Fld) (i v : Nat) : (d.setEvs f i v).ay = d.ay := rfl
@[simp] theorem Die.setEvs_ch (d : Die) (f : Fld) (i v : Nat) : (d.setEvs f i v).ch = d.ch := rfl
@[simp] theorem Die.setEvs_bt (d : Die) (f : Fld) (i v : Nat) : (d.setEvs f i v).bt = d.bt := rfl
@[simp] theorem Die.setEvs_out (d : Die) (f : Fld) (i v : Nat) : (d.setEvs f i v).out = d.out := rfl
@[simp] theorem Die.setEvs_rearmed (d : Die) (f : Fld) (i v : Nat) : (d.setEvs f i v).rearmed = d.rearmed := rfl
@[simp] theorem Die.setEvs_ctr (d : Die) (f : Fld) (i v : Nat) : (d.setEvs f i v).ctr = d.ctr := rfl
@[simp] theorem Die.setEvs_nid (d : Die) (f : Fld) (i v : Nat) : (d.setEvs f i v).nid = d.nid := rfl

@[simp] theorem Die.setEv_sf (d : Die) (f : Fld) (i : Nat) : (d.setEv f i).sf = d.sf := rfl
@[simp] theorem Die.setEv_sm (d : Die) (f : Fld) (i : Nat) : (d.setEv f i).sm = d.sm := rfl
@[simp] theorem Die.setEv_ty (d : Die) (f : Fld) (i : Nat) : (d.setEv f i).ty = d.ty := rfl
@[simp] theorem Die.setEv_stu (d : Die) (f : Fld) (i : Nat) : (d.setEv f i).stu = d.stu := rfl
@[simp] theorem Die.setEv_we (d : Die) (f : Fld) (i : Nat) : (d.setEv f i).we = d.we := rfl
@[simp] theorem Die.setEv_coh (d : Die) (f : Fld) (i : Nat) : (d.setEv f i).coh = d.coh := rfl
@[simp] theorem Die.setEv_mem (d : Die) (f : Fld) (i : Nat) : (d.setEv f i).mem = d.mem := rfl
@[simp] theorem Die.setEv_eng (d : Die) (f : Fld) (i : Nat) : (d.setEv f i).eng = d.eng := rfl
@[simp] theorem Die.setEv_se (d : Die) (f : Fld) (i : Nat) : (d.setEv f i).se = d.se := rfl
@[simp] theorem Die.setEv_ay (d : Die) (f : Fld) (i : Nat) : (d.setEv f i).ay = d.ay := rfl
@[simp] theorem Die.setEv_ch (d : Die) (f : Fld) (i : Nat) : (d.setEv f i).ch = d.ch := rfl
@[simp] theorem Die.setEv_bt (d : Die) (f : Fld) (i : Nat) : (d.setEv f i).bt = d.bt := rfl
@[simp] theorem Die.setEv_out (d : Die) (f : Fld) (i : Nat) : (d.setEv f i).out = d.out := rfl
@[simp] theorem Die.setEv_rearmed (d : Die) (f : Fld) (i : Nat) : (d.setEv f i).rearmed = d.rearmed := rfl
@[simp] theorem Die.setEv_ctr (d : Die) (f : Fld) (i : Nat) : (d.setEv f i).ctr = d.ctr := rfl
@[simp] theorem Die.setEv_nid (d : Die) (f : Fld) (i : Nat) : (d.setEv f i).nid = d.nid := rfl

@[simp] theorem Die.clearReg_sf (d : Die) (r : Reg) : (d.clearReg r).sf = d.sf := rfl
@[simp] theorem Die.clearReg_sm (d : Die) (r : Reg) : (d.clearReg r).sm = d.sm := rfl
@[simp] theorem Die.clearReg_ty (d : Die) (r : Reg) : (d.clearReg r).ty = d.ty := rfl
@[simp] theorem Die.clearReg_stu (d : Die) (r : Reg) : (d.clearReg r).stu = d.stu := rfl
@[simp] theorem Die.clearReg_we (d : Die) (r : Reg) : (d.clearReg r).we = d.we := rfl
@[simp] theorem Die.clearReg_coh (d : Die) (r : Reg) : (d.clearReg r).coh = d.coh := rfl
@[simp] theorem Die.clearReg_mem (d : Die) (r : Reg) : (d.clearReg r).mem = d.mem := rfl
@[simp] theorem Die.clearReg_eng (d : Die) (r : Reg) : (d.clearReg r).eng = d.eng := rfl
@[simp] theorem Die.clearReg_se (d : Die) (r : Reg) : (d.clearReg r).se = d.se := rfl
@[simp] theorem Die.clearReg_ay (d : Die) (r : Reg) : (d.clearReg r).ay = d.ay := rfl
@[simp] theorem Die.clearReg_ch (d : Die) (r : Reg) : (d.clearReg r).ch = d.ch := rfl
@[simp] theorem Die.clearReg_bt (d : Die) (r : Reg) : (d.clearReg r).bt = d.bt := rfl
@[simp] theorem Die.clearReg_out (d : Die) (r : Reg) : (d.clearReg r).out = d.out := rfl
@[simp] theorem Die.clearReg_rose (d : Die) (r : Reg) : (d.clearReg r).rose = d.rose := rfl
@[simp] theorem Die.clearReg_rearmed (d : Die) (r : Reg) : (d.clearReg r).rearmed = d.rearmed := rfl
@[simp] theorem Die.clearReg_ctr (d : Die) (r : Reg) : (d.clearReg r).ctr = d.ctr := rfl
@[simp] theorem Die.clearReg_nid (d : Die) (r : Reg) : (d.clearReg r).nid = d.nid := rfl

@[simp] theorem Die.setCtxState_sf (d : Die) (c st : Nat) : (d.setCtxState c st).sf = d.sf := rfl
@[simp] theorem Die.setCtxState_sm (d : Die) (c st : Nat) : (d.setCtxState c st).sm = d.sm := rfl
@[simp] theorem Die.setCtxState_ty (d : Die) (c st : Nat) : (d.setCtxState c st).ty = d.ty := rfl
@[simp] theorem Die.setCtxState_stu (d : Die) (c st : Nat) : (d.setCtxState c st).stu = d.stu := rfl
@[simp] theorem Die.setCtxState_we (d : Die) (c st : Nat) : (d.setCtxState c st).we = d.we := rfl
@[simp] theorem Die.setCtxState_coh (d : Die) (c st : Nat) : (d.setCtxState c st).coh = d.coh := rfl
@[simp] theorem Die.setCtxState_mem (d : Die) (c st : Nat) : (d.setCtxState c st).mem = d.mem := rfl
@[simp] theorem Die.setCtxState_eng (d : Die) (c st : Nat) : (d.setCtxState c st).eng = d.eng := rfl
@[simp] theorem Die.setCtxState_se (d : Die) (c st : Nat) : (d.setCtxState c st).se = d.se := rfl
@[simp] theorem Die.setCtxState_ay (d : Die) (c st : Nat) : (d.setCtxState c st).ay = d.ay := rfl
@[simp] theorem Die.setCtxState_ch (d : Die) (c st : Nat) : (d.setCtxState c st).ch = d.ch := rfl
@[simp] theorem Die.setCtxState_bt (d : Die) (c st : Nat) : (d.setCtxState c st).bt = d.bt := rfl
@[simp] theorem Die.setCtxState_out (d : Die) (c st : Nat) : (d.setCtxState c st).out = d.out := rfl
@[simp] theorem Die.setCtxState_rose (d : Die) (c st : Nat) : (d.setCtxState c st).rose = d.rose := rfl
@[simp] theorem Die.setCtxState_rearmed (d : Die) (c st : Nat) : (d.setCtxState c st).rearmed = d.rearmed := rfl
@[simp] theorem Die.setCtxState_ctr (d : Die) (c st : Nat) : (d.setCtxState c st).ctr = d.ctr := rfl
@[simp] theorem Die.setCtxState_nid (d : Die) (c st : Nat) : (d.setCtxState c st).nid = d.nid := rfl

@[simp] theorem Die.setPage_sf (d : Die) (p st owner orphan cause : Nat) : (d.setPage p st owner orphan cause).sf = d.sf := by unfold Die.setPage; rw [Die.setF_sf, Die.setF_sf, Die.setF_sf, Die.setF_sf]
@[simp] theorem Die.setPage_sm (d : Die) (p st owner orphan cause : Nat) : (d.setPage p st owner orphan cause).sm = d.sm := by unfold Die.setPage; rw [Die.setF_sm, Die.setF_sm, Die.setF_sm, Die.setF_sm]
@[simp] theorem Die.setPage_ty (d : Die) (p st owner orphan cause : Nat) : (d.setPage p st owner orphan cause).ty = d.ty := by unfold Die.setPage; rw [Die.setF_ty, Die.setF_ty, Die.setF_ty, Die.setF_ty]
@[simp] theorem Die.setPage_stu (d : Die) (p st owner orphan cause : Nat) : (d.setPage p st owner orphan cause).stu = d.stu := by unfold Die.setPage; rw [Die.setF_stu, Die.setF_stu, Die.setF_stu, Die.setF_stu]
@[simp] theorem Die.setPage_we (d : Die) (p st owner orphan cause : Nat) : (d.setPage p st owner orphan cause).we = d.we := by unfold Die.setPage; rw [Die.setF_we, Die.setF_we, Die.setF_we, Die.setF_we]
@[simp] theorem Die.setPage_coh (d : Die) (p st owner orphan cause : Nat) : (d.setPage p st owner orphan cause).coh = d.coh := by unfold Die.setPage; rw [Die.setF_coh, Die.setF_coh, Die.setF_coh, Die.setF_coh]
@[simp] theorem Die.setPage_mem (d : Die) (p st owner orphan cause : Nat) : (d.setPage p st owner orphan cause).mem = d.mem := by unfold Die.setPage; rw [Die.setF_mem, Die.setF_mem, Die.setF_mem, Die.setF_mem]
@[simp] theorem Die.setPage_eng (d : Die) (p st owner orphan cause : Nat) : (d.setPage p st owner orphan cause).eng = d.eng := by unfold Die.setPage; rw [Die.setF_eng, Die.setF_eng, Die.setF_eng, Die.setF_eng]
@[simp] theorem Die.setPage_se (d : Die) (p st owner orphan cause : Nat) : (d.setPage p st owner orphan cause).se = d.se := by unfold Die.setPage; rw [Die.setF_se, Die.setF_se, Die.setF_se, Die.setF_se]
@[simp] theorem Die.setPage_ay (d : Die) (p st owner orphan cause : Nat) : (d.setPage p st owner orphan cause).ay = d.ay := by unfold Die.setPage; rw [Die.setF_ay, Die.setF_ay, Die.setF_ay, Die.setF_ay]
@[simp] theorem Die.setPage_ch (d : Die) (p st owner orphan cause : Nat) : (d.setPage p st owner orphan cause).ch = d.ch := by unfold Die.setPage; rw [Die.setF_ch, Die.setF_ch, Die.setF_ch, Die.setF_ch]
@[simp] theorem Die.setPage_bt (d : Die) (p st owner orphan cause : Nat) : (d.setPage p st owner orphan cause).bt = d.bt := by unfold Die.setPage; rw [Die.setF_bt, Die.setF_bt, Die.setF_bt, Die.setF_bt]
@[simp] theorem Die.setPage_out (d : Die) (p st owner orphan cause : Nat) : (d.setPage p st owner orphan cause).out = d.out := by unfold Die.setPage; rw [Die.setF_out, Die.setF_out, Die.setF_out, Die.setF_out]
@[simp] theorem Die.setPage_rose (d : Die) (p st owner orphan cause : Nat) : (d.setPage p st owner orphan cause).rose = d.rose := by unfold Die.setPage; rw [Die.setF_rose, Die.setF_rose, Die.setF_rose, Die.setF_rose]
@[simp] theorem Die.setPage_rearmed (d : Die) (p st owner orphan cause : Nat) : (d.setPage p st owner orphan cause).rearmed = d.rearmed := by unfold Die.setPage; rw [Die.setF_rearmed, Die.setF_rearmed, Die.setF_rearmed, Die.setF_rearmed]
@[simp] theorem Die.setPage_ctr (d : Die) (p st owner orphan cause : Nat) : (d.setPage p st owner orphan cause).ctr = d.ctr := by unfold Die.setPage; rw [Die.setF_ctr, Die.setF_ctr, Die.setF_ctr, Die.setF_ctr]
@[simp] theorem Die.setPage_nid (d : Die) (p st owner orphan cause : Nat) : (d.setPage p st owner orphan cause).nid = d.nid := by unfold Die.setPage; rw [Die.setF_nid, Die.setF_nid, Die.setF_nid, Die.setF_nid]

@[simp] theorem Die.send_regs (d : Die) (m : Msg) : (d.send m).regs = d.regs := rfl
@[simp] theorem Die.send_sf (d : Die) (m : Msg) : (d.send m).sf = d.sf := rfl
@[simp] theorem Die.send_sm (d : Die) (m : Msg) : (d.send m).sm = d.sm := rfl
@[simp] theorem Die.send_ty (d : Die) (m : Msg) : (d.send m).ty = d.ty := rfl
@[simp] theorem Die.send_stu (d : Die) (m : Msg) : (d.send m).stu = d.stu := rfl
@[simp] theorem Die.send_we (d : Die) (m : Msg) : (d.send m).we = d.we := rfl
@[simp] theorem Die.send_coh (d : Die) (m : Msg) : (d.send m).coh = d.coh := rfl
@[simp] theorem Die.send_mem (d : Die) (m : Msg) : (d.send m).mem = d.mem := rfl
@[simp] theorem Die.send_eng (d : Die) (m : Msg) : (d.send m).eng = d.eng := rfl
@[simp] theorem Die.send_se (d : Die) (m : Msg) : (d.send m).se = d.se := rfl
@[simp] theorem Die.send_ay (d : Die) (m : Msg) : (d.send m).ay = d.ay := rfl
@[simp] theorem Die.send_ch (d : Die) (m : Msg) : (d.send m).ch = d.ch := rfl
@[simp] theorem Die.send_bt (d : Die) (m : Msg) : (d.send m).bt = d.bt := rfl
@[simp] theorem Die.send_rose (d : Die) (m : Msg) : (d.send m).rose = d.rose := rfl
@[simp] theorem Die.send_rearmed (d : Die) (m : Msg) : (d.send m).rearmed = d.rearmed := rfl
@[simp] theorem Die.send_ctr (d : Die) (m : Msg) : (d.send m).ctr = d.ctr := rfl
@[simp] theorem Die.send_nid (d : Die) (m : Msg) : (d.send m).nid = d.nid := rfl

@[simp] theorem Die.drawn_regs (d : Die)  : (d.drawn ).regs = d.regs := rfl
@[simp] theorem Die.drawn_sf (d : Die)  : (d.drawn ).sf = d.sf := rfl
@[simp] theorem Die.drawn_sm (d : Die)  : (d.drawn ).sm = d.sm := rfl
@[simp] theorem Die.drawn_ty (d : Die)  : (d.drawn ).ty = d.ty := rfl
@[simp] theorem Die.drawn_stu (d : Die)  : (d.drawn ).stu = d.stu := rfl
@[simp] theorem Die.drawn_we (d : Die)  : (d.drawn ).we = d.we := rfl
@[simp] theorem Die.drawn_coh (d : Die)  : (d.drawn ).coh = d.coh := rfl
@[simp] theorem Die.drawn_mem (d : Die)  : (d.drawn ).mem = d.mem := rfl
@[simp] theorem Die.drawn_eng (d : Die)  : (d.drawn ).eng = d.eng := rfl
@[simp] theorem Die.drawn_se (d : Die)  : (d.drawn ).se = d.se := rfl
@[simp] theorem Die.drawn_ay (d : Die)  : (d.drawn ).ay = d.ay := rfl
@[simp] theorem Die.drawn_ch (d : Die)  : (d.drawn ).ch = d.ch := rfl
@[simp] theorem Die.drawn_bt (d : Die)  : (d.drawn ).bt = d.bt := rfl
@[simp] theorem Die.drawn_out (d : Die)  : (d.drawn ).out = d.out := rfl
@[simp] theorem Die.drawn_rose (d : Die)  : (d.drawn ).rose = d.rose := rfl
@[simp] theorem Die.drawn_rearmed (d : Die)  : (d.drawn ).rearmed = d.rearmed := rfl
@[simp] theorem Die.drawn_nid (d : Die)  : (d.drawn ).nid = d.nid := rfl

@[simp] theorem Die.named_regs (d : Die)  : (d.named ).regs = d.regs := rfl
@[simp] theorem Die.named_sf (d : Die)  : (d.named ).sf = d.sf := rfl
@[simp] theorem Die.named_sm (d : Die)  : (d.named ).sm = d.sm := rfl
@[simp] theorem Die.named_ty (d : Die)  : (d.named ).ty = d.ty := rfl
@[simp] theorem Die.named_stu (d : Die)  : (d.named ).stu = d.stu := rfl
@[simp] theorem Die.named_we (d : Die)  : (d.named ).we = d.we := rfl
@[simp] theorem Die.named_coh (d : Die)  : (d.named ).coh = d.coh := rfl
@[simp] theorem Die.named_mem (d : Die)  : (d.named ).mem = d.mem := rfl
@[simp] theorem Die.named_eng (d : Die)  : (d.named ).eng = d.eng := rfl
@[simp] theorem Die.named_se (d : Die)  : (d.named ).se = d.se := rfl
@[simp] theorem Die.named_ay (d : Die)  : (d.named ).ay = d.ay := rfl
@[simp] theorem Die.named_ch (d : Die)  : (d.named ).ch = d.ch := rfl
@[simp] theorem Die.named_bt (d : Die)  : (d.named ).bt = d.bt := rfl
@[simp] theorem Die.named_out (d : Die)  : (d.named ).out = d.out := rfl
@[simp] theorem Die.named_rose (d : Die)  : (d.named ).rose = d.rose := rfl
@[simp] theorem Die.named_rearmed (d : Die)  : (d.named ).rearmed = d.rearmed := rfl
@[simp] theorem Die.named_ctr (d : Die)  : (d.named ).ctr = d.ctr := rfl

@[simp] theorem Die.count_regs (d : Die) (id n : Nat) : (d.count id n).regs = d.regs := by unfold Die.count; split <;> rfl
@[simp] theorem Die.count_sf (d : Die) (id n : Nat) : (d.count id n).sf = d.sf := by unfold Die.count; split <;> rfl
@[simp] theorem Die.count_sm (d : Die) (id n : Nat) : (d.count id n).sm = d.sm := by unfold Die.count; split <;> rfl
@[simp] theorem Die.count_ty (d : Die) (id n : Nat) : (d.count id n).ty = d.ty := by unfold Die.count; split <;> rfl
@[simp] theorem Die.count_stu (d : Die) (id n : Nat) : (d.count id n).stu = d.stu := by unfold Die.count; split <;> rfl
@[simp] theorem Die.count_we (d : Die) (id n : Nat) : (d.count id n).we = d.we := by unfold Die.count; split <;> rfl
@[simp] theorem Die.count_coh (d : Die) (id n : Nat) : (d.count id n).coh = d.coh := by unfold Die.count; split <;> rfl
@[simp] theorem Die.count_mem (d : Die) (id n : Nat) : (d.count id n).mem = d.mem := by unfold Die.count; split <;> rfl
@[simp] theorem Die.count_eng (d : Die) (id n : Nat) : (d.count id n).eng = d.eng := by unfold Die.count; split <;> rfl
@[simp] theorem Die.count_se (d : Die) (id n : Nat) : (d.count id n).se = d.se := by unfold Die.count; split <;> rfl
@[simp] theorem Die.count_ay (d : Die) (id n : Nat) : (d.count id n).ay = d.ay := by unfold Die.count; split <;> rfl
@[simp] theorem Die.count_bt (d : Die) (id n : Nat) : (d.count id n).bt = d.bt := by unfold Die.count; split <;> rfl
@[simp] theorem Die.count_out (d : Die) (id n : Nat) : (d.count id n).out = d.out := by unfold Die.count; split <;> rfl
@[simp] theorem Die.count_rose (d : Die) (id n : Nat) : (d.count id n).rose = d.rose := by unfold Die.count; split <;> rfl
@[simp] theorem Die.count_rearmed (d : Die) (id n : Nat) : (d.count id n).rearmed = d.rearmed := by unfold Die.count; split <;> rfl
@[simp] theorem Die.count_ctr (d : Die) (id n : Nat) : (d.count id n).ctr = d.ctr := by unfold Die.count; split <;> rfl
@[simp] theorem Die.count_nid (d : Die) (id n : Nat) : (d.count id n).nid = d.nid := by unfold Die.count; split <;> rfl

@[simp] theorem Die.resetCount_regs (d : Die) (id : Nat) : (d.resetCount id).regs = d.regs := rfl
@[simp] theorem Die.resetCount_sf (d : Die) (id : Nat) : (d.resetCount id).sf = d.sf := rfl
@[simp] theorem Die.resetCount_sm (d : Die) (id : Nat) : (d.resetCount id).sm = d.sm := rfl
@[simp] theorem Die.resetCount_ty (d : Die) (id : Nat) : (d.resetCount id).ty = d.ty := rfl
@[simp] theorem Die.resetCount_stu (d : Die) (id : Nat) : (d.resetCount id).stu = d.stu := rfl
@[simp] theorem Die.resetCount_we (d : Die) (id : Nat) : (d.resetCount id).we = d.we := rfl
@[simp] theorem Die.resetCount_coh (d : Die) (id : Nat) : (d.resetCount id).coh = d.coh := rfl
@[simp] theorem Die.resetCount_mem (d : Die) (id : Nat) : (d.resetCount id).mem = d.mem := rfl
@[simp] theorem Die.resetCount_eng (d : Die) (id : Nat) : (d.resetCount id).eng = d.eng := rfl
@[simp] theorem Die.resetCount_se (d : Die) (id : Nat) : (d.resetCount id).se = d.se := rfl
@[simp] theorem Die.resetCount_ay (d : Die) (id : Nat) : (d.resetCount id).ay = d.ay := rfl
@[simp] theorem Die.resetCount_bt (d : Die) (id : Nat) : (d.resetCount id).bt = d.bt := rfl
@[simp] theorem Die.resetCount_out (d : Die) (id : Nat) : (d.resetCount id).out = d.out := rfl
@[simp] theorem Die.resetCount_rose (d : Die) (id : Nat) : (d.resetCount id).rose = d.rose := rfl
@[simp] theorem Die.resetCount_rearmed (d : Die) (id : Nat) : (d.resetCount id).rearmed = d.rearmed := rfl
@[simp] theorem Die.resetCount_ctr (d : Die) (id : Nat) : (d.resetCount id).ctr = d.ctr := rfl
@[simp] theorem Die.resetCount_nid (d : Die) (id : Nat) : (d.resetCount id).nid = d.nid := rfl

@[simp] theorem Die.reject_sf (d : Die) (f : Fld) (i : Nat) : (d.reject f i).sf = d.sf := by simp [Die.reject]
@[simp] theorem Die.reject_sm (d : Die) (f : Fld) (i : Nat) : (d.reject f i).sm = d.sm := by simp [Die.reject]
@[simp] theorem Die.reject_ty (d : Die) (f : Fld) (i : Nat) : (d.reject f i).ty = d.ty := by simp [Die.reject]
@[simp] theorem Die.reject_stu (d : Die) (f : Fld) (i : Nat) : (d.reject f i).stu = d.stu := by simp [Die.reject]
@[simp] theorem Die.reject_we (d : Die) (f : Fld) (i : Nat) : (d.reject f i).we = d.we := by simp [Die.reject]
@[simp] theorem Die.reject_coh (d : Die) (f : Fld) (i : Nat) : (d.reject f i).coh = d.coh := by simp [Die.reject]
@[simp] theorem Die.reject_mem (d : Die) (f : Fld) (i : Nat) : (d.reject f i).mem = d.mem := by simp [Die.reject]
@[simp] theorem Die.reject_eng (d : Die) (f : Fld) (i : Nat) : (d.reject f i).eng = d.eng := by simp [Die.reject]
@[simp] theorem Die.reject_se (d : Die) (f : Fld) (i : Nat) : (d.reject f i).se = d.se := by simp [Die.reject]
@[simp] theorem Die.reject_ay (d : Die) (f : Fld) (i : Nat) : (d.reject f i).ay = d.ay := by simp [Die.reject]
@[simp] theorem Die.reject_bt (d : Die) (f : Fld) (i : Nat) : (d.reject f i).bt = d.bt := by simp [Die.reject]
@[simp] theorem Die.reject_out (d : Die) (f : Fld) (i : Nat) : (d.reject f i).out = d.out := by simp [Die.reject]
@[simp] theorem Die.reject_rose (d : Die) (f : Fld) (i : Nat) : (d.reject f i).rose = d.rose := by simp [Die.reject]
@[simp] theorem Die.reject_rearmed (d : Die) (f : Fld) (i : Nat) : (d.reject f i).rearmed = d.rearmed := by simp [Die.reject]
@[simp] theorem Die.reject_ctr (d : Die) (f : Fld) (i : Nat) : (d.reject f i).ctr = d.ctr := by simp [Die.reject]
@[simp] theorem Die.reject_nid (d : Die) (f : Fld) (i : Nat) : (d.reject f i).nid = d.nid := by simp [Die.reject]

@[simp] theorem Die.badAccess_regs (d : Die)  : (d.badAccess ).regs = d.regs := by simp [Die.badAccess]
@[simp] theorem Die.badAccess_sf (d : Die)  : (d.badAccess ).sf = d.sf := by simp [Die.badAccess]
@[simp] theorem Die.badAccess_sm (d : Die)  : (d.badAccess ).sm = d.sm := by simp [Die.badAccess]
@[simp] theorem Die.badAccess_ty (d : Die)  : (d.badAccess ).ty = d.ty := by simp [Die.badAccess]
@[simp] theorem Die.badAccess_stu (d : Die)  : (d.badAccess ).stu = d.stu := by simp [Die.badAccess]
@[simp] theorem Die.badAccess_we (d : Die)  : (d.badAccess ).we = d.we := by simp [Die.badAccess]
@[simp] theorem Die.badAccess_coh (d : Die)  : (d.badAccess ).coh = d.coh := by simp [Die.badAccess]
@[simp] theorem Die.badAccess_mem (d : Die)  : (d.badAccess ).mem = d.mem := by simp [Die.badAccess]
@[simp] theorem Die.badAccess_eng (d : Die)  : (d.badAccess ).eng = d.eng := by simp [Die.badAccess]
@[simp] theorem Die.badAccess_se (d : Die)  : (d.badAccess ).se = d.se := by simp [Die.badAccess]
@[simp] theorem Die.badAccess_ay (d : Die)  : (d.badAccess ).ay = d.ay := by simp [Die.badAccess]
@[simp] theorem Die.badAccess_bt (d : Die)  : (d.badAccess ).bt = d.bt := by simp [Die.badAccess]
@[simp] theorem Die.badAccess_out (d : Die)  : (d.badAccess ).out = d.out := by simp [Die.badAccess]
@[simp] theorem Die.badAccess_rose (d : Die)  : (d.badAccess ).rose = d.rose := by simp [Die.badAccess]
@[simp] theorem Die.badAccess_rearmed (d : Die)  : (d.badAccess ).rearmed = d.rearmed := by simp [Die.badAccess]
@[simp] theorem Die.badAccess_ctr (d : Die)  : (d.badAccess ).ctr = d.ctr := by simp [Die.badAccess]
@[simp] theorem Die.badAccess_nid (d : Die)  : (d.badAccess ).nid = d.nid := by simp [Die.badAccess]

@[simp] theorem Die.setPower_regs (d : Die) (r : Nat) (p : Power) : (d.setPower r p).regs = d.regs := rfl
@[simp] theorem Die.setPower_sf (d : Die) (r : Nat) (p : Power) : (d.setPower r p).sf = d.sf := rfl
@[simp] theorem Die.setPower_sm (d : Die) (r : Nat) (p : Power) : (d.setPower r p).sm = d.sm := rfl
@[simp] theorem Die.setPower_ty (d : Die) (r : Nat) (p : Power) : (d.setPower r p).ty = d.ty := rfl
@[simp] theorem Die.setPower_stu (d : Die) (r : Nat) (p : Power) : (d.setPower r p).stu = d.stu := rfl
@[simp] theorem Die.setPower_we (d : Die) (r : Nat) (p : Power) : (d.setPower r p).we = d.we := rfl
@[simp] theorem Die.setPower_coh (d : Die) (r : Nat) (p : Power) : (d.setPower r p).coh = d.coh := rfl
@[simp] theorem Die.setPower_mem (d : Die) (r : Nat) (p : Power) : (d.setPower r p).mem = d.mem := rfl
@[simp] theorem Die.setPower_eng (d : Die) (r : Nat) (p : Power) : (d.setPower r p).eng = d.eng := rfl
@[simp] theorem Die.setPower_se (d : Die) (r : Nat) (p : Power) : (d.setPower r p).se = d.se := rfl
@[simp] theorem Die.setPower_ay (d : Die) (r : Nat) (p : Power) : (d.setPower r p).ay = d.ay := rfl
@[simp] theorem Die.setPower_ch (d : Die) (r : Nat) (p : Power) : (d.setPower r p).ch = d.ch := rfl
@[simp] theorem Die.setPower_out (d : Die) (r : Nat) (p : Power) : (d.setPower r p).out = d.out := rfl
@[simp] theorem Die.setPower_rose (d : Die) (r : Nat) (p : Power) : (d.setPower r p).rose = d.rose := rfl
@[simp] theorem Die.setPower_rearmed (d : Die) (r : Nat) (p : Power) : (d.setPower r p).rearmed = d.rearmed := rfl
@[simp] theorem Die.setPower_ctr (d : Die) (r : Nat) (p : Power) : (d.setPower r p).ctr = d.ctr := rfl
@[simp] theorem Die.setPower_nid (d : Die) (r : Nat) (p : Power) : (d.setPower r p).nid = d.nid := rfl

theorem foldl_keeps {α β γ : Type} (g : α → γ) (f : α → β → α) (h : ∀ a b, g (f a b) = g a) (l : List β) (a : α) :
    g (l.foldl f a) = g a := by
  induction l generalizing a with
  | nil => rfl
  | cons b l ih => rw [List.foldl_cons, ih, h]

@[simp] theorem Die.clearElem_sf (d : Die) (r : Reg) (i : Nat) : (d.clearElem r i).sf = d.sf := by unfold Die.clearElem; exact foldl_keeps (fun x : Die => x.sf) _ (fun a b => Die.setReg_sf a r i b _) _ _
@[simp] theorem Die.clearElem_sm (d : Die) (r : Reg) (i : Nat) : (d.clearElem r i).sm = d.sm := by unfold Die.clearElem; exact foldl_keeps (fun x : Die => x.sm) _ (fun a b => Die.setReg_sm a r i b _) _ _
@[simp] theorem Die.clearElem_ty (d : Die) (r : Reg) (i : Nat) : (d.clearElem r i).ty = d.ty := by unfold Die.clearElem; exact foldl_keeps (fun x : Die => x.ty) _ (fun a b => Die.setReg_ty a r i b _) _ _
@[simp] theorem Die.clearElem_stu (d : Die) (r : Reg) (i : Nat) : (d.clearElem r i).stu = d.stu := by unfold Die.clearElem; exact foldl_keeps (fun x : Die => x.stu) _ (fun a b => Die.setReg_stu a r i b _) _ _
@[simp] theorem Die.clearElem_we (d : Die) (r : Reg) (i : Nat) : (d.clearElem r i).we = d.we := by unfold Die.clearElem; exact foldl_keeps (fun x : Die => x.we) _ (fun a b => Die.setReg_we a r i b _) _ _
@[simp] theorem Die.clearElem_coh (d : Die) (r : Reg) (i : Nat) : (d.clearElem r i).coh = d.coh := by unfold Die.clearElem; exact foldl_keeps (fun x : Die => x.coh) _ (fun a b => Die.setReg_coh a r i b _) _ _
@[simp] theorem Die.clearElem_mem (d : Die) (r : Reg) (i : Nat) : (d.clearElem r i).mem = d.mem := by unfold Die.clearElem; exact foldl_keeps (fun x : Die => x.mem) _ (fun a b => Die.setReg_mem a r i b _) _ _
@[simp] theorem Die.clearElem_eng (d : Die) (r : Reg) (i : Nat) : (d.clearElem r i).eng = d.eng := by unfold Die.clearElem; exact foldl_keeps (fun x : Die => x.eng) _ (fun a b => Die.setReg_eng a r i b _) _ _
@[simp] theorem Die.clearElem_se (d : Die) (r : Reg) (i : Nat) : (d.clearElem r i).se = d.se := by unfold Die.clearElem; exact foldl_keeps (fun x : Die => x.se) _ (fun a b => Die.setReg_se a r i b _) _ _
@[simp] theorem Die.clearElem_ay (d : Die) (r : Reg) (i : Nat) : (d.clearElem r i).ay = d.ay := by unfold Die.clearElem; exact foldl_keeps (fun x : Die => x.ay) _ (fun a b => Die.setReg_ay a r i b _) _ _
@[simp] theorem Die.clearElem_ch (d : Die) (r : Reg) (i : Nat) : (d.clearElem r i).ch = d.ch := by unfold Die.clearElem; exact foldl_keeps (fun x : Die => x.ch) _ (fun a b => Die.setReg_ch a r i b _) _ _
@[simp] theorem Die.clearElem_bt (d : Die) (r : Reg) (i : Nat) : (d.clearElem r i).bt = d.bt := by unfold Die.clearElem; exact foldl_keeps (fun x : Die => x.bt) _ (fun a b => Die.setReg_bt a r i b _) _ _
@[simp] theorem Die.clearElem_out (d : Die) (r : Reg) (i : Nat) : (d.clearElem r i).out = d.out := by unfold Die.clearElem; exact foldl_keeps (fun x : Die => x.out) _ (fun a b => Die.setReg_out a r i b _) _ _
@[simp] theorem Die.clearElem_rose (d : Die) (r : Reg) (i : Nat) : (d.clearElem r i).rose = d.rose := by unfold Die.clearElem; exact foldl_keeps (fun x : Die => x.rose) _ (fun a b => Die.setReg_rose a r i b _) _ _
@[simp] theorem Die.clearElem_rearmed (d : Die) (r : Reg) (i : Nat) : (d.clearElem r i).rearmed = d.rearmed := by unfold Die.clearElem; exact foldl_keeps (fun x : Die => x.rearmed) _ (fun a b => Die.setReg_rearmed a r i b _) _ _
@[simp] theorem Die.clearElem_ctr (d : Die) (r : Reg) (i : Nat) : (d.clearElem r i).ctr = d.ctr := by unfold Die.clearElem; exact foldl_keeps (fun x : Die => x.ctr) _ (fun a b => Die.setReg_ctr a r i b _) _ _
@[simp] theorem Die.clearElem_nid (d : Die) (r : Reg) (i : Nat) : (d.clearElem r i).nid = d.nid := by unfold Die.clearElem; exact foldl_keeps (fun x : Die => x.nid) _ (fun a b => Die.setReg_nid a r i b _) _ _

/-! ### What the other parts become -/

@[simp] theorem Die.send_out (d : Die) (m : Msg) : (d.send m).out = m :: d.out := rfl
@[simp] theorem Die.drawn_ctr (d : Die) : d.drawn.ctr = d.ctr + 1 := rfl
@[simp] theorem Die.named_nid (d : Die) : d.named.nid = d.nid + 1 := rfl
@[simp] theorem State.go_eq (s : State) (d : Die) : s.go d = .next { s with d := d } := rfl

/-! ### Registers -/

/-- No two registers share a table. -/
theorem Reg.ctorIdx_inj (r r' : Reg) (h : r.ctorIdx = r'.ctorIdx) : r = r' := by
  have := congrArg Reg.ofNat h
  rwa [Reg.ofNat_ctorIdx, Reg.ofNat_ctorIdx] at this

/-- The written word of a register reads as written. -/
@[simp] theorem Die.reg_setReg_same (d : Die) (r : Reg) (i w : Nat) (v : Word) : (d.setReg r i w v).reg r i w = v := by
  simp [Die.reg, Die.setReg]

/-- Another register, or another word of the same register, reads as before. -/
theorem Die.reg_setReg_ne (d : Die) (r r' : Reg) (i w j x : Nat) (v : Word) (h : r' ≠ r ∨ 8 * j + x ≠ 8 * i + w) :
    (d.setReg r i w v).reg r' j x = d.reg r' j x := by
  unfold Die.reg Die.setReg
  by_cases hr : r' = r
  · subst hr
    have hk : 8 * j + x ≠ 8 * i + w := by rcases h with h | h; exact absurd rfl h; exact h
    simp [Tab.get_set_apart _ _ _ hk]
  · have hi : r'.ctorIdx ≠ r.ctorIdx := fun h => hr (Reg.ctorIdx_inj _ _ h)
    simp [Tab.get_set_ne _ _ hi]

theorem Die.reg_setReg_other (d : Die) (r r' : Reg) (i w j x : Nat) (v : Word) (h : r' ≠ r) :
    (d.setReg r i w v).reg r' j x = d.reg r' j x := Die.reg_setReg_ne d r r' i w j x v (.inl h)

theorem Die.reg_setF_other (d : Die) (f : Fld) (r : Reg) (i v j x : Nat) (h : r ≠ f.reg) : (d.setF f i v).reg r j x = d.reg r j x :=
  Die.reg_setReg_other _ _ _ _ _ _ _ _ h

/-- A written field reads as written. -/
theorem Die.getF_setF_same (d : Die) (f : Fld) (i v : Nat) (h : f.lo + f.width ≤ 64) : (d.setF f i v).getF f i = v % 2 ^ f.width := by
  unfold Die.getF Die.setF
  rw [Die.reg_setReg_same, fieldOf_putField_same _ _ _ _ h]

/-- An event changes its register as a write of the field would, and notes the bits it has set (R11). -/
theorem Die.setEvs_regs (d : Die) (f : Fld) (i v : Nat) : (d.setEvs f i v).regs = (d.setF f i (d.getF f i ||| v)).regs := rfl
theorem Die.setEv_regs (d : Die) (f : Fld) (i : Nat) : (d.setEv f i).regs = (d.setF f i (d.getF f i ||| 1)).regs := rfl

/-- Another element, another word, another register or a field that lies apart reads as before. -/
theorem Die.getF_setF_ne (d : Die) (f g : Fld) (i j v : Nat) (hw : f.lo + f.width ≤ 64)
    (h : g.reg ≠ f.reg ∨ 8 * j + g.word ≠ 8 * i + f.word ∨ (g.word = f.word ∧ (g.lo + g.width ≤ f.lo ∨ f.lo + f.width ≤ g.lo))) :
    (d.setF f i v).getF g j = d.getF g j := by
  unfold Die.getF Die.setF
  by_cases hn : g.reg ≠ f.reg ∨ 8 * j + g.word ≠ 8 * i + f.word
  · rw [Die.reg_setReg_ne _ _ _ _ _ _ _ _ hn]
  · have hr : g.reg = f.reg := by by_contra hc; exact hn (.inl hc)
    have hk : 8 * j + g.word = 8 * i + f.word := by by_contra hc; exact hn (.inr hc)
    rcases h with h | h | ⟨hwd, h⟩
    · exact absurd hr h
    · exact absurd hk h
    · have hj : j = i := by omega
      subst hj
      rw [hr, hwd, Die.reg_setReg_same, fieldOf_putField_apart _ _ _ _ _ _ hw h]

theorem Die.getF_setF_other (d : Die) (f g : Fld) (i j v : Nat) (h : g.reg ≠ f.reg) : (d.setF f i v).getF g j = d.getF g j := by
  unfold Die.getF; rw [Die.reg_setF_other _ _ _ _ _ _ _ h]

@[simp] theorem Die.reg_count (d : Die) (id n : Nat) (r : Reg) (i w : Nat) : (d.count id n).reg r i w = d.reg r i w := by
  unfold Die.reg; rw [Die.count_regs]
@[simp] theorem Die.getF_count (d : Die) (id n : Nat) (f : Fld) (i : Nat) : (d.count id n).getF f i = d.getF f i := by
  unfold Die.getF; rw [Die.reg_count]
@[simp] theorem Die.reg_send (d : Die) (m : Msg) (r : Reg) (i w : Nat) : (d.send m).reg r i w = d.reg r i w := rfl
@[simp] theorem Die.getF_send (d : Die) (m : Msg) (f : Fld) (i : Nat) : (d.send m).getF f i = d.getF f i := rfl

/-- A register back to its reset value reads as such in every word. -/
theorem Die.reg_clearReg (d : Die) (r r' : Reg) (i w : Nat) :
    (d.clearReg r).reg r' i w = if r' = r then r'.resetWord w else d.reg r' i w := by
  unfold Die.reg Die.clearReg
  simp only [Tab.get_erase]
  by_cases hr : r' = r
  · simp [hr]
  · have hi : r'.ctorIdx ≠ r.ctorIdx := fun h => hr (Reg.ctorIdx_inj _ _ h)
    simp [hr, hi]

/-- After reset every word of every register reads as its reset value. -/
theorem Die.reg_reset (r : Reg) (i w : Nat) : State.reset.d.reg r i w = r.resetWord w := rfl


end Sys2Proof.Machine
end

