-- ==== Sys2Proof/Laws/Commands.lean ====
section
/-! SUPPORT. What the operations on commands do: the list of commands after an update, a command that begins, one that ends, and the
row of a command that acts. -/

namespace Sys2Proof.Machine

theorem Die.cmd_id (d : Die) (id : Nat) (c : Cmd) (h : d.cmd id = some c) : c.id = id := by
  have := List.find?_some h; simpa using this

/-- A command set is found as it was set. -/
theorem Die.cmd_setCmd_same (d : Die) (id : Nat) (c x : Cmd) (h : d.cmd id = some x) (hc : c.id = id) : (d.setCmd c).cmd id = some c := by
  unfold Die.cmd Die.setCmd at *
  simp only
  generalize d.sf.cmds = l at h
  induction l with
  | nil => simp at h
  | cons y l ih =>
    simp only [List.map_cons, List.find?_cons] at *
    by_cases hy : y.id = id
    · simp [hy, hc]
    · have hy' : ¬ y.id = c.id := by rw [hc]; exact hy
      simp only [hy, decide_false] at h
      simp only [hy', if_false, hy, decide_false]
      exact ih h

/-- Every other command is found as it was. -/
theorem Die.cmd_setCmd_ne (d : Die) (id : Nat) (c : Cmd) (h : c.id ≠ id) : (d.setCmd c).cmd id = d.cmd id := by
  unfold Die.cmd Die.setCmd
  simp only
  generalize d.sf.cmds = l
  induction l with
  | nil => rfl
  | cons y l ih =>
    simp only [List.map_cons, List.find?_cons]
    by_cases hy : y.id = c.id
    · have h1 : ¬ y.id = id := by rw [hy]; exact h
      simp only [hy, if_true, h, decide_false]
      exact ih
    · simp only [hy, if_false]
      split
      · rfl
      · exact ih

@[simp] theorem Die.setRingRt_cmds (d : Die) (n : Nat) (r : RingRt) : (d.setRingRt n r).sf.cmds = d.sf.cmds := rfl
@[simp] theorem Die.setRingRt_regs (d : Die) (n : Nat) (r : RingRt) : (d.setRingRt n r).regs = d.regs := rfl

theorem Die.monitorRing_sf (e : Env) (d : Die) (n : Nat) : (d.monitorRing e n).sf = d.sf := by
  unfold Die.monitorRing
  dsimp only
  repeat' split
  all_goals rfl

/-- A command that begins runs, and takes the next place in the order of starts. -/
theorem Die.begin_cmd (e : Env) (d : Die) (id : Nat) (c : Cmd) (h : d.cmd id = some c) :
    (d.begin e c).cmd id = some { c with st := .running, order := d.nid, start := e.now } := by
  have hid := Die.cmd_id d id c h
  have hs := Die.cmd_setCmd_same d id { c with st := .running, order := d.nid, start := e.now } c h hid
  unfold Die.begin
  dsimp only
  split
  · unfold Die.cmd at *
    rw [Die.monitorRing_sf]
    exact hs
  · exact hs

/-- A command that ends holds its status and its result. -/
theorem Die.finish_cmd (d : Die) (id st r : Nat) (c : Cmd) (h : d.cmd id = some c) :
    (d.finish id st r).cmd id = some { c with st := .done, status := st, result := r } := by
  unfold Die.finish
  rw [h]
  exact Die.cmd_setCmd_same d id _ c h (Die.cmd_id d id c h)

theorem Die.finish_cmd_ne (d : Die) (id st r j : Nat) (h : j ≠ id) : (d.finish id st r).cmd j = d.cmd j := by
  unfold Die.finish
  split
  · next c hc => exact Die.cmd_setCmd_ne d j _ (by have := Die.cmd_id d id c hc; simp only; omega)
  · rfl

theorem Die.ctxPump_sf (d : Die) (c : Nat) : (d.ctxPump c).sf = d.sf := by
  unfold Die.ctxPump
  dsimp only
  repeat' split
  all_goals rfl

theorem Die.ctxPump_cmd (d : Die) (c id : Nat) : (d.ctxPump c).cmd id = d.cmd id := by
  unfold Die.cmd; rw [Die.ctxPump_sf]

theorem Die.gate_fetched (d : Die) (c : Cmd) (h : d.gate c = .go) : c.st = .fetched := by
  unfold Die.gate at h
  by_contra hc
  simp [hc] at h

/-- What an acting command is found as. -/
theorem Acting.cmd {s : State} {id op : Nat} {c : Cmd} {d : Die} (h : Acting s id op c d) : d.cmd id = some c := by
  cases h with
  | running _ h1 _ _ _ _ => exact h1
  | starting c h1 _ _ => exact Die.begin_cmd _ _ _ _ h1

theorem Acting.op {s : State} {id op : Nat} {c : Cmd} {d : Die} (h : Acting s id op c d) : c.op = op := by
  cases h with
  | running _ _ h2 _ _ _ => exact h2
  | starting c _ h2 _ => exact h2

/-- The row of an acting command runs its body. -/
theorem Die.start_acting {s : State} {id op : Nat} {c : Cmd} {d : Die} (sub : Cmd → Bool) (body : Cmd → Die → Die)
    (h : Acting s id op c d) (hs : ∀ x : Cmd, x.desc = c.desc → x.aux = c.aux → sub x = true) :
    s.go (s.d.start s.env id op sub body) = .next (actsTo s id c (body c d)) := by
  cases h with
  | running _ h1 h2 h3 h4 h5 =>
    have := hs c rfl rfl
    simp [Die.start, h1, h2, h3, h4, h5, this, actsTo, State.go]
  | starting c h1 h2 h3 =>
    have := hs c rfl rfl
    have hf := Die.gate_fetched _ _ h3
    simp [Die.start, h1, h2, h3, hf, this, actsTo, State.go, Die.begin_cmd _ _ _ _ h1]

/-- What a row answers keeps the commands of the die its command left. -/
theorem actsTo_cmd {s : State} {id op : Nat} {c : Cmd} {d : Die} (h : Acting s id op c d) (x : Die) (j : Nat) :
    (actsTo s id c x).d.cmd j = x.cmd j := by
  have h0 : ∃ c0, s.d.cmd id = some c0 := by cases h <;> exact ⟨_, ‹_›⟩
  obtain ⟨c0, h0⟩ := h0
  simp only [actsTo, h0]
  split
  · rfl
  · exact Die.ctxPump_cmd _ _ _

theorem actsTo_env {s : State} (id : Nat) (c : Cmd) (x : Die) : (actsTo s id c x).env = s.env ∧ (actsTo s id c x).pending = s.pending := by
  unfold actsTo
  repeat' split
  all_goals exact ⟨rfl, rfl⟩

/-- An access of a running command that is answered goes on with its answer. -/
theorem Die.runAct_ok {α : Type} (e : Env) (d d' : Die) (c : Cmd) (a : Act α) (k : α → Die → Die) (x : α)
    (ht : d.tearing c.ctx = false) (hh : ∀ h ∈ d.stu.held, h.cmd ≠ some c.id) (ha : attempt e d (.cmd c.id) a = .ok x d') :
    d.runAct e c a k = k x d' := by
  have : d.stu.held.any (fun h => decide (h.cmd = some c.id)) = false := by
    rw [List.any_eq_false]; intro h hm; simpa using hh h hm
  simp only [Die.runAct, ht, this, ha]
  rfl

end Sys2Proof.Machine
end

