-- ==== Sys2Proof/Laws/Memory.lean ====
section
/-! SUPPORT. The laws of memory: a read after a write, and that every operation that changes the bytes of DRAM or of the
mailbox keeps the canonical form. -/

namespace Sys2Proof.Machine

/-- A byte outside the written bytes reads as before. -/
theorem putBytes_apart (t : Tab Byte) (a : Nat) (l : List Byte) (j : Nat) (h : j < a ∨ a + l.length ≤ j) :
    Tab.get 0 (putBytes t a l) j = Tab.get 0 t j := by
  induction l generalizing t a with
  | nil => rfl
  | cons b l ih =>
    rw [putBytes, ih _ _ (by simp only [List.length_cons] at h; omega), Tab.get_set_ne]
    simp only [List.length_cons] at h; omega

/-- A written byte reads as written. -/
theorem putBytes_at (t : Tab Byte) (a : Nat) (l : List Byte) (i : Nat) (h : i < l.length) :
    Tab.get 0 (putBytes t a l) (a + i) = l[i] := by
  induction l generalizing t a i with
  | nil => simp at h
  | cons b l ih =>
    cases i with
    | zero => rw [putBytes, putBytes_apart _ _ _ _ (by omega)]; simp
    | succ i =>
      rw [putBytes]
      have := ih (Tab.set 0 t a b) (a + 1) i (by simpa using h)
      rw [show a + (i + 1) = a + 1 + i by omega, this]
      rfl

/-- Bytes read back are the bytes written. -/
theorem getBytes_putBytes (t : Tab Byte) (a : Nat) (l : List Byte) : getBytes (putBytes t a l) a l.length = l := by
  apply List.ext_getElem
  · simp [getBytes]
  · intro i h1 h2
    simp only [getBytes, List.getElem_map, List.getElem_range]
    exact putBytes_at t a l i h2

/-- Bytes apart from the written ones are read as before. -/
theorem getBytes_putBytes_apart (t : Tab Byte) (a : Nat) (l : List Byte) (b n : Nat) (h : b + n ≤ a ∨ a + l.length ≤ b) :
    getBytes (putBytes t a l) b n = getBytes t b n := by
  unfold getBytes
  apply List.map_congr_left
  intro i hi
  exact putBytes_apart t a l _ (by have := List.mem_range.1 hi; omega)

theorem putBytes_wf (t : Tab Byte) (a : Nat) (l : List Byte) (h : Tab.wf 0 t = true) : Tab.wf 0 (putBytes t a l) = true := by
  induction l generalizing t a with
  | nil => exact h
  | cons b l ih => exact ih _ _ (Tab.wf_set 0 t a b h)

theorem Memory.wf_putRaw (m : Mem) (line : Nat) (data : Line) (hm : Nat) (check : List Nat) (h : Memory.wf m = true) :
    Memory.wf (m.putRaw line data hm check) = true := by
  simp only [Memory.wf, Bool.and_eq_true, Mem.putRaw] at *
  exact ⟨putBytes_wf _ _ _ h.1, putBytes_wf _ _ _ h.2⟩

theorem Memory.wf_putLine (m : Mem) (line : Nat) (data : Line) (hm : Nat) (h : Memory.wf m = true) :
    Memory.wf (m.putLine line data hm) = true := Memory.wf_putRaw _ _ _ _ _ h

theorem Memory.wf_flip (m : Mem) (line k : Nat) (x : BitVec 16) (h : Memory.wf m = true) : Memory.wf (m.flip line k x) = true := by
  simp only [Memory.wf, Bool.and_eq_true] at *
  unfold Mem.flip
  dsimp only
  split
  · exact ⟨putBytes_wf _ _ _ h.1, h.2⟩
  · split
    · exact ⟨h.1, putBytes_wf _ _ _ h.2⟩
    · split
      · exact ⟨h.1, putBytes_wf _ _ _ h.2⟩
      · exact h

theorem sortedFrom_filter {α : Type} (t : Tab α) (p : Nat × α → Bool) (lo : Option Nat) (h : Tab.sortedFrom lo t = true) :
    Tab.sortedFrom lo (t.filter p) = true := by
  induction t generalizing lo with
  | nil => exact h
  | cons x t ih =>
    obtain ⟨k, v⟩ := x
    rw [List.filter_cons]
    split
    · cases lo with
      | none => exact ih (some k) h
      | some a =>
        simp only [Tab.sortedFrom, Bool.and_eq_true] at h ⊢
        exact ⟨h.1, ih _ h.2⟩
    · apply ih
      cases lo with
      | none => exact Tab.sortedFrom_none t h
      | some a =>
        simp only [Tab.sortedFrom, Bool.and_eq_true, decide_eq_true_eq] at h
        exact Tab.sortedFrom_weaken (by omega) t h.2

theorem wf_filter {α : Type} [DecidableEq α] (d : α) (t : Tab α) (p : Nat × α → Bool) (h : Tab.wf d t = true) :
    Tab.wf d (t.filter p) = true := by
  simp only [Tab.wf, Bool.and_eq_true, List.all_eq_true] at *
  exact ⟨sortedFrom_filter t p none h.1, fun x hx => h.2 x (List.mem_filter.1 hx).1⟩

/-- Reset memory lists nothing, and so stands in canonical form. -/
theorem Memory.wf_reset : Memory.wf State.reset.d.mem = true := rfl

end Sys2Proof.Machine
end

