-- ==== Sys2Proof/Laws/Rows.lean ====
section
/-! SUPPORT. What a row that changes the die alone leaves as it was. -/

namespace Sys2Proof.Machine

/-- A row that changes the die alone keeps the always-on state and the queue. -/
theorem State.go_keeps (s t : State) (d : Die) (h : s.go d = .next t) : t.env = s.env ∧ t.pending = s.pending := by
  cases h; exact ⟨rfl, rfl⟩

theorem State.tapDo_keeps (s t : State) (ir : Nat) (f : Env → Die → Die) (h : s.tapDo ir f = .next t) :
    t.env = s.env ∧ t.pending = s.pending := by
  unfold State.tapDo at h
  split at h <;> exact State.go_keeps _ _ _ h

/-- The rows that may change the always-on state. -/
def touchesEnv : Instr → Bool
  | .registerWrite _ _ _ | .tick _ | .chTimeLoad _ _ | .timeRsp _ _ | .lcProgramDone | .svnAdvance _ _ | .keyRevoke _ _ | .slot0Bind _ _
  | .firmwareSeal _ _ | .dieLine _ | .assayReport _ | .hostPortRequest _ | .dbgAccess _ _ _ _ | .powerGood | .coldReset _ | .warmReset
  | .stResetWarm _ _ | .stResetCold _ _ => true
  | _ => false

set_option maxRecDepth 100000 in
/-- Every other row changes the die alone. -/
theorem exec_keeps_env (i : Instr) (s t : State) (hi : touchesEnv i = false) (h : exec i s = .next t) :
    t.env = s.env ∧ t.pending = s.pending := by
  cases i
  all_goals first
    | (exact nomatch (show true = false from hi))
    | (exact State.go_keeps _ _ _ h)
    | (unfold exec at h; dsimp only at h
       simp only [execIdcode, execDbgChallenge, execDbgResponse, execLcReq, execBypass, execTapReset] at h
       exact State.tapDo_keeps _ _ _ _ h)

end Sys2Proof.Machine
end

