-- ==== Sys2Proof/WellFormed.lean ====
section
/-! DEFINITION. Which command terms are well formed: operands that a fixed-width type does not already bound. A meaning
runs on any term; these are the terms that the block's surroundings can send. -/

namespace Sys2Proof

/-- A report names a cause of Table 12.1, and an instance, context and slice within their fields of Table 12.4 (R366). -/
def Report.wf (r : Report) : Bool :=
  decide (r.cause < 43) && decide (r.inst < 256) && (r.ctx.all (fun c => decide (c < 4096))) && (r.slice.all (fun s => decide (s < 512)))

/-- A host request comes from a function of the host, and a write carries the bytes its length says (Table 16.11). -/
def HpReq.wf (q : HpReq) : Bool :=
  (match q.who with | .pf => true | .pasid _ => true | .vf _ => true | .steward => false | .tap => false | .bmc => false) &&
    decide (1 ≤ q.len.toNat ∧ q.len.toNat ≤ 1024) && (if q.wr then decide (q.data.length = q.len.toNat) else decide (q.data = []))

/-- The operands of a command lie in the ranges the manual gives them. -/
def Instr.wf : Instr → Bool
  | .registerWrite _ off _ => decide (off.toNat % 8 = 0)
  | .recordRearm _ off _ => decide (off.toNat % 8 = 0)
  | .interpolatorLock n => decide (n.toNat < 9)
  | .stRegionCtlWrite _ n _ => decide (n.toNat < 9)
  | .hostPortRequest q => q.wf
  | .mcRead _ flips => flips.all (fun f => decide (f.1 < 72))
  | .assayReport r => r.wf
  | .dieLine r => r.wf
  | .creditReturn port chan => (decide (port.toNat < 80) && decide (chan.toNat < 6)) || (decide (port.toNat = 80) && decide (chan.toNat < 2))
  | .mboxDataWrite _ off data => decide (off.toNat + data.length ≤ 2 ^ 21)
  | _ => true

end Sys2Proof
end

