-- ==== Sys2Proof/Tests/Slice0.lean ====
section
/-! SUPPORT. The model's own tests: ill-formed terms refused, small steps whose results the manual gives, and for each
statement with hypotheses a state and operands that meet them. -/

namespace Sys2Proof.Tests

open Sys2Proof Sys2Proof.Machine

/-! ### States to test on -/

/-- A die after firmware seal, every region running, its stacks trained and ready. -/
def up : Die :=
  (List.range 8).foldl (fun d n => (((d.setF F.MC_STATUS.MODE n 1).setF F.MC_STATUS.PRESENT_PAGES n 2304).setF F.MC_STATUS.NMAP_PAGES n 2).setF
    F.MC_STATUS.NMAP_READY n 1) (({ bt := { pwrGood := true } } : Die).setF F.ST_BOOT.PHASE 0 6)

/-- Ten seconds of die time, and the build of the whole part. -/
def env : Env := { tq := 65536 * 10000000000 }

/-- The state of a die. -/
def at_ (d : Die) : State := { env := env, d := d }

/-- What an attempt came to: 0 done, 1 waits, 2 stopped, 3 faulted. -/
def tried {α : Type} : Tried α → Nat
  | .ok _ _ => 0
  | .wait _ => 1
  | .stop _ _ _ => 2
  | .fault _ _ => 3

/-- Context 0, a kernel context whose segment 0 is page 2 with every right, translations cached in the hub and in region 0. -/
def ctx0 (d : Die) : Die :=
  let x := fun (k : Nat) => ([{ cache := k, ctx := 0, seg := 0, block := none, val := 57, w1 := 0, w2 := 2 ^ 25, w3 := 0 },
    { cache := k, ctx := 0, seg := 0, block := some (0, 2 ^ 25), val := 2 ^ 26 }] : List Xl)
  { ((d.setF F.SF_CTX_CFG.VALID 0 1).setF F.SF_CTX_CFG.KERNEL 0 1).setF F.SM_POT.STATE 2 4 with stu := { d.stu with caches := x 0 ++ x 8 } }

/-- A descriptor with opcode, flags, ARG0 and five 64-bit words. -/
def desc (op flags arg0 : Nat) (q1 q2 q3 q4 q5 : Nat) : BitVec 512 :=
  BitVec.ofNat 512 (op + 256 * flags + 65536 * arg0 + 2 ^ 64 * q1 + 2 ^ 128 * q2 + 2 ^ 192 * q3 + 2 ^ 256 * q4 + 2 ^ 320 * q5)

/-- Command 1 of ring 0 and context 0. -/
def cmd (b : BitVec 512) (st : CmdSt) : Cmd := { id := 1, ring := 0, ctx := 0, seq := 0, desc := b, st := st, order := if st = .fetched then 0 else 1 }

/-- The die with that command, read, running or done. -/
def with_ (b : BitVec 512) (st : CmdSt) : State := at_ { ctx0 up with sf := { cmds := [cmd b st] } }

end Sys2Proof.Tests

namespace Sys2Proof.Tests

open Sys2Proof Sys2Proof.Machine

set_option maxRecDepth 20000
set_option Elab.async false

/-! ### Witnesses: the queue, the clock, the ports (each meets the hypotheses of the statement it is named after) -/

/-- A sealed die with a command in front. -/
def sealed : State := { (at_ up) with env := { env with fwSeal := true }, pending := [.dynamicAddress 8] }

theorem witness_periods : State.reset.pending = [] ∧ State.reset.d.bt.pwrGood = false ∧ (at_ up).pending = [] ∧ (at_ up).d.bt.pwrGood = true ∧
    (at_ up).env.phase < 12500 := by decide +kernel

theorem witness_steps : ∃ t, step sealed = .next t ∧ sealed.env.phase < 12500 ∧ sealed.env.fwSeal = true ∧ t.env.fwSeal = true :=
  ⟨_, rfl, by decide +kernel, rfl, rfl⟩

theorem witness_sealedWrites : sealed.d.barGate sealed.env .steward .SM_POT_SET 0 = none ∧
    sealed.d.barGate sealed.env .steward .CH_TIME_LOAD 0 = none := by decide +kernel

/-- Slice 5 is ACTIVE and bound to PASID 7. -/
def bound5 (d : Die) : Die := ((d.setF F.SM_SLICE_BIND.PASID 5 7).setF F.SM_SLICE_BIND.PASID_VALID 5 1).setF F.SM_SLICE.STATE 5 2

/-- The die in a phase of the start. -/
def inPhase (n : Nat) : State := at_ (up.setF F.ST_BOOT.PHASE 0 n)

theorem witness_registerWrites : Reg.decode 8388608 = some (.TY_CFG, 0, 0) ∧ 8388608 < mboxBase ∧
    (at_ up).d.barGate env .steward .TY_CFG 0 = none := by decide +kernel

theorem witness_turnedAway : (inPhase 2).d.phase < 3 ∧ 3 ≤ (inPhase 4).d.phase ∧ (inPhase 4).d.phase < 5 ∧ up.resolve (.pasid 7) = .unbound ∧
    up.resolve (.vf 63) = .unbound ∧ (bound5 up).resolve (.pasid 7) = .slice 5 ∧ Reg.decode 62915592 = some (.ST_PWR_RLIMIT, 0, 0) ∧
    Reg.decode 62915328 = some (.ST_BOOT, 0, 0) ∧ 5 ≤ up.phase ∧ env.hasElem up .ST_BOOT 0 = true := by decide +kernel

theorem witness_unmapped : Reg.decode 0x7FF8 = none ∧ Reg.decode 29360136 = some (.MC_STATUS, 0, 0) ∧ Reg.writable .MC_STATUS = false ∧
    env.hasElem up .MC_STATUS 0 = true ∧ 5 ≤ up.phase := by decide +kernel

/-- TEST, PROVISIONED with debug authorised, and RETIRED. -/
def inLc (n : Nat) (auth : Bool) : State := at_ { (up.setF F.TS_LC.STATE 0 n) with se := { chal := some [], auth := auth } }

theorem witness_ports : Reg.decode 62914560 = some (.ST_ID, 0, 0) ∧ Reg.decode 62915584 = some (.ST_PWR_LIMIT, 0, 0) ∧
    (inLc 1 false).d.lcState = 1 ∧ (inLc 1 false).d.phase ≠ 0 ∧ (inLc 2 true).d.debugState ≠ 0 ∧ (inLc 2 true).d.lcState = 2 ∧ (inLc 4 true).d.debugState = 0 ∧ 1 < (inLc 4 true).d.lcState ∧
    State.reset.d.bt.pwrGood = false := by decide +kernel

/-! ### Witnesses: regions -/

/-- Region 0 in a power state. -/
def region (st : Nat) (p : Power) : State := at_ ({ up with bt := { up.bt with powers := [(0, p)] } }.setF F.ST_REGION_STATUS.POWER 0 st)

theorem witness_gatingStart : let s := region 2 { idle := 1 }
    s.env.hasRegion 0 = true ∧ s.d.powerState 0 = 2 ∧ s.d.getF F.ST_REGION_CTL.GATE_POLICY 0 = 0 ∧ (s.d.power 0).busy = false ∧ s.d.occupied s.env 0 = false ∧
    max 1 (s.d.getF F.ST_REGION_CTL.IDLE_TICKS 0) ≤ (s.d.power 0).idle := by decide +kernel

theorem witness_gatingSteps : ∀ k ∈ [1, 2, 3, 4], let s := region 3 { step := k }
    s.d.powerState 0 = 3 ∧ (s.d.power 0).step = k ∧ s.d.flushRuns (.gating 0) = false ∧ s.d.mem.tagsOf 0 = [] ∧ 0 ∉ s.d.mem.retr := by decide +kernel

theorem witness_gatingWaits : ({ up with coh := { flushes := [{ id := 3, filter := .all 0, after := .gating 0 }] } } : Die).flushRuns (.gating 0) = true := by
  decide +kernel

theorem witness_supply : (region 3 { step := 5 }).d.powerState 0 = 3 ∧ ((region 3 { step := 5, wake := true }).d.power 0).wake = true ∧
    (region 1 { ack := false }).d.powerState 0 = 1 ∧ ((region 1 { ack := true }).d.power 0).ack = true ∧ (region 2 {}).d.powerState 0 = 2 := by decide +kernel

theorem witness_regionWrites : let s := region 1 { at_ := 0 }
    s.d.powerState 0 = 1 ∧ (s.d.power 0).at_ + 50000 ≤ s.env.now ∧ s.d.bit F.AY_STATUS.HANDLING 0 = false ∧ s.d.ay.waiting = [] ∧
    s.d.barGate s.env .steward .ST_REGION_CTL 8 = none ∧ ((region 1 { at_ := 10000000000 }).d.power 0).at_ + 50000 > s.env.now ∧ s.d.powerState 1 = 2 ∧
    (s.d.power 1).step < 5 := by decide +kernel

/-! ### Witnesses: doorbells, contexts, rings, set-up registers -/

/-- Ring 0 of kernel context 0, enabled, of 64 entries, at doorbell slot 0. -/
def ring0 (d : Die) : Die :=
  ((ctx0 d).setF F.SF_RING_CTL.ENABLE 0 1).setF F.SF_RING_CTL.LOG2_SIZE 0 6

/-- Context 0 in a state. -/
def ctxIn (st : Nat) : State := at_ ((ring0 up).setCtxState 0 st)

theorem witness_doorbell : let d := ring0 up
    d.resolve .pf = .privileged ∧ d.ringAt 0 0 = some 0 ∧ d.ringAt 0 1 = none ∧ d.head 0 = 0 ∧ d.tail 0 = 0 ∧ d.usable 0 = true ∧ d.ctxState 0 ≠ 5 ∧ 5 ≤ d.phase ∧
    (64 + 2 ^ 32 - d.head 0) % 2 ^ 32 ≤ 2 ^ d.getF F.SF_RING_CTL.LOG2_SIZE 0 ∧ ¬ ((65 + 2 ^ 32 - d.head 0) % 2 ^ 32 ≤ 2 ^ d.getF F.SF_RING_CTL.LOG2_SIZE 0) := by
  decide +kernel

theorem witness_contextSetUp : up.barGate env .pf .SF_CTX_CFG 4095 = none ∧ up.ctxSettable 4095 = true ∧ up.barGate env .pf .SF_CTX_ERR 4095 = none ∧
    (ctxIn 1).d.ctxSettable 0 = false ∧ (ctxIn 1).d.barGate env .pf .SF_CTX_CFG 0 = none := by decide +kernel

theorem witness_contextActions : (ctxIn 5).d.barGate env .pf .SF_CTX_CTL 0 = none ∧ (ctxIn 5).d.ctxState 0 = 5 ∧ (ctxIn 5).d.tearing 0 = false ∧
    (ctxIn 2).d.ctxState 0 ≠ 5 := by decide +kernel

theorem witness_rings : let d := ctx0 up
    d.barGate env .pf .SF_RING_CTL 8191 = none ∧ d.getF F.SF_RING_CTL.ENABLE 8191 = 0 ∧ d.usable 0 = true ∧ (∀ m ∈ d.ringsOf 0, m ≠ 8191 → d.getF F.SF_RING_CTL.DB_INDEX m ≠ 511) ∧
    (ctxIn 1).d.getF F.SF_RING_CTL.ENABLE 0 = 1 ∧ (ctxIn 1).d.ctxState ((ctxIn 1).d.getF F.SF_RING_CTL.CONTEXT 0) = 1 ∧ (ctxIn 5).d.ctxState 0 = 5 := by decide +kernel

/-- Slice 5 in a state. -/
def sliceIn (st : Nat) : State := at_ (up.setF F.SM_SLICE.STATE 5 st)

theorem witness_setUp : ∀ r ∈ ([.SM_SLICE_ACLASS, .WE_LBW, .MC_SBW, .CR_SEED, .CH_VIS, .CH_WATCH_MASK, .SF_SLOT_QUOTA, .STU_CTX_SEGTAB] : List Reg),
    (sliceIn 1).d.barGate env .pf r 5 = none := by decide +kernel

theorem witness_settable : (sliceIn 1).d.settable 5 = true ∧ (sliceIn 4).d.settable 5 = true ∧ (sliceIn 2).d.settable 5 = false ∧
    (sliceIn 1).d.guarSum 0 5 + 100 ≤ (sliceIn 1).d.getF F.MC_CFG.GUAR_LIMIT_GBPS 0 ∧ (sliceIn 1).d.ctxSettable 9 = true ∧
    (∀ t < 512, t ≠ 5 → (sliceIn 1).d.reg .CH_WATCH_MASK t 0 &&& 1 = 0) ∧
    ((List.range 512).map (fun t => if t = 5 then 2048 else (sliceIn 1).d.getF F.SF_SLOT_QUOTA.MIN t)).sum ≤ 2048 ∧
    ¬ ((List.range 512).map (fun t => if t = 5 then 2049 else (sliceIn 1).d.getF F.SF_SLOT_QUOTA.MIN t)).sum ≤ 2048 := by decide +kernel

end Sys2Proof.Tests

namespace Sys2Proof.Tests

open Sys2Proof Sys2Proof.Machine

set_option maxRecDepth 20000
set_option Elab.async false

/-! ### Witnesses: commands -/

/-- A running command may be carried out. -/
theorem acting {b : BitVec 512} {op : Nat} (h : (cmd b .running).op = op) :
    Acting (with_ b .running) 1 op (cmd b .running) (with_ b .running).d := .running _ rfl h rfl rfl rfl

/-- An attempt succeeds for the running command of a state. -/
def runs (b : BitVec 512) {α : Type} (a : Cmd → Act α) : Nat :=
  tried (attempt (with_ b .running).env (with_ b .running).d (.cmd 1) (a (cmd b .running)))

/-- Ring 0 with one descriptor, whose bytes the host has sent. -/
def pendingRing : State :=
  at_ { (ring0 up).setF F.SF_RING_STATUS.TAIL 0 1 with bt := { up.bt with hdata := [(.ring 0, 0, bytesLE 32 1)] } }

theorem witness_descriptorFetch : pendingRing.d.openList 0 = none ∧ 0 ∈ pendingRing.d.fetchable ∧ pendingRing.d.turn 0 = true ∧
    (pendingRing.d.ringRt 0).asked = false ∧
    tried (attempt env { pendingRing.d.ringAsked 0 true with sf.lastRing := 0 } (.ring 0) (pendingRing.d.ringRead 0)) = 0 ∧
    fetchCheck env false false 0 (BitVec.ofNat 512 (numLE (bytesLE 32 1))) = none ∧ 0 ∉ up.fetchable := by decide +kernel

/-- A running CALL_LIST of one descriptor at pointer 64. -/
def listCmd : Cmd := { cmd (desc Op.CALL_LIST 0 0 64 1 0 0 0) .running with list := 64, count := 1 }
def listState : State := at_ { ctx0 up with sf := { cmds := [listCmd] } }

theorem witness_listFetch : listState.d.openList 0 = some listCmd ∧ listState.d.runs 0 = true ∧ listState.d.tearing 0 = false ∧ listState.d.stu.held = [] ∧
    tried (attempt env listState.d (.cmd 1) (readPtr listCmd.src Ac.list 64 0 64)) = 0 := by decide +kernel

theorem witness_commandComplete : (with_ (desc Op.NOP 0 0 0 0 0 0 0) .done).d.winBusy (.cmd 1) = false ∧
    (with_ (desc Op.NOP 0 0 0 0 0 0 0) .done).d.tearing 0 = false ∧ up.sm.fences = [] ∧ (cmd (desc Op.NOP 0 0 0 0 0 0 0) .done).cpl = false ∧
    (cmd (desc Op.NOP 3 0 0 0 0 0 0) .done).cpl = true ∧
    tried (attempt env (with_ (desc Op.NOP 3 0 0 0 0 0 0) .done).d (.cmd 1) (writeRecord (cmd (desc Op.NOP 3 0 0 0 0 0 0) .done) 0 0 (.cmd 1))) = 0 := by
  decide +kernel

/-- Context 0 with a teardown and nothing in flight. -/
def tearing0 : State := at_ { ctx0 up with sf := { tears := [{ ctx := 0, status := St.CANCELLED }] } }

theorem witness_teardownDrained : tearing0.d.ctxIdle 0 = true ∧ (with_ (desc Op.FENCE_WAIT 0 0 0 0 0 0 0) .running).d.ctxCmds 0 ≠ [] ∧
    tried (attempt env tearing0.d (.ctx 0) (do
      tearRecords tearing0.d 0 none St.CANCELLED
      tryLose (errorWord 0 St.CANCELLED 1 false 0 0))) = 0 := by decide +kernel

theorem witness_nop : Acting (with_ (desc Op.NOP 0 0 0 0 0 0 0) .running) 1 Op.NOP (cmd (desc Op.NOP 0 0 0 0 0 0 0) .running) (with_ (desc Op.NOP 0 0 0 0 0 0 0) .running).d :=
  acting (by decide +kernel)

theorem witness_starting : ∃ c d, Acting (with_ (desc Op.RETURN 0 0 0 0 0 0 0) .fetched) 1 Op.RETURN c d ∧ c.depth = 0 :=
  ⟨_, _, .starting (cmd (desc Op.RETURN 0 0 0 0 0 0 0) .fetched) rfl (by decide +kernel) (by decide +kernel), rfl⟩

theorem witness_timestamp : (cmd (desc Op.TIMESTAMP 0 0 64 0 0 0 0) .running).op = Op.TIMESTAMP ∧
    runs (desc Op.TIMESTAMP 0 0 64 0 0 0 0) (fun c => stampAct env c (with_ (desc Op.TIMESTAMP 0 0 64 0 0 0 0) .running).d) = 0 := by decide +kernel

/-- A read command behind a pending skip, and one whose ring is bypassing. -/
def skipped : State := at_ { (ctx0 up).setRingRt 0 { skip := 1 } with sf := { cmds := [cmd (desc Op.NOP 0 0 0 0 0 0 0) .fetched], rings := [(0, { skip := 1 })] } }
def bypassed : State := at_ { (ctx0 up).setF F.TY_RING_DL.BYPASSING 0 1 with sf := { cmds := [cmd (desc Op.NOP 0 0 0 0 0 0 0) .fetched] } }

theorem witness_unrun : skipped.d.gate (cmd (desc Op.NOP 0 0 0 0 0 0 0) .fetched) = .skip ∧ bypassed.d.gate (cmd (desc Op.NOP 0 0 0 0 0 0 0) .fetched) = .bypass ∧
    (with_ (desc Op.NOP 0 0 0 0 0 0 0) .done).d.gate (cmd (desc Op.NOP 0 0 0 0 0 0 0) .done) = .no := by decide +kernel

theorem witness_predicates : runs (desc Op.PRED_SKIP 0 0x100 64 5 0 0 0) predWord = 0 ∧
    runs (desc Op.SELECT 0 0 64 5 128 256 0) predWord = 0 ∧ (cmd (desc Op.SELECT 0 0 64 5 128 256 0) .running).op = Op.SELECT ∧
    (cmd (desc Op.PRED_SKIP 0 0x100 64 5 0 0 0) .running).op = Op.PRED_SKIP ∧ (cmd (desc Op.CALL_LIST 0 0 64 1 0 0 0) .running).w 16 ≠ 0 ∧
    (cmd (desc Op.CALL_LIST 0 0 64 0 0 0 0) .running).w 16 = 0 := by decide +kernel

/-- A wait for the word at pointer 64 to reach a value, with a timeout in µs. -/
def wait_ (v us : Nat) : BitVec 512 := desc Op.FENCE_WAIT 0 0 64 v us 0 0
def waiting_ : State := at_ { ctx0 up with sf := { cmds := [{ cmd (wait_ 0 1) .running with aux := 1 }] } }

/-- Waits that have stood for their 1 µs: the word is there, the word is behind, or an access of the wait is held. -/
def late_ (v : Nat) (held : Bool) : State :=
  at_ { ctx0 up with sf := { cmds := [cmd (wait_ v 1) .running] },
                     stu := { (ctx0 up).stu with held := if held then [{ ctx := 0, cmd := some 1 }] else [] } }

theorem witness_lateWaits : (∀ v ∈ [0, 1], tried (attempt env (late_ v false).d (.cmd 1) (waitTest (cmd (wait_ v 1) .running))) = 0 ∧
      (match attempt env (late_ v false).d (.cmd 1) (waitTest (cmd (wait_ v 1) .running)) with | .ok r _ => r | _ => none) = (if v = 0 then some 0 else none)) ∧
    (∃ h ∈ (late_ 1 true).d.stu.held, h.cmd = some 1) ∧ (late_ 1 true).d.cmd 1 = some (cmd (wait_ 1 1) .running) ∧ (late_ 1 true).d.tearing 0 = false ∧
    (cmd (wait_ 1 1) .running).start + 1000 * (cmd (wait_ 1 1) .running).w 24 ≤ env.now := by decide +kernel

theorem witness_fences : runs (wait_ 0 0) waitTest = 0 ∧ runs (wait_ 1 0) waitTest = 0 ∧ waiting_.d.waiting 1 = some { cmd (wait_ 0 1) .running with aux := 1 } ∧
    (cmd (wait_ 0 1) .running).w 24 ≠ 0 ∧ (cmd (wait_ 0 1) .running).start + 1000 * (cmd (wait_ 0 1) .running).w 24 ≤ env.now ∧
    runs (desc Op.FENCE_SIGNAL 0 0 64 1 0 0 0) (fun c => fenceSignal c.src (c.p6 8) (c.q 16) false) = 0 := by decide +kernel

theorem witness_deadline : ∃ c d, Acting (with_ (desc Op.DEADLINE 0 0 64 0 0 0 0) .running) 1 Op.DEADLINE c d := ⟨_, _, acting (by decide +kernel)⟩

/-- A DEADLINE on a ring whose armed deadline lies at a die time. -/
def lateRing (t : Nat) : State :=
  at_ { (ctx0 up).setF F.TY_RING_DL.ARMED 0 1 with sf := { cmds := [cmd (desc Op.DEADLINE 0 0 64 0 0 0 0) .running], rings := [(0, { dlNs := t })] } }

theorem witness_deadline_missed : ∀ t ∈ [env.now - 1, env.now, 2 ^ 64 - 1],
    Acting (lateRing t) 1 Op.DEADLINE (cmd (desc Op.DEADLINE 0 0 64 0 0 0 0) .running) (lateRing t).d ∧
    (lateRing t).d.bit F.TY_RING_DL.ARMED 0 = true ∧ (((lateRing t).d.ringRt 0).dlNs < (lateRing t).env.now % 2 ^ 64 ↔ t = env.now - 1) :=
  fun t ht => ⟨.running _ rfl (by decide +kernel) rfl rfl rfl, by revert t; decide +kernel⟩

/-! ### Witnesses: launches and engines -/

/-- A read LAUNCH for any clusters. -/
def launch_ : BitVec 512 := desc Op.LAUNCH 0 0 0x1000 0x2000 (1 + 2 ^ 32 + 2 ^ 48) 0 0

theorem witness_launch : (with_ launch_ .fetched).d.gate (cmd launch_ .fetched) = .go ∧ (with_ launch_ .fetched).d.namedClusters env (cmd launch_ .fetched) ≠ some [] ∧
    runs (desc Op.LAUNCH_INDIRECT 0 0 0x1000 0x2000 64 0 0) (fun c => readPtr c.src Ac.read (c.p6 24) 0 12) = 0 := by decide +kernel

/-- COPY of 64 bytes, placed on DME 0. -/
def copy_ (n : Nat) : BitVec 512 := desc Op.COPY 0 0 0 0x1000 n 0 0
def onDme (b : BitVec 512) : State := at_ { ctx0 up with sf := { cmds := [cmd b .running] }, eng := { jobs := [{ dme := 0, cmd := 1 }] } }

theorem witness_dme : (with_ (copy_ 64) .running).d.dmePlaced 1 = false ∧ (with_ (copy_ 64) .running).d.homeEngines env 0 8 ≠ [] ∧
    (cmd (copy_ 64) .running).op = Op.COPY ∧ (cmd (copy_ 64) .running).q 24 = 64 ∧ (cmd (copy_ 0) .running).q 24 = 0 := by decide +kernel

theorem witness_dmeTile : (onDme (copy_ 64)).d.serveOrder 0 ((onDme (copy_ 64)).d.dmeCmds 0) = [cmd (copy_ 64) .running] ∧ 0 < env.clusters ∧
    tried (attempt env (onDme (copy_ 64)).d (.cmd 1) (tileOf 0 (cmd (copy_ 64) .running))) = 0 := by decide +kernel

/-- A DISPATCH in a phase on Sorter 0, which runs it. -/
def onSorter (op mode aux : Nat) : State :=
  let c : Cmd := { cmd (desc op 0 mode 0x1000 0x2000 0x3000 0 0) .running with aux := aux }
  at_ { ctx0 up with sf := { cmds := [c] }, eng := { leads := [{ dme := 0, cmd := 1 }], running := [(0, some 1)] } }

theorem witness_sorter : (with_ (desc Op.DISPATCH 0 0 0x1000 0x2000 0x3000 0 0) .running).d.leadOf 1 = none ∧
    (with_ (desc Op.DISPATCH 0 0 0x1000 0x2000 0x3000 0 0) .running).d.homeEngines env 0 1 ≠ [] ∧
    (with_ (desc Op.DISPATCH 0 0 0x1000 0x2000 0x3000 0 0) .running).d.eng.away = [] ∧
    (onSorter Op.COMBINE 0 2).d.leadOf 1 = some 0 ∧ Tab.get none (onSorter Op.COMBINE 0 2).d.eng.running 0 = some 1 ∧
    (∀ c ∈ (onSorter Op.COMBINE 0 2).d.sf.cmds, (onSorter Op.COMBINE 0 2).d.serves c = true ∧ (onSorter Op.COMBINE 0 2).d.soParity env 0 c = none ∧
      nextEntry c.sums c.tile c.acc = none) ∧ (onSorter Op.COMBINE 0 2).d.sorterBusy 0 = true ∧ up.sorterBusy 0 = false ∧ up.itemNext 0 = none := by decide +kernel

theorem witness_sorterEnds : ∀ c ∈ (onSorter Op.DISPATCH 2 4).d.sf.cmds, c.mode = modeCompact.code ∧ (onSorter Op.DISPATCH 2 4).d.soParity env 0 c = none ∧
    tried (attempt env (onSorter Op.DISPATCH 2 4).d (.cmd 1) (lastWrites c 0 modeCompact)) = 0 := by decide +kernel

/-- A helper's share of a select on Sorter 0: item 0 of command 1. -/
def withItem : State :=
  at_ { ctx0 up with sf := { cmds := [cmd (desc Op.DISPATCH 0 0 0x1000 0x2000 0x3000 0 0) .running] }, eng := { items := [(0, 1, 0, false)] } }

theorem witness_item : ∃ c, withItem.d.itemNext 0 = some (0, c) ∧ withItem.d.takesItems 0 = true ∧ withItem.d.running 0 = true ∧
    withItem.d.soParity env 0 c = none ∧ tried (attempt env withItem.d (.cmd c.id) (itemAct c 0 0)) = 0 :=
  ⟨cmd (desc Op.DISPATCH 0 0 0x1000 0x2000 0x3000 0 0) .running, by decide +kernel, by decide +kernel, by decide +kernel, by decide +kernel, by decide +kernel⟩

theorem witness_capacity : let a : Assign := {}
    (∀ x < 4, a.reg x ≤ pb 0 24 0 25) ∧ a.nres ≤ pb 0 32 16 25 := by decide +kernel

/-- COUNTER_SNAP of the always-on set, before and after its start. -/
def snap_ (aux : Nat) : State := at_ { ctx0 up with sf := { cmds := [{ cmd (desc Op.COUNTER_SNAP 0 0 64 3 0 0 0) .running with aux := aux }] } }

theorem witness_snap : (∀ c ∈ (snap_ 0).d.sf.cmds, (snap_ 0).d.snapOk c = true ∧ c.start + 2000 ≤ env.now ∧ c.aux = 0) ∧
    (∀ c ∈ (snap_ 1).d.sf.cmds, ∀ c' ∈ ((snap_ 1).d.snapLatch env c).cmd 1, tried (attempt env ((snap_ 1).d.snapLatch env c) (.cmd 1) (do
      if c'.p6 8 ≠ 0 then writePtr c'.src (c'.p6 8) 0 (snapRecord c')
      pure c'.result)) = 0) ∧ (∃ c ∈ (snap_ 1).d.sf.cmds, (((snap_ 1).d.snapLatch env c).cmd 1).isSome = true) ∧
    (up.tickLatch env).ch.sweep.isSome = true ∧ up.ch.sweep = none ∧
    (with_ (desc Op.COUNTER_SNAP 0 0 64 5 0 0 0) .running).d.snapOk (cmd (desc Op.COUNTER_SNAP 0 0 64 5 0 0 0) .running) = false := by decide +kernel

/-- A die whose page 2 holds a WATCH OPEN block at byte 64: FP32, a ring of 16 records at pointer 0x1000, its count at 0x800. -/
def watchBlockBytes : List Byte := bytesLE 1 1 ++ bytesLE 1 4 ++ bytesLE 6 0 ++ bytesLE 8 0x1000 ++ bytesLE 8 0x800 ++ List.replicate 40 0

/-- The running WATCH OPEN of watch 63, with the block's line in the LC. -/
def opening : State :=
  let c := cmd (desc Op.WATCH 0 63 64 0 0 0 0) .running
  at_ { ctx0 up with sf := { cmds := [c] }, coh := { lc := [(524288, some { way := 0, v := 15, d := 0, z := 0, data := BitVec.ofNat 1024 (numLE (List.replicate 64 0 ++ watchBlockBytes)) })] } }

theorem witness_watchBlock : ∀ c ∈ opening.d.sf.cmds, c.op = Op.WATCH ∧ c.watch = 63 ∧ opening.d.bit F.CH_WATCH.OPEN 63 = false ∧ opening.d.sliceOf 0 = none ∧
    (match attempt env opening.d (.cmd 1) (readPtr c.src Ac.read (c.p6 8) 0 64) with
      | .ok b _ => watchBlock b
      | _ => none) = some (1, 4, 0x1000, 0x800) := by decide +kernel

/-- Watch 3 of context 0, open. -/
def watching (c : Cmd) : State :=
  at_ { ((ctx0 up).setF F.CH_WATCH.OPEN 3 1).setF F.CH_WATCH.CONTEXT 3 0 with
    sf := { cmds := [c] }, ch := { watch := [(3, some { ring := 0x1000, cons := 0x800 })], switch := [(1, { ring := 0x1000, cons := 0x800, watch := 3 })] } }

theorem witness_watch : (∀ k ∈ [1, 2], let c := cmd (desc Op.WATCH 0 (3 + 256 * k) 0 0 0 0 0) .running
      bitsOf c.arg0 8 2 = k ∧ c.watch = 3 ∧ (watching c).d.bit F.CH_WATCH.OPEN 3 = true ∧ (watching c).d.getF F.CH_WATCH.CONTEXT 3 = c.ctx) ∧
    (let c := cmd (desc Op.WATCH 0 (3 + 512) 0 0 0 0 0) .running
     tried (attempt env (watching c).d (.cmd 1) (do
       let b ← readPtr c.src Ac.read 0x800 0 8
       writePtr c.src 0x1000 0 (digestRecord c { ring := 0x1000, cons := 0x800, watch := 3 } 0 false)
       pure b)) = 0) := by decide +kernel

end Sys2Proof.Tests
namespace Sys2Proof.Tests

open Sys2Proof Sys2Proof.Machine

set_option maxRecDepth 20000
set_option Elab.async false

/-! ### Witnesses: kernels and clusters -/

/-- Kernel 1 of context 0 holds some clusters, each in a state, with its command running. -/
def onClusters (flags : Nat) (ks : List Nat) (st : Nat) (f : Kern → Kern) : State :=
  let x : Kern := { kid := 1, cmd := 1, ctx := 0, ranks := ks.zipIdx.map (fun y => { rank := y.2, cluster := some y.1 }) }
  at_ (ks.foldl (fun d k => d.setF F.TY_CLUSTER.STATE k st)
    { ctx0 up with sf := { cmds := [cmd (desc Op.LAUNCH flags 0 0x1000 0x2000 (1 + 2 ^ 32 + 2 ^ 48) 0 0) .running] }, ty := { kerns := [f x] } })

theorem witness_kernelMessages : ∀ st ∈ [1, 2, 3], let s := onClusters 0 [63] st id
    let t := onClusters 0 [0, 63] st id
    let ended := fun x : Kern => x.onRank 63 (fun r => { r with ended := true })
    let yielded := fun x : Kern => x.onRank 63 (fun r => { r with yielded := true, token := 5 })
    (∃ x ∈ s.d.ty.kerns, s.d.kernMsg 63 1 = some x ∧ x.aband = false ∧ (ended x).ranks.any Rank.runs = false ∧ (ended x).over_ = true ∧
      (yielded x).ranks.any Rank.runs = false ∧ (s.d.cmd x.cmd).isSome = true) ∧
    (∃ x ∈ t.d.ty.kerns, t.d.kernMsg 63 1 = some x ∧ x.aband = false ∧ (ended x).ranks.any Rank.runs = true ∧ (yielded x).ranks.any Rank.runs = true) ∧
    s.d.clState 63 = st := by decide +kernel

theorem witness_kernelMessagesAway : let s := onClusters 0 [63] 3 (fun x => { x with aband := true })
    (∃ x ∈ s.d.ty.kerns, s.d.kernMsg 63 1 = some x ∧ s.d.clState 63 = 3 ∧ x.aband = true ∧ (x.leave 63).placed = false) ∧
    s.d.kernMsg 63 2 = none ∧ s.d.kernMsg 62 1 = none ∧ s.d.live s.env 62 = true ∧ s.d.kernAt 62 = none ∧ s.d.fire0 Cs.CLP_PARITY 62 = false ∧
    (up.setF F.TY_CLUSTER.STATE 62 4).live env 62 = false := by decide +kernel

/-- A ready launch of context 0. -/
def readyLaunch (mask : Nat) : State :=
  at_ { (ctx0 up).setF F.SF_CTX_STATUS.STATE 0 2 with sf := { cmds := [{ cmd (desc Op.LAUNCH 0 0 0x1000 0x2000 (1 + 2 ^ 32 + 2 ^ 48) 7 mask) .ready with order := 0 }] } }

theorem witness_placement : let s := readyLaunch 9
    (∀ x ∈ s.d.jobs, x.kern = none ∧ x.ctx < 4096 ∧ s.d.namedClusters s.env x.cmd ≠ some []) ∧ s.d.live s.env 3 = true ∧ s.d.clState 3 = 0 ∧
    (firstGrant s.env (s.d.recallDue s.env) ((s.d.recallDue s.env).offers s.env 3)).map Prod.snd = some [0, 3] ∧
    (∀ c ∈ [0, 3], (s.d.recallDue s.env).running (c / 8) = true) ∧ (s.d.recallDue s.env).bit F.TY_RING_DL.BYPASSING 0 = false ∧
    (s.d.recallDue s.env).bit F.TY_RING_DL.SWITCH_PENDING 0 = false := by decide +kernel

/-- The same launch where its ring bypasses, or has a switch pending. -/
def switched (f : Fld) : State := { readyLaunch 9 with d := (readyLaunch 9).d.setF f 0 1 }

theorem witness_placementSwitched : ∀ f ∈ [F.TY_RING_DL.BYPASSING, F.TY_RING_DL.SWITCH_PENDING], let s := switched f
    let d := s.d.recallDue s.env
    s.d.live s.env 3 = true ∧ s.d.clState 3 = 0 ∧ (firstGrant s.env d (d.offers s.env 3)).map Prod.snd = some [0, 3] ∧
    (∀ x ∈ s.d.jobs, x.kern = none ∧ x.cmd.started = false ∧ x.cmd.parent = none ∧ s.d.namedClusters s.env x.cmd ≠ some []) ∧
    (d.bit F.TY_RING_DL.SWITCH_PENDING 0 = !d.bit F.TY_RING_DL.BYPASSING 0) := by decide +kernel

theorem witness_placementAway : (∀ x ∈ up.jobs, x.kern = none → up.namedClusters env x.cmd ≠ some []) ∧
    firstGrant env (up.recallDue env) ((up.recallDue env).offers env 3) = none ∧ (onClusters 0 [3] 1 id).d.clState 3 ≠ 0 ∧
    (readyLaunch (2 ^ 64 - 1)).d.live { env with regions := 6 } 63 = false := by decide +kernel

/-- Context 0 runs on cluster 3, and a launch of context 1 waits for the clusters the mask names. -/
def rivals (flags : Nat) (mask : Nat) (q : Nat) : State :=
  let s := onClusters flags [3] 1 id
  let c : Cmd := { cmd (desc Op.LAUNCH 0 0 0x1000 0x2000 (1 + 2 ^ 32 + 2 ^ 48) 7 mask) .ready with id := 2, ctx := 1, ring := 1 }
  { s with d := { ((s.d.setF F.SF_CTX_CFG.VALID 1 1).setF F.SF_CTX_CFG.KERNEL 1 1).setF F.SF_CTX_STATUS.STATE 1 2 with
      sf := { s.d.sf with cmds := s.d.sf.cmds ++ [c] }, ty := { s.d.ty with clusters := [(3, { quantum := q })], passC := [(0, (9, 0))] } } }

theorem witness_quantum : let s := rivals 8 8 0
    (s.d.clRt 3).quantum ≤ s.env.now ∧ s.d.clState 3 = 1 ∧ (s.d.rival s.env 3 0).isSome = true ∧
    (∃ x ∈ s.d.ty.kerns, s.d.kernAt 3 = some x ∧ s.d.kernYields x = true ∧ x.aband = false ∧ ∀ m ∈ x.clusters, s.d.clState m = 1) ∧
    (onClusters 8 [3] 1 id).d.rival env 3 0 = none ∧ (rivals 8 8 (env.now + 1)).env.now < ((rivals 8 8 (env.now + 1)).d.clRt 3).quantum := by decide +kernel

theorem witness_grace : ∀ t ∈ [env.now, env.now + 1], let s := onClusters 8 [3] 2 (fun x => { x with req := some (t, some 1) })
    (∃ x ∈ s.d.ty.kerns, s.d.ty.kerns.find? (fun y => decide (y.kid = 1)) = some x ∧ x.req = some (t, some 1) ∧ x.aband = false) ∧
    s.d.sliceOf 0 = none ∧ s.d.tearing 0 = false ∧ s.d.ctxState 0 ≠ 5 := by decide +kernel

/-- Cluster 63 belongs to slice 5, which lends. -/
def lending (idle : Nat) : Die :=
  { (((up.setReg .SM_SLICE_CLUSTERS 5 0 (BitVec.ofNat 64 (2 ^ 63))).setF F.SM_SLICE.KIND 5 1).setF F.SM_SLICE.LENDABLE 5 1).setF F.SM_SLICE.STATE 5 2 with
    ty := { clusters := [(63, { idle := idle })] } }

theorem witness_lend : ∀ b ∈ [false, true], let d := lending (if b then env.now else 0)
    d.ownerOf 63 = some 5 ∧ d.lendOn = true ∧ d.bit F.SM_SLICE.LENDABLE 5 = true ∧ d.sliceState 5 ≠ 5 ∧ d.live env 63 = true ∧ d.clState 63 = 0 ∧
    d.keptBy env 63 = none ∧ d.claimed 63 = false ∧ d.jobs = [] ∧ d.lent 63 = false ∧
    decide ((d.clRt 63).idle + d.lendNs ≤ env.now) = !b := by decide +kernel

theorem witness_abandonTimeout : ∀ t ∈ [env.now - 20000, env.now - 19999], let s := at_ { up.setF F.TY_CLUSTER.STATE 3 3 with ty := { clusters := [(3, { order := some t })] } }
    (s.d.clRt 3).order = some t ∧ s.d.clState 3 = 3 ∧ (t + 20000 ≤ s.env.now ↔ t = env.now - 20000) := by decide +kernel

theorem witness_yield : let s := with_ (desc Op.YIELD 0 0 0 0 0 0 0) .running
    let r := (rivals 8 8 0).d
    (s.d.clustersOf 0 ++ (List.range 64).filter (fun m => decide (s.d.clState m = 0 ∧ s.d.keptBy s.env m = some 0))).findSome? (fun m => s.d.rival s.env m 0) = none ∧
    ((r.clustersOf 0).findSome? (fun m => r.rival env m 0)).isSome = true ∧ (cmd (desc Op.YIELD 0 0 0 0 0 0 0) .running).op = Op.YIELD := by decide +kernel

/-! ### Witnesses: invalidation, faults held, fault rings, the host port -/

/-- INVALIDATE of context 0, running. -/
def inv_ (arg0 q1 : Nat) : BitVec 512 := desc Op.INVALIDATE 0 arg0 q1 0 0 0 0

theorem witness_invalidate : (cmd (inv_ 0 0) .running).op = Op.INVALIDATE ∧ (cmd (inv_ 0 0) .running).aux = 0 ∧
    (with_ (inv_ 0 0) .running).d.invCtxs (cmd (inv_ 0 0) .running) = some [0] ∧ invDrops (cmd (inv_ 0 0) .running) { cache := 0, ctx := 0, seg := 0, block := none, val := 0 } = true ∧
    (with_ (inv_ 0 4095) .running).d.invCtxs (cmd (inv_ 0 4095) .running) = none ∧ (with_ (inv_ 3 511) .running).d.invCtxs (cmd (inv_ 3 511) .running) = none := by
  decide +kernel

/-- The same invalidation under way since a time, with a request of context 0 that it waits for, or without. -/
def invRuns (start : Nat) (waits : List Nat) : State :=
  at_ { ctx0 up with sf := { cmds := [{ cmd (inv_ 0 0) .running with aux := 1 }] }, stu := { inval := some { cmd := 1, start := start, ctxs := [0], waits := waits } },
                     coh := { reqs := [{ rid := 7, who := 3, op := .readShared, line := 16384, ctx := some 0 }] } }

theorem witness_invalidateEnds : ∀ w ∈ [[], [7]], ∀ t ∈ [env.now - 1000000, env.now - 999999], let s := invRuns t w
    ∃ x, s.d.stu.inval = some x ∧ x.cmd = 1 ∧ (s.d.cmd 1).isSome = true ∧ s.d.retired x = decide (w = []) ∧ s.d.fire0 Cs.INV_TIMEOUT 0 = false ∧
      (x.start + 1000000 ≤ s.env.now ↔ t = env.now - 1000000) := by
  intro w hw t ht; exact ⟨_, rfl, rfl, by revert t w; decide +kernel⟩

/-- Context 0 is FAULTED, with a tick count. -/
def faulted (n : Nat) : State := at_ { ((ctx0 up).setF F.SF_CTX_STATUS.STATE 0 4).setF F.ST_TICK.TICK_COUNT 0 n with stu := { (ctx0 up).stu with held := [{ ctx := 0 }] } }

theorem witness_faulted : (faulted 0).d.barGate env .steward .STU_CTX_CTL 0 = none ∧ (faulted 0).d.ctxState 0 = 4 ∧ (faulted 0).d.tearing 0 = false ∧
    up.ctxState 0 ≠ 4 := by decide +kernel

theorem witness_holdTimeout : ∀ n ∈ [0, 1], let h := max 1 (up.getF F.STU_CFG.HOLD_TICKS 0)
    let s := faulted (h - 1 + n)
    let edges := (s.d.getF F.ST_TICK.TICK_COUNT 0 + 2 ^ 48 - Tab.get 0 s.d.stu.faultAt 0) % 2 ^ 48
    s.d.ctxState 0 = 4 ∧ s.d.tearing 0 = false ∧ (max 1 (s.d.getF F.STU_CFG.HOLD_TICKS 0) ≤ edges ↔ n = 1) := by decide +kernel

/-- Slice 511's fault ring, of 64 records, with a batch open since a time and a number of records produced. -/
def fringing (opened produced : Nat) : State :=
  at_ ((((up.setF F.STU_FRING_CTL.ENABLE 511 1).setF F.STU_FRING_CTL.LOG2_SIZE 511 6).setF F.STU_FRING_STATUS.PRODUCED 511 produced).setF F.SM_SLICE.STATE 511 2 |>.setFring 511
    { batch := [{ typ := 1 }], opened := opened })

theorem witness_batch : ∀ t ∈ [env.now - 16000, env.now - 15999], let s := fringing t 0
    (s.d.fring 511).batch ≠ [] ∧ ((s.d.fring 511).opened + 16000 ≤ s.env.now ↔ t = env.now - 16000) ∧ (up.fring 511).batch = [] := by decide +kernel

theorem witness_fringRead : (∀ p ∈ [62, 63], (fringing 0 p).d.bit F.STU_FRING_CTL.ENABLE 511 = true ∧ (fringing 0 p).d.sliceState 511 ≠ 0 ∧
    (fringing 0 p).d.fringRoom 511 = decide (p = 62)) ∧ up.bit F.STU_FRING_CTL.ENABLE 511 = false := by decide +kernel

theorem witness_fringWrite : (∀ w < 3, up.barGate env .steward (fringReg w) 511 = none) ∧
    (∀ n ∈ [5, 6, 16, 17], let v : Word := BitVec.ofNat 64 (32 + n)
      fieldOf v 5 1 = 1 ∧ (6 ≤ fieldOf v 0 5 ∧ fieldOf v 0 5 ≤ 16 ↔ n = 6 ∨ n = 16)) ∧ fieldOf (16 : Word) 5 1 = 0 := by decide +kernel

theorem witness_accessCounters : up.barGate env .steward .STU_ACNT_CLR 0 = none ∧ fieldOf (18431 : Word) 0 15 < 18432 ∧
    (∀ n ∈ [0, 1, 17], let d : Die := { up with stu.decayDue := n }
       (d.stu.decayDue ≠ 0 ↔ n ≠ 0) ∧ ((Tab.get [] d.regs Reg.STU_ACNT.ctorIdx).map (fun x => x.1 / 8)).Nodup) := by decide +kernel

/-- A host request. -/
def hq (who : Who) (t : Target) (wr : Bool) (a n : Nat) : HpReq :=
  { who := who, target := t, wr := wr, addr := BitVec.ofNat 64 a, len := BitVec.ofNat 12 n, tag := 0, data := if wr then List.replicate n 0 else [], parOk := true }

/-- A transaction leaves with a header credit and a data credit for each 64 bytes; with one short it waits (R461, R478). -/
theorem test_hostCredits : let d := up.hpSend env (.hostWrite .pf 0 (List.replicate 65 1))
    d.bt.hpHdr = 63 ∧ d.bt.hpDat = 254 ∧ d.bt.outq = [] ∧ (({ up with bt := { up.bt with hpDat := 1 } } : Die).hpSend env (.hostWrite .pf 0 (List.replicate 65 1))).bt.outq.length = 1 := by
  decide +kernel

theorem witness_hostRequests : up.bt.pwrGood = true ∧ (inPhase 2).d.phase < 3 ∧ 3 ≤ (inPhase 3).d.phase ∧ up.fire0 Cs.HOST_ABORT 0 = false ∧
    up.resolve (.vf 63) = .unbound ∧ (bound5 up).resolve (.pasid 7) ≠ .privileged ∧ (bound5 up).resolve (.pasid 7) ≠ .unbound ∧ up.resolve .pf = .privileged ∧
    ((up.hostInCount env 0).bar0Read env .pf 0 8).1.isSome = true ∧ (hq .pf .bar2 true 0 127).data.length ≤ 127 ∧
    ((ring0 up).hostInCount env 0).ringAt 0 0 = some 0 ∧ ((ring0 up).hostInCount env 0).resolve .pf = .privileged ∧
    (hq .pf .bar2 false 0 8).len.toNat = 8 ∧ 5 ≤ up.phase := by decide +kernel

/-- An outstanding host read of eight bytes for ring 0, with the last tag. -/
def readOut : State := at_ { up with bt := { up.bt with reads := [(1023, .pf, 4096, 8, .ring 0)] } }

/-- The same for the dirty log of slice 5. -/
def logReadOut : State := at_ { up with bt := { up.bt with reads := [(1023, .pf, 4096, 8, .log 5)] } }

theorem witness_logCompletions : logReadOut.d.bt.reads.find? (fun r => decide (r.1 = 1023)) = some (1023, .pf, 4096, 8, .log 5) ∧
    (Use.log 5).isLog = true ∧ (Use.ring 0).isLog = false ∧ logReadOut.d.fire0 Cs.HOST_ABORT 0 = false := by decide +kernel

theorem witness_hostCompletions : readOut.d.bt.reads.find? (fun r => decide (r.1 = 1023)) = some (1023, .pf, 4096, (List.replicate 8 (0 : Byte)).length, .ring 0) ∧
    readOut.d.bt.reads.find? (fun r => decide (r.1 = 0)) = none ∧ readOut.d.readWaits 1023 = false ∧
    ({ readOut.d with bt := { readOut.d.bt with outq := [.msix .pf 0, .hostRead 1023 .pf 4096 8] } } : Die).readWaits 1023 = true ∧ readOut.d.fire0 Cs.HOST_ABORT 0 = false ∧ readOut.d.bit F.AY_STATUS.HANDLING 0 = false := by
  decide +kernel

end Sys2Proof.Tests
namespace Sys2Proof.Tests

open Sys2Proof Sys2Proof.Machine

set_option maxRecDepth 20000
set_option Elab.async false

/-! ### Witnesses: slices and pages -/

/-- SLICE_CTL of slice 511, running on a die where the slice is in a state and has one PASID. -/
def slc (arg0 q4 q5 : Nat) : BitVec 512 := desc Op.SLICE_CTL 0 arg0 511 0 0 q4 q5
def inSlice (st arg0 q4 q5 : Nat) : State :=
  at_ { (ctx0 up).setF F.SM_SLICE.STATE 511 st with sf := { cmds := [cmd (slc arg0 q4 q5) .running] } }

theorem witness_sliceSetUp : (∀ a < 9, (cmd (slc a 0 0) .running).op = Op.SLICE_CTL ∧ (cmd (slc a 0 0) .running).arg0 = a ∧ (cmd (slc a 0 0) .running).aux = 0 ∧
      (cmd (slc a 0 0) .running).sl = 511) ∧
    (∀ st < 6, (inSlice st 0 0 0).d.sliceState 511 = st) ∧
    (∀ k ∈ maskList (2 ^ 63 + 1), up.unavailable env 511 false 0 k = false) ∧ maskList (2 ^ 63 + 1) = [0, 63] ∧ bitsOf ((cmd (slc 0 1 0) .running).q 32) 0 1 = 1 ∧
    ((up.setF F.SM_SLICE.KIND 511 1).bit F.SM_SLICE.KIND 511 = true ∧ up.bit F.SM_SLICE.KIND 511 = false) := by decide +kernel

/-- Page 3 is FREE; pages 2303 and 18431 are the last of stacks 0 and 7. -/
theorem witness_pages : let a := slc 2 (3 + 2 ^ 32) 0
    let d := up.setF F.SM_POT.STATE 3 1
    (cmd a .running).pageList = [3] ∧ d.present env 3 = true ∧ d.pageState 3 = 1 ∧ d.inState 511 [1, 2, 3, 4] = false ∧
    (∀ st ∈ [1, 2, 3, 4], (inSlice st 2 0 0).d.inState 511 [1, 2, 3, 4] = true) ∧ d.bit F.SM_SLICE.HOMING 511 = false ∧
    (let d := d.setPage 3 2 511 0 0
     d.ownedBy 3 511 = true ∧ d.rangeSlot 3 = none ∧ d.spanSlot 3 = none ∧ firstBad [3] (fun p => !(d.present env p) || !(d.ownedBy p 510)) = some 3) := by decide +kernel

theorem witness_binding : (∀ st ∈ [1, 4], (inSlice st 8 0 0).d.inState 511 [1, 4] = true) ∧ (inSlice 1 4 0 0).d.sm.quiesce = [] ∧
    (up.setF F.SM_SLICE_BIND.PASID_VALID 511 1).bound 511 = true ∧ up.bound 511 = false ∧
    (let c := cmd (slc 8 (2 ^ 20 + 2 ^ 20 - 1 + (2 ^ 7 + 63) * 2 ^ 32) 0) .running
     dfield c.desc 32 20 1 = 1 ∧ dfield c.desc 36 7 1 = 1 ∧ dfield c.desc 32 0 20 = 2 ^ 20 - 1 ∧ dfield c.desc 36 0 6 = 63) ∧
    (∀ t < 512, up.bit F.SM_SLICE_BIND.PASID_VALID t = false ∧ up.bit F.SM_SLICE_BIND.VF_VALID t = false) := by decide +kernel

/-- Slice 511 QUIESCING, its grace at an end or not. -/
def quiescing (toTear : Bool) (end_ : Nat) (over_ : Bool) : State :=
  at_ { up.setF F.SM_SLICE.STATE 511 3 with sm := { quiesce := [{ sl := 511, toTear := toTear, graceEnd := end_, expired := over_ }] } }

theorem witness_stops : (∀ t ∈ [env.now, env.now + 1], let s := quiescing false t false
      ∃ q ∈ s.d.sm.quiesce, s.d.sm.quiesce.find? (fun q => decide (q.sl = 511)) = some q ∧ q.expired = false ∧ (q.graceEnd ≤ s.env.now ↔ t = env.now)) ∧
    (let s := quiescing false 0 true
     s.d.openCtxs 511 = [] ∧ (∀ c ∈ s.d.sliceCtxs 511, s.d.ctxState c = 5 ∧ s.d.tearing c = false) ∧ s.d.sliceIdle 511 = true) ∧
    (let x : Cmd := { cmd (desc Op.FENCE_WAIT 0 0 0 0 0 0 0) .running with ctx := 4095 }
     let d : Die := { ((((quiescing false 0 false).d.setF F.SF_CTX_CFG.VALID 4095 1).setF F.SF_CTX_CFG.SLICE 4095 511)) with sf := { cmds := [x] } }
     d.allStopped 511 = false) := by decide +kernel

/-- Slice 511 in a step of its teardown. -/
def tearingSlice (step : Nat) (f : Die → Die) : State := at_ (f ((up.setF F.SM_SLICE.STATE 511 5).setF F.SM_SLICE.STEP 511 step))

theorem witness_reclaim : (tearingSlice 3 id).d.flushRuns (.reclaim 511) = false ∧ (∀ k ∈ (tearingSlice 3 id).d.slotsOf 511, (tearingSlice 3 id).d.slotState k ≠ 2) ∧
    (tearingSlice 3 (fun d => { d with coh := { flushes := [{ id := 9, filter := .slice 511, after := .reclaim 511 }] } })).d.flushRuns (.reclaim 511) = true ∧
    (tearingSlice 4 id).d.slotsOf 511 = [] ∧ (∀ k ∈ [3, 4, 5], (tearingSlice k id).d.sliceState 511 = 5 ∧ (tearingSlice k id).d.getF F.SM_SLICE.STEP 511 = k) ∧
    (let o : PotOp := { id := 4, kind := 5, sl := 511, pages := [3] }
     (tearingSlice 5 (fun d => { d with sm := { potOps := [o] } })).d.sm.potOps.find? (fun o => decide (o.sl = 511 ∧ (o.kind = 2 ∨ o.kind = 5))) = some o ∧
       up.sm.scrubs = []) := by decide +kernel

/-- A page operation of page 3 that waits for request 7, and one that waits for none. -/
theorem witness_potChange : ∀ kind < 2, ∀ w ∈ [[], [7]], let o : PotOp := { id := 4, kind := kind, sl := 511, pages := [3], waits := w }
    let d : Die := { up with sm := { potOps := [o] }, coh := { reqs := [{ rid := 7, who := 3, op := .readShared, line := 16384, ctx := some 0 }] } }
    d.sm.potOps.find? (fun x => decide (x.id = 4)) = some o ∧ o.flush = none ∧ d.potFree o = decide (w = []) := by decide +kernel

theorem witness_scrub : (cmd (desc Op.SCRUB 0 0 (3 + 2 ^ 32) 0 0 0 0) .running).op = Op.SCRUB ∧ (cmd (desc Op.SCRUB 0 0 (3 + 2 ^ 32) 0 0 0 0) .running).w 12 = 1 ∧
    up.pageState 3 = 0 ∧ up.present env 3 = true ∧
    (let d : Die := { up with sm := { scrubs := [(18431, true)] } }
     (18431, true) ∈ d.sm.scrubs ∧ d.coh.flushes = [] ∧ 7 ∉ d.mem.retr ∧ Tab.get none d.mem.cal 7 = none ∧ stackOf 18431 = 7 ∧ d.bit F.MC_STATUS.NMAP_READY 7 = true ∧
       d.running 7 = true ∧ d.coh.dir = []) := by decide +kernel

/-- LOG_CTL of slice 511; its log on, with some bits still to set. -/
def logc (arg0 : Nat) : BitVec 512 := desc Op.LOG_CTL 0 arg0 511 4096 0 0 0
def logging (pend : List (Nat × Nat × Nat)) (filter : List Nat) : Die :=
  { (up.setF F.SM_SLICE.STATE 511 2).setF F.SM_SLICE.LOG_ON 511 1 with sm := { logs := [{ sl := 511, pend := pend, filter := filter }] } }

theorem witness_log : (∀ a < 3, (cmd (logc a) .running).op = Op.LOG_CTL ∧ (cmd (logc a) .running).arg0 = a ∧ (cmd (logc a) .running).aux = 0 ∧ (cmd (logc a) .running).sl = 511) ∧
    (∃ l ∈ (logging [] []).sm.logs, (logging [] []).dlog 511 = some l ∧ l.pend = [] ∧ l.stop = none ∧ l.swap = none) ∧
    (logging [] []).bit F.SM_SLICE.LOG_ON 511 = true ∧ (logging [] []).bit F.SM_SLICE.LOG_FAILED 511 = false ∧
    (inSlice 4 0 0 0).d.bit F.SM_SLICE.LOG_ON 511 = false ∧ (inSlice 4 0 0 0).d.inState 511 [1, 2, 3, 4] = true := by decide +kernel

theorem witness_logConfirm : ∀ x ∈ ([(2 ^ 19 - 1, 5, 2)] : List (Nat × Nat × Nat)), ∃ l ∈ (logging [x] []).sm.logs, (logging [x] []).dlog 511 = some l ∧
    l.pend.find? (fun x => decide (x.1 = 2 ^ 19 - 1 ∧ x.2.2 % 10 = 2)) = some x ∧ x.2.2 < 10 ∧ l.pend.find? (fun x => decide (x.1 = 0 ∧ x.2.2 % 10 = 2)) = none := by
  decide +kernel

theorem witness_potSet : up.barGate env .steward .SM_POT_SET 0 = none ∧ (∀ st ∈ [3, 4], fieldOf (BitVec.ofNat 64 (18431 + st * 65536) : Word) 16 3 = st ∧
    fieldOf (BitVec.ofNat 64 (18431 + st * 65536) : Word) 0 15 = 18431) ∧ env.fwSeal = false ∧ up.present env 18431 = true ∧ up.pageState 18431 = 0 ∧
    (up.setF F.SM_POT.STATE 18431 1).pageState 18431 ≠ 0 := by decide +kernel

end Sys2Proof.Tests
namespace Sys2Proof.Tests

open Sys2Proof Sys2Proof.Machine

set_option maxRecDepth 20000
set_option Elab.async false

/-! ### Witnesses: windows, link ports and system time -/

/-- A packet with its flags and CRC: window 4095, tag of four hundred and six. -/
def flagged (fl op dst arg off aux : Nat) (pay : List Byte) : List Byte :=
  let h := bytesLE 1 op ++ bytesLE 1 fl ++ bytesLE 2 pay.length ++ bytesLE 2 17 ++ bytesLE 2 dst ++ bytesLE 4 4095 ++ bytesLE 2 406 ++ bytesLE 2 arg ++
    bytesLE 8 off ++ bytesLE 4 aux
  h ++ bytesLE 4 (crc32c (natBytes (h ++ pay))) ++ pay

/-- The same with no flag. -/
def packet (op dst arg off aux : Nat) (pay : List Byte) : List Byte := flagged 0 op dst arg off aux pay

/-- Die 9. -/
def env9 : Env := { env with dieId := 65536 + 9 }

/-- Window 4095 opens the first 256 bytes of segment 0 of context 1, of slice 511, on page 3, for the operations of the mask; link port 15 is up. -/
def winDie (ops : Nat) : Die :=
  let d := (((up.setF F.WE_PORT_STATUS.UP 15 1).setF F.SF_CTX_CFG.VALID 1 1).setF F.SF_CTX_CFG.SLICE 1 511).setF F.SM_SLICE.STATE 511 2
  let d := ((d.setF F.SM_SLICE_ACLASS.MASK 511 1).setPage 3 2 511 0 0).setF F.MC_SBW.CAP_GBPS 511 200
  let d := (((d.setF F.WE_WTAB.VALID 4095 1).setF F.WE_WTAB.CONTEXT 4095 1).setF F.WE_WTAB.LIMIT 4095 256)
  let d := [F.WE_WTAB.OP_READ, F.WE_WTAB.OP_WRITE, F.WE_WTAB.OP_REDUCE, F.WE_WTAB.OP_ATOMIC, F.WE_WTAB.OP_FENCE].zipIdx.foldl (fun d f => d.setF f.1 4095 (bitsOf ops f.2 1)) d
  { d with stu := { d.stu with caches := [{ cache := 8, ctx := 1, seg := 0, block := none, val := 57, w1 := 0, w2 := 2 ^ 25, w3 := 0 },
      { cache := 8, ctx := 1, seg := 0, block := some (0, 2 ^ 25), val := 3 * 2 ^ 25 }] } }

/-- What the answer to an accepted packet at port 15 comes to: 0 performed, 1 waits, 1000 and a cause for a NACK. -/
def answered (d : Die) (b : List Byte) : Nat :=
  match d.rxArrive env9 15 b 0 true with
  | (d, some (b', some v)) =>
    let ws := d.winEntry (pktWin b')
    let pm : RxPkt := { k := d.nid, port := 15, bytes := b', verified := v, ent := ws }
    let dm : Die := { d with nid := d.nid + 1, we := { d.we with rx := d.we.rx ++ [pm] } }
    match pktSpan b' with
    | some r => match attempt env9 dm (.packet pm.k) (do let y ← pktTranslate pm ws r; pktPerform pm ws y) with
      | .ok _ _ => 0
      | .wait _ => 1
      | .stop c _ _ => c
      | .fault _ _ => 2
    | none => 3
  | (_, some (_, none)) => 5
  | (_, none) => 4

/-- A request of each row, to the last bytes that window 4095 has. -/
def request (op dst : Nat) : List Byte :=
  if op = 1 then packet 1 dst 0 248 8 []
  else if op = 4 then packet 4 dst 0 252 0 (List.replicate 4 0)
  else packet op dst 0 248 0 (List.replicate 8 1)

theorem witness_requestPackets : ∀ x ∈ [1, 3, 4, 5, 7], pktOp (request x 9) = x ∧ pktF (request x 9) 6 2 = fieldOf env9.dieId 0 16 ∧
    pktF (request x 8) 6 2 ≠ fieldOf env9.dieId 0 16 ∧ (pktSpan (request x 9)).isSome = true ∧ pktSpan (packet x 9 0 511 2 []) = none := by decide +kernel

theorem witness_requestsPerformed : ∀ x ∈ [1, 3, 4, 5, 7], answered (winDie 31) (request x 9) = 0 := by decide +kernel

/-- An operation that the entry does not allow fails step 5, before the checks that follow it. -/
theorem witness_requestsRefused : ∀ x ∈ [1, 3, 4, 5, 7], answered (winDie 0) (request x 9) = 1004 := by decide +kernel

theorem witness_windowMatch : (winDie 0).winMatch ((winDie 0).winEntry 4095) 17 = true ∧ (winDie 0).winMatch ((winDie 0).winEntry 0) 17 = false ∧
    (winDie 0).we.rx = [] ∧ up.bit F.WE_PORT_STATUS.UP 15 = false ∧ ((winDie 0).rxArrive env9 15 ((request 1 9).take 31) 0 true).2 = none := by decide +kernel

/-- Tracker 406 of a request to die 17 since a time. -/
def trk (op sent : Nat) (dead : Bool) : Trk :=
  { n := 406, gen := 0, port := 15, sent := sent, dead := dead, req := { use := .cmd 1, ctx := 1, slice := some 511, die := 17, win := 4095, op := op, off := 0, len := 8 } }
def withTrk (op sent : Nat) (dead : Bool) : Die := { winDie 31 with we := { trks := [trk op sent dead] } }

theorem witness_responses : ∀ x ∈ ([(2, 1, 8), (6, 5, 8), (8, 3, 0), (8, 7, 8), (9, 1, 0)] : List (Nat × Nat × Nat)), let b := packet x.1 9 0 0 0 (List.replicate x.2.2 0)
    pktOp b = x.1 ∧ ((withTrk x.2.1 0 false).rxArrive env9 15 b 0 true).2.isSome = true ∧
    (∀ dead ∈ [false, true], (withTrk x.2.1 0 dead).we.trks.find? (fun t => decide (t.n + 8192 * t.gen = pktTag b ∧ t.req.die = pktSrc b) && answers t x.1 (b.drop 32).length) =
      some (trk x.2.1 0 dead)) := by decide +kernel

/-- A sealed link whose engine is made to mismatch twice. -/
def faulty (d : Die) : Die :=
  let d := ((d.setF F.SE_LINK.STATE 15 2).setF F.AY_INJECT.ARM 0 1).setF F.AY_INJECT.CAUSE 0 (causeRow Cs.SE_FAULT).code
  { d.setF F.AY_INJECT.INSTANCE 0 23 with se := { links := [(15, some { txKey := 0, txSalt := 0, rxKey := 0, rxSalt := 0 })] } }

theorem witness_sealedTwice : ((faulty (winDie 31)).rxArrive env9 15 (flagged 1 3 9 0 248 0 (List.replicate 8 1)) 0 true).2.map Prod.snd = some none ∧
    ((faulty (withTrk 1 0 false)).rxArrive env9 15 (flagged 1 2 9 0 0 0 (List.replicate 8 0)) 0 true).2.map Prod.snd = some none := by decide +kernel

theorem witness_responseTimeout : ∀ k < 2, let t := trk 1 (env.now - (winDie 31).rspTimeout + k) false
    (withTrk 1 t.sent false).we.trks.find? (fun x => decide (x.n = 406)) = some t ∧ (t.sent + (withTrk 1 t.sent false).rspTimeout ≤ env.now ↔ k = 0) := by decide +kernel

/-- MAP_WINDOW of window 4095 for a context. -/
def mapw (arg0 ctx : Nat) : BitVec 512 := desc Op.MAP_WINDOW 0 arg0 4095 0 0 (1 + 2 * ctx) 0

theorem witness_mapWindow : (∀ a < 2, (cmd (mapw a 1) .running).op = Op.MAP_WINDOW ∧ (cmd (mapw a 1) .running).arg0 = a ∧ dfield (mapw a 4095) 32 1 12 = 4095) ∧
    (winDie 0).ctxValid 1 = true ∧ (winDie 0).isKernelCtx 1 = false ∧ (winDie 0).sliceState ((winDie 0).ctxSlice 1) = 2 ∧ (winDie 0).ctxValid 4095 = false ∧
    (∀ st ∈ [0, 5], ((winDie 0).setF F.SM_SLICE.STATE 511 st).sliceState 511 = st) ∧
    (let p : RxPkt := { k := 7, port := 15, bytes := request 1 9, verified := false, ent := [1] }
     let d : Die := { winDie 0 with we := { rx := [p], mapOps := [(4, 4095, [7], 1)] } }
     d.we.mapOps.find? (fun x => decide (x.1 = 4)) = some (4, 4095, [7], 1) ∧ (∃ p ∈ d.we.rx, p.k ∈ [7]) ∧ (winDie 0).we.rx = []) := by decide +kernel

theorem witness_linkPorts : (winDie 0).bit F.WE_PORT_STATUS.UP 15 = true ∧ (winDie 0).we.trks = [] ∧ up.bit F.WE_PORT_STATUS.UP 15 = false ∧
    (∀ port ∈ [15, 3], (∃ k ∈ ({ winDie 0 with se := { kex := some { port := port, stage := 3, init := true, priv := 5, m1 := [], m2 := [] } } } : Die).se.kex,
      k.port = 15) ↔ port = 15) ∧
    (∀ n ∈ [63, 64], ((winDie 0).setF F.WE_PORT_STATUS.REQ_CREDITS 15 n).getF F.WE_PORT_STATUS.REQ_CREDITS 15 = n ∧
      ((winDie 0).setF F.WE_PORT_STATUS.RSP_CREDITS 15 n).getF F.WE_PORT_STATUS.RSP_CREDITS 15 = n) ∧
    pktTaken env9 (request 1 9) = true ∧ pktTaken env9 ((request 1 9).take 31) = false ∧ pktTaken env (request 1 9) = false := by decide +kernel

/-- A FOLLOWER of port 15, since a number of ticks. -/
def follower (n : Nat) : Die := { ((winDie 0).setF F.WE_TIME_CFG.ROLE 0 2).setF F.WE_TIME_CFG.PARENT_PORT 0 15 with we := { timeTicks := n, timeT1 := some (env.now - 50) } }

theorem witness_timeExchange : ∀ k < 2, let h := max 1 ((follower 0).getF F.WE_TIME_CFG.INTERVAL_TICKS 0)
    (follower (h - 1 + k)).isFollower = true ∧ fieldOf env9.dieId 16 1 ≠ 0 ∧ (h ≤ (follower (h - 1 + k)).we.timeTicks ↔ k = 1) ∧
    (follower 0).bit F.WE_PORT_STATUS.UP 15 = true ∧ ((follower 0).setF F.WE_PORT_STATUS.UP 15 0).bit F.WE_PORT_STATUS.UP 15 = false := by decide +kernel

theorem witness_timePackets : pktOp (packet 0x10 0 0 0 0 (timePayload 0 0 0 false)) = 0x10 ∧
    ((follower 0).rxArrive env9 15 (packet 0x10 0 0 0 0 (timePayload 0 0 0 false)) 0 false).2.isSome = true ∧
    (∀ r ∈ [0, 1, 2], ((follower 0).setF F.WE_TIME_CFG.ROLE 0 r).getF F.WE_TIME_CFG.ROLE 0 = r) ∧
    (∀ depth ∈ [11, 12], let b := packet 0x11 9 0 0 0 (timePayload (env.now - 50) (env.now + 5000) depth true)
     pktOp b = 0x11 ∧ ((follower 0).rxArrive env9 15 b 0 false).2.isSome = true ∧ (follower 0).we.timeT1 = some (pktF b 32 8) ∧
       env9.now ≤ pktF b 32 8 + (follower 0).rspTimeout ∧ pktF b 56 1 = depth) := by decide +kernel

end Sys2Proof.Tests
namespace Sys2Proof.Tests

open Sys2Proof Sys2Proof.Machine

set_option maxRecDepth 20000
set_option Elab.async false

/-! ### Witnesses: cluster ports, homes and snoops -/

/-- A request header: OP, context, pointer, lines and DST_FMT FP32. -/
def hdr (op ctx ptr lines : Nat) : BitVec 128 := BitVec.ofNat 128 (op + 16 * 255 + 4096 * ctx + 2 ^ 24 * ptr + 2 ^ 76 * (lines - 1))

/-- The beats of an operation: none for reads, two for a tile store of two lines. -/
def beatsOf (op : Nat) : List (BitVec 128 × Line) :=
  if op ≤ 2 ∨ op = 7 then [] else if op = 8 then [(0, 0), (0, 0)] else [(BitVec.allOnes 128, 0)]

theorem witness_portRequests : let d := (onClusters 0 [63] 1 id).d
    d.portOn env 63 = true ∧ d.fire0 Cs.CLP_PARITY 63 = false ∧ d.tearing 0 = false ∧ d.ctxState 0 ≠ 5 ∧
    (∀ op < 9, let h := hdr op 0 128 (if op = 7 ∨ op = 8 then 2 else 1)
      (∃ x ∈ d.ty.kerns, d.kernOn 63 = some x ∧ reqCtx h = x.ctx ∧ x.aband = false) ∧ d.reqOk 63 op h (beatsOf op) = true ∧ fmtPair (bitsOf h.toNat 92 6) (bitsOf h.toNat 98 6) = true) ∧
    (∃ x ∈ d.ty.kerns, reqCtx (hdr 0 4095 128 1) ≠ x.ctx) ∧ d.kernOn 62 = none ∧ d.portOn env 62 = true ∧
    (d.setF F.TY_CLUSTER.STATE 63 4).portOn env 63 = false := by decide +kernel

/-- A WB of cluster 63 that finds its entry in the buffer free, and one behind another. -/
theorem witness_portWb : let w : Req := { rid := 6, who := 63, op := .wb, line := 524288 }
    let d : Die := { (onClusters 0 [63] 1 id).d with coh := { reqs := [w] } }
    (onClusters 0 [63] 1 id).d.wbHead env 63 ((onClusters 0 [63] 1 id).d.home env 524288) = none ∧ d.wbHead env 63 (d.home env 524288) = some 6 ∧
    d.portOn env 63 = true := by decide +kernel

theorem witness_portCredit : let d : Die := { up with coh := { credits := [(16 * 63 + 3, 1)] } }
    Tab.get 0 d.coh.credits (16 * 63 + 3) ≠ 0 ∧ d.portOn env 63 = true ∧ Tab.get 0 up.coh.credits (16 * 63 + 3) = 0 := by decide +kernel

/-- A request of cluster 3 for the first line of page 2, at its home with a tracker or on its way. -/
def atHome_ (op : HomeOp) (t : Option Nat) : Req :=
  { rid := 7, who := 3, op := op, line := 524288, ctx := some 0, mask := 15, tracker := t, asize := 8 }
def homing (op : HomeOp) (t : Option Nat) (more : List Req) : Die := { ctx0 up with coh := { reqs := more ++ [atHome_ op t] } }

theorem witness_homeRequests : ∀ op ∈ [HomeOp.readShared, .readOwn, .readOnce, .writeFull, .writeMask, .atomic, .reduce],
    let d := homing op (some 144) []
    let q := atHome_ op (some 144)
    d.req 7 = some q ∧ q.homed = true ∧ ((d.atHome env 3 (d.home env 524288)).head?).map (·.rid) = some 7 ∧ d.queuedAhead 524288 q.won = false ∧ tried (attempt env d (.req 7) (reqAct q)) = 0 := by decide +kernel

theorem witness_homeOrder : let d := homing .readShared (some 144) [{ atHome_ .readOwn (some 145) with rid := 6 }]
    ((d.atHome env 3 (d.home env 524288)).head?).map (·.rid) = some 6 ∧ d.req 7 = some (atHome_ .readShared (some 144)) := by decide +kernel

/-- The line's home accepts, is out of shared trackers, or is busy with the line. -/
theorem witness_homeAccepts : let q := atHome_ .readShared none
    let free := homing .readShared none []
    let full := homing .readShared none ((List.range 112).map (fun i => { atHome_ .readOwn (some (144 + i)) with rid := 100 + i, who := 5 }))
    let busy := homing .readShared none [{ atHome_ .readOwn (some 144) with rid := 6, who := 5 }]
    q.tracker = none ∧ q.retried = false ∧ free.running (free.home env 524288 / 8) = true ∧ (free.atHome env 3 (free.home env 524288)).head? = some q ∧
    (full.atHome env 3 (full.home env 524288)).head? = some q ∧ (busy.atHome env 3 (busy.home env 524288)).head? = some q ∧
    full.freeShared env (full.home env 524288) = 0 ∧ busy.freeShared env (busy.home env 524288) = 111 ∧ busy.lineBusy 524288 = true ∧
    free.freeShared env (free.home env 524288) = 112 ∧ free.hasCredit env (.home (free.home env 524288)) .req 7 = true ∧
    free.wbFirst q = false ∧ free.inTheWay env 524288 3 q.at_ = none ∧ (busy.inTheWay env 524288 3 q.at_).isSome = true ∧
    (let w := homing .readShared none [{ atHome_ .wb none with rid := 6 }]
     w.wbFirst q = true) ∧ (free.wdrawList (free.home env 524288)).length < 16 ∧ free.lineBusy 524288 = false ∧
    (List.range 112).find? (fun i => !((free.sharedUsed env (free.home env 524288)).contains (144 + i))) = some 0 := by decide +kernel

theorem witness_grants : let q : Req := { atHome_ .readShared none with retried := true, told := true }
    let d : Die := { ctx0 up with coh := { reqs := [q], grants := [((ctx0 up).home env 524288, [{ who := 3, line := none, cause := 0 }])] } }
    let h := d.home env 524288
    d.req 7 = some q ∧ (((d.atHome env 3 h).filter (·.retried)).head?).map (·.rid) = some 7 ∧ d.running (h / 8) = true ∧
    d.grantNext env h = some { who := 3, line := none, cause := 0 } ∧ (homing .readShared none []).req 7 = some (atHome_ .readShared none) := by decide +kernel

theorem witness_writebacks : let q := atHome_ .wb none
    let d := homing .wb none []
    d.req 7 = some q ∧ d.running (d.home env q.line / 8) = true ∧ d.wbHead env 3 (d.home env q.line) = some 7 ∧ d.activeTxn q.line = false ∧
    (homing .wb none [{ atHome_ .wb none with rid := 6 }]).wbHead env 3 (d.home env q.line) = some 6 ∧ d.fenced 3 = false ∧ tried (attempt env d (.req 7) (wbAct q)) = 0 := by decide +kernel

theorem witness_prefetches : let q := atHome_ .pf none
    let d := homing .pf none []
    let hit : Die := { d with coh := { d.coh with lc := [(524288, some { way := 0, v := 15, d := 0, z := 0, data := 0 })] } }
    d.req 7 = some q ∧ (hit.lcLine 524288).isSome = true ∧ (d.lcLine 524288).isSome = false ∧ (d.sideLine env 524288).isSome = false ∧ d.dirEnt 524288 = none ∧
    (hit.dropReq 7).pfDrops env 524288 = true ∧ (d.dropReq 7).pfDrops env 524288 = false ∧ hit.coh.txns = [] ∧ hit.bit F.AY_INJECT.ARM 0 = false ∧
    tried (attempt env (d.dropReq 7) (.req 7) (prefetchAct q)) = 0 := by decide +kernel

/-- A snoop of cluster 63 for the line since a time, with its transaction at the home. -/
def snooping (sent wait : Nat) (colls : List (Nat × List (Nat × Nat) × Bool)) : Die :=
  { ctx0 up with coh := { snps := [{ k := 63, stag := 7, sop := 0, line := 524288, sent := sent, wait := wait }], txns := [{ line := 524288, sop := 0, colls := colls }] } }

theorem witness_snoops : (∀ w < 2, let d := snooping 0 w []
      d.portOn env 63 = true ∧ d.fire0 Cs.DEAD_CLUSTER 63 = false ∧ (d.txn 524288).map (·.owner) = some none ∧
      (d.coh.snps.find? (fun x => decide (x.k = 63 ∧ x.stag = 7 ∧ x.wait = w))).map (·.sop) = some 0 ∧
      d.coh.snps.find? (fun x => decide (x.k = 63 ∧ x.stag = 6 ∧ x.wait = w)) = none) ∧
    (∀ t ∈ [env.now - 20000, env.now - 19999], let d := snooping t 0 []
      ∃ x ∈ d.coh.snps, d.coh.snps.find? (fun x => decide (x.k = 63 ∧ x.stag = 7 ∧ x.wait = 0)) = some x ∧ (x.sent + 20000 ≤ env.now ↔ t = env.now - 20000)) := by decide +kernel

theorem witness_collector : (∀ c ∈ [[(0, [], false)], [(0, [], false), (7, [], false)]], let d : Die := { (snooping 0 0 c) with coh := { (snooping 0 0 c).coh with snps := [] } }
      ∃ t ∈ d.coh.txns, d.txn 524288 = some t ∧ t.owner = none ∧ (∃ y ∈ t.colls, y.1 = 0 ∧ y.2.2 = false) ∧
        ({ t with colls := t.colls.map (fun c => if c.1 = 0 then (c.1, c.2.1, true) else c) } : Txn).full = decide (c.length = 1)) ∧
    (∃ x ∈ (snooping 0 0 [(7, [], false)]).coh.snps, x.line = 524288 ∧ x.k / 8 = 7) := by decide +kernel

theorem witness_sweeps : let gap := up.getF F.DIR_CFG.SWEEP_INTERVAL 0
    up.running 7 = true ∧ Tab.get [] up.coh.scrubRe 63 = [] ∧ (let g := up.setF F.ST_REGION_STATUS.POWER 7 0; g.running 7 = false ∧ g.powerState 7 ≠ 3) ∧ gap ≠ 0 ∧ up.dirAt env 63 0 = none ∧ up.lcOf env 63 = [] ∧
    (∀ k < 2, let d : Die := { up with coh := { sweepAt := [(63, env.now - up.cyclesNs 7 gap + k)], scrubAt := [(63, env.now - up.scrubGap + k)] } }
      (Tab.get 0 d.coh.sweepAt 63 + d.cyclesNs 7 gap ≤ env.now ↔ k = 0) ∧ (Tab.get 0 d.coh.scrubAt 63 + d.scrubGap ≤ env.now ↔ k = 0)) := by decide +kernel

theorem witness_flushes : let f : Flush := { id := 9, filter := .slice 511, after := .reclaim 511 }
    let d : Die := { up with coh := { flushes := [f] } }
    d.coh.flushes.find? (fun x => decide (x.id = 9)) = some f ∧ d.flushHits env f.filter = [] ∧ up.coh.flushes.find? (fun x => decide (x.id = 9)) = none := by decide +kernel

theorem witness_lostLog : up.barGate env .steward .DIR_LLOG_CONS 0 = none ∧
    (∀ n ∈ [4096, 4097], let d := up.setF F.DIR_LLOG_STATUS.PRODUCED 0 n
      ((d.getF F.DIR_LLOG_STATUS.PRODUCED 0 + 2 ^ 32 - fieldOf (0 : Word) 0 32) % 2 ^ 32 ≤ 4096 ↔ n = 4096)) := by decide +kernel

/-! ### Witnesses: memory controllers -/

/-- A die whose controllers have one request in their queue. -/
def queued (r : McReq) : Die := { up with mem := { queue := [(7, r)] } }

theorem witness_controllerLines : let l := 524288
    up.present env (pageOfLine l) = true ∧ up.isNmapPage env (pageOfLine l) = false ∧ up.coh.txns = [] ∧
    (∀ ready < 2, let d := (queued (.read l [(71, 1)])).setF F.MC_STATUS.NMAP_READY 0 ready
      d.mem.queue = [(7, .read l [(71, 1)])] ∧
      tried (attempt env d (.packet 7) (do
        memReady l
        modify (fun d => { d with mem := ([(71, 1)] : List (Nat × BitVec 16)).foldl (fun m f => m.flip l f.1 f.2) d.mem })
        let _ ← sealRead l none)) = 1 - ready) ∧
    tried (attempt env (queued (.write l 15 false 1)) (.packet 7) (do
      memReady l
      sealWrite l 15 1 (zeroBits 1) false)) = 0 ∧
    tried (attempt env up .other (do
      modify (fun d => { d with mem := ([(71, 1)] : List (Nat × BitVec 16)).foldl (fun m f => m.flip l f.1 f.2) d.mem })
      sealRead l none)) = 0 ∧
    tried (attempt env up .other (sealWrite l 15 1 (zeroBits 1) false)) = 0 ∧
    (∃ p ∈ [2302, 2303], up.present env (pageOfLine (p * 2 ^ 18)) = true ∧ up.isNmapPage env (pageOfLine (p * 2 ^ 18)) = true) ∧
    up.present env (pageOfLine (18432 * 2 ^ 18)) = false := by decide +kernel

/-- Stack 7 with a temperature asked for at a time, or a pseudo-channel being calibrated. -/
theorem witness_controllers : up.trained env 7 = true ∧ 63 < up.pcs 7 ∧ ¬ 63 < (up.setF F.MC_STATUS.MODE 7 2).pcs 7 ∧ up.running 7 = true ∧ Tab.get none up.mem.cal 7 = none ∧
    Tab.get none ({ up with mem := { cal := [(7, some 63)] } } : Die).mem.cal 7 = some 63 ∧ (up.setF F.MC_STATUS.MODE 7 3).trained env 7 = false ∧
    (∀ t ∈ [env.now - 10001, env.now - 10000, env.now - 9999], Tab.get none ({ up with mem := { temp := [(7, some t)] } } : Die).mem.temp 7 = some t) ∧
    max 95 (up.getF F.MC_CFG.TEMP_THROTTLE_C 7) ≤ 255 ∧ up.nextBand 7 84 = 0 ∧ up.nextBand 7 85 = 1 ∧ up.nextBand 7 94 = 1 ∧ up.nextBand 7 95 = 2 ∧
    ((up.setF F.MC_TEMP.BAND 7 2).nextBand 7 93 = 2 ∧ (up.setF F.MC_TEMP.BAND 7 2).nextBand 7 92 = 1) ∧
    0 < up.getF F.MC_CFG.PHY_RETRIES 7 ∧ up.fire0 Cs.PHY_FAIL 7 = false ∧ up.barGate env .steward .MC_UE_STATUS 7 = none ∧ fieldOf (64 : Word) 6 1 = 1 := by decide +kernel

/-- Pseudo-channel 63 of stack 7 has a refresh due or not, banks open or not, and a bank activated as often as the management of refreshes allows. -/
def refreshing (due : Nat) (open_ : List Nat) : Die :=
  { up with mem := { refDue := [(64 * 7 + 63, due)], rows := open_.map (fun b => (64 * (64 * 7 + 63) + b, some 1)), acts := [(64 * (64 * 7 + 63) + 5, 2 ^ 40)] } }

theorem witness_refreshes : let pk := 64 * 7 + 63
    let idle := fun (d : Die) => ((List.range (d.banks 7)).map (fun i => (Tab.get 0 d.mem.refBank pk + i) % d.banks 7)).find? (fun b => (Tab.get none d.mem.rows (64 * pk + b)).isNone)
    (∀ t ∈ [env.now, env.now + 1], let d := refreshing t [0, 1]
      (Tab.get 0 d.mem.refDue pk ≤ env.now ↔ t = env.now) ∧ idle d = some 2) ∧
    idle (refreshing 0 (List.range 64)) = none ∧ 5 < up.banks 7 ∧ up.banks 7 ≤ 64 ∧ (refreshing 0 []).trained env 7 = true ∧ Tab.get 0 (refreshing 0 []).mem.acts (64 * pk + 5) = 2 ^ 40 := by
  decide +kernel

/-- Stack 7 in training since a time. -/
def training (since : Nat) : Die := { up with mem := { stack := [(7, 1)] }, bt := { up.bt with phaseAt := since } }

theorem witness_training : (stackRow 1 2).isSome = true ∧ (stackRow 2 2).isSome = true ∧ Tab.get 0 (training 0).mem.stack 7 = 1 ∧ env.hasRegion 7 = true ∧
    (∀ k < 2, ((training (env.now - 400000000 + k)).bt.phaseAt + 400 * 1000000 ≤ env.now ↔ k = 0) ∧ (training 0).bt.inWarm = false ∧ (training 0).bit F.ST_BOOT.NO_SETTINGS 0 = false) ∧
    Tab.get 0 ({ up with mem := { stack := [(7, 2)] } } : Die).mem.stack 7 = 2 := by decide +kernel

theorem witness_patrol : let d : Die := { up with mem := { patrolDue := [(7, env.now)] } }
    let o := d.patrolOwe env 7
    let line := 2304 * 2 ^ 18 * 7 + o.patrolPos 7
    up.bit F.MC_STATUS.NMAP_READY 7 = true ∧ o.getF F.MC_PATROL.BEHIND 7 = 1 ∧ d.getF F.MC_PATROL.BEHIND 7 = 0 ∧ o.scrubbing (2304 * 7 + o.patrolPos 7 / 2 ^ 18) = false ∧ o.scrubbing (pageOfLine line) = false ∧
    7 ∉ o.mem.retr ∧ Tab.get none o.mem.cal 7 ≠ some (o.pchan line) ∧ o.maintMay env 7 = true ∧ tried (attempt env o .other (memRead line 3 none true)) = 0 ∧
    (({ up with mem := { patrolDue := [(7, env.now + 1)] } } : Die).patrolOwe env 7).getF F.MC_PATROL.BEHIND 7 = 0 := by decide +kernel

theorem witness_maintenance : (∀ k < 2, let d : Die := { up with mem := { nmapDue := [(7, env.now + k)], calDue := [(7, k)], phyupd := [] } }
      (Tab.get 0 d.mem.nmapDue 7 ≤ env.now ↔ k = 0) ∧ d.nmapBusy 7 (Tab.get 0 d.mem.nmapPos 7) = false ∧ d.maintMay env 7 = true ∧ Tab.get 0 d.mem.calNext 7 = 0 ∧
      (Tab.get 0 d.mem.calDue 7 ≤ d.getF F.ST_TICK.TICK_COUNT 0 ↔ k = 0) ∧ 64 * 7 + Tab.get 0 d.mem.calPc 7 ∉ d.mem.phyupd) ∧
    ({ env with fwSeal := true } : Env).fwSeal = true ∧ (up.setF F.MC_CFG.AUTO_SCRUB 7 1).bit F.MC_CFG.AUTO_SCRUB 7 = true ∧ up.sm.scrubs = [] ∧
    (List.range (up.stackPages env 7)).find? (fun i => decide (up.pageState (2304 * 7 + i) = 0) && !(up.isNmapPage env (2304 * 7 + i)) && !(up.sm.scrubs.any (fun x => decide (x.1 = 2304 * 7 + i))) &&
      !(up.potHolds (2304 * 7 + i))) = some 0 ∧
    up.barGate env .steward .ST_RETRAIN 0 = none ∧ 7 ∈ ({ up with mem := { retr := [7] } } : Die).mem.retr := by decide +kernel

end Sys2Proof.Tests
namespace Sys2Proof.Tests

open Sys2Proof Sys2Proof.Machine

set_option maxRecDepth 20000
set_option Elab.async false

/-! ### Witnesses: key slots, link keys, the life cycle -/

/-- KEY_CTL of slot 63 for slice 511: class T, one page, its tag span of one page. -/
def keyc (arg0 first : Nat) : BitVec 512 := desc Op.KEY_CTL 0 arg0 63 0 0 (511 + 512) (first + 2 ^ 32) ||| BitVec.ofNat 512 (2 ^ 384 * 4)

/-- Slice 511 ACTIVE, owner of pages 3 and 4. -/
def owning : Die := ((ctx0 up).setF F.SM_SLICE.STATE 511 2).setPage 3 2 511 0 0 |>.setPage 4 2 511 0 0

theorem witness_keyBind : let c := cmd (keyc 0 3) .running
    c.op = Op.KEY_CTL ∧ c.arg0 = 0 ∧ dfield c.desc 8 0 6 = 63 ∧ dfield c.desc 32 0 9 = 511 ∧ dfield c.desc 32 9 2 = 1 ∧ dfield c.desc 40 0 32 = 3 ∧ dfield c.desc 44 0 32 = 1 ∧
    dfield c.desc 48 0 32 = 4 ∧ owning.se.ops = [] ∧ owning.slotState 63 = 0 ∧ owning.sliceState 511 ∈ [1, 2, 4] ∧
    (∀ p ∈ [3, 4], owning.present env p = true ∧ owning.ownedBy p 511 = true ∧ owning.rangeSlot p = none ∧ owning.spanSlot p = none ∧ stackOf p = stackOf 3) ∧
    owning.lcState < 4 ∧ 4 ≤ (owning.setF F.TS_LC.STATE 0 4).lcState ∧ up.ownedBy 3 511 = false ∧ (up.setF F.SE_SLOT.STATE 63 2).slotState 63 ≠ 0 ∧
    ((((owning.setF F.SE_SLOT.STATE 7 2).setF F.SE_SLOT.FIRST_PAGE 7 3).setF F.SE_SLOT.COUNT 7 1).rangeSlot 3 = some 7) := by decide +kernel

/-- Slot 63 bound to slice 511, and in a state with its operation. -/
def slotIn (st : Nat) : Die := { ((owning.setF F.SE_SLOT.STATE 63 st).setF F.SE_SLOT.SLICE 63 511) with se := { ops := [(63, some 1)] } }

theorem witness_keySteps : (cmd (keyc 1 3) .running).arg0 = 1 ∧ (slotIn 2).slotState 63 = 2 ∧ (slotIn 2).sliceState ((slotIn 2).getF F.SE_SLOT.SLICE 63) ≠ 5 ∧
    (slotIn 1).se.ops = [(63, some 1)] ∧ (slotIn 1).slotState 63 = 1 ∧ (slotIn 1).flushRuns (.bind 63) = false ∧
    (slotIn 1).bit F.MC_STATUS.NMAP_READY ((slotIn 1).getF F.SE_SLOT.STACK 63) = true ∧ (slotIn 1).getF F.SE_SLOT.STACK 63 ∉ (slotIn 1).mem.retr ∧
    (slotIn 1).running ((slotIn 1).getF F.SE_SLOT.STACK 63) = true ∧
    ({ slotIn 1 with coh := { flushes := [{ id := 9, filter := .pages [3], after := .bind 63 }] } } : Die).flushRuns (.bind 63) = true ∧
    (slotIn 3).slotState 63 = 3 ∧ (slotIn 3).flushRuns (.retire 63) = false ∧
    tried (attempt env (slotIn 3) .other ((((slotIn 3).mem.tagc.map Prod.fst).filter (fun l => (slotIn 3).inSpan 63 (pageOfLine l))).forM tagEvict)) = 0 := by decide +kernel

theorem witness_slot0 : let v : Word := BitVec.ofNat 64 (1 + 2 ^ 16 + 2 ^ 32 + 2 * 2 ^ 34 + 2 ^ 49)
    let d := (up.setF F.SM_POT.STATE 1 4).setF F.SM_POT.STATE 2 4
    env.fwSeal = false ∧ fieldOf v 49 1 = 1 ∧ fieldOf v 32 2 = 1 ∧ d.slot0Ok env v = true ∧ up.slot0Ok env v = false ∧ fieldOf (0 : Word) 49 1 = 0 := by decide +kernel

/-! An image whose body ends in the two keys of an exchange, so that one signature serves both: key pair of private key 5, nonce 7. -/

def idKey : List Nat := bytesBE 96 0x11de24a2c251c777573cac5ea025e467f208e51dbff98fc54f6661cbe56583b037882f4a1ca297e60abcdbc3836d84bc8fa696c77440f92d0f5837e90a00e7c5284b447754d5dee88c986533b6901aeb3177686d0ae8fb33184414abe6c1713a
def imageHead : List Nat := bytesOf 4 0x4E4C5256 ++ bytesOf 4 1 ++ bytesOf 4 192 ++ [0, 0, 0, 0, 63] ++ List.replicate 15 0 ++ idKey
def signed_ : List Nat := bytesBE 96
  0x283c1d7365ce4788f29f8ebf234edffead6fe997fbea5ffa2d58cc9dfa7b1c508b05526f55b9ebb2040f05b48fb6d0e11c718848fed1987d74be5d7fc69a3ecb4fa960dbc4754b147a157b536c60bacb11d18e35bf3a27f02c1ce065bff32529

/-- The exchange buffer with a message. -/
def buffer (d : Die) (l : List Nat) : Die :=
  (List.range 64).foldl (fun d i => d.setReg .TS_KEX_BUF i 0 (BitVec.ofNat 64 (natLE ((l.drop (8 * i)).take 8)))) d

/-- A PROVISIONED die with an exchange at port 15. -/
def exchanging (k : Option Kex) (msg : List Nat) : Die := { buffer (up.setF F.TS_LC.STATE 0 2) msg with se := { kex := k } }

theorem witness_kexBegins : up.barGate env .steward .TS_KEX_CTL 0 = none ∧ up.mayLink = false ∧ (exchanging none []).mayLink = true ∧ (exchanging none []).se.kex = none ∧
    (ptDecode (((exchanging none (List.replicate 40 0 ++ idKey)).kexBytes 0 136).drop 40)).isSome = true := by decide +kernel

theorem witness_kexConfirms : let x : Kex := { port := 15, stage := 1, init := true, priv := 5, m1 := asBytes (imageHead.take 88), m2 := [] }
    let d := exchanging (some x) (imageHead.drop 88 ++ idKey ++ idKey ++ signed_)
    let m2 := d.kexBytes 0 328
    d.mayLink = true ∧ d.se.kex = some x ∧ (ptDecode ((m2.drop 40).take 96)).isSome = true ∧
    ecdsaVerify ((m2.drop 136).take 96) (m2.drop 232) (sha384 (asNats x.m1 ++ m2.take 232)) = true := by decide +kernel

theorem witness_kexCompletes : let x : Kex := { port := 15, stage := 2, init := false, priv := 5, m1 := asBytes imageHead, m2 := asBytes idKey }
    let d := exchanging (some x) (idKey ++ signed_)
    let m3 := d.kexBytes 0 192
    d.mayLink = true ∧ d.se.kex = some x ∧ ecdsaVerify (m3.take 96) (m3.drop 96) (sha384 (asNats x.m1 ++ asNats x.m2 ++ m3.take 96)) = true := by decide +kernel

theorem witness_kexEnds : ∀ st ∈ [1, 2, 3], let x : Kex := { port := 15, stage := st, init := true, priv := 5, m1 := [], m2 := [] }
    (exchanging (some x) []).se.kex = some x ∧ (exchanging (some x) []).mayLink = true := by decide +kernel

theorem witness_lifeCycle : up.barGate env .steward .TS_LC_REQ 0 = none ∧ up.lcState ≤ 1 ∧ up.se.prog = none ∧
    (let v : Word := BitVec.ofNat 64 (1 + 0x4C43 * 2 ^ 48)
     fieldOf v 48 16 = 0x4C43 ∧ lcMay 0 (fieldOf v 0 3) = true ∧ lcMay 4 (fieldOf v 0 3) = false) ∧ lcMay 2 4 = true ∧
    (∀ t ∈ [1, 2, 3, 4], ({ up with se := { prog := some t } } : Die).se.prog = some t) := by decide +kernel

theorem witness_firmwareKeys : let e : Env := { env with otp := [(35, 7)] }
    let d : Die := { up with se := { image := some (0, 63, true) } }
    d.barGate e .steward .TS_SVN_ADVANCE 0 = none ∧ d.barGate e .steward .TS_KEY_REVOKE 0 = none ∧ d.se.image = some (0, 63, true) ∧ fieldOf (63 : Word) 0 6 = 63 ∧
    e.minSvn < 63 ∧ fieldOf (62 : Word) 0 6 ≠ 63 := by decide +kernel

/-! ### Witnesses: Assay -/

/-- A report of one of the 43 causes. -/
def rep (cause : Nat) (ctx slice : Option Nat) : Report := { cause := cause, ctx := ctx, slice := slice }

theorem witness_reports : up.bt.pwrGood = true ∧ up.bit F.AY_STATUS.HANDLING 0 = false ∧ repClass (rep 0 none none) = 0 ∧ repClass (rep 2 (some 4095) none) = 1 ∧
    repClass (rep 6 none (some 511)) = 2 ∧ repClass { rep 9 none (some 511) with page := 2 } = 1 ∧ repClass (rep 42 none none) = 3 ∧ alwaysDie (rep 42 none none) = true ∧
    alwaysDie (rep 0 none none) = false ∧ (causeRow 26).sec = true ∧ (up.leaveReporter env (rep 42 none none)).2.ay.waiting = [] ∧
    (up.setF F.AY_STATUS.HANDLING 0 1).bit F.AY_STATUS.HANDLING 0 = true := by decide +kernel

/-- Reports of two reporters stand, the first with its four places full and a fifth held. -/
def reporting : Die :=
  let r := fun t : Nat => { rep 2 (some 4095) none with time := t }
  { up with ay := { waiting := [r 1, r 2, r 3, r 4, { rep 6 none (some 511) with time := 5 }], held := [{ r 6 with det0 := 1 }] } }

theorem witness_standingReports : let r : Report := { rep 2 (some 4095) none with time := 1 }
    (reporting.nextReport.isSome = true) ∧ (∃ x ∈ reporting.ay.waiting, reporting.nextReport = some x ∧ x ∉ reporting.ay.early ∧ x.cause < 43 ∧ alwaysDie x = false) ∧
    reporting.ay.intake = [] ∧ reporter r = reporter { r with time := 6, det0 := 1 } ∧
    reporting.ay.held.find? (fun h => decide (reporter h = reporter r)) = some { r with time := 6, det0 := 1 } ∧ reporting.placed (reporter r) = 4 ∧
    up.ay.waiting = [] ∧ up.ay.held = [] ∧ (up.leaveReporter env (rep 42 none none)).1.time = env.now := by decide +kernel

theorem witness_risen : ∀ r ∈ ([.AY_DIE_REC, .AY_CE_REC, .AY_SEC_REC, .AY_INJ_REC] : List Reg), ∀ b ∈ [false, true],
    let d : Die := { up.setF (F.REC.VALID r) 0 1 with rose := if b then [(r.ctorIdx, 0, (F.REC.VALID r).lo)] else [] }
    d.bit (F.REC.VALID r) 0 = true ∧ d.risen (F.REC.VALID r) 0 = b := by decide +kernel

theorem witness_rearm : (∀ r ∈ ([.AY_DIE_REC, .AY_CE_REC, .AY_SEC_REC, .AY_INJ_REC] : List Reg), Reg.decode r.layout.base = some (r, 0, 0) ∧
      up.barGate env .steward r 0 = none ∧ r.layout.base < 2 ^ 26) ∧
    (∀ r ∈ ([.AY_CTX_REC, .AY_SLICE_REC] : List Reg), Reg.decode r.layout.base = some (r, 0, 0) ∧ up.barGate env .steward r 0 = none ∧ r.layout.base < 2 ^ 26) := by
  decide +kernel

theorem witness_quiet : ∀ k < 2, let q := max 1 (up.getF F.AY_CFG.QUIET_TICKS 0)
    let d : Die := { up.setF F.AY_STATUS.QUIET_COUNT 0 (q - 1 + k) with ay := { quiet := true } }
    d.ay.quiet = true ∧ d.bt.inWarm = false ∧ (max 1 (d.getF F.AY_CFG.QUIET_TICKS 0) ≤ d.getF F.AY_STATUS.QUIET_COUNT 0 ↔ k = 1) := by decide +kernel

theorem witness_watchdog : (∀ r ∈ ([.AY_WDOG, .AY_CFG, .AY_ALARM, .AY_INJECT] : List Reg), up.barGate env .steward r 0 = none) ∧
    (∀ k ∈ [9, 10], let d : Die := { (up.setF F.AY_CFG.WDOG_TICKS 0 10).setF F.AY_WDOG.ARMED 0 1 with ay := { kicks := k } }
      d.bit F.AY_WDOG.ARMED 0 = true ∧ d.getF F.AY_CFG.WDOG_TICKS 0 ≠ 0 ∧ (d.getF F.AY_CFG.WDOG_TICKS 0 ≤ d.ay.kicks ↔ k = 10) ∧ d.bit F.AY_STATUS.HANDLING 0 = false) ∧
    (up.setF F.AY_CFG.WDOG_TICKS 0 0).getF F.AY_CFG.WDOG_TICKS 0 = 0 := by decide +kernel

theorem witness_injection : (inLc 1 false).d.mayInject .tap = true ∧ (inLc 2 false).d.mayInject .tap = false ∧ up.mayInject .steward = true ∧
    (let v : Word := BitVec.ofNat 64 (16 + 0x0703 * 65536)
     fieldOf v 4 1 = 1 ∧ fieldOf v 0 2 = 0 ∧ (inLc 1 false).d.injectOk env v = true ∧ (inLc 2 false).d.injectOk env v = false) ∧
    (let d := (up.setF F.AY_INJECT_ADDR.LINE 0 (2 ^ 18)).setF F.SM_POT.STATE 1 4
     let v : Word := 16 + 4 + 1
     fieldOf v 0 2 = 1 ∧ d.injectOk env v = true ∧ d.bit F.AY_INJECT.ARM 0 = false) ∧
    (up.setF F.AY_INJECT.ARM 0 1).bit F.AY_INJECT.ARM 0 = true ∧ fieldOf (0 : Word) 4 1 = 0 := by decide +kernel

/-! ### Witnesses: the Counting House -/

theorem witness_counting : (∀ r ∈ ([.CH_CLEAR, .CH_FREEZE_CTL, .CH_TIME_LOAD] : List Reg), up.barGate env .steward r 0 = none) ∧
    up.barGate env .steward .CH_BWMON 63 = none ∧ up.barGate env .steward .CH_BWPEAK 63 = none ∧
    (let v : Word := BitVec.ofNat 64 (64 + 65536 * 2)
     fieldOf v 0 13 = 64 ∧ fieldOf v 16 13 = 2 ∧ counterHere env 64 = true ∧ counterHere env 65 = true) ∧
    (∀ k < 2, let d := up.setF F.CH_FREEZE_TIME.TIME 0 (env.now - 1 + k)
      d.bit F.CH_FREEZE_CTL.ARM 0 = false ∧ fieldOf (1 : Word) 0 1 = 1 ∧ (d.getF F.CH_FREEZE_TIME.TIME 0 < env.now ↔ k = 0)) ∧
    (∀ k < 2, let d := (up.setF F.CH_FREEZE_TIME.TIME 0 (env.now + k)).setF F.CH_FREEZE_CTL.ARM 0 1
      d.bit F.CH_FREEZE_CTL.ARM 0 = true ∧ (d.getF F.CH_FREEZE_TIME.TIME 0 ≤ env.now ↔ k = 0)) ∧
    fieldOf (BitVec.ofNat 64 (2 ^ 63) : Word) 63 1 = 1 ∧ fieldOf (0 : Word) 63 1 = 0 ∧ env.fwSeal = false := by decide +kernel

theorem witness_monitors : ∀ k < 3, let d : Die := { up.setF F.CH_BWMON.WINDOW_US 63 10 with ch := { mons := [(63, (7, (up.setF F.CH_BWMON.WINDOW_US 63 10).monWindow 63 env.now - k, true))] } }
    d.getF F.CH_BWMON.WINDOW_US 63 ≠ 0 ∧ ((Tab.get (0, 0, false) d.ch.mons 63).2.1 < d.monWindow 63 env.now ↔ k ≠ 0) := by decide +kernel

/-! ### Witnesses: reset and start-up -/

/-- The die of a phase in which nothing is due before a time. -/
def phaseSince (n since : Nat) : Die := { (inPhase n).d with bt := { (inPhase n).d.bt with phaseAt := since } }

theorem witness_resets : State.reset.d.bt.pwrGood = false ∧ up.bt.pwrGood = true ∧ 3 ≤ up.phase ∧ up.se.prog = none ∧
    (let v : Word := BitVec.ofNat 64 (0x5253 * 2 ^ 48 + 1)
     fieldOf v 48 16 = 0x5253 ∧ fieldOf v 0 1 = 1 ∧ fieldOf v 1 1 = 0) ∧ (let v : Word := BitVec.ofNat 64 (0x5253 * 2 ^ 48 + 2)
     fieldOf v 0 1 = 0 ∧ fieldOf v 1 1 = 1) ∧ fieldOf (3 : Word) 0 1 + fieldOf (3 : Word) 1 1 ≠ 1 := by decide +kernel

theorem witness_phases : (∀ n ∈ [0, 1, 4, 5], (inPhase n).d.phase = n ∧ (inPhase n).d.bt.pwrGood = true) ∧ chooseSettings [] [] = none ∧
    (∀ k < 2, ((phaseSince 1 (env.now - 2000000000 + k)).bt.phaseAt + 2000000000 ≤ env.now ↔ k = 0)) ∧
    (let b : List Byte := bytesLE 4 0x53545447 ++ bytesLE 4 1 ++ bytesLE 4 0 ++ bytesLE 4 64
     let c := b ++ bytesLE 4 (crc32c (b.map BitVec.toNat ++ [0, 0, 0, 0] ++ List.replicate 44 0)) ++ List.replicate 44 0
     chooseSettings [] c = some (c, true) ∧ chooseSettings c [] = some (c, false)) := by decide +kernel

theorem witness_mailbox : (∀ n ∈ [2 ^ 21 - 4, 2 ^ 21 - 8], n % 4 = 0 ∧ (n + 4 ≤ 2 ^ 21)) ∧ (2 ^ 21 - 6) % 4 ≠ 0 ∧ (inPhase 3).d.phase = 3 ∧ 5 ≤ up.phase ∧ 8188 + 4 ≤ 8192 ∧ (inPhase 2).d.phase < 3 ∧
    up.barGate env .steward .ST_MBOX_CTL 0 = none ∧ (inPhase 3).d.barGate env .pf .ST_MBOX_CTL 0 = none ∧ (inPhase 5).d.barGate env .steward .ST_SEAL 0 = none ∧
    fieldOf (BitVec.ofNat 64 (2 ^ 24) : Word) 24 1 = 1 ∧ fieldOf (BitVec.ofNat 64 (2 ^ 32) : Word) 32 1 = 1 ∧ fieldOf (BitVec.ofNat 64 (2 ^ 33) : Word) 33 1 = 1 := by decide +kernel

/-- A signed image in the mailbox of a die whose OTP holds its key's hash. -/
def imageIn : State :=
  let h := sha384 idKey
  { env := { env with otp := (List.range 6).map (fun j => (5 + j, BitVec.ofNat 64 (natLE ((h.drop (8 * j)).take 8)))) },
    d := { (inPhase 4).d.setF F.ST_MBOX_CTL.LENGTH 0 448 with
      bt := { pwrGood := true, mbox := (imageHead ++ signed_ ++ List.replicate 32 0 ++ idKey ++ idKey).zipIdx.filterMap (fun (x : Nat × Nat) => if x.1 = 0 then none else some (x.2, BitVec.ofNat 8 x.1)) } } }

theorem witness_authResults : imageIn.d.phase = 4 ∧ imageIn.d.authResult imageIn.env = 1 := by decide +kernel

theorem witness_authRefuses : (inPhase 4).d.phase = 4 ∧ (inPhase 4).d.authResult env ≠ 1 := by decide +kernel

end Sys2Proof.Tests
namespace Sys2Proof.Tests

open Sys2Proof Sys2Proof.Machine

set_option maxRecDepth 20000
set_option Elab.async false

/-! ### Ill-formed terms, one for each check of WellFormed, and the nearest well-formed one -/

theorem test_wf_registerWrite : (Instr.registerWrite .pf 12 0).wf = false ∧ (Instr.registerWrite .pf 8 0).wf = true := by decide
theorem test_wf_recordRearm : (Instr.recordRearm .pf 4 1).wf = false ∧ (Instr.recordRearm .pf 8 1).wf = true := by decide
theorem test_wf_interpolatorLock : (Instr.interpolatorLock 9).wf = false ∧ (Instr.interpolatorLock 8).wf = true := by decide
theorem test_wf_regionCtl : (Instr.stRegionCtlWrite .pf 9 0).wf = false ∧ (Instr.stRegionCtlWrite .pf 8 0).wf = true := by decide
theorem test_wf_hostWho : (Instr.hostPortRequest (hq .steward .mem false 0 8)).wf = false ∧ (Instr.hostPortRequest (hq (.vf 63) .mem false 0 8)).wf = true := by decide
theorem test_wf_hostLength : (Instr.hostPortRequest (hq .pf .mem false 0 0)).wf = false ∧ (Instr.hostPortRequest (hq .pf .mem false 0 1025)).wf = false ∧
    (Instr.hostPortRequest (hq .pf .mem false 0 1024)).wf = true := by decide
theorem test_wf_hostWriteBytes : (Instr.hostPortRequest { hq .pf .mem true 0 8 with data := [1] }).wf = false ∧ (Instr.hostPortRequest (hq .pf .mem true 0 8)).wf = true := by decide
theorem test_wf_hostReadBytes : (Instr.hostPortRequest { hq .pf .mem false 0 8 with data := [1] }).wf = false := by decide
theorem test_wf_mcRead : (Instr.mcRead 0 [(72, 1)]).wf = false ∧ (Instr.mcRead 0 [(71, 1)]).wf = true := by decide
theorem test_wf_report : (Instr.assayReport (rep 43 none none)).wf = false ∧ (Instr.assayReport { rep 42 none none with inst := 256 }).wf = false ∧
    (Instr.assayReport (rep 42 (some 4096) none)).wf = false ∧ (Instr.dieLine (rep 42 none (some 512))).wf = false ∧ (Instr.dieLine (rep 42 (some 4095) (some 511))).wf = true := by decide
theorem test_wf_creditReturn : (Instr.creditReturn 81 0).wf = false ∧ (Instr.creditReturn 80 2).wf = false ∧ (Instr.creditReturn 0 6).wf = false ∧ (Instr.creditReturn 80 1).wf = true := by decide
theorem test_wf_mailbox : (Instr.mboxDataWrite .pf 2097148 [0, 0, 0, 0, 0]).wf = false ∧ (Instr.mboxDataWrite .pf 2097148 [0, 0, 0, 0]).wf = true := by decide

/-! ### Worked examples of the manual -/

/-- The example after R205: address 0x0004_0000_2080 is homed at LC slice 8, set 513, directory set 1, and lies in page 512 of stack 0. -/
theorem test_home : let l := 0x400002080 / 128
    up.home env l = 8 ∧ up.lcSet env l = 513 ∧ up.dirSet env l = 1 ∧ pageOfLine l = 512 ∧ stackOf 512 = 0 := by decide +kernel

/-- The example after R317: an MXFP8 E4M3 block with elements 6.0 and 0.75 has scale byte 0x79 and elements 0x7C and 0x64. -/
theorem test_mxBlock : let vs := [elemFV 0 0x40C00000, elemFV 0 0x3F400000, .fin false 0 0]
    mxScale 8 vs = some (-6) ∧ (121 : Int) - 127 = -6 ∧ vs.map (fun v => (mxEncode 8 .nearest (-6) v).1) = [0x7C, 0x64, 0] := by decide +kernel

/-- The example after R325: a BF16 element of 256 with +1 rounds to 256, and with −2 becomes 254. -/
theorem test_bf16Order : (bf16.encode .nearest false (addFp32 (elemFV 1 0x4380) (elemFV 1 0x3F80))).1 = 0x4380 ∧
    (bf16.encode .nearest false (addFp32 (elemFV 1 0x4380) (elemFV 1 0xC000))).1 = 0x437E := by decide +kernel

/-- The example after R143: armed with DEADLINE_NS 120,000,000, a command of EST_US 12,000 that starts at 110,000,000 ns leaves a slack of −2,000,000. -/
theorem test_slack : let s := with_ (desc Op.NOP 0 0 0 0 0 0 0 ||| BitVec.ofNat 512 (2 ^ 32 * 12000)) .fetched
    let at110 := fun (dl : Nat) => ({ env := { tq := 65536 * 110000000 }, d := (({ s.d with sf := { s.d.sf with rings := [(0, { dlNs := dl })] } } : Die).setF F.TY_RING_DL.ARMED 0 1),
                                      pending := [.nop 1] } : State)
    let pends := fun (dl : Nat) => match step (at110 dl) with | .next t => t.d.getF F.TY_RING_DL.SWITCH_PENDING 0 | _ => 9
    pends 120000000 = 1 ∧ pends 122000000 = 0 := by decide +kernel

/-- The example after R201: T1 = 1,000,000,000, T2 = …1,260, T3 = …1,300 and T4 = …0,580 give a lead of 990 ns, below STEP_NS, that is slewed. -/
theorem test_timeExchange : let e : Env := { env9 with tq := 65536 * 1000000580 }
    let pay := bytesLE 8 1000000000 ++ bytesLE 8 1000001260 ++ bytesLE 8 1000001300 ++ bytesLE 8 256
    let s : State := { env := e, d := { follower 0 with we := { timeT1 := some 1000000000 } }, pending := [.timeRsp 15 (packet 0x11 9 0 0 0 pay)] }
    (match step s with | .next t => (t.env.slew, t.d.getF F.WE_TIME_STATUS.OFFSET_NS 0, t.env.now) | _ => (0, 0, 0)) = (990 * 65536, 990, 1000000580) := by decide +kernel

/-- Table 11.6: only its words are states, and every other word is LOCKED. -/
theorem test_lifeCycleWords : [0, 0x3C96, 0xA55A3C96, 0x6C93A55A3C96, 0xFFFFFFFFFFFFFFFF, 0x3C97].map lcDecode = [0, 1, 2, 3, 4, 7] := by decide

/-- Reset values that the register tables state. -/
theorem test_resetValues : let d := State.reset.d
    d.phase = 0 ∧ d.getF F.TY_CFG.QUANTUM_US 0 = 250 ∧ d.getF F.MC_CFG.GUAR_LIMIT_GBPS 7 = 1638 ∧ d.getF F.WE_TIME_CFG.STEP_NS 0 = 10000 ∧ State.reset.pending = [] := by decide +kernel

/-! ### Published values of the algorithms the manual names -/

/-- The check values of CRC-32C and CRC-64/XZ over the digits 1 to 9. -/
theorem test_crcs : crc32c [49, 50, 51, 52, 53, 54, 55, 56, 57] = 0xE3069283 ∧ crc64xz [49, 50, 51, 52, 53, 54, 55, 56, 57] = 0x995DC9BBDF1939FA := by decide +kernel

/-- FIPS 180-4: SHA-384 of the bytes of abc. -/
theorem test_sha384 : natBE (sha384 [97, 98, 99]) =
    0xcb00753f45a35e8bb5a03d699ac65007272c32ab0eded1631a8b605a43ff5bed8086072ba1e7cc2358baeca134c825a7 := by decide +kernel

/-- FIPS 197, appendix C.3: AES-256. -/
theorem test_aes256 : natBE (aesEnc (aesRoundKeys (List.range 32)) ((List.range 16).map (· * 17))) = 0x8ea2b7ca516745bfeafc49904b496089 := by decide +kernel

/-- The order of P-384 times its base point is the point at infinity, and a signature does not pass for another message. -/
theorem test_p384 : ptMul 384 p384n p384G = none ∧ ecdsaVerify idKey signed_ (sha384 [1]) = false := by decide +kernel

/-! ### Single steps -/

/-- NOP ends with OK; on an empty queue one 25 MHz period of 40 ns passes. -/
theorem test_steps : (match step { with_ (desc Op.NOP 0 0 0 0 0 0 0) .fetched with pending := [.nop 1] } with
      | .next t => (t.d.cmd 1).map (fun c => (c.status, decide (c.st = .done))) | _ => none) = some (0, true) ∧
    (match step (at_ up) with | .next t => t.env.now - env.now | _ => 0) = 40 := by decide +kernel

/-- A doorbell of the privileged function moves the tail of context 0's first ring (R51). -/
theorem test_doorbell : (match exec (.doorbell .pf 0 8 5) (at_ (ring0 up)) with | .next t => t.d.tail 0 | _ => 0) = 5 := by decide +kernel

/-- A FILL writes its pattern, little-endian: the tile of 64 bytes at byte 0 of page 2, read back through the home. -/
theorem test_fill : (match exec (.dmeTile 0) (onDme (desc Op.FILL 0 0 0 64 0x1122334455667788 0 0)) with
    | .next t => (match attempt t.env t.d .other (readOnceAt 524288 { id := 136, use := .other }) with | .ok x _ => bitsOf x.toNat 0 80 | _ => 0)
    | _ => 0) = 0x77881122334455667788 := by decide +kernel

end Sys2Proof.Tests
end

section
/-! PROOF. Frames: what the wake of a region and the state of a context leave as they were, and a write that its gate lets through. -/

namespace Sys2Proof.Machine

/-- A register reads by the register tables alone. -/
theorem Die.reg_of_regs_eq {d t : Die} (h : t.regs = d.regs) (r : Reg) (i w : Nat) : t.reg r i w = d.reg r i w := by
  unfold Die.reg; rw [h]

theorem Die.getF_of_regs_eq {d t : Die} (h : t.regs = d.regs) (f : Fld) (i : Nat) : t.getF f i = d.getF f i := by
  unfold Die.getF; rw [Die.reg_of_regs_eq h]

/-- A part of the die that none of the operations a wake trigger consists of changes is kept by it. -/
theorem Die.wake_keeps {γ : Type} (g : Die → γ) (e : Env) (r : Nat)
    (hset : ∀ (y : Die) (f : Fld) (v : Nat), f.reg = .ST_REGION_STATUS → g (y.setF f r v) = g y)
    (hpower : ∀ (y : Die) (p : Power), g (y.setPower r p) = g y) (hsend : ∀ (y : Die) (m : Msg), g (y.send m) = g y)
    (hself : ∀ (y : Die) (l : List Nat) (fl : List Flush), g { y with mem.selfRef := l, coh.flushes := fl } = g y)
    (hawake : ∀ y : Die, g (y.awake e r) = g y) (d : Die) : g (d.wake e r) = g d := by
  have hinc : ∀ (y : Die) (f : Fld) (v : Nat), f.reg = .ST_REGION_STATUS → g (y.incSat f r v) = g y := fun y f v h => hset y f _ h
  unfold Die.wake
  extract_lets p d₁ p₁ d₂
  have h₁ : g d₁ = g d := hpower _ _
  split
  · rw [hsend, hpower, hinc _ _ _ rfl, hset _ _ _ rfl, h₁]
  · split
    · split
      · have h₂ : g d₂ = g d := by
          unfold d₂
          split
          · rw [hsend, h₁]
          · exact h₁
        rw [hawake, hpower, hinc _ _ _ rfl, hset _ _ _ rfl, hself, h₂]
      · rw [hpower, h₁]
    · exact h₁

theorem Die.wake_sf (e : Env) (d : Die) (r : Nat) : (d.wake e r).sf = d.sf :=
  Die.wake_keeps (fun y : Die => y.sf) e r (fun y f v _ => Die.setF_sf y f r v) (fun y p => Die.setPower_sf y r p) Die.send_sf
    (fun _ _ _ => rfl) (fun _ => rfl) d

theorem Die.wake_dram (e : Env) (d : Die) (r : Nat) : (d.wake e r).mem.dram = d.mem.dram :=
  Die.wake_keeps (fun y : Die => y.mem.dram) e r (fun _ _ _ _ => rfl) (fun _ _ => rfl) (fun _ _ => rfl) (fun _ _ _ => rfl) (fun _ => rfl) d

/-- A wake trigger writes ST_REGION_STATUS and no other register. -/
theorem Die.reg_wake (e : Env) (d : Die) (n : Nat) (r : Reg) (i w : Nat) (h : r ≠ .ST_REGION_STATUS) :
    (d.wake e n).reg r i w = d.reg r i w :=
  Die.wake_keeps (fun y : Die => y.reg r i w) e n (fun y f v hf => Die.reg_setF_other y f r n v i w (hf ▸ h))
    (fun y p => Die.reg_of_regs_eq (Die.setPower_regs y n p) r i w) (fun y m => Die.reg_send y m r i w)
    (fun _ _ _ => Die.reg_of_regs_eq rfl r i w) (fun _ => Die.reg_of_regs_eq rfl r i w) d

/-- The state of a context follows what it holds, or stays. -/
theorem Die.ctxPump_cases (d : Die) (c : Nat) : d.ctxPump c = d ∨ ∃ st, d.ctxPump c = d.setCtxState c st := by
  unfold Die.ctxPump
  dsimp only
  split
  · exact .inl rfl
  · split
    · exact .inr ⟨2, rfl⟩
    · split
      · exact .inr ⟨3, rfl⟩
      · split
        · exact .inr ⟨1, rfl⟩
        · exact .inr ⟨0, rfl⟩

/-- A part of the die that no change of the context's state touches is kept. -/
theorem Die.ctxPump_keeps {γ : Type} (g : Die → γ) (c : Nat) (h : ∀ y st, g (Die.setCtxState y c st) = g y) (d : Die) :
    g (d.ctxPump c) = g d := by
  rcases Die.ctxPump_cases d c with hd | ⟨st, hd⟩
  · rw [hd]
  · rw [hd, h]

theorem Die.ctxPump_dram (d : Die) (c : Nat) : (d.ctxPump c).mem.dram = d.mem.dram :=
  Die.ctxPump_keeps (fun y : Die => y.mem.dram) c (fun _ _ => rfl) d

/-- The state of a context stands in SF_CTX_STATUS and in no other register. -/
theorem Die.reg_ctxPump (d : Die) (c : Nat) (r : Reg) (i w : Nat) (h : r ≠ .SF_CTX_STATUS) : (d.ctxPump c).reg r i w = d.reg r i w :=
  Die.ctxPump_keeps (fun y : Die => y.reg r i w) c (fun _ _ => Die.reg_setF_other _ _ _ _ _ _ _ h) d

/-- A write that the gate lets through acts on the die. -/
theorem Die.barWrite_of_gate {e : Env} {d : Die} {who : Who} {r : Reg} {i : Nat} (act : Die → Die) (h : d.barGate e who r i = none) :
    d.barWrite e who r i act = act d := by
  unfold Die.barWrite; rw [h]

end Sys2Proof.Machine
end

section
/-! PROOF. A doorbell write at a die whose command rings are open (R50, R51): who owns the page, when the value fits the ring, and what
an accepted write leaves as it was. -/

namespace Sys2Proof.Machine

/-! ### The write that is accepted -/

/-- The regions on which the work of a context is placed wake (R41). -/
def Die.wakePlaces (e : Env) (d : Die) (c : Nat) : Die :=
  match d.sliceOf c with
  | some sl => (d.placeRegions e sl).foldl (Die.wake e) d
  | none => d

theorem Die.wakePlaces_some (e : Env) (d : Die) (c sl : Nat) (h : d.sliceOf c = some sl) :
    d.wakePlaces e c = (d.placeRegions e sl).foldl (fun d r => d.wake e r) d := by
  unfold Die.wakePlaces; rw [h]

theorem Die.wakePlaces_none (e : Env) (d : Die) (c : Nat) (h : d.sliceOf c = none) : d.wakePlaces e c = d := by
  unfold Die.wakePlaces; rw [h]

/-- An accepted doorbell write: TAIL takes the value, a ring with work wakes its regions, and the state of its context follows. -/
def Die.moveTail (e : Env) (d : Die) (c n x : Nat) : Die :=
  let d := (d.setF F.SF_RING_STATUS.TAIL n x).count 3856 1
  (if d.head n ≠ d.tail n then d.wakePlaces e c else d).ctxPump c

/-- A part of the die that no wake changes is kept when the regions of a context wake. -/
theorem Die.wakePlaces_keeps {γ : Type} (g : Die → γ) (e : Env) (h : ∀ d r, g (Die.wake e d r) = g d) (d : Die) (c : Nat) :
    g (d.wakePlaces e c) = g d := by
  cases hs : d.sliceOf c with
  | none => rw [Die.wakePlaces_none e d c hs]
  | some sl => rw [Die.wakePlaces_some e d c sl hs, foldl_keeps g _ h]

/-- A part of the die that neither the write of TAIL, its count, a wake nor the state of a context changes is kept. -/
theorem Die.moveTail_keeps {γ : Type} (g : Die → γ) (e : Env) (d : Die) (c n x : Nat)
    (hset : g ((d.setF F.SF_RING_STATUS.TAIL n x).count 3856 1) = g d) (hwake : ∀ y r, g (Die.wake e y r) = g y)
    (hpump : ∀ y, g (y.ctxPump c) = g y) : g (d.moveTail e c n x) = g d := by
  unfold Die.moveTail
  dsimp only
  rw [hpump]
  split
  · rw [Die.wakePlaces_keeps g e hwake, hset]
  · exact hset

theorem Die.moveTail_sf (e : Env) (d : Die) (c n x : Nat) : (d.moveTail e c n x).sf = d.sf :=
  Die.moveTail_keeps (fun y : Die => y.sf) e d c n x ((Die.count_sf _ _ _).trans (Die.setF_sf _ _ _ _)) (Die.wake_sf e) (fun y => Die.ctxPump_sf y c)

theorem Die.moveTail_dram (e : Env) (d : Die) (c n x : Nat) : (d.moveTail e c n x).mem.dram = d.mem.dram :=
  Die.moveTail_keeps (fun y : Die => y.mem.dram) e d c n x (congrArg Mem.dram ((Die.count_mem _ _ _).trans (Die.setF_mem _ _ _ _))) (Die.wake_dram e) (fun y => Die.ctxPump_dram y c)

theorem Die.moveTail_keepsRegs (e : Env) (d : Die) (c n x : Nat) :
    keepsRegs d (d.moveTail e c n x) [.SF_RING_STATUS, .SF_CTX_STATUS, .ST_REGION_STATUS] := by
  intro r hr i w
  simp only [List.mem_cons, List.not_mem_nil, or_false, not_or] at hr
  obtain ⟨hring, hctx, hregion⟩ := hr
  refine Die.moveTail_keeps (fun y : Die => y.reg r i w) e d c n x ?_ (fun y k => Die.reg_wake e y k r i w hregion)
    (fun y => Die.reg_ctxPump y c r i w hctx)
  rw [Die.reg_count, Die.reg_setF_other _ _ _ _ _ _ _ hring]

/-- After the accepted write SF_RING_STATUS is what the write of TAIL made it. -/
theorem Die.getF_moveTail_ring (e : Env) (d : Die) (c n x : Nat) (f : Fld) (hf : f.reg = .SF_RING_STATUS) (i : Nat) :
    (d.moveTail e c n x).getF f i = (d.setF F.SF_RING_STATUS.TAIL n x).getF f i := by
  have hwake : ∀ (y : Die) (k : Nat), (Die.wake e y k).getF f i = y.getF f i := fun y k => by
    unfold Die.getF; rw [Die.reg_wake _ _ _ _ _ _ (by rw [hf]; decide)]
  have hpump : ∀ y : Die, (y.ctxPump c).getF f i = y.getF f i := fun y => by
    unfold Die.getF; rw [Die.reg_ctxPump _ _ _ _ _ (by rw [hf]; decide)]
  unfold Die.moveTail
  dsimp only
  rw [hpump]
  split
  · rw [Die.wakePlaces_keeps (fun y : Die => y.getF f i) e hwake, Die.getF_count]
  · rw [Die.getF_count]

theorem Die.tail_moveTail (e : Env) (d : Die) (c n x : Nat) (hx : x < 2 ^ 32) : (d.moveTail e c n x).tail n = x := by
  unfold Die.tail
  rw [Die.getF_moveTail_ring e d c n x _ rfl, Die.getF_setF_same _ _ _ _ (by decide)]
  exact Nat.mod_eq_of_lt hx

theorem Die.head_moveTail (e : Env) (d : Die) (c n x : Nat) : (d.moveTail e c n x).head n = d.head n := by
  unfold Die.head
  rw [Die.getF_moveTail_ring e d c n x _ rfl]
  exact Die.getF_setF_ne _ _ _ _ _ _ (by decide) (.inr (.inr ⟨rfl, .inl (by decide)⟩))

/-! ### Who may ring, and what is answered -/

/-- The requester owns the doorbell page of the context (R92): it is privileged, or of the slice of a valid context that is no kernel
context. -/
def Die.ownsPage (d : Die) (who : Who) (c : Nat) : Bool :=
  match d.resolve who with
  | .privileged => true
  | .slice sl => !(d.isKernelCtx c) && decide (d.ctxSlice c = sl) && d.ctxValid c
  | .unbound => false

theorem Die.ownsPage_iff (d : Die) (who : Who) (c : Nat) : d.ownsPage who c = true ↔
    d.resolve who = .privileged ∨ ∃ sl, d.resolve who = .slice sl ∧ d.isKernelCtx c = false ∧ d.ctxSlice c = sl ∧ d.ctxValid c = true := by
  unfold Die.ownsPage
  cases d.resolve who with
  | privileged => simp
  | slice sl =>
    simp only [reduceCtorEq, Owner.slice.injEq, exists_eq_left', false_or, Bool.and_eq_true, Bool.not_eq_true', decide_eq_true_eq, and_assoc]
  | unbound => simp

/-- The value exceeds neither HEAD nor TAIL by more than the ring's size, and the context takes work (R50). -/
abbrev Die.fitsRing (d : Die) (c n x : Nat) : Prop :=
  x < 2 ^ 32 ∧ (x + 2 ^ 32 - d.head n) % 2 ^ 32 ≤ 2 ^ d.getF F.SF_RING_CTL.LOG2_SIZE n ∧
    (x + 2 ^ 32 - d.tail n) % 2 ^ 32 ≤ 2 ^ d.getF F.SF_RING_CTL.LOG2_SIZE n ∧ d.usable c = true ∧ d.ctxState c ≠ 5

/-- What an owner's aligned write to a doorbell slot of the context leads to: it moves TAIL of the slot's ring where the value fits. -/
def Die.ringBell (e : Env) (d : Die) (c slot x : Nat) : Die :=
  (d.ringAt c slot).elim d.badDoorbell (fun n => if d.fitsRing c n x then d.moveTail e c n x else d.badDoorbell)

theorem exec_doorbell_arm (s : State) (who : Who) (off : BitVec 24) (len : BitVec 7) (v : Word) :
    exec (.doorbell who off len v) s = execDoorbell who off len v s := rfl

/-- From phase 5 on the write of a bound requester is discarded where it is no aligned 64-bit write or where the requester does not own
the page, and rings the slot's bell otherwise (R50, R51, R92). -/
theorem exec_doorbell (s : State) (who : Who) (off : BitVec 24) (len : BitVec 7) (v : Word) (hp : 5 ≤ s.d.phase)
    (hbound : s.d.resolve who ≠ .unbound) : exec (.doorbell who off len v) s = .next { s with d :=
      (if len.toNat ≠ 8 ∨ off.toNat % 8 ≠ 0 ∨ !(s.d.ownsPage who (off.toNat / 4096)) then s.d.badDoorbell
       else s.d.ringBell s.env (off.toNat / 4096) (off.toNat % 4096 / 8) v.toNat) } := by
  have h3 : ¬ s.d.phase < 3 := by omega
  have h5 : ¬ s.d.phase < 5 := by omega
  rw [exec_doorbell_arm]
  unfold execDoorbell Die.ringBell
  dsimp only
  rw [if_neg (fun h => h3 h.2.2.2), if_neg h5, if_neg hbound]
  refine congrArg s.go ?_
  refine if_congr Iff.rfl rfl ?_
  cases s.d.ringAt (off.toNat / 4096) (off.toNat % 4096 / 8) with
  | none => rfl
  | some n =>
    refine if_congr Iff.rfl ?_ rfl
    unfold Die.moveTail
    dsimp only
    generalize Die.count _ _ _ = y
    refine congrArg (fun y : Die => y.ctxPump _) (if_congr Iff.rfl ?_ rfl)
    cases h : y.sliceOf (off.toNat / 4096) with
    | none => exact (Die.wakePlaces_none s.env y _ h).symm
    | some sl => exact (Die.wakePlaces_some s.env y _ sl h).symm

/-! ### O17 -/

/-- Settles O17: each of its four cases is one branch of `exec_doorbell`. -/
theorem doorbellMovesTailOrIsDiscarded : Obligations.DoorbellMovesTailOrIsDiscarded := by
  unfold Obligations.DoorbellMovesTailOrIsDiscarded
  intro s who off len v c owns fits discarded hp
  have howns : owns ↔ s.d.ownsPage who c = true := (Die.ownsPage_iff _ _ _).symm
  have hbound : owns → s.d.resolve who ≠ .unbound := by
    rintro (h | ⟨sl, h, -⟩) <;> simp [h]
  have hring : len = 8 → off.toNat % 8 = 0 → owns →
      exec (.doorbell who off len v) s = .next { s with d := s.d.ringBell s.env c (off.toNat % 4096 / 8) v.toNat } := by
    intro hlen halign ho
    rw [exec_doorbell s who off len v hp (hbound ho), if_neg]
    simp [hlen, halign, howns.1 ho, c]
  refine ⟨?_, ?_, ?_, ?_⟩
  · intro n hlen halign ho hn hfits
    have hmoved : s.d.ringBell s.env c (off.toNat % 4096 / 8) v.toNat = s.d.moveTail s.env c n v.toNat := by
      unfold Die.ringBell
      rw [hn]
      exact if_pos hfits
    refine ⟨{ s with d := s.d.moveTail s.env c n v.toNat }, by rw [hring hlen halign ho, hmoved], Die.tail_moveTail _ _ _ _ _ hfits.1,
      Die.head_moveTail _ _ _ _ _, Die.moveTail_keepsRegs _ _ _ _ _, Die.moveTail_sf _ _ _ _ _, Die.moveTail_dram _ _ _ _ _, rfl⟩
  · intro n hlen halign ho hn hunfit
    have hbad : s.d.ringBell s.env c (off.toNat % 4096 / 8) v.toNat = discarded := by
      unfold Die.ringBell
      rw [hn]
      exact if_neg hunfit
    rw [hring hlen halign ho, hbad]
  · intro ho hbad
    rw [exec_doorbell s who off len v hp (hbound ho)]
    by_cases hform : len = 8 ∧ off.toNat % 8 = 0
    · have hnone : s.d.ringAt c (off.toNat % 4096 / 8) = none := by
        rcases hbad with h | h | h
        · exact absurd hform.1 h
        · exact absurd hform.2 h
        · exact h
      unfold Die.ringBell
      rw [hnone]
      exact congrArg s.go (ite_self _)
    · have hodd : len.toNat ≠ 8 ∨ off.toNat % 8 ≠ 0 := by bv_omega
      rw [if_pos (or_assoc.1 (.inl hodd))]
      rfl
  · intro hb ho
    rw [exec_doorbell s who off len v hp hb, if_pos]
    · rfl
    · have : s.d.ownsPage who c = false := by rw [Bool.eq_false_iff]; exact fun h => ho (howns.2 h)
      simp [this, c]

end Sys2Proof.Machine
end

section
/-! PROOF. RESET and ABORT of a context (R46, R145): the rings that a reset disables, and what the steps of a teardown leave to the
context's epoch, translations and held accesses. -/

namespace Sys2Proof

/-- A key that a table does not list reads as the default. -/
theorem Tab.get_of_unlisted {α : Type} (d : α) (t : Tab α) (k : Nat) (h : ∀ x ∈ t, x.1 ≠ k) : Tab.get d t k = d := by
  induction t with
  | nil => rfl
  | cons x t ih =>
    rw [Tab.get, if_neg (Ne.symm (h x List.mem_cons_self))]
    exact ih (fun y hy => h y (List.mem_cons_of_mem _ hy))

end Sys2Proof

namespace Sys2Proof.Machine

/-! ### A write of a register changes the register tables alone -/

/-- The die without its register tables. -/
def Die.sansRegs (d : Die) : Die := { d with regs := [] }

theorem Die.eq_of_sansRegs {d t : Die} (h : t.sansRegs = d.sansRegs) : t = { d with regs := t.regs } := by
  have h' := congrArg (fun y : Die => { y with regs := t.regs }) h
  exact h'

@[simp] theorem Die.sansRegs_setReg (d : Die) (r : Reg) (i w : Nat) (v : Word) : (d.setReg r i w v).sansRegs = d.sansRegs := rfl
@[simp] theorem Die.sansRegs_setF (d : Die) (f : Fld) (i v : Nat) : (d.setF f i v).sansRegs = d.sansRegs := rfl
@[simp] theorem Die.sansRegs_setCtxState (d : Die) (c st : Nat) : (d.setCtxState c st).sansRegs = d.sansRegs := rfl

theorem Die.sansRegs_clearElem (d : Die) (r : Reg) (i : Nat) : (d.clearElem r i).sansRegs = d.sansRegs := by
  unfold Die.clearElem
  exact foldl_keeps Die.sansRegs _ (fun y w => Die.sansRegs_setReg y r i w _) _ _

theorem Die.reg_clearElem_other (d : Die) (r r' : Reg) (i j w : Nat) (h : r' ≠ r) : (d.clearElem r i).reg r' j w = d.reg r' j w := by
  unfold Die.clearElem
  exact foldl_keeps (fun y : Die => y.reg r' j w) _ (fun y x => Die.reg_setReg_other y r r' i x j w _ h) _ _

theorem Die.sansRegs_clearCtxRecs (d : Die) (c : Nat) : (d.clearCtxRecs c).sansRegs = d.sansRegs := by
  unfold Die.clearCtxRecs
  rw [Die.sansRegs_clearElem, Die.sansRegs_clearElem]

theorem Die.reg_clearCtxRecs_other (d : Die) (c : Nat) (r : Reg) (j w : Nat) (ha : r ≠ .AY_CTX_REC) (hw : r ≠ .WE_WERR) :
    (d.clearCtxRecs c).reg r j w = d.reg r j w := by
  unfold Die.clearCtxRecs
  rw [Die.reg_clearElem_other _ _ _ _ _ _ hw, Die.reg_clearElem_other _ _ _ _ _ _ ha]

/-! ### The rings of a context -/

/-- An element that a register does not list reads as at reset. -/
theorem Die.reg_of_unlisted (d : Die) (r : Reg) (n w : Nat) (hw : w < 8) (h : n ∉ d.listed r) : d.reg r n w = r.resetWord w := by
  refine Tab.get_of_unlisted _ _ _ fun x hx hk => h ?_
  unfold Die.listed
  rw [List.mem_eraseDups, List.mem_map]
  exact ⟨x, hx, by omega⟩

theorem Die.mem_allRings (d : Die) (c n : Nat) : n ∈ d.allRings c ↔
    (n ∈ d.listed .SF_RING_CTL ∨ n ∈ d.listed .SF_RING_STATUS) ∧ d.getF F.SF_RING_CTL.CONTEXT n = c := by
  unfold Die.allRings
  rw [List.mem_filter, List.mem_eraseDups, List.mem_append, decide_eq_true_eq]

/-- A ring disabled, with HEAD and TAIL 0. -/
def Die.resetRing (d : Die) (n : Nat) : Die :=
  ((d.setF F.SF_RING_CTL.ENABLE n 0).setF F.SF_RING_STATUS.HEAD n 0).setF F.SF_RING_STATUS.TAIL n 0

/-- The ring is disabled and its HEAD and TAIL are 0. -/
def Die.ringIsReset (d : Die) (n : Nat) : Prop := d.getF F.SF_RING_CTL.ENABLE n = 0 ∧ d.head n = 0 ∧ d.tail n = 0

theorem Die.disableRings_eq (d : Die) (c : Nat) : d.disableRings c = (d.allRings c).foldl Die.resetRing d := rfl

theorem Die.sansRegs_resetRing (d : Die) (n : Nat) : (d.resetRing n).sansRegs = d.sansRegs := by
  unfold Die.resetRing
  rw [Die.sansRegs_setF, Die.sansRegs_setF, Die.sansRegs_setF]

/-- A reset of a ring writes word 0 of its two registers alone. -/
theorem Die.reg_resetRing_ne (d : Die) (n : Nat) (r : Reg) (m w : Nat)
    (h : (r ≠ .SF_RING_CTL ∧ r ≠ .SF_RING_STATUS) ∨ 8 * m + w ≠ 8 * n) : (d.resetRing n).reg r m w = d.reg r m w := by
  have hc : r ≠ .SF_RING_CTL ∨ 8 * m + w ≠ 8 * n + 0 := h.imp And.left id
  have hs : r ≠ .SF_RING_STATUS ∨ 8 * m + w ≠ 8 * n + 0 := h.imp And.right id
  unfold Die.resetRing Die.setF
  rw [Die.reg_setReg_ne _ _ _ _ _ _ _ _ hs, Die.reg_setReg_ne _ _ _ _ _ _ _ _ hs, Die.reg_setReg_ne _ _ _ _ _ _ _ _ hc]

theorem Die.ringIsReset_resetRing (d : Die) (n : Nat) : (d.resetRing n).ringIsReset n := by
  unfold Die.ringIsReset Die.head Die.tail Die.resetRing
  refine ⟨?_, ?_, ?_⟩
  · rw [Die.getF_setF_other _ _ _ _ _ _ (by decide), Die.getF_setF_other _ _ _ _ _ _ (by decide), Die.getF_setF_same _ _ _ _ (by decide)]
    rfl
  · rw [Die.getF_setF_ne _ F.SF_RING_STATUS.TAIL F.SF_RING_STATUS.HEAD _ _ _ (by decide) (.inr (.inr ⟨rfl, .inl (by decide)⟩)),
      Die.getF_setF_same _ _ _ _ (by decide)]
    rfl
  · rw [Die.getF_setF_same _ _ _ _ (by decide)]
    rfl

theorem Die.ringIsReset_resetRing_of (d : Die) (n m : Nat) (h : d.ringIsReset m) : (d.resetRing n).ringIsReset m := by
  by_cases hm : m = n
  · subst hm
    exact Die.ringIsReset_resetRing d m
  · have hkeep : ∀ f : Fld, f.word = 0 → (d.resetRing n).getF f m = d.getF f m := fun f hf => by
      unfold Die.getF
      rw [Die.reg_resetRing_ne d n f.reg m f.word (.inr (by omega))]
    unfold Die.ringIsReset Die.head Die.tail at *
    rwa [hkeep _ rfl, hkeep _ rfl, hkeep _ rfl]

/-- After a walk that resets rings, those walked and those that were reset before are reset. -/
theorem Die.ringIsReset_foldl (l : List Nat) (d : Die) (n : Nat) (h : n ∈ l ∨ d.ringIsReset n) : (l.foldl Die.resetRing d).ringIsReset n := by
  induction l generalizing d with
  | nil => exact h.resolve_left (List.not_mem_nil)
  | cons m l ih =>
    apply ih
    rcases h with h | h
    · rcases List.mem_cons.1 h with h | h
      · exact .inr (h ▸ Die.ringIsReset_resetRing d m)
      · exact .inl h
    · exact .inr (Die.ringIsReset_resetRing_of d m n h)

/-- A walk that resets rings leaves the registers of every other ring. -/
theorem Die.reg_foldl_resetRing (l : List Nat) (d : Die) (r : Reg) (n : Nat) (h : n ∉ l) :
    (l.foldl Die.resetRing d).reg r n 0 = d.reg r n 0 := by
  induction l generalizing d with
  | nil => rfl
  | cons m l ih =>
    rw [List.mem_cons, not_or] at h
    rw [List.foldl_cons, ih _ h.2, Die.reg_resetRing_ne _ _ _ _ _ (.inr (by omega))]

/-- A ring whose registers stand as at reset is disabled, with HEAD and TAIL 0. -/
theorem Die.ringIsReset_of_unlisted (d : Die) (n : Nat) (hc : n ∉ d.listed .SF_RING_CTL) (hs : n ∉ d.listed .SF_RING_STATUS) :
    d.ringIsReset n := by
  unfold Die.ringIsReset Die.head Die.tail Die.getF
  rw [Die.reg_of_unlisted d _ n _ (by decide) hc, Die.reg_of_unlisted d _ n _ (by decide) hs]
  decide

theorem Die.disableRings_resets (d : Die) (c n : Nat) (h : d.getF F.SF_RING_CTL.CONTEXT n = c) : (d.disableRings c).ringIsReset n := by
  rw [Die.disableRings_eq]
  apply Die.ringIsReset_foldl
  by_cases hl : n ∈ d.listed .SF_RING_CTL ∨ n ∈ d.listed .SF_RING_STATUS
  · exact .inl ((Die.mem_allRings d c n).2 ⟨hl, h⟩)
  · rw [not_or] at hl
    exact .inr (Die.ringIsReset_of_unlisted d n hl.1 hl.2)

theorem Die.reg_disableRings_other_ctx (d : Die) (c n : Nat) (r : Reg) (h : d.getF F.SF_RING_CTL.CONTEXT n ≠ c) :
    (d.disableRings c).reg r n 0 = d.reg r n 0 := by
  rw [Die.disableRings_eq]
  exact Die.reg_foldl_resetRing _ d r n (fun hn => h ((Die.mem_allRings d c n).1 hn).2)

theorem Die.reg_disableRings_other (d : Die) (c : Nat) (r : Reg) (i w : Nat) (hc : r ≠ .SF_RING_CTL) (hs : r ≠ .SF_RING_STATUS) :
    (d.disableRings c).reg r i w = d.reg r i w := by
  rw [Die.disableRings_eq]
  exact foldl_keeps (fun y : Die => y.reg r i w) _ (fun y n => Die.reg_resetRing_ne y n r i w (.inl ⟨hc, hs⟩)) _ _

theorem Die.sansRegs_disableRings (d : Die) (c : Nat) : (d.disableRings c).sansRegs = d.sansRegs := by
  rw [Die.disableRings_eq]
  exact foldl_keeps Die.sansRegs _ Die.sansRegs_resetRing _ _

/-! ### RESET -/

/-- What an accepted RESET leaves (R46). -/
def Die.resetCtx (d : Die) (c : Nat) : Die := ((d.disableRings c).setCtxState c 0).clearCtxRecs c

theorem Die.reg_resetCtx (d : Die) (c : Nat) (r : Reg) (i w : Nat) (hx : r ≠ .SF_CTX_STATUS) (ha : r ≠ .AY_CTX_REC) (hw : r ≠ .WE_WERR) :
    (d.resetCtx c).reg r i w = (d.disableRings c).reg r i w := by
  unfold Die.resetCtx Die.setCtxState
  rw [Die.reg_clearCtxRecs_other _ _ _ _ _ ha hw, Die.reg_setF_other _ _ _ _ _ _ _ hx]

theorem Die.ctxState_resetCtx (d : Die) (c : Nat) : (d.resetCtx c).ctxState c = 0 := by
  have h : (d.resetCtx c).ctxState c = ((d.disableRings c).setCtxState c 0).ctxState c := by
    unfold Die.ctxState Die.getF Die.resetCtx
    rw [Die.reg_clearCtxRecs_other _ _ _ _ _ (by decide) (by decide)]
  rw [h]
  exact Die.getF_setF_same _ _ _ _ (by decide)

theorem Die.resetCtx_resets (d : Die) (c n : Nat) (h : d.getF F.SF_RING_CTL.CONTEXT n = c) : (d.resetCtx c).ringIsReset n := by
  have hr := Die.disableRings_resets d c n h
  unfold Die.ringIsReset Die.head Die.tail Die.getF at *
  rwa [Die.reg_resetCtx _ _ _ _ _ (by decide) (by decide) (by decide), Die.reg_resetCtx _ _ _ _ _ (by decide) (by decide) (by decide)]

theorem Die.resetCtx_keepsRegs (d : Die) (c : Nat) :
    keepsRegs d (d.resetCtx c) [.SF_RING_CTL, .SF_RING_STATUS, .SF_CTX_STATUS, .AY_CTX_REC, .WE_WERR] := by
  intro r hr i w
  simp only [List.mem_cons, List.not_mem_nil, or_false, not_or] at hr
  obtain ⟨hctl, hstatus, hctx, hrec, herr⟩ := hr
  rw [Die.reg_resetCtx _ _ _ _ _ hctx hrec herr, Die.reg_disableRings_other _ _ _ _ _ hctl hstatus]

theorem Die.resetCtx_onlyRegs (s : State) (c : Nat) : onlyRegs s { s with d := s.d.resetCtx c }
    [.SF_RING_CTL, .SF_RING_STATUS, .SF_CTX_STATUS, .AY_CTX_REC, .WE_WERR] := by
  refine ⟨congrArg (fun y : Die => { s with d := y }) (Die.eq_of_sansRegs ?_), Die.resetCtx_keepsRegs s.d c⟩
  unfold Die.resetCtx
  rw [Die.sansRegs_clearCtxRecs, Die.sansRegs_setCtxState, Die.sansRegs_disableRings]

/-- RESET of a context whose gate lets the write through: accepted where the context is ABORTED and no teardown of it is under way. -/
theorem exec_ctxReset (s : State) (who : Who) (c : BitVec 12) (hg : s.d.barGate s.env who .SF_CTX_CTL c.toNat = none) :
    exec (.ctxReset who c) s = .next { s with d :=
      (if s.d.ctxState c.toNat = 5 ∧ !(s.d.tearing c.toNat) then s.d.resetCtx c.toNat else s.d.reject F.SF_STATUS.CFG_REJECT 0) } := by
  have harm : exec (.ctxReset who c) s = execCtxReset who c s := rfl
  rw [harm]
  unfold execCtxReset
  dsimp only
  rw [Die.barWrite_of_gate _ hg]
  rfl

/-! ### ABORT: what the steps of a teardown leave alone -/

/-- What the steps of a teardown before and after the new epoch leave alone: the teardowns under way, the translations and held accesses,
the bytes of DRAM, and the epochs. -/
def Die.tearView (d : Die) : List Tear × List Xl × List Held × List Host.Cell × (Nat → Word) :=
  (d.sf.tears, d.stu.caches, d.stu.held, d.mem.dram, fun c => d.reg .STU_EPOCH c 0)

theorem Die.tearView_setF (d : Die) (f : Fld) (i v : Nat) (h : f.reg ≠ .STU_EPOCH) : (d.setF f i v).tearView = d.tearView := by
  have hreg : ∀ c, (d.setF f i v).reg .STU_EPOCH c 0 = d.reg .STU_EPOCH c 0 := fun c => Die.reg_setF_other _ _ _ _ _ _ _ h.symm
  unfold Die.tearView
  simp only [hreg]
  rfl

theorem Die.tearView_incSat (d : Die) (f : Fld) (i n : Nat) (h : f.reg ≠ .STU_EPOCH) : (d.incSat f i n).tearView = d.tearView :=
  Die.tearView_setF d f i _ h

theorem Die.tearView_setCtxState (d : Die) (c st : Nat) : (d.setCtxState c st).tearView = d.tearView :=
  Die.tearView_setF d _ _ _ (by decide)

theorem Die.tearView_send (d : Die) (m : Msg) : (d.send m).tearView = d.tearView := rfl
theorem Die.tearView_ty (d : Die) (x : Tally) : ({ d with ty := x } : Die).tearView = d.tearView := rfl
theorem Die.tearView_eng (d : Die) (x : Eng) : ({ d with eng := x } : Die).tearView = d.tearView := rfl
theorem Die.tearView_coh (d : Die) (x : Coh) : ({ d with coh := x } : Die).tearView = d.tearView := rfl
theorem Die.tearView_we (d : Die) (x : Win) : ({ d with we := x } : Die).tearView = d.tearView := rfl
theorem Die.tearView_sm (d : Die) (x : Slices) : ({ d with sm := x } : Die).tearView = d.tearView := rfl
theorem Die.tearView_cmds (d : Die) (l : List Cmd) : ({ d with sf.cmds := l } : Die).tearView = d.tearView := rfl
theorem Die.tearView_forget (d : Die) (u : Use) : (d.forget u).tearView = d.tearView := rfl
theorem Die.tearView_setClRt (d : Die) (k : Nat) (x : ClRt) : (d.setClRt k x).tearView = d.tearView := rfl
theorem Die.tearView_dropReq (d : Die) (rid : Nat) : (d.dropReq rid).tearView = d.tearView := rfl

theorem Die.tearView_slotAdd (d : Die) (c : Nat) (take : Bool) : (d.slotAdd c take).tearView = d.tearView := by
  unfold Die.slotAdd
  dsimp only
  split
  · rw [Die.tearView_setF _ _ _ _ (by decide), Die.tearView_setF _ _ _ _ (by decide)]
  · rw [Die.tearView_setF _ _ _ _ (by decide)]

theorem Die.tearView_dropCmd (d : Die) (c : Cmd) : (d.dropCmd c).tearView = d.tearView := by
  unfold Die.dropCmd
  dsimp only
  split
  · rw [Die.tearView_slotAdd, Die.tearView_forget, Die.tearView_cmds]
  · rw [Die.tearView_forget, Die.tearView_cmds]

theorem Die.tearView_setLent (d : Die) (k : Nat) (v : Bool) : (d.setLent k v).tearView = d.tearView := by
  unfold Die.setLent
  split
  · rfl
  · dsimp only
    split
    · rw [Die.tearView_setF _ _ _ _ (by decide), Die.tearView_setF _ _ _ _ (by decide)]
    · rw [Die.tearView_setF _ _ _ _ (by decide)]

theorem Die.tearView_claimsDone (d : Die) : d.claimsDone.tearView = d.tearView := by
  unfold Die.claimsDone
  refine foldl_keeps Die.tearView _ (fun y n => ?_) _ _
  dsimp only
  split
  · exact (Die.tearView_sm _ _).trans (Die.tearView_setF _ _ _ _ (by decide))
  · rfl

theorem Die.tearView_freeCluster (e : Env) (d : Die) (k : Nat) (kept : Option Nat) (back : Bool) :
    (d.freeCluster e k kept back).tearView = d.tearView := by
  have hfree : (if d.clState k = 4 then d else
      ((d.setF F.TY_CLUSTER.STATE k 0).setF F.TY_CLUSTER.CONTEXT k 0).setF F.TY_CLUSTER.SLICE k 0).tearView = d.tearView := by
    split
    · rfl
    · rw [Die.tearView_setF _ _ _ _ (by decide), Die.tearView_setF _ _ _ _ (by decide), Die.tearView_setF _ _ _ _ (by decide)]
  unfold Die.freeCluster
  dsimp only
  rw [Die.tearView_claimsDone]
  split
  · rw [Die.tearView_setLent, Die.tearView_setClRt, hfree]
  · rw [Die.tearView_setClRt, hfree]

theorem Die.tearView_abandonKern (e : Env) (d : Die) (k : Kern) : (d.abandonKern e k).tearView = d.tearView := by
  unfold Die.abandonKern
  extract_lets d₁
  have h₁ : d₁.tearView = d.tearView := by
    refine foldl_keeps Die.tearView _ (fun y r => ?_) _ _
    split
    · split
      · exact Die.tearView_freeCluster _ _ _ _ _
      · split
        · rfl
        · rw [Die.tearView_send, Die.tearView_setF _ _ _ _ (by decide), Die.tearView_ty]
    · rfl
  split
  · exact (Die.tearView_ty _ _).trans h₁
  · exact (Die.tearView_ty _ _).trans h₁

theorem Die.tearView_unplace (d : Die) (id : Nat) (stopped : Bool) : (d.unplace id stopped).tearView = d.tearView := by
  unfold Die.unplace
  extract_lets d₁
  have h₁ : d₁.tearView = d.tearView := by
    unfold d₁
    split
    · split
      · exact Die.tearView_incSat _ _ _ _ (by decide)
      · rfl
    · rfl
  exact (Die.tearView_eng _ _).trans h₁

theorem Die.tearView_ctxPump (d : Die) (c : Nat) : (d.ctxPump c).tearView = d.tearView :=
  Die.ctxPump_keeps Die.tearView c (fun y st => Die.tearView_setCtxState y c st) d

theorem Die.tearView_enginesPump (d : Die) : d.enginesPump.tearView = d.tearView := by
  unfold Die.enginesPump
  exact foldl_keeps Die.tearView _ Die.tearView_ctxPump _ _

theorem Die.tearView_endReq (d : Die) (q : Req) (code : Nat) : (d.endReq q code).tearView = d.tearView := by
  have hgone : ((d.dropReq q.rid).forget (.req q.rid)).tearView = d.tearView := by rw [Die.tearView_forget, Die.tearView_dropReq]
  unfold Die.endReq
  dsimp only
  split
  · exact hgone
  · split
    · split
      · exact (Die.tearView_coh _ _).trans hgone
      · exact (Die.tearView_send _ _).trans hgone
    · exact (Die.tearView_send _ _).trans hgone

theorem Die.tearView_dropRequests (d : Die) (c : Nat) : (d.dropRequests c).tearView = d.tearView := by
  unfold Die.dropRequests
  extract_lets isOurs win d₁ out gone d₂ coh
  have h₁ : d₁.tearView = d.tearView := Die.tearView_we _ _
  have h₂ : d₂.tearView = d₁.tearView := by
    refine foldl_keeps Die.tearView _ (fun y q => ?_) _ _
    split
    · exact Die.tearView_endReq _ _ _
    · rfl
  exact (Die.tearView_coh _ _).trans (h₂.trans h₁)

/-! ### ABORT: the teardown starts -/

/-- A teardown that starts is recorded, and but for the end of the context's holds and its new epoch its steps leave `tearView` alone
(R145). -/
theorem Die.teardown_tearView (e : Env) (d : Die) (c status : Nat) (failed : Option Nat) (named : Option (Nat × Nat)) (secur : Bool)
    (ht : d.tearing c = false) (h5 : d.ctxState c ≠ 5) :
    ∃ (x : Tear) (y : Die), x.ctx = c ∧ x.status = status ∧
      y.tearView = ({ d with sf.tears := d.sf.tears ++ [x] } : Die).tearView ∧
      (d.teardown e c status failed named secur).tearView = ((y.unhold c).newEpoch c (fun _ => true)).tearView := by
  unfold Die.teardown
  rw [if_neg (by simp [ht, h5])]
  extract_lets shop dead d₁ d₂ d₃ d₄ d₅ tally d₆
  refine ⟨{ ctx := c, status := status, secur := secur, failed := failed, named := named, had := (dead.map (·.ring)).eraseDups },
    d₄, rfl, rfl, ?_, ?_⟩
  rotate_left
  · rw [Die.tearView_dropRequests]
    exact Die.tearView_ty _ _
  · have h₂ : d₂.tearView = d₁.tearView := foldl_keeps Die.tearView _ Die.tearView_dropCmd _ _
    have h₃ : d₃.tearView = d₂.tearView := foldl_keeps Die.tearView _ (Die.tearView_abandonKern e) _ _
    have h₄ : d₄.tearView = d₃.tearView := by
      unfold d₄
      rw [Die.tearView_enginesPump]
      exact foldl_keeps Die.tearView _ (fun y (x : Cmd) => Die.tearView_unplace y x.id true) _ _
    rw [h₄, h₃, h₂]

theorem Die.withStu_regs (d : Die) (x : Xlat) : ({ d with stu := x } : Die).regs = d.regs := rfl
theorem Die.withStu_sf (d : Die) (x : Xlat) : ({ d with stu := x } : Die).sf = d.sf := rfl
theorem Die.withStu_mem (d : Die) (x : Xlat) : ({ d with stu := x } : Die).mem = d.mem := rfl

theorem Die.unhold_regs (d : Die) (c : Nat) : (d.unhold c).regs = (d.setF F.STU_EPOCH.HELD c 0).regs := Die.withStu_regs _ _
theorem Die.unhold_sf (d : Die) (c : Nat) : (d.unhold c).sf = d.sf := (Die.withStu_sf _ _).trans (Die.setF_sf _ _ _ _)
theorem Die.unhold_mem (d : Die) (c : Nat) : (d.unhold c).mem = d.mem := (Die.withStu_mem _ _).trans (Die.setF_mem _ _ _ _)
theorem Die.unhold_held (d : Die) (c : Nat) : (d.unhold c).stu.held = d.stu.held.filter (fun h => decide (h.ctx ≠ c)) := rfl
theorem Die.newEpoch_regs (d : Die) (c : Nat) (p : Xl → Bool) : (d.newEpoch c p).regs = (d.incWrap F.STU_EPOCH.EPOCH c 1).regs := rfl
theorem Die.newEpoch_sf (d : Die) (c : Nat) (p : Xl → Bool) : (d.newEpoch c p).sf = d.sf := rfl
theorem Die.newEpoch_mem (d : Die) (c : Nat) (p : Xl → Bool) : (d.newEpoch c p).mem = d.mem := rfl
theorem Die.newEpoch_held (d : Die) (c : Nat) (p : Xl → Bool) : (d.newEpoch c p).stu.held = d.stu.held := rfl

theorem Die.newEpoch_caches (d : Die) (c : Nat) : ∀ x ∈ (d.newEpoch c (fun _ => true)).stu.caches, x.ctx ≠ c := by
  intro x hx
  have := (List.mem_filter.1 hx).2
  simpa using this

theorem Die.newEpoch_unhold_held (d : Die) (c : Nat) (p : Xl → Bool) : ∀ h ∈ ((d.unhold c).newEpoch c p).stu.held, h.ctx ≠ c := by
  rw [Die.newEpoch_held, Die.unhold_held]
  intro h hh
  have := (List.mem_filter.1 hh).2
  simpa using this

/-- The epoch rises by 1, whatever the end of the holds does to HELD. -/
theorem Die.newEpoch_unhold_epoch (d : Die) (c : Nat) (p : Xl → Bool) :
    ((d.unhold c).newEpoch c p).getF F.STU_EPOCH.EPOCH c = (d.getF F.STU_EPOCH.EPOCH c + 1) % 2 ^ 16 := by
  have hheld : (d.unhold c).getF F.STU_EPOCH.EPOCH c = d.getF F.STU_EPOCH.EPOCH c := by
    rw [Die.getF_of_regs_eq (Die.unhold_regs d c)]
    exact Die.getF_setF_ne d F.STU_EPOCH.HELD F.STU_EPOCH.EPOCH c c 0 (by decide) (.inr (.inr ⟨rfl, .inl (by decide)⟩))
  rw [Die.getF_of_regs_eq (Die.newEpoch_regs (d.unhold c) c p), Die.incWrap, Die.getF_setF_same _ _ _ _ (by decide), hheld]

/-- What `tearView` shows: two dies that agree in it agree in each of its parts. -/
theorem Die.tearView_parts {d t : Die} (h : t.tearView = d.tearView) : t.sf.tears = d.sf.tears ∧ t.stu.caches = d.stu.caches ∧
    t.stu.held = d.stu.held ∧ t.mem.dram = d.mem.dram ∧ ∀ c, t.getF F.STU_EPOCH.EPOCH c = d.getF F.STU_EPOCH.EPOCH c := by
  unfold Die.tearView at h
  simp only [Prod.mk.injEq] at h
  obtain ⟨htears, hcaches, hheld, hdram, hepoch⟩ := h
  exact ⟨htears, hcaches, hheld, hdram, fun c => congrArg (fun w => fieldOf w _ _) (congrFun hepoch c)⟩

/-- A teardown that starts: it is recorded with its status, the epoch of the context has advanced, and no cache holds a translation of it
and no access of it is held (R145). -/
theorem Die.teardown_starts (e : Env) (d : Die) (c status : Nat) (failed : Option Nat) (named : Option (Nat × Nat)) (secur : Bool)
    (ht : d.tearing c = false) (h5 : d.ctxState c ≠ 5) :
    (∃ x ∈ (d.teardown e c status failed named secur).sf.tears, x.ctx = c ∧ x.status = status) ∧
    (d.teardown e c status failed named secur).getF F.STU_EPOCH.EPOCH c = (d.getF F.STU_EPOCH.EPOCH c + 1) % 2 ^ 16 ∧
    (∀ x ∈ (d.teardown e c status failed named secur).stu.caches, x.ctx ≠ c) ∧
    (∀ h ∈ (d.teardown e c status failed named secur).stu.held, h.ctx ≠ c) ∧
    (d.teardown e c status failed named secur).mem.dram = d.mem.dram := by
  obtain ⟨x, y, hctx, hstatus, hy, hend⟩ := Die.teardown_tearView e d c status failed named secur ht h5
  obtain ⟨ytears, -, -, ydram, yepoch⟩ := Die.tearView_parts hy
  obtain ⟨htears, hcaches, hheld, hdram, hepoch⟩ := Die.tearView_parts hend
  refine ⟨⟨x, ?_, hctx, hstatus⟩, ?_, ?_, ?_, ?_⟩
  · rw [htears, Die.newEpoch_sf, Die.unhold_sf, ytears]
    exact List.mem_append_right _ List.mem_cons_self
  · rw [hepoch, Die.newEpoch_unhold_epoch, yepoch]
    rfl
  · rw [hcaches]
    exact Die.newEpoch_caches _ c
  · rw [hheld]
    exact Die.newEpoch_unhold_held y c _
  · rw [hdram, Die.newEpoch_mem, Die.unhold_mem, ydram]

theorem Die.tearing_of_mem {d : Die} {c : Nat} (h : ∃ x ∈ d.sf.tears, x.ctx = c) : d.tearing c = true := by
  obtain ⟨x, hx, hc⟩ := h
  exact List.any_eq_true.2 ⟨x, hx, decide_eq_true hc⟩

/-- A teardown under way goes on as it was (R147). -/
theorem Die.teardown_of_tearing (e : Env) (d : Die) (c status : Nat) (failed : Option Nat) (named : Option (Nat × Nat)) (secur : Bool)
    (ht : d.tearing c = true) : d.teardown e c status failed named secur = d := by
  unfold Die.teardown
  exact if_pos (.inl ht)

/-- ABORT of a context whose gate lets the write through: it starts the teardown unless the context is ABORTED. -/
theorem exec_ctxAbort (s : State) (who : Who) (c : BitVec 12) (hg : s.d.barGate s.env who .SF_CTX_CTL c.toNat = none) :
    exec (.ctxAbort who c) s = .next { s with d :=
      (if s.d.ctxState c.toNat = 5 then s.d.reject F.SF_STATUS.CFG_REJECT 0
       else s.d.teardown s.env c.toNat St.CANCELLED ((s.d.oldest c.toNat).map (·.id)) none false) } := by
  have harm : exec (.ctxAbort who c) s = execCtxAbort who c s := rfl
  rw [harm]
  unfold execCtxAbort
  dsimp only
  rw [Die.barWrite_of_gate _ hg]
  rfl

/-! ### O19 -/

/-- Settles O19: the two branches of `exec_ctxReset`, and those of `exec_ctxAbort` with the start of a teardown. -/
theorem contextsAreResetAndAborted : Obligations.ContextsAreResetAndAborted := by
  unfold Obligations.ContextsAreResetAndAborted
  intro s who c hg
  refine ⟨?_, ?_, ?_, ?_, ?_⟩
  · intro h5 ht
    have hreset : exec (.ctxReset who c) s = .next { s with d := s.d.resetCtx c.toNat } := by
      rw [exec_ctxReset s who c hg, if_pos ⟨h5, by rw [ht]; rfl⟩]
    refine ⟨_, hreset, Die.ctxState_resetCtx _ _, fun n hn => Die.resetCtx_resets _ _ n hn, fun n hn => ?_, Die.resetCtx_onlyRegs s _⟩
    exact ⟨(Die.reg_resetCtx _ _ _ _ _ (by decide) (by decide) (by decide)).trans (Die.reg_disableRings_other_ctx _ _ n _ hn),
      (Die.reg_resetCtx _ _ _ _ _ (by decide) (by decide) (by decide)).trans (Die.reg_disableRings_other_ctx _ _ n _ hn)⟩
  · intro h5
    rw [exec_ctxReset s who c hg, if_neg (fun h => h5 h.1)]
  · intro h5 ht
    obtain ⟨⟨x, hx, hctx, hstatus⟩, hepoch, hcaches, hheld, hdram⟩ :=
      Die.teardown_starts s.env s.d c.toNat St.CANCELLED ((s.d.oldest c.toNat).map (·.id)) none false ht h5
    refine ⟨_, exec_ctxAbort s who c hg, ?_⟩
    rw [if_neg h5]
    exact ⟨Die.tearing_of_mem ⟨x, hx, hctx⟩, ⟨x, hx, hctx, hstatus⟩, hepoch, hcaches, hheld, hdram, rfl⟩
  · intro h5 ht
    rw [exec_ctxAbort s who c hg, if_neg h5, Die.teardown_of_tearing _ _ _ _ _ _ _ ht]
  · intro h5
    rw [exec_ctxAbort s who c hg, if_pos h5]

end Sys2Proof.Machine
end

section
/-! PROOF. What firmware seal locks (R507): SF_PRIV_RING, ST_DIE_ID and SE_SLOT0 hold from the seal until a reset releases it. A step
either keeps ST_SEAL and the three registers together or leaves the die unsealed; a whole step is followed through the few rows that
may change the always-on state at all. -/

namespace Sys2Proof.Machine

/-! ### The locked registers, and what keeps them -/

/-- ST_SEAL.SEALED with the three registers that it locks. -/
def Env.locks (e : Env) : Bool × Word × Word × Word := (e.fwSeal, e.privRing, e.dieId, e.slot0)

/-- The seal and what it locks are as they were, or a reset has released the seal. -/
def Env.keepsLocks (e e' : Env) : Prop := e'.locks = e.locks ∨ e'.fwSeal = false

theorem Env.keepsLocks_of_eq {e e' : Env} (h : e' = e) : e.keepsLocks e' := .inl (congrArg Env.locks h)

theorem Env.keepsLocks_trans {e e' e'' : Env} (h : e.keepsLocks e') (h' : e'.keepsLocks e'') : e.keepsLocks e'' := by
  rcases h' with hsame | hfree
  · rcases h with h | h
    · exact .inl (hsame.trans h)
    · exact .inr ((congrArg Prod.fst hsame).trans h)
  · exact .inr hfree

/-- While the seal holds, so do the three registers. -/
theorem Env.registers_of_keepsLocks {e e' : Env} (h : e.keepsLocks e') (hs : e'.fwSeal = true) :
    e'.privRing = e.privRing ∧ e'.dieId = e.dieId ∧ e'.slot0 = e.slot0 := by
  rcases h with hsame | hfree
  · simp only [Env.locks, Prod.mk.injEq] at hsame
    exact hsame.2
  · exact absurd (hs.symm.trans hfree) (by decide)

/-- Every next state that the outcome gives keeps the locks of `e`. -/
def LocksKept (e : Env) (o : Host.Outcome State Fault Refusal) : Prop := ∀ t, o = .next t → e.keepsLocks t.env

/-- Die time and what is still due of it are no lock. -/
theorem Env.keepsLocks_clock (e : Env) (tq phase : Nat) (slew : Int) :
    e.keepsLocks { e with tq := tq, phase := phase, slew := slew } := .inl rfl

theorem locksKept_next {e : Env} {t : State} (h : e.keepsLocks t.env) : LocksKept e (.next t) := by
  intro t' ht
  cases ht
  exact h

theorem State.locksKept_go (s : State) (d : Die) : LocksKept s.env (s.go d) := locksKept_next (.inl rfl)

/-! ### The gate of a locked register -/

/-- Table 18.1's locked registers are the three with a field of type RWL. -/
theorem Reg.has_rwl_iff (r : Reg) : (∃ f ∈ r.fields, f.acc = .RWL) ↔ r ∈ ([.SF_PRIV_RING, .ST_DIE_ID, .SE_SLOT0] : List Reg) := by
  cases r <;> decide

/-- Under the seal the gate of a locked register lets no write through. -/
theorem Die.barGate_of_locked {e : Env} (d : Die) (who : Who) {r : Reg} (i : Nat) (hs : e.fwSeal = true) (hr : isRwl r = true) :
    ∃ d', d.barGate e who r i = some d' := by
  unfold Die.barGate
  dsimp only
  split
  · exact ⟨_, rfl⟩
  · split_ifs with helem hsteward hwritable hlocked
    · exact ⟨_, rfl⟩
    · exact ⟨_, rfl⟩
    · exact ⟨_, rfl⟩
    · exact ⟨_, rfl⟩
    · exact absurd ⟨hr, .inl hs⟩ hlocked

/-! ### Resets and the passing of time -/

theorem Env.program_locks (e : Env) (i : Nat) (mask : Word) : (e.program i mask).locks = e.locks := rfl

theorem Env.cutBurn_locks (e : Env) (i : Nat) (old free : Word) : (e.cutBurn i old free).locks = e.locks := rfl

theorem Env.foldl_program_locks (e : Env) (f : Nat → Word) (l : List Nat) :
    (l.foldl (fun e i => e.program (1 + i) (f i)) e).locks = e.locks :=
  foldl_keeps Env.locks _ (fun e i => e.program_locks (1 + i) (f i)) l e

theorem State.locksKept_warm (s : State) (fromDie : Bool) : s.env.keepsLocks (s.warm fromDie).env := .inr rfl

/-- A cold reset releases the seal: what it programs into the OTP touches no lock. -/
theorem State.cold_fwSeal (s : State) (power : Bool) : (s.cold power).env.fwSeal = false := by
  have hburn : ∀ (e : Env) (l : List (Nat × Word)),
      (l.foldl (fun e x => e.cutBurn x.1 x.2 (Config.freeWord (s.d.ctr + 4 + x.1))) e).locks = e.locks :=
    fun e l => foldl_keeps Env.locks _ (fun e x => Env.cutBurn_locks e _ _ _) l e
  suffices h : (s.cold power).env.locks = (s.env.reset true).locks from congrArg Prod.fst h
  unfold State.cold
  extract_lets e₀ e₁ e₂
  have h₁ : e₁.locks = e₀.locks := by
    unfold e₁
    split
    · split_ifs
      · rfl
      · exact Env.foldl_program_locks _ _ _
      · exact Env.foldl_program_locks _ _ _
      · rfl
    · rfl
  change e₂.locks = e₀.locks
  unfold e₂
  split
  · exact (hburn _ _).trans h₁
  · exact h₁

theorem State.locksKept_cold (s : State) (power : Bool) : s.env.keepsLocks (s.cold power).env := .inr (s.cold_fwSeal power)

theorem State.locksKept_pass (s : State) (n : Nat) (late : Bool) : s.env.keepsLocks (s.pass n late).env := by
  unfold State.pass
  extract_lets e d e'
  have h : s.env.keepsLocks e := s.env.keepsLocks_clock _ _ _
  split_ifs
  · exact .inl rfl
  · exact h
  · exact Env.keepsLocks_trans h (e.keepsLocks_clock _ _ _)

theorem locksKept_powerGood (s : State) : LocksKept s.env (execPowerGood s) := by
  unfold execPowerGood
  split <;> exact s.locksKept_go _

theorem locksKept_coldReset (s : State) (pin : Bool) : LocksKept s.env (execColdReset pin s) := by
  unfold execColdReset
  split
  · exact s.locksKept_go _
  · exact locksKept_next (s.locksKept_cold _)

theorem locksKept_warmReset (s : State) : LocksKept s.env (execWarmReset s) := by
  unfold execWarmReset
  split
  · exact locksKept_next (s.locksKept_warm _)
  · exact s.locksKept_go _

theorem State.locksKept_resetWrite (s : State) (who : Who) (v : Word) : LocksKept s.env (s.resetWrite who v) := by
  unfold State.resetWrite
  split
  · exact s.locksKept_go _
  · dsimp only
    split_ifs
    · exact locksKept_next (s.locksKept_warm _)
    · exact locksKept_next (s.locksKept_cold _)
    · exact s.locksKept_go _

/-! ### Assay: a report that is a DIE fault resets the die -/

theorem State.dieFault_fwSeal (s : State) (r : Report) (more : List Report) : (s.dieFault r more).env.fwSeal = false := rfl

theorem State.locksKept_takeReport (s : State) (r : Report) : s.env.keepsLocks (s.takeReport r).env := by
  unfold State.takeReport
  dsimp only
  split_ifs
  · exact .inl rfl
  · exact .inr (State.dieFault_fwSeal _ _ _)
  · exact .inl rfl

theorem State.locksKept_classify (s : State) : s.env.keepsLocks s.classify.env := by
  unfold State.classify
  split
  · exact .inl rfl
  · dsimp only
    split
    · exact .inr (State.dieFault_fwSeal _ _ _)
    · exact .inl rfl

theorem State.locksKept_classifyAll (fuel : Nat) (s : State) : s.env.keepsLocks (State.classifyAll fuel s).env := by
  induction fuel generalizing s with
  | zero => exact .inl rfl
  | succ fuel ih =>
    unfold State.classifyAll
    split
    · exact .inl rfl
    · exact Env.keepsLocks_trans s.locksKept_classify (ih _)

theorem State.locksKept_enterUntil (r : Report) (fuel : Nat) (s : State) : s.env.keepsLocks (State.enterUntil r fuel s).env := by
  induction fuel generalizing s with
  | zero => exact .inl rfl
  | succ fuel ih =>
    unfold State.enterUntil
    split
    · exact .inl rfl
    · next x _ =>
      extract_lets s₁ d
      have h₁ : s.env.keepsLocks s₁.env := by
        unfold s₁
        split
        · exact s.locksKept_classify
        · exact .inl rfl
      split
      · exact h₁
      · exact Env.keepsLocks_trans h₁ (ih { s₁ with d := { d with ay.early := d.ay.early ++ [x] } })

theorem State.locksKept_intake (s : State) (r : Report) : s.env.keepsLocks (s.intake r).env := by
  unfold State.intake
  extract_lets e d₀ ay stands x d s₁ n s₂ s₃
  have h₁ : s.env.keepsLocks s₁.env := by
    unfold s₁
    split <;> exact .inl rfl
  have h₂ : s.env.keepsLocks s₂.env := by
    unfold s₂
    split
    · exact Env.keepsLocks_trans h₁ (State.locksKept_enterUntil _ _ _)
    · exact h₁
  have h₃ : s.env.keepsLocks s₃.env := Env.keepsLocks_trans h₂ (State.locksKept_classifyAll _ _)
  split_ifs
  · exact .inl rfl
  · exact .inl rfl
  · exact s.locksKept_takeReport r
  · exact h₃

theorem locksKept_assayReport (s : State) (r : Report) : LocksKept s.env (execAssayReport r s) := by
  unfold execAssayReport
  split
  · exact locksKept_next (s.locksKept_intake r)
  · exact locksKept_next (.inl rfl)

theorem locksKept_dieLine (s : State) (r : Report) : LocksKept s.env (execDieLine r s) := by
  unfold execDieLine
  split
  · exact locksKept_next (s.locksKept_takeReport r)
  · exact locksKept_next (.inl rfl)

/-! ### Writes of registers with a behaviour of their own -/

theorem locksKept_signedWrite (s : State) (who : Who) (r : Reg) (i : Nat) (act : Nat → Nat → Env)
    (hact : ∀ key svn, (act key svn).locks = s.env.locks) : LocksKept s.env (signedWrite s who r i act) := by
  unfold signedWrite
  split
  · exact s.locksKept_go _
  · split
    · extract_lets
      split <;> exact locksKept_next (.inl (hact _ _))
    · exact s.locksKept_go _

theorem locksKept_svnAdvance (s : State) (who : Who) (v : Word) : LocksKept s.env (execSvnAdvance who v s) := by
  refine locksKept_signedWrite s who _ _ _ (fun _ svn => ?_)
  split <;> rfl

theorem locksKept_keyRevoke (s : State) (who : Who) (v : Word) : LocksKept s.env (execKeyRevoke who v s) :=
  locksKept_signedWrite s who _ _ _ (fun _ _ => Env.program_locks _ _ _)

theorem locksKept_chTimeLoad (s : State) (who : Who) (v : Word) : LocksKept s.env (execChTimeLoad who v s) := by
  unfold execChTimeLoad
  split
  · exact s.locksKept_go _
  · split
    · exact locksKept_next (s.env.keepsLocks_clock _ _ _)
    · exact s.locksKept_go _

theorem locksKept_lcProgramDone (s : State) : LocksKept s.env (execLcProgramDone s) := by
  unfold execLcProgramDone
  split
  · exact s.locksKept_go _
  · next target _ =>
    extract_lets _ _ d e e₂
    have h : e.locks = s.env.locks := Env.program_locks _ _ _
    split_ifs
    · exact locksKept_next (.inl ((Env.foldl_program_locks e (fun i => Config.freeWord (d.ctr + i)) _).trans h))
    · exact locksKept_next (.inl ((Env.foldl_program_locks e (fun _ => BitVec.allOnes 64) _).trans h))
    · exact locksKept_next (.inl h)

theorem locksKept_timeRsp (s : State) (p : BitVec 4) (b : List Byte) : LocksKept s.env (execTimeRsp p b s) := by
  unfold execTimeRsp
  extract_lets e d port
  split
  · exact s.locksKept_go _
  · split
    · exact s.locksKept_go _
    · extract_lets
      split_ifs
      · exact s.locksKept_go _
      · exact locksKept_next (e.keepsLocks_clock _ _ _)
      · exact locksKept_next (e.keepsLocks_clock _ _ _)

/-- A sealed die is not sealed again (R449). -/
theorem locksKept_firmwareSeal (s : State) (who : Who) (v : Word) (hs : s.env.fwSeal = true) :
    LocksKept s.env (execFirmwareSeal who v s) := by
  unfold execFirmwareSeal
  dsimp only
  split
  · exact s.locksKept_go _
  · rw [if_pos (.inr (.inl hs))]
    exact s.locksKept_go _

theorem locksKept_slot0Bind (s : State) (who : Who) (v : Word) (hs : s.env.fwSeal = true) : LocksKept s.env (execSlot0Bind who v s) := by
  obtain ⟨d', hgate⟩ := Die.barGate_of_locked (r := .SE_SLOT0) s.d who 0 hs rfl
  unfold execSlot0Bind
  dsimp only
  rw [hgate]
  dsimp only
  split <;> exact s.locksKept_go _

/-! ### A write of any register -/

/-- The registers whose write may change the always-on state. -/
def envRegs : List Reg :=
  [.SF_PRIV_RING, .ST_DIE_ID, .SE_SLOT0, .CH_TIME_LOAD, .TS_SVN_ADVANCE, .TS_KEY_REVOKE, .ST_RESET, .ST_SEAL]

theorem State.kexWrite_goes (s : State) (who : Who) (v : Word) : ∃ d, s.kexWrite who v = s.go d := by
  unfold State.kexWrite
  dsimp only
  split <;> exact ⟨_, rfl⟩

/-- A write of any other register changes the die alone. -/
theorem State.regWrite_goes (s : State) (who : Who) (r : Reg) (i w : Nat) (v : Word) (hr : r ∉ envRegs) :
    ∃ d, s.regWrite who r i w v = s.go d := by
  cases r
  case SF_PRIV_RING | ST_DIE_ID | SE_SLOT0 | CH_TIME_LOAD | TS_SVN_ADVANCE | TS_KEY_REVOKE | ST_RESET | ST_SEAL =>
    exact absurd (by decide) hr
  case SF_CTX_CTL | STU_CTX_CTL =>
    unfold State.regWrite
    dsimp only
    split_ifs <;> exact ⟨_, rfl⟩
  case SF_RING_CTL =>
    unfold State.regWrite
    dsimp only
    split <;> exact ⟨_, rfl⟩
  case TS_KEX_CTL => exact s.kexWrite_goes who v
  all_goals exact ⟨_, rfl⟩

/-- No write of a register under the seal changes what the seal locks. -/
theorem State.locksKept_regWrite (s : State) (who : Who) (r : Reg) (i w : Nat) (v : Word) (hs : s.env.fwSeal = true) :
    LocksKept s.env (s.regWrite who r i w v) := by
  by_cases hr : r ∈ envRegs
  · simp only [envRegs, List.mem_cons, List.not_mem_nil, or_false] at hr
    rcases hr with rfl | rfl | rfl | rfl | rfl | rfl | rfl | rfl
    · obtain ⟨d', hgate⟩ := Die.barGate_of_locked (r := .SF_PRIV_RING) s.d who i hs rfl
      unfold State.regWrite
      dsimp only
      rw [hgate]
      exact s.locksKept_go _
    · obtain ⟨d', hgate⟩ := Die.barGate_of_locked (r := .ST_DIE_ID) s.d who i hs rfl
      unfold State.regWrite
      dsimp only
      rw [hgate]
      exact s.locksKept_go _
    · exact locksKept_slot0Bind s who v hs
    · exact locksKept_chTimeLoad s who v
    · exact locksKept_svnAdvance s who v
    · exact locksKept_keyRevoke s who v
    · exact s.locksKept_resetWrite who v
    · exact locksKept_firmwareSeal s who v hs
  · obtain ⟨d, hgoes⟩ := s.regWrite_goes who r i w v hr
    rw [hgoes]
    exact s.locksKept_go d

theorem State.locksKept_bar0Write (s : State) (who : Who) (off : Nat) (data : List Byte) (hs : s.env.fwSeal = true) :
    LocksKept s.env (s.bar0Write who off data) := by
  unfold State.bar0Write
  split
  · exact s.locksKept_go _
  · split
    · exact s.locksKept_go _
    · split
      · exact s.locksKept_go _
      · split
        · exact s.locksKept_go _
        · exact s.locksKept_regWrite who _ _ _ _ hs

/-! ### The ports through which such a write comes -/

theorem locksKept_registerWrite (s : State) (who : Who) (off : BitVec 26) (v : Word) (hs : s.env.fwSeal = true) :
    LocksKept s.env (execRegisterWrite who off v s) := by
  unfold execRegisterWrite
  split
  · exact s.locksKept_bar0Write who _ _ hs
  · exact s.locksKept_go _

theorem State.locksKept_hostTarget (s : State) (q : HpReq) (hs : s.env.fwSeal = true) : LocksKept s.env (s.hostTarget q) := by
  unfold State.hostTarget
  dsimp only
  split
  · split_ifs
    · exact s.locksKept_go _
    · exact State.locksKept_bar0Write { s with d := s.d.hpTaken q } _ _ _ hs
    · split <;> exact s.locksKept_go _
  · split
    · exact locksKept_next (.inl rfl)
    · exact s.locksKept_go _
  · split <;> exact s.locksKept_go _

theorem locksKept_hostPortRequest (s : State) (q : HpReq) (hs : s.env.fwSeal = true) :
    LocksKept s.env (execHostPortRequest q s) := by
  unfold execHostPortRequest
  extract_lets e host d f
  split_ifs
  · exact s.locksKept_go _
  · exact s.locksKept_go _
  · exact s.locksKept_go _
  · exact s.locksKept_go _
  · exact State.locksKept_hostTarget { s with d := d } q hs

theorem locksKept_dbgAccess (s : State) (wr mem : Bool) (addr : BitVec 64) (data : Word) (hs : s.env.fwSeal = true) :
    LocksKept s.env (execDbgAccess wr mem addr data s) := by
  unfold execDbgAccess
  extract_lets e _ _ d
  split_ifs
  · exact s.locksKept_go _
  · exact s.locksKept_go _
  · exact s.locksKept_go _
  · exact s.locksKept_go _
  · exact State.locksKept_bar0Write { s with d := d } .tap _ _ hs
  · exact s.locksKept_go _

/-! ### A whole step -/

/-- No command carried out under the seal changes what the seal locks, but by a reset. -/
theorem locksKept_exec (i : Instr) (s : State) (hs : s.env.fwSeal = true) : LocksKept s.env (exec i s) := by
  cases hi : touchesEnv i with
  | false => exact fun t ht => Env.keepsLocks_of_eq (exec_keeps_env i s t hi ht).1
  | true =>
    cases i
    case registerWrite who off v => exact locksKept_registerWrite s who off v hs
    case tick fwBusy => exact locksKept_next (s.locksKept_pass _ fwBusy)
    case chTimeLoad who v => exact locksKept_chTimeLoad s who v
    case timeRsp p b => exact locksKept_timeRsp s p b
    case lcProgramDone => exact locksKept_lcProgramDone s
    case svnAdvance who v => exact locksKept_svnAdvance s who v
    case keyRevoke who v => exact locksKept_keyRevoke s who v
    case slot0Bind who v => exact locksKept_slot0Bind s who v hs
    case firmwareSeal who v => exact locksKept_firmwareSeal s who v hs
    case dieLine r => exact locksKept_dieLine s r
    case assayReport r => exact locksKept_assayReport s r
    case hostPortRequest q => exact locksKept_hostPortRequest s q hs
    case dbgAccess wr mem addr data => exact locksKept_dbgAccess s wr mem addr data hs
    case powerGood => exact locksKept_powerGood s
    case coldReset pin => exact locksKept_coldReset s pin
    case warmReset => exact locksKept_warmReset s
    case stResetWarm who v => exact s.locksKept_resetWrite who v
    case stResetCold who v => exact s.locksKept_resetWrite who v
    all_goals exact nomatch (show false = true from hi)

/-- What firmware seal locks holds over every step but one that releases the seal. -/
theorem locksKept_step (s : State) (hs : s.env.fwSeal = true) : LocksKept s.env (step s) := by
  unfold step
  split
  · exact locksKept_next (s.locksKept_pass 1 false)
  · exact locksKept_exec _ { s with pending := _ } hs

/-! ### The two registers that take no write after the seal -/

/-- A write of SM_POT_SET that the gate lets through after the seal is counted and refused (R121). -/
theorem exec_potSet_sealed (s : State) (who : Who) (v : Word) (hs : s.env.fwSeal = true) (hg : s.d.barGate s.env who .SM_POT_SET 0 = none) :
    exec (.potSet who v) s = .next { s with d := s.d.reject F.SM_STATUS.CFG_REJECT 0 } := by
  have harm : exec (.potSet who v) s = execPotSet who v s := rfl
  have hopen : ¬ ((!s.env.fwSeal) = true) := by rw [hs]; decide
  rw [harm]
  unfold execPotSet
  dsimp only
  rw [hg]
  dsimp only
  rw [if_neg (fun h => hopen h.2.1), if_neg (fun h => hopen h.2.1)]
  rfl

/-- A write of CH_TIME_LOAD that the gate lets through after the seal is counted and refused (R431). -/
theorem exec_chTimeLoad_sealed (s : State) (who : Who) (v : Word) (hs : s.env.fwSeal = true)
    (hg : s.d.barGate s.env who .CH_TIME_LOAD 0 = none) :
    exec (.chTimeLoad who v) s = .next { s with d := s.d.reject F.CH_STATUS.CFG_REJECT 0 } := by
  have harm : exec (.chTimeLoad who v) s = execChTimeLoad who v s := rfl
  have hopen : ¬ ((!s.env.fwSeal) = true) := by rw [hs]; decide
  rw [harm]
  unfold execChTimeLoad
  rw [hg]
  dsimp only
  rw [if_neg (fun h => hopen h.1)]
  rfl

/-! ### O5 -/

/-- Settles O5: the registers by Table 18.1's fields, the seal by `locksKept_step`, and the two refused writes each by its row. -/
theorem sealedRegistersHoldUntilReset : Obligations.SealedRegistersHoldUntilReset := by
  unfold Obligations.SealedRegistersHoldUntilReset
  refine ⟨Reg.has_rwl_iff, by decide, ?_, ?_⟩
  · intro s t hs hstep ht
    exact Env.registers_of_keepsLocks (locksKept_step s hs t hstep) ht
  · intro s who v hs
    exact ⟨exec_potSet_sealed s who v hs, exec_chTimeLoad_sealed s who v hs⟩

end Sys2Proof.Machine
end

section
/-! PROOF. What every step keeps of the always-on state: the build, die time but for a cold reset, the phase within the tick, and the
bits of the OTP but for those whose programming a power loss cuts. One walk through the rows that may change it serves all four, and
shows besides that every row answers a next state and leaves the queue as it was. -/

-- One proof after another: all at once, they ask for more threads than the check's memory limit admits.
set_option Elab.async false

namespace Sys2Proof.Machine

/-! ### What is kept -/

/-- Every programmed bit of the OTP is still programmed. -/
def Env.keepsOtp (e e' : Env) : Prop := ∀ w i, (e.otpWord w).getLsbD i = true → (e'.otpWord w).getLsbD i = true

/-- The build is the same, and the phase stays within the tick. -/
structure Env.KeepsBuild (e e' : Env) : Prop where
  phase : e.phase < 12500 → e'.phase < 12500
  regions : e'.regions = e.regions
  stepping : e'.stepping = e.stepping
  fit : e'.fit = e.fit

/-- What everything but a cold reset keeps. -/
structure Env.Keeps (e e' : Env) : Prop where
  time : e.tq ≤ e'.tq
  build : e.KeepsBuild e'
  otp : e.keepsOtp e'

/-- What a step keeps: a cold reset sets die time to 0, and may cut the programming that is under way in `burn`. -/
structure Env.Follows (burn : List (Nat × Word)) (e e' : Env) : Prop where
  time : e.tq ≤ e'.tq ∨ e'.tq = 0
  build : e.KeepsBuild e'
  otp : ∀ w i, (∀ x ∈ burn, x.1 = w → x.2.getLsbD i = true) → (e.otpWord w).getLsbD i = true → (e'.otpWord w).getLsbD i = true

theorem Env.KeepsBuild.refl (e : Env) : e.KeepsBuild e := ⟨id, rfl, rfl, rfl⟩

theorem Env.KeepsBuild.trans {e e' e'' : Env} (h : e.KeepsBuild e') (h' : e'.KeepsBuild e'') : e.KeepsBuild e'' :=
  ⟨h'.phase ∘ h.phase, h'.regions.trans h.regions, h'.stepping.trans h.stepping, h'.fit.trans h.fit⟩

theorem Env.keepsOtp_of_eq {e e' : Env} (h : e'.otp = e.otp) : e.keepsOtp e' := by
  intro w i hb
  unfold Env.otpWord at *
  rwa [h]

theorem Env.Keeps.refl (e : Env) : e.Keeps e := ⟨le_rfl, .refl e, Env.keepsOtp_of_eq rfl⟩

theorem Env.Keeps.trans {e e' e'' : Env} (h : e.Keeps e') (h' : e'.Keeps e'') : e.Keeps e'' :=
  ⟨h.time.trans h'.time, h.build.trans h'.build, fun w i hb => h'.otp w i (h.otp w i hb)⟩

theorem Env.Keeps.follows {e e' : Env} (h : e.Keeps e') (burn : List (Nat × Word)) : Env.Follows burn e e' :=
  ⟨.inl h.time, h.build, fun w i _ hb => h.otp w i hb⟩

/-- A change of the registers that lock at firmware seal and of the slew alone. -/
theorem Env.Keeps.of_same {e e' : Env} (htq : e'.tq = e.tq) (hphase : e'.phase = e.phase) (hregions : e'.regions = e.regions)
    (hstepping : e'.stepping = e.stepping) (hfit : e'.fit = e.fit) (hotp : e'.otp = e.otp) : e.Keeps e' :=
  ⟨htq.ge, ⟨fun h => hphase ▸ h, hregions, hstepping, hfit⟩, Env.keepsOtp_of_eq hotp⟩

/-! ### Programming the OTP -/

theorem Env.otpWord_set (e : Env) (i w : Nat) (x : Word) :
    ({ e with otp := Tab.set 0 e.otp i x } : Env).otpWord w = if w = i then x else e.otpWord w := Tab.get_set 0 e.otp i w x

/-- A write of an OTP word that keeps the bits of that word keeps every bit. -/
theorem Env.keepsOtp_set (e : Env) (i : Nat) (x : Word) (h : ∀ b, (e.otpWord i).getLsbD b = true → x.getLsbD b = true) :
    e.keepsOtp { e with otp := Tab.set 0 e.otp i x } := by
  intro w b hb
  rw [Env.otpWord_set]
  split
  · next hw => exact h b (hw ▸ hb)
  · exact hb

theorem Env.keeps_program (e : Env) (i : Nat) (mask : Word) : e.Keeps (e.program i mask) :=
  ⟨le_rfl, ⟨id, rfl, rfl, rfl⟩, Env.keepsOtp_set e i _ (fun b hb => by rw [BitVec.getLsbD_or, hb, Bool.true_or])⟩

theorem Env.keeps_foldl_program (f : Nat → Word) (l : List Nat) (e : Env) :
    e.Keeps (l.foldl (fun e i => e.program (1 + i) (f i)) e) := by
  induction l generalizing e with
  | nil => exact .refl e
  | cons i l ih => exact (e.keeps_program (1 + i) (f i)).trans (ih _)

/-- The lowest bit of a word is a bit of it. -/
theorem and_neg_and_not (old add : Word) (h : add &&& old = 0) : old &&& ~~~(add &&& (0 - add)) = old := by
  apply BitVec.eq_of_getLsbD_eq
  intro i hi
  have hbit : (add &&& old).getLsbD i = false := by rw [h]; exact BitVec.getLsbD_zero
  rw [BitVec.getLsbD_and] at hbit
  rw [BitVec.getLsbD_and, BitVec.getLsbD_not, BitVec.getLsbD_and]
  cases ho : old.getLsbD i
  · rfl
  · rw [ho, Bool.and_true] at hbit
    rw [hbit, decide_eq_true hi]
    rfl

/-- A part-written life-cycle word keeps the bits that stood before it. -/
theorem partWord_keeps (old add free : Word) (b : Nat) (h : old.getLsbD b = true) : (partWord old (old ||| add) free).getLsbD b = true := by
  have hlow := and_neg_and_not old ((old ||| add) &&& ~~~old) (by
    apply BitVec.eq_of_getLsbD_eq
    intro i hi
    simp only [BitVec.getLsbD_and, BitVec.getLsbD_not, BitVec.getLsbD_or]
    cases old.getLsbD i <;> simp)
  unfold partWord
  extract_lets more one w
  split
  · split
    · have hb : (old &&& ~~~one).getLsbD b = true := by rw [show old &&& ~~~one = old from hlow]; exact h
      rw [BitVec.getLsbD_and, Bool.and_eq_true] at hb ⊢
      exact ⟨by rw [BitVec.getLsbD_or, h, Bool.true_or], hb.2⟩
    · rw [BitVec.getLsbD_or, h, Bool.true_or]
  · rw [BitVec.getLsbD_or, h, Bool.true_or]

/-- Programming that a power loss cuts keeps what the word held before it began. -/
theorem Env.cutBurn_otp (e : Env) (i : Nat) (old free : Word) (w b : Nat) (hold : i = w → old.getLsbD b = true)
    (h : (e.otpWord w).getLsbD b = true) : ((e.cutBurn i old free).otpWord w).getLsbD b = true := by
  unfold Env.cutBurn
  dsimp only
  rw [Env.otpWord_set]
  split
  · next hw => rw [BitVec.getLsbD_or, hold hw.symm, Bool.true_or]
  · exact h

theorem Env.foldl_cutBurn_otp (f : Nat × Word → Word) (w b : Nat) (l : List (Nat × Word)) (e : Env)
    (hold : ∀ x ∈ l, x.1 = w → x.2.getLsbD b = true) (h : (e.otpWord w).getLsbD b = true) :
    ((l.foldl (fun e x => e.cutBurn x.1 x.2 (f x)) e).otpWord w).getLsbD b = true := by
  induction l generalizing e with
  | nil => exact h
  | cons x l ih =>
    exact ih _ (fun y hy => hold y (List.mem_cons_of_mem _ hy)) (Env.cutBurn_otp e _ _ _ w b (hold x List.mem_cons_self) h)

/-- What `Env.cutBurn` leaves alone. -/
def Env.clocks (e : Env) : Nat × Nat × Nat × Nat × List Nat := (e.tq, e.phase, e.regions, e.stepping, e.fit)

theorem Env.keepsBuild_of_clocks {e e' : Env} (h : e'.clocks = e.clocks) : e'.tq = e.tq ∧ e.KeepsBuild e' := by
  simp only [Env.clocks, Prod.mk.injEq] at h
  obtain ⟨htq, hphase, hregions, hstepping, hfit⟩ := h
  exact ⟨htq, ⟨fun h => hphase ▸ h, hregions, hstepping, hfit⟩⟩

theorem Env.foldl_cutBurn_clocks (f : Nat × Word → Word) (l : List (Nat × Word)) (e : Env) :
    (l.foldl (fun e x => e.cutBurn x.1 x.2 (f x)) e).clocks = e.clocks :=
  foldl_keeps Env.clocks (fun e x => e.cutBurn x.1 x.2 (f x)) (fun _ _ => rfl) l e

theorem Env.foldl_program_clocks (f : Nat → Word) (l : List Nat) (e : Env) :
    (l.foldl (fun e i => e.program (1 + i) (f i)) e).clocks = e.clocks :=
  foldl_keeps Env.clocks (fun e i => e.program (1 + i) (f i)) (fun _ _ => rfl) l e

/-! ### Resets and the passing of time -/

/-- A cold reset sets die time to 0 and leaves the build; the OTP keeps its bits, but for those whose programming is cut. -/
theorem State.cold_follows (s : State) (power : Bool) : Env.Follows s.d.se.burn s.env (s.cold power).env := by
  unfold State.cold
  extract_lets e₀ e₁ e₂
  have h₁ : e₁.clocks = e₀.clocks ∧ e₀.keepsOtp e₁ := by
    unfold e₁
    split
    · next t _ =>
      split_ifs
      · exact ⟨rfl, Env.keepsOtp_set e₀ 0 _ (fun b hb => partWord_keeps _ _ _ b hb)⟩
      · exact ⟨Env.foldl_program_clocks _ _ _, ((e₀.keeps_program 0 _).trans (Env.keeps_foldl_program _ _ _)).otp⟩
      · exact ⟨Env.foldl_program_clocks (fun _ => BitVec.allOnes 64) _ _,
          ((e₀.keeps_program 0 _).trans (Env.keeps_foldl_program (fun _ => BitVec.allOnes 64) _ _)).otp⟩
      · exact ⟨rfl, (e₀.keeps_program 0 _).otp⟩
    · exact ⟨rfl, Env.keepsOtp_of_eq rfl⟩
  have h₂ : e₂.clocks = e₀.clocks := by
    unfold e₂
    split
    · exact (Env.foldl_cutBurn_clocks (fun x => Config.freeWord (s.d.ctr + 4 + x.1)) _ _).trans h₁.1
    · exact h₁.1
  obtain ⟨htq, hbuild⟩ := Env.keepsBuild_of_clocks h₂
  refine ⟨.inr htq, Env.KeepsBuild.trans (e' := e₀) ⟨fun _ => Nat.succ_pos 12499, rfl, rfl, rfl⟩ hbuild, fun w i hburn hb => ?_⟩
  have hb₁ : (e₁.otpWord w).getLsbD i = true := h₁.2 w i hb
  change (e₂.otpWord w).getLsbD i = true
  unfold e₂
  split
  · exact Env.foldl_cutBurn_otp (fun x => Config.freeWord (s.d.ctr + 4 + x.1)) w i _ _ hburn hb₁
  · exact hb₁

theorem State.warm_keeps (s : State) (fromDie : Bool) : s.env.Keeps (s.warm fromDie).env := .of_same rfl rfl rfl rfl rfl rfl

/-- The periods of the reference outweigh the slew that enters with them. -/
theorem Env.tq_periods (e : Env) (n : Nat) : e.tq ≤ (e.periods n).tq := by
  have h : -(1310 * (n : Int)) ≤ e.slewPart n := le_max_left _ _
  change e.tq ≤ (((e.tq + n * 2621440 : Nat) : Int) + e.slewPart n).toNat
  omega

theorem State.pass_keeps (s : State) (n : Nat) (late : Bool) : s.env.Keeps (s.pass n late).env := by
  unfold State.pass
  extract_lets e d e'
  split_ifs with hpwr hphase
  · exact .refl _
  · exact ⟨s.env.tq_periods n, ⟨fun _ => hphase, rfl, rfl, rfl⟩, Env.keepsOtp_of_eq rfl⟩
  · exact ⟨s.env.tq_periods n, ⟨fun _ => Nat.succ_pos 12499, rfl, rfl, rfl⟩, Env.keepsOtp_of_eq rfl⟩

/-! ### What a row answers -/

/-- The outcome is a next state that has the queue of `s` and keeps of its always-on state what a step keeps. -/
def State.Goes (s : State) (o : Host.Outcome State Fault Refusal) : Prop :=
  ∃ t, o = .next t ∧ t.pending = s.pending ∧ Env.Follows s.d.se.burn s.env t.env

theorem State.goes_go (s : State) (d : Die) : s.Goes (s.go d) := ⟨_, rfl, rfl, (Env.Keeps.refl _).follows _⟩

theorem State.goes_next {s t : State} (hpending : t.pending = s.pending) (h : s.env.Keeps t.env) : s.Goes (.next t) :=
  ⟨t, rfl, hpending, h.follows _⟩

/-- A row that acts on a die with the same OTP programming under way. -/
theorem State.goes_of_die {s : State} {d : Die} {o : Host.Outcome State Fault Refusal} (hd : d.se = s.d.se)
    (h : ({ s with d := d } : State).Goes o) : s.Goes o := by
  obtain ⟨t, ho, hpending, henv⟩ := h
  exact ⟨t, ho, hpending, hd ▸ henv⟩

set_option maxRecDepth 100000 in
/-- Every row that cannot change the always-on state answers with another die. -/
theorem exec_goes_die (i : Instr) (s : State) (hi : touchesEnv i = false) : ∃ d, exec i s = .next { s with d := d } := by
  cases i
  case idcode | dbgChallenge | dbgResponse | lcReq | bypass | tapReset =>
    unfold exec
    dsimp only
    simp only [execIdcode, execDbgChallenge, execDbgResponse, execLcReq, execBypass, execTapReset]
    unfold State.tapDo
    split <;> exact ⟨_, rfl⟩
  all_goals first
    | exact nomatch (show true = false from hi)
    | exact ⟨_, rfl⟩

theorem execPowerGood_goes (s : State) : s.Goes (execPowerGood s) := by
  unfold execPowerGood
  split <;> exact s.goes_go _

theorem State.goes_cold (s : State) (power : Bool) : s.Goes (.next (s.cold power)) := ⟨_, rfl, rfl, s.cold_follows power⟩

theorem State.goes_warm (s : State) (fromDie : Bool) : s.Goes (.next (s.warm fromDie)) := State.goes_next rfl (s.warm_keeps fromDie)

theorem execColdReset_goes (s : State) (pin : Bool) : s.Goes (execColdReset pin s) := by
  unfold execColdReset
  split
  · exact s.goes_go _
  · exact s.goes_cold _

theorem execWarmReset_goes (s : State) : s.Goes (execWarmReset s) := by
  unfold execWarmReset
  split
  · exact s.goes_warm _
  · exact s.goes_go _

theorem State.resetWrite_goes (s : State) (who : Who) (v : Word) : s.Goes (s.resetWrite who v) := by
  unfold State.resetWrite
  split
  · exact s.goes_go _
  · dsimp only
    split_ifs
    · exact s.goes_warm _
    · exact s.goes_cold _
    · exact s.goes_go _

/-! ### Assay: a report that is a DIE fault resets the die -/

/-- The queue is the same, and the always-on state has kept what a row other than a cold reset keeps. -/
def State.RunsOn (s t : State) : Prop := t.pending = s.pending ∧ s.env.Keeps t.env

theorem State.RunsOn.refl (s : State) : s.RunsOn s := ⟨rfl, .refl _⟩

theorem State.RunsOn.trans {s t u : State} (h : s.RunsOn t) (h' : t.RunsOn u) : s.RunsOn u :=
  ⟨h'.1.trans h.1, h.2.trans h'.2⟩

theorem State.RunsOn.die {s t : State} (h : s.RunsOn t) (d : Die) : s.RunsOn { t with d := d } := ⟨h.1, h.2⟩

theorem State.runsOn_die (s : State) (d : Die) : s.RunsOn { s with d := d } := (State.RunsOn.refl s).die d

theorem State.dieFault_runsOn (s : State) (r : Report) (more : List Report) : s.RunsOn (s.dieFault r more) :=
  ⟨rfl, .of_same rfl rfl rfl rfl rfl rfl⟩

theorem State.takeReport_runsOn (s : State) (r : Report) : s.RunsOn (s.takeReport r) := by
  unfold State.takeReport
  dsimp only
  split_ifs
  · exact .refl s
  · exact (s.runsOn_die _).trans (State.dieFault_runsOn _ _ _)
  · exact s.runsOn_die _

theorem State.classify_runsOn (s : State) : s.RunsOn s.classify := by
  unfold State.classify
  split
  · exact .refl s
  · dsimp only
    split
    · exact (s.runsOn_die _).trans (State.dieFault_runsOn _ _ _)
    · exact s.runsOn_die _

theorem State.classifyAll_runsOn (fuel : Nat) (s : State) : s.RunsOn (State.classifyAll fuel s) := by
  induction fuel generalizing s with
  | zero => exact .refl s
  | succ fuel ih =>
    unfold State.classifyAll
    split
    · exact .refl s
    · exact s.classify_runsOn.trans (ih _)

theorem State.enterUntil_runsOn (r : Report) (fuel : Nat) (s : State) : s.RunsOn (State.enterUntil r fuel s) := by
  induction fuel generalizing s with
  | zero => exact .refl s
  | succ fuel ih =>
    unfold State.enterUntil
    split
    · exact .refl s
    · next x _ =>
      extract_lets s₁ d
      have h₁ : s.RunsOn s₁ := by
        unfold s₁
        split
        · exact s.classify_runsOn
        · exact .refl s
      split
      · exact h₁.die d
      · exact (h₁.die _).trans (ih { s₁ with d := { d with ay.early := d.ay.early ++ [x] } })

theorem State.intake_runsOn (s : State) (r : Report) : s.RunsOn (s.intake r) := by
  unfold State.intake
  extract_lets e d₀ ay stands x d s₁ n s₂ s₃
  have h₁ : s.RunsOn s₁ := by
    unfold s₁
    split
    · exact .refl s
    · exact s.runsOn_die _
  have h₂ : s.RunsOn s₂ := by
    unfold s₂
    split
    · exact h₁.trans (State.enterUntil_runsOn _ _ _)
    · exact h₁
  have h₃ : s.RunsOn s₃ := h₂.trans (State.classifyAll_runsOn _ _)
  split_ifs
  · exact .refl s
  · exact s.runsOn_die _
  · exact s.takeReport_runsOn r
  · exact h₃.die _

theorem State.RunsOn.goes {s t : State} (h : s.RunsOn t) : s.Goes (.next t) := State.goes_next h.1 h.2

theorem execAssayReport_goes (s : State) (r : Report) : s.Goes (execAssayReport r s) := by
  unfold execAssayReport
  split
  · exact (s.intake_runsOn r).goes
  · exact (State.RunsOn.refl s).goes

theorem execDieLine_goes (s : State) (r : Report) : s.Goes (execDieLine r s) := by
  unfold execDieLine
  split
  · exact (s.takeReport_runsOn r).goes
  · exact (State.RunsOn.refl s).goes

/-! ### Writes of registers with a behaviour of their own -/

theorem signedWrite_goes (s : State) (who : Who) (r : Reg) (i : Nat) (act : Nat → Nat → Env)
    (hact : ∀ key svn, s.env.Keeps (act key svn)) : s.Goes (signedWrite s who r i act) := by
  unfold signedWrite
  split
  · exact s.goes_go _
  · split
    · extract_lets
      split <;> exact State.goes_next rfl (hact _ _)
    · exact s.goes_go _

theorem execSvnAdvance_goes (s : State) (who : Who) (v : Word) : s.Goes (execSvnAdvance who v s) := by
  refine signedWrite_goes s who _ _ _ (fun _ svn => ?_)
  split
  · exact Env.keeps_program _ _ _
  · exact .refl _

theorem execKeyRevoke_goes (s : State) (who : Who) (v : Word) : s.Goes (execKeyRevoke who v s) :=
  signedWrite_goes s who _ _ _ (fun _ _ => Env.keeps_program _ _ _)

/-- A time loaded is later than the one that stands (R431). -/
theorem execChTimeLoad_goes (s : State) (who : Who) (v : Word) : s.Goes (execChTimeLoad who v s) := by
  unfold execChTimeLoad
  split
  · exact s.goes_go _
  · split
    · next h =>
      have hlater : s.env.tq ≤ v.toNat * 65536 := by
        have := h.2
        unfold Env.now at this
        omega
      exact State.goes_next rfl ⟨hlater, ⟨id, rfl, rfl, rfl⟩, Env.keepsOtp_of_eq rfl⟩
    · exact s.goes_go _

theorem execLcProgramDone_goes (s : State) : s.Goes (execLcProgramDone s) := by
  unfold execLcProgramDone
  split
  · exact s.goes_go _
  · next target _ =>
    extract_lets _ _ d e e₂
    have h : s.env.Keeps e := Env.keeps_program _ _ _
    split_ifs
    · exact State.goes_next rfl (h.trans (Env.keeps_foldl_program (fun i => Config.freeWord (d.ctr + i)) _ _))
    · exact State.goes_next rfl (h.trans (Env.keeps_foldl_program (fun _ => BitVec.allOnes 64) _ _))
    · exact State.goes_next rfl h

theorem Env.keeps_forward (e : Env) (n : Nat) (slew : Int) : e.Keeps { e with tq := e.tq + n, slew := slew } :=
  ⟨Nat.le_add_right _ _, ⟨id, rfl, rfl, rfl⟩, Env.keepsOtp_of_eq rfl⟩

theorem Env.keeps_slew (e : Env) (slew : Int) : e.Keeps { e with slew := slew } := .of_same rfl rfl rfl rfl rfl rfl

/-- A time exchange steps die time forward, or sets the slew that is to come (R200). -/
theorem execTimeRsp_goes (s : State) (p : BitVec 4) (b : List Byte) : s.Goes (execTimeRsp p b s) := by
  unfold execTimeRsp
  extract_lets e d port
  split
  · exact s.goes_go _
  · split
    · exact s.goes_go _
    · extract_lets
      split_ifs
      · exact s.goes_go _
      · exact State.goes_next rfl (e.keeps_forward _ 0)
      · exact State.goes_next rfl (e.keeps_slew _)

theorem execFirmwareSeal_goes (s : State) (who : Who) (v : Word) : s.Goes (execFirmwareSeal who v s) := by
  unfold execFirmwareSeal
  dsimp only
  split
  · exact s.goes_go _
  · split
    · exact s.goes_go _
    · exact State.goes_next rfl (.of_same rfl rfl rfl rfl rfl rfl)

theorem execSlot0Bind_goes (s : State) (who : Who) (v : Word) : s.Goes (execSlot0Bind who v s) := by
  unfold execSlot0Bind
  dsimp only
  split
  · split <;> exact s.goes_go _
  · split
    · exact State.goes_next rfl (.of_same rfl rfl rfl rfl rfl rfl)
    · split
      · exact State.goes_next rfl (.of_same rfl rfl rfl rfl rfl rfl)
      · exact s.goes_go _

/-! ### A write of any register, and the ports through which it comes -/

theorem State.goes_regWrite (s : State) (who : Who) (r : Reg) (i w : Nat) (v : Word) : s.Goes (s.regWrite who r i w v) := by
  by_cases hr : r ∈ envRegs
  · simp only [envRegs, List.mem_cons, List.not_mem_nil, or_false] at hr
    rcases hr with rfl | rfl | rfl | rfl | rfl | rfl | rfl | rfl
    · unfold State.regWrite
      dsimp only
      split
      · exact s.goes_go _
      · exact State.goes_next rfl (.of_same rfl rfl rfl rfl rfl rfl)
    · unfold State.regWrite
      dsimp only
      split
      · exact s.goes_go _
      · exact State.goes_next rfl (.of_same rfl rfl rfl rfl rfl rfl)
    · exact execSlot0Bind_goes s who v
    · exact execChTimeLoad_goes s who v
    · exact execSvnAdvance_goes s who v
    · exact execKeyRevoke_goes s who v
    · exact s.resetWrite_goes who v
    · exact execFirmwareSeal_goes s who v
  · obtain ⟨d, hgoes⟩ := s.regWrite_goes who r i w v hr
    rw [hgoes]
    exact s.goes_go d

theorem State.bar0Write_goes (s : State) (who : Who) (off : Nat) (data : List Byte) : s.Goes (s.bar0Write who off data) := by
  unfold State.bar0Write
  split
  · exact s.goes_go _
  · split
    · exact s.goes_go _
    · split
      · exact s.goes_go _
      · split
        · exact s.goes_go _
        · exact s.goes_regWrite who _ _ _ _

theorem execRegisterWrite_goes (s : State) (who : Who) (off : BitVec 26) (v : Word) : s.Goes (execRegisterWrite who off v s) := by
  unfold execRegisterWrite
  split
  · exact s.bar0Write_goes who _ _
  · exact s.goes_go _

/-- The registers that a bandwidth monitor writes. -/
def monRegs : List Reg := [.CH_BWLAST, .CH_BWPEAK, .CH_BWCOUNT]

/-- A part of the die that no monitor's registers and counts enter is kept when the windows of a monitor close. -/
theorem Die.rollMon_keeps {γ : Type} (g : Die → γ) (hset : ∀ (y : Die) (f : Fld) (i v : Nat), f.reg ∈ monRegs → g (y.setF f i v) = g y)
    (hmons : ∀ (y : Die) (t : Tab (Nat × Nat × Bool)), g { y with ch.mons := t } = g y) (d : Die) (e : Env) (m : Nat) :
    g (d.rollMon e m) = g d := by
  unfold Die.rollMon
  extract_lets s w last d₁ d₂ d₃ d₄
  split
  · rfl
  · rw [hmons]
    calc g d₄ = g d₃ := hset _ _ _ _ (by decide)
      _ = g d₂ := hset _ _ _ _ (by decide)
      _ = g d₁ := hset _ _ _ _ (by decide)
      _ = g d := hset _ _ _ _ (by decide)

theorem Die.monitor_keeps {γ : Type} (g : Die → γ) (hset : ∀ (y : Die) (f : Fld) (i v : Nat), f.reg ∈ monRegs → g (y.setF f i v) = g y)
    (hmons : ∀ (y : Die) (t : Tab (Nat × Nat × Bool)), g { y with ch.mons := t } = g y) (d : Die) (e : Env) (source inst dir n : Nat) :
    g (d.monitor e source inst dir n) = g d := by
  unfold Die.monitor
  refine foldl_keeps g _ (fun y m => ?_) _ _
  extract_lets y₁ s
  have h : g y₁ = g y := Die.rollMon_keeps g hset hmons y e m
  split_ifs
  · exact (hmons _ _).trans h
  · exact h
  · rfl

theorem Die.monitor_se (d : Die) (e : Env) (source inst dir n : Nat) : (d.monitor e source inst dir n).se = d.se :=
  Die.monitor_keeps (fun y : Die => y.se) (fun y f i v _ => Die.setF_se y f i v) (fun _ _ => rfl) d e source inst dir n

theorem Die.hostInCount_se (e : Env) (d : Die) (n : Nat) : (d.hostInCount e n).se = d.se := by
  unfold Die.hostInCount
  rw [Die.monitor_se, Die.count_se, Die.count_se, Die.count_se]

theorem Die.hpTaken_se (d : Die) (q : HpReq) : (d.hpTaken q).se = d.se := by
  unfold Die.hpTaken Die.hpFree
  split
  · rfl
  · exact foldl_keeps (fun y : Die => y.se) _ (fun y _ => Die.send_se y _) _ _

theorem State.hostTarget_goes (s : State) (q : HpReq) : s.Goes (s.hostTarget q) := by
  unfold State.hostTarget
  dsimp only
  split
  · split_ifs
    · exact s.goes_go _
    · exact State.goes_of_die (s.d.hpTaken_se q) (State.bar0Write_goes _ _ _ _)
    · split <;> exact s.goes_go _
  · split
    · exact s.goes_go _
    · exact s.goes_go _
  · split <;> exact s.goes_go _

theorem execHostPortRequest_goes (s : State) (q : HpReq) : s.Goes (execHostPortRequest q s) := by
  unfold execHostPortRequest
  extract_lets e host d f
  split_ifs
  · exact s.goes_go _
  · exact s.goes_go _
  · exact s.goes_go _
  · exact s.goes_go _
  · exact State.goes_of_die (Die.hostInCount_se e s.d _) (State.hostTarget_goes _ q)

theorem execDbgAccess_goes (s : State) (wr mem : Bool) (addr : BitVec 64) (data : Word) : s.Goes (execDbgAccess wr mem addr data s) := by
  unfold execDbgAccess
  extract_lets e _ _ d
  split_ifs
  · exact s.goes_go _
  · exact s.goes_go _
  · exact s.goes_go _
  · exact s.goes_go _
  · exact State.goes_of_die rfl (State.bar0Write_goes { s with d := d } .tap _ _)
  · exact s.goes_go _

/-! ### A whole step -/

theorem exec_goes (i : Instr) (s : State) : s.Goes (exec i s) := by
  cases hi : touchesEnv i with
  | false =>
    obtain ⟨d, hd⟩ := exec_goes_die i s hi
    rw [hd]
    exact s.goes_go d
  | true =>
    cases i
    case registerWrite who off v => exact execRegisterWrite_goes s who off v
    case tick fwBusy => exact State.goes_next (by unfold State.pass; dsimp only; split_ifs <;> rfl) (s.pass_keeps _ fwBusy)
    case chTimeLoad who v => exact execChTimeLoad_goes s who v
    case timeRsp p b => exact execTimeRsp_goes s p b
    case lcProgramDone => exact execLcProgramDone_goes s
    case svnAdvance who v => exact execSvnAdvance_goes s who v
    case keyRevoke who v => exact execKeyRevoke_goes s who v
    case slot0Bind who v => exact execSlot0Bind_goes s who v
    case firmwareSeal who v => exact execFirmwareSeal_goes s who v
    case dieLine r => exact execDieLine_goes s r
    case assayReport r => exact execAssayReport_goes s r
    case hostPortRequest q => exact execHostPortRequest_goes s q
    case dbgAccess wr mem addr data => exact execDbgAccess_goes s wr mem addr data
    case powerGood => exact execPowerGood_goes s
    case coldReset pin => exact execColdReset_goes s pin
    case warmReset => exact execWarmReset_goes s
    case stResetWarm who v => exact s.resetWrite_goes who v
    case stResetCold who v => exact s.resetWrite_goes who v
    all_goals exact nomatch (show false = true from hi)

/-- Every step answers a next state, and keeps of the always-on state what a step keeps. -/
theorem step_follows (s : State) : ∃ t, step s = .next t ∧ Env.Follows s.d.se.burn s.env t.env := by
  unfold step
  split
  · exact ⟨_, rfl, (s.pass_keeps 1 false).follows _⟩
  · next c rest _ =>
    obtain ⟨t, ht, -, henv⟩ := exec_goes c { s with pending := rest }
    exact ⟨t, ht, henv⟩

theorem follows_of_step {s t : State} (h : step s = .next t) : Env.Follows s.d.se.burn s.env t.env := by
  obtain ⟨u, hu, henv⟩ := step_follows s
  cases hu.symm.trans h
  exact henv

/-! ### O4, O6, O7 and O3 -/

/-- Settles O4, by the programmed bits that `Env.Follows` keeps over every step. -/
theorem otpBitsNeverClear : Obligations.OtpBitsNeverClear := by
  unfold Obligations.OtpBitsNeverClear
  intro s t hstep
  exact (follows_of_step hstep).otp

/-- Settles O6, by the time that `Env.Follows` keeps over every step. -/
theorem dieTimeNeverRunsBackwards : Obligations.DieTimeNeverRunsBackwards := by
  unfold Obligations.DieTimeNeverRunsBackwards
  intro s t hstep
  exact (follows_of_step hstep).time

/-- Settles O7, by the build that `Env.Follows` keeps over every step. -/
theorem stepsKeepTheTickPhaseAndTheBuild : Obligations.StepsKeepTheTickPhaseAndTheBuild := by
  unfold Obligations.StepsKeepTheTickPhaseAndTheBuild
  intro s t hphase hstep
  have h := (follows_of_step hstep).build
  exact ⟨h.phase hphase, h.regions, h.stepping, h.fit⟩

/-- Settles O3: every row answers a next state with the queue it found. -/
theorem everyStepGoesOnAndKeepsTheQueue : Obligations.EveryStepGoesOnAndKeepsTheQueue := by
  unfold Obligations.EveryStepGoesOnAndKeepsTheQueue
  refine ⟨fun s => ?_, fun i s => ?_⟩
  · obtain ⟨t, ht, -⟩ := step_follows s
    exact ⟨t, ht⟩
  · obtain ⟨t, ht, hpending, -⟩ := exec_goes i s
    exact ⟨t, ht, hpending⟩

end Sys2Proof.Machine
end

section
/-! PROOF. Footprints: which registers and which parts of the die an operation may change. A footprint is checked by evaluation, footprints
compose, and everything outside one is read afterwards as before. -/

-- One proof after another: all at once, they ask for more threads than the check's memory limit admits.
set_option Elab.async false

namespace Sys2Proof.Machine

/-! ### A footprint and what stays outside it -/

/-- What an operation may change: words of the listed registers, and the parts of the die that are marked. `mem` is the memory side
but for the bytes and side bands of DRAM, which are `dram`. -/
structure Touch where
  regs : List Reg := []
  sf : Bool := false
  sm : Bool := false
  ty : Bool := false
  stu : Bool := false
  we : Bool := false
  coh : Bool := false
  mem : Bool := false
  dram : Bool := false
  eng : Bool := false
  se : Bool := false
  ay : Bool := false
  ch : Bool := false
  bt : Bool := false
  out : Bool := false
  rose : Bool := false
  rearmed : Bool := false
  ctr : Bool := false
  nid : Bool := false

/-- One footprint lies within another. -/
def Touch.le (p q : Touch) : Bool :=
  p.regs.all (fun r => q.regs.contains r) && (!p.sf || q.sf) && (!p.sm || q.sm) && (!p.ty || q.ty) && (!p.stu || q.stu) && (!p.we || q.we) && (!p.coh || q.coh) &&
    (!p.mem || q.mem) && (!p.dram || q.dram) && (!p.eng || q.eng) && (!p.se || q.se) && (!p.ay || q.ay) && (!p.ch || q.ch) &&
    (!p.bt || q.bt) && (!p.out || q.out) && (!p.rose || q.rose) && (!p.rearmed || q.rearmed) && (!p.ctr || q.ctr) && (!p.nid || q.nid)

/-- What a footprint leaves of the registers. -/
def Touch.leavesRegs (p : Touch) (d : Die) (r : Reg) : Tab Word := bif p.regs.contains r then [] else Tab.get [] d.regs r.ctorIdx

/-- What a footprint leaves of the memory side. -/
def Touch.leavesMem (p : Touch) (m : Mem) : Mem :=
  { (bif p.mem then {} else m) with dram := bif p.dram then [] else m.dram, side := bif p.dram then [] else m.side }

/-- What a footprint leaves of the rest of the die. -/
def Touch.leaves (p : Touch) (d : Die) : Die :=
  { regs := [],
    sf := bif p.sf then {} else d.sf,
    sm := bif p.sm then {} else d.sm,
    ty := bif p.ty then {} else d.ty,
    stu := bif p.stu then {} else d.stu,
    we := bif p.we then {} else d.we,
    coh := bif p.coh then {} else d.coh,
    mem := p.leavesMem d.mem,
    eng := bif p.eng then {} else d.eng,
    se := bif p.se then {} else d.se,
    ay := bif p.ay then {} else d.ay,
    ch := bif p.ch then {} else d.ch,
    bt := bif p.bt then {} else d.bt,
    out := bif p.out then [] else d.out,
    rose := bif p.rose then [] else d.rose,
    rearmed := bif p.rearmed then [] else d.rearmed,
    ctr := bif p.ctr then 0 else d.ctr,
    nid := bif p.nid then 0 else d.nid }

/-- `t` differs from `d` within the footprint only. -/
def Within (p : Touch) (d t : Die) : Prop := p.leavesRegs t = p.leavesRegs d ∧ p.leaves t = p.leaves d

theorem Within.refl {p : Touch} (d : Die) : Within p d d := ⟨rfl, rfl⟩

theorem Within.trans {p : Touch} {d t u : Die} (h : Within p d t) (h' : Within p t u) : Within p d u :=
  ⟨h'.1.trans h.1, h'.2.trans h.2⟩

/-- A change that keeps the registers, and what the footprint leaves of the rest, is within it. -/
theorem Within.of_eq {p : Touch} {d t : Die} (hr : t.regs = d.regs) (h : p.leaves t = p.leaves d) : Within p d t :=
  ⟨by unfold Touch.leavesRegs; rw [hr], h⟩

/-! ### What is read as before -/

theorem eq_of_bif {α : Type} {a : Bool} {x y z : α} (ha : a = false) (h : (bif a then x else y) = bif a then x else z) : y = z := by
  subst ha
  exact h

theorem Within.table {p : Touch} {d t : Die} (h : Within p d t) (r : Reg) (hr : p.regs.contains r = false) :
    Tab.get [] t.regs r.ctorIdx = Tab.get [] d.regs r.ctorIdx := by
  have hreg := congrFun h.1 r
  unfold Touch.leavesRegs at hreg
  rwa [hr] at hreg

theorem Within.reg {p : Touch} {d t : Die} (h : Within p d t) (r : Reg) (i w : Nat) (hr : p.regs.contains r = false := by rfl) :
    t.reg r i w = d.reg r i w := by
  unfold Die.reg; rw [h.table r hr]

theorem Within.getF {p : Touch} {d t : Die} (h : Within p d t) (f : Fld) (i : Nat) (hr : p.regs.contains f.reg = false := by rfl) :
    t.getF f i = d.getF f i := by
  unfold Die.getF; rw [h.reg f.reg i f.word hr]

theorem Within.bit {p : Touch} {d t : Die} (h : Within p d t) (f : Fld) (i : Nat) (hr : p.regs.contains f.reg = false := by rfl) :
    t.bit f i = d.bit f i := by
  unfold Die.bit; rw [h.getF f i hr]

theorem Within.keepsRegs {p : Touch} {d t : Die} (h : Within p d t) : keepsRegs d t p.regs :=
  fun r hr i w => h.reg r i w (by simpa using hr)

theorem Within.sf {p : Touch} {d t : Die} (h : Within p d t) (hp : p.sf = false := by rfl) : t.sf = d.sf :=
  eq_of_bif hp (congrArg (·.sf) h.2)

theorem Within.sm {p : Touch} {d t : Die} (h : Within p d t) (hp : p.sm = false := by rfl) : t.sm = d.sm :=
  eq_of_bif hp (congrArg (·.sm) h.2)

theorem Within.ty {p : Touch} {d t : Die} (h : Within p d t) (hp : p.ty = false := by rfl) : t.ty = d.ty :=
  eq_of_bif hp (congrArg (·.ty) h.2)

theorem Within.stu {p : Touch} {d t : Die} (h : Within p d t) (hp : p.stu = false := by rfl) : t.stu = d.stu :=
  eq_of_bif hp (congrArg (·.stu) h.2)

theorem Within.we {p : Touch} {d t : Die} (h : Within p d t) (hp : p.we = false := by rfl) : t.we = d.we :=
  eq_of_bif hp (congrArg (·.we) h.2)

theorem Within.coh {p : Touch} {d t : Die} (h : Within p d t) (hp : p.coh = false := by rfl) : t.coh = d.coh :=
  eq_of_bif hp (congrArg (·.coh) h.2)

theorem Within.mem {p : Touch} {d t : Die} (h : Within p d t) (hm : p.mem = false := by rfl) (hd : p.dram = false := by rfl) : t.mem = d.mem := by
  have hmem : p.leavesMem t.mem = p.leavesMem d.mem := congrArg (·.mem) h.2
  simp only [Touch.leavesMem, hm, hd, cond_false] at hmem
  exact hmem

theorem Within.dram {p : Touch} {d t : Die} (h : Within p d t) (hd : p.dram = false := by rfl) : t.mem.dram = d.mem.dram :=
  eq_of_bif hd (congrArg (·.mem.dram) h.2)

theorem Within.sideBand {p : Touch} {d t : Die} (h : Within p d t) (hd : p.dram = false := by rfl) : t.mem.side = d.mem.side :=
  eq_of_bif hd (congrArg (·.mem.side) h.2)

theorem Within.eng {p : Touch} {d t : Die} (h : Within p d t) (hp : p.eng = false := by rfl) : t.eng = d.eng :=
  eq_of_bif hp (congrArg (·.eng) h.2)

theorem Within.se {p : Touch} {d t : Die} (h : Within p d t) (hp : p.se = false := by rfl) : t.se = d.se :=
  eq_of_bif hp (congrArg (·.se) h.2)

theorem Within.ay {p : Touch} {d t : Die} (h : Within p d t) (hp : p.ay = false := by rfl) : t.ay = d.ay :=
  eq_of_bif hp (congrArg (·.ay) h.2)

theorem Within.ch {p : Touch} {d t : Die} (h : Within p d t) (hp : p.ch = false := by rfl) : t.ch = d.ch :=
  eq_of_bif hp (congrArg (·.ch) h.2)

theorem Within.bt {p : Touch} {d t : Die} (h : Within p d t) (hp : p.bt = false := by rfl) : t.bt = d.bt :=
  eq_of_bif hp (congrArg (·.bt) h.2)

theorem Within.out {p : Touch} {d t : Die} (h : Within p d t) (hp : p.out = false := by rfl) : t.out = d.out :=
  eq_of_bif hp (congrArg (·.out) h.2)

theorem Within.rose {p : Touch} {d t : Die} (h : Within p d t) (hp : p.rose = false := by rfl) : t.rose = d.rose :=
  eq_of_bif hp (congrArg (·.rose) h.2)

theorem Within.rearmed {p : Touch} {d t : Die} (h : Within p d t) (hp : p.rearmed = false := by rfl) : t.rearmed = d.rearmed :=
  eq_of_bif hp (congrArg (·.rearmed) h.2)

theorem Within.ctr {p : Touch} {d t : Die} (h : Within p d t) (hp : p.ctr = false := by rfl) : t.ctr = d.ctr :=
  eq_of_bif hp (congrArg (·.ctr) h.2)

theorem Within.nid {p : Touch} {d t : Die} (h : Within p d t) (hp : p.nid = false := by rfl) : t.nid = d.nid :=
  eq_of_bif hp (congrArg (·.nid) h.2)

/-! ### A wider footprint -/

theorem bif_mono {α : Type} {a b : Bool} {x y z : α} (hab : (!a || b) = true) (h : (bif a then x else y) = bif a then x else z) :
    (bif b then x else y) = bif b then x else z := by
  cases a with
  | false => exact congrArg (fun y => bif b then x else y) h
  | true =>
    have hb : b = true := hab
    rw [hb]
    rfl

theorem Within.mono {p q : Touch} {d t : Die} (h : Within p d t) (hle : p.le q = true := by rfl) : Within q d t := by
  simp only [Touch.le, Bool.and_eq_true, List.all_eq_true] at hle
  obtain ⟨⟨⟨⟨⟨⟨⟨⟨⟨⟨⟨⟨⟨⟨⟨⟨⟨⟨hregs, hsf⟩, hsm⟩, hty⟩, hstu⟩, hwe⟩, hcoh⟩, hmem⟩, hdram⟩, heng⟩, hse⟩, hay⟩, hch⟩, hbt⟩, hout⟩, hrose⟩, hrearmed⟩, hctr⟩, hnid⟩ := hle
  constructor
  · funext r
    unfold Touch.leavesRegs
    by_cases hr : q.regs.contains r = true
    · rw [hr]; rfl
    · have hp : p.regs.contains r = false := by
        by_contra hc
        exact hr (hregs r (by simpa using hc))
      rw [h.table r hp]
  · have hpart := h.2
    unfold Touch.leaves at hpart
    simp only [Die.mk.injEq] at hpart
    obtain ⟨-, esf, esm, ety, estu, ewe, ecoh, emem, eeng, ese, eay, ech, ebt, eout, erose, erearmed, ectr, enid⟩ := hpart
    have hmemory : q.leavesMem t.mem = q.leavesMem d.mem := by
      have hdram' : (bif p.dram then [] else t.mem.dram) = bif p.dram then [] else d.mem.dram := congrArg (·.dram) emem
      have hside' : (bif p.dram then [] else t.mem.side) = bif p.dram then [] else d.mem.side := congrArg (·.side) emem
      have hrest : ({ (bif p.mem then {} else t.mem) with dram := [], side := [] } : Mem) = { (bif p.mem then {} else d.mem) with dram := [], side := [] } :=
        congrArg (fun m : Mem => { m with dram := [], side := [] }) emem
      have hrest' : ({ (bif q.mem then {} else t.mem) with dram := [], side := [] } : Mem) = { (bif q.mem then {} else d.mem) with dram := [], side := [] } := by
        revert hrest
        cases hpm : p.mem
        · cases hqm : q.mem
          · exact id
          · exact fun _ => rfl
        · have hqm : q.mem = true := by rwa [hpm] at hmem
          rw [hqm]
          exact fun _ => rfl
      have e₁ := bif_mono hdram hdram'
      have e₂ := bif_mono hdram hside'
      unfold Touch.leavesMem
      rw [e₁, e₂]
      exact congrArg (fun m : Mem => { m with dram := bif q.dram then [] else d.mem.dram, side := bif q.dram then [] else d.mem.side }) hrest'
    unfold Touch.leaves
    rw [hmemory, bif_mono hsf esf, bif_mono hsm esm, bif_mono hty ety, bif_mono hstu estu, bif_mono hwe ewe, bif_mono hcoh ecoh, bif_mono heng eeng, bif_mono hse ese, bif_mono hay eay, bif_mono hch ech, bif_mono hbt ebt, bif_mono hout eout, bif_mono hrose erose, bif_mono hrearmed erearmed, bif_mono hctr ectr, bif_mono hnid enid]

/-! ### The operations on registers, messages, counters and names -/

theorem Die.setReg_within {p : Touch} (d : Die) (r : Reg) (i w : Nat) (v : Word) (hr : p.regs.contains r = true := by rfl) :
    Within p d (d.setReg r i w v) := by
  refine ⟨?_, rfl⟩
  funext r'
  unfold Touch.leavesRegs
  by_cases h : r' = r
  · rw [h, hr]; rfl
  · have hidx : r'.ctorIdx ≠ r.ctorIdx := fun he => h (Reg.ctorIdx_inj _ _ he)
    change (bif p.regs.contains r' then [] else Tab.get [] (Tab.set [] d.regs r.ctorIdx _) r'.ctorIdx) = _
    rw [Tab.get_set_ne [] d.regs hidx]

theorem Die.setF_within {p : Touch} (d : Die) (f : Fld) (i v : Nat) (hr : p.regs.contains f.reg = true := by rfl) : Within p d (d.setF f i v) :=
  Die.setReg_within d f.reg i f.word _ hr

theorem Die.incSat_within {p : Touch} (d : Die) (f : Fld) (i n : Nat) (hr : p.regs.contains f.reg = true := by rfl) : Within p d (d.incSat f i n) :=
  Die.setF_within d f i _ hr

theorem Die.incWrap_within {p : Touch} (d : Die) (f : Fld) (i n : Nat) (hr : p.regs.contains f.reg = true := by rfl) : Within p d (d.incWrap f i n) :=
  Die.setF_within d f i _ hr

theorem Die.setRose_within {p : Touch} (d : Die) (l : List (Nat × Nat × Nat)) (hp : p.rose = true := by rfl) : Within p d { d with rose := l } :=
  .of_eq rfl (by unfold Touch.leaves; rw [hp]; rfl)

theorem Die.setEvs_within {p : Touch} (d : Die) (f : Fld) (i v : Nat) (hr : p.regs.contains f.reg = true := by rfl) (hp : p.rose = true := by rfl) :
    Within p d (d.setEvs f i v) :=
  (Die.setF_within d f i (d.getF f i ||| v) hr).trans (Die.setRose_within _ _ hp)

theorem Die.setEv_within {p : Touch} (d : Die) (f : Fld) (i : Nat) (hr : p.regs.contains f.reg = true := by rfl) (hp : p.rose = true := by rfl) :
    Within p d (d.setEv f i) := Die.setEvs_within d f i 1 hr hp

theorem Die.clearReg_within {p : Touch} (d : Die) (r : Reg) (hr : p.regs.contains r = true := by rfl) : Within p d (d.clearReg r) := by
  refine ⟨?_, rfl⟩
  funext r'
  unfold Touch.leavesRegs
  by_cases h : r' = r
  · rw [h, hr]; rfl
  · have hidx : r'.ctorIdx ≠ r.ctorIdx := fun he => h (Reg.ctorIdx_inj _ _ he)
    change (bif p.regs.contains r' then [] else Tab.get [] (Tab.erase d.regs r.ctorIdx) r'.ctorIdx) = _
    rw [Tab.get_erase, if_neg hidx]

theorem Within.foldl {p : Touch} {β : Type} (f : Die → β → Die) (h : ∀ d b, Within p d (f d b)) (l : List β) (d : Die) :
    Within p d (l.foldl f d) := by
  induction l generalizing d with
  | nil => exact .refl d
  | cons b l ih => exact (h d b).trans (ih _)

theorem Die.clearElem_within {p : Touch} (d : Die) (r : Reg) (i : Nat) (hr : p.regs.contains r = true := by rfl) : Within p d (d.clearElem r i) := by
  unfold Die.clearElem
  exact .foldl _ (fun d w => Die.setReg_within d r i w _ hr) _ _

theorem Die.setCtxState_within {p : Touch} (d : Die) (c st : Nat) (hr : p.regs.contains .SF_CTX_STATUS = true := by rfl) :
    Within p d (d.setCtxState c st) := Die.setF_within d _ c st hr

theorem Die.setPage_within {p : Touch} (d : Die) (n st owner orphan cause : Nat) (hr : p.regs.contains .SM_POT = true := by rfl) :
    Within p d (d.setPage n st owner orphan cause) :=
  (Die.setF_within d _ n st hr).trans ((Die.setF_within _ _ n owner hr).trans ((Die.setF_within _ _ n orphan hr).trans (Die.setF_within _ _ n cause hr)))

theorem Die.send_within {p : Touch} (d : Die) (m : Msg) (hp : p.out = true := by rfl) : Within p d (d.send m) :=
  .of_eq rfl (by unfold Touch.leaves; rw [hp]; rfl)

theorem Die.drawn_within {p : Touch} (d : Die) (hp : p.ctr = true := by rfl) : Within p d d.drawn :=
  .of_eq rfl (by unfold Touch.leaves; rw [hp]; rfl)

theorem Die.setCh_within {p : Touch} (d : Die) (x : CountSt) (hp : p.ch = true := by rfl) : Within p d { d with ch := x } :=
  .of_eq rfl (by unfold Touch.leaves; rw [hp]; rfl)

theorem Die.count_within {p : Touch} (d : Die) (id n : Nat) (hp : p.ch = true := by rfl) : Within p d (d.count id n) := by
  unfold Die.count
  split
  · exact Die.setCh_within d _ hp
  · exact .refl d

theorem Die.reject_within {p : Touch} (d : Die) (f : Fld) (i : Nat) (hr : p.regs.contains f.reg = true := by rfl) (hp : p.ch = true := by rfl) :
    Within p d (d.reject f i) := (Die.incSat_within d f i 1 hr).trans (Die.count_within _ 61 1 hp)

theorem Die.badAccess_within {p : Touch} (d : Die) (hp : p.ch = true := by rfl) : Within p d d.badAccess := Die.count_within d 59 1 hp

theorem Die.setBt_within {p : Touch} (d : Die) (x : BootSt) (hp : p.bt = true := by rfl) : Within p d { d with bt := x } :=
  .of_eq rfl (by unfold Touch.leaves; rw [hp]; rfl)

theorem Die.setAy_within {p : Touch} (d : Die) (x : AssaySt) (hp : p.ay = true := by rfl) : Within p d { d with ay := x } :=
  .of_eq rfl (by unfold Touch.leaves; rw [hp]; rfl)

theorem Die.setSf_within {p : Touch} (d : Die) (x : Shop) (hp : p.sf = true := by rfl) : Within p d { d with sf := x } :=
  .of_eq rfl (by unfold Touch.leaves; rw [hp]; rfl)

theorem Die.setSm_within {p : Touch} (d : Die) (x : Slices) (hp : p.sm = true := by rfl) : Within p d { d with sm := x } :=
  .of_eq rfl (by unfold Touch.leaves; rw [hp]; rfl)

theorem Die.setTy_within {p : Touch} (d : Die) (x : Tally) (hp : p.ty = true := by rfl) : Within p d { d with ty := x } :=
  .of_eq rfl (by unfold Touch.leaves; rw [hp]; rfl)

theorem Die.setStu_within {p : Touch} (d : Die) (x : Xlat) (hp : p.stu = true := by rfl) : Within p d { d with stu := x } :=
  .of_eq rfl (by unfold Touch.leaves; rw [hp]; rfl)

theorem Die.setWe_within {p : Touch} (d : Die) (x : Win) (hp : p.we = true := by rfl) : Within p d { d with we := x } :=
  .of_eq rfl (by unfold Touch.leaves; rw [hp]; rfl)

theorem Die.setCoh_within {p : Touch} (d : Die) (x : Coh) (hp : p.coh = true := by rfl) : Within p d { d with coh := x } :=
  .of_eq rfl (by unfold Touch.leaves; rw [hp]; rfl)

theorem Die.setEng_within {p : Touch} (d : Die) (x : Eng) (hp : p.eng = true := by rfl) : Within p d { d with eng := x } :=
  .of_eq rfl (by unfold Touch.leaves; rw [hp]; rfl)

theorem Die.setSe_within {p : Touch} (d : Die) (x : SealSt) (hp : p.se = true := by rfl) : Within p d { d with se := x } :=
  .of_eq rfl (by unfold Touch.leaves; rw [hp]; rfl)

theorem Die.setNid_within {p : Touch} (d : Die) (n : Nat) (hp : p.nid = true := by rfl) : Within p d { d with nid := n } :=
  .of_eq rfl (by unfold Touch.leaves; rw [hp]; rfl)

theorem Die.setPower_within {p : Touch} (d : Die) (r : Nat) (x : Power) (hp : p.bt = true := by rfl) : Within p d (d.setPower r x) :=
  Die.setBt_within d _ hp

/-! ### Reports, monitors, wakes and the state of a context -/

theorem Die.report_within {p : Touch} (e : Env) (d : Die) (r : Report) (hr : p.regs.contains .AY_STATUS = true := by rfl) (hp : p.ay = true := by rfl) :
    Within p d (d.report e r) := by
  unfold Die.report
  dsimp only
  split
  · exact .refl d
  · split
    · exact Die.setAy_within d _ hp
    · split
      · exact (Die.incSat_within d F.AY_STATUS.MERGED 0 1 hr).trans (Die.setAy_within _ _ hp)
      · exact Die.setAy_within d _ hp

theorem Die.rollMon_within (d : Die) (e : Env) (m : Nat) : Within { regs := monRegs, ch := true } d (d.rollMon e m) := by
  unfold Die.rollMon
  extract_lets s w last d₁ d₂ d₃ d₄
  split
  · exact .refl d
  · have h₁ : Within { regs := monRegs, ch := true } d d₁ := Die.setF_within d _ m _
    have h₂ : Within { regs := monRegs, ch := true } d₁ d₂ := Die.setF_within d₁ _ m _
    have h₃ : Within { regs := monRegs, ch := true } d₂ d₃ := Die.setF_within d₂ _ m _
    have h₄ : Within { regs := monRegs, ch := true } d₃ d₄ := Die.incWrap_within d₃ _ m _
    exact ((h₁.trans h₂).trans (h₃.trans h₄)).trans (Die.setCh_within d₄ _)

theorem Die.monitor_within (d : Die) (e : Env) (source inst dir n : Nat) : Within { regs := monRegs, ch := true } d (d.monitor e source inst dir n) := by
  unfold Die.monitor
  refine .foldl _ (fun y m => ?_) _ _
  extract_lets y₁ s
  split_ifs
  · exact (Die.rollMon_within y e m).trans (Die.setCh_within _ _)
  · exact Die.rollMon_within y e m
  · exact .refl y

theorem Die.setMemRest_within {p : Touch} (d : Die) (x : Mem) (hdram : x.dram = d.mem.dram) (hside : x.side = d.mem.side) (hp : p.mem = true := by rfl) :
    Within p d { d with mem := x } := by
  refine .of_eq rfl ?_
  unfold Touch.leaves Touch.leavesMem
  rw [hp, hdram, hside]
  rfl

theorem Die.awake_within (e : Env) (d : Die) (r : Nat) : Within { mem := true, coh := true } d (d.awake e r) := by
  unfold Die.awake
  extract_lets dt later homes
  exact (Die.setMemRest_within d _ rfl rfl).trans (Die.setCoh_within { d with mem := _ } _)

/-- A wake trigger changes the status of its region, its power, what its waking lets go on, and the messages sent. -/
theorem Die.wake_within (e : Env) (d : Die) (r : Nat) :
    Within { regs := [.ST_REGION_STATUS], mem := true, coh := true, bt := true, out := true } d (d.wake e r) := by
  unfold Die.wake
  extract_lets p d₁ p₁ d₂
  have h₁ : Within { regs := [.ST_REGION_STATUS], mem := true, coh := true, bt := true, out := true } d d₁ := Die.setPower_within d r _
  refine h₁.trans ?_
  split
  · exact (((Die.setF_within d₁ _ r 1).trans (Die.incSat_within _ _ r 1)).trans (Die.setPower_within _ r _)).trans (Die.send_within _ _)
  · split
    · split
      · have h₂ : Within { regs := [.ST_REGION_STATUS], mem := true, coh := true, bt := true, out := true } d₁ d₂ := by
          unfold d₂
          split
          · exact Die.send_within d₁ _
          · exact .refl d₁
        refine h₂.trans (Within.trans ?_ (Die.awake_within e _ r).mono)
        refine Within.trans ?_ (Die.setPower_within _ r _)
        refine Within.trans ?_ (Die.incSat_within _ _ r 1)
        refine Within.trans ?_ (Die.setF_within _ _ r 2)
        exact (Die.setMemRest_within d₂ _ rfl rfl).trans (Die.setCoh_within { d₂ with mem := _ } _)
      · exact Die.setPower_within d₁ r _
    · exact .refl d₁

theorem Die.ctxPump_within (d : Die) (c : Nat) : Within { regs := [.SF_CTX_STATUS] } d (d.ctxPump c) := by
  rcases Die.ctxPump_cases d c with h | ⟨st, h⟩
  · rw [h]; exact .refl d
  · rw [h]; exact Die.setCtxState_within d c st

/-! ### A footprint of registers alone -/

theorem Within.eq_regs {rs : List Reg} {d t : Die} (h : Within { regs := rs } d t) : t = { d with regs := t.regs } := by
  have hsf := h.sf; have hsm := h.sm; have hty := h.ty; have hstu := h.stu; have hwe := h.we; have hcoh := h.coh; have hmem := h.mem
  have heng := h.eng; have hse := h.se; have hay := h.ay; have hch := h.ch; have hbt := h.bt; have hout := h.out
  have hrose := h.rose; have hrearmed := h.rearmed; have hctr := h.ctr; have hnid := h.nid
  cases t; cases d
  simp only at hsf hsm hty hstu hwe hcoh hmem heng hse hay hch hbt hout hrose hrearmed hctr hnid
  subst hsf hsm hty hstu hwe hcoh hmem heng hse hay hch hbt hout hrose hrearmed hctr hnid
  rfl

theorem Within.onlyRegs {rs : List Reg} {s : State} {t : Die} (h : Within { regs := rs } s.d t) : onlyRegs s { s with d := t } rs :=
  ⟨congrArg (fun d => { s with d := d }) h.eq_regs, h.keepsRegs⟩

end Sys2Proof.Machine
end

section
/-! PROOF. Reads and writes of BAR0 (R8, R10, R11, R439, R504 to R507): what a plain write leaves in the fields of a word, which requests
the gates turn away, and the accesses that reach no register. -/

-- One proof after another: all at once, they ask for more threads than the check's memory limit admits.
set_option Elab.async false

namespace Sys2Proof.Machine

/-! ### The front command and the state after reset -/

/-- Settles O1: a step on a queue that is not empty is `exec` of its front command. -/
theorem stepRunsFrontCommand : Obligations.StepRunsFrontCommand := by
  unfold Obligations.StepRunsFrontCommand
  intro s c rest
  rfl

/-- Settles O8: the registers by `Die.reg_reset`, memory by `Memory.wf_reset`, the rest as `State.reset` gives it. -/
theorem resetLeavesResetValues : Obligations.ResetLeavesResetValues := by
  unfold Obligations.ResetLeavesResetValues
  exact ⟨Die.reg_reset, rfl, Memory.wf_reset, rfl, rfl, rfl, rfl, rfl⟩

/-! ### The fields of a word after a plain write -/

/-- Every field lies within its word, and no two fields of a word overlap. -/
def fieldsApart (l : List Fld) : Bool :=
  l.all (fun f => decide (f.lo + f.width ≤ 64)) &&
    decide (l.Pairwise (fun f g => f.word = g.word → f.lo + f.width ≤ g.lo ∨ g.lo + g.width ≤ f.lo))

/-- The fields of every register of Table 18.1 lie apart. -/
theorem Reg.fields_apart (r : Reg) : fieldsApart r.fields = true := by
  cases r <;> decide +kernel

/-- What one field of the word `a` becomes when `v` is written to the word. -/
def Fld.put (f : Fld) (isSealed : Bool) (a v c : Word) : Word :=
  let n := fieldOf v f.lo f.width
  match f.acc with
  | .RW => putField a f.lo f.width n
  | .RWS => putField a f.lo f.width n
  | .RWL => if isSealed then a else putField a f.lo f.width n
  | .W1C => putField a f.lo f.width (fieldOf a f.lo f.width &&& (2 ^ f.width - 1 - fieldOf c f.lo f.width))
  | .W1S => putField a f.lo f.width (fieldOf a f.lo f.width ||| n)
  | .RO => a
  | .WO => a

theorem Reg.writeWord_eq (r : Reg) (wd : Nat) (isSealed : Bool) (old v c : Word) :
    r.writeWord wd isSealed old v c = (r.fields.filter (fun f => f.word = wd)).foldl (fun a f => f.put isSealed a v c) old := rfl

/-- A field that lies apart from the one that is put reads as before. -/
theorem Fld.fieldOf_put_apart (f g : Fld) (isSealed : Bool) (a v c : Word) (hf : f.lo + f.width ≤ 64)
    (h : g.lo + g.width ≤ f.lo ∨ f.lo + f.width ≤ g.lo) : fieldOf (f.put isSealed a v c) g.lo g.width = fieldOf a g.lo g.width := by
  unfold Fld.put
  dsimp only
  split
  · exact fieldOf_putField_apart _ _ _ _ _ _ hf h
  · exact fieldOf_putField_apart _ _ _ _ _ _ hf h
  · split
    · rfl
    · exact fieldOf_putField_apart _ _ _ _ _ _ hf h
  · exact fieldOf_putField_apart _ _ _ _ _ _ hf h
  · exact fieldOf_putField_apart _ _ _ _ _ _ hf h
  · rfl
  · rfl

/-- The value of a field that held `x`, after a write of `n` to it; `m` is `n` but for the W1C bits that an event of this cycle has set. -/
def Fld.written (f : Fld) (isSealed : Bool) (x n m : Nat) : Nat :=
  match f.acc with
  | .RW | .RWS => n
  | .RWL => if isSealed then x else n
  | .W1C => x &&& (2 ^ f.width - 1 - m)
  | .W1S => x ||| n
  | .RO | .WO => x

theorem Fld.fieldOf_put_same (f : Fld) (isSealed : Bool) (a v c : Word) (hf : f.lo + f.width ≤ 64) :
    fieldOf (f.put isSealed a v c) f.lo f.width =
      f.written isSealed (fieldOf a f.lo f.width) (fieldOf v f.lo f.width) (fieldOf c f.lo f.width) := by
  have ha := fieldOf_lt a f.lo f.width
  have hv := fieldOf_lt v f.lo f.width
  unfold Fld.put Fld.written
  dsimp only
  cases f.acc <;> dsimp only
  case RW => rw [fieldOf_putField_same _ _ _ _ hf, Nat.mod_eq_of_lt hv]
  case RWS => rw [fieldOf_putField_same _ _ _ _ hf, Nat.mod_eq_of_lt hv]
  case RWL =>
    split
    · rfl
    · rw [fieldOf_putField_same _ _ _ _ hf, Nat.mod_eq_of_lt hv]
  case W1C => rw [fieldOf_putField_same _ _ _ _ hf, Nat.mod_eq_of_lt (Nat.and_le_left.trans_lt ha)]
  case W1S => rw [fieldOf_putField_same _ _ _ _ hf, Nat.mod_eq_of_lt (Nat.or_lt_two_pow ha hv)]

theorem fieldOf_foldl_put_apart (isSealed : Bool) (v c : Word) (g : Fld) (l : List Fld) (a : Word) (hl : ∀ f ∈ l, f.lo + f.width ≤ 64)
    (h : ∀ f ∈ l, g.lo + g.width ≤ f.lo ∨ f.lo + f.width ≤ g.lo) :
    fieldOf (l.foldl (fun a f => f.put isSealed a v c) a) g.lo g.width = fieldOf a g.lo g.width := by
  induction l generalizing a with
  | nil => rfl
  | cons f l ih =>
    rw [List.foldl_cons, ih _ (fun x hx => hl x (List.mem_cons_of_mem _ hx)) (fun x hx => h x (List.mem_cons_of_mem _ hx)),
      Fld.fieldOf_put_apart f g isSealed a v c (hl f List.mem_cons_self) (h f List.mem_cons_self)]

/-- After the fields of a list that lie apart have been put, each reads as if it alone had been. -/
theorem fieldOf_foldl_put (isSealed : Bool) (v c : Word) (g : Fld) (l : List Fld) (a : Word) (hl : ∀ f ∈ l, f.lo + f.width ≤ 64)
    (hp : l.Pairwise (fun f g => f.lo + f.width ≤ g.lo ∨ g.lo + g.width ≤ f.lo)) (hg : g ∈ l) :
    fieldOf (l.foldl (fun a f => f.put isSealed a v c) a) g.lo g.width = fieldOf (g.put isSealed a v c) g.lo g.width := by
  induction l generalizing a with
  | nil => exact absurd hg List.not_mem_nil
  | cons f l ih =>
    rw [List.pairwise_cons] at hp
    obtain ⟨hf, hp⟩ := hp
    have hl' : ∀ x ∈ l, x.lo + x.width ≤ 64 := fun x hx => hl x (List.mem_cons_of_mem _ hx)
    rw [List.foldl_cons]
    rcases List.mem_cons.1 hg with rfl | hg
    · exact fieldOf_foldl_put_apart isSealed v c g l _ hl' (fun x hx => hf x hx)
    · rw [ih _ hl' hp hg, Fld.fieldOf_put_same g _ _ _ _ (hl' g hg), Fld.fieldOf_put_same g _ _ _ _ (hl' g hg),
        Fld.fieldOf_put_apart f g isSealed a v c (hl f List.mem_cons_self) (hf g hg).symm]

/-- Every field of a word that a plain write meets takes what its access type says (Table 0.4). -/
theorem Reg.fieldOf_writeWord (r : Reg) (isSealed : Bool) (old v c : Word) (f : Fld) (hf : f ∈ r.fields) :
    fieldOf (r.writeWord f.word isSealed old v c) f.lo f.width =
      f.written isSealed (fieldOf old f.lo f.width) (fieldOf v f.lo f.width) (fieldOf c f.lo f.width) := by
  have hapart := r.fields_apart
  simp only [fieldsApart, Bool.and_eq_true, List.all_eq_true, decide_eq_true_eq] at hapart
  obtain ⟨hin, hpair⟩ := hapart
  have hmem : f ∈ r.fields.filter (fun g => g.word = f.word) := List.mem_filter.2 ⟨hf, decide_eq_true rfl⟩
  rw [Reg.writeWord_eq, fieldOf_foldl_put isSealed v c f _ old (fun g hg => hin g (List.mem_filter.1 hg).1) ?_ hmem,
    Fld.fieldOf_put_same f isSealed old v c (hin f hf)]
  refine List.Pairwise.imp_of_mem (fun {g k} hg hk h => ?_) (hpair.filter _)
  exact h ((of_decide_eq_true (List.mem_filter.1 hg).2).trans (of_decide_eq_true (List.mem_filter.1 hk).2).symm)

/-- A field of an element that a plain write meets. -/
theorem Die.getF_putWord (e : Env) (d : Die) (r : Reg) (i : Nat) (v : Word) (f : Fld) (hf : f ∈ r.fields) (hr : f.reg = r) :
    (d.putWord e r i f.word v).getF f i =
      f.written e.fwSeal (d.getF f i) (fieldOf v f.lo f.width) (fieldOf (d.offered r i f.word v) f.lo f.width) := by
  unfold Die.putWord Die.getF
  rw [hr, Die.reg_setReg_same, Reg.fieldOf_writeWord r _ _ _ _ f hf]

theorem Die.putWord_within {p : Touch} (e : Env) (d : Die) (r : Reg) (i w : Nat) (v : Word) (hr : p.regs.contains r = true := by rfl) :
    Within p d (d.putWord e r i w v) := Die.setReg_within d r i w _ hr

/-- Every field of a register's table names that register. -/
theorem Reg.reg_of_mem_fields (r : Reg) (f : Fld) (hf : f ∈ r.fields) : f.reg = r := by
  have h : ∀ f ∈ r.fields, f.reg = r := by cases r <;> decide
  exact h f hf

/-! ### The bits of a word that events of this cycle have set -/

theorem getLsbD_foldl_and_not (l : List (Nat × Nat × Nat)) (v : Word) (b : Nat) (hb : b < 64) :
    (l.foldl (fun v x => v &&& ~~~ BitVec.ofNat 64 (2 ^ x.2.2)) v).getLsbD b = (v.getLsbD b && !(l.any (fun x => decide (x.2.2 = b)))) := by
  induction l generalizing v with
  | nil => simp
  | cons x l ih =>
    have hbit : (~~~ BitVec.ofNat 64 (2 ^ x.2.2)).getLsbD b = !decide (x.2.2 = b) := by
      rw [BitVec.getLsbD_not, BitVec.getLsbD_ofNat, Nat.testBit_two_pow]
      simp [hb]
    rw [List.foldl_cons, ih, BitVec.getLsbD_and, hbit, List.any_cons]
    cases v.getLsbD b <;> cases decide (x.2.2 = b) <;> rfl

theorem Die.getLsbD_offered (d : Die) (r : Reg) (i w : Nat) (v : Word) (b : Nat) (hb : b < 64) :
    (d.offered r i w v).getLsbD b = (v.getLsbD b && !(d.rose.contains (r.ctorIdx, 8 * i + w, b))) := by
  unfold Die.offered
  rw [getLsbD_foldl_and_not _ _ _ hb]
  congr 2
  rw [Bool.eq_iff_iff, List.any_eq_true, List.contains_iff_mem]
  constructor
  · rintro ⟨x, hx, hxb⟩
    obtain ⟨hmem, hkey⟩ := List.mem_filter.1 hx
    obtain ⟨h1, h2⟩ := of_decide_eq_true hkey
    rw [← h1, ← h2, ← of_decide_eq_true hxb]
    exact hmem
  · intro h
    exact ⟨_, List.mem_filter.2 ⟨h, decide_eq_true ⟨rfl, rfl⟩⟩, decide_eq_true rfl⟩

/-! ### The gates of BAR0 -/

theorem numLE_bytesLE (n v : Nat) : numLE (bytesLE n v) = v % 256 ^ n := by
  induction n generalizing v with
  | zero => simp [bytesLE, numLE, Nat.mod_one]
  | succ n ih =>
    have hbyte : (BitVec.ofNat 8 v).toNat = v % 256 := BitVec.toNat_ofNat v 8
    rw [bytesLE, numLE, ih, hbyte, pow_succ', Nat.mod_mul (a := 256)]

theorem length_bytesLE (n v : Nat) : (bytesLE n v).length = n := by
  induction n generalizing v with
  | zero => rfl
  | succ n ih => rw [bytesLE, List.length_cons, ih]

/-- The bytes of a word spell the word. -/
theorem ofNat_numLE_bytesLE (v : Word) : BitVec.ofNat 64 (numLE (bytesLE 8 v.toNat)) = v := by
  have hlt : v.toNat < 256 ^ 8 := v.isLt
  rw [numLE_bytesLE, Nat.mod_eq_of_lt hlt, BitVec.ofNat_toNat, BitVec.setWidth_eq]

/-- A request that a register's gate lets through passes the gate of the host port. -/
theorem Die.hostGate_of_barGate {e : Env} {d : Die} {who : Who} {r : Reg} {i : Nat} (h : d.barGate e who r i = none) : d.hostGate who = none := by
  unfold Die.barGate at h
  unfold Die.hostGate
  cases who <;> dsimp only at h ⊢
  case pf =>
    split
    · next hp => rw [if_pos hp] at h; exact h
    · rfl
  case pasid n => split_ifs at h
  case vf n => split_ifs at h

theorem Die.hasElem_of_barGate {e : Env} {d : Die} {who : Who} {r : Reg} {i : Nat} (h : d.barGate e who r i = none) : e.hasElem d r i = true := by
  unfold Die.barGate at h
  dsimp only at h
  split at h
  · exact absurd h (by simp)
  · by_contra hc
    rw [Bool.not_eq_true] at hc
    rw [hc] at h
    exact absurd h (by simp)

theorem inMbox_of_lt {off : Nat} (h : off < mboxBase) : inMbox off = false := by
  unfold inMbox
  exact decide_eq_false (fun hc => absurd hc.1 (Nat.not_le.2 h))

/-- REGISTER_WRITE of a word that a register holds, by a requester that the host port lets through. -/
theorem exec_registerWrite_of_open {s : State} {who : Who} {off : BitVec 26} {v : Word} {r : Reg} {i w : Nat} (hp : s.d.bt.pwrGood = true)
    (hlow : off.toNat < mboxBase) (halign : off.toNat % 8 = 0) (hdec : Reg.decode off.toNat = some (r, i, w)) (hgate : s.d.hostGate who = none) :
    exec (.registerWrite who off v) s = s.regWrite who r i w v := by
  have hlen : ¬ ((bytesLE 8 v.toNat).length ≠ 8 ∨ off.toNat % 8 ≠ 0) := by
    rw [length_bytesLE, halign]
    simp
  change execRegisterWrite who off v s = _
  unfold execRegisterWrite
  rw [if_pos hp]
  unfold State.bar0Write
  rw [hgate]
  dsimp only
  rw [inMbox_of_lt hlow, if_neg (by decide), if_neg hlen, hdec]
  dsimp only
  rw [ofNat_numLE_bytesLE]

/-- REGISTER_WRITE by a requester that the host port turns away. -/
theorem exec_registerWrite_of_shut {s : State} {who : Who} {off : BitVec 26} {v : Word} {d : Die} (hp : s.d.bt.pwrGood = true)
    (hgate : s.d.hostGate who = some d) : exec (.registerWrite who off v) s = .next { s with d := d } := by
  change execRegisterWrite who off v s = _
  unfold execRegisterWrite
  rw [if_pos hp]
  unfold State.bar0Write
  rw [hgate]
  rfl

/-- A write of a register without a behaviour of its own passes its gate and sets its fields. -/
theorem State.regWrite_plain (s : State) (who : Who) (r : Reg) (i w : Nat) (v : Word) (hr : r ∈ plainRegs) :
    s.regWrite who r i w v = s.go (s.d.barWrite s.env who r i (fun d => d.putWord s.env r i w v)) := by
  simp only [plainRegs, List.mem_append, List.mem_cons, List.not_mem_nil, or_false] at hr
  rcases hr with (hr | hr) | hr
  · rcases hr with rfl | rfl | rfl | rfl | rfl | rfl | rfl | rfl | rfl | rfl <;> rfl
  · rcases hr with rfl | rfl | rfl | rfl | rfl | rfl | rfl | rfl | rfl | rfl <;> rfl
  · rcases hr with rfl | rfl | rfl | rfl | rfl | rfl | rfl <;> rfl

theorem plainRegs_no_rwl (r : Reg) (hr : r ∈ plainRegs) : ∀ f ∈ r.fields, f.acc ≠ .RWL := by
  intro f hf hacc
  have hlocked := (Reg.has_rwl_iff r).1 ⟨f, hf, hacc⟩
  simp only [List.mem_cons, List.not_mem_nil, or_false] at hlocked
  rcases hlocked with rfl | rfl | rfl <;> exact absurd hr (by decide)

/-- Where no lock is in play, a field takes what Table 0.4 says. -/
theorem Fld.written_eq_afterWrite (f : Fld) (isSealed : Bool) (x n m : Nat) (hf : f.acc ≠ .RWL) :
    f.written isSealed x n m = afterWrite f x (if f.acc = .W1C then m else n) := by
  unfold Fld.written afterWrite
  cases hacc : f.acc
  case RWL => exact absurd hacc hf
  all_goals rfl

/-! ### O9 -/

/-- Settles O9: the fields by `Die.getF_putWord`, everything else by the footprint of one word. -/
theorem registerWriteFollowsAccessTypes : Obligations.RegisterWriteFollowsAccessTypes := by
  unfold Obligations.RegisterWriteFollowsAccessTypes
  intro s who off v r i w hp hlow halign hdec hr hgate
  have hexec : exec (.registerWrite who off v) s = .next { s with d := s.d.putWord s.env r i w v } := by
    rw [exec_registerWrite_of_open hp hlow halign hdec (Die.hostGate_of_barGate hgate), State.regWrite_plain s who r i w v hr,
      Die.barWrite_of_gate _ hgate]
    rfl
  refine ⟨_, hexec, ?_, fun b hb => Die.getLsbD_offered _ _ _ _ _ _ hb, ?_, rfl⟩
  · rintro f hf rfl
    have hreg := Reg.reg_of_mem_fields r f hf
    change (s.d.putWord s.env r i f.word v).getF f i = _
    rw [Die.getF_putWord s.env s.d r i v f hf hreg, Fld.written_eq_afterWrite f _ _ _ _ (plainRegs_no_rwl r hr f hf)]
    split <;> rfl
  · intro r' j x hx hne hw
    refine Die.reg_setReg_ne s.d r r' i w j x _ ?_
    by_cases hrr : r' = r
    · refine .inr (fun hidx => hne ⟨hrr, ?_, ?_⟩) <;> omega
    · exact .inl hrr

/-! ### O10 -/

theorem Die.hostGate_pf_early (d : Die) (h : d.phase < 3) : d.hostGate .pf = some (d.count 3829 1) := if_pos h

theorem Die.hostGate_pf_open (d : Die) (h : 3 ≤ d.phase) : d.hostGate .pf = none := if_neg (Nat.not_lt.2 h)

/-- A gate that is open to the host still counts its write of a register that is Steward's, or of RO fields alone. -/
theorem Die.barGate_pf_counts (e : Env) (d : Die) (r : Reg) (i : Nat) (hphase : 5 ≤ d.phase) (helem : e.hasElem d r i = true)
    (hr : stewardOnly r = true ∨ r.writable = false) : d.barGate e .pf r i = some (d.count 59 1) := by
  unfold Die.barGate
  dsimp only
  rw [if_neg (by omega), if_neg (fun h => absurd h.1 (by omega))]
  dsimp only
  rw [helem, if_neg (by decide)]
  rcases hr with hr | hr
  · rw [hr]
    rfl
  · rw [hr]
    split <;> rfl

theorem Die.barWrite_of_shut {e : Env} {d d' : Die} {who : Who} {r : Reg} {i : Nat} (act : Die → Die) (h : d.barGate e who r i = some d') :
    d.barWrite e who r i act = d' := by
  unfold Die.barWrite; rw [h]

/-- In phases 3 and 4 the host's write of a plain register is ignored and counted in REJECT. -/
theorem Die.barGate_pf_rejects (e : Env) (d : Die) (r : Reg) (i : Nat) (h3 : 3 ≤ d.phase) (h5 : d.phase < 5)
    (hr : r ≠ .ST_MBOX_CTL ∧ r ≠ .ST_RESET) : d.barGate e .pf r i = some (d.incSat F.ST_MBOX_STATUS.REJECT 0 1) := by
  unfold Die.barGate
  dsimp only
  rw [if_neg (by omega), if_pos ⟨h5, hr⟩]

/-- Settles O10, gate by gate. -/
theorem registerWriteTurnsAwayOtherRequesters : Obligations.RegisterWriteTurnsAwayOtherRequesters := by
  unfold Obligations.RegisterWriteTurnsAwayOtherRequesters
  intro s off v r i w hp hlow halign hdec
  refine ⟨fun h => ?_, fun h3 h5 hr => ?_, fun n hn => ?_, fun n hn => ?_, fun n sl hn => ?_, fun h5 helem hr => ?_, fun h5 helem hr => ?_⟩
  · exact exec_registerWrite_of_shut hp (Die.hostGate_pf_early _ h)
  · have hne : r ≠ .ST_MBOX_CTL ∧ r ≠ .ST_RESET := by constructor <;> rintro rfl <;> exact absurd hr (by decide)
    rw [exec_registerWrite_of_open hp hlow halign hdec (Die.hostGate_pf_open _ h3), State.regWrite_plain _ _ _ _ _ _ hr,
      Die.barWrite_of_shut _ (Die.barGate_pf_rejects _ _ _ _ h3 h5 hne)]
    rfl
  · exact exec_registerWrite_of_shut hp (by unfold Die.hostGate; dsimp only; rw [if_pos hn]; rfl)
  · exact exec_registerWrite_of_shut hp (by unfold Die.hostGate; dsimp only; rw [if_pos hn]; rfl)
  · exact exec_registerWrite_of_shut hp (by unfold Die.hostGate; dsimp only; rw [if_neg (by rw [hn]; simp)]; rfl)
  · have hgate := Die.hostGate_pf_open s.d (by omega)
    have hplain : r ∈ plainRegs ∧ stewardOnly r = true := by
      simp only [List.mem_cons, List.not_mem_nil, or_false] at hr
      rcases hr with rfl | rfl <;> decide
    rw [exec_registerWrite_of_open hp hlow halign hdec hgate, State.regWrite_plain _ _ _ _ _ _ hplain.1,
      Die.barWrite_of_shut _ (Die.barGate_pf_counts _ _ _ _ h5 helem (.inl hplain.2))]
    rfl
  · have hgate := Die.hostGate_pf_open s.d (by omega)
    rw [exec_registerWrite_of_open hp hlow halign hdec hgate]
    have hcount : ∀ act, s.d.barWrite s.env .pf r i act = s.d.count 59 1 := fun act =>
      Die.barWrite_of_shut act (Die.barGate_pf_counts _ _ _ _ h5 helem (.inr (by
        simp only [List.mem_cons, List.not_mem_nil, or_false] at hr
        rcases hr with rfl | rfl | rfl <;> decide)))
    have hplain : s.regWrite .pf r i w v = s.go (s.d.barWrite s.env .pf r i (fun d => d.putWord s.env r i w v)) := by
      simp only [List.mem_cons, List.not_mem_nil, or_false] at hr
      rcases hr with rfl | rfl | rfl <;> rfl
    rw [hplain, hcount]
    rfl

/-! ### O11 -/

/-- A counter rises by one and no other changes, for the always-on set. -/
theorem Die.cnt_count (d : Die) (id n k : Nat) (h : id < 64) :
    Tab.get 0 (d.count id n).ch.cnt k = Tab.get 0 d.ch.cnt k + if k = id then BitVec.ofNat 48 n else 0 := by
  unfold Die.count
  rw [if_pos (.inl h)]
  change Tab.get 0 (Tab.set 0 d.ch.cnt id _) k = _
  rw [Tab.get_set]
  split
  · next hk => rw [hk]
  · exact (BitVec.add_zero _).symm

theorem Die.count_eq (d : Die) (id n : Nat) : d.count id n = { d with ch := { d.ch with cnt := (d.count id n).ch.cnt } } := by
  unfold Die.count
  split <;> rfl

theorem satAdd_eq_min (w a b : Nat) : satAdd w a b = min (a + b) (2 ^ w - 1) := rfl

/-- A counter field that saturates reads as the smaller of its sum and its largest value. -/
theorem Die.getF_incSat_same (d : Die) (f : Fld) (i n : Nat) (h : f.lo + f.width ≤ 64) :
    (d.incSat f i n).getF f i = min (d.getF f i + n) (2 ^ f.width - 1) := by
  unfold Die.incSat
  rw [Die.getF_setF_same _ _ _ _ h, satAdd_eq_min, Nat.mod_eq_of_lt]
  have := Nat.two_pow_pos f.width
  omega

theorem exec_bar0UnmappedAccess_arm (s : State) (who : Who) (wr : Bool) (off : BitVec 26) (len : BitVec 10) :
    exec (.bar0UnmappedAccess who wr off len) s = execBar0UnmappedAccess who wr off len s := rfl

/-- An access that reaches no register, by a requester that the host port lets through. -/
theorem exec_bar0UnmappedAccess_stray {s : State} {who : Who} (wr : Bool) {off : BitVec 26} {len : BitVec 10} (hp : s.d.bt.pwrGood = true)
    (hlow : off.toNat < mboxBase) (hgate : s.d.hostGate who = none)
    (hstray : len.toNat ≠ 8 ∨ off.toNat % 8 ≠ 0 ∨ Reg.decode off.toNat = none) :
    exec (.bar0UnmappedAccess who wr off len) s =
      .next { s with d := if wr then s.d.strayWrite who else s.d.badAccess.send (.busRead 0) } := by
  have h : (decide (off.toNat < mboxBase) && (decide (len.toNat ≠ 8 ∨ off.toNat % 8 ≠ 0) || (Reg.decode off.toNat).isNone)) = true := by
    rw [decide_eq_true hlow, Bool.true_and, Bool.or_eq_true, decide_eq_true_eq, Option.isNone_iff_eq_none]
    tauto
  rw [exec_bar0UnmappedAccess_arm]
  unfold execBar0UnmappedAccess
  dsimp only
  rw [hp, hgate, h]
  rfl

/-- A write of a register of RO fields, by a requester that the host port and the phase let through. -/
theorem exec_bar0UnmappedAccess_readOnly {s : State} {who : Who} {off : BitVec 26} {r : Reg} {i w : Nat} (hp : s.d.bt.pwrGood = true)
    (hgate : s.d.hostGate who = none) (halign : off.toNat % 8 = 0) (hdec : Reg.decode off.toNat = some (r, i, w)) (hr : r.writable = false)
    (hbar : s.d.barGate s.env who r i = some (s.d.count 59 1)) :
    exec (.bar0UnmappedAccess who true off 8) s = .next { s with d := s.d.count 59 1 } := by
  have hlen : (8 : BitVec 10).toNat = 8 := rfl
  rw [exec_bar0UnmappedAccess_arm]
  unfold execBar0UnmappedAccess
  dsimp only
  rw [hp, hgate, hdec, halign, hlen]
  have hstray : (decide (off.toNat < mboxBase) && (decide ((8 : Nat) ≠ 8 ∨ (0 : Nat) ≠ 0) || (some (r, i, w)).isNone)) = false := by
    simp
  dsimp only
  rw [hstray]
  simp only [hr, Bool.not_true, Bool.false_eq_true, if_false, Bool.not_false, Bool.true_or, Bool.and_self, if_true]
  split
  · next h => cases h; exact absurd hr (by decide)
  · next h => cases h; exact absurd hr (by decide)
  · next r' i' w' _ _ h => cases h; rw [Die.barWrite_of_shut _ hbar]; rfl
  · next h => exact absurd h (by simp)

theorem Die.barGate_counts_readOnly (e : Env) (d : Die) (who : Who) (r : Reg) (i : Nat) (hwho : who = .steward ∨ who = .tap ∨ (who = .pf ∧ 5 ≤ d.phase))
    (helem : e.hasElem d r i = true) (hr : r.writable = false) : d.barGate e who r i = some (d.count 59 1) := by
  rcases hwho with rfl | rfl | ⟨rfl, h5⟩
  · unfold Die.barGate
    dsimp only
    rw [helem, hr, if_neg (by decide), if_neg (fun h => h.2.1 rfl)]
    rfl
  · unfold Die.barGate
    dsimp only
    rw [helem, hr, if_neg (by decide)]
    split <;> rfl
  · exact Die.barGate_pf_counts e d r i h5 helem (.inr hr)

theorem Die.hostGate_open (d : Die) (who : Who) (hwho : who = .steward ∨ who = .tap ∨ (who = .pf ∧ 3 ≤ d.phase)) : d.hostGate who = none := by
  rcases hwho with rfl | rfl | ⟨rfl, h3⟩
  · rfl
  · rfl
  · exact Die.hostGate_pf_open d h3

/-- Settles O11: an access that reaches no register by `Die.strayWrite`, one of RO fields by its gate. -/
theorem unmappedAccessReadsZeroAndIsCounted : Obligations.UnmappedAccessReadsZeroAndIsCounted := by
  unfold Obligations.UnmappedAccessReadsZeroAndIsCounted
  intro s who off len hp hlow hwho
  have hgate := Die.hostGate_open s.d who hwho
  refine ⟨fun hstray => ⟨⟨_, exec_bar0UnmappedAccess_stray false hp hlow hgate hstray, ?_, fun n => Die.cnt_count s.d 59 1 n (by decide)⟩,
    ⟨_, exec_bar0UnmappedAccess_stray true hp hlow hgate hstray, ?_, fun hearly => ?_, fun hlate => ?_, fun n => ?_⟩⟩, ?_⟩
  · change { s with d := (s.d.count 59 1).send (.busRead 0) } = _
    rw [Die.count_eq]
    rfl
  · change { s with d := s.d.strayWrite who } = { s with d := { s.d with regs := (s.d.strayWrite who).regs, ch := { s.d.ch with cnt := (s.d.strayWrite who).ch.cnt } } }
    unfold Die.strayWrite Die.badAccess
    rw [Die.count_eq]
    split <;> rfl
  · change keepsRegs s.d (s.d.strayWrite who) [.ST_MBOX_STATUS] ∧ (s.d.strayWrite who).getF F.ST_MBOX_STATUS.REJECT 0 = _
    unfold Die.strayWrite
    rw [if_pos hearly]
    have hcount : Within { regs := [.ST_MBOX_STATUS], ch := true } s.d s.d.badAccess := Die.badAccess_within s.d
    refine ⟨(hcount.trans (Die.incSat_within _ _ _ _)).keepsRegs, ?_⟩
    rw [Die.getF_incSat_same _ _ _ _ (by decide), Die.badAccess, Die.getF_count]
  · change (s.d.strayWrite who).regs = s.d.regs
    unfold Die.strayWrite
    rw [if_neg hlate]
    exact Die.count_regs _ _ _
  · change Tab.get 0 (s.d.strayWrite who).ch.cnt n = _
    unfold Die.strayWrite
    split
    · rw [Die.incSat_ch]
      exact Die.cnt_count s.d 59 1 n (by decide)
    · exact Die.cnt_count s.d 59 1 n (by decide)
  · rintro r i w hlate rfl halign hdec hr helem
    refine exec_bar0UnmappedAccess_readOnly hp hgate halign hdec hr (Die.barGate_counts_readOnly _ _ _ _ _ ?_ helem hr)
    rcases hwho with h | h | ⟨h, -⟩
    · exact .inl h
    · exact .inr (.inl h)
    · exact .inr (.inr ⟨h, by by_contra hc; exact hlate ⟨h, by omega⟩⟩)

end Sys2Proof.Machine
end

section
/-! PROOF. Regions asleep and awake (R26, R38 to R42, R433): how a region goes to sleep step by step, what its supply's
acknowledges do, and the writes of its control register. -/

-- One proof after another: all at once, they ask for more threads than the check's memory limit admits.
set_option Elab.async false

namespace Sys2Proof.Machine

/-! ### The power of a region -/

@[simp] theorem Die.power_setPower_same (d : Die) (r : Nat) (p : Power) : (d.setPower r p).power r = p := Tab.get_set_same _ _ _ _

theorem Die.getF_setPower (d : Die) (r : Nat) (p : Power) (f : Fld) (i : Nat) : (d.setPower r p).getF f i = d.getF f i :=
  Die.getF_of_regs_eq (Die.setPower_regs d r p) f i

theorem Die.powerState_setF_power (d : Die) (r v : Nat) : (d.setF F.ST_REGION_STATUS.POWER r v).powerState r = v % 4 :=
  Die.getF_setF_same d F.ST_REGION_STATUS.POWER r v (by decide)

/-- Two fields that share no bit of an element. -/
def Fld.apart (f g : Fld) : Bool :=
  decide (f.lo + f.width ≤ 64) && decide (g.reg ≠ f.reg ∨ g.word ≠ f.word ∨ g.lo + g.width ≤ f.lo ∨ f.lo + f.width ≤ g.lo)

/-- A field of an element reads as before after a write to one that lies apart. -/
theorem Die.getF_setF_apart (d : Die) (f g : Fld) (i v : Nat) (h : f.apart g = true) : (d.setF f i v).getF g i = d.getF g i := by
  obtain ⟨hw, h⟩ := Bool.and_eq_true_iff.1 h
  refine Die.getF_setF_ne d f g i i v (of_decide_eq_true hw) ?_
  rcases of_decide_eq_true h with h | h | h
  · exact .inl h
  · exact .inr (.inl (by omega))
  · by_cases hword : g.word = f.word
    · exact .inr (.inr ⟨hword, h⟩)
    · exact .inr (.inl (by omega))

/-! ### What the null map's write-backs touch -/

theorem Die.activate_within (d : Die) (line : Nat) : Within { mem := true } d (d.activate line) := by
  unfold Die.activate
  extract_lets k
  split
  · exact .refl d
  · exact Die.setMemRest_within d _ rfl rfl

theorem Die.chargeMaint_within (e : Env) (d : Die) (n bytes : Nat) : Within { mem := true, ch := true } d (d.chargeMaint e n bytes) := by
  unfold Die.chargeMaint
  extract_lets w m d₁
  exact (Die.count_within d _ bytes).trans (Die.setMemRest_within _ _ rfl rfl)

/-- Bytes moved at a controller touch its buckets, slots and rows, and what counts them. -/
theorem Die.charge_within (e : Env) (d : Die) (line bytes : Nat) (wr maint : Bool) :
    Within { regs := monRegs, mem := true, ch := true } d (d.charge e line bytes wr maint) := by
  unfold Die.charge
  extract_lets p n d₁ d₂ d₃ d₄ m₄ d₅
  have h₃ : Within { regs := monRegs, mem := true, ch := true } d d₃ :=
    ((Die.count_within d _ _).trans (Die.count_within d₁ _ _)).trans (Die.count_within d₂ _ _)
  have h₄ : Within { regs := monRegs, mem := true, ch := true } d d₄ :=
    (h₃.trans (Die.monitor_within d₃ e 2 n _ _).mono).trans (Die.activate_within _ line).mono
  have h₅ : Within { regs := monRegs, mem := true, ch := true } d d₅ := h₄.trans (Die.setMemRest_within d₄ _ rfl rfl)
  refine h₅.trans ?_
  split
  · exact (Die.chargeMaint_within e d₅ n bytes).mono
  · split
    · extract_lets b d₆ d₇
      have h₆ : Within { regs := monRegs, mem := true, ch := true } d₅ d₆ := Die.count_within d₅ _ _
      exact (h₆.trans (Die.monitor_within d₆ e 6 _ 0 bytes).mono).trans (Die.setMemRest_within d₇ _ rfl rfl)
    · exact .refl d₅

theorem Die.nmcClean_within (e : Env) (d : Die) (key : Nat) : Within { regs := monRegs, mem := true, ch := true } d (d.nmcClean e key) := by
  unfold Die.nmcClean
  split
  · split
    · exact (Die.charge_within e d _ 128 true true).trans (Die.setMemRest_within _ _ rfl rfl)
    · exact .refl d
  · exact .refl d

theorem Die.nmcFlush_within (e : Env) (d : Die) (n : Nat) : Within { regs := monRegs, mem := true, ch := true } d (d.nmcFlush e n) := by
  unfold Die.nmcFlush
  refine .foldl _ (fun y x => ?_) _ _
  extract_lets y₁
  exact (Die.nmcClean_within e y x.1).trans (Die.setMemRest_within _ _ rfl rfl)

/-! ### O13: the start of GATING -/

/-- Settles O13. -/
theorem gatingStartsOnlyFromAnIdleRunningRegion : Obligations.GatingStartsOnlyFromAnIdleRunningRegion := by
  unfold Obligations.GatingStartsOnlyFromAnIdleRunningRegion
  intro s r n p due
  have hexec : exec (.gatingStart r) s = execGatingStart r s := rfl
  unfold execGatingStart at hexec
  constructor
  · rintro ⟨hp, hregion, hrun, hpolicy, hbusy, hocc, hidle⟩
    have hd : s.d.bt.pwrGood = true ∧ s.env.hasRegion r.toNat = true ∧ s.d.running r.toNat = true ∧
        s.d.getF F.ST_REGION_CTL.GATE_POLICY r.toNat = 0 ∧ (!(s.d.power r.toNat).busy) = true ∧ (!(s.d.occupied s.env r.toNat)) = true ∧
        (s.d.power r.toNat).idle ≥ max 1 (s.d.getF F.ST_REGION_CTL.IDLE_TICKS r.toNat) :=
      ⟨hp, hregion, decide_eq_true hrun, hpolicy, Bool.not_eq_true' _ ▸ hbusy, Bool.not_eq_true' _ ▸ hocc, hidle⟩
    dsimp only at hexec
    rw [if_pos hd] at hexec
    refine ⟨_, hexec, ?_, ?_, ?_, ?_, ?_, rfl⟩
    · exact Die.powerState_setF_power s.d n 3
    · exact congrArg Power.step (Die.power_setPower_same _ n _)
    · exact congrArg Power.left (Die.power_setPower_same _ n _)
    · exact Die.getF_setF_apart s.d _ _ n 3 (by decide)
    · exact ((Die.setF_within s.d F.ST_REGION_STATUS.POWER n 3).trans (Die.setPower_within _ n _)).keepsRegs (p := { regs := [.ST_REGION_STATUS], bt := true })
  · intro hnot
    dsimp only at hexec
    rw [if_neg] at hexec
    · exact hexec
    · rintro ⟨hp, hregion, hrun, hpolicy, hbusy, hocc, hidle⟩
      exact hnot ⟨hp, hregion, of_decide_eq_true hrun, hpolicy, by simpa using hbusy, by simpa using hocc, hidle⟩

/-! ### O14: the steps of GATING -/

theorem exec_gatingStepDone {s : State} {r : BitVec 3} (h : s.d.powerState r.toNat = 3) :
    exec (.gatingStepDone r) s = .next { s with d := s.d.gatingStep s.env r.toNat } := by
  have hexec : exec (.gatingStepDone r) s = s.go (if s.d.powerState r.toNat = 3 then s.d.gatingStep s.env r.toNat else s.d) := rfl
  rw [hexec, if_pos h]
  rfl

/-- Step 1 of GATING is followed by the flush of the region's lines. -/
theorem Die.gatingStep_one {d : Die} {r : Nat} (e : Env) (h : (d.power r).step = 1) :
    d.gatingStep e r = (d.setPower r { d.power r with step := 2 }).startFlush e (.all r) (.gating r) := by
  unfold Die.gatingStep
  simp only [h]

theorem Die.gatingStep_flushing {d : Die} {r : Nat} (e : Env) (h : (d.power r).step = 2) (hrun : d.flushRuns (.gating r) = true) :
    d.gatingStep e r = d := by
  unfold Die.gatingStep
  simp only [h, hrun, if_true]

/-- With no tag line of the region cached, the end of the flush leads to step 3. -/
theorem Die.gatingStep_flushed {d : Die} {r : Nat} (e : Env) (h : (d.power r).step = 2) (hrun : d.flushRuns (.gating r) = false)
    (htags : d.mem.tagsOf r = []) : d.gatingStep e r = d.setPower r { d.power r with step := 3 } := by
  have htag : (d.setPower r { d.power r with step := 3 }).tagFlush e r = d.setPower r { d.power r with step := 3 } := by
    unfold Die.tagFlush
    rw [Die.setPower_mem, htags]
    rfl
  unfold Die.gatingStep
  simp only [h]
  rw [hrun, if_neg (by decide), htag, Die.setPower_mem, htags]
  rfl

/-- Step 3 ends with the self-refresh of the region's stack. -/
theorem Die.gatingStep_three {d : Die} {r : Nat} (e : Env) (h : (d.power r).step = 3) (hretr : r ∉ d.mem.retr) :
    ((d.gatingStep e r).power r).step = 4 ∧ r ∈ (d.gatingStep e r).mem.selfRef := by
  unfold Die.gatingStep
  simp only [h]
  rw [if_neg (by simpa using hretr)]
  refine ⟨congrArg Power.step (Die.power_setPower_same _ r _), ?_⟩
  exact List.mem_append_right _ List.mem_cons_self

/-- Settles O14, step by step. -/
theorem gatingStepsFollowInOrder : Obligations.GatingStepsFollowInOrder := by
  unfold Obligations.GatingStepsFollowInOrder
  intro s r hgating n
  have hexec := exec_gatingStepDone hgating
  refine ⟨fun h => ?_, fun h hrun => ?_, fun h hrun htags => ?_, fun h hretr => ?_, fun h => ?_⟩
  · rw [hexec, Die.gatingStep_one _ h]
  · rw [hexec, Die.gatingStep_flushing _ h hrun]
  · rw [hexec, Die.gatingStep_flushed _ h hrun htags]
  · obtain ⟨hstep, hself⟩ := Die.gatingStep_three s.env h hretr
    exact ⟨_, hexec, hstep, hself, rfl⟩
  · have hfour : s.d.gatingStep s.env n = Die.send (Die.setF (Die.setPower
        { s.d with stu.caches := s.d.stu.caches.filter (fun x => decide (x.cache ≠ n)), coh.strides := s.d.coh.strides.filter (fun x => decide (x.1 / 128 ≠ n)) }
        n { s.d.power n with step := 5, at_ := s.env.now }) F.ST_REGION_STATUS.TIME_FINE n 0) (.dfi n 7 0) := by
      unfold Die.gatingStep
      simp only [show (s.d.power n).step = 4 from h]
    refine ⟨_, hexec, ?_⟩
    change ((s.d.gatingStep s.env n).power n).step = 5 ∧ (∀ x ∈ (s.d.gatingStep s.env n).stu.caches, x.cache ≠ n) ∧
      (∀ x ∈ (s.d.gatingStep s.env n).coh.strides, x.1 / 128 ≠ n) ∧ (s.d.gatingStep s.env n).getF F.ST_REGION_STATUS.TIME_FINE n = 0 ∧
      (s.d.gatingStep s.env n).powerState n = 3 ∧ (s.d.gatingStep s.env n).mem = s.d.mem ∧ s.env = s.env
    rw [hfour]
    refine ⟨congrArg Power.step (Die.power_setPower_same _ n _), fun x hx => of_decide_eq_true (List.mem_filter.1 hx).2,
      fun x hx => of_decide_eq_true (List.mem_filter.1 hx).2, Die.getF_setF_same _ _ n 0 (by decide), ?_, rfl, rfl⟩
    exact (Die.getF_setF_apart _ F.ST_REGION_STATUS.TIME_FINE F.ST_REGION_STATUS.POWER n 0 (by decide)).trans hgating

/-! ### A wake trigger at a region that is GATED -/

/-- A wake trigger makes a GATED region WAKING, and touches nothing of memory or of the caches. -/
theorem Die.wake_of_gated (e : Env) {d : Die} {r : Nat} (h : d.powerState r = 0) :
    (d.wake e r).powerState r = 1 ∧ (d.wake e r).mem = d.mem ∧ (d.wake e r).coh = d.coh := by
  unfold Die.wake
  extract_lets p d₁ p₁ d₂
  have h₁ : d₁.powerState r = 0 := (Die.getF_setPower _ _ _ _ _).trans h
  rw [if_pos h₁]
  have hwithin : Within { regs := [.ST_REGION_STATUS], bt := true, out := true } d
      ((((d₁.setF F.ST_REGION_STATUS.POWER r 1).incSat F.ST_REGION_STATUS.WAKE_COUNT r 1).setPower r
        { p₁ with at_ := e.now, wake := false, ack := false, busy := true }).send (.dfi r 0 0)) :=
    (((Die.setPower_within d r _).trans (Die.setF_within d₁ _ r 1)).trans (Die.incSat_within _ _ r 1)).trans
      ((Die.setPower_within _ r _).trans (Die.send_within _ _))
  refine ⟨?_, hwithin.mem, hwithin.coh⟩
  unfold Die.powerState
  rw [Die.getF_send, Die.getF_setPower, Die.incSat, Die.getF_setF_apart _ F.ST_REGION_STATUS.WAKE_COUNT F.ST_REGION_STATUS.POWER _ _ (by decide),
    Die.getF_setF_same _ _ _ _ (by decide)]
  rfl

/-- The fields of a region's status that a wake trigger leaves: the clock, its clamp and the quality of the time stamp. -/
def wakeLeaves (f : Fld) : Bool :=
  decide (f.reg = .ST_REGION_STATUS ∧ f.word = 0 ∧ 2 ≤ f.lo ∧ f.lo + f.width ≤ 32)

theorem Die.getF_setF_power (d : Die) (f : Fld) (r v : Nat) (h : wakeLeaves f = true) : (d.setF F.ST_REGION_STATUS.POWER r v).getF f r = d.getF f r := by
  obtain ⟨-, hw, hlo, -⟩ := of_decide_eq_true h
  exact Die.getF_setF_ne _ _ _ _ _ _ (by decide) (.inr (.inr ⟨hw, .inr hlo⟩))

theorem Die.getF_incSat_wakeCount (d : Die) (f : Fld) (r v : Nat) (h : wakeLeaves f = true) :
    (d.incSat F.ST_REGION_STATUS.WAKE_COUNT r v).getF f r = d.getF f r := by
  obtain ⟨-, hw, -, hhi⟩ := of_decide_eq_true h
  exact Die.getF_setF_ne _ _ _ _ _ _ (by decide) (.inr (.inr ⟨hw, .inl hhi⟩))

theorem Die.getF_incSat_abandonCount (d : Die) (f : Fld) (r v : Nat) (h : wakeLeaves f = true) :
    (d.incSat F.ST_REGION_STATUS.ABANDON_COUNT r v).getF f r = d.getF f r := by
  obtain ⟨-, hw, -, hhi⟩ := of_decide_eq_true h
  exact Die.getF_setF_ne _ _ _ _ _ _ (by decide) (.inr (.inr ⟨hw, .inl (hhi.trans (by decide))⟩))

theorem Die.getF_wake_left (e : Env) (d : Die) (r : Nat) (f : Fld) (h : wakeLeaves f = true) : (d.wake e r).getF f r = d.getF f r := by
  unfold Die.wake
  extract_lets p d₁ p₁ d₂
  have h₁ : d₁.getF f r = d.getF f r := Die.getF_setPower _ _ _ _ _
  have h₂ : d₂.getF f r = d.getF f r := by
    unfold d₂
    split
    · exact (Die.getF_send _ _ _ _).trans h₁
    · exact h₁
  split
  · rw [Die.getF_send, Die.getF_setPower, Die.getF_incSat_wakeCount _ _ _ _ h, Die.getF_setF_power _ _ _ _ h, h₁]
  · split
    · split
      · refine Eq.trans ?_ h₂
        rw [(Die.awake_within e _ r).getF f r rfl, Die.getF_setPower, Die.getF_incSat_abandonCount _ _ _ _ h, Die.getF_setF_power _ _ _ _ h]
        rfl
      · rw [Die.getF_setPower, h₁]
    · exact h₁

/-! ### O15: the supply's acknowledges, and a region that reaches RUNNING -/

theorem exec_rpsOnAckFall_step {s : State} {r : BitVec 3} (h : s.d.powerState r.toNat = 3) (hstep : (s.d.power r.toNat).step = 5) :
    exec (.rpsOnAckFall r) s = .next { s with d :=
      (let d := (s.d.setF F.ST_REGION_STATUS.POWER r.toNat 0).setPower r.toNat { s.d.power r.toNat with step := 0, ack := false, wake := false }
       if (s.d.power r.toNat).wake then d.wake s.env r.toNat else d) } := by
  change execRpsOnAckFall r s = _
  unfold execRpsOnAckFall
  dsimp only
  rw [if_pos ⟨h, hstep⟩]
  rfl

/-- What a region's reaching RUNNING does before what waited for it goes on. -/
def Die.regionUp (e : Env) (d : Die) (r : Nat) : Die :=
  let d := (d.setF F.ST_REGION_STATUS.POWER r 2).setF F.ST_REGION_STATUS.FREQ_NOW r (min (d.freqTarget r) (d.getF F.ST_PWR_DOM.CAP r))
  let d : Die := { d with mem.selfRef := d.mem.selfRef.filter (· ≠ r),
                          coh.credits := d.coh.credits.filter (fun x => decide (x.1 ≥ 1024 ∨ x.1 / 128 ≠ r)) }
  let d := (d.setPower r { d.power r with busy := true, idle := 0, step := 0 }).send (.dfi r 9 0)
  let d := if d.mem.retr.contains r then d.send (.dfi r 4 0) else d
  d.awake e r

theorem exec_regionRunning {s : State} {r : BitVec 3} (h : s.d.powerState r.toNat = 1) (hack : (s.d.power r.toNat).ack = true) :
    exec (.regionRunning r) s = .next { s with d := (s.d.regionUp s.env r.toNat).pump s.env } := by
  have hcap : (s.d.setF F.ST_REGION_STATUS.POWER r.toNat 2).getF F.ST_PWR_DOM.CAP r.toNat = s.d.getF F.ST_PWR_DOM.CAP r.toNat :=
    Die.getF_setF_other _ _ _ _ _ _ (by decide)
  have hfreq : (s.d.setF F.ST_REGION_STATUS.POWER r.toNat 2).freqTarget r.toNat = s.d.freqTarget r.toNat := by
    unfold Die.freqTarget
    rw [Die.getF_setF_other _ _ _ _ _ _ (by decide)]
  change execRegionRunning r s = _
  unfold execRegionRunning
  dsimp only
  rw [if_pos ⟨h, hack⟩, hcap, hfreq]
  rfl

theorem Die.regionUp_within (e : Env) (d : Die) (r : Nat) :
    Within { regs := [.ST_REGION_STATUS], mem := true, coh := true, bt := true, out := true } d (d.regionUp e r) := by
  unfold Die.regionUp
  extract_lets d₁ c₁ m₁ d₂ p₂ d₃ d₄
  have h₁ : Within { regs := [.ST_REGION_STATUS], mem := true, coh := true, bt := true, out := true } d d₁ :=
    (Die.setF_within d _ r 2).trans (Die.setF_within _ _ r _)
  have h₂ : Within { regs := [.ST_REGION_STATUS], mem := true, coh := true, bt := true, out := true } d₁ d₂ :=
    (Die.setMemRest_within d₁ _ rfl rfl).trans (Die.setCoh_within { d₁ with mem := _ } _)
  have h₃ : Within { regs := [.ST_REGION_STATUS], mem := true, coh := true, bt := true, out := true } d₂ d₃ :=
    (Die.setPower_within d₂ r _).trans (Die.send_within _ _)
  have h₄ : Within { regs := [.ST_REGION_STATUS], mem := true, coh := true, bt := true, out := true } d₃ d₄ := by
    unfold d₄
    split
    · exact Die.send_within d₃ _
    · exact .refl d₃
  exact (h₁.trans (h₂.trans (h₃.trans h₄))).trans (Die.awake_within e d₄ r).mono

theorem Die.regionUp_regs (e : Env) (d : Die) (r : Nat) : (d.regionUp e r).regs =
    ((d.setF F.ST_REGION_STATUS.POWER r 2).setF F.ST_REGION_STATUS.FREQ_NOW r (min (d.freqTarget r) (d.getF F.ST_PWR_DOM.CAP r))).regs := by
  unfold Die.regionUp
  extract_lets d₁ c₁ m₁ d₂ p₂ d₃ d₄
  change d₄.regs = d₁.regs
  unfold d₄
  split <;> rfl

theorem Die.regionUp_selfRef (e : Env) (d : Die) (r : Nat) : (d.regionUp e r).mem.selfRef = d.mem.selfRef.filter (· ≠ r) := by
  unfold Die.regionUp
  extract_lets d₁ c₁ m₁ d₂ p₂ d₃ d₄
  change d₄.mem.selfRef = _
  unfold d₄
  split <;> rfl

/-- Settles O15. -/
theorem supplyAcknowledgesAndLocksMoveTheRegion : Obligations.SupplyAcknowledgesAndLocksMoveTheRegion := by
  unfold Obligations.SupplyAcknowledgesAndLocksMoveTheRegion
  constructor
  · intro s r n p
    refine ⟨fun h hstep hwake => ?_, fun h hstep hwake => ?_, fun h hack => ?_, fun h => ?_⟩
    · have hexec := exec_rpsOnAckFall_step h hstep
      dsimp only at hexec
      rw [if_neg (show ¬ (s.d.power r.toNat).wake = true from fun hc => absurd (hwake.symm.trans hc : false = true) (by decide))] at hexec
      refine ⟨_, hexec, Die.powerState_setF_power s.d n 0, congrArg Power.step (Die.power_setPower_same _ n _), ?_, rfl⟩
      exact ((Die.setF_within s.d F.ST_REGION_STATUS.POWER n 0).trans (Die.setPower_within _ n _)).keepsRegs (p := { regs := [.ST_REGION_STATUS], bt := true })
    · have hexec := exec_rpsOnAckFall_step h hstep
      dsimp only at hexec
      rw [if_pos (show (s.d.power r.toNat).wake = true from hwake)] at hexec
      obtain ⟨hstate, hmem, hcoh⟩ := Die.wake_of_gated s.env
        (d := (s.d.setF F.ST_REGION_STATUS.POWER n 0).setPower n { p with step := 0, ack := false, wake := false }) (Die.powerState_setF_power s.d n 0)
      exact ⟨_, hexec, hstate, hmem, hcoh, rfl⟩
    · have hexec : exec (.rpsOnAckRise r) s = execRpsOnAckRise r s := rfl
      unfold execRpsOnAckRise at hexec
      dsimp only at hexec
      rw [if_pos (show s.d.powerState r.toNat = 1 ∧ (!(s.d.power r.toNat).ack) = true from ⟨h, Bool.not_eq_true' _ ▸ hack⟩)] at hexec
      refine ⟨_, hexec, ?_, congrArg Power.ack (Die.power_setPower_same s.d n _), Die.getF_setF_same _ _ n 0 (by decide), ?_, rfl⟩
      · exact (Die.getF_setF_apart _ F.ST_REGION_STATUS.TIME_FINE F.ST_REGION_STATUS.POWER n 0 (by decide)).trans h
      · exact ((Die.setPower_within s.d n _).trans (Die.setF_within _ F.ST_REGION_STATUS.TIME_FINE n 0)).keepsRegs (p := { regs := [.ST_REGION_STATUS], bt := true })
    · have hnot : ∀ st, s.d.powerState r.toNat = st → st = 2 := fun st hst => hst.symm.trans h
      have hfall : execRpsOnAckFall r s = .next s := by
        unfold execRpsOnAckFall
        dsimp only
        rw [if_neg (fun hc => absurd (hnot 3 hc.1) (by decide))]
        rfl
      have hrise : execRpsOnAckRise r s = .next s := by
        unfold execRpsOnAckRise
        dsimp only
        rw [if_neg (fun hc => absurd (hnot 1 hc.1) (by decide))]
        rfl
      exact ⟨hfall, hrise⟩
  · intro s r h hack
    have hwithin := Die.regionUp_within s.env s.d r.toNat
    refine ⟨_, exec_regionRunning h hack, ?_, ?_, hwithin.dram, hwithin.keepsRegs, ?_⟩
    · exact (Die.getF_of_regs_eq (Die.regionUp_regs s.env s.d r.toNat) _ _).trans
        ((Die.getF_setF_apart _ F.ST_REGION_STATUS.FREQ_NOW F.ST_REGION_STATUS.POWER _ _ (by decide)).trans
          (Die.powerState_setF_power s.d r.toNat 2))
    · rw [Die.regionUp_selfRef]
      exact fun hmem => of_decide_eq_true (List.mem_filter.1 hmem).2 rfl
    · exact (Die.getF_of_regs_eq (Die.regionUp_regs s.env s.d r.toNat) _ _).trans (Die.getF_setF_same _ _ _ _ (by decide))

/-! ### O16: locks, late wakes and the control register -/

/-- A report that finds no fault in handling and may not be merged stands with Assay, or with its checker. -/
theorem Die.report_stands (e : Env) (d : Die) (r : Report) (h : d.bit F.AY_STATUS.HANDLING 0 = false) (hm : mergeable r = false) :
    let x : Report := { r with time := e.now }
    (d.report e r).ay.waiting = d.ay.waiting ++ [x] ∧ (d.report e r).ay.held = d.ay.held ∨
      (d.report e r).ay.waiting = d.ay.waiting ∧ (d.report e r).ay.held = d.ay.held ++ [x] := by
  intro x
  have hx : ¬ (mergeable x = true ∧ (!x.self) = true) := fun hc => absurd (hm.symm.trans hc.1) (by decide)
  unfold Die.report
  extract_lets y
  rw [h, if_neg (by decide)]
  split
  · exact .inl ⟨rfl, rfl⟩
  · exact .inr ⟨rfl, rfl⟩

/-- An event leaves its bit set. -/
theorem Die.getF_setEv_bit (d : Die) (f : Fld) (i : Nat) (hw : f.width = 1) (h : f.lo + f.width ≤ 64) : (d.setEv f i).getF f i = 1 := by
  have hset : (d.setEv f i).getF f i = (d.getF f i ||| 1) % 2 ^ f.width := Die.getF_setF_same d f i _ h
  rw [hset, hw, pow_one, Nat.or_mod_two_eq_one]
  exact .inr rfl

theorem Die.getF_setEv_apart (d : Die) (f g : Fld) (i : Nat) (h : f.apart g = true) : (d.setEv f i).getF g i = d.getF g i :=
  Die.getF_setF_apart d f g i _ h

theorem Die.regionCtl_within (e : Env) (d : Die) (n : Nat) (v : Word) :
    Within { regs := [.ST_REGION_CTL, .ST_REGION_STATUS], mem := true, coh := true, bt := true, out := true, rose := true } d (d.regionCtl e n v) := by
  unfold Die.regionCtl
  extract_lets was d₁ f d₂
  have h₁ : Within { regs := [.ST_REGION_CTL, .ST_REGION_STATUS], mem := true, coh := true, bt := true, out := true, rose := true } d d₁ :=
    Die.putWord_within e d .ST_REGION_CTL n 0 v
  have h₂ : Within { regs := [.ST_REGION_CTL, .ST_REGION_STATUS], mem := true, coh := true, bt := true, out := true, rose := true } d₁ d₂ := by
    unfold d₂
    split
    · exact Die.setEv_within d₁ F.ST_REGION_STATUS.FREQ_CLAMP n
    · exact .refl d₁
  refine (h₁.trans h₂).trans ?_
  split
  · exact (Die.wake_within e d₂ n).mono
  · exact .refl d₂

/-- A field of ST_REGION_CTL takes what is written to it. -/
theorem Die.getF_regionCtl (e : Env) (d : Die) (n : Nat) (v : Word) (f : Fld) (hf : f ∈ Reg.ST_REGION_CTL.fields) (hr : f.reg = .ST_REGION_CTL)
    (hw : f.word = 0) (hrw : f.acc = .RW) : (d.regionCtl e n v).getF f n = fieldOf v f.lo f.width := by
  have hput : (d.putWord e .ST_REGION_CTL n 0 v).getF f n = fieldOf v f.lo f.width := by
    have h := Die.getF_putWord e d .ST_REGION_CTL n v f hf hr
    rw [hw] at h
    rw [h]
    unfold Fld.written
    rw [hrw]
  have hne : f.reg ≠ .ST_REGION_STATUS := by rw [hr]; decide
  unfold Die.regionCtl
  extract_lets was d₁ g d₂
  have h₂ : d₂.getF f n = d₁.getF f n := by
    unfold d₂
    split
    · exact (Die.setEv_within (p := { regs := [.ST_REGION_STATUS], rose := true }) d₁ F.ST_REGION_STATUS.FREQ_CLAMP n).getF f n (by rw [hr]; rfl)
    · rfl
  rw [← hput, ← show d₁.getF f n = _ from rfl, ← h₂]
  split
  · exact (Die.wake_within e d₂ n).getF f n (by rw [hr]; rfl)
  · rfl

/-- A FREQ_CODE that is out of range sets the clamp, and no wake trigger clears it. -/
theorem Die.getF_regionCtl_clamp (e : Env) (d : Die) (n : Nat) (v : Word) (h : fieldOf v 8 8 < 80 ∨ 220 < fieldOf v 8 8) :
    (d.regionCtl e n v).getF F.ST_REGION_STATUS.FREQ_CLAMP n = 1 := by
  unfold Die.regionCtl
  extract_lets was d₁ g d₂
  have hg : g = fieldOf v 8 8 := Die.getF_putWord e d .ST_REGION_CTL n v F.ST_REGION_CTL.FREQ_CODE (by decide) rfl
  have h₂ : d₂.getF F.ST_REGION_STATUS.FREQ_CLAMP n = 1 := by
    unfold d₂
    rw [if_pos (hg ▸ h)]
    exact Die.getF_setEv_bit d₁ _ n rfl (by decide)
  split
  · exact (Die.getF_wake_left e d₂ n _ (by decide)).trans h₂
  · exact h₂

/-- A write of the control register leaves the clock in force as it is. -/
theorem Die.getF_regionCtl_freqNow (e : Env) (d : Die) (n : Nat) (v : Word) :
    (d.regionCtl e n v).getF F.ST_REGION_STATUS.FREQ_NOW n = d.getF F.ST_REGION_STATUS.FREQ_NOW n := by
  unfold Die.regionCtl
  extract_lets was d₁ g d₂
  have h₁ : d₁.getF F.ST_REGION_STATUS.FREQ_NOW n = d.getF F.ST_REGION_STATUS.FREQ_NOW n :=
    (Die.putWord_within (p := { regs := [.ST_REGION_CTL] }) e d .ST_REGION_CTL n 0 v).getF _ n
  have h₂ : d₂.getF F.ST_REGION_STATUS.FREQ_NOW n = d₁.getF F.ST_REGION_STATUS.FREQ_NOW n := by
    unfold d₂
    split
    · exact Die.getF_setEv_apart d₁ F.ST_REGION_STATUS.FREQ_CLAMP _ n (by decide)
    · rfl
  rw [← h₁, ← h₂]
  split
  · exact Die.getF_wake_left e d₂ n _ (by decide)
  · rfl

/-- A GATED region whose policy leaves 0 wakes. -/
theorem Die.powerState_regionCtl (e : Env) (d : Die) (n : Nat) (v : Word) (hn : n < 8) (hwas : d.getF F.ST_REGION_CTL.GATE_POLICY n = 0)
    (hnew : fieldOf v 0 2 ≠ 0) (hgated : d.powerState n = 0) : (d.regionCtl e n v).powerState n = 1 := by
  unfold Die.regionCtl
  extract_lets was d₁ g d₂
  have h₁ : d₁.powerState n = 0 := ((Die.putWord_within (p := { regs := [.ST_REGION_CTL] }) e d .ST_REGION_CTL n 0 v).getF F.ST_REGION_STATUS.POWER n).trans hgated
  have hpolicy₁ : d₁.getF F.ST_REGION_CTL.GATE_POLICY n = fieldOf v 0 2 := Die.getF_putWord e d .ST_REGION_CTL n v F.ST_REGION_CTL.GATE_POLICY (by decide) rfl
  have h₂ : d₂.powerState n = 0 ∧ d₂.getF F.ST_REGION_CTL.GATE_POLICY n = fieldOf v 0 2 := by
    unfold d₂
    split
    · exact ⟨(Die.getF_setEv_apart d₁ F.ST_REGION_STATUS.FREQ_CLAMP F.ST_REGION_STATUS.POWER n (by decide)).trans h₁,
        (Die.getF_setEv_apart d₁ F.ST_REGION_STATUS.FREQ_CLAMP F.ST_REGION_CTL.GATE_POLICY n (by decide)).trans hpolicy₁⟩
    · exact ⟨h₁, hpolicy₁⟩
  rw [if_pos ⟨hn, hwas, h₂.2 ▸ hnew⟩]
  exact (Die.wake_of_gated e h₂.1).1

theorem exec_interpolatorLock {s : State} {n : BitVec 4} (hp : s.d.bt.pwrGood = true)
    (hclock : n.toNat = 8 ∨ n.toNat < s.env.regions ∧ n.toNat ≠ 8 ∧ s.d.powerState n.toNat = 2 ∧ (s.d.power n.toNat).step < 5) :
    exec (.interpolatorLock n) s = .next { s with d := s.d.setF F.ST_REGION_STATUS.TIME_FINE n.toNat 1 } := by
  change execInterpolatorLock n s = _
  unfold execInterpolatorLock
  dsimp only
  rw [if_pos]
  · rfl
  · rcases hclock with h | ⟨hregion, hne, hrun, hstep⟩
    · rw [if_pos h]
      exact ⟨hp, rfl⟩
    · rw [if_neg hne, hrun]
      refine ⟨hp, ?_⟩
      rw [show s.env.hasRegion n.toNat = true from decide_eq_true hregion, decide_eq_true (⟨Nat.le_refl 2, hstep⟩ : (2 : Nat) ≥ 2 ∧ _)]
      rfl

/-- Settles O16. -/
theorem regionsTakeLocksLateWakesAndControlWrites : Obligations.RegionsTakeLocksLateWakesAndControlWrites := by
  unfold Obligations.RegionsTakeLocksLateWakesAndControlWrites
  constructor
  · intro s hp
    refine ⟨?_, fun n hn h8 hrun hstep => ?_, fun n hn h8 => ?_, fun r hwaking hlate hhandling hrep => ?_, fun r hearly => ?_⟩
    · refine ⟨_, exec_interpolatorLock hp (.inl rfl), Die.getF_setF_same _ _ _ _ (by decide), Within.onlyRegs (Die.setF_within s.d _ _ 1), fun j hj => ?_⟩
      exact Die.reg_setReg_ne s.d _ _ _ _ _ _ _ (.inr (fun h => hj (Nat.eq_of_mul_eq_mul_left (by decide : 0 < 8) h)))
    · exact ⟨_, exec_interpolatorLock hp (.inr ⟨hn, by omega, hrun, hstep⟩), Die.getF_setF_same _ _ _ _ (by decide),
        Within.onlyRegs (Die.setF_within s.d _ _ 1)⟩
    · change execInterpolatorLock n s = _
      unfold execInterpolatorLock
      dsimp only
      rw [if_neg h8, show s.env.hasRegion n.toNat = false from decide_eq_false (Nat.not_lt.2 hn), Bool.false_and, if_neg (fun hc => absurd hc.2 (by decide))]
      rfl
    · have hexec : exec (.regionPwr r) s = .next { s with d := s.d.report s.env { cause := Cs.REGION_PWR, inst := r.toNat, det0 := r.toNat } } := by
        change execRegionPwr r s = _
        unfold execRegionPwr
        dsimp only
        rw [hwaking, hrep, decide_eq_true (show s.env.now ≥ (s.d.power r.toNat).at_ + 50000 from hlate)]
        rfl
      exact ⟨_, _, hexec, Die.report_stands s.env s.d _ hhandling rfl, rfl, rfl, rfl, rfl,
        (Die.report_within (p := { regs := [.AY_STATUS], ay := true }) s.env s.d _).keepsRegs⟩
    · change execRegionPwr r s = _
      unfold execRegionPwr
      dsimp only
      rw [show decide (s.env.now ≥ (s.d.power r.toNat).at_ + 50000) = false from decide_eq_false (by omega), Bool.and_false, Bool.false_and]
      rfl
  · intro s who n v hn hgate
    have hexec : exec (.stRegionCtlWrite who n v) s = .next { s with d := s.d.regionCtl s.env n.toNat v } := by
      change execStRegionCtlWrite who n v s = _
      unfold execStRegionCtlWrite
      rw [if_pos hn, Die.barWrite_of_gate _ hgate]
      rfl
    have hwithin := Die.regionCtl_within s.env s.d n.toNat v
    exact ⟨_, hexec, Die.getF_regionCtl _ _ _ _ F.ST_REGION_CTL.GATE_POLICY (by decide) rfl rfl rfl,
      Die.getF_regionCtl _ _ _ _ F.ST_REGION_CTL.FREQ_CODE (by decide) rfl rfl rfl,
      Die.getF_regionCtl _ _ _ _ F.ST_REGION_CTL.IDLE_TICKS (by decide) rfl rfl rfl,
      fun h => Die.getF_regionCtl_clamp _ _ _ _ h,
      fun h8 hwas hnew hgated => Die.powerState_regionCtl _ _ _ _ h8 hwas hnew hgated,
      Die.getF_regionCtl_freqNow _ _ _ _, hwithin.keepsRegs, hwithin.dram, rfl⟩

end Sys2Proof.Machine
end

section
/-! PROOF. Writes of set-up registers that their chapters guard (R45, R49, R58, R81, R152, R183, R264, R330, R422): each is taken under its
conditions and otherwise ignored and counted. -/

-- One proof after another: all at once, they ask for more threads than the check's memory limit admits.
set_option Elab.async false

namespace Sys2Proof.Machine

/-! ### Words that are written -/

/-- An RW field of a written word reads as written. -/
theorem Die.getF_putWord_rw (e : Env) (d : Die) (r : Reg) (i : Nat) (v : Word) (f : Fld) (hf : f ∈ r.fields) (hw : f.word = 0) (hacc : f.acc = .RW) :
    (d.putWord e r i 0 v).getF f i = fieldOf v f.lo f.width := by
  have h := Die.getF_putWord e d r i v f hf (Reg.reg_of_mem_fields r f hf)
  rw [hw] at h
  rw [h]
  unfold Fld.written
  rw [hacc]

theorem Die.reg_putWord_ne (e : Env) (d : Die) (r : Reg) (i j : Nat) (v : Word) (h : j ≠ i) : (d.putWord e r i 0 v).reg r j 0 = d.reg r j 0 :=
  Die.reg_setReg_ne d r r i 0 j 0 _ (.inr (fun hc => h (by omega)))

theorem putField_self (x : Word) (lo w : Nat) (h : lo + w ≤ 64) : putField x lo w (fieldOf x lo w) = x := by
  refine BitVec.eq_of_toNat_eq ?_
  rw [putField_toNat x lo w _ h, Nat.mod_eq_of_lt (fieldOf_lt x lo w)]
  have hmid : x.toNat / 2 ^ lo / 2 ^ w * 2 ^ w + x.toNat / 2 ^ lo % 2 ^ w = x.toNat / 2 ^ lo := Nat.div_add_mod' _ _
  have hlow : x.toNat / 2 ^ lo * 2 ^ lo + x.toNat % 2 ^ lo = x.toNat := Nat.div_add_mod' _ _
  unfold fieldOf
  rw [pow_add, ← Nat.div_div_eq_div_mul]
  calc x.toNat % 2 ^ lo + x.toNat / 2 ^ lo % 2 ^ w * 2 ^ lo + x.toNat / 2 ^ lo / 2 ^ w * (2 ^ lo * 2 ^ w)
      = (x.toNat / 2 ^ lo / 2 ^ w * 2 ^ w + x.toNat / 2 ^ lo % 2 ^ w) * 2 ^ lo + x.toNat % 2 ^ lo := by ring
    _ = x.toNat := by rw [hmid, hlow]

/-! ### O18: the set-up of a context -/

theorem Die.ctxSettable_iff (d : Die) (c : Nat) :
    d.ctxSettable c = true ↔ ((d.ctxState c = 0 ∧ d.ringsOf c = []) ∨ d.ctxState c = 5) ∧ d.tearing c = false := by
  unfold Die.ctxSettable
  simp

/-- A write of a context's set-up that is taken. -/
def Die.ctxCfgTaken (e : Env) (d : Die) (c : Nat) (v : Word) : Die :=
  let t := d.putWord e .SF_CTX_CFG c 0 v
  if !d.ctxValid c ∧ t.ctxValid c then ((t.setF F.TY_LEDGER_CLUSTER.CLUSTER_NS c 0).setF F.TY_LEDGER_ENGINE.ENGINE_NS c 0).clearCtxRecs c else t

theorem Die.clearCtxRecs_within {p : Touch} (d : Die) (c : Nat) (ha : p.regs.contains .AY_CTX_REC = true := by rfl) (hw : p.regs.contains .WE_WERR = true := by rfl) :
    Within p d (d.clearCtxRecs c) := (Die.clearElem_within d _ c ha).trans (Die.clearElem_within _ _ c hw)

theorem Die.ctxCfgTaken_within (e : Env) (d : Die) (c : Nat) (v : Word) :
    Within { regs := [.SF_CTX_CFG, .TY_LEDGER_CLUSTER, .TY_LEDGER_ENGINE, .AY_CTX_REC, .WE_WERR] } d (d.ctxCfgTaken e c v) := by
  unfold Die.ctxCfgTaken
  extract_lets t
  have ht : Within { regs := [.SF_CTX_CFG, .TY_LEDGER_CLUSTER, .TY_LEDGER_ENGINE, .AY_CTX_REC, .WE_WERR] } d t := Die.putWord_within e d _ c 0 v
  refine ht.trans ?_
  split
  · exact ((Die.setF_within t F.TY_LEDGER_CLUSTER.CLUSTER_NS c 0).trans (Die.setF_within _ F.TY_LEDGER_ENGINE.ENGINE_NS c 0)).trans (Die.clearCtxRecs_within _ c)
  · exact .refl t

theorem Die.getF_ctxCfgTaken (e : Env) (d : Die) (c : Nat) (v : Word) (f : Fld) (hf : f ∈ Reg.SF_CTX_CFG.fields) (hw : f.word = 0) (hacc : f.acc = .RW) :
    (d.ctxCfgTaken e c v).getF f c = fieldOf v f.lo f.width := by
  have hreg := Reg.reg_of_mem_fields _ f hf
  have hput := Die.getF_putWord_rw e d .SF_CTX_CFG c v f hf hw hacc
  unfold Die.ctxCfgTaken
  extract_lets t
  rw [← hput]
  split
  · refine Within.getF (p := { regs := [.TY_LEDGER_CLUSTER, .TY_LEDGER_ENGINE, .AY_CTX_REC, .WE_WERR] })
      (((Die.setF_within t F.TY_LEDGER_CLUSTER.CLUSTER_NS c 0).trans (Die.setF_within _ F.TY_LEDGER_ENGINE.ENGINE_NS c 0)).trans (Die.clearCtxRecs_within _ c)) f c ?_
    rw [hreg]
    rfl
  · rfl

/-- A context that becomes valid has its Ledger at 0. -/
theorem Die.ledger_ctxCfgTaken (e : Env) (d : Die) (c : Nat) (v : Word) (hwas : d.ctxValid c = false) (hnow : fieldOf v 9 1 = 1) :
    (d.ctxCfgTaken e c v).getF F.TY_LEDGER_CLUSTER.CLUSTER_NS c = 0 ∧ (d.ctxCfgTaken e c v).getF F.TY_LEDGER_ENGINE.ENGINE_NS c = 0 := by
  have hvalid : (d.putWord e .SF_CTX_CFG c 0 v).ctxValid c = true := by
    unfold Die.ctxValid Die.bit
    rw [Die.getF_putWord_rw e d .SF_CTX_CFG c v F.SF_CTX_CFG.VALID (by decide) rfl rfl]
    exact decide_eq_true hnow
  unfold Die.ctxCfgTaken
  extract_lets t
  rw [if_pos ⟨by rw [hwas]; rfl, hvalid⟩]
  have hclear : Within { regs := [.AY_CTX_REC, .WE_WERR] } ((t.setF F.TY_LEDGER_CLUSTER.CLUSTER_NS c 0).setF F.TY_LEDGER_ENGINE.ENGINE_NS c 0)
      (((t.setF F.TY_LEDGER_CLUSTER.CLUSTER_NS c 0).setF F.TY_LEDGER_ENGINE.ENGINE_NS c 0).clearCtxRecs c) := Die.clearCtxRecs_within _ c
  rw [hclear.getF F.TY_LEDGER_CLUSTER.CLUSTER_NS c, hclear.getF F.TY_LEDGER_ENGINE.ENGINE_NS c]
  refine ⟨?_, Die.getF_setF_same _ _ c 0 (by decide)⟩
  exact (Die.getF_setF_other _ F.TY_LEDGER_ENGINE.ENGINE_NS F.TY_LEDGER_CLUSTER.CLUSTER_NS c c 0 (by decide)).trans (Die.getF_setF_same t _ c 0 (by decide))

/-- Settles O18. -/
theorem contextSetUpWritesOnlyWhileSettable : Obligations.ContextSetUpWritesOnlyWhileSettable := by
  unfold Obligations.ContextSetUpWritesOnlyWhileSettable
  intro s who c v settable
  refine ⟨fun hgate hset => ?_, fun hgate hset => ?_, fun err hgate hset => ?_⟩
  · have hok := (Die.ctxSettable_iff s.d c.toNat).2 hset
    have hexec : exec (.ctxCfgWrite who false c v) s = .next { s with d := s.d.ctxCfgTaken s.env c.toNat v } := by
      change execCtxCfgWrite who false c v s = _
      unfold execCtxCfgWrite
      simp only [Bool.false_eq_true, if_false]
      rw [Die.barWrite_of_gate _ hgate, if_pos hok]
      unfold Die.ctxCfgTaken
      simp only [Bool.not_false, true_and]
      rfl
    exact ⟨_, hexec, Die.getF_ctxCfgTaken _ _ _ _ F.SF_CTX_CFG.SLICE (by decide) rfl rfl, Die.getF_ctxCfgTaken _ _ _ _ F.SF_CTX_CFG.VALID (by decide) rfl rfl,
      Die.getF_ctxCfgTaken _ _ _ _ F.SF_CTX_CFG.KERNEL (by decide) rfl rfl, Die.getF_ctxCfgTaken _ _ _ _ F.SF_CTX_CFG.DIAG (by decide) rfl rfl,
      Die.getF_ctxCfgTaken _ _ _ _ F.SF_CTX_CFG.FAULT_POLICY (by decide) rfl rfl, Die.ledger_ctxCfgTaken _ _ _ _,
      (Die.ctxCfgTaken_within s.env s.d c.toNat v).onlyRegs⟩
  · have hok := (Die.ctxSettable_iff s.d c.toNat).2 hset
    have hexec : exec (.ctxCfgWrite who true c v) s = .next { s with d := s.d.putWord s.env .SF_CTX_ERR c.toNat 0 v } := by
      change execCtxCfgWrite who true c v s = _
      unfold execCtxCfgWrite
      dsimp only
      rw [if_pos rfl, Die.barWrite_of_gate _ hgate, if_pos hok]
      rfl
    exact ⟨_, hexec, Die.getF_putWord_rw _ _ _ _ _ F.SF_CTX_ERR.LOC (by decide) rfl rfl, Die.getF_putWord_rw _ _ _ _ _ F.SF_CTX_ERR.ADDR (by decide) rfl rfl,
      (Die.putWord_within (p := { regs := [.SF_CTX_ERR] }) s.env s.d .SF_CTX_ERR c.toNat 0 v).onlyRegs⟩
  · change execCtxCfgWrite who err c v s = _
    unfold execCtxCfgWrite
    dsimp only
    rw [Die.barWrite_of_gate _ hgate, if_neg (fun h => hset ((Die.ctxSettable_iff s.d c.toNat).1 h))]
    rfl

/-! ### O20: rings -/

/-- A ring that is enabled. -/
def Die.ringEnabled (e : Env) (d : Die) (n : Nat) (v : Word) : Die :=
  ((((d.putWord e .SF_RING_CTL n 0 v).setF F.SF_RING_STATUS.HEAD n 0).setF F.SF_RING_STATUS.TAIL n 0).clearElem .TY_RING_DL n).setRingRt n {}

theorem Die.ringEnabled_within (e : Env) (d : Die) (n : Nat) (v : Word) :
    Within { regs := [.SF_RING_CTL, .SF_RING_STATUS, .TY_RING_DL], sf := true } d (d.ringEnabled e n v) := by
  have hput : Within { regs := [.SF_RING_CTL, .SF_RING_STATUS, .TY_RING_DL], sf := true } d (d.putWord e .SF_RING_CTL n 0 v) := Die.putWord_within e d _ n 0 v
  exact (((hput.trans (Die.setF_within _ F.SF_RING_STATUS.HEAD n 0)).trans (Die.setF_within _ F.SF_RING_STATUS.TAIL n 0)).trans
    (Die.clearElem_within _ .TY_RING_DL n)).trans (Die.setSf_within _ _)

theorem Die.ringEnabled_eq (e : Env) (d : Die) (n : Nat) (v : Word) :
    d.ringEnabled e n v = { d with regs := (d.ringEnabled e n v).regs, sf := { d.sf with rings := (d.ringEnabled e n v).sf.rings } } := by
  have hregs : Within { regs := [.SF_RING_CTL, .SF_RING_STATUS, .TY_RING_DL] } d
      ((((d.putWord e .SF_RING_CTL n 0 v).setF F.SF_RING_STATUS.HEAD n 0).setF F.SF_RING_STATUS.TAIL n 0).clearElem .TY_RING_DL n) :=
    (((Die.putWord_within e d _ n 0 v).trans (Die.setF_within _ F.SF_RING_STATUS.HEAD n 0)).trans (Die.setF_within _ F.SF_RING_STATUS.TAIL n 0)).trans
      (Die.clearElem_within _ .TY_RING_DL n)
  unfold Die.ringEnabled
  rw [hregs.eq_regs]
  rfl

theorem Die.getF_ringEnabled (e : Env) (d : Die) (n : Nat) (v : Word) (f : Fld) (hf : f ∈ Reg.SF_RING_CTL.fields) (hw : f.word = 0) (hacc : f.acc = .RW) :
    (d.ringEnabled e n v).getF f n = fieldOf v f.lo f.width := by
  have hreg := Reg.reg_of_mem_fields _ f hf
  rw [← Die.getF_putWord_rw e d .SF_RING_CTL n v f hf hw hacc]
  refine Within.getF (p := { regs := [.SF_RING_STATUS, .TY_RING_DL], sf := true }) ?_ f n (by rw [hreg]; rfl)
  exact (((Die.setF_within _ F.SF_RING_STATUS.HEAD n 0).trans (Die.setF_within _ F.SF_RING_STATUS.TAIL n 0)).trans
    (Die.clearElem_within _ .TY_RING_DL n)).trans (Die.setSf_within _ _)

theorem Die.head_tail_ringEnabled (e : Env) (d : Die) (n : Nat) (v : Word) : (d.ringEnabled e n v).head n = 0 ∧ (d.ringEnabled e n v).tail n = 0 := by
  have hlast : Within { regs := [.TY_RING_DL], sf := true } (((d.putWord e .SF_RING_CTL n 0 v).setF F.SF_RING_STATUS.HEAD n 0).setF F.SF_RING_STATUS.TAIL n 0)
      (d.ringEnabled e n v) := (Die.clearElem_within _ .TY_RING_DL n).trans (Die.setSf_within _ _)
  constructor
  · refine (hlast.getF F.SF_RING_STATUS.HEAD n).trans ?_
    rw [Die.getF_setF_apart _ F.SF_RING_STATUS.TAIL F.SF_RING_STATUS.HEAD n 0 (by decide)]
    exact Die.getF_setF_same _ _ n 0 (by decide)
  · exact (hlast.getF F.SF_RING_STATUS.TAIL n).trans (Die.getF_setF_same _ _ n 0 (by decide))

/-- The conditions of R49 under which a ring is enabled. -/
def Die.ringOk (d : Die) (n : Nat) (v : Word) : Bool :=
  !(d.bit F.SF_RING_CTL.ENABLE n) && d.usable (fieldOf v 16 12) && decide (6 ≤ fieldOf v 0 5 ∧ fieldOf v 0 5 ≤ 16) &&
    !((d.ringsOf (fieldOf v 16 12)).any (fun m => decide (m ≠ n ∧ d.getF F.SF_RING_CTL.DB_INDEX m = fieldOf v 7 9)))

theorem Die.bit_eq_false_iff (d : Die) (f : Fld) (i : Nat) (hw : f.width = 1) : d.bit f i = false ↔ d.getF f i = 0 := by
  have hlt : d.getF f i < 2 ^ f.width := fieldOf_lt _ _ _
  rw [hw] at hlt
  unfold Die.bit
  rw [decide_eq_false_iff_not]
  omega

theorem Die.ringOk_iff (d : Die) (n : Nat) (v : Word) : d.ringOk n v = true ↔
    d.getF F.SF_RING_CTL.ENABLE n = 0 ∧ d.usable (fieldOf v 16 12) = true ∧ 6 ≤ fieldOf v 0 5 ∧ fieldOf v 0 5 ≤ 16 ∧
      ∀ m ∈ d.ringsOf (fieldOf v 16 12), m ≠ n → d.getF F.SF_RING_CTL.DB_INDEX m ≠ fieldOf v 7 9 := by
  unfold Die.ringOk
  rw [← Die.bit_eq_false_iff d F.SF_RING_CTL.ENABLE n rfl]
  simp only [Bool.and_eq_true, Bool.not_eq_true', decide_eq_true_eq, List.any_eq_false, and_assoc, not_and]

theorem Die.ringAccept_iff (d : Die) (n : Nat) (v : Word) : d.ringAccept n 2 v = true ↔
    d.getF F.SF_RING_CTL.ENABLE n = 0 ∨ fieldOf v 6 1 = 0 ∧
      (d.ctxState (d.getF F.SF_RING_CTL.CONTEXT n) = 0 ∨ d.ctxState (d.getF F.SF_RING_CTL.CONTEXT n) = 5) := by
  unfold Die.ringAccept
  rw [← Die.bit_eq_false_iff d F.SF_RING_CTL.ENABLE n rfl]
  simp only [Bool.or_eq_true, Bool.and_eq_true, Bool.not_eq_true', decide_eq_true_eq, true_and]

theorem exec_ringEnable {s : State} {who : Who} {n : BitVec 13} {v : Word} (hgate : s.d.barGate s.env who .SF_RING_CTL n.toNat = none)
    (hset : fieldOf v 6 1 = 1) : exec (.ringEnable who n v) s = .next { s with d :=
      (if s.d.ringOk n.toNat v then s.d.ringEnabled s.env n.toNat v else s.d.reject F.SF_STATUS.CFG_REJECT 0) } := by
  change execRingEnable who n v s = _
  unfold execRingEnable
  dsimp only
  rw [Die.barWrite_of_gate _ hgate, decide_eq_true hset]
  simp only [Bool.not_true, Bool.false_eq_true, if_false]
  unfold Die.ringOk Die.ringEnabled
  rfl

theorem exec_ringDisable {s : State} {who : Who} {n : BitVec 13} {v : Word} (hgate : s.d.barGate s.env who .SF_RING_CTL n.toNat = none) :
    exec (.ringDisable who n v) s = .next { s with d :=
      (if s.d.ringAccept n.toNat 2 (putField v 6 1 0) then s.d.putWord s.env .SF_RING_CTL n.toNat 0 (putField v 6 1 0)
      else s.d.reject F.SF_STATUS.CFG_REJECT 0) } := by
  change execRingDisable who n v s = _
  unfold execRingDisable
  dsimp only
  rw [Die.barWrite_of_gate _ hgate]
  rfl

/-- A write of SF_RING_CTL with ENABLE clear is the same by either row. -/
theorem exec_ringEnable_clear {s : State} {who : Who} {n : BitVec 13} {v : Word} (hgate : s.d.barGate s.env who .SF_RING_CTL n.toNat = none)
    (hset : fieldOf v 6 1 = 0) : exec (.ringEnable who n v) s = exec (.ringDisable who n v) s := by
  have hv : putField v 6 1 0 = v := by
    conv_rhs => rw [← putField_self v 6 1 (by decide), hset]
  rw [exec_ringDisable hgate, hv]
  change execRingEnable who n v s = _
  unfold execRingEnable
  dsimp only
  rw [Die.barWrite_of_gate _ hgate, decide_eq_false (show ¬ fieldOf v 6 1 = 1 by omega)]
  simp only [Bool.not_false, if_true]
  rfl

/-- Settles O20. -/
theorem ringsEnableAndDisableUnderTheirConditions : Obligations.RingsEnableAndDisableUnderTheirConditions := by
  unfold Obligations.RingsEnableAndDisableUnderTheirConditions
  intro s who n v hgate c ok c0
  have hdis : s.d.ringAccept n.toNat 2 (putField v 6 1 0) = true ↔ s.d.getF F.SF_RING_CTL.ENABLE n.toNat = 0 ∨ c0 = 0 ∨ c0 = 5 := by
    rw [Die.ringAccept_iff, fieldOf_putField_same _ _ _ _ (by decide)]
    exact or_congr_right ⟨fun h => h.2, fun h => ⟨rfl, h⟩⟩
  refine ⟨fun hset hok => ?_, fun hset hnot => ?_, exec_ringEnable_clear hgate, fun hacc => ?_, fun hnot => ?_⟩
  · have hexec := exec_ringEnable hgate hset
    rw [if_pos ((Die.ringOk_iff s.d n.toNat v).2 hok)] at hexec
    obtain ⟨hhead, htail⟩ := Die.head_tail_ringEnabled s.env s.d n.toNat v
    have hfield := Die.getF_ringEnabled s.env s.d n.toNat v
    exact ⟨_, hexec, (hfield F.SF_RING_CTL.ENABLE (by decide) rfl rfl).trans hset, hfield F.SF_RING_CTL.CONTEXT (by decide) rfl rfl,
      hfield F.SF_RING_CTL.LOG2_SIZE (by decide) rfl rfl, hfield F.SF_RING_CTL.VERSION (by decide) rfl rfl,
      hfield F.SF_RING_CTL.DB_INDEX (by decide) rfl rfl, hfield F.SF_RING_CTL.MSIX_VECTOR (by decide) rfl rfl, hhead, htail,
      (Die.ringEnabled_within s.env s.d n.toNat v).keepsRegs, congrArg (fun d => { s with d := d }) (Die.ringEnabled_eq s.env s.d n.toNat v)⟩
  · rw [exec_ringEnable hgate hset, if_neg (fun h => hnot ((Die.ringOk_iff s.d n.toNat v).1 h))]
  · have hexec := exec_ringDisable (v := v) hgate
    rw [if_pos (hdis.2 hacc)] at hexec
    refine ⟨_, hexec, ?_, ?_, ?_, (Die.putWord_within (p := { regs := [.SF_RING_CTL] }) s.env s.d .SF_RING_CTL n.toNat 0 _).onlyRegs⟩
    · exact (Die.getF_putWord_rw _ _ _ _ _ F.SF_RING_CTL.ENABLE (by decide) rfl rfl).trans (fieldOf_putField_same _ _ _ _ (by decide))
    · exact (Die.getF_putWord_rw _ _ _ _ _ F.SF_RING_CTL.CONTEXT (by decide) rfl rfl).trans (fieldOf_putField_apart _ _ _ _ _ _ (by decide) (.inr (by decide)))
    · exact (Die.getF_putWord_rw _ _ _ _ _ F.SF_RING_CTL.LOG2_SIZE (by decide) rfl rfl).trans (fieldOf_putField_apart _ _ _ _ _ _ (by decide) (.inl (by decide)))
  · rw [exec_ringDisable hgate, if_neg (fun h => hnot (hdis.1 h))]

/-! ### O21: guarded registers -/

/-- A write that is taken under its guard: it sets the word of one element, over a die whose buckets may have been brought up to date. -/
theorem guardedWrite_of_exec {i : Instr} {s : State} {ok : Prop} [Decidable ok] {r : Reg} {el : Nat} {v : Word} {rej : Fld} {ri : Nat}
    (b : Tab (Int × Int × Nat)) (hfields : ∀ f ∈ r.fields, f.word = 0)
    (hexec : exec i s = .next { s with d :=
      (if ok then ({ s.d with mem.buckets := b } : Die).putWord s.env r el 0 v else s.d.reject rej ri) }) :
    guardedWrite i s ok r el v rej ri := by
  refine ⟨fun h => ?_, fun h => ?_⟩
  · rw [if_pos h] at hexec
    refine ⟨_, hexec, fun f hf hacc => Die.getF_putWord_rw _ _ _ _ _ f hf (hfields f hf) hacc, fun j hj => Die.reg_putWord_ne _ _ _ _ _ _ hj, ?_, rfl⟩
    exact fun r' hr' j w => Die.reg_setReg_ne { s.d with mem.buckets := b } _ _ _ _ _ _ _ (.inl (fun hc => hr' (hc ▸ List.mem_cons_self)))
  · rw [if_neg h] at hexec
    exact hexec

/-- The slices whose watch shares a counter with the written mask. -/
theorem watchTaken_eq_false_iff (d : Die) (i : Nat) (v : Word) :
    (List.range 512).any (fun t => decide (t ≠ i) && decide (d.reg .CH_WATCH_MASK t 0 &&& v ≠ 0)) = false ↔
      ∀ t < 512, t ≠ i → d.reg .CH_WATCH_MASK t 0 &&& v = 0 := by
  simp [List.any_eq_false]

theorem exec_weLbwWrite {s : State} {who : Who} {sl : BitVec 9} {v : Word} (hgate : s.d.barGate s.env who .WE_LBW sl.toNat = none) :
    exec (.weLbwWrite who sl v) s = .next { s with d := (if s.d.settable sl.toNat then
      Die.winPump s.env { (s.d.putWord s.env .WE_LBW sl.toNat 0 v) with
        we.lbw := Tab.set (0, 0, 0) s.d.we.lbw sl.toNat ((s.d.linkBucket s.env sl.toNat).1, (s.d.linkBucket s.env sl.toNat).2, s.env.now) }
      else s.d.reject F.WE_STATUS.CFG_REJECT 0) } := by
  change execWeLbwWrite who sl v s = _
  unfold execWeLbwWrite
  dsimp only
  rw [Die.barWrite_of_gate _ hgate]
  rfl

/-- Settles O21, register by register. -/
theorem guardedSetUpWritesNeedTheirConditions : Obligations.GuardedSetUpWritesNeedTheirConditions := by
  unfold Obligations.GuardedSetUpWritesNeedTheirConditions
  constructor
  · intro s who sl c n v
    refine ⟨fun hgate => ?_, fun hgate => ?_, fun hgate => ⟨fun hset => ?_, fun hset => ?_⟩, fun hgate => ?_, fun hgate => ?_, fun hgate => ?_, fun hgate => ?_⟩
    · refine guardedWrite_of_exec s.d.mem.buckets (by decide) ?_
      change execAclassWrite who sl v s = _
      unfold execAclassWrite
      rw [Die.barWrite_of_gate _ hgate]
      rfl
    · refine guardedWrite_of_exec s.d.mem.buckets (by decide) ?_
      change execSegtabWrite who c v s = _
      unfold execSegtabWrite
      dsimp only
      rw [Die.barWrite_of_gate _ hgate]
      simp only [Die.ctxSettable_iff]
      rfl
    · have hexec := exec_weLbwWrite (v := v) hgate
      rw [if_pos hset] at hexec
      refine ⟨_, hexec, fun f hf hacc => ?_, fun j hj => ?_, ?_, rfl⟩
      · exact Die.getF_putWord_rw s.env s.d .WE_LBW sl.toNat v f hf ((by decide : ∀ f ∈ Reg.WE_LBW.fields, f.word = 0) f hf) hacc
      · exact Die.reg_putWord_ne s.env s.d .WE_LBW sl.toNat j v hj
      · exact (Die.putWord_within (p := { regs := [.WE_LBW] }) s.env s.d .WE_LBW sl.toNat 0 v).keepsRegs
    · rw [exec_weLbwWrite hgate, if_neg (by rw [hset]; decide)]
    · refine guardedWrite_of_exec (Tab.set (0, 0, 0) s.d.mem.buckets (512 * n.toNat + sl.toNat)
        ((s.d.bucket n.toNat sl.toNat s.env.now).1, (s.d.bucket n.toNat sl.toNat s.env.now).2, s.env.now)) (by decide) ?_
      change execMcSbwWrite who n sl v s = _
      unfold execMcSbwWrite
      dsimp only
      rw [Die.barWrite_of_gate _ hgate]
      rfl
    · refine guardedWrite_of_exec s.d.mem.buckets (by decide) ?_
      change execCrSeedWrite who sl v s = _
      unfold execCrSeedWrite
      rw [Die.barWrite_of_gate _ hgate]
      rfl
    · refine guardedWrite_of_exec s.d.mem.buckets (by decide) ?_
      change execChVisWrite who false sl v s = _
      unfold execChVisWrite
      simp only [Bool.false_eq_true, if_false, Bool.false_and, Bool.not_false, and_true]
      rw [Die.barWrite_of_gate _ hgate]
      rfl
    · refine guardedWrite_of_exec s.d.mem.buckets (by decide) ?_
      change execChVisWrite who true sl v s = _
      unfold execChVisWrite
      simp only [if_true, Bool.true_and]
      rw [Die.barWrite_of_gate _ hgate]
      simp only [Bool.not_eq_true', watchTaken_eq_false_iff]
      rfl
  · intro s who sl v hgate sum ok
    have hexec : exec (.slotQuotaWrite who sl v) s =
        .next { s with d := (if ok then s.d.putWord s.env .SF_SLOT_QUOTA sl.toNat 0 v else s.d.setEv F.SF_STATUS.QUOTA_ERR 0) } := by
      change execSlotQuotaWrite who sl v s = _
      unfold execSlotQuotaWrite
      dsimp only
      rw [Die.barWrite_of_gate _ hgate]
      rfl
    refine ⟨fun hok => ?_, fun hnot => ?_⟩
    · rw [if_pos hok] at hexec
      exact ⟨_, hexec, Die.getF_putWord_rw _ _ _ _ _ F.SF_SLOT_QUOTA.MIN (by decide) rfl rfl, Die.getF_putWord_rw _ _ _ _ _ F.SF_SLOT_QUOTA.MAX (by decide) rfl rfl,
        Die.getF_putWord s.env s.d .SF_SLOT_QUOTA sl.toNat v F.SF_SLOT_QUOTA.IN_USE (by decide) rfl,
        (Die.putWord_within (p := { regs := [.SF_SLOT_QUOTA] }) s.env s.d _ _ 0 v).onlyRegs⟩
    · rw [if_neg hnot] at hexec
      exact ⟨_, hexec, Die.getF_setEv_bit s.d _ 0 rfl (by decide), Die.getF_setEv_apart s.d F.SF_STATUS.QUOTA_ERR _ 0 (by decide),
        (Die.setEv_within (p := { regs := [.SF_STATUS], rose := true }) s.d F.SF_STATUS.QUOTA_ERR 0).keepsRegs, rfl⟩

end Sys2Proof.Machine
end

section
/-! PROOF. Commands that Shopfront runs itself (R69 to R74, R141, R143): the row of an opcode, the commands that end unrun, and what
predicates, lists, fences and deadlines leave. -/

-- One proof after another: all at once, they ask for more threads than the check's memory limit admits.
set_option Elab.async false

namespace Sys2Proof.Machine

/-! ### What the operations on commands touch -/

theorem Die.setCmd_within {p : Touch} (d : Die) (c : Cmd) (hp : p.sf = true := by rfl) : Within p d (d.setCmd c) := Die.setSf_within d _ hp

theorem Die.setRingRt_within {p : Touch} (d : Die) (n : Nat) (r : RingRt) (hp : p.sf = true := by rfl) : Within p d (d.setRingRt n r) :=
  Die.setSf_within d _ hp

theorem Die.finish_within {p : Touch} (d : Die) (id st r : Nat) (hp : p.sf = true := by rfl) : Within p d (d.finish id st r) := by
  unfold Die.finish
  split
  · exact Die.setCmd_within d _ hp
  · exact .refl d

/-- What a row answers differs from the die its command left by the state of a context. -/
theorem actsTo_within {s : State} {id op : Nat} {c : Cmd} {d : Die} (h : Acting s id op c d) (x : Die) :
    Within { regs := [.SF_CTX_STATUS] } x (actsTo s id c x).d := by
  have hcmd : ∃ c0, s.d.cmd id = some c0 := by cases h <;> exact ⟨_, ‹_›⟩
  obtain ⟨c0, hcmd⟩ := hcmd
  unfold actsTo
  rw [hcmd]
  dsimp only
  split
  · exact .refl x
  · exact Die.ctxPump_within x c.ctx

/-- A row of an opcode, for a command that acts. -/
theorem exec_of_start {s : State} {id op : Nat} {c : Cmd} {d : Die} {i : Instr} {sub : Cmd → Bool} {body : Cmd → Die → Die}
    (h : Acting s id op c d) (hexec : exec i s = s.go (s.d.start s.env id op sub body))
    (hsub : ∀ x : Cmd, x.desc = c.desc → x.aux = c.aux → sub x = true) : exec i s = .next (actsTo s id c (body c d)) :=
  hexec.trans (Die.start_acting sub body h hsub)

/-- An acting command keeps its name. -/
theorem Acting.id {s : State} {id op : Nat} {c : Cmd} {d : Die} (h : Acting s id op c d) : c.id = id := Die.cmd_id d id c h.cmd

/-! ### O25 -/

/-- Settles O25. -/
theorem nopTimestampAndReturnComplete : Obligations.NopTimestampAndReturnComplete := by
  unfold Obligations.NopTimestampAndReturnComplete
  intro s id c d
  refine ⟨fun h => ?_, fun d' h htear hheld hstamp => ?_, fun h hdepth => ?_, fun h hdepth => ?_⟩
  · have hexec := exec_of_start (i := .nop id) h rfl (fun _ _ _ => rfl)
    rw [h.id] at hexec
    exact ⟨_, hexec, rfl, (actsTo_cmd h _ _).trans (Die.finish_cmd d id _ _ c h.cmd), fun j hj => (actsTo_cmd h _ _).trans (Die.finish_cmd_ne d id _ _ j hj)⟩
  · have hexec := exec_of_start (i := .timestamp id) h rfl (fun _ _ _ => rfl)
    rw [Die.oneAct, Die.runAct_ok s.env d d' c _ _ s.env.now htear (h.id ▸ hheld) (h.id ▸ hstamp), h.id] at hexec
    exact hexec
  · have hexec := exec_of_start (i := .ret id) h rfl (fun _ _ _ => rfl)
    rw [if_neg hdepth, h.id] at hexec
    exact ⟨_, hexec, rfl, (actsTo_cmd h _ _).trans (Die.finish_cmd d id _ _ c h.cmd)⟩
  · have hexec := exec_of_start (i := .ret id) h rfl (fun _ _ _ => rfl)
    rw [if_pos hdepth] at hexec
    exact hexec

/-! ### O26 -/

/-- The three ways in which the gate keeps a command from running. -/
def endsUnrun (i : Instr) (s : State) (c : Cmd) : Prop :=
  (s.d.gate c = .skip → exec i s = .next { s with d := (s.d.useSkip c).endUnrun c St.SKIPPED }) ∧
    (s.d.gate c = .bypass → exec i s = .next { s with d := s.d.endUnrun c St.BYPASSED }) ∧
    (s.d.gate c = .no → exec i s = .next s)

/-- A row that starts commands of an opcode does as the gate says. -/
theorem endsUnrun_of_start {i : Instr} {s : State} {id op : Nat} {c : Cmd} {sub : Cmd → Bool} {body : Cmd → Die → Die}
    (hexec : exec i s = s.go (s.d.start s.env id op sub body)) (hsub : sub c = true) (hcmd : s.d.cmd id = some c) (hop : c.op = op)
    (hst : c.st ≠ .running) : endsUnrun i s c := by
  have hstart : s.d.start s.env id op sub body = match s.d.gate c with
      | .no => s.d
      | .skip => (s.d.useSkip c).endUnrun c St.SKIPPED
      | .bypass => s.d.endUnrun c St.BYPASSED
      | .fallback => s.d.takeFallback s.env c
      | .go => match (s.d.begin s.env c).cmd id with
        | some x => (body x (s.d.begin s.env c)).ctxPump x.ctx
        | none => s.d.begin s.env c := by
    unfold Die.start
    rw [hcmd]
    simp only [hop, hsub, hst]
    simp only [ne_eq, not_true_eq_false, Bool.not_true, Bool.false_eq_true, or_self, if_false, false_and] <;> cases s.d.gate c <;> rfl
  rw [hstart] at hexec
  refine ⟨fun h => ?_, fun h => ?_, fun h => ?_⟩
  · rw [h] at hexec; exact hexec
  · rw [h] at hexec; exact hexec
  · rw [h] at hexec; exact hexec

theorem launch_endsUnrun {s : State} {id : Nat} {c : Cmd} (hcmd : s.d.cmd id = some c) (hop : c.op = Op.LAUNCH) : endsUnrun (.launch id) s c := by
  have hexec : exec (.launch id) s = s.go (match s.d.gate c with
      | .no => s.d
      | .skip => (s.d.useSkip c).endUnrun c St.SKIPPED
      | .bypass => s.d.endUnrun c St.BYPASSED
      | .fallback => s.d.takeFallback s.env c
      | .go => s.d.makeReady s.env c) := by
    change execLaunch id s = _
    unfold execLaunch
    simp only [hcmd, hop]
    simp only [ne_eq, not_true_eq_false, if_false] <;> cases s.d.gate c <;> rfl
  refine ⟨fun h => ?_, fun h => ?_, fun h => ?_⟩
  · rw [h] at hexec; exact hexec
  · rw [h] at hexec; exact hexec
  · rw [h] at hexec; exact hexec

/-- Settles O26: every row but LAUNCH's is one of `Die.start`. -/
theorem skippedAndBypassedCommandsEndUnrun : Obligations.SkippedAndBypassedCommandsEndUnrun := by
  unfold Obligations.SkippedAndBypassedCommandsEndUnrun
  intro x hx s id c hcmd hop hst
  simp only [List.mem_append, List.mem_cons, List.not_mem_nil, or_false] at hx
  rcases hx with hx | hx
  · rcases hx with rfl | rfl | rfl | rfl | rfl | rfl
    · exact endsUnrun_of_start rfl rfl hcmd hop hst
    · exact launch_endsUnrun hcmd hop
    · exact endsUnrun_of_start rfl rfl hcmd hop hst
    · exact endsUnrun_of_start rfl rfl hcmd hop hst
    · exact endsUnrun_of_start rfl rfl hcmd hop hst
    · exact endsUnrun_of_start rfl rfl hcmd hop hst
  · rcases hx with rfl | rfl | rfl | rfl | rfl | rfl | rfl | rfl | rfl | rfl | rfl <;> exact endsUnrun_of_start rfl rfl hcmd hop hst

/-! ### O27 -/

/-- A list command whose list holds entries runs the list. -/
theorem Die.openList_cmd {d : Die} {id : Nat} {c : Cmd} (hcmd : d.cmd id = some c) (list count result : Nat) (hcount : count ≠ 0) :
    (d.openList_ c list count result).cmd id =
      some { c with list := list, count := count, next := 0, skip := 0, closed := false, result := result, aux := 1 } := by
  have hid := Die.cmd_id d id c hcmd
  unfold Die.openList_
  have hcmd' : d.cmd c.id = some c := hid.symm ▸ hcmd
  rw [if_neg hcount]
  simp only [hcmd']
  exact Die.cmd_setCmd_same d id { c with list := list, count := count, next := 0, skip := 0, closed := false, result := result, aux := 1 } c hcmd hid

theorem cmpTrue_spec (w imm : Nat) : (cmpTrue 0 w imm = true ↔ w = imm) ∧ (cmpTrue 1 w imm = true ↔ w ≠ imm) ∧ (cmpTrue 2 w imm = true ↔ w < imm) ∧
    (cmpTrue 3 w imm = true ↔ imm ≤ w) ∧ (cmpTrue 4 w imm = true ↔ w &&& imm ≠ 0) :=
  ⟨decide_eq_true_iff, decide_eq_true_iff, decide_eq_true_iff, decide_eq_true_iff, decide_eq_true_iff⟩

/-- Settles O27. -/
theorem predicatesAndListsChooseWhatRuns : Obligations.PredicatesAndListsChooseWhatRuns := by
  unfold Obligations.PredicatesAndListsChooseWhatRuns
  refine ⟨fun s id c d d' w htear hheld => ⟨fun h hword => ?_, fun h haux hdepth hword => ?_, fun h haux hdepth hcount => ?_, fun h haux hdepth hcount => ?_,
    fun h haux hdepth => ?_⟩, cmpTrue_spec⟩
  · have hexec := exec_of_start (i := .predSkip id) h rfl (fun _ _ _ => rfl)
    rw [Die.runAct_ok s.env d d' c _ _ w htear (h.id ▸ hheld) (h.id ▸ hword), h.id] at hexec
    exact hexec
  · have hexec := exec_of_start (i := .select id) h rfl (fun x _ hx => decide_eq_true (hx.trans haux))
    rw [if_neg (Nat.not_le.2 hdepth), Die.runAct_ok s.env d d' c _ _ w htear (h.id ▸ hheld) (h.id ▸ hword)] at hexec
    exact hexec
  · have hexec := exec_of_start (i := .callList id) h rfl (fun x _ hx => decide_eq_true (hx.trans haux))
    rw [if_neg (Nat.not_le.2 hdepth)] at hexec
    exact ⟨_, _, hexec, (actsTo_cmd h _ _).trans (Die.openList_cmd h.cmd _ _ 0 hcount), rfl, rfl, rfl, rfl, rfl⟩
  · have hexec := exec_of_start (i := .callList id) h rfl (fun x _ hx => decide_eq_true (hx.trans haux))
    rw [if_neg (Nat.not_le.2 hdepth), Die.openList_, if_pos hcount, h.id] at hexec
    exact ⟨_, hexec, (actsTo_cmd h _ _).trans (Die.finish_cmd d id _ _ c h.cmd)⟩
  · have hexec := exec_of_start (i := .callList id) h rfl (fun x _ hx => decide_eq_true (hx.trans haux))
    rw [if_pos hdepth] at hexec
    exact hexec

/-! ### O28 -/

theorem Die.testWait_ends {e : Env} {d d' : Die} {c : Cmd} {w : Nat} (htear : d.tearing c.ctx = false) (hheld : ∀ h ∈ d.stu.held, h.cmd ≠ some c.id)
    (ha : attempt e d (.cmd c.id) (waitTest c) = .ok (some w) d') : d.testWait e c = d'.finish c.id St.OK w :=
  Die.runAct_ok e d d' c _ _ (some w) htear hheld ha

theorem Die.testWait_goesOn {e : Env} {d d' : Die} {c c' : Cmd} (htear : d.tearing c.ctx = false) (hheld : ∀ h ∈ d.stu.held, h.cmd ≠ some c.id)
    (ha : attempt e d (.cmd c.id) (waitTest c) = .ok none d') (hc : d'.cmd c.id = some c') :
    d.testWait e c = d'.setCmd { c' with tile := e.now, aux := 1 } := by
  refine (Die.runAct_ok e d d' c _ _ none htear hheld ha).trans ?_
  simp only [hc]

theorem Die.cmd_of_waiting {d : Die} {id : Nat} {c : Cmd} (h : d.waiting id = some c) : d.cmd id = some c := by
  unfold Die.waiting at h
  obtain ⟨x, hx, hc⟩ := Option.bind_eq_some_iff.1 h
  split at hc
  · exact hx.trans hc
  · exact absurd hc (by simp)

theorem heldNone_iff (d : Die) (id : Nat) : d.stu.held.any (fun h => decide (h.cmd = some id)) = false ↔ ∀ h ∈ d.stu.held, h.cmd ≠ some id := by
  simp [List.any_eq_false]

theorem exec_fenceTimeout_due {s : State} {id : Nat} {c : Cmd} (hcmd : s.d.cmd id = some c) (hop : c.op = Op.FENCE_WAIT) (hst : c.st = .running)
    (htear : s.d.tearing c.ctx = false) (hw : c.w 24 ≠ 0) (hlate : c.start + 1000 * c.w 24 ≤ s.env.now) :
    exec (.fenceTimeout id) s = .next { s with d := s.d.waitLate s.env c } := by
  change execFenceTimeout id s = _
  unfold execFenceTimeout
  rw [hcmd]
  dsimp only
  rw [if_pos ⟨hop, hst, by rw [htear]; rfl, hw, hlate⟩]
  rfl

/-- Settles O28. -/
theorem fencesWaitForTheirWord : Obligations.FencesWaitForTheirWord := by
  unfold Obligations.FencesWaitForTheirWord
  intro s id c d d' w
  refine ⟨fun htear hheld h haux => ⟨fun ha => ?_, fun c' ha hc' => ?_⟩, fun hwait htear hheld ha => ?_, fun hcmd hop hst htear hw hlate => ⟨fun hheld => ?_,
    fun hheld => ⟨fun ha => ?_, fun ha => ?_⟩⟩, fun hcmd hop hearly => ?_, fun htear hheld h ha => ?_⟩
  · have hexec := exec_of_start (i := .fenceWait id) h rfl (fun x _ hx => decide_eq_true (hx.trans haux))
    rw [Die.testWait_ends htear (h.id ▸ hheld) (h.id ▸ ha), h.id] at hexec
    exact hexec
  · have hexec := exec_of_start (i := .fenceWait id) h rfl (fun x _ hx => decide_eq_true (hx.trans haux))
    rw [Die.testWait_goesOn htear (h.id ▸ hheld) (h.id ▸ ha) (h.id ▸ hc')] at hexec
    exact hexec
  · have hends := Die.testWait_ends htear hheld ha
    have hnotify : exec (.fenceNotify id) s = s.go (match s.d.waiting id with | some c => s.d.testWait s.env c | none => s.d) := rfl
    have hpoll : exec (.fencePoll id) s = s.go (match s.d.waiting id with | some c => s.d.testWait s.env c | none => s.d) := rfl
    rw [hwait] at hnotify hpoll
    exact ⟨hnotify.trans (congrArg s.go hends), hpoll.trans (congrArg s.go hends)⟩
  · rw [exec_fenceTimeout_due hcmd hop hst htear hw hlate]
    unfold Die.waitLate
    rw [if_pos]
    obtain ⟨h, hmem, hc⟩ := hheld
    exact List.any_eq_true.2 ⟨h, hmem, decide_eq_true hc⟩
  · rw [exec_fenceTimeout_due hcmd hop hst htear hw hlate]
    unfold Die.waitLate
    rw [(heldNone_iff _ _).2 hheld, ha]
    rfl
  · rw [exec_fenceTimeout_due hcmd hop hst htear hw hlate]
    unfold Die.waitLate
    rw [(heldNone_iff _ _).2 hheld]
    rcases ha with ha | ha
    · rw [ha]; rfl
    · rw [ha]; rfl
  · change execFenceTimeout id s = _
    unfold execFenceTimeout
    rw [hcmd]
    dsimp only
    rw [if_neg]
    · rfl
    · rintro ⟨-, -, -, hw, hlate⟩
      rcases hearly with h0 | h
      · exact hw h0
      · exact absurd hlate (Nat.not_le.2 h)
  · have hexec := exec_of_start (i := .fenceSignal id) h rfl (fun _ _ _ => rfl)
    rw [Die.oneAct, Die.runAct_ok s.env d d' c _ _ w htear (h.id ▸ hheld) (h.id ▸ ha), h.id] at hexec
    exact hexec

/-! ### O29 -/

/-- A miss is counted by the ring, the die and the slice. -/
def Die.countMiss (d : Die) (n ctx : Nat) : Die :=
  match d.sliceOf ctx with
  | some sl => ((d.incSat F.TY_RING_DL.MISSES n 1).incSat F.TY_STATUS.DL_MISSES 0 1).incSat F.TY_SLICE_STAT.DL_MISSES sl 1
  | none => (d.incSat F.TY_RING_DL.MISSES n 1).incSat F.TY_STATUS.DL_MISSES 0 1

/-- A ring's switch is neither pending, made, nor passed. -/
def Die.clearSwitch (d : Die) (n : Nat) : Die :=
  ((d.setF F.TY_RING_DL.BYPASSING n 0).setF F.TY_RING_DL.SWITCH_PENDING n 0).setF F.TY_RING_DL.PASSED n 0

/-- What DEADLINE leaves of its ring, for mode 1 and for any other. -/
def deadlineRing (c : Cmd) (r : RingRt) : RingRt :=
  if c.arg0 = 1 then { skip := r.skip, asked := r.asked }
  else { skip := r.skip, asked := r.asked, dlNs := c.q 8, fb := c.p6 16, fbCount := c.w 24 }

/-- A ring's monitor as DEADLINE leaves it. -/
def Die.armDeadline (d : Die) (c : Cmd) (r : RingRt) : Die :=
  ((d.clearSwitch c.ring).setF F.TY_RING_DL.ARMED c.ring (if c.arg0 = 1 then 0 else 1)).setRingRt c.ring (deadlineRing c r)

theorem Die.countMiss_within (d : Die) (n ctx : Nat) : Within { regs := [.TY_RING_DL, .TY_STATUS, .TY_SLICE_STAT] } d (d.countMiss n ctx) := by
  have hdie : Within { regs := [.TY_RING_DL, .TY_STATUS, .TY_SLICE_STAT] } d ((d.incSat F.TY_RING_DL.MISSES n 1).incSat F.TY_STATUS.DL_MISSES 0 1) :=
    (Die.incSat_within d F.TY_RING_DL.MISSES n 1).trans (Die.incSat_within _ F.TY_STATUS.DL_MISSES 0 1)
  unfold Die.countMiss
  split
  · exact hdie.trans (Die.incSat_within _ F.TY_SLICE_STAT.DL_MISSES _ 1)
  · exact hdie

theorem Die.clearSwitch_within (d : Die) (n : Nat) : Within { regs := [.TY_RING_DL] } d (d.clearSwitch n) := by
  unfold Die.clearSwitch
  exact ((Die.setF_within d F.TY_RING_DL.BYPASSING n 0).trans (Die.setF_within _ F.TY_RING_DL.SWITCH_PENDING n 0)).trans (Die.setF_within _ F.TY_RING_DL.PASSED n 0)

theorem Die.armDeadline_within (d : Die) (c : Cmd) (r : RingRt) : Within { regs := [.TY_RING_DL], sf := true } d (d.armDeadline c r) := by
  unfold Die.armDeadline
  exact ((Die.clearSwitch_within d c.ring).mono.trans (Die.setF_within _ F.TY_RING_DL.ARMED c.ring _)).trans (Die.setRingRt_within _ c.ring _)

theorem Die.getF_setRingRt (d : Die) (n : Nat) (r : RingRt) (f : Fld) (i : Nat) : (d.setRingRt n r).getF f i = d.getF f i :=
  Die.getF_of_regs_eq (Die.setRingRt_regs d n r) f i

theorem Die.sliceOf_congr {d t : Die} (h : ∀ i w, t.reg .SF_CTX_CFG i w = d.reg .SF_CTX_CFG i w) (c : Nat) : t.sliceOf c = d.sliceOf c := by
  unfold Die.sliceOf Die.isKernelCtx Die.ctxSlice Die.bit Die.getF
  rw [h]

/-- The fields of a ring's monitor after DEADLINE. -/
theorem Die.getF_armDeadline (d : Die) (c : Cmd) (r : RingRt) :
    (d.armDeadline c r).getF F.TY_RING_DL.ARMED c.ring = (if c.arg0 = 1 then 0 else 1) ∧ (d.armDeadline c r).getF F.TY_RING_DL.BYPASSING c.ring = 0 ∧
      (d.armDeadline c r).getF F.TY_RING_DL.SWITCH_PENDING c.ring = 0 ∧
      (d.armDeadline c r).getF F.TY_RING_DL.MISSES c.ring = d.getF F.TY_RING_DL.MISSES c.ring := by
  unfold Die.armDeadline
  simp only [Die.getF_setRingRt]
  refine ⟨?_, ?_, ?_, ?_⟩
  · rw [Die.getF_setF_same _ _ _ _ (by decide)]
    split <;> rfl
  · rw [Die.getF_setF_apart _ F.TY_RING_DL.ARMED F.TY_RING_DL.BYPASSING _ _ (by decide), Die.clearSwitch,
      Die.getF_setF_apart _ F.TY_RING_DL.PASSED F.TY_RING_DL.BYPASSING _ _ (by decide),
      Die.getF_setF_apart _ F.TY_RING_DL.SWITCH_PENDING F.TY_RING_DL.BYPASSING _ _ (by decide), Die.getF_setF_same _ _ _ _ (by decide), Nat.zero_mod]
  · rw [Die.getF_setF_apart _ F.TY_RING_DL.ARMED F.TY_RING_DL.SWITCH_PENDING _ _ (by decide), Die.clearSwitch,
      Die.getF_setF_apart _ F.TY_RING_DL.PASSED F.TY_RING_DL.SWITCH_PENDING _ _ (by decide), Die.getF_setF_same _ _ _ _ (by decide), Nat.zero_mod]
  · rw [Die.getF_setF_apart _ F.TY_RING_DL.ARMED F.TY_RING_DL.MISSES _ _ (by decide), Die.clearSwitch,
      Die.getF_setF_apart _ F.TY_RING_DL.PASSED F.TY_RING_DL.MISSES _ _ (by decide),
      Die.getF_setF_apart _ F.TY_RING_DL.SWITCH_PENDING F.TY_RING_DL.MISSES _ _ (by decide),
      Die.getF_setF_apart _ F.TY_RING_DL.BYPASSING F.TY_RING_DL.MISSES _ _ (by decide)]

/-- A miss adds 1 to each of its three counts. -/
theorem Die.getF_countMiss (d : Die) (n ctx : Nat) :
    let more := fun (f : Fld) (i : Nat) => (d.countMiss n ctx).getF f i = min (d.getF f i + 1) (2 ^ f.width - 1)
    more F.TY_RING_DL.MISSES n ∧ more F.TY_STATUS.DL_MISSES 0 ∧ ∀ sl, d.sliceOf ctx = some sl → more F.TY_SLICE_STAT.DL_MISSES sl := by
  intro more
  have hring : Within { regs := [.TY_RING_DL] } d (d.incSat F.TY_RING_DL.MISSES n 1) := Die.incSat_within d _ n 1
  have hdie : Within { regs := [.TY_STATUS] } (d.incSat F.TY_RING_DL.MISSES n 1) ((d.incSat F.TY_RING_DL.MISSES n 1).incSat F.TY_STATUS.DL_MISSES 0 1) :=
    Die.incSat_within _ _ 0 1
  have hslice : Within { regs := [.TY_SLICE_STAT] } ((d.incSat F.TY_RING_DL.MISSES n 1).incSat F.TY_STATUS.DL_MISSES 0 1) (d.countMiss n ctx) := by
    unfold Die.countMiss
    split
    · exact Die.incSat_within _ _ _ 1
    · exact .refl _
  refine ⟨?_, ?_, fun sl h => ?_⟩
  · change (d.countMiss n ctx).getF F.TY_RING_DL.MISSES n = _
    rw [hslice.getF F.TY_RING_DL.MISSES n, hdie.getF F.TY_RING_DL.MISSES n, Die.getF_incSat_same _ _ _ _ (by decide)]
  · change (d.countMiss n ctx).getF F.TY_STATUS.DL_MISSES 0 = _
    rw [hslice.getF F.TY_STATUS.DL_MISSES 0, Die.getF_incSat_same _ _ _ _ (by decide), hring.getF F.TY_STATUS.DL_MISSES 0]
  · have hlast : d.countMiss n ctx = ((d.incSat F.TY_RING_DL.MISSES n 1).incSat F.TY_STATUS.DL_MISSES 0 1).incSat F.TY_SLICE_STAT.DL_MISSES sl 1 := by
      unfold Die.countMiss
      rw [h]
    change (d.countMiss n ctx).getF F.TY_SLICE_STAT.DL_MISSES sl = _
    rw [hlast, Die.getF_incSat_same _ _ _ _ (by decide), hdie.getF F.TY_SLICE_STAT.DL_MISSES sl, hring.getF F.TY_SLICE_STAT.DL_MISSES sl]

/-- What DEADLINE does before it ends. -/
def Die.deadline (e : Env) (d : Die) (c : Cmd) : Die :=
  Die.armDeadline (if d.bit F.TY_RING_DL.ARMED c.ring && decide (e.now % 2 ^ 64 > (d.ringRt c.ring).dlNs) then d.countMiss c.ring c.ctx else d) c (d.ringRt c.ring)

theorem exec_deadline {s : State} {id : Nat} {c : Cmd} {d : Die} (h : Acting s id Op.DEADLINE c d) :
    exec (.deadline id) s = .next (actsTo s id c ((d.deadline s.env c).finish c.id St.OK 0)) := by
  have hsl : ((d.incSat F.TY_RING_DL.MISSES c.ring 1).incSat F.TY_STATUS.DL_MISSES 0 1).sliceOf c.ctx = d.sliceOf c.ctx :=
    Die.sliceOf_congr (fun i w => Within.reg (p := { regs := [.TY_RING_DL, .TY_STATUS] })
      ((Die.incSat_within d F.TY_RING_DL.MISSES c.ring 1).trans (Die.incSat_within _ F.TY_STATUS.DL_MISSES 0 1)) .SF_CTX_CFG i w) c.ctx
  refine (exec_of_start (i := .deadline id) h rfl (fun _ _ _ => rfl)).trans ?_
  dsimp only
  rw [hsl]
  unfold Die.deadline Die.armDeadline deadlineRing Die.countMiss Die.clearSwitch
  by_cases harg : c.arg0 = 1
  · simp only [if_pos harg] <;> cases d.sliceOf c.ctx <;> rfl
  · simp only [if_neg harg] <;> cases d.sliceOf c.ctx <;> rfl

theorem Die.deadline_cmds (e : Env) (d : Die) (c : Cmd) : (d.deadline e c).sf.cmds = d.sf.cmds := by
  have hmiss : (if d.bit F.TY_RING_DL.ARMED c.ring && decide (e.now % 2 ^ 64 > (d.ringRt c.ring).dlNs) then d.countMiss c.ring c.ctx else d).sf = d.sf := by
    split
    · exact (Die.countMiss_within d c.ring c.ctx).sf
    · rfl
  unfold Die.deadline Die.armDeadline
  rw [Die.setRingRt_cmds, Die.setF_sf, (Die.clearSwitch_within _ c.ring).sf, hmiss]

/-- Settles O29. -/
theorem deadlineArmsAndDisarmsItsRing : Obligations.DeadlineArmsAndDisarmsItsRing := by
  unfold Obligations.DeadlineArmsAndDisarmsItsRing
  intro s id c d h
  obtain rfl := h.id
  have hcmd : (d.deadline s.env c).cmd c.id = some c := by
    unfold Die.cmd
    rw [Die.deadline_cmds]
    exact h.cmd
  have hend : Within { regs := [.SF_CTX_STATUS], sf := true } (d.deadline s.env c) (actsTo s c.id c ((d.deadline s.env c).finish c.id St.OK 0)).d :=
    (Die.finish_within _ _ _ _).trans (actsTo_within h _).mono
  have hrings : (actsTo s c.id c ((d.deadline s.env c).finish c.id St.OK 0)).d.ringRt c.ring = deadlineRing c (d.ringRt c.ring) := by
    have hfin : ∀ x : Die, (x.finish c.id St.OK 0).sf.rings = x.sf.rings := fun x => by unfold Die.finish; split <;> rfl
    unfold Die.ringRt
    rw [(actsTo_within h _).sf, hfin]
    exact Tab.get_set_same _ _ _ _
  have hmissed : (d.bit F.TY_RING_DL.ARMED c.ring && decide (s.env.now % 2 ^ 64 > (d.ringRt c.ring).dlNs)) = true ↔
      d.bit F.TY_RING_DL.ARMED c.ring = true ∧ (d.ringRt c.ring).dlNs < s.env.now % 2 ^ 64 := by
    rw [Bool.and_eq_true, decide_eq_true_iff]
  obtain ⟨harmed, hbypass, hswitch, hmisses⟩ := Die.getF_armDeadline
    (if d.bit F.TY_RING_DL.ARMED c.ring && decide (s.env.now % 2 ^ 64 > (d.ringRt c.ring).dlNs) then d.countMiss c.ring c.ctx else d) c (d.ringRt c.ring)
  refine ⟨_, exec_deadline h, ?_, (hend.getF _ _).trans harmed, (hend.getF _ _).trans hbypass, (hend.getF _ _).trans hswitch, fun harg => ?_, ?_, fun hm => ?_, fun hm => ?_⟩
  · exact (actsTo_cmd h _ _).trans (Die.finish_cmd _ c.id _ _ c hcmd)
  · rw [hrings, deadlineRing, if_neg harg]
    exact ⟨rfl, rfl, rfl⟩
  · rw [hrings, deadlineRing]
    split <;> rfl
  · rw [if_pos (hmissed.2 hm)] at hmisses
    obtain ⟨hring, hdie, hslice⟩ := Die.getF_countMiss d c.ring c.ctx
    have harm := Die.armDeadline_within (d.countMiss c.ring c.ctx) c (d.ringRt c.ring)
    have hdead : d.deadline s.env c = (d.countMiss c.ring c.ctx).armDeadline c (d.ringRt c.ring) := by
      unfold Die.deadline
      rw [if_pos (hmissed.2 hm)]
    refine ⟨?_, ?_, fun sl hsl => ?_⟩
    · exact (hend.getF _ _).trans ((congrArg (fun x : Die => x.getF F.TY_RING_DL.MISSES c.ring) hdead).trans (hmisses.trans hring))
    · exact (hend.getF _ _).trans ((congrArg (fun x : Die => x.getF F.TY_STATUS.DL_MISSES 0) hdead).trans ((harm.getF _ _).trans hdie))
    · exact (hend.getF _ _).trans ((congrArg (fun x : Die => x.getF F.TY_SLICE_STAT.DL_MISSES sl) hdead).trans ((harm.getF _ _).trans (hslice sl hsl)))
  · rw [if_neg (fun hc => hm (hmissed.1 hc))] at hmisses
    have hdead : d.deadline s.env c = d.armDeadline c (d.ringRt c.ring) := by
      unfold Die.deadline
      rw [if_neg (fun hc => hm (hmissed.1 hc))]
    refine ⟨?_, ?_⟩
    · exact (hend.getF _ _).trans ((congrArg (fun x : Die => x.getF F.TY_RING_DL.MISSES c.ring) hdead).trans hmisses)
    · exact (hend.getF _ _).trans ((congrArg (fun x : Die => x.getF F.TY_STATUS.DL_MISSES 0) hdead).trans ((Die.armDeadline_within d c _).getF _ _))

end Sys2Proof.Machine
end

section
/-! PROOF. Launches and the commands of DMEs at their start (R62, R63, R126, R139, R319, R320): a launch becomes ready, and a DME command is
placed on the least loaded engine. -/

-- One proof after another: all at once, they ask for more threads than the check's memory limit admits.
set_option Elab.async false

namespace Sys2Proof.Machine

/-! ### What recalls touch -/

theorem Die.setKern_within {p : Touch} (d : Die) (x : Kern) (hp : p.ty = true := by rfl) : Within p d (d.setKern x) := Die.setTy_within d _ hp

theorem Die.setClRt_within {p : Touch} (d : Die) (k : Nat) (x : ClRt) (hp : p.ty = true := by rfl) : Within p d (d.setClRt k x) := Die.setTy_within d _ hp

/-- What loans and yield requests may change. -/
def yieldTouch : Touch := { regs := [.TY_CLUSTER, .TY_SLICE_STAT], ty := true, out := true }

/-- What Tally's own work on clusters may change. -/
def tallyTouch : Touch := { regs := [.TY_STATUS, .TY_CLUSTER, .TY_SLICE_STAT], ty := true, out := true }

theorem Die.setLent_within (d : Die) (k : Nat) (b : Bool) : Within yieldTouch d (d.setLent k b) := by
  unfold Die.setLent
  split
  · exact .refl d
  · extract_lets t
    have ht : Within yieldTouch d t := Die.setF_within d F.TY_CLUSTER.LENT k _
    split
    · exact ht.trans (Die.setF_within t F.TY_SLICE_STAT.LENT _ _)
    · exact ht

theorem Die.postYield_within (e : Env) (d : Die) (x : Kern) (for_ : Option Nat) : Within yieldTouch d (d.postYield e x for_) := by
  unfold Die.postYield
  split
  · exact .refl d
  · extract_lets quiet t
    have ht : Within yieldTouch d t := by
      refine .foldl _ (fun y k => ?_) _ _
      split
      · exact (Die.setF_within y F.TY_CLUSTER.STATE k 2).trans (Die.send_within _ _)
      · exact .refl y
    exact ht.trans (Die.setKern_within t _)

theorem Die.recall_within (e : Env) (d : Die) (k : Nat) (for_ : Option Nat) : Within tallyTouch d (d.recall_ e k for_) := by
  unfold Die.recall_
  split
  · exact .refl d
  · split
    · exact ((Die.incSat_within d F.TY_STATUS.RECALLS 0 1).trans (Die.setClRt_within _ k _)).trans (Die.setLent_within _ k false).mono
    · next x _ =>
      extract_lets t
      have ht : Within tallyTouch d t := by
        unfold t
        split
        · exact .refl d
        · exact Die.incSat_within d F.TY_STATUS.RECALLS 0 1
      exact (ht.trans (Die.setClRt_within t k _)).trans (Die.postYield_within e _ x for_).mono

theorem Die.recallDue_within (e : Env) (d : Die) : Within tallyTouch d (d.recallDue e) := by
  unfold Die.recallDue
  refine .foldl _ (fun y j => ?_) _ _
  split
  · split
    · refine .foldl _ (fun z k => ?_) _ _
      split
      · exact Die.recall_within e z k _
      · exact .refl z
    · exact .refl y
  · exact .refl y

theorem Die.lagOn_within (d : Die) (c : Nat) : Within { ty := true } d (d.lagOn c) := by
  unfold Die.lagOn
  extract_lets js s ps y t
  split
  · exact .refl d
  · have ht : Within { ty := true } d t := by
      unfold t
      clear_value s
      cases s with
      | none => exact .refl d
      | some sl =>
        dsimp only
        split
        · exact .refl d
        · split
          · exact Die.setTy_within d _
          · exact .refl d
    split
    · exact ht.trans (Die.setTy_within t _)
    · exact ht

/-! ### O30 -/

/-- A command whose state alone is set, in a die with the same commands. -/
theorem Die.cmd_of_sf {d t : Die} (h : t.sf = d.sf) (id : Nat) : t.cmd id = d.cmd id := by
  unfold Die.cmd; rw [h]

/-- A launch that may start becomes ready. -/
theorem Die.makeReady_cmd {e : Env} {d : Die} {c : Cmd} (hnamed : d.namedClusters e c ≠ some []) (hcmd : (d.cmd c.id).isSome = true) :
    (d.makeReady e c).cmd c.id = some { c with st := .ready } ∧ (∀ j, j ≠ c.id → (d.makeReady e c).cmd j = d.cmd j) ∧ (d.makeReady e c).mem = d.mem := by
  obtain ⟨x, hx⟩ := Option.isSome_iff_exists.1 hcmd
  have hlag := Die.lagOn_within d c.ctx
  have hset : ∀ j, (d.makeReady e c).cmd j = ((d.lagOn c.ctx).setCmd { c with st := .ready }).cmd j := fun j => by
    unfold Die.makeReady
    rw [if_neg hnamed, Die.cmd_of_sf (Die.recallDue_within e _).sf, Die.ctxPump_cmd]
  refine ⟨?_, fun j hj => ?_, ?_⟩
  · rw [hset]
    exact Die.cmd_setCmd_same _ c.id { c with st := .ready } x ((Die.cmd_of_sf hlag.sf _).trans hx) rfl
  · rw [hset, Die.cmd_setCmd_ne _ j { c with st := .ready } (fun h => hj h.symm), Die.cmd_of_sf hlag.sf]
  · unfold Die.makeReady
    rw [if_neg hnamed, (Die.recallDue_within e _).mem, (Die.ctxPump_within _ _).mem]
    exact hlag.mem

theorem exec_launch_go {s : State} {id : Nat} {c : Cmd} (hcmd : s.d.cmd id = some c) (hop : c.op = Op.LAUNCH) (hgate : s.d.gate c = .go) :
    exec (.launch id) s = .next { s with d := s.d.makeReady s.env c } := by
  change execLaunch id s = _
  unfold execLaunch
  simp only [hcmd, hop, hgate]
  rfl

/-- Settles O30. -/
theorem launchesWaitForTheirClusters : Obligations.LaunchesWaitForTheirClusters := by
  unfold Obligations.LaunchesWaitForTheirClusters
  intro s id c d d' b
  refine ⟨fun hcmd hop hgate hnamed => ?_, fun hcmd hop hgate hnamed => ?_, ?_⟩
  · obtain rfl := Die.cmd_id s.d id c hcmd
    obtain ⟨hself, hother, hmem⟩ := Die.makeReady_cmd hnamed (by rw [hcmd]; rfl)
    exact ⟨_, exec_launch_go hcmd hop hgate, hself, hother, rfl, hmem⟩
  · rw [exec_launch_go hcmd hop hgate, Die.makeReady, if_pos hnamed]
  · intro h htear hheld hread x y z
    obtain rfl := h.id
    have hexec := exec_of_start (i := .launchIndirect c.id) h rfl (fun _ _ _ => rfl)
    rw [Die.runAct_ok s.env d d' c _ _ b htear hheld hread] at hexec
    dsimp only at hexec
    refine ⟨fun hlarge => ?_, fun hy hz hempty => ?_, fun c' hy hz hgrid hcmd' hnamed => ?_⟩
    · rw [if_pos hlarge] at hexec
      exact hexec
    · rw [if_neg (show ¬ (y > 65535 ∨ z > 65535) by omega), if_pos (show x = 0 ∨ y = 0 ∨ z = 0 by simpa [or_assoc] using hempty)] at hexec
      exact hexec
    · rw [if_neg (show ¬ (y > 65535 ∨ z > 65535) by omega), if_neg (show ¬ (x = 0 ∨ y = 0 ∨ z = 0) by simpa [or_assoc] using hgrid), hcmd'] at hexec
      obtain hid := Die.cmd_id d' c.id c' hcmd'
      have hready := (Die.makeReady_cmd hnamed (by rw [show ({ c' with tile := x, aux := y, acc := z } : Cmd).id = c.id from hid, hcmd']; rfl)).1
      exact ⟨_, hexec, (actsTo_cmd h _ _).trans (hid ▸ hready), (actsTo_env c.id c _).1⟩

/-! ### O31 -/

/-- The earliest of the least of a list: no later one is smaller, and every one before it is larger. -/
theorem leastOf_spec (f : Nat → Nat) (x : Nat) (l : List Nat) (hl : (x :: l).Pairwise (· < ·)) :
    let n := l.foldl (fun a b => if f b < f a then b else a) x
    n ∈ x :: l ∧ ∀ m ∈ x :: l, f n < f m ∨ (f n = f m ∧ n ≤ m) := by
  induction l generalizing x with
  | nil =>
    refine ⟨List.mem_cons_self, fun m hm => ?_⟩
    obtain rfl := List.mem_singleton.1 hm
    exact .inr ⟨rfl, Nat.le_refl _⟩
  | cons y l ih =>
    rw [List.pairwise_cons, List.pairwise_cons] at hl
    obtain ⟨hx, hy, hl⟩ := hl
    have hxy : x < y := hx y List.mem_cons_self
    rw [List.foldl_cons]
    by_cases h : f y < f x
    · rw [if_pos h]
      obtain ⟨hmem, hmin⟩ := ih y (List.pairwise_cons.2 ⟨hy, hl⟩)
      refine ⟨List.mem_cons_of_mem _ hmem, fun m hm => ?_⟩
      rcases List.mem_cons.1 hm with rfl | hm
      · rcases hmin y List.mem_cons_self with hlt | ⟨heq, -⟩
        · exact .inl (hlt.trans h)
        · exact .inl (heq ▸ h)
      · exact hmin m hm
    · rw [if_neg h]
      obtain ⟨hmem, hmin⟩ := ih x (List.pairwise_cons.2 ⟨fun z hz => hx z (List.mem_cons_of_mem _ hz), hl⟩)
      refine ⟨?_, fun m hm => ?_⟩
      · rcases List.mem_cons.1 hmem with hn | hn
        · rw [hn]; exact List.mem_cons_self
        · exact List.mem_cons_of_mem _ (List.mem_cons_of_mem _ hn)
      · rcases List.mem_cons.1 hm with rfl | hm
        · exact hmin m List.mem_cons_self
        · rcases List.mem_cons.1 hm with rfl | hm
          · rcases hmin x List.mem_cons_self with hlt | ⟨heq, hle⟩
            · exact .inl (hlt.trans_le (Nat.not_lt.1 h))
            · rcases Nat.lt_or_ge (f x) (f m) with hlt | hge
              · exact .inl (heq ▸ hlt)
              · exact .inr ⟨heq.trans (Nat.le_antisymm (Nat.not_lt.1 h) hge), hle.trans hxy.le⟩
          · exact hmin m (List.mem_cons_of_mem _ hm)

/-- The engines that a context's work may be placed on stand in the order of their numbers. -/
theorem Die.homeEngines_sorted (e : Env) (d : Die) (ctx per : Nat) : (d.homeEngines e ctx per).Pairwise (· < ·) := by
  unfold Die.homeEngines
  split
  · split
    · rw [List.pairwise_map]
      exact List.pairwise_lt_range.imp (fun h => by omega)
    · exact List.pairwise_lt_range
  · exact List.pairwise_lt_range

/-- The least loaded of the engines that a context's work may be placed on, the lower index first. -/
theorem Die.leastOf_homeEngines (e : Env) (d : Die) (ctx per : Nat) (f : Nat → Nat) (h : d.homeEngines e ctx per ≠ []) :
    ∃ n, leastOf f (d.homeEngines e ctx per) = some n ∧ n ∈ d.homeEngines e ctx per ∧ ∀ m ∈ d.homeEngines e ctx per, f n < f m ∨ (f n = f m ∧ n ≤ m) := by
  have hsorted := Die.homeEngines_sorted e d ctx per
  cases hl : d.homeEngines e ctx per with
  | nil => exact absurd hl h
  | cons x l =>
    rw [hl] at hsorted
    obtain ⟨hmem, hmin⟩ := leastOf_spec f x l hsorted
    exact ⟨_, rfl, hmem, hmin⟩

theorem Die.enginesPump_within (d : Die) : Within { regs := [.SF_CTX_STATUS] } d d.enginesPump := by
  unfold Die.enginesPump
  exact .foldl _ (fun y c => Die.ctxPump_within y c) _ _

theorem Die.joins_jobs (d : Die) (n ctx : Nat) (l : List Cmd) : (d.joins n ctx l).eng.jobs = d.eng.jobs := rfl

theorem Die.joins_within (d : Die) (n ctx : Nat) (l : List Cmd) : Within { eng := true } d (d.joins n ctx l) := by
  unfold Die.joins
  extract_lets
  exact Die.setEng_within d _

/-- A command that finds an engine joins its jobs, and nothing of memory changes. -/
theorem Die.placeDme_jobs {e : Env} {d : Die} {c : Cmd} {n : Nat}
    (h : leastOf (fun n => ((d.dmeCmds n).map Cmd.tilesLeft).sum) (d.homeEngines e c.ctx 8) = some n) :
    (d.placeDme e c).eng.jobs = d.eng.jobs ++ [{ dme := n, cmd := c.id }] ∧ (d.placeDme e c).mem.dram = d.mem.dram := by
  unfold Die.placeDme
  rw [h]
  dsimp only
  constructor
  · rw [(Die.enginesPump_within _).eng, (Die.ctxPump_within _ _).eng, (Die.wake_within e _ _).eng]
    rfl
  · rw [(Die.enginesPump_within _).dram, (Die.ctxPump_within _ _).dram, (Die.wake_within e _ _).dram]
    exact (Die.joins_within d n c.ctx (d.dmeCmds n)).dram

/-- The row of a DME command, for one that acts and stands on no engine yet. -/
theorem exec_dmeRow {i : Instr} {s : State} {id op : Nat} {c : Cmd} {d : Die} {zero ok : Cmd → Bool} (h : Acting s id op c d)
    (hexec : exec i s = s.go (s.d.startDme s.env id op zero ok)) (hfree : d.dmePlaced id = false) :
    exec i s = .next (actsTo s id c (if zero c then d.finish id St.OK 0 else if !(ok c) then d.cmdFail s.env c St.BAD_ARG false else d.placeDme s.env c)) := by
  obtain rfl := h.id
  refine (exec_of_start h hexec (fun _ _ _ => rfl)).trans ?_
  rw [hfree]
  rfl

/-- What the row of a DME command answers in each of its three cases. -/
theorem dmeRow_answers {i : Instr} {s : State} {id op : Nat} {c : Cmd} {d : Die} {zero check ok : Cmd → Bool} (h : Acting s id op c d)
    (hexec : exec i s = s.go (s.d.startDme s.env id op zero check)) (hfree : d.dmePlaced id = false) (hcheck : check c = ok c) :
    (zero c = true → exec i s = .next (actsTo s id c (d.finish id St.OK 0))) ∧
      (zero c = false → ok c = false → exec i s = .next (actsTo s id c (d.cmdFail s.env c St.BAD_ARG false))) ∧
      (zero c = false → ok c = true → d.homeEngines s.env c.ctx 8 ≠ [] →
        ∃ t n, exec i s = .next t ∧ n ∈ d.homeEngines s.env c.ctx 8 ∧ t.d.eng.jobs = d.eng.jobs ++ [{ dme := n, cmd := id }] ∧
          (∀ m ∈ d.homeEngines s.env c.ctx 8, ((d.dmeCmds n).map Cmd.tilesLeft).sum < ((d.dmeCmds m).map Cmd.tilesLeft).sum ∨
            (((d.dmeCmds n).map Cmd.tilesLeft).sum = ((d.dmeCmds m).map Cmd.tilesLeft).sum ∧ n ≤ m)) ∧
          t.d.mem.dram = d.mem.dram ∧ t.env = s.env) := by
  have hrow := exec_dmeRow h hexec hfree
  rw [hcheck] at hrow
  refine ⟨fun hz => ?_, fun hz hok => ?_, fun hz hok hhome => ?_⟩
  · rw [hz] at hrow; exact hrow
  · rw [hz, hok] at hrow; exact hrow
  · rw [hz, hok] at hrow
    obtain ⟨n, hleast, hmem, hmin⟩ := Die.leastOf_homeEngines s.env d c.ctx 8 (fun n => ((d.dmeCmds n).map Cmd.tilesLeft).sum) hhome
    obtain ⟨hjobs, hdram⟩ := Die.placeDme_jobs hleast
    have hend := actsTo_within h (d.placeDme s.env c)
    exact ⟨_, n, hrow, hmem, (congrArg (·.jobs) hend.eng).trans (hjobs.trans (by rw [h.id])), hmin, hend.dram.trans hdram, (actsTo_env id c _).1⟩

/-- A check in Bool and in Prop. -/
theorem check_eq_decide {p r : Prop} [Decidable p] [Decidable r] (b : Bool) : (decide p && (!b || decide r)) = decide (p ∧ (b = true → r)) := by
  cases b <;> simp

/-- Settles O31, row by row. -/
theorem dmeCommandsGoToTheLeastLoadedEngine : Obligations.DmeCommandsGoToTheLeastLoadedEngine := by
  unfold Obligations.DmeCommandsGoToTheLeastLoadedEngine
  intro x hx s id c d h hfree
  simp only [dmeRows, List.mem_append, List.mem_cons, List.not_mem_nil, or_false] at hx
  rcases hx with (rfl | rfl | rfl) | (rfl | rfl | rfl)
  · exact dmeRow_answers h rfl hfree rfl
  · exact dmeRow_answers h rfl hfree rfl
  · exact dmeRow_answers h rfl hfree rfl
  · exact dmeRow_answers h rfl hfree rfl
  · exact dmeRow_answers h rfl hfree (check_eq_decide _)
  · refine dmeRow_answers h rfl hfree ?_
    dsimp only
    rw [check_eq_decide, ← Bool.decide_and]
    exact decide_eq_decide.2 and_assoc

end Sys2Proof.Machine
end

section
/-! PROOF. Descriptors that are fetched and commands that complete (R48, R53, R61, R66 to R69). -/

-- One proof after another: all at once, they ask for more threads than the check's memory limit admits.
set_option Elab.async false

namespace Sys2Proof.Machine

/-! ### Slots -/

theorem Die.slotAdd_within (d : Die) (c : Nat) (take : Bool) : Within { regs := [.SF_STATUS, .SF_SLOT_QUOTA] } d (d.slotAdd c take) := by
  unfold Die.slotAdd
  extract_lets f t
  have ht : Within { regs := [.SF_STATUS, .SF_SLOT_QUOTA] } d t := Die.setF_within d F.SF_STATUS.FREE_SLOTS 0 _
  split
  · exact ht.trans (Die.setF_within t F.SF_SLOT_QUOTA.IN_USE _ _)
  · exact ht

/-- A slot that is given back is free. -/
theorem Die.freeSlots_slotAdd (d : Die) (c : Nat) :
    (d.slotAdd c false).getF F.SF_STATUS.FREE_SLOTS 0 = (d.getF F.SF_STATUS.FREE_SLOTS 0 + 1) % 2 ^ F.SF_STATUS.FREE_SLOTS.width := by
  unfold Die.slotAdd
  extract_lets f t
  have ht : t.getF F.SF_STATUS.FREE_SLOTS 0 = (d.getF F.SF_STATUS.FREE_SLOTS 0 + 1) % 2 ^ F.SF_STATUS.FREE_SLOTS.width :=
    Die.getF_setF_same d F.SF_STATUS.FREE_SLOTS 0 _ (by decide)
  split
  · exact (Die.getF_setF_other t F.SF_SLOT_QUOTA.IN_USE F.SF_STATUS.FREE_SLOTS _ _ _ (by decide)).trans ht
  · exact ht

/-! ### O22 -/

theorem Die.isPriv_of_within {p : Touch} {d t : Die} (h : Within p d t) (e : Env) (n : Nat) (hring : p.regs.contains .SF_RING_CTL = false := by rfl)
    (hctx : p.regs.contains .SF_CTX_CFG = false := by rfl) : t.isPriv e n = d.isPriv e n := by
  unfold Die.isPriv Die.isKernelCtx
  rw [h.bit F.SF_RING_CTL.VERSION n hring, h.getF F.SF_RING_CTL.CONTEXT n hring, h.bit F.SF_CTX_CFG.KERNEL _ hctx]

/-- The die in which a command that has been read is checked. -/
def Die.readIn (d : Die) (c : Cmd) : Die := { (d.count 3857 1) with nid := d.nid + 1, sf.cmds := d.sf.cmds ++ [c] }

theorem Die.readIn_within (d : Die) (c : Cmd) : Within { sf := true, ch := true, nid := true } d (d.readIn c) := by
  have h : Within { sf := true, ch := true, nid := true } d (d.count 3857 1) := Die.count_within d 3857 1
  exact (h.trans (Die.setNid_within _ (d.nid + 1))).trans (Die.setSf_within _ _)

/-- A command that passes the checks of R61 stands behind the others. -/
theorem Die.enter_ok {e : Env} {d : Die} {c : Cmd}
    (h : fetchCheck e (decide (c.depth ≠ 0 ∨ d.bit F.SF_RING_CTL.VERSION c.ring = true)) (d.isPriv e c.ring) c.depth c.desc = none) :
    d.enter e c = (d.readIn c).ctxPump c.ctx := by
  rw [← Die.isPriv_of_within (Die.readIn_within d c) e c.ring] at h
  change (match fetchCheck e (decide (c.depth ≠ 0 ∨ d.bit F.SF_RING_CTL.VERSION c.ring = true)) ((d.readIn c).isPriv e c.ring) c.depth c.desc with
    | some st => (d.readIn c).cmdFail e c st false
    | none => (d.readIn c).ctxPump c.ctx) = _
  rw [h]

theorem Die.enter_ok_cmds {e : Env} {d : Die} {c : Cmd}
    (h : fetchCheck e (decide (c.depth ≠ 0 ∨ d.bit F.SF_RING_CTL.VERSION c.ring = true)) (d.isPriv e c.ring) c.depth c.desc = none) :
    (d.enter e c).sf.cmds = d.sf.cmds ++ [c] ∧ ∀ k, (d.enter e c).head k = d.head k := by
  rw [Die.enter_ok h]
  refine ⟨?_, fun k => ?_⟩
  · rw [(Die.ctxPump_within _ _).sf]
    rfl
  · exact ((Die.ctxPump_within _ _).getF F.SF_RING_STATUS.HEAD k).trans ((Die.readIn_within d c).getF F.SF_RING_STATUS.HEAD k)

/-- Settles O22: a ring's own descriptor by `Die.fetchRing`, a list's by `Die.fetchList`. -/
theorem descriptorFetchTakesTheNextDescriptor : Obligations.DescriptorFetchTakesTheNextDescriptor := by
  unfold Obligations.DescriptorFetchTakesTheNextDescriptor
  intro s n b d k c q turned
  have hexec : exec (.descriptorFetch n) s = s.go (match s.d.openList k with
    | some l => s.d.fetchList s.env l
    | none => s.d.fetchRing s.env k) := rfl
  refine ⟨fun hopen hfetch hturn hread hcheck => ?_, fun hopen hfetch => ?_, fun l hopen hruns htear hheld hread hcheck => ?_⟩
  · have hring : Within { regs := [.SF_RING_STATUS, .SF_STATUS, .SF_SLOT_QUOTA], sf := true } d
        (((d.ringAsked k false).setF F.SF_RING_STATUS.HEAD k (q + 1)).slotAdd c true) :=
      ((Die.setRingRt_within d k _).trans (Die.setF_within _ F.SF_RING_STATUS.HEAD k _)).trans (Die.slotAdd_within _ c true).mono
    have hplain : Within { regs := [.SF_RING_STATUS, .SF_STATUS, .SF_SLOT_QUOTA] } d ((d.setF F.SF_RING_STATUS.HEAD k (q + 1)).slotAdd c true) :=
      (Die.setF_within d F.SF_RING_STATUS.HEAD k _).trans (Die.slotAdd_within _ c true).mono
    have hread' : attempt s.env (if (s.d.ringRt k).asked then s.d else { s.d.ringAsked k true with sf.lastRing := k }) (.ring k) (s.d.ringRead k) = .ok b d := hread
    have hgo : s.d.fetchRing s.env k = (((d.ringAsked k false).setF F.SF_RING_STATUS.HEAD k (q + 1)).slotAdd c true).enter s.env
        { id := (((d.ringAsked k false).setF F.SF_RING_STATUS.HEAD k (q + 1)).slotAdd c true).nid, ring := k, ctx := c, seq := q, desc := BitVec.ofNat 512 (numLE b) } := by
      unfold Die.fetchRing
      dsimp only
      rw [if_neg (by
        rintro (h | h)
        · exact absurd hfetch (by simpa using h)
        · rcases hturn with ht | ht <;> simp [ht] at h), hread']
    rw [hplain.bit F.SF_RING_CTL.VERSION k, Die.isPriv_of_within hplain] at hcheck
    have henter := Die.enter_ok_cmds (e := s.env) (d := ((d.ringAsked k false).setF F.SF_RING_STATUS.HEAD k (q + 1)).slotAdd c true)
      (c := { id := (((d.ringAsked k false).setF F.SF_RING_STATUS.HEAD k (q + 1)).slotAdd c true).nid, ring := k, ctx := c, seq := q, desc := BitVec.ofNat 512 (numLE b) })
      (by
        rw [hring.bit F.SF_RING_CTL.VERSION k, Die.isPriv_of_within hring]
        simpa using hcheck)
    obtain ⟨hcmds, hhead⟩ := henter
    rw [hopen] at hexec
    rw [← hgo] at hcmds hhead
    refine ⟨_, hexec, ?_, ?_, rfl⟩
    · refine (hhead k).trans (((Die.slotAdd_within _ c true).getF F.SF_RING_STATUS.HEAD k).trans ?_)
      exact Die.getF_setF_same _ F.SF_RING_STATUS.HEAD k _ (by decide)
    · refine hcmds.trans ?_
      rw [hring.nid, (Die.slotAdd_within _ c true).sf]
      rfl
  · rw [hexec, hopen]
    have hstay : s.d.fetchRing s.env k = s.d := by
      unfold Die.fetchRing
      dsimp only
      rw [if_pos (.inl (by simpa using hfetch))]
    exact congrArg s.go hstay
  · have hset : Within { sf := true } d (d.setCmd { l with next := l.next + 1 }) := Die.setCmd_within d _
    have hgo : s.d.fetchList s.env l = (d.setCmd { l with next := l.next + 1 }).enter s.env
        { id := d.nid, ring := l.ring, ctx := l.ctx, seq := l.seq, depth := l.depth + 1, parent := some l.id, off := 64 * l.next,
          desc := BitVec.ofNat 512 (numLE b) } := by
      unfold Die.fetchList
      rw [if_neg (by rw [hruns, htear]; decide), Die.runAct_ok s.env s.d d l _ _ b htear hheld hread]
      rfl
    have hpriv : Within { sf := true, ch := true, nid := true } d { (d.setCmd { l with next := l.next + 1 }).count 3857 1 with nid := d.nid + 1 } :=
      ((Die.setCmd_within d _).trans (Die.count_within _ 3857 1)).trans (Die.setNid_within _ _)
    rw [Die.isPriv_of_within hpriv] at hcheck
    have henter := Die.enter_ok_cmds (e := s.env) (d := d.setCmd { l with next := l.next + 1 })
      (c := { id := d.nid, ring := l.ring, ctx := l.ctx, seq := l.seq, depth := l.depth + 1, parent := some l.id, off := 64 * l.next,
              desc := BitVec.ofNat 512 (numLE b) })
      (by
        rw [Die.isPriv_of_within hset]
        simpa using hcheck)
    obtain ⟨hcmds, hhead⟩ := henter
    rw [hopen] at hexec
    rw [← hgo] at hcmds hhead
    exact ⟨_, hexec, (hhead k).trans (hset.getF F.SF_RING_STATUS.HEAD k), hcmds, rfl⟩

/-! ### O23 -/

theorem Die.forget_within (d : Die) (use : Use) : Within { stu := true, coh := true, mem := true, bt := true, we := true } d (d.forget use) := by
  have h₁ : Within { stu := true, coh := true, mem := true, bt := true, we := true } d { d with stu := (d.forget use).stu } := Die.setStu_within d _
  have h₂ : Within { stu := true, coh := true, mem := true, bt := true, we := true } { d with stu := (d.forget use).stu }
      { d with stu := (d.forget use).stu, coh := (d.forget use).coh } := Die.setCoh_within { d with stu := (d.forget use).stu } _
  have h₃ : Within { stu := true, coh := true, mem := true, bt := true, we := true } { d with stu := (d.forget use).stu, coh := (d.forget use).coh }
      { d with stu := (d.forget use).stu, coh := (d.forget use).coh, mem := (d.forget use).mem } :=
    Die.setMemRest_within { d with stu := (d.forget use).stu, coh := (d.forget use).coh } _ rfl rfl
  have h₄ : Within { stu := true, coh := true, mem := true, bt := true, we := true }
      { d with stu := (d.forget use).stu, coh := (d.forget use).coh, mem := (d.forget use).mem }
      { d with stu := (d.forget use).stu, coh := (d.forget use).coh, mem := (d.forget use).mem, bt := (d.forget use).bt } := Die.setBt_within _ _
  exact (((h₁.trans h₂).trans h₃).trans h₄).trans (Die.setWe_within _ (d.forget use).we)

/-- What the operations on commands that leave may change. -/
def leaveTouch : Touch :=
  { regs := [.SF_STATUS, .SF_SLOT_QUOTA], sf := true, stu := true, coh := true, mem := true, bt := true, we := true }

theorem Die.dropCmd_within (d : Die) (c : Cmd) : Within leaveTouch d (d.dropCmd c) := by
  unfold Die.dropCmd
  extract_lets f d₁ d₂
  have h₁ : Within leaveTouch d d₁ := Die.setSf_within d _
  have h₂ : Within leaveTouch d₁ d₂ := (Die.forget_within d₁ (.cmd c.id)).mono
  refine (h₁.trans h₂).trans ?_
  split
  · exact (Die.slotAdd_within d₂ c.ctx false).mono
  · exact .refl d₂

/-- A command that leaves stands no more. -/
theorem Die.dropCmd_cmd (d : Die) (c : Cmd) : (d.dropCmd c).cmd c.id = none := by
  have hcmds : (d.dropCmd c).sf.cmds = d.sf.cmds.filter (fun x => decide (x.id ≠ c.id)) := by
    unfold Die.dropCmd
    extract_lets f d₁ d₂
    have h₂ : d₂.sf.cmds = d.sf.cmds.filter (fun x => decide (x.id ≠ c.id)) := congrArg (·.cmds) (Die.forget_within d₁ (.cmd c.id)).sf
    split
    · rw [(Die.slotAdd_within d₂ c.ctx false).sf]
      exact h₂
    · exact h₂
  unfold Die.cmd
  rw [hcmds, List.find?_eq_none]
  intro x hx
  have := (List.mem_filter.1 hx).2
  simpa using this

/-- A command of a ring itself gives its slot back. -/
theorem Die.freeSlots_dropCmd (d : Die) (c : Cmd) (h : c.parent = none) :
    (d.dropCmd c).getF F.SF_STATUS.FREE_SLOTS 0 = (d.getF F.SF_STATUS.FREE_SLOTS 0 + 1) % 2 ^ F.SF_STATUS.FREE_SLOTS.width := by
  unfold Die.dropCmd
  extract_lets f d₁ d₂
  rw [h, if_pos (show (none : Option Nat).isNone = true from rfl), Die.freeSlots_slotAdd, (Die.forget_within d₁ (.cmd c.id)).getF F.SF_STATUS.FREE_SLOTS 0]
  rfl

/-- Setting a command brings none back. -/
theorem Die.cmd_setCmd_none (d : Die) (x : Cmd) (id : Nat) (h : d.cmd id = none) : (d.setCmd x).cmd id = none := by
  unfold Die.cmd at *
  rw [List.find?_eq_none] at *
  intro y hy
  obtain ⟨z, hz, rfl⟩ := List.mem_map.1 hy
  have hzid := h z hz
  split
  · next heq => rw [← heq]; exact hzid
  · exact hzid

theorem Die.cmd_finish_none (d : Die) (j st r id : Nat) (h : d.cmd id = none) : (d.finish j st r).cmd id = none := by
  unfold Die.finish
  split
  · exact Die.cmd_setCmd_none d _ id h
  · exact h

theorem Die.childEnded_within (d : Die) (c : Cmd) : Within { sf := true } d (d.childEnded c) := by
  unfold Die.childEnded
  split
  · next p _ =>
    extract_lets closed t
    have ht : Within { sf := true } d t := Die.setCmd_within d _
    split
    · exact ht.trans (Die.finish_within t _ _ _)
    · exact ht
  · exact .refl d

theorem Die.cmd_childEnded_none (d : Die) (c : Cmd) (id : Nat) (h : d.cmd id = none) : (d.childEnded c).cmd id = none := by
  unfold Die.childEnded
  split
  · next p _ =>
    extract_lets closed t
    have ht : t.cmd id = none := Die.cmd_setCmd_none d _ id h
    split
    · exact Die.cmd_finish_none t _ _ _ id ht
    · exact ht
  · exact h

/-- With no fence open, none is signalled. -/
theorem Die.fencesGo_nil {d : Die} (e : Env) (h : d.sm.fences = []) : d.fencesGo e = d := by
  unfold Die.fencesGo
  rw [h]
  rfl

/-- The counts of a command that leaves. -/
def Die.retireCounts (d : Die) (c : Cmd) : Die :=
  let d := (d.count 3858 1).count 2 1
  if c.status = St.SKIPPED then d.count 3859 1 else if c.status = St.BYPASSED then d.count 3860 1 else d

theorem Die.retireCounts_within (d : Die) (c : Cmd) : Within { ch := true } d (d.retireCounts c) := by
  unfold Die.retireCounts
  extract_lets t
  have ht : Within { ch := true } d t := (Die.count_within d 3858 1).trans (Die.count_within _ 2 1)
  split
  · exact ht.trans (Die.count_within t 3859 1)
  · split
    · exact ht.trans (Die.count_within t 3860 1)
    · exact ht

/-- With no fence open, a command leaves in four steps. -/
theorem Die.retire_eq {d : Die} (e : Env) (c : Cmd) (h : d.sm.fences = []) :
    d.retire e c = (((d.retireCounts c).dropCmd c).childEnded c).ctxPump c.ctx := by
  have hgo : d.retire e c = ((((d.retireCounts c).dropCmd c).childEnded c).ctxPump c.ctx).fencesGo e := rfl
  rw [hgo]
  refine Die.fencesGo_nil e ?_
  rw [(Die.ctxPump_within _ c.ctx).sm, (Die.childEnded_within _ c).sm, (Die.dropCmd_within _ c).sm, (Die.retireCounts_within d c).sm]
  exact h

theorem Die.retire_leaves (e : Env) (d : Die) (c : Cmd) (h : d.sm.fences = []) : (d.retire e c).cmd c.id = none ∧
    (c.parent = none → (d.retire e c).getF F.SF_STATUS.FREE_SLOTS 0 = (d.getF F.SF_STATUS.FREE_SLOTS 0 + 1) % 2 ^ F.SF_STATUS.FREE_SLOTS.width) := by
  rw [Die.retire_eq e c h]
  refine ⟨?_, fun hparent => ?_⟩
  · rw [Die.ctxPump_cmd]
    exact Die.cmd_childEnded_none _ c c.id (Die.dropCmd_cmd _ c)
  · rw [(Die.ctxPump_within _ c.ctx).getF F.SF_STATUS.FREE_SLOTS 0, (Die.childEnded_within _ c).getF F.SF_STATUS.FREE_SLOTS 0,
      Die.freeSlots_dropCmd _ c hparent, (Die.retireCounts_within d c).getF F.SF_STATUS.FREE_SLOTS 0]

/-- What the answer of its record's write does to a command. -/
def recordAnswered (e : Env) (c : Cmd) : Tried Unit → Die
  | .ok _ d => (if c.irq then d.ringIrq e c.ring else d).retire e c
  | .wait d => d
  | .stop st x d => (d.dropCmd c).teardown e c.ctx st none (some (c.ring, d.head c.ring)) x
  | .fault _ d => d

/-- COMMAND_COMPLETE of a command that stands. -/
theorem exec_commandComplete {s : State} {id : Nat} {c : Cmd} (h : s.d.cmd id = some c) :
    exec (.commandComplete id) s = s.go (
      if c.st ≠ .done ∨ s.d.tearing c.ctx ∨ s.d.winBusy (.cmd id) then s.d
      else if !c.cpl ∨ c.bypass then s.d.retire s.env c
      else recordAnswered s.env c (attempt s.env s.d (.cmd id) (writeRecord c c.status c.result (.cmd id)))) := by
  change execCommandComplete id s = _
  unfold execCommandComplete
  dsimp only
  rw [h]
  dsimp only
  cases attempt s.env s.d (.cmd id) (writeRecord c c.status c.result (.cmd id)) <;> rfl

/-- Settles O23: the record by the answer of its write, what leaves by `Die.retire_leaves`. -/
theorem commandCompleteWritesTheRecordFirst : Obligations.CommandCompleteWritesTheRecordFirst := by
  unfold Obligations.CommandCompleteWritesTheRecordFirst
  intro s id c hcmd
  have hexec := exec_commandComplete hcmd
  have hready : c.st = .done → s.d.tearing c.ctx = false → s.d.winBusy (.cmd id) = false →
      ¬ (c.st ≠ .done ∨ s.d.tearing c.ctx = true ∨ s.d.winBusy (.cmd id) = true) := by
    rintro hst htear hwin (h | h | h)
    · exact h hst
    · exact absurd (htear.symm.trans h) (by decide)
    · exact absurd (hwin.symm.trans h) (by decide)
  have hrecord : c.cpl = true → c.bypass = false → ¬ ((!c.cpl) = true ∨ c.bypass = true) := by
    intro hcpl hbypass
    rw [hcpl, hbypass]
    decide
  refine ⟨fun hst htear hwin hno => ?_, fun d hst htear hwin hcpl hbypass ha => ?_, fun d hst htear hwin hcpl hbypass ha => ?_,
    fun st x d hst htear hwin hcpl hbypass ha => ?_, fun e d hf => Die.retire_leaves e d c hf, fun hnot => ?_⟩
  · rw [hexec, if_neg (hready hst htear hwin), if_pos]
    · rfl
    · rcases hno with h | h
      · exact .inl (by rw [h]; rfl)
      · exact .inr h
  · rw [hexec, if_neg (hready hst htear hwin), if_neg (hrecord hcpl hbypass), ha]
    rfl
  · rw [hexec, if_neg (hready hst htear hwin), if_neg (hrecord hcpl hbypass), ha]
    rfl
  · rw [hexec, if_neg (hready hst htear hwin), if_neg (hrecord hcpl hbypass), ha]
    rfl
  · rw [hexec, if_pos hnot]
    rfl

end Sys2Proof.Machine
end

section
/-! PROOF. One choice of the assign phase (R285): a list of an expert that takes an entry has room for it. -/

-- One proof after another: all at once, they ask for more threads than the check's memory limit admits.
set_option Elab.async false

namespace Sys2Proof.Machine

/-- The choice is demanded of its expert. -/
def Assign.demanded (a : Assign) (x : Nat) : Assign := { a with dem := Tab.set 0 a.dem x (Tab.get 0 a.dem x + 1) }

theorem Assign.dem_demanded (a : Assign) (x : Nat) : Tab.get 0 (a.demanded x).dem x = Tab.get 0 a.dem x + 1 := by
  unfold Assign.demanded
  exact Tab.get_set_same 0 a.dem x (Tab.get 0 a.dem x + 1)

/-- An entry joins the regular list of expert `y`. -/
def Assign.joins (a : Assign) (y t r g : Nat) : Assign := { a with ents := (y, t, r, g) :: a.ents, nreg := Tab.set 0 a.nreg y (a.reg y + 1) }

/-- What one choice does: it is placed or spilled on a list with room, goes to the reserve with room, or is dropped. -/
inductive Chosen (b t r g : Nat) (a : Assign) : Assign → Prop where
  | placed (y s : Nat) : a.reg y < pb b 24 0 25 → Chosen b t r g a { a.joins y t r g with spilled := a.spilled + s }
  | reserved (y : Nat) : a.nres < pb b 32 16 25 →
      Chosen b t r g a { a with ents := (y, t, r, g) :: a.ents, nres := a.nres + 1, spilled := a.spilled + 1 }
  | dropped : Chosen b t r g a { a with dropped := a.dropped + 1 }

theorem assignOne_none {b : Nat} {ch : Choices} {t r : Nat} {a : Assign} (h : ch.picks[r]? = none) : assignOne b ch t r a = a := by
  unfold assignOne
  rw [h]

/-- A choice with room on its expert's list joins it. -/
theorem assignOne_room {b : Nat} {ch : Choices} {t r x g : Nat} {a : Assign} (h : ch.picks[r]? = some (x, g)) (hroom : a.reg x < pb b 24 0 25) :
    assignOne b ch t r a = (a.demanded x).joins x t r g := by
  unfold assignOne
  rw [h]
  exact if_pos hroom

theorem assignOne_chosen {b : Nat} {ch : Choices} {t r x g : Nat} {a : Assign} (h : ch.picks[r]? = some (x, g)) :
    Chosen b t r g (a.demanded x) (assignOne b ch t r a) := by
  unfold assignOne
  rw [h]
  dsimp only
  split
  · next hroom => exact .placed x 0 hroom
  · split
    · split
      · next y hy => exact .placed y 1 (of_decide_eq_true (List.find?_some (p := fun y => decide ((a.demanded x).reg y < pb b 24 0 25)) hy))
      · exact .dropped
    · split
      · split
        · next hroom => exact .reserved _ hroom.1
        · exact .dropped
      · exact .dropped

/-- A list that has room for its entry keeps to its capacity. -/
theorem Assign.reg_joins_le {a : Assign} {y t r g cap : Nat} (hroom : a.reg y < cap) (h : ∀ x, a.reg x ≤ cap) (x : Nat) : (a.joins y t r g).reg x ≤ cap := by
  unfold Assign.reg Assign.joins
  rw [Tab.get_set]
  split
  · exact hroom
  · exact h x

/-- Settles O34, by what one choice can do. -/
theorem expertListsKeepToTheirCapacity : Obligations.ExpertListsKeepToTheirCapacity := by
  unfold Obligations.ExpertListsKeepToTheirCapacity
  intro b ch t r a
  cases hpick : ch.picks[r]? with
  | none =>
    have hlen : ¬ r < ch.picks.length := Nat.not_lt.2 (List.getElem?_eq_none_iff.1 hpick)
    rw [assignOne_none hpick]
    refine ⟨fun h => h, fun h => h, ⟨[], rfl, ?_⟩, fun x g h _ => absurd h (by simp), fun p h => absurd h (by simp)⟩
    rw [if_neg hlen, Nat.sub_self]
    rfl
  | some p =>
    obtain ⟨x, g⟩ := p
    have hlen : r < ch.picks.length := (List.getElem?_eq_some_iff.1 hpick).1
    have hchosen : Chosen b t r g (a.demanded x) (assignOne b ch t r a) := assignOne_chosen hpick
    generalize hu : assignOne b ch t r a = u at hchosen ⊢
    refine ⟨fun h y => ?_, fun h => ?_, ?_, fun x' g' hx hroom => ?_, fun p hp => ?_⟩
    · cases hchosen with
      | placed z s hroom => exact Assign.reg_joins_le (t := t) (r := r) (g := g) hroom h y
      | reserved z hroom => exact h y
      | dropped => exact h y
    · cases hchosen with
      | placed z s hroom => exact h
      | reserved z hroom => exact hroom
      | dropped => exact h
    · rw [if_pos hlen]
      cases hchosen with
      | placed z s hroom => exact ⟨[(z, t, r, g)], rfl, by simp [Assign.joins, Assign.demanded]⟩
      | reserved z hroom => exact ⟨[(z, t, r, g)], rfl, by simp [Assign.demanded]⟩
      | dropped => exact ⟨[], rfl, by simp [Assign.demanded]⟩
    · obtain ⟨rfl, rfl⟩ := Prod.mk.inj (Option.some.inj hx)
      rw [← hu, assignOne_room hpick hroom]
      rfl
    · obtain rfl := Option.some.inj hp
      cases hchosen with
      | placed z s hroom => exact a.dem_demanded x
      | reserved z hroom => exact a.dem_demanded x
      | dropped => exact a.dem_demanded x

end Sys2Proof.Machine
end

section
/-! PROOF. The Counting House (R411, R418 to R421, R423, R424, R431): counters that are cleared, the global freeze, latches and snapshots,
bandwidth monitors, and the load of die time. -/

-- One proof after another: all at once, they ask for more threads than the check's memory limit admits.
set_option Elab.async false

namespace Sys2Proof.Machine

/-! ### O59: counters that are cleared -/

/-- A clear of `n` counters from `first` on reaches counter `id`. -/
def clears (e : Env) (first n id : Nat) : Prop := first ≤ id ∧ id < first + n ∧ 64 ≤ id ∧ id < 6144 ∧ counterHere e id = true

theorem clears_succ (e : Env) (first n id : Nat) :
    clears e first (n + 1) id ↔ clears e first n id ∨ (id = first + n ∧ ¬ (id < 64 ∨ id ≥ 6144 ∨ (!(counterHere e id)) = true)) := by
  unfold clears
  cases counterHere e id
  · simp
  · simp only [Bool.not_true, Bool.false_eq_true, or_false, and_true]
    omega

theorem Die.clearCounts_succ (e : Env) (d : Die) (first n : Nat) :
    d.clearCounts e first (n + 1) =
      if first + n < 64 ∨ first + n ≥ 6144 ∨ !(counterHere e (first + n)) then d.clearCounts e first n else (d.clearCounts e first n).resetCount (first + n) := by
  unfold Die.clearCounts
  rw [List.range_succ, List.foldl_append]
  rfl

/-- A clear changes values and epochs of counters and nothing else. -/
theorem Die.clearCounts_eq (e : Env) (d : Die) (first n : Nat) :
    d.clearCounts e first n = { d with ch := { d.ch with cnt := (d.clearCounts e first n).ch.cnt, epoch := (d.clearCounts e first n).ch.epoch } } := by
  induction n with
  | zero => rfl
  | succ n ih =>
    rw [Die.clearCounts_succ]
    split
    · exact ih
    · exact congrArg (fun t : Die => t.resetCount (first + n)) ih

theorem Die.clearCounts_get (e : Env) (d : Die) (first n id : Nat) :
    (clears e first n id → Tab.get 0 (d.clearCounts e first n).ch.cnt id = 0 ∧
      Tab.get 0 (d.clearCounts e first n).ch.epoch id = Tab.get 0 d.ch.epoch id + 1) ∧
    (¬ clears e first n id → Tab.get 0 (d.clearCounts e first n).ch.cnt id = Tab.get 0 d.ch.cnt id ∧
      Tab.get 0 (d.clearCounts e first n).ch.epoch id = Tab.get 0 d.ch.epoch id) := by
  induction n with
  | zero => exact ⟨fun ⟨h₁, h₂, _⟩ => by omega, fun _ => ⟨rfl, rfl⟩⟩
  | succ n ih =>
    obtain ⟨hit, miss⟩ := ih
    rw [Die.clearCounts_succ, clears_succ]
    split
    next hout =>
      refine ⟨?_, fun h => miss (fun hc => h (.inl hc))⟩
      rintro (h | ⟨rfl, h⟩)
      · exact hit h
      · exact absurd hout h
    next hin =>
      by_cases hid : id = first + n
      · subst hid
        have hfresh : ¬ clears e first n (first + n) := fun ⟨_, h, _⟩ => by omega
        refine ⟨fun _ => ⟨Tab.get_set_same 0 (d.clearCounts e first n).ch.cnt (first + n) 0, ?_⟩, fun h => absurd (.inr ⟨rfl, hin⟩) h⟩
        rw [← (miss hfresh).2]
        exact Tab.get_set_same 0 (d.clearCounts e first n).ch.epoch (first + n) _
      · have hkeep : Tab.get 0 ((d.clearCounts e first n).resetCount (first + n)).ch.cnt id = Tab.get 0 (d.clearCounts e first n).ch.cnt id ∧
            Tab.get 0 ((d.clearCounts e first n).resetCount (first + n)).ch.epoch id = Tab.get 0 (d.clearCounts e first n).ch.epoch id :=
          ⟨Tab.get_set_ne 0 (d.clearCounts e first n).ch.cnt hid 0, Tab.get_set_ne 0 (d.clearCounts e first n).ch.epoch hid _⟩
        rw [hkeep.1, hkeep.2]
        exact ⟨fun h => hit (h.resolve_right (fun hc => hid hc.1)), fun h => miss (fun hc => h (.inl hc))⟩

/-! ### O59: the global freeze -/

theorem Die.sample_congr {d t : Die} (e : Env) (id n : Nat) (hcount : ∀ i, t.getF F.AY_COUNT.COUNT i = d.getF F.AY_COUNT.COUNT i) (hcnt : t.ch.cnt = d.ch.cnt)
    (hepoch : t.ch.epoch = d.ch.epoch) : t.sample e id n = d.sample e id n := by
  unfold Die.sample
  rw [hcount, hcnt, hepoch]

theorem Die.latchAll_congr {d t : Die} (e : Env) (hcount : ∀ i, t.getF F.AY_COUNT.COUNT i = d.getF F.AY_COUNT.COUNT i) (hcnt : t.ch.cnt = d.ch.cnt)
    (hepoch : t.ch.epoch = d.ch.epoch) : t.latchAll e = d.latchAll e := by
  unfold Die.latchAll
  simp only [hcnt, hepoch, Die.sample_congr e _ _ hcount hcnt hepoch]

theorem Die.coarse_congr {d t : Die} (e : Env) (h : ∀ i, t.reg .ST_REGION_STATUS i 0 = d.reg .ST_REGION_STATUS i 0) : t.coarse e = d.coarse e := by
  unfold Die.coarse Die.bit Die.powerState Die.getF
  simp only [h]

/-- The footprint of a freeze. -/
def freezeTouch : Touch := { regs := [.CH_FREEZE_CTL, .CH_LATCH], ch := true, rose := true }

/-- Everything the freeze leaves: its buffer and its control word. -/
theorem Die.freezeNow_spec (e : Env) (d : Die) (late : Bool) :
    Within freezeTouch d (d.freezeNow e late) ∧ (d.freezeNow e late).getF F.CH_FREEZE_CTL.ARM 0 = 0 ∧ (d.freezeNow e late).getF F.CH_FREEZE_CTL.DONE 0 = 1 ∧
      (d.freezeNow e late).getF F.CH_FREEZE_CTL.LATE 0 = Bool.num late ∧ (d.freezeNow e late).getF F.CH_FREEZE_CTL.COARSE 0 = Bool.num (d.coarse e) ∧
      (d.freezeNow e late).getF F.CH_LATCH.NUMBER 0 = (d.getF F.CH_LATCH.NUMBER 0 + 1) % 2 ^ 64 ∧
      (d.freezeNow e late).ch.frz = ((d.freezeNow e late).getF F.CH_LATCH.NUMBER 0, d.latchAll e) := by
  unfold Die.freezeNow
  extract_lets x c₁ c₂ d₁ d₂
  have hx : Within freezeTouch d x.2 := Die.incWrap_within d _ 0 1
  have h₁ : Within freezeTouch d d₁ := hx.trans (Die.setCh_within x.2 _)
  have h₂ : Within freezeTouch d d₂ := (h₁.trans (Die.setF_within d₁ _ 0 0)).trans (Die.setEv_within _ _ 0)
  have hcoarse : d₂.coarse e = d.coarse e := Die.coarse_congr e (fun i => h₂.reg _ i 0)
  have hnum : Bool.num (d.coarse e) % 2 = Bool.num (d.coarse e) := by cases d.coarse e <;> rfl
  have hlatch : x.2.latchAll e = d.latchAll e := Die.latchAll_congr e (fun i => hx.getF _ i) rfl rfl
  have hnumber : x.1 = (d.getF F.CH_LATCH.NUMBER 0 + 1) % 2 ^ 64 := by
    change (d.setF _ 0 _).getF _ 0 = _
    rw [Die.getF_setF_same _ _ _ _ (by decide)]
  have hlast : ((d₂.setF F.CH_FREEZE_CTL.LATE 0 (Bool.num late)).setF F.CH_FREEZE_CTL.COARSE 0 (Bool.num (d₂.coarse e))).getF F.CH_LATCH.NUMBER 0 = x.1 := by
    have hrest : Within { regs := [.CH_FREEZE_CTL], ch := true, rose := true } x.2
        ((d₂.setF F.CH_FREEZE_CTL.LATE 0 (Bool.num late)).setF F.CH_FREEZE_CTL.COARSE 0 (Bool.num (d₂.coarse e))) :=
      ((((Die.setCh_within x.2 _).trans (Die.setF_within d₁ _ 0 0)).trans (Die.setEv_within _ _ 0)).trans (Die.setF_within d₂ _ 0 _)).trans (Die.setF_within _ _ 0 _)
    exact hrest.getF _ 0
  refine ⟨(h₂.trans (Die.setF_within d₂ _ 0 _)).trans (Die.setF_within _ _ 0 _), ?_, ?_, ?_, ?_, ?_, ?_⟩
  · rw [Die.getF_setF_apart _ _ F.CH_FREEZE_CTL.ARM 0 _ (by decide), Die.getF_setF_apart _ _ F.CH_FREEZE_CTL.ARM 0 _ (by decide),
      Die.getF_setEv_apart _ _ F.CH_FREEZE_CTL.ARM 0 (by decide), Die.getF_setF_same _ _ _ _ (by decide)]
    rfl
  · rw [Die.getF_setF_apart _ _ F.CH_FREEZE_CTL.DONE 0 _ (by decide), Die.getF_setF_apart _ _ F.CH_FREEZE_CTL.DONE 0 _ (by decide)]
    exact Die.getF_setEv_bit _ _ 0 rfl (by decide)
  · rw [Die.getF_setF_apart _ _ F.CH_FREEZE_CTL.LATE 0 _ (by decide), Die.getF_setF_same _ _ _ _ (by decide)]
    cases late <;> rfl
  · rw [Die.getF_setF_same _ _ _ _ (by decide), hcoarse]
    exact hnum
  · rw [hlast]
    exact hnumber
  · rw [hlast, ← hlatch]
    rfl

/-! ### O59: writes of the freeze register -/

/-- A one-bit W1C field keeps its bit where an event of this cycle has set it, and otherwise loses it to a 1. -/
theorem Die.getF_putWord_w1c (e : Env) (d : Die) (r : Reg) (i : Nat) (v : Word) (f : Fld) (hf : f ∈ r.fields) (hw : f.word = 0) (hacc : f.acc = .W1C)
    (hbit : f.width = 1) (hlo : f.lo < 64) :
    (d.putWord e r i 0 v).getF f i = d.getF f i * (if d.risen f i then 1 else 1 - fieldOf v f.lo 1) := by
  have hreg := Reg.reg_of_mem_fields r f hf
  have h := Die.getF_putWord e d r i v f hf hreg
  have hoff := Die.getLsbD_offered d r i f.word v f.lo hlo
  have hrisen : d.rose.contains (r.ctorIdx, 8 * i + f.word, f.lo) = d.risen f i := by rw [← hreg]; rfl
  rw [hw] at h
  rw [hw, ← hw, hrisen] at hoff
  have hnum : ∀ x : Word, fieldOf x f.lo 1 = Bool.num (x.getLsbD f.lo) := fun x => by
    unfold fieldOf
    rw [BitVec.getLsbD, pow_one, ← Nat.toNat_testBit]
    cases x.toNat.testBit f.lo <;> rfl
  have hx : d.getF f i < 2 := by
    have hlt := fieldOf_lt (d.reg f.reg i f.word) f.lo f.width
    have hpow : 2 ^ f.width = 2 := by rw [hbit]; rfl
    exact lt_of_lt_of_eq hlt hpow
  rw [h]
  unfold Fld.written
  rw [hacc, hbit, hnum, hnum, ← hw, hoff]
  interval_cases d.getF f i
  · simp
  · cases v.getLsbD f.lo <;> cases d.risen f i <;> rfl

theorem Die.getF_freezeCtl_putWord (e : Env) (d : Die) (v : Word) :
    (d.putWord e .CH_FREEZE_CTL 0 0 v).getF F.CH_FREEZE_CTL.ARM 0 = fieldOf v 0 1 ∧
    (d.putWord e .CH_FREEZE_CTL 0 0 v).getF F.CH_FREEZE_CTL.DONE 0 =
      d.getF F.CH_FREEZE_CTL.DONE 0 * (if d.risen F.CH_FREEZE_CTL.DONE 0 then 1 else 1 - fieldOf v 1 1) :=
  ⟨Die.getF_putWord_rw e d .CH_FREEZE_CTL 0 v F.CH_FREEZE_CTL.ARM (by decide) rfl rfl,
    Die.getF_putWord_w1c e d .CH_FREEZE_CTL 0 v F.CH_FREEZE_CTL.DONE (by decide) rfl rfl rfl (by decide)⟩

theorem Die.bit_iff_getF (d : Die) (f : Fld) (i : Nat) (hw : f.width = 1) : d.bit f i = true ↔ d.getF f i = 1 := by
  have hlt := fieldOf_lt (d.reg f.reg i f.word) f.lo f.width
  have h := Die.bit_eq_false_iff d f i hw
  have hpow : 2 ^ f.width = 2 := by rw [hw]; rfl
  have hx : d.getF f i < 2 := lt_of_lt_of_eq hlt hpow
  cases hb : d.bit f i
  · rw [hb] at h
    have := h.1 rfl
    simp; omega
  · rw [hb] at h
    have : d.getF f i ≠ 0 := fun hc => absurd (h.2 hc) (by simp)
    simp; omega

theorem exec_freezeArm {s : State} {who : Who} {v : Word} (hgate : s.d.barGate s.env who .CH_FREEZE_CTL 0 = none) :
    exec (.freezeArm who v) s = .next { s with d := s.d.freezeWrite s.env v } := by
  change execFreezeArm who v s = _
  unfold execFreezeArm
  rw [Die.barWrite_of_gate _ hgate]
  rfl

theorem Die.freezeWrite_late {e : Env} {d : Die} {v : Word} (harm : d.bit F.CH_FREEZE_CTL.ARM 0 = false) (hv : fieldOf v 0 1 = 1)
    (htime : d.getF F.CH_FREEZE_TIME.TIME 0 < e.now) : d.freezeWrite e v = (d.putWord e .CH_FREEZE_CTL 0 0 v).freezeNow e true := by
  have hw : Within freezeTouch d (d.putWord e .CH_FREEZE_CTL 0 0 v) := Die.putWord_within e d _ 0 0 v
  have hnow : (d.putWord e .CH_FREEZE_CTL 0 0 v).bit F.CH_FREEZE_CTL.ARM 0 = true :=
    (Die.bit_iff_getF _ _ 0 rfl).2 ((Die.getF_freezeCtl_putWord e d v).1.trans hv)
  unfold Die.freezeWrite
  dsimp only
  rw [if_pos ⟨by rw [harm]; rfl, hnow, by rw [hw.getF F.CH_FREEZE_TIME.TIME]; exact htime⟩]

theorem Die.freezeWrite_arms {e : Env} {d : Die} {v : Word}
    (h : ¬ (d.bit F.CH_FREEZE_CTL.ARM 0 = false ∧ fieldOf v 0 1 = 1 ∧ d.getF F.CH_FREEZE_TIME.TIME 0 < e.now)) :
    d.freezeWrite e v = d.putWord e .CH_FREEZE_CTL 0 0 v := by
  have hw : Within freezeTouch d (d.putWord e .CH_FREEZE_CTL 0 0 v) := Die.putWord_within e d _ 0 0 v
  unfold Die.freezeWrite
  dsimp only
  rw [if_neg]
  rintro ⟨hwas, hnow, htime⟩
  rw [hw.getF F.CH_FREEZE_TIME.TIME] at htime
  refine h ⟨by simpa using hwas, ?_, htime⟩
  rw [← (Die.getF_freezeCtl_putWord e d v).1]
  exact (Die.bit_iff_getF _ _ 0 rfl).1 hnow

/-! ### O59: bandwidth monitors -/

/-- The count of a monitor starts again, at window `next`. -/
def Die.restartMon (d : Die) (i next : Nat) : Die := { d with ch.mons := Tab.set (0, 0, false) d.ch.mons i (0, next, false) }

theorem Die.restartMon_within {p : Touch} (d : Die) (i next : Nat) (hp : p.ch = true := by rfl) : Within p d (d.restartMon i next) := Die.setCh_within d _ hp

/-- The settings of a monitor that is written; its results are cleared. -/
def Die.monTaken (e : Env) (d : Die) (i : Nat) (v : Word) : Die :=
  (((d.putWord e .CH_BWMON i 0 v).clearElem .CH_BWLAST i).clearElem .CH_BWPEAK i).clearElem .CH_BWCOUNT i

/-- The window at which a written monitor starts to count. -/
def Die.monNext (e : Env) (d : Die) (i : Nat) : Nat := if d.getF F.CH_BWMON.WINDOW_US i = 0 then 0 else d.monWindow i e.now + 1

/-- A monitor that is written. -/
def Die.monWritten (e : Env) (d : Die) (i : Nat) (v : Word) : Die := (d.monTaken e i v).restartMon i ((d.monTaken e i v).monNext e i)

theorem exec_bwmonWrite {s : State} {who : Who} {m : BitVec 6} {v : Word} (hgate : s.d.barGate s.env who .CH_BWMON m.toNat = none) :
    exec (.bwmonWrite who m v) s = .next { s with d := s.d.monWritten s.env m.toNat v } := by
  change execBwmonWrite who m v s = _
  unfold execBwmonWrite
  dsimp only
  rw [Die.barWrite_of_gate _ hgate]
  rfl

theorem Die.monTaken_within (e : Env) (d : Die) (i : Nat) (v : Word) :
    Within { regs := [.CH_BWMON, .CH_BWLAST, .CH_BWPEAK, .CH_BWCOUNT] } d (d.monTaken e i v) := by
  unfold Die.monTaken
  exact (((Die.putWord_within e d _ i 0 v).trans (Die.clearElem_within _ _ i)).trans (Die.clearElem_within _ _ i)).trans (Die.clearElem_within _ _ i)

theorem Die.getF_monTaken (e : Env) (d : Die) (i : Nat) (v : Word) (f : Fld) (hf : f ∈ Reg.CH_BWMON.fields) :
    (d.monTaken e i v).getF f i = fieldOf v f.lo f.width := by
  have hreg := Reg.reg_of_mem_fields .CH_BWMON f hf
  have hacc : ∀ f ∈ Reg.CH_BWMON.fields, f.word = 0 ∧ f.acc = .RW := by decide
  have hw : Within { regs := [.CH_BWLAST, .CH_BWPEAK, .CH_BWCOUNT] } (d.putWord e .CH_BWMON i 0 v) (d.monTaken e i v) := by
    unfold Die.monTaken
    exact ((Die.clearElem_within _ _ i).trans (Die.clearElem_within _ _ i)).trans (Die.clearElem_within _ _ i)
  rw [hw.getF f i (by rw [hreg]; rfl)]
  exact Die.getF_putWord_rw e d .CH_BWMON i v f hf (hacc f hf).1 (hacc f hf).2

theorem Die.reg_clearElem_same (d : Die) (r : Reg) (i : Nat) (h : r.layout.words = 1) (hz : r.resetWord 0 = 0) : (d.clearElem r i).reg r i 0 = 0 := by
  unfold Die.clearElem
  rw [h]
  exact (Die.reg_setReg_same d r i 0 _).trans hz

theorem Die.results_monTaken (e : Env) (d : Die) (i : Nat) (v : Word) :
    (d.monTaken e i v).reg .CH_BWLAST i 0 = 0 ∧ (d.monTaken e i v).reg .CH_BWPEAK i 0 = 0 ∧ (d.monTaken e i v).reg .CH_BWCOUNT i 0 = 0 := by
  unfold Die.monTaken
  generalize d.putWord e .CH_BWMON i 0 v = t
  have hpeak : Within { regs := [.CH_BWPEAK] } (t.clearElem .CH_BWLAST i) ((t.clearElem .CH_BWLAST i).clearElem .CH_BWPEAK i) := Die.clearElem_within _ _ i
  have hcount : Within { regs := [.CH_BWCOUNT] } ((t.clearElem .CH_BWLAST i).clearElem .CH_BWPEAK i)
      (((t.clearElem .CH_BWLAST i).clearElem .CH_BWPEAK i).clearElem .CH_BWCOUNT i) := Die.clearElem_within _ _ i
  refine ⟨?_, ?_, Die.reg_clearElem_same _ _ i rfl rfl⟩
  · rw [hcount.reg .CH_BWLAST i 0, hpeak.reg .CH_BWLAST i 0]
    exact Die.reg_clearElem_same _ _ i rfl rfl
  · rw [hcount.reg .CH_BWPEAK i 0]
    exact Die.reg_clearElem_same _ _ i rfl rfl

/-- What a written monitor holds: its settings, cleared results, and the window it starts with. -/
theorem Die.monWritten_spec (e : Env) (d : Die) (i : Nat) (v : Word) :
    (∀ f ∈ Reg.CH_BWMON.fields, (d.monWritten e i v).getF f i = fieldOf v f.lo f.width) ∧ (d.monWritten e i v).reg .CH_BWLAST i 0 = 0 ∧
      (d.monWritten e i v).reg .CH_BWPEAK i 0 = 0 ∧ (d.monWritten e i v).reg .CH_BWCOUNT i 0 = 0 ∧
      (d.monWritten e i v).ch.mons =
        Tab.set (0, 0, false) d.ch.mons i (0, (if fieldOf v 32 20 = 0 then 0 else (d.monWritten e i v).monWindow i e.now + 1), false) ∧
      keepsRegs d (d.monWritten e i v) [.CH_BWMON, .CH_BWLAST, .CH_BWPEAK, .CH_BWCOUNT] ∧ (d.monWritten e i v).mem = d.mem := by
  obtain ⟨hlast, hpeak, hcount⟩ := Die.results_monTaken e d i v
  have hset := Die.getF_monTaken e d i v
  have hw := Die.monTaken_within e d i v
  unfold Die.monWritten
  generalize d.monTaken e i v = y at hlast hpeak hcount hset hw ⊢
  have hnext : y.monNext e i = if fieldOf v 32 20 = 0 then 0 else y.monWindow i e.now + 1 := by
    have hwin := hset F.CH_BWMON.WINDOW_US (by decide)
    unfold Die.monNext
    rw [hwin]
  generalize y.monNext e i = k at hnext ⊢
  have hrest : Within { ch := true } y (y.restartMon i k) := Die.restartMon_within y i k
  have hwindow : (y.restartMon i k).monWindow i e.now = y.monWindow i e.now := by
    unfold Die.monWindow
    rw [hrest.getF F.CH_BWMON.WINDOW_US i]
  have hall : Within { regs := [.CH_BWMON, .CH_BWLAST, .CH_BWPEAK, .CH_BWCOUNT], ch := true } d (y.restartMon i k) := hw.mono.trans hrest.mono
  rw [hwindow, ← hnext, ← hw.ch]
  refine ⟨fun f hf => (hrest.getF f i).trans (hset f hf), ?_, ?_, ?_, rfl, hall.keepsRegs, hall.mem⟩
  · rw [hrest.reg .CH_BWLAST i 0, hlast]
  · rw [hrest.reg .CH_BWPEAK i 0, hpeak]
  · rw [hrest.reg .CH_BWCOUNT i 0, hcount]

/-- The end of a monitor's window `w` that comes after the open one: the last window's bytes, the peak, the count of windows, and the window that is
open now. -/
theorem Die.rollMon_spec {e : Env} {d : Die} {m w : Nat} {x : Nat × Nat × Bool} (hx : Tab.get (0, 0, false) d.ch.mons m = x) (hwindow : d.monWindow m e.now = w)
    (hon : d.getF F.CH_BWMON.WINDOW_US m ≠ 0) (h : x.2.1 < w) :
    (d.rollMon e m).getF F.CH_BWLAST.BYTES m = (if w = x.2.1 + 1 then x.1 % 2 ^ 48 else 0) ∧
      (d.rollMon e m).getF F.CH_BWPEAK.PEAK m = max (d.getF F.CH_BWPEAK.PEAK m) (x.1 % 2 ^ 48) ∧
      (d.rollMon e m).getF F.CH_BWCOUNT.WINDOWS m = (d.getF F.CH_BWCOUNT.WINDOWS m + (w - x.2.1)) % 2 ^ 32 ∧
      (d.rollMon e m).ch.mons = Tab.set (0, 0, false) d.ch.mons m (0, w, false) := by
  unfold Die.rollMon
  rw [hx, hwindow]
  extract_lets x' w' last d₁ d₂ d₃ d₄
  have hopen : ¬ (d.getF F.CH_BWMON.WINDOW_US m = 0 ∨ w ≤ x.2.1) := fun h' => h'.elim hon (fun hle => absurd hle (Nat.not_le.2 h))
  rw [if_neg hopen]
  have hregs : Within { regs := monRegs } d d₄ :=
    (((Die.setF_within d _ m _).trans (Die.setF_within d₁ _ m _)).trans (Die.setF_within d₂ _ m _)).trans (Die.incWrap_within d₃ _ m _)
  change (d₄.restartMon m w).getF F.CH_BWLAST.BYTES m = _ ∧ (d₄.restartMon m w).getF F.CH_BWPEAK.PEAK m = _ ∧ (d₄.restartMon m w).getF F.CH_BWCOUNT.WINDOWS m = _ ∧
    Tab.set (0, 0, false) d₄.ch.mons m (0, w, false) = _
  refine ⟨?_, ?_, ?_, by rw [hregs.ch]⟩
  · have hrest : Within { regs := [.CH_BWPEAK, .CH_BWCOUNT], ch := true } d₂ (d₄.restartMon m w) :=
      ((Die.setF_within d₂ _ m _).trans (Die.incWrap_within d₃ _ m _)).trans (Die.restartMon_within d₄ m w)
    rw [hrest.getF F.CH_BWLAST.BYTES, Die.getF_setF_apart _ _ F.CH_BWLAST.BYTES m _ (by decide), Die.getF_setF_same _ _ _ _ (by decide)]
    change (if _ then _ else _) % 2 ^ 48 = _
    split <;> rfl
  · have hrest : Within { regs := [.CH_BWCOUNT], ch := true } d₃ (d₄.restartMon m w) := (Die.incWrap_within d₃ _ m _).trans (Die.restartMon_within d₄ m w)
    have hbefore : Within { regs := [.CH_BWLAST] } d d₂ := (Die.setF_within d _ m _).trans (Die.setF_within d₁ _ m _)
    rw [hrest.getF F.CH_BWPEAK.PEAK, Die.getF_setF_same _ _ _ _ (by decide), hbefore.getF F.CH_BWPEAK.PEAK]
    exact Nat.mod_eq_of_lt (max_lt (fieldOf_lt _ _ _) (Nat.mod_lt _ (by decide)))
  · have hbefore : Within { regs := [.CH_BWLAST, .CH_BWPEAK] } d d₃ :=
      ((Die.setF_within d _ m _).trans (Die.setF_within d₁ _ m _)).trans (Die.setF_within d₂ _ m _)
    have hrest : Within { ch := true } d₄ (d₄.restartMon m w) := Die.restartMon_within d₄ m w
    have hlast : d₄.getF F.CH_BWCOUNT.WINDOWS m = (d₃.getF F.CH_BWCOUNT.WINDOWS m + (w - x.2.1)) % 2 ^ 32 := Die.getF_setF_same d₃ _ m _ (by decide)
    rw [hrest.getF F.CH_BWCOUNT.WINDOWS, hlast, hbefore.getF F.CH_BWCOUNT.WINDOWS]

theorem Die.rollMon_idle {e : Env} {d : Die} {m : Nat} (h : d.getF F.CH_BWMON.WINDOW_US m = 0 ∨ d.monWindow m e.now ≤ (Tab.get (0, 0, false) d.ch.mons m).2.1) :
    d.rollMon e m = d := by
  unfold Die.rollMon
  dsimp only
  rw [if_pos h]

theorem exec_bwmonWindowEnd (m : BitVec 6) (s : State) : exec (.bwmonWindowEnd m) s = .next { s with d := s.d.rollMon s.env m.toNat } := by
  change execBwmonWindowEnd m s = _
  unfold execBwmonWindowEnd
  rfl

theorem exec_bwpeakClear {s : State} {who : Who} {m : BitVec 6} {v : Word} (hgate : s.d.barGate s.env who .CH_BWPEAK m.toNat = none) :
    exec (.bwpeakClear who m v) s = .next { s with d := (if fieldOf v 63 1 = 1 then s.d.setF F.CH_BWPEAK.PEAK m.toNat 0 else s.d) } := by
  change execBwpeakClear who m v s = _
  unfold execBwpeakClear
  rw [Die.barWrite_of_gate _ hgate]
  rfl

/-! ### O59: the load of die time -/

theorem Die.stepMons_within (e e' : Env) (d : Die) : Within { regs := monRegs, ch := true } d (d.stepMons e e') := by
  unfold Die.stepMons
  refine .foldl _ (fun y m => ?_) _ _
  extract_lets y₁ x w c y₂ y₃
  have h₁ : Within { regs := monRegs, ch := true } y y₁ := Die.rollMon_within y e m
  have h₃ : Within { regs := monRegs, ch := true } y₁ y₃ :=
    (((Die.setF_within y₁ _ m _).trans (Die.setF_within _ _ m 1)).trans (Die.setF_within y₂ _ m _)).trans (Die.incWrap_within _ _ m 1)
  split_ifs
  · exact .refl y
  · exact h₁
  · exact h₁.trans (Die.setCh_within y₁ _)
  · exact h₁.trans (Die.setCh_within y₁ _)
  · exact (h₁.trans h₃).trans (Die.setCh_within y₃ _)

theorem exec_chTimeLoad {s : State} {who : Who} {v : Word} (hgate : s.d.barGate s.env who .CH_TIME_LOAD 0 = none) :
    exec (.chTimeLoad who v) s =
      if !s.env.fwSeal ∧ s.env.now < v.toNat then
        .next { s with env := { s.env with tq := v.toNat * 65536 }, d := s.d.stepMons s.env { s.env with tq := v.toNat * 65536 } }
      else .next { s with d := s.d.reject F.CH_STATUS.CFG_REJECT 0 } := by
  change execChTimeLoad who v s = _
  unfold execChTimeLoad
  rw [hgate]
  rfl

/-- Settles O59: a clear counter by counter, the freeze by what `freezeNow` leaves, a monitor by what its write and the end of its window leave, and
the load by its one condition. -/
theorem countersFreezesMonitorsAndDieTime : Obligations.CountersFreezesMonitorsAndDieTime := by
  unfold Obligations.CountersFreezesMonitorsAndDieTime
  refine ⟨?_, ?_, ?_, ?_⟩
  · intro s who v hgate
    have hexec : exec (.chClear who v) s = .next { s with d := s.d.clearCounts s.env (fieldOf v 0 13) (fieldOf v 16 13) } := by
      change execChClear who v s = _
      unfold execChClear
      rw [Die.barWrite_of_gate _ hgate]
      rfl
    exact ⟨_, hexec, congrArg (fun d => { s with d := d }) (Die.clearCounts_eq s.env s.d _ _), fun id => Die.clearCounts_get s.env s.d _ _ id⟩
  · intro s who v late due froze
    have hfroze : ∀ (d : Die) (l : Bool), Within freezeTouch s.d d → (∀ i, d.getF F.AY_COUNT.COUNT i = s.d.getF F.AY_COUNT.COUNT i) → d.ch = s.d.ch →
        d.getF F.CH_LATCH.NUMBER 0 = s.d.getF F.CH_LATCH.NUMBER 0 → froze { s with d := d.freezeNow s.env l } (Bool.num l) := by
      intro d l hw hcount hch hnumber
      obtain ⟨hwithin, harm, hdone, hlate, hcoarse, hnum, hfrz⟩ := Die.freezeNow_spec s.env d l
      have hall : Within freezeTouch s.d (d.freezeNow s.env l) := hw.trans hwithin
      refine ⟨harm, hdone, hlate, ?_, ?_, ?_, hall.keepsRegs, hall.mem, rfl⟩
      · exact hcoarse.trans (by rw [Die.coarse_congr s.env (fun i => hw.reg _ i 0)])
      · rw [← hnumber]; exact hnum
      · rw [← Die.latchAll_congr s.env hcount (by rw [hch]) (by rw [hch])]; exact hfrz
    refine ⟨fun hgate => ⟨?_, ?_⟩, ?_, ?_⟩
    · rintro ⟨harm, hv, htime⟩
      have hput : Within { regs := [.CH_FREEZE_CTL] } s.d (s.d.putWord s.env .CH_FREEZE_CTL 0 0 v) := Die.putWord_within s.env s.d _ 0 0 v
      refine ⟨_, exec_freezeArm hgate, ?_⟩
      rw [Die.freezeWrite_late harm hv htime]
      exact hfroze _ true hput.mono (fun i => hput.getF _ i) hput.ch (hput.getF _ 0)
    · intro hlate
      refine ⟨_, exec_freezeArm hgate, ?_⟩
      rw [Die.freezeWrite_arms hlate]
      obtain ⟨harm, hdone⟩ := Die.getF_freezeCtl_putWord s.env s.d v
      exact ⟨harm, hdone, Within.onlyRegs (Die.putWord_within s.env s.d _ 0 0 v)⟩
    · intro hdue
      refine ⟨{ s with d := s.d.freezeNow s.env false }, ?_, hfroze s.d false (.refl _) (fun _ => rfl) rfl rfl⟩
      change execFreeze s = _
      unfold execFreeze
      rw [if_pos hdue]
      rfl
    · intro hdue
      change execFreeze s = _
      unfold execFreeze
      rw [if_neg hdue]
      rfl
  · intro s who m v n x w
    have hwdef : s.d.monWindow n s.env.now = w := rfl
    refine ⟨?_, ?_, ?_, ?_⟩
    · intro hgate
      obtain ⟨hset, hlast, hpeak, hcount, hmons, hkeep, hmem⟩ := Die.monWritten_spec s.env s.d m.toNat v
      refine ⟨_, exec_bwmonWrite hgate, hset F.CH_BWMON.SOURCE (by decide), hset F.CH_BWMON.INSTANCE (by decide), hset F.CH_BWMON.DIR (by decide),
        hset F.CH_BWMON.WINDOW_US (by decide), hlast, hpeak, hcount, ?_, fun j hj => ?_, hkeep, hmem, rfl⟩
      · exact (congrArg (fun t => Tab.get (0, 0, false) t m.toNat) hmons).trans (Tab.get_set_same (0, 0, false) s.d.ch.mons m.toNat _)
      · exact (congrArg (fun t => Tab.get (0, 0, false) t j) hmons).trans (Tab.get_set_ne (0, 0, false) s.d.ch.mons hj _)
    · intro hon hlt
      clear_value w
      obtain ⟨hbytes, hpeak, hcount, hmons⟩ := Die.rollMon_spec rfl hwdef hon hlt
      have hw := Die.rollMon_within s.d s.env n
      refine ⟨_, exec_bwmonWindowEnd m s, hbytes, hpeak, hcount, ?_, hw.keepsRegs, hw.mem, rfl⟩
      exact (congrArg (fun t => Tab.get (0, 0, false) t n) hmons).trans (Tab.get_set_same (0, 0, false) s.d.ch.mons n _)
    · intro hidle
      rw [exec_bwmonWindowEnd, Die.rollMon_idle (by rw [hwdef]; exact hidle)]
    · intro hgate
      refine ⟨fun hv => ?_, fun hv => ?_⟩
      · refine ⟨_, exec_bwpeakClear hgate, ?_⟩
        rw [if_pos hv]
        refine ⟨(Die.getF_setF_same _ _ _ _ (by decide)).trans rfl, Within.onlyRegs (Die.setF_within s.d _ _ 0), fun j hj => ?_⟩
        exact Die.reg_setReg_ne s.d _ _ _ 0 j 0 _ (.inr (fun hc => hj (by omega)))
      · rw [exec_bwpeakClear hgate, if_neg (by omega)]
  · intro s who v hgate
    rw [exec_chTimeLoad hgate]
    refine ⟨fun hseal hlt => ?_, fun h => ?_⟩
    · rw [if_pos ⟨by rw [hseal]; rfl, hlt⟩]
      have hw := Die.stepMons_within s.env { s.env with tq := v.toNat * 65536 } s.d
      refine ⟨_, rfl, ?_, rfl, hw.keepsRegs, hw.mem⟩
      exact Nat.mul_div_cancel _ (by decide)
    · rw [if_neg]
      rintro ⟨hseal, hlt⟩
      rcases h with h | h
      · rw [h] at hseal; exact absurd hseal (by decide)
      · omega

end Sys2Proof.Machine
end

section
/-! PROOF. Snapshots and watch windows (R418, R420, R421, R425, R428). -/

-- One proof after another: all at once, they ask for more threads than the check's memory limit admits.
set_option Elab.async false

namespace Sys2Proof.Machine

/-! ### O35: a snapshot of the monitors, of which a window has ended -/

/-- An access that reads and writes nothing answers at once. -/
theorem attempt_pure {α : Type} (e : Env) (d : Die) (use : Use) (x : α) : ∃ d', attempt e d use (pure x) = .ok x d' := by
  unfold attempt
  refine ⟨_, if_neg ?_⟩
  change ¬ decide ((d.settleAll e).ay.held.length < (d.settleAll e).ay.held.length) = true
  simp

/-- A COUNTER_SNAP of the monitors that started at die time 0 and writes no record. -/
def snapOfMonitors : Cmd := { id := 1, ring := 0, ctx := 0, seq := 0, desc := BitVec.ofNat 512 (Op.COUNTER_SNAP + 2 ^ 128 * 4), st := .running, aux := 1 }

/-- Die time 3 µs; monitor 0 has windows of 1 µs, of which none has been closed yet. -/
def threeWindowsLater : State :=
  { env := { tq := 3000 * 65536 }, d := ({ sf := { cmds := [snapOfMonitors] } } : Die).setF F.CH_BWMON.WINDOW_US 0 1 }

/-- Refutes O35: the latch of a snapshot of the monitors first closes the windows that have ended (R424), so that its entries are not those of the die
before; here monitor 0 has 3 windows more. -/
theorem not_snapshotsLatchTwoMicrosecondsAfterTheirStart : ¬ Obligations.SnapshotsLatchTwoMicrosecondsAfterTheirStart := by
  unfold Obligations.SnapshotsLatchTwoMicrosecondsAfterTheirStart
  intro h
  have hlatch : ((threeWindowsLater.d.snapLatch threeWindowsLater.env snapOfMonitors).cmd 1).any (fun c' => decide (c'.p6 8 = 0 ∧
      c'.stats ≠ threeWindowsLater.d.latch.2.snapEntries threeWindowsLater.env (snapOfMonitors.q 16) threeWindowsLater.d.latch.1)) = true := by decide +kernel
  obtain ⟨c', hc', hc⟩ := (Option.any_eq_true _ _).1 hlatch
  obtain ⟨hptr, hstats⟩ := of_decide_eq_true hc
  obtain ⟨d', hpure⟩ := attempt_pure threeWindowsLater.env (threeWindowsLater.d.snapLatch threeWindowsLater.env snapOfMonitors) (.cmd 1) c'.result
  obtain ⟨_, _, _, hentries⟩ := (h.1 threeWindowsLater 1 snapOfMonitors {}).2.2.2 c' d' (by decide +kernel) (by decide +kernel) rfl rfl
    (by decide +kernel) (by decide +kernel) (by decide +kernel) hc' (by
    rw [if_neg (fun hne => hne hptr)]
    exact hpure)
  exact hstats hentries

/-! ### O36: watches that open -/

/-- The accumulators of watch `w`. -/
def Die.setWatch (d : Die) (w : Nat) (a : Option WatchAcc) : Die := { d with ch.watch := Tab.set none d.ch.watch w a }

theorem Die.setWatch_within {p : Touch} (d : Die) (w : Nat) (a : Option WatchAcc) (hp : p.ch = true := by rfl) : Within p d (d.setWatch w a) := Die.setCh_within d _ hp

/-- The registers of a watch that opens for context `ctx` of slice `sl`. -/
def Die.watchRegs (d : Die) (w ctx sl fmt : Nat) : Die :=
  ((((d.setF F.CH_WATCH.OPEN w 1).setF F.CH_WATCH.CONTEXT w ctx).setF F.CH_WATCH.SLICE w sl).setF F.CH_WATCH.FORMAT w fmt).setF F.CH_WATCH_SEQ.EPOCH w 0

theorem Die.watchRegs_within (d : Die) (w ctx sl fmt : Nat) : Within { regs := [.CH_WATCH, .CH_WATCH_SEQ] } d (d.watchRegs w ctx sl fmt) := by
  unfold Die.watchRegs
  exact ((((Die.setF_within d _ w 1).trans (Die.setF_within _ _ w ctx)).trans (Die.setF_within _ _ w sl)).trans (Die.setF_within _ _ w fmt)).trans
    (Die.setF_within _ _ w 0)

theorem Die.watchRegs_spec (d : Die) (w ctx sl fmt : Nat) :
    (d.watchRegs w ctx sl fmt).getF F.CH_WATCH.OPEN w = 1 ∧ (d.watchRegs w ctx sl fmt).getF F.CH_WATCH.CONTEXT w = ctx % 4096 ∧
      (d.watchRegs w ctx sl fmt).getF F.CH_WATCH_SEQ.EPOCH w = 0 := by
  unfold Die.watchRegs
  refine ⟨?_, ?_, Die.getF_setF_same _ _ _ _ (by decide)⟩
  · rw [Die.getF_setF_other _ _ F.CH_WATCH.OPEN _ _ _ (by decide), Die.getF_setF_apart _ _ F.CH_WATCH.OPEN _ _ (by decide),
      Die.getF_setF_apart _ _ F.CH_WATCH.OPEN _ _ (by decide), Die.getF_setF_apart _ _ F.CH_WATCH.OPEN _ _ (by decide)]
    exact Die.getF_setF_same _ _ _ _ (by decide)
  · rw [Die.getF_setF_other _ _ F.CH_WATCH.CONTEXT _ _ _ (by decide), Die.getF_setF_apart _ _ F.CH_WATCH.CONTEXT _ _ (by decide),
      Die.getF_setF_apart _ _ F.CH_WATCH.CONTEXT _ _ (by decide)]
    exact Die.getF_setF_same _ _ _ _ (by decide)

/-- What is read of a watch in the state a row answers is what its command left. -/
theorem actsTo_getF {s : State} {id op : Nat} {c : Cmd} {d : Die} (h : Acting s id op c d) (x : Die) (f : Fld) (i : Nat) (hf : f.reg ≠ .SF_CTX_STATUS) :
    (actsTo s id c x).d.getF f i = x.getF f i :=
  (actsTo_within h x).getF f i (by simpa using hf)

theorem bit_of_getF_one {d : Die} {f : Fld} {i : Nat} (h : d.getF f i = 1) : d.bit f i = true := by
  unfold Die.bit
  rw [h]
  rfl

/-- The die of a watch that has opened, its command done. -/
def Die.watchOpened (e : Env) (d : Die) (c : Cmd) (x : Nat × Nat × Nat × Nat) : Die :=
  ((d.watchRegs c.watch c.ctx ((d.sliceOf c.ctx).getD 0) x.1).setWatch c.watch
    (some { start := e.now, log2 := x.2.1, ring := x.2.2.1, cons := x.2.2.2 })).finish c.id St.OK 0

theorem exec_watchOpen {s : State} {id : Nat} {c : Cmd} {d d' : Die} {b : List Byte} {x : Nat × Nat × Nat × Nat} (h : Acting s id Op.WATCH c d)
    (hmode : bitsOf c.arg0 8 2 = 0) (hopen : d.bit F.CH_WATCH.OPEN c.watch = false)
    (hmask : ∀ sl, d.sliceOf c.ctx = some sl → (d.reg .CH_WATCH_MASK sl 0).getLsbD c.watch = true) (hptr : c.p6 8 ≠ 0) (halign : c.p6 8 % 64 = 0)
    (htear : d.tearing c.ctx = false) (hheld : ∀ h ∈ d.stu.held, h.cmd ≠ some id)
    (hread : attempt s.env d (.cmd id) (readPtr c.src Ac.read (c.p6 8) 0 64) = .ok b d') (hblock : watchBlock b = some x) :
    exec (.watchOpen id) s = .next (actsTo s id c (d'.watchOpened s.env c x)) := by
  have hsub : ∀ y : Cmd, y.desc = c.desc → y.aux = c.aux → decide (bitsOf y.arg0 8 2 = 0) = true := fun y hy _ => decide_eq_true (by
    unfold Cmd.arg0 at hmode ⊢
    rw [hy]
    exact hmode)
  refine (exec_of_start (i := .watchOpen id) h rfl hsub).trans (congrArg (fun y => Host.Outcome.next (actsTo s id c y)) ?_)
  dsimp only
  have hmay : (match d.sliceOf c.ctx with | some sl => (d.reg .CH_WATCH_MASK sl 0).getLsbD c.watch | none => true) = true := by
    cases hsl : d.sliceOf c.ctx with
    | none => rfl
    | some sl => exact hmask sl hsl
  rw [hopen]
  have hgo : ¬ (false = true ∨ (!(match d.sliceOf c.ctx with | some sl => (d.reg .CH_WATCH_MASK sl 0).getLsbD c.watch | none => true)) = true ∨
      c.p6 8 = 0 ∨ c.p6 8 % 64 ≠ 0) := by
    rw [hmay]
    rintro (hc | hc | hc | hc)
    · exact absurd hc (by decide)
    · exact absurd hc (by decide)
    · exact hptr hc
    · exact hc halign
  refine (if_neg hgo).trans ?_
  rw [Die.runAct_ok s.env d d' c _ _ b htear (h.id ▸ hheld) (h.id ▸ hread), hblock]
  rfl

/-! ### O36: watches that switch -/

/-- The interval of a watch that a SNAP or CLOSE ends, with the writes it still waits for. -/
def Die.endedWatch (e : Env) (d : Die) (w : Nat) (a : WatchAcc) : WatchAcc :=
  let early := d.coh.reqs.filter (fun q => (q.tracker.isSome || (decide (q.op = .wb) && decide (d.wbHead e q.who (d.home e q.line) = some q.rid))) && q.attr.watchEn && decide (q.attr.watchId = w) && d.feeds q.line w)
  { a with watch := w, fmt := d.getF F.CH_WATCH.FORMAT w, waits := early.map (·.rid) }

/-- The switch joins those under way. -/
def Die.addSwitch (d : Die) (id : Nat) (a : WatchAcc) : Die := { d with ch.switch := d.ch.switch ++ [(id, a)] }

/-- The interval that follows. -/
def nextWatch (e : Env) (a : WatchAcc) (close : Bool) : Option WatchAcc :=
  if close then none else some { start := e.now, log2 := a.log2, ring := a.ring, cons := a.cons, lost := a.lost }

/-- OPEN of a watch that is closed. -/
def Die.shutWatch (d : Die) (w : Nat) (close : Bool) : Die := if close then d.setF F.CH_WATCH.OPEN w 0 else d

theorem Die.watchSwitch_eq {e : Env} {d : Die} {c : Cmd} {close : Bool} {a : WatchAcc} (ha : Tab.get none d.ch.watch c.watch = some a)
    (hopen : d.bit F.CH_WATCH.OPEN c.watch = true) (hctx : d.getF F.CH_WATCH.CONTEXT c.watch = c.ctx) :
    d.watchSwitch e c close = ((((d.setCmd { c with aux := 1, tile := d.getF F.CH_WATCH_SEQ.EPOCH c.watch, acc := e.now }).setF F.CH_WATCH_SEQ.EPOCH c.watch
      (d.getF F.CH_WATCH_SEQ.EPOCH c.watch + 1)).shutWatch c.watch close).setWatch c.watch (nextWatch e a close)).addSwitch c.id (d.endedWatch e c.watch a) := by
  unfold Die.watchSwitch
  dsimp only
  rw [ha]
  dsimp only
  rw [if_neg (by rw [hopen, hctx]; simp)]
  rfl

/-- The die of a watch whose interval has been switched. -/
def Die.switched (e : Env) (d : Die) (c : Cmd) (close : Bool) (a : WatchAcc) : Die :=
  ((((d.setCmd { c with aux := 1, tile := d.getF F.CH_WATCH_SEQ.EPOCH c.watch, acc := e.now }).setF F.CH_WATCH_SEQ.EPOCH c.watch
    (d.getF F.CH_WATCH_SEQ.EPOCH c.watch + 1)).shutWatch c.watch close).setWatch c.watch (nextWatch e a close)).addSwitch c.id (d.endedWatch e c.watch a)

theorem Die.shutWatch_within {p : Touch} (d : Die) (w : Nat) (close : Bool) (hr : p.regs.contains .CH_WATCH = true := by rfl) : Within p d (d.shutWatch w close) := by
  unfold Die.shutWatch
  split
  · exact Die.setF_within d _ w 0 hr
  · exact .refl d

theorem Die.addSwitch_within {p : Touch} (d : Die) (id : Nat) (a : WatchAcc) (hp : p.ch = true := by rfl) : Within p d (d.addSwitch id a) := Die.setCh_within d _ hp

theorem Die.bit_shutWatch {d : Die} {w : Nat} {close : Bool} (h : d.bit F.CH_WATCH.OPEN w = true) : (d.shutWatch w close).bit F.CH_WATCH.OPEN w = !close := by
  unfold Die.shutWatch
  cases close
  · exact h
  · refine (Die.bit_eq_false_iff _ _ w rfl).2 ?_
    exact Die.getF_setF_same _ _ _ _ (by decide)

theorem Die.switched_spec {e : Env} {d : Die} {c : Cmd} {close : Bool} {a : WatchAcc} (hcmd : d.cmd c.id = some c) (hopen : d.bit F.CH_WATCH.OPEN c.watch = true) :
    (d.switched e c close a).cmd c.id = some { c with aux := 1, tile := d.getF F.CH_WATCH_SEQ.EPOCH c.watch, acc := e.now } ∧
      (d.switched e c close a).bit F.CH_WATCH.OPEN c.watch = !close ∧ Tab.get none (d.switched e c close a).ch.watch c.watch = nextWatch e a close ∧
      (d.switched e c close a).getF F.CH_WATCH_SEQ.EPOCH c.watch = (d.getF F.CH_WATCH_SEQ.EPOCH c.watch + 1) % 2 ^ F.CH_WATCH_SEQ.EPOCH.width := by
  unfold Die.switched
  generalize hy : d.setCmd { c with aux := 1, tile := d.getF F.CH_WATCH_SEQ.EPOCH c.watch, acc := e.now } = y
  generalize d.endedWatch e c.watch a = old
  have hdy : Within { sf := true } d y := hy ▸ Die.setCmd_within d _
  have hcmdy : y.cmd c.id = some { c with aux := 1, tile := d.getF F.CH_WATCH_SEQ.EPOCH c.watch, acc := e.now } := by
    rw [← hy]
    exact Die.cmd_setCmd_same d c.id _ c hcmd rfl
  generalize d.getF F.CH_WATCH_SEQ.EPOCH c.watch + 1 = ep
  generalize hz : y.setF F.CH_WATCH_SEQ.EPOCH c.watch ep = z
  have hyz : Within { regs := [.CH_WATCH_SEQ] } y z := hz ▸ Die.setF_within y _ _ _
  have hep : z.getF F.CH_WATCH_SEQ.EPOCH c.watch = ep % 2 ^ F.CH_WATCH_SEQ.EPOCH.width := by
    rw [← hz]
    exact Die.getF_setF_same _ _ _ _ (by decide)
  have hshut : Within { regs := [.CH_WATCH] } z (z.shutWatch c.watch close) := Die.shutWatch_within z _ _
  generalize hu : z.shutWatch c.watch close = u at hshut
  have hrest : Within { ch := true } u ((u.setWatch c.watch (nextWatch e a close)).addSwitch c.id old) :=
    (Die.setWatch_within u _ _).trans (Die.addSwitch_within _ _ _)
  refine ⟨?_, ?_, Tab.get_set_same none u.ch.watch c.watch _, ?_⟩
  · rw [Die.cmd_of_sf hrest.sf, Die.cmd_of_sf hshut.sf, Die.cmd_of_sf hyz.sf]
    exact hcmdy
  · rw [hrest.bit F.CH_WATCH.OPEN, ← hu]
    exact Die.bit_shutWatch ((hyz.bit F.CH_WATCH.OPEN _).trans ((hdy.bit F.CH_WATCH.OPEN _).trans hopen))
  · rw [hrest.getF F.CH_WATCH_SEQ.EPOCH, hshut.getF F.CH_WATCH_SEQ.EPOCH, hep]

/-- The rows that end an interval, by the mode they stand for. -/
theorem exec_watchSwitch {s : State} {id : Nat} {c : Cmd} {d : Die} {a : WatchAcc} (h : Acting s id Op.WATCH c d) (haux : c.aux = 0)
    (ha : Tab.get none d.ch.watch c.watch = some a) (hopen : d.bit F.CH_WATCH.OPEN c.watch = true) (hctx : d.getF F.CH_WATCH.CONTEXT c.watch = c.ctx) :
    (bitsOf c.arg0 8 2 = 2 → exec (.watchSnap id) s = .next (actsTo s id c (d.switched s.env c false a))) ∧
      (bitsOf c.arg0 8 2 = 1 → exec (.watchClose id) s = .next (actsTo s id c (d.switched s.env c true a))) := by
  have hmode : ∀ y : Cmd, y.desc = c.desc → bitsOf y.arg0 8 2 = bitsOf c.arg0 8 2 := fun y hy => by
    unfold Cmd.arg0
    rw [hy]
  refine ⟨fun hm => ?_, fun hm => ?_⟩
  · refine (exec_of_start (i := .watchSnap id) h rfl (fun y hy hx => decide_eq_true ⟨(hmode y hy).trans hm, hx.trans haux⟩)).trans ?_
    rw [Die.watchSwitch_eq ha hopen hctx]
    rfl
  · refine (exec_of_start (i := .watchClose id) h rfl (fun y hy hx => decide_eq_true ⟨(hmode y hy).trans hm, hx.trans haux⟩)).trans ?_
    rw [Die.watchSwitch_eq ha hopen hctx]
    rfl

/-! ### O36: digests -/

/-- The switch of command `id` is over, and its command done. -/
def Die.switchOver (d : Die) (id result : Nat) : Die := Die.finish { d with ch.switch := d.ch.switch.filter (fun x => decide (x.1 ≠ id)) } id St.OK result

theorem Die.switchOver_spec {d : Die} {id result : Nat} {c : Cmd} (hcmd : d.cmd id = some c) :
    (d.switchOver id result).cmd id = some { c with st := .done, status := St.OK, result := result } ∧ (∀ y ∈ (d.switchOver id result).ch.switch, y.1 ≠ id) ∧
      ∀ f i, (d.switchOver id result).getF f i = d.getF f i := by
  unfold Die.switchOver
  have hsw : Within { ch := true } d { d with ch.switch := d.ch.switch.filter (fun x => decide (x.1 ≠ id)) } := Die.setCh_within d _
  generalize hy : ({ d with ch.switch := d.ch.switch.filter (fun x => decide (x.1 ≠ id)) } : Die) = y at hsw
  have hfin : Within { sf := true } y (y.finish id St.OK result) := Die.finish_within y id _ _
  refine ⟨Die.finish_cmd y id _ _ c ((Die.cmd_of_sf hsw.sf id).trans hcmd), fun z hz => ?_, fun f i => (hfin.getF f i).trans (hsw.getF f i)⟩
  rw [hfin.ch, ← hy] at hz
  exact of_decide_eq_true (List.mem_filter.1 hz).2

theorem Die.setWatchLost_within {p : Touch} (d : Die) (w : Nat) (v : Bool) (hp : p.ch = true := by rfl) : Within p d (d.setWatchLost w v) := by
  unfold Die.setWatchLost
  split
  · exact Die.setCh_within d _ hp
  · exact .refl d

/-- What the answer of the digest's accesses leaves of its watch: one record more, or one dropped. -/
def Die.digested (d : Die) (w : Nat) (ok : Bool) : Die :=
  if ok then (d.incWrap F.CH_WATCH_SEQ.PRODUCED w 1).setWatchLost w false else (d.incSat F.CH_WATCH.DROPPED w 1).setWatchLost w true

theorem Die.digested_spec (d : Die) (w : Nat) (ok : Bool) :
    (d.digested w ok).sf = d.sf ∧
      (d.digested w ok).getF F.CH_WATCH_SEQ.PRODUCED w = (d.getF F.CH_WATCH_SEQ.PRODUCED w + Bool.num ok) % 2 ^ F.CH_WATCH_SEQ.PRODUCED.width := by
  unfold Die.digested
  cases ok
  · have hw : Within { regs := [.CH_WATCH], ch := true } d ((d.incSat F.CH_WATCH.DROPPED w 1).setWatchLost w true) :=
      (Die.incSat_within d _ w 1).trans (Die.setWatchLost_within _ w true)
    refine ⟨hw.sf, (hw.getF F.CH_WATCH_SEQ.PRODUCED w).trans ?_⟩
    exact (Nat.mod_eq_of_lt (fieldOf_lt _ _ _)).symm
  · have hw : Within { ch := true } (d.incWrap F.CH_WATCH_SEQ.PRODUCED w 1) ((d.incWrap F.CH_WATCH_SEQ.PRODUCED w 1).setWatchLost w false) :=
      Die.setWatchLost_within _ w false
    have hinc : Within { regs := [.CH_WATCH_SEQ] } d (d.incWrap F.CH_WATCH_SEQ.PRODUCED w 1) := Die.incWrap_within d _ w 1
    exact ⟨hw.sf.trans hinc.sf, (hw.getF F.CH_WATCH_SEQ.PRODUCED w).trans (Die.getF_setF_same _ _ _ _ (by decide))⟩

/-- The accesses of a digest: the ring's consumer word, and the record where the ring has room for position `q`. -/
def digestAct (d : Die) (c : Cmd) (a : WatchAcc) (q : Nat) : Act Bool := do
  let b ← readPtr c.src Ac.read a.cons 0 8
  if (q + 2 ^ 32 - numLE b % 2 ^ 32) % 2 ^ 32 < 2 ^ a.log2 then
    writePtr c.src a.ring (64 * (q % 2 ^ a.log2)) (digestRecord c a q (d.watchLost a))
    pure true
  else pure false

theorem exec_watchSwitchDone {s : State} {id : Nat} {c : Cmd} {a : WatchAcc} (hcmd : s.d.cmd id = some c)
    (hfind : s.d.ch.switch.find? (fun x => decide (x.1 = id)) = some (id, a)) :
    exec (.watchSwitchDone id) s = s.go (if c.st ≠ .running ∨ s.d.coh.reqs.any (fun q => a.waits.contains q.rid) then s.d
      else s.d.runAct s.env c (digestAct s.d c a (s.d.getF F.CH_WATCH_SEQ.PRODUCED a.watch)) (fun ok d => (d.digested a.watch ok).switchOver id c.tile)) := by
  change execWatchSwitchDone id s = _
  unfold execWatchSwitchDone
  dsimp only
  rw [hcmd, hfind]
  dsimp only
  have hk : (fun (ok : Bool) (d : Die) => if ok then Die.finish { (d.incWrap F.CH_WATCH_SEQ.PRODUCED a.watch 1).setWatchLost a.watch false with
        ch.switch := ((d.incWrap F.CH_WATCH_SEQ.PRODUCED a.watch 1).setWatchLost a.watch false).ch.switch.filter (fun x => decide (x.1 ≠ id)) } id St.OK c.tile
      else Die.finish { (d.incSat F.CH_WATCH.DROPPED a.watch 1).setWatchLost a.watch true with
        ch.switch := ((d.incSat F.CH_WATCH.DROPPED a.watch 1).setWatchLost a.watch true).ch.switch.filter (fun x => decide (x.1 ≠ id)) } id St.OK c.tile) =
      fun ok d => (d.digested a.watch ok).switchOver id c.tile := by
    funext ok d
    cases ok <;> rfl
  rw [hk]
  rfl

/-- Settles O36: an opened watch by its registers, a switched one by what `switched` leaves, a digest by the answer of its accesses. -/
theorem watchesOpenSwitchAndWriteTheirDigests : Obligations.WatchesOpenSwitchAndWriteTheirDigests := by
  unfold Obligations.WatchesOpenSwitchAndWriteTheirDigests
  intro s id c d d' a b x w
  refine ⟨fun h hmode hopen hmask hptr halign htear hheld hread hblock hsome => ?_, fun row code hrow h hmode haux ha hopen hctx => ?_, fun hcmd hfind => ⟨?_, ?_⟩⟩
  · refine ⟨_, exec_watchOpen h hmode hopen hmask hptr halign htear hheld hread hblock, ?_⟩
    obtain ⟨y, hy⟩ := Option.isSome_iff_exists.1 hsome
    have henv := (actsTo_env (s := s) id c (d'.watchOpened s.env c x)).1
    have hacts := actsTo_within h (d'.watchOpened s.env c x)
    have hcmds := actsTo_cmd h (d'.watchOpened s.env c x) id
    generalize actsTo s id c (d'.watchOpened s.env c x) = t at henv hacts hcmds ⊢
    obtain ⟨ropen, rctx, repoch⟩ := Die.watchRegs_spec d' c.watch c.ctx ((d'.sliceOf c.ctx).getD 0) x.1
    have hregs := Die.watchRegs_within d' c.watch c.ctx ((d'.sliceOf c.ctx).getD 0) x.1
    unfold Die.watchOpened at hacts hcmds
    generalize d'.watchRegs c.watch c.ctx ((d'.sliceOf c.ctx).getD 0) x.1 = z at ropen rctx repoch hregs hacts hcmds
    have hset : Within { ch := true } z (z.setWatch c.watch (some { start := s.env.now, log2 := x.2.1, ring := x.2.2.1, cons := x.2.2.2 })) := Die.setWatch_within z _ _
    have hwatch : Tab.get none (z.setWatch c.watch (some { start := s.env.now, log2 := x.2.1, ring := x.2.2.1, cons := x.2.2.2 })).ch.watch c.watch =
        some { start := s.env.now, log2 := x.2.1, ring := x.2.2.1, cons := x.2.2.2 } := Tab.get_set_same none z.ch.watch c.watch (some _)
    generalize z.setWatch c.watch (some { start := s.env.now, log2 := x.2.1, ring := x.2.2.1, cons := x.2.2.2 }) = u at hset hwatch hacts hcmds
    have hfin : Within { sf := true } u (u.finish c.id St.OK 0) := Die.finish_within u _ _ _
    have hall : ∀ f i, f.reg ≠ .SF_CTX_STATUS → t.d.getF f i = z.getF f i := fun f i hf =>
      (hacts.getF f i (by simpa using hf)).trans ((hfin.getF f i).trans (hset.getF f i))
    refine ⟨bit_of_getF_one ((hall _ _ (by decide)).trans ropen), (hall _ _ (by decide)).trans rctx, (hall _ _ (by decide)).trans repoch, ?_, ?_, henv⟩
    · rw [hacts.ch, hfin.ch]
      exact hwatch
    · refine ⟨{ y with st := .done, status := St.OK, result := 0 }, ?_, rfl, rfl, rfl⟩
      rw [hcmds, h.id]
      exact Die.finish_cmd u id _ _ y ((Die.cmd_of_sf (hset.sf.trans hregs.sf) id).trans hy)
  · have hid := h.id
    have hexec := exec_watchSwitch h haux ha hopen hctx
    have hcode : ∃ close : Bool, code = (if close then 1 else 2) ∧ exec (row id) s = .next (actsTo s id c (d.switched s.env c close a)) := by
      simp only [List.mem_cons, Prod.mk.injEq, List.not_mem_nil, or_false] at hrow
      rcases hrow with ⟨rfl, rfl⟩ | ⟨rfl, rfl⟩
      · exact ⟨false, rfl, hexec.1 hmode⟩
      · exact ⟨true, rfl, hexec.2 hmode⟩
    obtain ⟨close, hclose, hrun⟩ := hcode
    obtain ⟨hcmd, hbit, hwatch, hep⟩ := Die.switched_spec (e := s.env) (close := close) (a := a) (hid.symm ▸ h.cmd) hopen
    refine ⟨_, hrun, ?_, ?_, ?_, ?_, (actsTo_env id c _).1⟩
    · rw [actsTo_cmd h, ← hid]
      exact hcmd
    · have hb := (actsTo_within h (d.switched s.env c close a)).bit F.CH_WATCH.OPEN w
      refine hb.trans (hbit.trans ?_)
      rw [hclose]
      cases close <;> rfl
    · rw [(actsTo_within h (d.switched s.env c close a)).ch]
      change Tab.get none (d.switched s.env c close a).ch.watch c.watch = none ↔ _
      rw [hwatch, hclose]
      unfold nextWatch
      cases close <;> simp
    · exact (actsTo_getF h _ _ _ (by decide)).trans hep
  · rintro ⟨q, hq, hwaits⟩
    rw [exec_watchSwitchDone hcmd hfind, if_pos (.inr (List.any_eq_true.2 ⟨q, hq, by simpa using hwaits⟩))]
    rfl
  · intro ok d₁ hst hnone htear hheld hact hsome
    obtain ⟨y, hy⟩ := Option.isSome_iff_exists.1 hsome
    have hid := Die.cmd_id s.d id c hcmd
    have hgo : ¬ (c.st ≠ .running ∨ s.d.coh.reqs.any (fun q => a.waits.contains q.rid) = true) := by
      rintro (hc | hc)
      · exact hc hst
      · obtain ⟨q, hq, hw⟩ := List.any_eq_true.1 hc
        exact hnone q hq (by simpa using hw)
    have hrun : exec (.watchSwitchDone id) s = .next { s with d := (d₁.digested a.watch ok).switchOver id c.tile } := by
      rw [exec_watchSwitchDone hcmd hfind, if_neg hgo, Die.runAct_ok s.env s.d d₁ c _ _ ok htear (hid ▸ hheld) (hid ▸ hact)]
      rfl
    obtain ⟨hsf, hprod⟩ := Die.digested_spec d₁ a.watch ok
    obtain ⟨hdone, hsw, hregs⟩ := Die.switchOver_spec (id := id) (result := c.tile) ((Die.cmd_of_sf hsf id).trans hy)
    exact ⟨_, hrun, ⟨_, hdone, rfl, rfl, rfl⟩, hsw, (hregs _ _).trans hprod, rfl⟩

end Sys2Proof.Machine
end

section
/-! PROOF. Assay (R366 to R386): the quiet count, the firmware watchdog, the security alarm, and the arming of injections. -/

-- One proof after another: all at once, they ask for more threads than the check's memory limit admits.
set_option Elab.async false

namespace Sys2Proof.Machine

/-! ### Words that are written, and parts of Assay's state -/

/-- A field that takes any write reads as written. -/
theorem Die.getF_putWord_taken (e : Env) (d : Die) (r : Reg) (i : Nat) (v : Word) (f : Fld) (hf : f ∈ r.fields) (hw : f.word = 0) (hacc : f.acc = .RW ∨ f.acc = .RWS) :
    (d.putWord e r i 0 v).getF f i = fieldOf v f.lo f.width := by
  have h := Die.getF_putWord e d r i v f hf (Reg.reg_of_mem_fields r f hf)
  rw [hw] at h
  rw [h]
  unfold Fld.written
  rcases hacc with hacc | hacc <;> rw [hacc]

theorem Within.onlyRegsRose {rs : List Reg} {s : State} {t : Die} (h : Within { regs := rs, rose := true } s.d t) : onlyRegsRose s { s with d := t } rs := by
  refine ⟨?_, h.keepsRegs⟩
  have heq : t = { s.d with regs := t.regs, rose := t.rose } := by
    have hsf := h.sf; have hsm := h.sm; have hty := h.ty; have hstu := h.stu; have hwe := h.we; have hcoh := h.coh; have hmem := h.mem
    have heng := h.eng; have hse := h.se; have hay := h.ay; have hch := h.ch; have hbt := h.bt; have hout := h.out
    have hrearmed := h.rearmed; have hctr := h.ctr; have hnid := h.nid
    obtain ⟨env, d, pending⟩ := s
    cases t; cases d
    simp only at hsf hsm hty hstu hwe hcoh hmem heng hse hay hch hbt hout hrearmed hctr hnid
    subst hsf hsm hty hstu hwe hcoh hmem heng hse hay hch hbt hout hrearmed hctr hnid
    rfl
  exact congrArg (fun d => { s with d := d }) heq

/-! ### O58: the quiet count and the watchdog -/

/-- The die once its quiet count has ended. -/
def Die.recovered (d : Die) : Die :=
  ((d.setF F.AY_STATUS.ALIVE 0 (1 - d.getF F.AY_STATUS.ALIVE 0)).setF F.AY_STATUS.STOPPED 0 0).incWrap F.AY_RECOVERY.RECOVERIES 0 1

theorem Die.recovered_within (d : Die) : Within { regs := [.AY_STATUS, .AY_RECOVERY] } d d.recovered := by
  unfold Die.recovered
  exact ((Die.setF_within d _ 0 _).trans (Die.setF_within _ _ 0 0)).trans (Die.incWrap_within _ _ 0 1)

theorem Die.recovered_spec (d : Die) :
    d.recovered.getF F.AY_STATUS.ALIVE 0 = 1 - d.getF F.AY_STATUS.ALIVE 0 ∧ d.recovered.getF F.AY_STATUS.STOPPED 0 = 0 ∧
      d.recovered.getF F.AY_STATUS.HANDLING 0 = d.getF F.AY_STATUS.HANDLING 0 ∧
      d.recovered.getF F.AY_RECOVERY.RECOVERIES 0 = (d.getF F.AY_RECOVERY.RECOVERIES 0 + 1) % 2 ^ 32 ∧
      d.recovered.getF F.AY_RECOVERY.DIE_COUNT 0 = d.getF F.AY_RECOVERY.DIE_COUNT 0 := by
  unfold Die.recovered
  generalize hx : 1 - d.getF F.AY_STATUS.ALIVE 0 = x
  have hlt : x % 2 = x := by omega
  generalize hy : (d.setF F.AY_STATUS.ALIVE 0 x).setF F.AY_STATUS.STOPPED 0 0 = y
  have hstatus : Within { regs := [.AY_STATUS] } d y := hy ▸ (Die.setF_within d _ 0 _).trans (Die.setF_within _ _ 0 0)
  have hinc : Within { regs := [.AY_RECOVERY] } y (y.incWrap F.AY_RECOVERY.RECOVERIES 0 1) := Die.incWrap_within y _ 0 1
  refine ⟨?_, ?_, ?_, ?_, ?_⟩
  · rw [hinc.getF F.AY_STATUS.ALIVE, ← hy, Die.getF_setF_apart _ _ F.AY_STATUS.ALIVE 0 _ (by decide), Die.getF_setF_same _ _ _ _ (by decide)]
    exact hlt
  · rw [hinc.getF F.AY_STATUS.STOPPED, ← hy, Die.getF_setF_same _ _ _ _ (by decide)]
    rfl
  · rw [hinc.getF F.AY_STATUS.HANDLING, ← hy, Die.getF_setF_apart _ _ F.AY_STATUS.HANDLING 0 _ (by decide),
      Die.getF_setF_apart _ _ F.AY_STATUS.HANDLING 0 _ (by decide)]
  · rw [← hstatus.getF F.AY_RECOVERY.RECOVERIES]
    exact Die.getF_setF_same _ _ _ _ (by decide)
  · rw [← hstatus.getF F.AY_RECOVERY.DIE_COUNT]
    exact Die.getF_setF_apart _ _ _ 0 _ (by decide)

theorem exec_quietEnd (s : State) : exec .quietEnd s = .next { s with d := (
    if s.d.ay.quiet ∧ !s.d.bt.inWarm ∧ s.d.getF F.AY_STATUS.QUIET_COUNT 0 ≥ s.d.quietTicks then
      { s.d.recovered with ay := { s.d.recovered.ay with quiet := false } } else s.d) } := by
  change execQuietEnd s = _
  unfold execQuietEnd
  rfl

/-- A report that may not be merged takes a place of its reporter, or its checker holds it. -/
theorem Die.report_placed (e : Env) (d : Die) (r : Report) (h : d.bit F.AY_STATUS.HANDLING 0 = false) (hm : mergeable r = false) :
    if d.placed (reporter { r with time := e.now }) < 4 then (d.report e r).ay.waiting = d.ay.waiting ++ [{ r with time := e.now }]
    else (d.report e r).ay.held = d.ay.held ++ [{ r with time := e.now }] := by
  have hx : ¬ (mergeable ({ r with time := e.now } : Report) = true ∧ (!({ r with time := e.now } : Report).self) = true) :=
    fun hc => absurd (hm.symm.trans hc.1) (by decide)
  by_cases hp : d.placed (reporter { r with time := e.now }) < 4
  · rw [if_pos hp]
    unfold Die.report
    extract_lets y
    rw [h, if_neg (by decide), if_pos hp]
  · rw [if_neg hp]
    unfold Die.report
    extract_lets y
    rw [h, if_neg (by decide), if_neg hp, if_neg hx]

/-- A write of AY_CFG leaves its fields as written, and the watchdog as WDOG_TICKS says. -/
theorem Die.ayCfg_spec (e : Env) (d : Die) (v : Word) :
    Within { regs := [.AY_CFG, .AY_WDOG], ay := true } d (d.ayCfg e v) ∧
    (∀ f ∈ Reg.AY_CFG.fields, (d.ayCfg e v).getF f 0 = fieldOf v f.lo f.width) ∧
      (fieldOf v 24 16 = 0 → (d.ayCfg e v).getF F.AY_WDOG.ARMED 0 = 0) ∧
      (fieldOf v 24 16 ≠ 0 → d.getF F.AY_CFG.WDOG_TICKS 0 = 0 → d.se.image.isSome = true → (d.ayCfg e v).getF F.AY_WDOG.ARMED 0 = 1 ∧ (d.ayCfg e v).ay.kicks = 0) ∧
      (fieldOf v 24 16 ≠ 0 → d.getF F.AY_CFG.WDOG_TICKS 0 ≠ 0 → (d.ayCfg e v).getF F.AY_WDOG.ARMED 0 = d.getF F.AY_WDOG.ARMED 0 ∧ (d.ayCfg e v).ay = d.ay) := by
  have hput : Within { regs := [.AY_CFG] } d (d.putWord e .AY_CFG 0 0 v) := Die.putWord_within e d _ 0 0 v
  have hfields : ∀ f ∈ Reg.AY_CFG.fields, (d.putWord e .AY_CFG 0 0 v).getF f 0 = fieldOf v f.lo f.width := fun f hf => by
    have hacc : ∀ f ∈ Reg.AY_CFG.fields, f.word = 0 ∧ (f.acc = .RW ∨ f.acc = .RWS) := by decide
    exact Die.getF_putWord_taken e d .AY_CFG 0 v f hf (hacc f hf).1 (hacc f hf).2
  have hticks : (d.putWord e .AY_CFG 0 0 v).getF F.AY_CFG.WDOG_TICKS 0 = fieldOf v 24 16 := hfields F.AY_CFG.WDOG_TICKS (by decide)
  unfold Die.ayCfg
  dsimp only
  generalize d.putWord e .AY_CFG 0 0 v = y at hput hfields hticks ⊢
  rw [hticks]
  have hreg : ∀ f ∈ Reg.AY_CFG.fields, ({ regs := [.AY_WDOG], ay := true } : Touch).regs.contains f.reg = false := by decide
  by_cases hzero : fieldOf v 24 16 = 0
  · have hw : Within { regs := [.AY_WDOG], ay := true } y (y.setF F.AY_WDOG.ARMED 0 0) := Die.setF_within y _ 0 0
    rw [if_pos hzero]
    exact ⟨hput.mono.trans hw.mono, fun f hf => (hw.getF f 0 (hreg f hf)).trans (hfields f hf), fun _ => Die.getF_setF_same _ _ _ _ (by decide),
      fun hne => absurd hzero hne, fun hne => absurd hzero hne⟩
  · rw [if_neg hzero]
    by_cases harm : d.getF F.AY_CFG.WDOG_TICKS 0 = 0 ∧ y.se.image.isSome = true
    · have hset : Within { regs := [.AY_WDOG] } y (y.setF F.AY_WDOG.ARMED 0 1) := Die.setF_within y _ 0 1
      have harmed : (y.setF F.AY_WDOG.ARMED 0 1).getF F.AY_WDOG.ARMED 0 = 1 := Die.getF_setF_same _ _ _ _ (by decide)
      rw [if_pos harm]
      generalize y.setF F.AY_WDOG.ARMED 0 1 = z at hset harmed ⊢
      have hkick : Within { ay := true } z { z with ay := { z.ay with kicks := 0 } } := Die.setAy_within z _
      exact ⟨(hput.mono.trans hset.mono).trans hkick.mono, fun f hf => (hkick.getF f 0).trans ((hset.mono.getF f 0 (hreg f hf)).trans (hfields f hf)),
        fun hz => absurd hz hzero, fun _ _ _ => ⟨(hkick.getF _ 0).trans harmed, rfl⟩, fun _ hne => absurd harm.1 hne⟩
    · rw [if_neg harm]
      refine ⟨hput.mono, hfields, fun hz => absurd hz hzero, fun _ hold himage => absurd ⟨hold, ?_⟩ harm, fun _ _ => ⟨hput.getF _ 0, hput.ay⟩⟩
      rw [hput.se]
      exact himage

/-! ### O58: injections -/

/-- The fields of AY_INJECT as a write of `v` leaves them, but for ARM. -/
theorem Die.getF_putWord_inject (e : Env) (d : Die) (v : Word) (f : Fld) (hf : f ∈ Reg.AY_INJECT.fields) :
    (d.putWord e .AY_INJECT 0 0 v).getF f 0 = fieldOf v f.lo f.width := by
  have hacc : ∀ f ∈ Reg.AY_INJECT.fields, f.word = 0 ∧ f.acc = .RW := by decide
  exact Die.getF_putWord_rw e d .AY_INJECT 0 v f hf (hacc f hf).1 (hacc f hf).2

/-- An injection that is refused as it is armed. -/
def Die.injectRefused (e : Env) (d : Die) (v : Word) : Die :=
  ((d.putWord e .AY_INJECT 0 0 v).setF F.AY_INJECT.ARM 0 0).setEv F.AY_INJECT_STATUS.REFUSED 0

theorem Die.injectRefused_spec (e : Env) (d : Die) (v : Word) :
    Within { regs := [.AY_INJECT, .AY_INJECT_STATUS], rose := true } d (d.injectRefused e v) ∧
    (d.injectRefused e v).getF F.AY_INJECT.KIND 0 = fieldOf v 0 2 ∧ (d.injectRefused e v).getF F.AY_INJECT.SYMBOLS 0 = fieldOf v 2 2 ∧
      (d.injectRefused e v).getF F.AY_INJECT.ARM 0 = 0 ∧ (d.injectRefused e v).getF F.AY_INJECT.INSTANCE 0 = fieldOf v 8 8 ∧
      (d.injectRefused e v).getF F.AY_INJECT.CAUSE 0 = fieldOf v 16 16 ∧ (d.injectRefused e v).getF F.AY_INJECT_STATUS.REFUSED 0 = 1 := by
  have hput : Within { regs := [.AY_INJECT] } d (d.putWord e .AY_INJECT 0 0 v) := Die.putWord_within e d _ 0 0 v
  have hfields := Die.getF_putWord_inject e d v
  unfold Die.injectRefused
  generalize d.putWord e .AY_INJECT 0 0 v = y at hput hfields ⊢
  generalize hz : y.setF F.AY_INJECT.ARM 0 0 = z
  have hset : Within { regs := [.AY_INJECT] } y z := hz ▸ Die.setF_within y _ 0 0
  have hev : Within { regs := [.AY_INJECT_STATUS], rose := true } z (z.setEv F.AY_INJECT_STATUS.REFUSED 0) := Die.setEv_within z _ 0
  have hkeep : ∀ f ∈ Reg.AY_INJECT.fields, Fld.apart F.AY_INJECT.ARM f = true → z.getF f 0 = fieldOf v f.lo f.width := fun f hf hap => by
    rw [← hz, Die.getF_setF_apart _ _ f 0 _ hap]
    exact hfields f hf
  refine ⟨(hput.mono.trans hset.mono).trans hev.mono, (hev.getF F.AY_INJECT.KIND 0).trans (hkeep _ (by decide) (by decide)),
    (hev.getF F.AY_INJECT.SYMBOLS 0).trans (hkeep _ (by decide) (by decide)), (hev.getF F.AY_INJECT.ARM 0).trans ?_,
    (hev.getF F.AY_INJECT.INSTANCE 0).trans (hkeep _ (by decide) (by decide)), (hev.getF F.AY_INJECT.CAUSE 0).trans (hkeep _ (by decide) (by decide)),
    Die.getF_setEv_bit _ _ 0 rfl (by decide)⟩
  rw [← hz]
  exact Die.getF_setF_same _ _ _ _ (by decide)

theorem exec_ayInject {s : State} {who : Who} {v : Word} (hmay : s.d.mayInject who = true) (hgate : s.d.barGate s.env who .AY_INJECT 0 = none) :
    exec (.ayInject who v) s = .next { s with d := s.d.inject s.env v } := by
  change execAyInject who v s = _
  unfold execAyInject
  rw [hmay, if_pos rfl, Die.barWrite_of_gate _ hgate]
  rfl

/-- Settles O58: each part by the one condition of its row. -/
theorem quietWatchdogAlarmAndInjections : Obligations.QuietWatchdogAlarmAndInjections := by
  unfold Obligations.QuietWatchdogAlarmAndInjections
  refine ⟨?_, ?_, ?_⟩
  · intro s due
    rw [exec_quietEnd]
    refine ⟨fun ⟨hquiet, hwarm, hticks⟩ => ?_, fun hdue => ?_⟩
    · obtain ⟨halive, hstopped, hhandling, hrec, hcount⟩ := Die.recovered_spec s.d
      have hw := Die.recovered_within s.d
      rw [if_pos ⟨hquiet, by rw [hwarm]; rfl, hticks⟩]
      generalize s.d.recovered = y at halive hstopped hhandling hrec hcount hw ⊢
      have hay : Within { ay := true } y { y with ay := { y.ay with quiet := false } } := Die.setAy_within y _
      have hall : Within { regs := [.AY_STATUS, .AY_RECOVERY], ay := true } s.d { y with ay := { y.ay with quiet := false } } := hw.mono.trans hay.mono
      exact ⟨_, rfl, (hay.getF _ 0).trans halive, (hay.getF _ 0).trans hstopped, (hay.getF _ 0).trans hhandling, (hay.getF _ 0).trans hrec,
        (hay.getF _ 0).trans hcount, rfl, hall.keepsRegs, hall.mem, rfl⟩
    · rw [if_neg]
      rintro ⟨hquiet, hwarm, hticks⟩
      exact hdue ⟨hquiet, by simpa using hwarm, hticks⟩
  · intro s who v
    refine ⟨fun hgate => ?_, ⟨fun ⟨harmed, hn, hkicks⟩ hhandling => ?_, fun hdue => ?_⟩, fun hgate => ?_, fun hgate => ?_⟩
    · have hexec : exec (.wdogKick who v) s = .next { s with d := (if fieldOf v 0 1 = 1 then { s.d with ay := { s.d.ay with kicks := 0 } } else s.d) } := by
        change execWdogKick who v s = _
        unfold execWdogKick
        rw [Die.barWrite_of_gate _ hgate]
        rfl
      rw [hexec]
      exact ⟨fun hv => by rw [if_pos hv], fun hv => by rw [if_neg (by omega)]⟩
    · have hexec : exec .wdogExpiry s = .next { s with d := (s.d.setF F.AY_WDOG.ARMED 0 0).report s.env { cause := Cs.FW_WDOG, inst := 0, det0 := s.d.ay.kicks } } := by
        change execWdogExpiry s = _
        unfold execWdogExpiry
        dsimp only
        rw [if_pos ⟨harmed, hn, hkicks⟩]
        rfl
      refine ⟨_, { cause := Cs.FW_WDOG, inst := 0, det0 := s.d.ay.kicks, time := s.env.now }, hexec, ?_⟩
      have hset : Within { regs := [.AY_WDOG] } s.d (s.d.setF F.AY_WDOG.ARMED 0 0) := Die.setF_within s.d _ 0 0
      have harm : (s.d.setF F.AY_WDOG.ARMED 0 0).getF F.AY_WDOG.ARMED 0 = 0 := Die.getF_setF_same _ _ _ _ (by decide)
      generalize s.d.setF F.AY_WDOG.ARMED 0 0 = y at hset harm ⊢
      have hrep : Within { regs := [.AY_STATUS], ay := true } y (y.report s.env { cause := Cs.FW_WDOG, inst := 0, det0 := s.d.ay.kicks }) := Die.report_within s.env y _
      have hplace := Die.report_placed s.env y { cause := Cs.FW_WDOG, inst := 0, det0 := s.d.ay.kicks } ((hset.bit _ 0).trans hhandling) rfl
      have hall : Within { regs := [.AY_WDOG, .AY_STATUS], ay := true } s.d (y.report s.env { cause := Cs.FW_WDOG, inst := 0, det0 := s.d.ay.kicks }) :=
        hset.mono.trans hrep.mono
      unfold Die.placed at hplace ⊢
      rw [hset.ay] at hplace
      exact ⟨(hrep.getF _ 0).trans harm, hplace, rfl, rfl, hall.keepsRegs, hall.mem, rfl⟩
    · change execWdogExpiry s = _
      unfold execWdogExpiry
      dsimp only
      rw [if_neg hdue]
      rfl
    · have hexec : exec (.ayCfgWrite who v) s = .next { s with d := s.d.ayCfg s.env v } := by
        change execAyCfgWrite who v s = _
        unfold execAyCfgWrite
        rw [Die.barWrite_of_gate _ hgate]
        rfl
      obtain ⟨hw, hfields, hzero, harm, hkeep⟩ := Die.ayCfg_spec s.env s.d v
      exact ⟨_, hexec, hfields F.AY_CFG.QUIET_TICKS (by decide), hfields F.AY_CFG.RECOVERY_LIMIT (by decide), hfields F.AY_CFG.WDOG_TICKS (by decide),
        hfields F.AY_CFG.MSIX_VECTOR (by decide), hfields F.AY_CFG.CE_NOTIFY (by decide), hzero, harm, hkeep, hw.keepsRegs, hw.mem, rfl⟩
    · have hexec : exec (.secAlarmClear who v) s = .next { s with d := s.d.putWord s.env .AY_ALARM 0 0 v } := by
        change execSecAlarmClear who v s = _
        unfold execSecAlarmClear
        rw [Die.barWrite_of_gate _ hgate]
        rfl
      refine ⟨_, hexec, Within.onlyRegs (Die.putWord_within s.env s.d _ 0 0 v), ?_⟩
      have hclear := Die.getF_putWord_w1c s.env s.d .AY_ALARM 0 v F.AY_ALARM.SEC_ALARM (by decide) rfl rfl rfl (by decide)
      refine hclear.trans ?_
      change _ * (if _ then 1 else 1 - fieldOf v 0 1) = _
      have hv := fieldOf_lt v 0 1
      cases s.d.risen F.AY_ALARM.SEC_ALARM 0
      · interval_cases fieldOf v 0 1 <;> simp
      · simp
  · intro s who v takes
    refine ⟨fun hmay => ?_, fun hmay hgate => ?_⟩
    · change execAyInject who v s = _
      unfold execAyInject
      rw [hmay]
      rfl
    · rw [exec_ayInject hmay hgate]
      have hput : Within { regs := [.AY_INJECT] } s.d (s.d.putWord s.env .AY_INJECT 0 0 v) := Die.putWord_within s.env s.d _ 0 0 v
      have hfields := Die.getF_putWord_inject s.env s.d v
      have htakes : ∀ arm, fieldOf v 4 1 = arm → takes (s.d.putWord s.env .AY_INJECT 0 0 v) arm := fun arm harm =>
        ⟨hfields F.AY_INJECT.KIND (by decide), hfields F.AY_INJECT.SYMBOLS (by decide), (hfields F.AY_INJECT.ARM (by decide)).trans harm,
          hfields F.AY_INJECT.INSTANCE (by decide), hfields F.AY_INJECT.CAUSE (by decide)⟩
      have hline := hput.getF F.AY_INJECT_ADDR.LINE 0
      unfold Die.inject
      dsimp only
      refine ⟨fun hv => ?_, fun hv harmed => ?_, fun hv harmed hok => ⟨fun hk => ?_, fun hk => ?_⟩, fun hv harmed hok => ?_⟩
      · rw [if_pos hv]
        exact ⟨_, rfl, htakes 0 hv, hput.onlyRegs⟩
      · rw [if_neg (by omega), if_pos harmed]
        exact ⟨_, rfl, Die.getF_setEv_bit _ _ 0 rfl (by decide), Within.onlyRegsRose (Die.setEv_within s.d _ 0)⟩
      · rw [if_neg (by omega), harmed, if_neg (by decide), if_pos hok, if_neg hk]
        exact ⟨_, rfl, htakes 1 hv, hput.onlyRegs⟩
      · rw [if_neg (by omega), harmed, if_neg (by decide), if_pos hok, if_pos hk]
        have hdone := htakes 1 hv
        generalize s.d.putWord s.env .AY_INJECT 0 0 v = y at hput hline hdone ⊢
        exact ⟨{ s with d := y }, hdone, hput.onlyRegs, congrArg (fun l => Host.Outcome.next { s with d := y.mcArrive s.env l (.inject l (fieldOf v 2 2)) }) hline⟩
      · rw [if_neg (by omega), harmed, if_neg (by decide), hok, if_neg (by decide)]
        obtain ⟨hw, hkind, hsym, harm, hinst, hcause, href⟩ := Die.injectRefused_spec s.env s.d v
        exact ⟨{ s with d := s.d.injectRefused s.env v }, rfl, ⟨hkind, hsym, harm, hinst, hcause⟩, href, hw.onlyRegsRose⟩

end Sys2Proof.Machine
end

section
/-! PROOF. Reports and their records (R366 to R378): how a bank takes a report, what a report of each class leaves, the stop of the die, and
the re-arming of a bank. -/

-- One proof after another: all at once, they ask for more threads than the check's memory limit admits.
set_option Elab.async false

namespace Sys2Proof.Machine

/-! ### Fields of one element that are set one after another -/

/-- Two fields of one register are the same, or share no bit. -/
def Fld.aside (f g : Fld) : Bool := decide (g.word ≠ f.word) || decide (g.lo + g.width ≤ f.lo) || decide (f.lo + f.width ≤ g.lo)

/-- The fields of a list set in turn. -/
def Die.setAll (d : Die) (i : Nat) (l : List (Fld × Nat)) : Die := l.foldl (fun d x => d.setF x.1 i x.2) d

/-- What a field of an element reads as after the fields of a list have been set, if it read as `old` before. -/
def readBack (l : List (Fld × Nat)) (g : Fld) (old : Nat) : Nat := l.foldl (fun n x => bif x.1.aside g then n else x.2 % 2 ^ g.width) old

theorem Die.getF_setAll (d : Die) (i : Nat) (l : List (Fld × Nat)) (g : Fld) (hreg : ∀ x ∈ l, x.1.reg = g.reg)
    (h : l.all (fun x => decide (x.1.lo + x.1.width ≤ 64) && (x.1.aside g || (x.1.word == g.word && x.1.lo == g.lo && x.1.width == g.width))) = true) :
    (d.setAll i l).getF g i = readBack l g (d.getF g i) := by
  induction l generalizing d with
  | nil => rfl
  | cons x l ih =>
    rw [List.all_cons, Bool.and_eq_true] at h
    obtain ⟨hx, hl⟩ := h
    rw [Bool.and_eq_true] at hx
    obtain ⟨hwidth, hx⟩ := hx
    have hr := hreg x (List.mem_cons_self ..)
    have hstep : (d.setF x.1 i x.2).getF g i = bif x.1.aside g then d.getF g i else x.2 % 2 ^ g.width := by
      cases haside : x.1.aside g with
      | true =>
        refine Die.getF_setF_ne d x.1 g i i x.2 (of_decide_eq_true hwidth) ?_
        unfold Fld.aside at haside
        simp only [Bool.or_eq_true, decide_eq_true_eq] at haside
        by_cases hword : g.word = x.1.word
        · rcases haside with (h | h) | h
          · exact absurd hword h
          · exact .inr (.inr ⟨hword, .inl h⟩)
          · exact .inr (.inr ⟨hword, .inr h⟩)
        · exact .inr (.inl (by omega))
      | false =>
        rw [haside, Bool.false_or] at hx
        simp only [Bool.and_eq_true, beq_iff_eq] at hx
        obtain ⟨⟨hw, hlo⟩, hwid⟩ := hx
        have hsame : (d.setF x.1 i x.2).getF g i = (d.setF x.1 i x.2).getF x.1 i := by
          unfold Die.getF
          rw [← hr, ← hw, ← hlo, ← hwid]
        rw [hsame, Die.getF_setF_same _ _ _ _ (of_decide_eq_true hwidth), hwid]
        rfl
    change ((d.setF x.1 i x.2).setAll i l).getF g i = readBack l g (bif x.1.aside g then d.getF g i else x.2 % 2 ^ g.width)
    rw [ih _ (fun y hy => hreg y (List.mem_cons_of_mem _ hy)) hl, hstep]

theorem Die.setAll_within {p : Touch} (i : Nat) (b : Reg) (hp : p.regs.contains b = true) (l : List (Fld × Nat)) (h : ∀ x ∈ l, x.1.reg = b) (d : Die) :
    Within p d (d.setAll i l) := by
  induction l generalizing d with
  | nil => exact .refl d
  | cons x l ih =>
    have hx : x.1.reg = b := h x (List.mem_cons_self ..)
    exact (Die.setF_within d x.1 i x.2 (hx ▸ hp)).trans (ih (fun y hy => h y (List.mem_cons_of_mem _ hy)) _)

theorem Die.reg_clearElem_lt (d : Die) (r : Reg) (i w : Nat) (h : w < r.layout.words) : (d.clearElem r i).reg r i w = r.resetWord w := by
  unfold Die.clearElem
  generalize r.layout.words = n at h
  induction n with
  | zero => omega
  | succ n ih =>
    rw [List.range_succ, List.foldl_append]
    change (Die.setReg _ r i n (r.resetWord n)).reg r i w = _
    by_cases hw : w = n
    · rw [hw]
      exact Die.reg_setReg_same _ _ _ _ _
    · rw [Die.reg_setReg_ne _ _ _ _ _ _ _ _ (.inr (fun hc => hw (by omega)))]
      exact ih (by omega)

/-! ### The banks -/

/-- The record banks. -/
def recordBanks : List Reg := [.AY_DIE_REC, .AY_CE_REC, .AY_SEC_REC, .AY_INJ_REC, .AY_CTX_REC, .AY_SLICE_REC]

theorem recordBanks_layout : ∀ b ∈ recordBanks, b.layout.words = 8 ∧ ∀ w < 8, b.resetWord w = 0 := by decide

/-- The fields that an empty bank takes from a report. -/
def wholeRecord (b : Reg) (r : Report) (cls : Nat) : List (Fld × Nat) :=
  [(F.REC.CLASS b, cls), (F.REC.WORST b, cls), (F.REC.SECURITY b, Bool.num ((causeRow r.cause).sec && !r.self)), (F.REC.INJECTED b, Bool.num (r.inj || r.self)),
    (F.REC.ADDR_VALID b, Bool.num r.addr.isSome), (F.REC.ADDR b, r.addr.getD 0), (F.REC.CTX_VALID b, Bool.num r.ctx.isSome), (F.REC.CONTEXT b, r.ctx.getD 0),
    (F.REC.SLICE_VALID b, Bool.num r.slice.isSome), (F.REC.SLICE b, r.slice.getD 0), (F.REC.CAUSE b, (causeRow r.cause).code), (F.REC.UNIT b, unitCode r),
    (F.REC.INSTANCE b, r.inst), (F.REC.DETAIL0 b, r.det0), (F.REC.DETAIL1 b, r.det1), (F.REC.TIME b, r.time)]

/-- The fields that a valid bank counts a report in; `n` and `worst` are its overflow count and worst class before. -/
def overflowRecord (b : Reg) (r : Report) (cls n worst : Nat) : List (Fld × Nat) :=
  [(F.REC.OVERFLOW b, 1), (F.REC.OVERFLOW_COUNT b, satAdd 16 n 1), (F.REC.LAST_TIME b, r.time), (F.REC.LAST_CAUSE b, (causeRow r.cause).code), (F.REC.WORST b, max cls worst)]

/-- A report reaches a bank as it was before it was re-armed in this cycle, if it was. -/
def Die.take (d : Die) (b : Reg) (i : Nat) (r : Report) (cls : Nat) : Die :=
  if d.bit (F.REC.VALID b) i then
    (d.setEv (F.REC.VALID b) i).setAll i (overflowRecord b r cls (d.getF (F.REC.OVERFLOW_COUNT b) i) (d.getF (F.REC.WORST b) i))
  else ((d.clearElem b i).setEv (F.REC.VALID b) i).setAll i (wholeRecord b r cls)

theorem Die.getF_setEv_aside (d : Die) (f g : Fld) (i : Nat) (hreg : f.reg = g.reg) (hw : f.lo + f.width ≤ 64) (h : f.aside g = true) :
    (d.setEv f i).getF g i = d.getF g i := by
  have hset := Die.getF_setAll d i [(f, d.getF f i ||| 1)] g (by simpa using hreg) (by simp [h, hw])
  unfold readBack at hset
  simp only [List.foldl_cons, List.foldl_nil, h, cond_true] at hset
  exact hset

theorem Die.reach_eq (d : Die) (b : Reg) (i : Nat) (r : Report) (cls : Nat) : d.reach b i r cls = (d.unrearm b i).take b i r cls := by
  unfold Die.reach Die.take
  generalize d.unrearm b i = y
  have hcount : ((y.setEv (F.REC.VALID b) i).setF (F.REC.OVERFLOW b) i 1).getF (F.REC.OVERFLOW_COUNT b) i = y.getF (F.REC.OVERFLOW_COUNT b) i :=
    (Die.getF_setAll _ i [(F.REC.OVERFLOW b, 1)] (F.REC.OVERFLOW_COUNT b) (by simp) rfl).trans (Die.getF_setEv_aside _ _ _ _ rfl (Nat.le_of_ble_eq_true rfl) rfl)
  have hworst : ∀ n, ((y.setEv (F.REC.VALID b) i).setAll i [(F.REC.OVERFLOW b, 1), (F.REC.OVERFLOW_COUNT b, n), (F.REC.LAST_TIME b, r.time),
      (F.REC.LAST_CAUSE b, (causeRow r.cause).code)]).getF (F.REC.WORST b) i = y.getF (F.REC.WORST b) i := fun n =>
    (Die.getF_setAll _ i _ (F.REC.WORST b) (by simp) rfl).trans (Die.getF_setEv_aside _ _ _ _ rfl (Nat.le_of_ble_eq_true rfl) rfl)
  dsimp only
  split
  · unfold Die.incSat
    rw [hcount]
    exact congrArg (fun n => Die.setF _ (F.REC.WORST b) i (max cls n)) (hworst (satAdd 16 (y.getF (F.REC.OVERFLOW_COUNT b) i) 1))
  · rfl

theorem Die.take_within {p : Touch} (d : Die) (b : Reg) (i : Nat) (r : Report) (cls : Nat) (hr : p.regs.contains b = true := by rfl) (hp : p.rose = true := by rfl) :
    Within p d (d.take b i r cls) := by
  unfold Die.take
  split
  · exact (Die.setEv_within d _ i hr hp).trans (Die.setAll_within i b hr _ (by simp [overflowRecord]) _)
  · exact ((Die.clearElem_within d b i hr).trans (Die.setEv_within _ _ i hr hp)).trans (Die.setAll_within i b hr _ (by simp [wholeRecord]) _)

/-- A bank that takes a report holds it as R374 says. -/
theorem Die.take_banked (d : Die) (b : Reg) (hb : b ∈ recordBanks) (i : Nat) (r : Report) (cls : Nat) : banked d (d.take b i r cls) b i r cls := by
  obtain ⟨hwords, hzero⟩ := recordBanks_layout b hb
  unfold Die.take
  refine ⟨fun hv => ?_, fun hv => ?_⟩
  · rw [hv, if_neg (by decide)]
    have hclear : ∀ f : Fld, f.reg = b → f.word < 8 → (d.clearElem b i).getF f i = 0 := fun f hf hw => by
      unfold Die.getF
      rw [hf, Die.reg_clearElem_lt d b i f.word (hwords ▸ hw), hzero f.word hw]
      unfold fieldOf
      simp
    have hbool : ∀ x : Bool, Bool.num x % 2 = Bool.num x := fun x => by cases x <;> rfl
    have hset : ∀ g : Fld, g.reg = b → _ → ((( d.clearElem b i).setEv (F.REC.VALID b) i).setAll i (wholeRecord b r cls)).getF g i =
        readBack (wholeRecord b r cls) g (((d.clearElem b i).setEv (F.REC.VALID b) i).getF g i) := fun g hg h =>
      Die.getF_setAll _ i _ g (by simp [wholeRecord, hg]) h
    refine ⟨?_, hset _ rfl rfl, hset _ rfl rfl, hset _ rfl rfl, hset _ rfl rfl, hset _ rfl rfl, hset _ rfl rfl, hset _ rfl rfl, hset _ rfl rfl, ?_, hset _ rfl rfl, ?_,
      hset _ rfl rfl, ?_, hset _ rfl rfl, ?_, ?_⟩
    · exact (hset _ rfl rfl).trans (Die.getF_setEv_bit _ _ i rfl (Nat.le_of_ble_eq_true rfl))
    · exact (hset _ rfl rfl).trans (hbool _)
    · exact (hset _ rfl rfl).trans (hbool _)
    · exact (hset _ rfl rfl).trans (hbool _)
    · exact (hset _ rfl rfl).trans ((Die.getF_setEv_aside _ (F.REC.VALID b) (F.REC.OVERFLOW b) _ rfl (Nat.le_of_ble_eq_true rfl) rfl).trans (hclear (F.REC.OVERFLOW b) rfl (Nat.le_of_ble_eq_true rfl)))
    · exact (hset _ rfl rfl).trans ((Die.getF_setEv_aside _ (F.REC.VALID b) (F.REC.OVERFLOW_COUNT b) _ rfl (Nat.le_of_ble_eq_true rfl) rfl).trans (hclear (F.REC.OVERFLOW_COUNT b) rfl (Nat.le_of_ble_eq_true rfl)))
  · rw [hv, if_pos rfl]
    generalize hl : overflowRecord b r cls (d.getF (F.REC.OVERFLOW_COUNT b) i) (d.getF (F.REC.WORST b) i) = l
    have hset : ∀ g : Fld, g.reg = b → _ → ((d.setEv (F.REC.VALID b) i).setAll i l).getF g i = readBack l g ((d.setEv (F.REC.VALID b) i).getF g i) := fun g hg h =>
      Die.getF_setAll _ i _ g (by simp [← hl, overflowRecord, hg]) h
    subst hl
    have hkeep : ∀ g : Fld, g.reg = b → (F.REC.VALID b).aside g = true → (d.setEv (F.REC.VALID b) i).getF g i = d.getF g i := fun g hg h =>
      Die.getF_setEv_aside _ _ _ _ hg.symm (Nat.le_of_ble_eq_true rfl) h
    refine ⟨(hset _ rfl rfl).trans (Die.getF_setEv_bit _ _ i rfl (Nat.le_of_ble_eq_true rfl)), ?_, hset _ rfl rfl, ?_, hset _ rfl rfl, hset _ rfl rfl, hset _ rfl rfl⟩
    · intro f hf
      simp only [List.mem_cons, List.not_mem_nil, or_false] at hf
      rcases hf with rfl | rfl | rfl | rfl | rfl | rfl | rfl | rfl | rfl <;> exact (hset _ rfl rfl).trans (hkeep _ rfl rfl)
    · refine (hset _ rfl rfl).trans ?_
      change satAdd 16 _ 1 % 2 ^ 16 = _
      unfold satAdd
      omega

/-! ### Banks that a write of this cycle has re-armed -/

/-- The words of a bank as a report of this cycle finds them are read alike in two dies. -/
def sameBank (d t : Die) (b : Reg) (i : Nat) : Prop :=
  (∀ w, t.reg b i w = d.reg b i w) ∧
    t.rearmed.find? (fun x => decide (x.1 = b.ctorIdx ∧ x.2.1 = i)) = d.rearmed.find? (fun x => decide (x.1 = b.ctorIdx ∧ x.2.1 = i))

theorem sameBank.trans {d t u : Die} {b : Reg} {i : Nat} (h : sameBank d t b i) (h' : sameBank t u b i) : sameBank d u b i :=
  ⟨fun w => (h'.1 w).trans (h.1 w), h'.2.trans h.2⟩

theorem Within.sameBank {p : Touch} {d t : Die} (h : Within p d t) (b : Reg) (i : Nat) (hb : p.regs.contains b = false := by rfl) (hp : p.rearmed = false := by rfl) :
    sameBank d t b i :=
  ⟨fun w => h.reg b i w hb, by rw [h.rearmed hp]⟩

theorem Die.reg_foldl_setReg_congr {d t : Die} (b : Reg) (i : Nat) (l : List (Word × Nat)) (h : ∀ w, t.reg b i w = d.reg b i w) (w : Nat) :
    (l.foldl (fun d x => d.setReg b i x.2 x.1) t).reg b i w = (l.foldl (fun d x => d.setReg b i x.2 x.1) d).reg b i w := by
  induction l generalizing d t with
  | nil => exact h w
  | cons x l ih =>
    refine ih (fun w' => ?_)
    by_cases hw : w' = x.2
    · rw [hw, Die.reg_setReg_same, Die.reg_setReg_same]
    · rw [Die.reg_setReg_ne _ _ _ _ _ _ _ _ (.inr (fun hc => hw (by omega))), Die.reg_setReg_ne _ _ _ _ _ _ _ _ (.inr (fun hc => hw (by omega)))]
      exact h w'

theorem sameBank.unrearm {d t : Die} {b : Reg} {i : Nat} (h : sameBank d t b i) (w : Nat) : (t.unrearm b i).reg b i w = (d.unrearm b i).reg b i w := by
  obtain ⟨hreg, hfind⟩ := h
  unfold Die.unrearm
  rw [hfind]
  cases d.rearmed.find? (fun x => decide (x.1 = b.ctorIdx ∧ x.2.1 = i)) with
  | none => exact hreg w
  | some x => exact Die.reg_foldl_setReg_congr b i x.2.2.zipIdx hreg w

theorem Die.setRearmed_within {p : Touch} (d : Die) (l : List (Nat × Nat × List Word)) (hp : p.rearmed = true := by rfl) : Within p d { d with rearmed := l } :=
  .of_eq rfl (by unfold Touch.leaves; rw [hp]; rfl)

theorem Die.unrearm_within {p : Touch} (d : Die) (b : Reg) (i : Nat) (hr : p.regs.contains b = true := by rfl) (hp : p.rearmed = true := by rfl) :
    Within p d (d.unrearm b i) := by
  unfold Die.unrearm
  split
  next x _ =>
    have hwords : Within p d (x.2.2.zipIdx.foldl (fun (d : Die) (w : Word × Nat) => d.setReg b i w.2 w.1) d) :=
      Within.foldl (fun (d : Die) (w : Word × Nat) => d.setReg b i w.2 w.1) (fun d w => Die.setReg_within d b i w.2 w.1 hr) _ d
    dsimp only
    generalize x.2.2.zipIdx.foldl (fun (d : Die) (w : Word × Nat) => d.setReg b i w.2 w.1) d = y at hwords ⊢
    exact hwords.trans (Die.setRearmed_within y (d.rearmed.erase x) hp)
  next => exact .refl d

theorem find?_erase_of_not {α : Type} [BEq α] [LawfulBEq α] (l : List α) (x : α) (q : α → Bool) (h : q x = false) : (l.erase x).find? q = l.find? q := by
  induction l with
  | nil => rfl
  | cons y l ih =>
    by_cases hy : y = x
    · subst hy
      rw [List.erase_cons_head, List.find?_cons, h]
    · rw [List.erase_cons_tail (by simpa using hy), List.find?_cons, List.find?_cons, ih]

/-- A report that reaches another bank leaves this one as it was found. -/
theorem Die.reach_sameBank (d : Die) {b b' : Reg} (hne : b ≠ b') (i j : Nat) (r : Report) (cls : Nat) : sameBank d (d.reach b' j r cls) b i := by
  rw [Die.reach_eq]
  have hno : ([b'] : List Reg).contains b = false := by simpa using hne
  have hyes : ([b'] : List Reg).contains b' = true := by simp
  have htake : Within { regs := [b'], rose := true } (d.unrearm b' j) ((d.unrearm b' j).take b' j r cls) := Die.take_within _ b' j r cls hyes
  have hun : Within { regs := [b'], rearmed := true } d (d.unrearm b' j) := Die.unrearm_within d b' j hyes
  refine sameBank.trans ⟨fun w => hun.reg b i w hno, ?_⟩ (htake.sameBank b i hno)
  unfold Die.unrearm
  split
  next x hx =>
    change (d.rearmed.erase x).find? _ = _
    refine find?_erase_of_not _ x _ ?_
    have hkey := List.find?_some hx
    simp only [decide_eq_true_eq] at hkey
    refine decide_eq_false (fun hc => hne ?_)
    exact Reg.ctorIdx_inj _ _ (hc.1.symm.trans hkey.1)
  next => rfl

theorem Die.reach_within {p : Touch} (d : Die) (b : Reg) (i : Nat) (r : Report) (cls : Nat) (hr : p.regs.contains b = true := by rfl) (hp : p.rose = true := by rfl)
    (hq : p.rearmed = true := by rfl) : Within p d (d.reach b i r cls) := by
  rw [Die.reach_eq]
  exact (Die.unrearm_within d b i hr hq).trans (Die.take_within _ b i r cls hr hp)

theorem Die.bit_congr {d t : Die} {b : Reg} {i : Nat} (h : ∀ w, t.reg b i w = d.reg b i w) (f : Fld) (hf : f.reg = b) : t.getF f i = d.getF f i := by
  unfold Die.getF
  rw [hf, h]

/-- What a bank holds is read from its own words alone. -/
theorem banked_congr {d d' t t' : Die} {b : Reg} {i : Nat} {r : Report} {cls : Nat} (h : ∀ w, d'.reg b i w = d.reg b i w) (h' : ∀ w, t'.reg b i w = t.reg b i w)
    (hb : banked d t b i r cls) : banked d' t' b i r cls := by
  have hd : ∀ f : Fld, f.reg = b → d'.getF f i = d.getF f i := Die.bit_congr h
  have ht : ∀ f : Fld, f.reg = b → t'.getF f i = t.getF f i := Die.bit_congr h'
  have hbit : d'.bit (F.REC.VALID b) i = d.bit (F.REC.VALID b) i := by
    unfold Die.bit
    rw [hd _ rfl]
  unfold banked at hb ⊢
  rw [hbit]
  refine ⟨fun hv => ?_, fun hv => ?_⟩
  · obtain ⟨h1, h2, h3, h4, h5, h6, h7, h8, h9, h10, h11, h12, h13, h14, h15, h16, h17⟩ := hb.1 hv
    exact ⟨(ht _ rfl).trans h1, (ht _ rfl).trans h2, (ht _ rfl).trans h3, (ht _ rfl).trans h4, (ht _ rfl).trans h5, (ht _ rfl).trans h6, (ht _ rfl).trans h7,
      (ht _ rfl).trans h8, (ht _ rfl).trans h9, (ht _ rfl).trans h10, (ht _ rfl).trans h11, (ht _ rfl).trans h12, (ht _ rfl).trans h13, (ht _ rfl).trans h14,
      (ht _ rfl).trans h15, (ht _ rfl).trans h16, (ht _ rfl).trans h17⟩
  · obtain ⟨h1, h2, h3, h4, h5, h6, h7⟩ := hb.2 hv
    refine ⟨(ht _ rfl).trans h1, fun f hf => ?_, (ht _ rfl).trans h3, (ht _ rfl).trans ?_, (ht _ rfl).trans h5, (ht _ rfl).trans h6, (ht _ rfl).trans ?_⟩
    · have hfb : f.reg = b := by
        simp only [List.mem_cons, List.not_mem_nil, or_false] at hf
        rcases hf with rfl | rfl | rfl | rfl | rfl | rfl | rfl | rfl | rfl <;> rfl
      rw [ht f hfb, hd f hfb]
      exact h2 f hf
    · rw [hd (F.REC.OVERFLOW_COUNT b) rfl]
      exact h4
    · rw [hd (F.REC.WORST b) rfl]
      exact h7

end Sys2Proof.Machine
end

section
/-! PROOF. Footprints of what stops a context or a slice (R109, R145), and of transactions at the host port. -/

-- One proof after another: all at once, they ask for more threads than the check's memory limit admits.
set_option Elab.async false

namespace Sys2Proof.Machine

/-! ### Clusters and kernels -/

theorem Die.claimsDone_within (d : Die) : Within { regs := [.SM_SLICE], sm := true } d d.claimsDone := by
  unfold Die.claimsDone
  refine .foldl _ (fun y s => ?_) _ _
  split
  · exact (Die.setF_within y F.SM_SLICE.CLUSTERS_PENDING s 0).trans (Die.setSm_within (y.setF F.SM_SLICE.CLUSTERS_PENDING s 0) _)
  · exact .refl y

/-- What freeing clusters may change. -/
def freeTouch : Touch := { regs := [.TY_CLUSTER, .TY_SLICE_STAT, .SM_SLICE], ty := true, sm := true, out := true }

theorem Die.freeCluster_within (e : Env) (d : Die) (k : Nat) (kept : Option Nat) (back : Bool) : Within freeTouch d (d.freeCluster e k kept back) := by
  unfold Die.freeCluster
  extract_lets rt c mine t u
  have ht : Within freeTouch d t := by
    unfold t
    split
    · exact .refl d
    · exact ((Die.setF_within d _ k 0).trans (Die.setF_within _ _ k 0)).trans (Die.setF_within _ _ k 0)
  have hu : Within freeTouch t u := Die.setClRt_within t k _
  refine (ht.trans hu).trans (Within.trans ?_ (Die.claimsDone_within _).mono)
  split
  · exact (Die.setLent_within u k false).mono
  · exact .refl u

theorem Die.abandonKern_within (e : Env) (d : Die) (k : Kern) : Within freeTouch d (d.abandonKern e k) := by
  unfold Die.abandonKern
  extract_lets t ranks
  have ht : Within freeTouch d t := by
    refine .foldl _ (fun y r => ?_) _ _
    split
    next c _ =>
      split
      · exact Die.freeCluster_within e y c none true
      · split
        · exact .refl y
        · extract_lets rt ty u
          have hu : Within freeTouch y u := Die.setTy_within y _
          exact (hu.trans (Die.setF_within u _ c 3)).trans (Die.send_within _ _)
    next => exact .refl y
  split
  · exact ht.trans (Die.setTy_within t _)
  · exact ht.trans (Die.setTy_within t _)

/-! ### Engines, held accesses and requests -/

theorem Die.unplace_within (d : Die) (id : Nat) (stopped : Bool) : Within { regs := [.SO_COUNT], eng := true } d (d.unplace id stopped) := by
  unfold Die.unplace
  extract_lets t
  have ht : Within { regs := [.SO_COUNT], eng := true } d t := by
    unfold t
    split
    next j _ =>
      split
      · exact Die.incSat_within d _ j.dme 1
      · exact .refl d
    next => exact .refl d
  exact ht.trans (Die.setEng_within t _)

theorem Die.unhold_within (d : Die) (c : Nat) : Within { regs := [.STU_EPOCH], stu := true } d (d.unhold c) := by
  unfold Die.unhold
  exact (Die.setF_within d F.STU_EPOCH.HELD c 0).trans (Die.setStu_within (d.setF F.STU_EPOCH.HELD c 0) _)

theorem Die.newEpoch_within (d : Die) (c : Nat) (drop : Xl → Bool) : Within { regs := [.STU_EPOCH], stu := true } d (d.newEpoch c drop) := by
  unfold Die.newEpoch
  exact (Die.incWrap_within d F.STU_EPOCH.EPOCH c 1).trans (Die.setStu_within (d.incWrap F.STU_EPOCH.EPOCH c 1) _)

/-- What requests that end may change. -/
def endTouch : Touch := { stu := true, coh := true, mem := true, bt := true, we := true, out := true }

theorem Die.dropReq_within {p : Touch} (d : Die) (rid : Nat) (hp : p.coh = true := by rfl) : Within p d (d.dropReq rid) := Die.setCoh_within d _ hp

theorem Die.endReq_within (d : Die) (q : Req) (code : Nat) : Within endTouch d (d.endReq q code) := by
  unfold Die.endReq
  extract_lets t same c
  have ht : Within endTouch d t := (Die.dropReq_within d q.rid).trans (Die.forget_within (d.dropReq q.rid) (.req q.rid)).mono
  split
  · exact ht
  · split
    · split
      · exact ht.trans (Die.setCoh_within t _)
      · exact ht.trans (Die.send_within t _)
    · exact ht.trans (Die.send_within t _)

theorem Die.dropRequests_within (d : Die) (c : Nat) : Within endTouch d (d.dropRequests c) := by
  unfold Die.dropRequests
  extract_lets isOurs we t out gone u
  have ht : Within endTouch d t := Die.setWe_within d _
  have hu : Within endTouch t u := by
    refine .foldl _ (fun y q => ?_) _ _
    split
    · exact Die.endReq_within y _ 4
    · exact .refl y
  exact (ht.trans hu).trans (Die.setCoh_within u _)

/-! ### The teardown of a context and the stop of a slice -/

/-- What the stop of a context may change. -/
def stopTouch : Touch :=
  { regs := [.SF_STATUS, .SF_SLOT_QUOTA, .SF_CTX_STATUS, .TY_CLUSTER, .TY_SLICE_STAT, .SM_SLICE, .SO_COUNT, .STU_EPOCH],
    sf := true, sm := true, ty := true, stu := true, we := true, coh := true, mem := true, eng := true, bt := true, out := true }

/-- The engines stop working for the commands of a list. -/
theorem Die.unplaceAll_within (d : Die) (l : List Cmd) (stopped : Bool) : Within stopTouch d (l.foldl (fun d x => d.unplace x.id stopped) d).enginesPump :=
  Within.trans (.foldl (fun (d : Die) (x : Cmd) => d.unplace x.id stopped) (fun y x => (Die.unplace_within y x.id stopped).mono) l d)
    (Die.enginesPump_within _).mono

theorem Die.teardown_within (e : Env) (d : Die) (c status : Nat) (failed : Option Nat) (named : Option (Nat × Nat)) (secur : Bool) :
    Within stopTouch d (d.teardown e c status failed named secur) := by
  unfold Die.teardown
  split
  · exact .refl d
  · extract_lets dead sf d₁ d₂ d₃ d₄ d₅ ty d₆
    have h₁ : Within stopTouch d d₁ := Die.setSf_within d _
    have h₂ : Within stopTouch d₁ d₂ := .foldl _ (fun y x => (Die.dropCmd_within y x).mono) _ _
    have h₃ : Within stopTouch d₂ d₃ := .foldl _ (fun y k => (Die.abandonKern_within e y k).mono) _ _
    have h₄ : Within stopTouch d₃ d₄ := Die.unplaceAll_within d₃ _ true
    have h₅ : Within stopTouch d₄ d₅ := (Die.unhold_within d₄ c).mono.trans (Die.newEpoch_within _ c _).mono
    have h₆ : Within stopTouch d₅ d₆ := Die.setTy_within d₅ _
    exact ((((h₁.trans h₂).trans h₃).trans h₄).trans h₅).trans (h₆.trans (Die.dropRequests_within d₆ c).mono)

theorem Die.cancelSlice_within (e : Env) (d : Die) (s : Nat) : Within stopTouch d (d.cancelSlice e s) := by
  unfold Die.cancelSlice
  extract_lets t
  refine Within.trans (Die.setSm_within d _) (.foldl _ (fun y c => ?_) _ _)
  extract_lets y₁ y₂
  have h₁ : Within stopTouch y y₁ := .foldl _ (fun z k => (Die.abandonKern_within e z k).mono) _ _
  have h₂ : Within stopTouch y₁ y₂ := Die.unplaceAll_within y₁ _ true
  exact (h₁.trans h₂).trans ((Die.unhold_within y₂ c).mono.trans (Die.dropRequests_within _ c).mono)

theorem Die.quiesceOn_within (e : Env) (d : Die) (s : Nat) (toTear : Bool) (graceEnd : Nat) : Within stopTouch d (d.quiesceOn e s toTear graceEnd) := by
  unfold Die.quiesceOn
  extract_lets d₁ d₂ sm d₃ ks
  have h₁ : Within stopTouch d d₁ := by
    unfold d₁
    split
    · exact Die.setF_within d _ s 3
    · exact .refl d
  have h₂ : Within stopTouch d₁ d₂ := by
    unfold d₂
    split
    · exact Die.setF_within d₁ _ s 1
    · exact .refl d₁
  have h₃ : Within stopTouch d₂ d₃ := Die.setSm_within d₂ _
  refine ((h₁.trans h₂).trans h₃).trans (.foldl _ (fun y x => ?_) _ _)
  split
  next z _ => exact (Die.setKern_within y { z with req := none }).trans (Die.postYield_within e _ _ none).mono
  next => exact .refl y

theorem Die.forceDisable_within (e : Env) (d : Die) (s : Nat) : Within stopTouch d (d.forceDisable e s) := by
  unfold Die.forceDisable
  split
  · exact Die.cancelSlice_within e d s
  · split
    · exact (Die.quiesceOn_within e d s false e.now).trans (Die.cancelSlice_within e _ s)
    · exact .refl d

theorem Die.cmdFail_within (e : Env) (d : Die) (c : Cmd) (status : Nat) (secur : Bool) : Within stopTouch d (d.cmdFail e c status secur) := by
  unfold Die.cmdFail
  split
  · exact Die.setCmd_within d _
  · exact (Die.setCmd_within d _).trans (Die.teardown_within e _ c.ctx status _ none secur)

/-! ### Transactions at the host port -/

/-- What transactions that leave at the host port may change. -/
def portTouch : Touch := { regs := monRegs, ch := true, bt := true, out := true }

theorem Die.hostOutCount_within (e : Env) (d : Die) (n : Nat) : Within portTouch d (d.hostOutCount e n) := by
  unfold Die.hostOutCount
  exact (((Die.count_within d 3826 1).trans (Die.count_within _ 3827 n)).trans (Die.count_within _ 11 n)).trans (Die.monitor_within _ e 4 0 1 n).mono

theorem Die.hpCount_within (e : Env) (d : Die) (m : Msg) : Within portTouch d (d.hpCount e m) := by
  unfold Die.hpCount
  split
  · exact Die.hostOutCount_within e d _
  · exact Die.hostOutCount_within e d 0
  · exact Die.count_within d 3828 1
  · exact .refl d

theorem Die.hpDrain_within (e : Env) (fuel : Nat) (d : Die) : Within portTouch d (d.hpDrain e fuel) := by
  induction fuel generalizing d with
  | zero => exact .refl d
  | succ n ih =>
    unfold Die.hpDrain
    split
    · exact .refl d
    · extract_lets u bt t
      split
      · exact .refl d
      · have ht : Within portTouch d t := Die.setBt_within d _
        exact ((ht.trans (Die.send_within t _)).trans (Die.hpCount_within e _ _)).trans (ih _)

theorem Die.hpSend_within (e : Env) (d : Die) (m : Msg) : Within portTouch d (d.hpSend e m) := by
  unfold Die.hpSend
  extract_lets bt t
  have ht : Within portTouch d t := Die.setBt_within d _
  exact ht.trans (Die.hpDrain_within e _ t)

theorem Die.msix_within (e : Env) (d : Die) (who : Who) (v : Nat) : Within portTouch d (d.msix e who v) := by
  unfold Die.msix
  exact Die.hpSend_within e d _

end Sys2Proof.Machine
end

section
/-! PROOF. The start of the die (R447): a message of the mailbox lets those before it leave at the host port, which the bandwidth monitors
count (R423). -/

-- One proof after another: all at once, they ask for more threads than the check's memory limit admits.
set_option Elab.async false

namespace Sys2Proof.Machine

/-- A write of two bytes waits at the host port, which has credits for it; monitor 0 watches what leaves there, in windows of 1 µs, of which three
have passed. -/
def writeAtHostPort : State :=
  { env := { tq := 3000 * 65536 },
    d := (((({ bt := { pwrGood := true, hpHdr := 4, hpDat := 4, outq := [.hostWrite .pf 0 [1, 2]] } } : Die).setF F.ST_BOOT.PHASE 0 5).setF F.CH_BWMON.WINDOW_US 0 1).setF
      F.CH_BWMON.SOURCE 0 4).setF F.CH_BWMON.DIR 0 1 }

/-- Refutes O60: Steward's F2H sends an MSI-X message, and with it the write that waits before it leaves and closes a window of a monitor, so that
CH_BWCOUNT changes besides the mailbox's registers. -/
theorem not_theDieResetsAndStarts : ¬ Obligations.TheDieResetsAndStarts := by
  unfold Obligations.TheDieResetsAndStarts
  rintro ⟨-, -, -, -, hctl, -⟩
  obtain ⟨t, hrun, -, -, -, -, -, -, -, -, hkeep, -⟩ :=
    hctl writeAtHostPort .steward (BitVec.ofNat 64 (2 ^ 33)) (by decide +kernel) (.f2h .steward (BitVec.ofNat 64 (2 ^ 33))) (by simp)
  have hcount := hkeep .CH_BWCOUNT (by decide) 0 0
  have hthree : ∀ u, exec (.f2h .steward (BitVec.ofNat 64 (2 ^ 33))) writeAtHostPort = .next u → u.d.reg .CH_BWCOUNT 0 0 ≠ writeAtHostPort.d.reg .CH_BWCOUNT 0 0 := by
    intro u hu
    obtain rfl := Host.Outcome.next.inj hu
    decide +kernel
  exact hthree t hrun hcount

end Sys2Proof.Machine
end

section
/-! PROOF. Reports (R366 to R378, R384): a report on its way through its reporter and the intake, what its class records, and the DIE fault that
stops the die with a warm reset. -/

-- One proof after another: all at once, they ask for more threads than the check's memory limit admits.
set_option Elab.async false

namespace Sys2Proof.Machine

/-! ### What a warm reset keeps -/

theorem Tab.get_filter_key {α : Type} (d : α) (t : Tab α) (q : Nat → Bool) (k : Nat) (h : q k = true) : Tab.get d (t.filter (fun x => q x.1)) k = Tab.get d t k := by
  induction t with
  | nil => rfl
  | cons x t ih =>
    obtain ⟨k', v⟩ := x
    by_cases hk : k = k'
    · subst hk
      rw [List.filter_cons_of_pos (p := fun x : Nat × α => q x.1) h]
      unfold Tab.get
      rw [if_pos rfl, if_pos rfl]
    · have hright : Tab.get d ((k', v) :: t) k = Tab.get d t k := by
        conv_lhs => unfold Tab.get
        rw [if_neg hk]
      rw [hright]
      cases hq : q k' with
      | true =>
        rw [List.filter_cons_of_pos (p := fun x : Nat × α => q x.1) hq]
        conv_lhs => unfold Tab.get
        rw [if_neg hk]
        exact ih
      | false =>
        rw [List.filter_cons_of_neg (p := fun x : Nat × α => q x.1) (by rw [hq]; decide)]
        exact ih

/-- The die of a warm reset before the fields that it keeps are put back. -/
def Die.warmBare (d : Die) (fromDie : Bool) : Die :=
  { regs := d.regs.filter (fun x => keptRegs.any (fun r => decide (r.ctorIdx = x.1))), out := d.out, ctr := d.ctr, nid := d.nid,
    mem := { dram := d.mem.dram, side := d.mem.side }, se := { prog := d.se.prog }, ay := { quiet := d.ay.quiet && !fromDie },
    bt := { pwrGood := d.bt.pwrGood, bad := d.bt.bad, counts := d.bt.counts, trained := d.bt.trained, seeds := d.bt.seeds,
            fromDie := fromDie || (d.bt.inWarm && d.bt.fromDie), inWarm := true } }

/-- The fields of a list set to what another die holds in them. -/
def Die.putBack (n d : Die) (l : List Fld) : Die := l.foldl (fun n f => n.setF f 0 (d.getF f 0)) n

theorem Die.warm_eq (e : Env) (d : Die) (fromDie : Bool) : d.warm e fromDie = ((d.warmBare fromDie).putBack d keptFields).startTraining e := rfl

theorem Die.putBack_within {p : Touch} (d : Die) (l : List Fld) (h : ∀ f ∈ l, p.regs.contains f.reg = true) (n : Die) : Within p n (n.putBack d l) := by
  induction l generalizing n with
  | nil => exact .refl n
  | cons f l ih =>
    exact (Die.setF_within n f 0 _ (h f (List.mem_cons_self ..))).trans (ih (fun g hg => h g (List.mem_cons_of_mem _ hg)) _)

theorem Die.getF_putBack (d : Die) (l : List Fld) (h : l.Pairwise (fun f g => f.apart g = true ∧ g.apart f = true)) (hl : ∀ f ∈ l, f.lo + f.width ≤ 64) (n : Die)
    (g : Fld) (hg : g ∈ l) : (n.putBack d l).getF g 0 = d.getF g 0 := by
  have hother : ∀ (l : List Fld) (n : Die), (∀ f ∈ l, f.apart g = true) → (n.putBack d l).getF g 0 = n.getF g 0 := by
    intro l
    induction l with
    | nil => exact fun _ _ => rfl
    | cons f l ih =>
      intro n hap
      exact (ih _ (fun x hx => hap x (List.mem_cons_of_mem _ hx))).trans (Die.getF_setF_apart n f g 0 _ (hap f (List.mem_cons_self ..)))
  induction l generalizing n with
  | nil => exact absurd hg (List.not_mem_nil)
  | cons f l ih =>
    rw [List.pairwise_cons] at h
    rcases List.mem_cons.1 hg with rfl | hg
    · refine (hother l _ (fun x hx => (h.1 x hx).2)).trans ?_
      rw [Die.getF_setF_same _ _ _ _ (hl g (List.mem_cons_self ..))]
      exact Nat.mod_eq_of_lt (fieldOf_lt _ _ _)
    · exact ih h.2 (fun x hx => hl x (List.mem_cons_of_mem _ hx)) _ hg

theorem keptFields_apart : keptFields.Pairwise (fun f g => f.apart g = true ∧ g.apart f = true) ∧ (∀ f ∈ keptFields, f.lo + f.width ≤ 64) ∧
    (∀ f ∈ keptFields, ([.AY_CFG, .AY_STATUS, .ST_BOOT] : List Reg).contains f.reg = true) ∧
    (∀ f ∈ keptFields, F.ST_BOOT.PHASE.apart f = true) := by decide

/-- What the start of the training changes. -/
theorem Die.startTraining_within (e : Env) (d : Die) : Within { regs := [.ST_BOOT], mem := true, bt := true, out := true } d (d.startTraining e) := by
  unfold Die.startTraining
  extract_lets src bt d₁ mem d₂
  have h₁ : Within { regs := [.ST_BOOT], mem := true, bt := true, out := true } d d₁ := (Die.setF_within d _ 0 2).trans (Die.setBt_within src _)
  have h₂ : Within { regs := [.ST_BOOT], mem := true, bt := true, out := true } d₁ d₂ := Die.setMemRest_within d₁ _ rfl rfl
  refine (h₁.trans h₂).trans (.foldl _ (fun y n => ?_) _ _)
  exact (Die.send_within y _).trans (Die.send_within _ _)

/-- The die whose training has started, but for the messages. -/
theorem Die.startTraining_regs (e : Env) (d : Die) : (d.startTraining e).regs = (d.setF F.ST_BOOT.PHASE 0 2).regs ∧ (d.startTraining e).bt.fromDie = d.bt.fromDie := by
  have hsend : ∀ (l : List Nat) (y : Die), (l.foldl (fun d n => (d.send (.seeds n (Tab.get [] d.bt.seeds n))).send (.dfi n 5 0)) y).regs = y.regs ∧
      (l.foldl (fun d n => (d.send (.seeds n (Tab.get [] d.bt.seeds n))).send (.dfi n 5 0)) y).bt = y.bt := by
    intro l
    induction l with
    | nil => exact fun _ => ⟨rfl, rfl⟩
    | cons n l ih => exact fun y => ih _
  unfold Die.startTraining
  extract_lets src bt d₁ mem d₂
  exact ⟨(hsend _ d₂).1, congrArg (·.fromDie) (hsend _ d₂).2⟩

/-- A warm reset keeps the registers and fields of Table 15.7 and memory, and starts in phase 2. -/
theorem Die.warm_spec (e : Env) (d : Die) (fromDie : Bool) :
    (∀ r ∈ keptRegs, ∀ i w, (d.warm e fromDie).reg r i w = d.reg r i w) ∧ (∀ f ∈ keptFields, (d.warm e fromDie).getF f 0 = d.getF f 0) ∧
      (d.warm e fromDie).phase = 2 ∧ (d.warm e fromDie).mem.dram = d.mem.dram ∧ (d.warm e fromDie).ay = { quiet := d.ay.quiet && !fromDie } ∧
      (d.warm e fromDie).bt.fromDie = (fromDie || (d.bt.inWarm && d.bt.fromDie)) := by
  obtain ⟨hpair, hwidth, hregs, hphase⟩ := keptFields_apart
  rw [Die.warm_eq]
  have hbare : ∀ r ∈ keptRegs, ∀ i w, (d.warmBare fromDie).reg r i w = d.reg r i w := fun r hr i w => by
    have htab : Tab.get [] (d.warmBare fromDie).regs r.ctorIdx = Tab.get [] d.regs r.ctorIdx :=
      Tab.get_filter_key [] d.regs (fun k => keptRegs.any (fun r => decide (r.ctorIdx = k))) r.ctorIdx (List.any_eq_true.2 ⟨r, hr, decide_eq_true rfl⟩)
    unfold Die.reg
    rw [htab]
  have hdram : (d.warmBare fromDie).mem.dram = d.mem.dram := rfl
  have hay : (d.warmBare fromDie).ay = { quiet := d.ay.quiet && !fromDie } := rfl
  have hbt : (d.warmBare fromDie).bt.fromDie = (fromDie || (d.bt.inWarm && d.bt.fromDie)) := rfl
  generalize d.warmBare fromDie = n at hbare hdram hay hbt ⊢
  have hput : Within { regs := [.AY_CFG, .AY_STATUS, .ST_BOOT] } n (n.putBack d keptFields) := Die.putBack_within d keptFields hregs n
  have hback : ∀ f ∈ keptFields, (n.putBack d keptFields).getF f 0 = d.getF f 0 := fun f hf => Die.getF_putBack d keptFields hpair hwidth n f hf
  generalize n.putBack d keptFields = m at hput hback ⊢
  have htrain := Die.startTraining_within e m
  obtain ⟨htregs, htbt⟩ := Die.startTraining_regs e m
  have hkept : ∀ r ∈ keptRegs, ([.AY_CFG, .AY_STATUS, .ST_BOOT] : List Reg).contains r = false ∧ ([.ST_BOOT] : List Reg).contains r = false := by decide
  refine ⟨fun r hr i w => ?_, fun f hf => ?_, ?_, htrain.dram.trans (hput.dram.trans hdram), htrain.ay.trans (hput.ay.trans hay), htbt.trans ?_⟩
  · rw [htrain.reg r i w (hkept r hr).2, hput.reg r i w (hkept r hr).1]
    exact hbare r hr i w
  · rw [Die.getF_of_regs_eq htregs, Die.getF_setF_apart _ _ f 0 _ (hphase f hf)]
    exact hback f hf
  · exact (Die.getF_of_regs_eq htregs _ _).trans (Die.getF_setF_same _ _ _ _ (by decide))
  · rw [hput.bt]
    exact hbt

/-! ### A report reaches its banks -/

/-- What a report that reaches bank `b` may change, with the message that goes with it. -/
def bankTouch (b : Reg) : Touch := { regs := b :: monRegs, ch := true, bt := true, out := true, rose := true, rearmed := true }

theorem Die.reachNote_within (e : Env) (d : Die) (b : Reg) (i : Nat) (r : Report) (cls : Nat) (note : Bool) :
    Within (bankTouch b) d (d.reachNote e b i r cls note) := by
  have hb : (bankTouch b).regs.contains b = true := by simp [bankTouch]
  unfold Die.reachNote
  extract_lets new t
  have ht : Within (bankTouch b) d t := Die.reach_within d b i r cls hb
  split
  · have hmsix : portTouch.le (bankTouch b) = true := by simp +contextual [portTouch, bankTouch, Touch.le]
    exact ht.trans ((Die.msix_within e t .pf _).mono hmsix)
  · exact ht

/-- The message of a record leaves every bank as it is. -/
theorem Die.reachNote_reach (e : Env) (d : Die) {b : Reg} (hb : b ∈ recordBanks) (b' : Reg) (i j : Nat) (r : Report) (cls : Nat) (note : Bool) :
    sameBank (d.reach b' j r cls) (d.reachNote e b' j r cls note) b i := by
  have hmon : ∀ b ∈ recordBanks, portTouch.regs.contains b = false := by decide
  unfold Die.reachNote
  extract_lets new t
  split
  · exact (Die.msix_within e t .pf _).sameBank b i (hmon b hb)
  · exact ⟨fun _ => rfl, rfl⟩

theorem Die.reachNote_sameBank (e : Env) (d : Die) {b b' : Reg} (hb : b ∈ recordBanks) (hne : b ≠ b') (i j : Nat) (r : Report) (cls : Nat) (note : Bool) :
    sameBank d (d.reachNote e b' j r cls note) b i :=
  (Die.reach_sameBank d hne i j r cls).trans (Die.reachNote_reach e d hb b' i j r cls note)

theorem Die.reach_banked (d : Die) {b : Reg} (hb : b ∈ recordBanks) (i : Nat) (r : Report) (cls : Nat) : banked (d.unrearm b i) (d.reach b i r cls) b i r cls := by
  rw [Die.reach_eq]
  exact Die.take_banked _ b hb i r cls

theorem Die.reachNote_banked (e : Env) (d : Die) {b : Reg} (hb : b ∈ recordBanks) (i : Nat) (r : Report) (cls : Nat) (note : Bool) :
    banked (d.unrearm b i) (d.reachNote e b i r cls note) b i r cls :=
  banked_congr (fun _ => rfl) (Die.reachNote_reach e d hb b i i r cls note).1 (Die.reach_banked d hb i r cls)

/-! ### What the class of a report records -/

/-- The record of a slice, and its bit in AY_SLICE_PEND where the record was empty. -/
def Die.sliceBank (e : Env) (d : Die) (r : Report) (s cls : Nat) : Die :=
  if !((d.unrearm .AY_SLICE_REC s).bit (F.REC.VALID .AY_SLICE_REC) s) then
    (d.reachNote e .AY_SLICE_REC s r cls true).setEvs F.AY_SLICE_PEND.PEND (s / 64) (2 ^ (s % 64))
  else d.reachNote e .AY_SLICE_REC s r cls true

/-- The record that the class of a report asks for. -/
def Die.classed (e : Env) (d : Die) (r : Report) : Die :=
  if repClass r = 0 then d.reachNote e .AY_CE_REC 0 r 0 (d.bit F.AY_CFG.CE_NOTIFY 0)
  else if repClass r = 3 then d
  else match r.ctx, r.slice with
    | some c, sl => if repClass r = 1 then d.reach .AY_CTX_REC c r 1 else (match sl with | some s => d.sliceBank e r s 2 | none => d)
    | none, some s => d.sliceBank e r s (repClass r)
    | none, none => d

/-- The record of a security event. -/
def Die.secured (e : Env) (d : Die) (r : Report) : Die :=
  if (causeRow r.cause).sec then d.raiseAlarm.reachNote e .AY_SEC_REC 0 r (repClass r) true else d

/-- Everything that a report of a checker records. -/
def Die.recorded (e : Env) (d : Die) (r : Report) : Die := ((d.incSat F.AY_COUNT.COUNT r.cause 1).classed e r).secured e r

theorem repClass_le (r : Report) : repClass r ≤ 3 := by
  unfold repClass
  repeat' split
  all_goals omega

theorem Die.takeReport_self {e : Env} {d : Die} {r : Report} (h : r.self = true) : d.takeReport e r = d.reach .AY_INJ_REC 0 r 0 := by
  unfold Die.takeReport
  dsimp only
  rw [if_pos h]

/-- A report records what its class asks for, and disables its slice where it is of class SLICE. -/
theorem Die.takeReport_checker {e : Env} {d : Die} {r : Report} (h : r.self = false) :
    (∀ s, repClass r = 2 → r.slice = some s → d.takeReport e r = (d.recorded e r).forceDisable e s) ∧
      (¬ (repClass r = 2 ∧ r.slice.isSome = true) → d.takeReport e r = d.recorded e r) := by
  have hle := repClass_le r
  unfold Die.takeReport Die.recorded Die.classed Die.secured
  dsimp only
  rw [if_neg (by rw [h]; decide)]
  generalize repClass r = k at hle ⊢
  refine ⟨fun s h2 hs => ?_, fun hno => ?_⟩
  · subst h2
    cases hc : r.ctx <;> simp only [hs, OfNat.ofNat_ne_zero, if_false] <;> simp [Die.sliceBank]
  · interval_cases k
    · cases r.ctx <;> cases r.slice <;> simp
    · cases r.ctx <;> cases r.slice <;> simp [Die.sliceBank]
    · cases hs : r.slice with
      | none => cases r.ctx <;> simp
      | some s => exact absurd ⟨rfl, by rw [hs]; rfl⟩ hno
    · cases r.ctx <;> cases r.slice <;> simp

/-- What the record of a class may change. -/
def classTouch : Touch :=
  { regs := [.AY_CE_REC, .AY_CTX_REC, .AY_SLICE_REC, .AY_SLICE_PEND] ++ monRegs, ch := true, bt := true, out := true, rose := true, rearmed := true }

/-- What the records of a report may change. -/
def recordTouch : Touch :=
  { regs := [.AY_COUNT, .AY_CE_REC, .AY_CTX_REC, .AY_SLICE_REC, .AY_SLICE_PEND, .AY_SEC_REC, .AY_ALARM] ++ monRegs,
    ch := true, bt := true, out := true, rose := true, rearmed := true }

theorem Die.sliceBank_within (e : Env) (d : Die) (r : Report) (s cls : Nat) : Within classTouch d (d.sliceBank e r s cls) := by
  have hnote : Within classTouch d (d.reachNote e .AY_SLICE_REC s r cls true) := (Die.reachNote_within e d .AY_SLICE_REC s r cls true).mono
  unfold Die.sliceBank
  split
  · exact hnote.trans (Die.setEvs_within _ _ _ _)
  · exact hnote

theorem Die.classed_within (e : Env) (d : Die) (r : Report) : Within classTouch d (d.classed e r) := by
  unfold Die.classed
  split
  · exact (Die.reachNote_within e d .AY_CE_REC 0 r 0 _).mono
  · split
    · exact .refl d
    · split
      · split
        · exact Die.reach_within d .AY_CTX_REC _ r 1
        · split
          · exact Die.sliceBank_within e d r _ 2
          · exact .refl d
      · exact Die.sliceBank_within e d r _ _
      · exact .refl d

/-- The banks of the other classes, of security events and of DIE faults are left as they were found. -/
theorem Die.sliceBank_sameBank (e : Env) (d : Die) {b : Reg} (hb : b ∈ recordBanks) (hne : b ≠ .AY_SLICE_REC) (i : Nat) (r : Report) (s cls : Nat) :
    sameBank d (d.sliceBank e r s cls) b i := by
  have hpend : ∀ b ∈ recordBanks, ({ regs := [.AY_SLICE_PEND], rose := true } : Touch).regs.contains b = false := by decide
  have hnote := Die.reachNote_sameBank e d hb hne i s r cls true
  unfold Die.sliceBank
  split
  · exact hnote.trans (Within.sameBank (p := { regs := [.AY_SLICE_PEND], rose := true }) (Die.setEvs_within _ _ _ _) b i (hpend b hb))
  · exact hnote

theorem Die.classed_sameBank (e : Env) (d : Die) {b : Reg} (hb : b = .AY_SEC_REC ∨ b = .AY_DIE_REC) (i : Nat) (r : Report) : sameBank d (d.classed e r) b i := by
  have hmem : b ∈ recordBanks := by rcases hb with rfl | rfl <;> decide
  have hne : b ≠ .AY_CE_REC ∧ b ≠ .AY_CTX_REC ∧ b ≠ .AY_SLICE_REC := by rcases hb with rfl | rfl <;> decide
  unfold Die.classed
  split
  · exact Die.reachNote_sameBank e d hmem hne.1 i 0 r 0 _
  · split
    · exact ⟨fun _ => rfl, rfl⟩
    · split
      · split
        · exact Die.reach_sameBank d hne.2.1 i _ r 1
        · split
          · exact Die.sliceBank_sameBank e d hmem hne.2.2 i r _ 2
          · exact ⟨fun _ => rfl, rfl⟩
      · exact Die.sliceBank_sameBank e d hmem hne.2.2 i r _ _
      · exact ⟨fun _ => rfl, rfl⟩

theorem Die.sliceBank_spec (e : Env) (d : Die) (r : Report) (s cls : Nat) :
    banked (d.unrearm .AY_SLICE_REC s) (d.sliceBank e r s cls) .AY_SLICE_REC s r cls ∧
      ((d.unrearm .AY_SLICE_REC s).bit (F.REC.VALID .AY_SLICE_REC) s = false → ((d.sliceBank e r s cls).getF F.AY_SLICE_PEND.PEND (s / 64)).testBit (s % 64) = true) := by
  have hnote := Die.reachNote_banked e d (b := .AY_SLICE_REC) (by decide) s r cls true
  unfold Die.sliceBank
  cases hv : (d.unrearm .AY_SLICE_REC s).bit (F.REC.VALID .AY_SLICE_REC) s with
  | true =>
    rw [if_neg (by decide)]
    exact ⟨hnote, fun h => absurd h (by decide)⟩
  | false =>
    have hpend : Within { regs := [.AY_SLICE_PEND], rose := true } (d.reachNote e .AY_SLICE_REC s r cls true)
        ((d.reachNote e .AY_SLICE_REC s r cls true).setEvs F.AY_SLICE_PEND.PEND (s / 64) (2 ^ (s % 64))) := Die.setEvs_within _ _ _ _
    rw [if_pos (by decide)]
    refine ⟨banked_congr (fun _ => rfl) (fun w => hpend.reg .AY_SLICE_REC s w) hnote, fun _ => ?_⟩
    have hset : ((d.reachNote e .AY_SLICE_REC s r cls true).setEvs F.AY_SLICE_PEND.PEND (s / 64) (2 ^ (s % 64))).getF F.AY_SLICE_PEND.PEND (s / 64) =
        ((d.reachNote e .AY_SLICE_REC s r cls true).getF F.AY_SLICE_PEND.PEND (s / 64) ||| 2 ^ (s % 64)) % 2 ^ 64 :=
      (Die.getF_of_regs_eq (Die.setEvs_regs _ _ _ _) _ _).trans (Die.getF_setF_same _ _ _ _ (by decide))
    rw [hset, Nat.testBit_mod_two_pow, Nat.testBit_or, Nat.testBit_two_pow_self]
    simp [Nat.mod_lt]

/-- The record of each class. -/
theorem Die.classed_spec (e : Env) (d : Die) (r : Report) :
    (repClass r = 0 → banked (d.unrearm .AY_CE_REC 0) (d.classed e r) .AY_CE_REC 0 r 0) ∧
      (∀ c, repClass r = 1 → r.ctx = some c → banked (d.unrearm .AY_CTX_REC c) (d.classed e r) .AY_CTX_REC c r 1) ∧
      (∀ s, r.slice = some s → (repClass r = 2 ∨ (repClass r = 1 ∧ r.ctx = none)) →
        banked (d.unrearm .AY_SLICE_REC s) (d.classed e r) .AY_SLICE_REC s r (repClass r) ∧
          ((d.unrearm .AY_SLICE_REC s).bit (F.REC.VALID .AY_SLICE_REC) s = false → ((d.classed e r).getF F.AY_SLICE_PEND.PEND (s / 64)).testBit (s % 64) = true)) := by
  unfold Die.classed
  refine ⟨fun h => ?_, fun c h hc => ?_, fun s hs h => ?_⟩
  · rw [if_pos h]
    exact Die.reachNote_banked e d (by decide) 0 r 0 _
  · rw [if_neg (by omega), if_neg (by omega), hc]
    dsimp only
    rw [if_pos h]
    exact Die.reach_banked d (by decide) c r 1
  · rw [if_neg (by omega), if_neg (by omega), hs]
    rcases h with h | ⟨h, hc⟩
    · cases r.ctx with
      | none => exact Die.sliceBank_spec e d r s _
      | some c =>
        dsimp only
        rw [if_neg (by omega), h]
        exact Die.sliceBank_spec e d r s 2
    · rw [hc]
      exact Die.sliceBank_spec e d r s _

theorem Die.raiseAlarm_spec (d : Die) : Within { regs := [.AY_ALARM], rose := true, out := true } d d.raiseAlarm ∧ d.raiseAlarm.getF F.AY_ALARM.SEC_ALARM 0 = 1 := by
  have hset : Within { regs := [.AY_ALARM], rose := true, out := true } d (d.setEv F.AY_ALARM.SEC_ALARM 0) := Die.setEv_within d _ 0
  have hone : (d.setEv F.AY_ALARM.SEC_ALARM 0).getF F.AY_ALARM.SEC_ALARM 0 = 1 := Die.getF_setEv_bit _ _ 0 rfl (by decide)
  unfold Die.raiseAlarm
  dsimp only
  split
  · exact ⟨hset, hone⟩
  · exact ⟨hset.trans (Die.send_within _ _), hone⟩

/-- What a security event may change. -/
def secureTouch : Touch := { regs := [.AY_SEC_REC, .AY_ALARM] ++ monRegs, ch := true, bt := true, out := true, rose := true, rearmed := true }

theorem Die.secured_within (e : Env) (d : Die) (r : Report) : Within secureTouch d (d.secured e r) := by
  unfold Die.secured
  split
  · exact (Die.raiseAlarm_spec d).1.mono.trans (Die.reachNote_within e _ .AY_SEC_REC 0 r _ true).mono
  · exact .refl d

theorem Die.secured_sameBank (e : Env) (d : Die) {b : Reg} (hb : b ∈ recordBanks) (hne : b ≠ .AY_SEC_REC) (i : Nat) (r : Report) : sameBank d (d.secured e r) b i := by
  have halarm : ∀ b ∈ recordBanks, ({ regs := [.AY_ALARM], rose := true, out := true } : Touch).regs.contains b = false := by decide
  unfold Die.secured
  split
  · exact ((Die.raiseAlarm_spec d).1.sameBank b i (halarm b hb)).trans (Die.reachNote_sameBank e _ hb hne i 0 r _ true)
  · exact ⟨fun _ => rfl, rfl⟩

theorem Die.secured_spec {e : Env} {d : Die} {r : Report} (h : (causeRow r.cause).sec = true) :
    (d.secured e r).getF F.AY_ALARM.SEC_ALARM 0 = 1 ∧ banked (d.unrearm .AY_SEC_REC 0) (d.secured e r) .AY_SEC_REC 0 r (repClass r) := by
  obtain ⟨hw, hone⟩ := Die.raiseAlarm_spec d
  unfold Die.secured
  rw [if_pos h]
  refine ⟨?_, banked_congr (fun w => ?_) (fun _ => rfl) (Die.reachNote_banked e d.raiseAlarm (b := .AY_SEC_REC) (by decide) 0 r (repClass r) true)⟩
  · rw [(Die.reachNote_within e d.raiseAlarm .AY_SEC_REC 0 r (repClass r) true).getF F.AY_ALARM.SEC_ALARM 0]
    exact hone
  · exact ((hw.sameBank .AY_SEC_REC 0).unrearm w).symm

theorem Die.recorded_within (e : Env) (d : Die) (r : Report) : Within recordTouch d (d.recorded e r) := by
  unfold Die.recorded
  exact ((Die.incSat_within d F.AY_COUNT.COUNT r.cause 1).trans (Die.classed_within e _ r).mono).trans (Die.secured_within e _ r).mono

/-- Everything that R374 and R384 ask of a checker's report, but for what its class does besides. -/
theorem Die.recorded_spec (e : Env) (d : Die) (r : Report) :
    (d.recorded e r).getF F.AY_COUNT.COUNT r.cause = min (d.getF F.AY_COUNT.COUNT r.cause + 1) (2 ^ 32 - 1) ∧
      (repClass r = 0 → banked (d.unrearm .AY_CE_REC 0) (d.recorded e r) .AY_CE_REC 0 r 0) ∧
      (∀ c, repClass r = 1 → r.ctx = some c → banked (d.unrearm .AY_CTX_REC c) (d.recorded e r) .AY_CTX_REC c r 1) ∧
      (∀ s, r.slice = some s → (repClass r = 2 ∨ (repClass r = 1 ∧ r.ctx = none)) →
        banked (d.unrearm .AY_SLICE_REC s) (d.recorded e r) .AY_SLICE_REC s r (repClass r) ∧
          ((d.unrearm .AY_SLICE_REC s).bit (F.REC.VALID .AY_SLICE_REC) s = false → ((d.recorded e r).getF F.AY_SLICE_PEND.PEND (s / 64)).testBit (s % 64) = true)) ∧
      ((causeRow r.cause).sec = true → (d.recorded e r).getF F.AY_ALARM.SEC_ALARM 0 = 1 ∧ banked (d.unrearm .AY_SEC_REC 0) (d.recorded e r) .AY_SEC_REC 0 r (repClass r)) ∧
      sameBank d (d.recorded e r) .AY_DIE_REC 0 := by
  unfold Die.recorded
  have hcount : (d.incSat F.AY_COUNT.COUNT r.cause 1).getF F.AY_COUNT.COUNT r.cause = min (d.getF F.AY_COUNT.COUNT r.cause + 1) (2 ^ 32 - 1) :=
    Die.getF_incSat_same d _ _ 1 (by decide)
  have hinc : Within { regs := [.AY_COUNT] } d (d.incSat F.AY_COUNT.COUNT r.cause 1) := Die.incSat_within d _ _ 1
  generalize d.incSat F.AY_COUNT.COUNT r.cause 1 = y at hcount hinc ⊢
  have hsame : ∀ b ∈ recordBanks, ∀ i, sameBank d y b i := fun b hb i => by
    have hno : ∀ b ∈ recordBanks, ({ regs := [.AY_COUNT] } : Touch).regs.contains b = false := by decide
    exact hinc.sameBank b i (hno b hb)
  have hclass := Die.classed_within e y r
  obtain ⟨hce, hctx, hslice⟩ := Die.classed_spec e y r
  have hsecSame := Die.classed_sameBank e y (b := .AY_SEC_REC) (.inl rfl) 0 r
  have hdieSame := Die.classed_sameBank e y (b := .AY_DIE_REC) (.inr rfl) 0 r
  have hcountClass : (y.classed e r).getF F.AY_COUNT.COUNT r.cause = y.getF F.AY_COUNT.COUNT r.cause := hclass.getF _ _
  generalize y.classed e r = z at hclass hce hctx hslice hsecSame hdieSame hcountClass ⊢
  have hsec := Die.secured_within e z r
  have hleft : ∀ b ∈ recordBanks, b ≠ .AY_SEC_REC → ∀ i w, (z.secured e r).reg b i w = z.reg b i w := fun b hb hne i w =>
    (Die.secured_sameBank e z hb hne i r).1 w
  refine ⟨?_, fun h => ?_, fun c h hc => ?_, fun s hs h => ⟨?_, fun hv => ?_⟩, fun h => ⟨?_, ?_⟩, ?_⟩
  · rw [hsec.getF F.AY_COUNT.COUNT, hcountClass, hcount]
  · exact banked_congr (fun w => ((hsame .AY_CE_REC (by decide) 0).unrearm w).symm) (hleft _ (by decide) (by decide) 0) (hce h)
  · exact banked_congr (fun w => ((hsame .AY_CTX_REC (by decide) c).unrearm w).symm) (hleft _ (by decide) (by decide) c) (hctx c h hc)
  · exact banked_congr (fun w => ((hsame .AY_SLICE_REC (by decide) s).unrearm w).symm) (hleft _ (by decide) (by decide) s) (hslice s hs h).1
  · rw [hsec.getF F.AY_SLICE_PEND.PEND]
    refine (hslice s hs h).2 ?_
    rw [← hv]
    unfold Die.bit
    rw [Die.bit_congr (hsame .AY_SLICE_REC (by decide) s).unrearm _ rfl]
  · exact (Die.secured_spec h).1
  · exact banked_congr (fun w => (((hsame .AY_SEC_REC (by decide) 0).trans hsecSame).unrearm w).symm) (fun _ => rfl) (Die.secured_spec h).2
  · exact ((hsame .AY_DIE_REC (by decide) 0).trans hdieSame).trans (Die.secured_sameBank e z (by decide) (by decide) 0 r)

end Sys2Proof.Machine
end

section
/-! PROOF. O46 to O49: window packets, link ports and system time (chapter 6). -/

-- One proof after another: all at once, they ask for more threads than the check's memory limit admits.
set_option Elab.async false

namespace Sys2Proof.Machine

/-! ### Request packets (R184, R189) -/

theorem Die.rxArrive_down {e : Env} {d : Die} {p : Nat} {b : List Byte} {tag : BitVec 128} {sealable : Bool} (h : d.bit F.WE_PORT_STATUS.UP p = false) :
    d.rxArrive e p b tag sealable = (d.incSat F.WE_STATUS.RX_DROP 0 1, none) := by
  unfold Die.rxArrive
  rw [h]
  rfl

/-- What becomes of a request packet that has arrived. -/
def rxRequested (e : Env) (p : Nat) : Die × Option (List Byte × Option Bool) → Die
  | (d, none) => d
  | (d, some (b, none)) => d.rxDone e { k := d.nid, port := p, bytes := b, verified := false } 9 12 []
  | (d, some (b, some v)) => Die.rxGo e { d with nid := d.nid + 1, we := { d.we with rx := d.we.rx ++ [{ k := d.nid, port := p, bytes := b, verified := v }] } } d.nid

/-- The request rows of Table 6.4 differ in their operation alone. -/
theorem exec_packetRow {x : (BitVec 4 → List Byte → BitVec 128 → Instr) × Nat} (hx : x ∈ packetRows) (s : State) (p : BitVec 4) (b : List Byte) (tag : BitVec 128)
    (hop : pktOp b = x.2) : exec (x.1 p b tag) s = s.go (rxRequested s.env p.toNat (s.d.rxArrive s.env p.toNat b tag true)) := by
  have hrow : exec (x.1 p b tag) s = s.go (s.d.rxRequest s.env p.toNat x.2 b tag) := by
    simp only [packetRows, List.mem_cons, List.not_mem_nil, or_false] at hx
    rcases hx with rfl | rfl | rfl | rfl | rfl <;> rfl
  rw [hrow]
  unfold Die.rxRequest
  rw [if_neg (not_not_intro hop)]
  rcases s.d.rxArrive s.env p.toNat b tag true with ⟨d, _ | ⟨b', _ | v⟩⟩ <;> rfl

/-- The packet that has just arrived is the one of its number. -/
theorem find?_append_new {l : List RxPkt} {k : Nat} (h : ∀ y ∈ l, y.k ≠ k) (p : RxPkt) (hp : p.k = k) :
    (l ++ [p]).find? (fun y => decide (y.k = k)) = some p := by
  rw [List.find?_append, List.find?_eq_none.2 (fun y hy => by simpa using h y hy), Option.none_or, List.find?_singleton, decide_eq_true hp, if_pos rfl]

/-- What answers a packet that has passed the checks of its entry. -/
def rxAnswered (e : Env) (p : RxPkt) : Tried (Nat × List Byte) → Die
  | .ok r d => d.rxDone e p r.1 0 r.2
  | .wait d => d
  | .stop c _ d => d.rxDone e p 9 (if c ≥ 1000 then c - 1000 else if c = St.LOST then 11 else 12) []
  | .fault _ d => d.rxDone e p 9 9 []

/-- The way of a packet whose entry is not yet matched. -/
theorem Die.rxGo_of_find (e : Env) {d : Die} {k : Nat} {p : RxPkt} (h : d.we.rx.find? (fun y => decide (y.k = k)) = some p) (hent : p.ent = []) :
    d.rxGo e k = if pktF p.bytes 6 2 ≠ fieldOf e.dieId 0 16 then d.rxDone e p 9 2 []
      else match pktSpan p.bytes with
        | none => d.rxDone e p 9 1 []
        | some x => bif d.winMatch (d.winEntry (pktWin p.bytes)) (pktSrc p.bytes) then
            let ws := d.winEntry (pktWin p.bytes)
            rxAnswered e { p with ent := ws } (attempt e { d with we.rx := d.we.rx.map (fun y => if y.k = k then { p with ent := ws } else y) } (.packet k)
              (do let y ← pktTranslate { p with ent := ws } ws x; pktPerform { p with ent := ws } ws y))
          else d.rxDone e p 9 3 [] := by
  unfold Die.rxGo
  rw [h]
  dsimp only
  rw [hent]
  split
  · rfl
  · cases pktSpan p.bytes with
    | none => rfl
    | some x =>
      dsimp only
      rw [if_pos rfl]
      cases d.winMatch (d.winEntry (pktWin p.bytes)) (pktSrc p.bytes) with
      | true => rfl
      | false => rfl

theorem Die.winMatch_arrived (d : Die) (n : Nat) (w : Win) (b : List Byte) :
    Die.winMatch { d with nid := n, we := w } (Die.winEntry { d with nid := n, we := w } (pktWin b)) (pktSrc b) = d.winMatch (d.winEntry (pktWin b)) (pktSrc b) := rfl

/-- Settles O46: each row is the same walk through Table 6.6, which stops at the first failing check. -/
theorem requestPacketsAreCheckedInOrderAndAnswered : Obligations.RequestPacketsAreCheckedInOrderAndAnswered := by
  unfold Obligations.RequestPacketsAreCheckedInOrderAndAnswered
  intro x hx s p b b' tag v d hop
  have hexec := exec_packetRow hx s p b tag hop
  dsimp only
  refine ⟨fun hdown => ?_, fun h => ?_, fun h => ?_, fun h hnew => ?_⟩
  · rw [hexec, Die.rxArrive_down hdown]
    rfl
  · rw [hexec, h]
    rfl
  · rw [h] at hexec
    exact ⟨{ k := d.nid, port := p.toNat, bytes := b', verified := false }, rfl, rfl, hexec⟩
  · rw [h] at hexec
    rw [hexec]
    unfold rxRequested
    dsimp only
    have hfind := find?_append_new hnew { k := d.nid, port := p.toNat, bytes := b', verified := v } rfl
    rw [Die.rxGo_of_find s.env (d := { d with nid := d.nid + 1, we := { d.we with rx := d.we.rx ++ [{ k := d.nid, port := p.toNat, bytes := b', verified := v }] } }) hfind rfl]
    dsimp only
    refine ⟨fun hdest => ?_, fun hdest hspan => ?_, fun r hdest hspan hwin => ?_, fun r hdest hspan hwin => ?_⟩
    · rw [if_pos hdest]
      rfl
    · rw [if_neg (not_not_intro hdest), hspan]
      rfl
    · rw [if_neg (not_not_intro hdest), hspan]
      dsimp only
      rw [Die.winMatch_arrived, hwin]
      rfl
    · rw [if_neg (not_not_intro hdest), hspan]
      dsimp only
      rw [Die.winMatch_arrived, hwin]
      refine ⟨fun a d' hok => ?_, fun c u d' hstop => ?_, fun d' hwait => ?_⟩
      · exact congrArg (fun r => s.go (rxAnswered s.env _ r)) hok
      · exact congrArg (fun r => s.go (rxAnswered s.env _ r)) hstop
      · exact congrArg (fun r => s.go (rxAnswered s.env _ r)) hwait

/-! ### Responses (R181, R193, R195, R196) -/

/-- What a response does to the request it answers. -/
def Die.answered (e : Env) (d : Die) (op : Nat) (b : List Byte) (v : Option Bool) (t : Trk) : Die :=
  if v.isNone then d.winEnds e t.req St.BUS_ERROR
  else if op = 9 then d.winFail e t.req (pktAux b)
  else if t.req.op = 3 ∨ t.req.op = 4 then d
  else { d with we := { d.we with data := d.we.data ++ [{ use := t.req.use, die := t.req.die, win := t.req.win, op := t.req.op, off := t.req.off, bytes := b.drop 32 }] } }

/-- What becomes of a response packet in `d`, once its buffer is free. -/
def Die.responded (e : Env) (d : Die) (op : Nat) (b : List Byte) (v : Option Bool) : Option Trk → Die
  | none => d.incSat F.WE_STATUS.STALE 0 1
  | some t => d.trkEnd e t (fun d => d.answered e op b v t)

/-- The response rows of Table 6.4. -/
def responseRows : List ((BitVec 4 → List Byte → BitVec 128 → Instr) × Nat) := [(Instr.rdRsp, 2), (Instr.atomicRsp, 6), (Instr.ack, 8), (Instr.nack, 9)]

/-- The response rows of Table 6.4 differ in their operation alone. -/
theorem exec_responseRow {x : (BitVec 4 → List Byte → BitVec 128 → Instr) × Nat} (hx : x ∈ responseRows) {s : State} {p : BitVec 4} {b b' : List Byte} {tag : BitVec 128}
    {v : Option Bool} {d dc : Die} (hop : pktOp b = x.2) (harrive : s.d.rxArrive s.env p.toNat b tag true = (d, some (b', v)))
    (hdc : dc = if x.2 = 9 then (d.rxFree p.toNat b').count (3568 + 16 * p.toNat + 7) 1 else d.rxFree p.toNat b') :
    exec (x.1 p b tag) s = s.go (dc.responded s.env x.2 b' v
      (dc.we.trks.find? (fun t => decide (t.n + 8192 * t.gen = pktTag b' ∧ t.req.die = pktSrc b') && answers t x.2 (b'.drop 32).length))) := by
  have hrow : exec (x.1 p b tag) s = s.go (s.d.rxResponse s.env p.toNat x.2 b tag) := by
    simp only [responseRows, List.mem_cons, List.not_mem_nil, or_false] at hx
    rcases hx with rfl | rfl | rfl | rfl <;> rfl
  rw [hrow]
  unfold Die.rxResponse
  rw [if_neg (not_not_intro hop), harrive]
  dsimp only
  rw [← hdc]
  generalize dc.we.trks.find? (fun t => decide (t.n + 8192 * t.gen = pktTag b' ∧ t.req.die = pktSrc b') && answers t x.2 (b'.drop 32).length) = o
  cases o <;> rfl

/-- Settles O47: the tracker that a response names is free, and what the response brings reaches its request, unless its context has gone. -/
theorem responsesEndTheirTrackers : Obligations.ResponsesEndTheirTrackers := by
  unfold Obligations.ResponsesEndTheirTrackers
  refine ⟨fun x hx s p b b' tag v d hop harrive => ?_, fun s n t ht => ⟨fun hnow => ?_, fun hnow hdead => ?_⟩⟩
  · intro free dc mine
    have hdc : dc = if x.2 = 9 then (d.rxFree p.toNat b').count (3568 + 16 * p.toNat + 7) 1 else d.rxFree p.toNat b' := rfl
    have hrest : Within { ch := true, out := true } d dc := by
      rw [hdc]
      split
      · exact (Die.send_within d _).trans (Die.count_within _ _ 1)
      · exact Die.send_within d _
    have hexec := exec_responseRow hx hop harrive hdc
    rw [hrest.we] at hexec
    have hmem := hrest.mem
    have hsf := hrest.sf
    clear_value dc
    refine ⟨fun hnone => ?_, fun t ht hdead => ?_, fun t ht hdead => ?_⟩
    · rw [hexec, hnone]
      rfl
    · rw [hexec, ht]
      change _ ∧ _ ∧ _ ∧ _
      unfold Die.responded Die.trkEnd
      dsimp only
      rw [hdead, if_neg Bool.false_ne_true]
      unfold Die.answered
      refine ⟨fun hv => ?_, fun hv hnack => ?_, fun hv hnack hwr => ?_, fun hv hnack h3 h4 => ?_⟩
      · rw [hv, if_pos Option.isNone_none]
        rfl
      all_goals
        have hsome : ¬ v.isNone = true := fun h => hv (Option.isNone_iff_eq_none.1 h)
        rw [if_neg hsome]
      · rw [if_pos hnack]
        rfl
      · rw [if_neg hnack, if_pos hwr]
        rfl
      · rw [if_neg hnack, if_neg (not_or.2 ⟨h3, h4⟩)]
        exact ⟨_, rfl, rfl, hmem, hsf, fun y hy => of_decide_eq_true (List.mem_filter.1 hy).2, rfl⟩
    · rw [hexec, ht]
      unfold Die.responded Die.trkEnd
      dsimp only
      rw [hdead, if_pos rfl]
      rfl
  · have hn : t.n = n.toNat := of_decide_eq_true (List.find?_some (p := fun x : Trk => decide (x.n = n.toNat)) ht)
    change execWindowRspTimeout n s = _
    unfold execWindowRspTimeout
    dsimp only
    rw [ht]
    dsimp only
    rw [if_pos hnow]
    rfl
  · have hn : t.n = n.toNat := of_decide_eq_true (List.find?_some (p := fun x : Trk => decide (x.n = n.toNat)) ht)
    have hexec : exec (.windowRspTimeout n) s = s.go ((s.d.count (3568 + 16 * t.port + 8) 1).trkEnd s.env t (fun d => d.winFail s.env t.req 16)) := by
      change execWindowRspTimeout n s = _
      unfold execWindowRspTimeout
      dsimp only
      rw [ht]
      dsimp only
      rw [if_neg (Nat.not_lt.2 hnow)]
    have hregs : (s.d.count (3568 + 16 * t.port + 8) 1).regs = s.d.regs := by rw [Die.count_eq]
    have hmem := (Die.count_within (p := { ch := true }) s.d (3568 + 16 * t.port + 8) 1).mem
    rw [hexec]
    unfold Die.trkEnd
    generalize s.d.count (3568 + 16 * t.port + 8) 1 = y at hregs hmem ⊢
    dsimp only
    rw [hdead, if_neg Bool.false_ne_true]
    exact ⟨_, rfl, fun y hy => hn ▸ of_decide_eq_true (List.mem_filter.1 hy).2, hregs, hmem⟩

/-! ### Windows, ports and credits (R186, R187, R197, R198) -/

/-- The words of window `w` take `ws`. -/
def Die.putWords (d : Die) (w : Nat) (ws : List Word) : Die := ws.zipIdx.foldl (fun d x => d.setReg .WE_WTAB w x.2 x.1) d

theorem Die.putWords_within (d : Die) (w : Nat) (ws : List Word) : Within { regs := [.WE_WTAB] } d (d.putWords w ws) :=
  .foldl (fun (d : Die) (x : Word × Nat) => d.setReg .WE_WTAB w x.2 x.1) (fun y x => Die.setReg_within y _ _ _ _) _ d

theorem Die.putWords_four (d : Die) (w : Nat) (f : Nat → Word) :
    (∀ i < 4, (d.putWords w ((List.range 4).map f)).reg .WE_WTAB w i = f i) ∧
      ∀ v j, v ≠ w → j < 8 → (d.putWords w ((List.range 4).map f)).reg .WE_WTAB v j = d.reg .WE_WTAB v j := by
  change (∀ i < 4, ((((d.setReg .WE_WTAB w 0 (f 0)).setReg .WE_WTAB w 1 (f 1)).setReg .WE_WTAB w 2 (f 2)).setReg .WE_WTAB w 3 (f 3)).reg .WE_WTAB w i = f i) ∧
    ∀ v j, v ≠ w → j < 8 → ((((d.setReg .WE_WTAB w 0 (f 0)).setReg .WE_WTAB w 1 (f 1)).setReg .WE_WTAB w 2 (f 2)).setReg .WE_WTAB w 3 (f 3)).reg .WE_WTAB v j = d.reg .WE_WTAB v j
  constructor
  · intro i hi
    interval_cases i
    · rw [Die.reg_setReg_ne _ _ _ _ _ _ _ _ (by omega), Die.reg_setReg_ne _ _ _ _ _ _ _ _ (by omega), Die.reg_setReg_ne _ _ _ _ _ _ _ _ (by omega), Die.reg_setReg_same]
    · rw [Die.reg_setReg_ne _ _ _ _ _ _ _ _ (by omega), Die.reg_setReg_ne _ _ _ _ _ _ _ _ (by omega), Die.reg_setReg_same]
    · rw [Die.reg_setReg_ne _ _ _ _ _ _ _ _ (by omega), Die.reg_setReg_same]
    · rw [Die.reg_setReg_same]
  · intro v j hv hj
    rw [Die.reg_setReg_ne _ _ _ _ _ _ _ _ (by omega), Die.reg_setReg_ne _ _ _ _ _ _ _ _ (by omega), Die.reg_setReg_ne _ _ _ _ _ _ _ _ (by omega),
      Die.reg_setReg_ne _ _ _ _ _ _ _ _ (by omega)]

theorem Die.putEntry_eq (d : Die) (c : Cmd) (w : Nat) (ws : List Word) :
    d.putEntry c w ws = { ((d.putWords w ws).opBegun c 4 (d.putWords w ws).nid) with
      nid := (d.putWords w ws).nid + 1,
      we := { ((d.putWords w ws).opBegun c 4 (d.putWords w ws).nid).we with mapOps := (d.putWords w ws).we.mapOps ++
        [((d.putWords w ws).nid, w, (d.we.rx.filter (fun p => decide (p.ent ≠ [] ∧ pktWin p.bytes = w))).map (·.k), c.id)] } } := rfl

/-- What MAP_WINDOW leaves, once begun: its command done, the entry written, and its fence waiting for the packets of the old entry. -/
theorem Die.putEntry_spec {d : Die} {c : Cmd} (hcmd : d.cmd c.id = some c) (w : Nat) (ws : List Word) :
    (d.putEntry c w ws).cmd c.id = some { c with st := .done, status := St.OK, result := 0 } ∧
      Within { sf := true, sm := true, we := true, nid := true } (d.putWords w ws) (d.putEntry c w ws) ∧
      (d.putEntry c w ws).we.mapOps = d.we.mapOps ++ [(d.nid, w, (d.we.rx.filter (fun p => decide (p.ent ≠ [] ∧ pktWin p.bytes = w))).map (·.k), c.id)] := by
  have hput := d.putWords_within w ws
  have hcmd' : (d.putWords w ws).cmd c.id = some c := (Die.cmd_of_sf hput.sf c.id).trans hcmd
  have hwe := hput.we
  have hnid := hput.nid
  rw [Die.putEntry_eq]
  generalize d.putWords w ws = y at hcmd' hwe hnid ⊢
  have hdone := Die.finish_cmd y c.id St.OK 0 c hcmd'
  have hfin : Within { sf := true, sm := true, we := true, nid := true } y (y.finish c.id St.OK 0) := Die.finish_within y c.id St.OK 0
  unfold Die.opBegun Die.addFence
  generalize y.finish c.id St.OK 0 = z at hdone hfin ⊢
  refine ⟨(Die.cmd_of_sf rfl c.id).trans hdone, hfin.trans (.of_eq rfl rfl), ?_⟩
  dsimp only
  rw [hwe, hnid]

/-- The command, the words and the pending entry of a MAP_WINDOW that has begun. -/
def mapBegun (s : State) (id : Nat) (d : Die) (w : Nat) (t : State) : Prop :=
  (∃ x, t.d.cmd id = some x ∧ x.st = .done ∧ x.status = St.OK ∧ x.result = 0) ∧ (∀ v j, v ≠ w → j < 8 → t.d.reg .WE_WTAB v j = d.reg .WE_WTAB v j) ∧
    t.d.we.mapOps = d.we.mapOps ++ [(d.nid, w, (d.we.rx.filter (fun p => decide (p.ent ≠ [] ∧ pktWin p.bytes = w))).map (·.k), id)] ∧ t.d.mem = d.mem ∧ t.env = s.env

theorem mapBegun_of_putEntry {s : State} {id : Nat} {c : Cmd} {d : Die} (h : Acting s id Op.MAP_WINDOW c d) (w : Nat) (ws : List Word)
    (hothers : ∀ v j, v ≠ w → j < 8 → (d.putWords w ws).reg .WE_WTAB v j = d.reg .WE_WTAB v j) :
    mapBegun s id d w (actsTo s id c (d.putEntry c w ws)) ∧
      ∀ v j, (actsTo s id c (d.putEntry c w ws)).d.reg .WE_WTAB v j = (d.putWords w ws).reg .WE_WTAB v j := by
  have hid : c.id = id := h.id
  obtain ⟨hdone, hrest, hops⟩ := Die.putEntry_spec (hid ▸ h.cmd : d.cmd c.id = some c) w ws
  have hacts := actsTo_within h (d.putEntry c w ws)
  have hcmd := actsTo_cmd h (d.putEntry c w ws) id
  rw [hid] at hdone hops
  have hreg : ∀ v j, (actsTo s id c (d.putEntry c w ws)).d.reg .WE_WTAB v j = (d.putWords w ws).reg .WE_WTAB v j :=
    fun v j => (hacts.reg .WE_WTAB v j).trans (hrest.reg .WE_WTAB v j)
  refine ⟨⟨⟨_, hcmd.trans hdone, rfl, rfl, rfl⟩, fun v j hv hj => (hreg v j).trans (hothers v j hv hj), ?_, ?_, (actsTo_env id c _).1⟩, hreg⟩
  · rw [hacts.we, hops]
  · exact hacts.mem.trans (hrest.mem.trans (d.putWords_within w ws).mem)

theorem Die.putWords_one (d : Die) (w : Nat) (x : Word) :
    (d.putWords w [x]).reg .WE_WTAB w 0 = x ∧ ∀ v j, v ≠ w → j < 8 → (d.putWords w [x]).reg .WE_WTAB v j = d.reg .WE_WTAB v j := by
  change (d.setReg .WE_WTAB w 0 x).reg .WE_WTAB w 0 = x ∧ ∀ v j, v ≠ w → j < 8 → (d.setReg .WE_WTAB w 0 x).reg .WE_WTAB v j = d.reg .WE_WTAB v j
  exact ⟨Die.reg_setReg_same _ _ _ _ _, fun v j hv hj => Die.reg_setReg_ne _ _ _ _ _ _ _ _ (by omega)⟩

/-- A row of MAP_WINDOW runs its body where the sub-operation is its own. -/
theorem mapWindow_sub {c : Cmd} {n : Nat} (harg : c.arg0 = n) (x : Cmd) (hdesc : x.desc = c.desc) : decide (x.arg0 = n) = true :=
  decide_eq_true (by unfold Cmd.arg0 at harg ⊢; rw [hdesc, harg])

theorem exec_mapWindowSet {s : State} {id : Nat} {c : Cmd} {d : Die} (h : Acting s id Op.MAP_WINDOW c d) (harg : c.arg0 = 0) :
    exec (.mapWindowSet id) s = .next (actsTo s id c (
      if !(d.ctxValid (dfield c.desc 32 1 12)) ∨ d.isKernelCtx (dfield c.desc 32 1 12) then d.cmdFail s.env c St.BAD_ARG false
      else if d.sliceState (d.ctxSlice (dfield c.desc 32 1 12)) = 0 ∨ d.sliceState (d.ctxSlice (dfield c.desc 32 1 12)) = 5 then d.opRefused c Why.WRONG_STATE 0
      else d.putEntry c (dfield c.desc 8 0 12) ((List.range 4).map (fun i => BitVec.ofNat 64 (c.q (32 + 8 * i)))))) :=
  exec_of_start (sub := fun c => decide (c.arg0 = 0)) (body := fun c d =>
      if !(d.ctxValid (dfield c.desc 32 1 12)) ∨ d.isKernelCtx (dfield c.desc 32 1 12) then d.cmdFail s.env c St.BAD_ARG false
      else if d.sliceState (d.ctxSlice (dfield c.desc 32 1 12)) = 0 ∨ d.sliceState (d.ctxSlice (dfield c.desc 32 1 12)) = 5 then d.opRefused c Why.WRONG_STATE 0
      else d.putEntry c (dfield c.desc 8 0 12) ((List.range 4).map (fun i => BitVec.ofNat 64 (c.q (32 + 8 * i))))) h rfl
    (fun x hdesc _ => mapWindow_sub harg x hdesc)

theorem exec_mapWindowClear {s : State} {id : Nat} {c : Cmd} {d : Die} (h : Acting s id Op.MAP_WINDOW c d) (harg : c.arg0 = 1) :
    exec (.mapWindowClear id) s = .next (actsTo s id c (d.putEntry c (dfield c.desc 8 0 12) [putField (d.reg .WE_WTAB (dfield c.desc 8 0 12) 0) 0 1 0])) :=
  exec_of_start (sub := fun c => decide (c.arg0 = 1))
    (body := fun c d => d.putEntry c (dfield c.desc 8 0 12) [putField (d.reg .WE_WTAB (dfield c.desc 8 0 12) 0) 0 1 0]) h rfl
    (fun x hdesc _ => mapWindow_sub harg x hdesc)

/-- The port is down, and that is counted. -/
def Die.countDown (d : Die) (p : Nat) : Die := (d.setF F.WE_PORT_STATUS.UP p 0).incSat F.WE_PORT_STATUS.DOWN_COUNT p 1

theorem Die.countDown_spec (d : Die) (p : Nat) :
    Within { regs := [.WE_PORT_STATUS] } d (d.countDown p) ∧ (d.countDown p).bit F.WE_PORT_STATUS.UP p = false ∧
      (d.countDown p).getF F.WE_PORT_STATUS.DOWN_COUNT p = min (d.getF F.WE_PORT_STATUS.DOWN_COUNT p + 1) (2 ^ F.WE_PORT_STATUS.DOWN_COUNT.width - 1) := by
  unfold Die.countDown
  refine ⟨(Die.setF_within d F.WE_PORT_STATUS.UP p 0).trans (Die.incSat_within _ F.WE_PORT_STATUS.DOWN_COUNT p 1), ?_, ?_⟩
  · rw [Die.bit_eq_false_iff _ _ _ rfl]
    unfold Die.incSat
    rw [Die.getF_setF_apart _ _ _ _ _ rfl, Die.getF_setF_same _ _ _ _ (Nat.le_of_ble_eq_true rfl)]
    rfl
  · rw [Die.getF_incSat_same _ _ _ _ (Nat.le_of_ble_eq_true rfl), Die.getF_setF_apart _ _ _ _ _ rfl]

/-- The exchange of a port that has gone down is over. -/
def Die.kexGone (d : Die) (p : Nat) : Die := if d.se.kex.any (fun k => decide (k.port = p)) then d.kexOver else d

theorem Die.kexOver_spec (d : Die) : Within { regs := [.TS_KEX_STATUS], se := true } d d.kexOver ∧ d.kexOver.se.kex = none ∧
    d.kexOver.getF F.TS_KEX_STATUS.BUSY 0 = 0 ∧ d.kexOver.getF F.TS_KEX_STATUS.STAGED 0 = 0 := by
  have hbusy : ((d.setF F.TS_KEX_STATUS.BUSY 0 0).setF F.TS_KEX_STATUS.STAGED 0 0).getF F.TS_KEX_STATUS.BUSY 0 = 0 := by
    rw [Die.getF_setF_apart _ _ _ _ _ rfl, Die.getF_setF_same _ _ _ _ (Nat.le_of_ble_eq_true rfl)]
    rfl
  have hstaged : ((d.setF F.TS_KEX_STATUS.BUSY 0 0).setF F.TS_KEX_STATUS.STAGED 0 0).getF F.TS_KEX_STATUS.STAGED 0 = 0 := by
    rw [Die.getF_setF_same _ _ _ _ (Nat.le_of_ble_eq_true rfl)]
    rfl
  have hrest : Within { regs := [.TS_KEX_STATUS], se := true } d ((d.setF F.TS_KEX_STATUS.BUSY 0 0).setF F.TS_KEX_STATUS.STAGED 0 0) :=
    (Die.setF_within d F.TS_KEX_STATUS.BUSY 0 0).trans (Die.setF_within _ F.TS_KEX_STATUS.STAGED 0 0)
  unfold Die.kexOver
  generalize (d.setF F.TS_KEX_STATUS.BUSY 0 0).setF F.TS_KEX_STATUS.STAGED 0 0 = y at hbusy hstaged hrest ⊢
  exact ⟨hrest.trans (Die.setSe_within y _), rfl, hbusy, hstaged⟩

theorem Die.kexGone_spec (d : Die) (p : Nat) : Within { regs := [.TS_KEX_STATUS], se := true } d (d.kexGone p) ∧ (∀ k ∈ (d.kexGone p).se.kex, k.port ≠ p) ∧
    ((∃ k ∈ d.se.kex, k.port = p) → (d.kexGone p).getF F.TS_KEX_STATUS.BUSY 0 = 0 ∧ (d.kexGone p).getF F.TS_KEX_STATUS.STAGED 0 = 0) := by
  obtain ⟨hrest, hnone, hbusy, hstaged⟩ := d.kexOver_spec
  unfold Die.kexGone
  by_cases h : d.se.kex.any (fun k => decide (k.port = p)) = true
  · rw [if_pos h]
    exact ⟨hrest, by rw [hnone]; exact fun k hk => absurd hk (by simp), fun _ => ⟨hbusy, hstaged⟩⟩
  · rw [if_neg h]
    have hno : ∀ k ∈ d.se.kex, k.port ≠ p := fun k hk hp => h ((Option.any_eq_true _ _).2 ⟨k, hk, decide_eq_true hp⟩)
    exact ⟨.refl d, hno, fun ⟨k, hk, hp⟩ => absurd hp (hno k hk)⟩

/-- The keys and the responses of a port that has gone down are gone. -/
def Die.keysLost (d : Die) (p : Nat) : Die :=
  { d.setF F.SE_LINK.STATE p 0 with se.links := Tab.set none d.se.links p none, we.rspq := d.we.rspq.filter (fun r => decide (r.1 ≠ p)) }

theorem Die.keysLost_spec (d : Die) (p : Nat) : Within { regs := [.SE_LINK], se := true, we := true } d (d.keysLost p) ∧
    (d.keysLost p).getF F.SE_LINK.STATE p = 0 ∧ Tab.get none (d.keysLost p).se.links p = none ∧ (d.keysLost p).se.kex = d.se.kex ∧
    (∀ r ∈ (d.keysLost p).we.rspq, r.1 ≠ p) ∧ (d.keysLost p).we.trks = d.we.trks := by
  have hstate : (d.setF F.SE_LINK.STATE p 0).getF F.SE_LINK.STATE p = 0 := by
    rw [Die.getF_setF_same _ _ _ _ (Nat.le_of_ble_eq_true rfl)]
    rfl
  have hrest : Within { regs := [.SE_LINK], se := true, we := true } d (d.setF F.SE_LINK.STATE p 0) := Die.setF_within d F.SE_LINK.STATE p 0
  have hse : (d.setF F.SE_LINK.STATE p 0).se = d.se := rfl
  have hwe : (d.setF F.SE_LINK.STATE p 0).we = d.we := rfl
  unfold Die.keysLost
  generalize d.setF F.SE_LINK.STATE p 0 = y at hstate hrest hse hwe ⊢
  refine ⟨hrest.trans (.of_eq rfl rfl), hstate, Tab.get_set_same none d.se.links p none, ?_, fun r hr => of_decide_eq_true (List.mem_filter.1 hr).2, ?_⟩
  · dsimp only
    rw [hse]
  · dsimp only
    rw [hwe]

/-- The port is down, and what it was has gone: its exchange, its keys and its responses. -/
def Die.portLost (e : Env) (d : Die) (p : Nat) : Die := (((d.countDown p).report e { cause := Cs.LINK_DOWN, inst := p }).kexGone p).keysLost p

theorem Die.portDown_eq {e : Env} {d : Die} {p : Nat} (h : (d.portLost e p).we.trks.filter (fun t => decide (t.port = p)) = []) :
    d.portDown e p = (d.portLost e p).routeGone e := by
  change Die.routeGone e (((d.portLost e p).we.trks.filter (fun t => decide (t.port = p))).foldl (fun d t =>
    match d.we.trks.find? (fun y => decide (y.n = t.n)) with
    | some y => d.trkEnd e y (fun d => d.winFail e y.req 17)
    | none => d) (d.portLost e p)) = _
  rw [h]
  rfl

/-- A port that has gone down is counted, and its exchange, its keys and its responses have gone. -/
theorem Die.portLost_spec (e : Env) (d : Die) (p : Nat) :
    Within { regs := [.WE_PORT_STATUS, .AY_STATUS, .TS_KEX_STATUS, .SE_LINK], ay := true, se := true, we := true } d (d.portLost e p) ∧
      (d.portLost e p).bit F.WE_PORT_STATUS.UP p = false ∧ (d.portLost e p).getF F.SE_LINK.STATE p = 0 ∧ Tab.get none (d.portLost e p).se.links p = none ∧
      (d.portLost e p).getF F.WE_PORT_STATUS.DOWN_COUNT p = min (d.getF F.WE_PORT_STATUS.DOWN_COUNT p + 1) (2 ^ F.WE_PORT_STATUS.DOWN_COUNT.width - 1) ∧
      (∀ k ∈ (d.portLost e p).se.kex, k.port ≠ p) ∧
      ((∃ k ∈ d.se.kex, k.port = p) → (d.portLost e p).getF F.TS_KEX_STATUS.BUSY 0 = 0 ∧ (d.portLost e p).getF F.TS_KEX_STATUS.STAGED 0 = 0) ∧
      (∀ r ∈ (d.portLost e p).we.rspq, r.1 ≠ p) ∧ (d.portLost e p).we.trks = d.we.trks := by
  unfold Die.portLost
  obtain ⟨h₁, hup, hcount⟩ := d.countDown_spec p
  generalize d.countDown p = x at h₁ hup hcount ⊢
  have h₂ : Within { regs := [.AY_STATUS], ay := true } x (x.report e { cause := Cs.LINK_DOWN, inst := p }) := Die.report_within e x _
  generalize x.report e { cause := Cs.LINK_DOWN, inst := p } = y at h₂ ⊢
  obtain ⟨h₃, hkex, hbusy⟩ := y.kexGone_spec p
  generalize y.kexGone p = z at h₃ hkex hbusy ⊢
  obtain ⟨h₄, hstate, hlinks, hkeep, hrspq, htrks⟩ := z.keysLost_spec p
  generalize z.keysLost p = u at h₄ hstate hlinks hkeep hrspq htrks ⊢
  refine ⟨((h₁.mono.trans h₂.mono).trans h₃.mono).trans h₄.mono, ?_, hstate, hlinks, ?_, fun k hk => hkex k (hkeep ▸ hk), fun hk => ?_, hrspq, ?_⟩
  · rw [h₄.bit F.WE_PORT_STATUS.UP, h₃.bit F.WE_PORT_STATUS.UP, h₂.bit F.WE_PORT_STATUS.UP, hup]
  · rw [h₄.getF F.WE_PORT_STATUS.DOWN_COUNT, h₃.getF F.WE_PORT_STATUS.DOWN_COUNT, h₂.getF F.WE_PORT_STATUS.DOWN_COUNT, hcount]
  · rw [h₄.getF F.TS_KEX_STATUS.BUSY, h₄.getF F.TS_KEX_STATUS.STAGED]
    exact hbusy (by rw [h₂.se, h₁.se]; exact hk)
  · rw [htrks, h₃.we, h₂.we, h₁.we]

/-- A port that has come up has the credits of each class. -/
def Die.portRises (d : Die) (p : Nat) : Die := ((d.setF F.WE_PORT_STATUS.UP p 1).setF F.WE_PORT_STATUS.REQ_CREDITS p 64).setF F.WE_PORT_STATUS.RSP_CREDITS p 64

theorem Die.portRises_spec (d : Die) (p : Nat) : Within { regs := [.WE_PORT_STATUS] } d (d.portRises p) ∧ (d.portRises p).bit F.WE_PORT_STATUS.UP p = true ∧
    (d.portRises p).getF F.WE_PORT_STATUS.REQ_CREDITS p = 64 ∧ (d.portRises p).getF F.WE_PORT_STATUS.RSP_CREDITS p = 64 := by
  unfold Die.portRises
  refine ⟨((Die.setF_within d F.WE_PORT_STATUS.UP p 1).trans (Die.setF_within _ F.WE_PORT_STATUS.REQ_CREDITS p 64)).trans (Die.setF_within _ F.WE_PORT_STATUS.RSP_CREDITS p 64), ?_, ?_, ?_⟩
  · rw [Die.bit_iff_getF _ _ _ rfl, Die.getF_setF_apart _ _ _ _ _ rfl, Die.getF_setF_apart _ _ _ _ _ rfl, Die.getF_setF_same _ _ _ _ (Nat.le_of_ble_eq_true rfl)]
    rfl
  · rw [Die.getF_setF_apart _ _ _ _ _ rfl, Die.getF_setF_same _ _ _ _ (Nat.le_of_ble_eq_true rfl)]
    rfl
  · rw [Die.getF_setF_same _ _ _ _ (Nat.le_of_ble_eq_true rfl)]
    rfl

/-- The credits of class `c` of a link port. -/
def creditField (c : Nat) : Fld := if c = 0 then F.WE_PORT_STATUS.REQ_CREDITS else F.WE_PORT_STATUS.RSP_CREDITS

theorem creditField_spec (c : Nat) : (creditField c).reg = .WE_PORT_STATUS ∧ (creditField c).lo + (creditField c).width ≤ 64 ∧ (creditField c).width = 8 := by
  unfold creditField
  split <;> exact ⟨rfl, Nat.le_of_ble_eq_true rfl, rfl⟩

theorem exec_creditReturn_link (s : State) (p : BitVec 4) {c : Nat} (hc : c < 2) :
    exec (.creditReturn (BitVec.ofNat 7 (64 + p.toNat)) (BitVec.ofNat 4 c)) s = s.go (
      if s.d.bit F.WE_PORT_STATUS.UP p.toNat ∧ s.d.getF (creditField c) p.toNat < 64 then
        (s.d.setF (creditField c) p.toNat (s.d.getF (creditField c) p.toNat + 1)).winPump s.env else s.d) := by
  have hp : (BitVec.ofNat 7 (64 + p.toNat)).toNat = 64 + p.toNat := Nat.mod_eq_of_lt (by have := p.isLt; omega)
  have hcn : (BitVec.ofNat 4 c).toNat = c := Nat.mod_eq_of_lt (by omega)
  change execCreditReturn _ _ s = _
  unfold execCreditReturn
  dsimp only
  rw [hp, hcn, if_neg (by omega), if_pos (by have := p.isLt; omega), Nat.add_sub_cancel_left]
  unfold creditField
  simp only [hc, true_and]

theorem pktTaken_drop {e : Env} {d : Die} {p : Nat} {b : List Byte} (hup : d.bit F.WE_PORT_STATUS.UP p = true) (htaken : pktTaken e b = false) :
    (d.rxArrive e p b 0 false).1 = ((((d.count (3568 + 16 * p + 5) b.length).count 9 b.length).monitor e 3 p 0 b.length).incSat F.WE_STATUS.RX_DROP 0 1).rxFree p b := by
  unfold Die.rxArrive
  rw [hup]
  dsimp only
  rw [htaken]
  rfl

/-- Settles O48: windows change whole under their fence, and a port's state and credits follow its link. -/
theorem windowEntriesAndLinkPortsChange : Obligations.WindowEntriesAndLinkPortsChange := by
  unfold Obligations.WindowEntriesAndLinkPortsChange
  refine ⟨fun s id c d h => ?_, fun s op x hx => ⟨fun hwait => ?_, fun hgone => ?_⟩, fun s p => ?_⟩
  · intro w ctx begun_
    refine ⟨fun harg hvalid hkernel h0 h5 => ?_, fun harg hbad => ?_, fun harg hvalid hkernel hslice => ?_, fun harg => ?_⟩
    · obtain ⟨hwords, hothers⟩ := d.putWords_four w (fun i => BitVec.ofNat 64 (c.q (32 + 8 * i)))
      obtain ⟨hbegun, hreg⟩ := mapBegun_of_putEntry h w _ hothers
      refine ⟨_, ?_, hbegun, fun i hi => (hreg w i).trans (hwords i hi)⟩
      rw [exec_mapWindowSet h harg, hvalid, hkernel, if_neg (by simp), if_neg (not_or.2 ⟨h0, h5⟩)]
    · rw [exec_mapWindowSet h harg, if_pos (by rcases hbad with hbad | hbad <;> rw [hbad] <;> simp)]
    · rw [exec_mapWindowSet h harg, hvalid, hkernel, if_neg (by simp), if_pos hslice]
      unfold Die.opRefused
      rw [h.id]
      rfl
    · obtain ⟨hword, hothers⟩ := d.putWords_one w (putField (d.reg .WE_WTAB w 0) 0 1 0)
      obtain ⟨hbegun, hreg⟩ := mapBegun_of_putEntry h w _ hothers
      refine ⟨_, exec_mapWindowClear h harg, hbegun, ?_⟩
      unfold Die.getF
      rw [show F.WE_WTAB.VALID.reg = .WE_WTAB from rfl, hreg w _, hword]
      exact fieldOf_putField_same _ _ _ _ (Nat.le_of_ble_eq_true rfl)
  · change execMapWindowDrained op s = _
    unfold execMapWindowDrained
    dsimp only
    rw [hx]
    dsimp only
    rw [if_pos]
    · rfl
    · obtain ⟨q, hq, hk⟩ := hwait
      exact List.any_eq_true.2 ⟨q, hq, List.contains_iff_mem.2 hk⟩
  · change execMapWindowDrained op s = _
    unfold execMapWindowDrained
    dsimp only
    rw [hx]
    dsimp only
    rw [if_neg]
    · rfl
    · intro hany
      obtain ⟨q, hq, hk⟩ := List.any_eq_true.1 hany
      exact hgone q hq (List.contains_iff_mem.1 hk)
  · dsimp only
    refine ⟨fun hup htrks => ?_, fun hup => ⟨?_, ?_⟩, fun hup => ?_, fun c hc hup => ⟨fun hlt => ?_, fun hge => ?_⟩, fun b hup => ?_, fun b hup htaken => ?_, fun b hup htaken => ?_⟩
    · obtain ⟨hrest, hdown, hstate, hlinks, hcount, hkex, hbusy, hrspq, hkept⟩ := s.d.portLost_spec s.env p.toNat
      have hnone : (s.d.portLost s.env p.toNat).we.trks.filter (fun t => decide (t.port = p.toNat)) = [] := by
        rw [hkept, List.filter_eq_nil_iff]
        exact fun t ht => by simpa using htrks t ht
      refine ⟨s.d.portLost s.env p.toNat, ?_, hdown, hstate, hlinks, hcount, hkex, hbusy, hrspq, hrest.mem⟩
      change execLinkDown p s = _
      unfold execLinkDown
      rw [if_pos hup, Die.portDown_eq hnone]
      rfl
    · change execLinkDown p s = _
      unfold execLinkDown
      rw [hup]
      rfl
    · obtain ⟨hrest, hrose, hreq, hrsp⟩ := s.d.portRises_spec p.toNat
      refine ⟨_, ?_, hrose, hreq, hrsp, hrest.keepsRegs, hrest.mem⟩
      change execLinkUp p s = _
      unfold execLinkUp
      dsimp only
      rw [hup]
      rfl
    · change execLinkUp p s = _
      unfold execLinkUp
      dsimp only
      rw [if_pos hup]
      rfl
    · obtain ⟨hreg, hfits, hwidth⟩ := creditField_spec c
      rw [exec_creditReturn_link s p hc, if_pos ⟨hup, hlt⟩]
      refine ⟨_, rfl, ?_, ?_, ?_⟩
      · change (s.d.setF (creditField c) p.toNat (s.d.getF (creditField c) p.toNat + 1)).getF (creditField c) p.toNat = s.d.getF (creditField c) p.toNat + 1
        have hlt' : s.d.getF (creditField c) p.toNat < 64 := hlt
        rw [Die.getF_setF_same _ _ _ _ hfits, hwidth, Nat.mod_eq_of_lt (by omega)]
      · exact (Die.setF_within (p := { regs := [.WE_PORT_STATUS] }) s.d _ _ _ (by rw [hreg]; rfl)).keepsRegs
      · exact (Die.setF_within (p := { regs := [.WE_PORT_STATUS] }) s.d _ _ _ (by rw [hreg]; rfl)).mem
    · rw [exec_creditReturn_link s p hc, if_neg (fun h => absurd h.2 (Nat.not_lt.2 hge))]
      rfl
    · change execRxDrop p b s = _
      unfold execRxDrop
      dsimp only
      rw [hup, Die.rxArrive_down hup]
      rfl
    · change execRxDrop p b s = _
      unfold execRxDrop
      dsimp only
      rw [if_pos ⟨hup, htaken⟩]
      rfl
    · have hexec : exec (.rxDrop p b) s = s.go (s.d.rxArrive s.env p.toNat b 0 false).1 := by
        change execRxDrop p b s = _
        unfold execRxDrop
        dsimp only
        rw [htaken, if_neg (by simp)]
      rw [pktTaken_drop hup htaken] at hexec
      have hrest : Within { regs := monRegs, ch := true } s.d (((s.d.count (3568 + 16 * p.toNat + 5) b.length).count 9 b.length).monitor s.env 3 p.toNat 0 b.length) :=
        ((Die.count_within s.d _ _).trans (Die.count_within _ 9 _)).trans (Die.monitor_within _ s.env 3 p.toNat 0 _)
      generalize ((s.d.count (3568 + 16 * p.toNat + 5) b.length).count 9 b.length).monitor s.env 3 p.toNat 0 b.length = y at hexec hrest
      refine ⟨_, hexec, ?_, ⟨_, rfl⟩, ?_, ?_, rfl⟩
      · change (y.incSat F.WE_STATUS.RX_DROP 0 1).getF F.WE_STATUS.RX_DROP 0 = _
        rw [Die.getF_incSat_same _ _ _ _ (Nat.le_of_ble_eq_true rfl), hrest.getF F.WE_STATUS.RX_DROP 0]
      · exact hrest.we
      · exact hrest.mem

/-! ### System time (R199, R200) -/

theorem Die.rxArrive_unsealed {e : Env} {d d' : Die} {p : Nat} {b b' : List Byte} {v : Option Bool} (h : d.rxArrive e p b 0 false = (d', some (b', v))) :
    Within { regs := monRegs, ch := true } d d' := by
  unfold Die.rxArrive at h
  have hrest : Within { regs := monRegs, ch := true } d (((d.count (3568 + 16 * p + 5) b.length).count 9 b.length).monitor e 3 p 0 b.length) :=
    ((Die.count_within d _ _).trans (Die.count_within _ 9 _)).trans (Die.monitor_within _ e 3 p 0 _)
  cases hup : d.bit F.WE_PORT_STATUS.UP p with
  | false => rw [hup] at h; cases h
  | true =>
    rw [hup] at h
    dsimp only at h
    cases htaken : pktTaken e b with
    | false => rw [htaken] at h; cases h
    | true =>
      rw [htaken] at h
      cases h
      exact hrest.trans (Die.count_within _ _ 1)

/-- The lock, the depth and the count of the exchanges, as they stand after an exchange with lead `th` (R200, R201). -/
def Die.timeFields (d : Die) (th : Int) (depth : Nat) (now_ : Bool) : Die :=
  ((((d.setF F.WE_TIME_STATUS.LOCKED 0 (Bool.num now_)).setF F.WE_TIME_STATUS.TOO_DEEP 0 (Bool.num (decide (depth > 12)))).setF
    F.WE_TIME_STATUS.DEPTH 0 depth).incWrap F.WE_TIME_STATUS.SYNCS 0 1).setF F.WE_TIME_STATUS.OFFSET_NS 0 (sat32 th)

theorem Die.timeFields_spec (d : Die) (th : Int) (depth : Nat) (now_ : Bool) :
    Within { regs := [.WE_TIME_STATUS] } d (d.timeFields th depth now_) ∧ (d.timeFields th depth now_).getF F.WE_TIME_STATUS.LOCKED 0 = Bool.num now_ % 2 ^ F.WE_TIME_STATUS.LOCKED.width ∧
      (d.timeFields th depth now_).getF F.WE_TIME_STATUS.TOO_DEEP 0 = Bool.num (decide (depth > 12)) % 2 ^ F.WE_TIME_STATUS.TOO_DEEP.width ∧ (d.timeFields th depth now_).getF F.WE_TIME_STATUS.DEPTH 0 = depth % 2 ^ F.WE_TIME_STATUS.DEPTH.width ∧
      (d.timeFields th depth now_).getF F.WE_TIME_STATUS.SYNCS 0 = (d.getF F.WE_TIME_STATUS.SYNCS 0 + 1) % 2 ^ F.WE_TIME_STATUS.SYNCS.width := by
  unfold Die.timeFields Die.incWrap
  refine ⟨((((Die.setF_within d F.WE_TIME_STATUS.LOCKED 0 _).trans (Die.setF_within _ F.WE_TIME_STATUS.TOO_DEEP 0 _)).trans (Die.setF_within _ F.WE_TIME_STATUS.DEPTH 0 _)).trans
    (Die.setF_within _ F.WE_TIME_STATUS.SYNCS 0 _)).trans (Die.setF_within _ F.WE_TIME_STATUS.OFFSET_NS 0 _), ?_, ?_, ?_, ?_⟩
  · rw [Die.getF_setF_apart _ _ _ _ _ rfl, Die.getF_setF_apart _ _ _ _ _ rfl, Die.getF_setF_apart _ _ _ _ _ rfl, Die.getF_setF_apart _ _ _ _ _ rfl,
      Die.getF_setF_same _ _ _ _ (Nat.le_of_ble_eq_true rfl)]
  · rw [Die.getF_setF_apart _ _ _ _ _ rfl, Die.getF_setF_apart _ _ _ _ _ rfl, Die.getF_setF_apart _ _ _ _ _ rfl, Die.getF_setF_same _ _ _ _ (Nat.le_of_ble_eq_true rfl)]
  · rw [Die.getF_setF_apart _ _ _ _ _ rfl, Die.getF_setF_apart _ _ _ _ _ rfl, Die.getF_setF_same _ _ _ _ (Nat.le_of_ble_eq_true rfl)]
  · rw [Die.getF_setF_apart _ _ _ _ _ rfl, Die.getF_setF_same _ _ _ _ (Nat.le_of_ble_eq_true rfl), Die.getF_setF_apart _ _ _ _ _ rfl, Die.getF_setF_apart _ _ _ _ _ rfl,
      Die.getF_setF_apart _ _ _ _ _ rfl]

theorem Die.timeLock_eq (d : Die) (th : Int) (depth : Nat) (parent : Bool) : ∃ now_ w,
    d.timeLock th depth parent = { ((d.timeFields th (min 255 (depth + 1)) now_).count 3920 1) with we := w } ∧ (now_ = true → min 255 (depth + 1) ≤ 12 ∧ th.natAbs ≤ 100) := by
  refine ⟨_, _, rfl, fun h => ?_⟩
  rw [Bool.and_eq_true, Bool.and_eq_true, Bool.not_eq_true', decide_eq_false_iff_not, decide_eq_true_eq] at h
  exact ⟨Nat.not_lt.1 h.1.1, h.1.2⟩

/-- What an exchange leaves of the lock, the depth and the count. -/
theorem Die.timeLock_spec (d : Die) (th : Int) (depth : Nat) (parent : Bool) :
    Within { regs := [.WE_TIME_STATUS], ch := true, we := true } d (d.timeLock th depth parent) ∧
      (d.timeLock th depth parent).getF F.WE_TIME_STATUS.SYNCS 0 = (d.getF F.WE_TIME_STATUS.SYNCS 0 + 1) % 2 ^ F.WE_TIME_STATUS.SYNCS.width ∧
      (d.timeLock th depth parent).getF F.WE_TIME_STATUS.DEPTH 0 = min 255 (depth + 1) ∧
      (12 < depth + 1 → (d.timeLock th depth parent).bit F.WE_TIME_STATUS.LOCKED 0 = false ∧ (d.timeLock th depth parent).bit F.WE_TIME_STATUS.TOO_DEEP 0 = true) ∧
      (100 < th.natAbs → (d.timeLock th depth parent).bit F.WE_TIME_STATUS.LOCKED 0 = false) := by
  obtain ⟨now_, w, heq, hnow⟩ := d.timeLock_eq th depth parent
  obtain ⟨hrest, hlocked, hdeep, hdepth, hsyncs⟩ := d.timeFields_spec th (min 255 (depth + 1)) now_
  have hmin : min 255 (depth + 1) < 2 ^ 8 := by omega
  have hover : 12 < depth + 1 → 12 < min 255 (depth + 1) := fun h => by omega
  rw [heq]
  generalize min 255 (depth + 1) = m at hnow hrest hlocked hdeep hdepth hsyncs hmin hover ⊢
  generalize d.timeFields th m now_ = y at hrest hlocked hdeep hdepth hsyncs ⊢
  have hlast : Within { ch := true, we := true } y { (y.count 3920 1) with we := w } := (Die.count_within y 3920 1).trans (Die.setWe_within _ w)
  generalize { (y.count 3920 1) with we := w } = z at hlast ⊢
  have hunlocked : now_ = false → z.bit F.WE_TIME_STATUS.LOCKED 0 = false := fun h => by
    rw [hlast.bit F.WE_TIME_STATUS.LOCKED 0, Die.bit_eq_false_iff _ _ _ rfl, hlocked, h]
    rfl
  refine ⟨hrest.mono.trans hlast.mono, ?_, ?_, fun h => ⟨hunlocked ?_, ?_⟩, fun h => hunlocked ?_⟩
  · rw [hlast.getF F.WE_TIME_STATUS.SYNCS 0, hsyncs]
  · rw [hlast.getF F.WE_TIME_STATUS.DEPTH 0, hdepth, show F.WE_TIME_STATUS.DEPTH.width = 8 from rfl, Nat.mod_eq_of_lt hmin]
  · exact Bool.eq_false_iff.2 (fun hn => absurd (hnow hn).1 (Nat.not_le.2 (hover h)))
  · rw [hlast.bit F.WE_TIME_STATUS.TOO_DEEP 0, Die.bit_iff_getF _ _ _ rfl, hdeep, decide_eq_true (hover h)]
    rfl
  · exact Bool.eq_false_iff.2 (fun hn => absurd (hnow hn).2 (Nat.not_le.2 h))

theorem exec_timeReq {s : State} {p : BitVec 4} {b b' : List Byte} {v : Option Bool} {d : Die} (hop : pktOp b = 0x10)
    (harrive : s.d.rxArrive s.env p.toNat b 0 false = (d, some (b', v))) :
    exec (.timeReq p b) s = s.go (
      if decide (s.d.getF F.WE_TIME_CFG.ROLE 0 = 1) ∨ decide (s.d.getF F.WE_TIME_CFG.ROLE 0 = 2) then
        (d.rxFree p.toNat b).respond s.env p.toNat 0x11 (pktSrc b) 0 (pktTag b) 0 0 (timePayload (pktF b 32 8) s.env.now
          (if decide (s.d.getF F.WE_TIME_CFG.ROLE 0 = 1) then 0 else s.d.getF F.WE_TIME_STATUS.DEPTH 0)
          (decide (s.d.getF F.WE_TIME_CFG.ROLE 0 = 1) || s.d.bit F.WE_TIME_STATUS.LOCKED 0))
      else d.rxFree p.toNat b) := by
  have hrest : Within { regs := monRegs, ch := true, out := true } s.d (d.rxFree p.toNat b) := (Die.rxArrive_unsealed harrive).mono.trans (Die.send_within d _)
  change execTimeReq p b s = _
  unfold execTimeReq Die.isFollower
  dsimp only
  rw [if_neg (not_not_intro hop), harrive]
  dsimp only
  rw [hrest.getF F.WE_TIME_CFG.ROLE 0, hrest.getF F.WE_TIME_STATUS.DEPTH 0, hrest.bit F.WE_TIME_STATUS.LOCKED 0]

/-- The lead of the time that a TIME_RSP brings (R200). -/
def timeLead (s : State) (b : List Byte) : Int :=
  (signed64 (pktF b 40 8 + 2 ^ 64 - pktF b 32 8) - signed64 (s.env.now % 2 ^ 64 + 2 ^ 64 - pktF b 48 8)) / 2

/-- A TIME_RSP answers the follower's exchange. -/
def timeMine (s : State) (p : BitVec 4) (b : List Byte) : Prop :=
  s.d.isFollower = true ∧ p.toNat = s.d.getF F.WE_TIME_CFG.PARENT_PORT 0 ∧ s.d.we.timeT1 = some (pktF b 32 8) ∧ s.env.now ≤ pktF b 32 8 + s.d.rspTimeout

/-- What a lead makes of die time: a step, or the slew that is to come. -/
def Env.led (e : Env) (step : Nat) (th : Int) : Env := if th > (step : Int) then { e with tq := e.tq + th.toNat * 65536, slew := 0 } else { e with slew := th * 65536 }

theorem exec_timeRsp_mine {s : State} {p : BitVec 4} {b b' : List Byte} {v : Option Bool} {d : Die} (hop : pktOp b = 0x11)
    (harrive : s.d.rxArrive s.env p.toNat b 0 false = (d, some (b', v))) (h : timeMine s p b) :
    ∃ t : State, exec (.timeRsp p b) s = .next t ∧ t.pending = s.pending ∧ t.env = s.env.led (s.d.getF F.WE_TIME_CFG.STEP_NS 0) (timeLead s b) ∧
      Within { regs := monRegs, ch := true } ((d.rxFree p.toNat b).timeLock (timeLead s b) (pktF b 56 1) (decide (bitsOf (pktF b 57 1) 0 1 = 1))) t.d := by
  have hrest : Within { regs := monRegs, ch := true, out := true } s.d (d.rxFree p.toNat b) := (Die.rxArrive_unsealed harrive).mono.trans (Die.send_within d _)
  obtain ⟨hfollow, hport, ht1, hnow⟩ := h
  have hfollow' : (d.rxFree p.toNat b).isFollower = true := by
    unfold Die.isFollower at hfollow ⊢
    rw [hrest.getF F.WE_TIME_CFG.ROLE 0, hfollow]
  have hport' : ¬ (p.toNat ≠ (d.rxFree p.toNat b).getF F.WE_TIME_CFG.PARENT_PORT 0) := by
    rw [hrest.getF F.WE_TIME_CFG.PARENT_PORT 0]
    exact not_not_intro hport
  have ht1' : ¬ ((d.rxFree p.toNat b).we.timeT1 ≠ some (pktF b 32 8)) := by
    rw [hrest.we]
    exact not_not_intro ht1
  have hnow' : ¬ (s.env.now > pktF b 32 8 + (d.rxFree p.toNat b).rspTimeout) := by
    unfold Die.rspTimeout at hnow ⊢
    rw [hrest.getF F.WE_CFG.RSP_TIMEOUT_US 0]
    exact Nat.not_lt.2 hnow
  have hexec : exec (.timeRsp p b) s = (let z := (d.rxFree p.toNat b).timeLock (timeLead s b) (pktF b 56 1) (decide (bitsOf (pktF b 57 1) 0 1 = 1))
      if timeLead s b > (z.getF F.WE_TIME_CFG.STEP_NS 0 : Int) then
        .next { s with env := { s.env with tq := s.env.tq + (timeLead s b).toNat * 65536, slew := 0 },
                       d := z.stepMons s.env { s.env with tq := s.env.tq + (timeLead s b).toNat * 65536, slew := 0 } }
      else .next { s with env := { s.env with slew := timeLead s b * 65536 }, d := z }) := by
    change execTimeRsp p b s = _
    unfold execTimeRsp
    dsimp only
    rw [if_neg (not_not_intro hop), harrive]
    dsimp only
    rw [hfollow', if_neg (by simp only [Bool.not_true, Bool.false_eq_true, false_or]; exact fun h => h.elim hport' (fun h => h.elim ht1' hnow'))]
    rfl
  have hlock := ((d.rxFree p.toNat b).timeLock_spec (timeLead s b) (pktF b 56 1) (decide (bitsOf (pktF b 57 1) 0 1 = 1))).1
  have hstep := (hrest.mono (q := { regs := .WE_TIME_STATUS :: monRegs, ch := true, we := true, out := true })).trans hlock.mono |>.getF F.WE_TIME_CFG.STEP_NS 0
  rw [hexec]
  dsimp only
  rw [hstep]
  generalize (d.rxFree p.toNat b).timeLock (timeLead s b) (pktF b 56 1) (decide (bitsOf (pktF b 57 1) 0 1 = 1)) = z
  generalize timeLead s b = th
  unfold Env.led
  by_cases hth : th > (s.d.getF F.WE_TIME_CFG.STEP_NS 0 : Int)
  · rw [if_pos hth, if_pos hth]
    exact ⟨_, rfl, rfl, rfl, Die.stepMons_within _ _ z⟩
  · rw [if_neg hth, if_neg hth]
    exact ⟨_, rfl, rfl, rfl, .refl z⟩

theorem exec_timeRsp_stray {s : State} {p : BitVec 4} {b b' : List Byte} {v : Option Bool} {d : Die} (hop : pktOp b = 0x11)
    (harrive : s.d.rxArrive s.env p.toNat b 0 false = (d, some (b', v))) (h : ¬ timeMine s p b) : exec (.timeRsp p b) s = s.go (d.rxFree p.toNat b) := by
  have hrest : Within { regs := monRegs, ch := true, out := true } s.d (d.rxFree p.toNat b) := (Die.rxArrive_unsealed harrive).mono.trans (Die.send_within d _)
  change execTimeRsp p b s = _
  unfold execTimeRsp
  dsimp only
  rw [if_neg (not_not_intro hop), harrive]
  dsimp only
  rw [if_pos]
  unfold timeMine Die.isFollower Die.rspTimeout at h
  unfold Die.isFollower Die.rspTimeout
  rw [hrest.getF F.WE_TIME_CFG.ROLE 0, hrest.getF F.WE_TIME_CFG.PARENT_PORT 0, hrest.we, hrest.getF F.WE_CFG.RSP_TIMEOUT_US 0]
  by_contra hc
  simp only [not_or, Bool.not_eq_true', Bool.not_eq_false, not_not, Nat.not_lt, gt_iff_lt] at hc
  exact h hc

theorem Die.rxFree_time (d : Die) (p : Nat) {b : List Byte} (hop : pktOp b = 0x10 ∨ pktOp b = 0x11) : d.rxFree p b = d.send (.credit (64 + p) 1) := by
  have hclass : pktClass b = 1 := by
    unfold pktClass
    rcases hop with hop | hop <;> rw [hop] <;> rfl
  unfold Die.rxFree
  rw [hclass]

theorem exec_timeExchange (s : State) : exec .timeExchange s = s.go (
    if !s.d.isFollower ∨ s.d.we.timeTicks < max 1 (s.d.getF F.WE_TIME_CFG.INTERVAL_TICKS 0) ∨ fieldOf s.env.dieId 16 1 = 0 then s.d
    else if !(s.d.bit F.WE_PORT_STATUS.UP (s.d.getF F.WE_TIME_CFG.PARENT_PORT 0)) then { s.d with we := { s.d.we with timeTicks := 0, timeT1 := none } }
    else Die.respond s.env { s.d with we := { s.d.we with timeTicks := 0, timeT1 := none } } (s.d.getF F.WE_TIME_CFG.PARENT_PORT 0) 0x10 0 0 0 0 0 (timePayload 0 0 0 false)) := rfl

/-- Settles O49: an exchange goes out when it is due, is answered by every die that is not OFF, and its answer steps die time or sets the slew. -/
theorem timeExchangesStepOrSlewDieTime : Obligations.TimeExchangesStepOrSlewDieTime := by
  unfold Obligations.TimeExchangesStepOrSlewDieTime
  refine ⟨fun s => ?_, fun s p b b' v d => ⟨fun hop harrive => ?_, fun hop harrive => ?_⟩⟩
  · intro due d₁ port
    rw [exec_timeExchange]
    have hdue : due → ¬ ((!s.d.isFollower) = true ∨ s.d.we.timeTicks < max 1 (s.d.getF F.WE_TIME_CFG.INTERVAL_TICKS 0) ∨ fieldOf s.env.dieId 16 1 = 0) := by
      rintro ⟨hfollow, hticks, hid⟩
      rw [hfollow, not_or, not_or]
      exact ⟨by simp, Nat.not_lt.2 hticks, hid⟩
    refine ⟨fun h hup => ?_, fun h hdown => ?_, fun h => ?_⟩
    · rw [if_neg (hdue h), show s.d.bit F.WE_PORT_STATUS.UP (s.d.getF F.WE_TIME_CFG.PARENT_PORT 0) = true from hup]
      rfl
    · rw [if_neg (hdue h), show s.d.bit F.WE_PORT_STATUS.UP (s.d.getF F.WE_TIME_CFG.PARENT_PORT 0) = false from hdown]
      rfl
    · rw [if_pos]
      · rfl
      · by_contra hc
        simp only [not_or, Bool.not_eq_true', Bool.not_eq_false, Nat.not_lt] at hc
        exact h hc
  · have hexec := exec_timeReq hop harrive
    rw [Die.rxFree_time d _ (.inl hop)] at hexec
    dsimp only
    refine ⟨fun hrole => ?_, fun hrole => ?_, fun h1 h2 => ?_⟩
    · rw [hexec, hrole]
      rfl
    · rw [hexec, hrole]
      rfl
    · rw [hexec, decide_eq_false h1, decide_eq_false h2]
      rfl
  · intro t1 mine th
    refine ⟨fun hmine => ?_, fun hmine => ?_⟩
    · have hrest : Within { regs := monRegs, ch := true, out := true } s.d (d.rxFree p.toNat b) := (Die.rxArrive_unsealed harrive).mono.trans (Die.send_within d _)
      obtain ⟨hlock, hsyncs, hdepth, hdeep, hfar⟩ := (d.rxFree p.toNat b).timeLock_spec (timeLead s b) (pktF b 56 1) (decide (bitsOf (pktF b 57 1) 0 1 = 1))
      obtain ⟨t, ht, hpending, henv, hlast⟩ := exec_timeRsp_mine hop harrive hmine
      rw [hrest.getF F.WE_TIME_STATUS.SYNCS 0] at hsyncs
      refine ⟨t, ht, hpending, henv, (hlast.getF F.WE_TIME_STATUS.SYNCS 0).trans hsyncs, (hlast.getF F.WE_TIME_STATUS.DEPTH 0).trans hdepth, fun h => ?_, fun h => ?_, ?_⟩
      · exact ⟨(hlast.bit F.WE_TIME_STATUS.LOCKED 0).trans (hdeep h).1, (hlast.bit F.WE_TIME_STATUS.TOO_DEEP 0).trans (hdeep h).2⟩
      · exact (hlast.bit F.WE_TIME_STATUS.LOCKED 0).trans (hfar h)
      · exact hlast.mem.trans (hlock.mem.trans hrest.mem)
    · rw [exec_timeRsp_stray hop harrive hmine]
      rw [Die.rxFree_time d _ (.inr hop)]
      rfl

end Sys2Proof.Machine
end

section
/-! PROOF. O37 to O39: the clusters of kernels, their release, their placement, and the times at which Tally acts by itself (chapter 4). -/

-- One proof after another: all at once, they ask for more threads than the check's memory limit admits.
set_option Elab.async false

namespace Sys2Proof.Machine

/-! ### A cluster that has come free -/

/-- A write of a field leaves every element of a field that lies apart, in the same word or in another register. -/
theorem Die.getF_setF_away (d : Die) (f g : Fld) (i j v : Nat) (h : f.apart g = true) (hword : g.word = f.word) : (d.setF f i v).getF g j = d.getF g j := by
  by_cases hj : j = i
  · rw [hj]
    exact Die.getF_setF_apart d f g i v h
  · exact Die.getF_setF_ne d f g i j v (of_decide_eq_true (Bool.and_eq_true_iff.1 h).1) (.inr (.inl (by omega)))

/-- Cluster `m` is in state `st`, and runs for context `c`. -/
def Die.clusterIs (d : Die) (m st c : Nat) : Prop := d.clState m = st ∧ d.getF F.TY_CLUSTER.CONTEXT m = c

theorem Within.clusterIs {p : Touch} {d t : Die} (h : Within p d t) {m st c : Nat} (hd : d.clusterIs m st c) (hp : p.regs.contains .TY_CLUSTER = false := by rfl) : t.clusterIs m st c :=
  ⟨(h.getF F.TY_CLUSTER.STATE m hp).trans hd.1, (h.getF F.TY_CLUSTER.CONTEXT m hp).trans hd.2⟩

theorem Die.clusterIs_setLent {d : Die} {m st c : Nat} (h : d.clusterIs m st c) (k : Nat) (b : Bool) : (d.setLent k b).clusterIs m st c := by
  unfold Die.setLent
  have hset : (d.setF F.TY_CLUSTER.LENT k (Bool.num b)).clusterIs m st c :=
    ⟨(Die.getF_setF_away d F.TY_CLUSTER.LENT F.TY_CLUSTER.STATE k m _ rfl rfl).trans h.1, (Die.getF_setF_away d F.TY_CLUSTER.LENT F.TY_CLUSTER.CONTEXT k m _ rfl rfl).trans h.2⟩
  split
  · exact h
  · dsimp only
    generalize d.setF F.TY_CLUSTER.LENT k (Bool.num b) = y at hset ⊢
    split
    · exact (Die.setF_within (p := { regs := [.TY_SLICE_STAT] }) y F.TY_SLICE_STAT.LENT _ _).clusterIs hset
    · exact hset

/-- Cluster `k` shows nothing of a kernel any more. -/
def Die.clearCluster (d : Die) (k : Nat) : Die := ((d.setF F.TY_CLUSTER.STATE k 0).setF F.TY_CLUSTER.CONTEXT k 0).setF F.TY_CLUSTER.SLICE k 0

theorem Die.clusterIs_clearCluster_same (d : Die) (k : Nat) : (d.clearCluster k).clusterIs k 0 0 := by
  unfold Die.clearCluster Die.clusterIs Die.clState
  constructor
  · rw [Die.getF_setF_apart _ _ _ _ _ rfl, Die.getF_setF_apart _ _ _ _ _ rfl, Die.getF_setF_same _ _ _ _ (Nat.le_of_ble_eq_true rfl)]
    rfl
  · rw [Die.getF_setF_apart _ _ _ _ _ rfl, Die.getF_setF_same _ _ _ _ (Nat.le_of_ble_eq_true rfl)]
    rfl

theorem Die.clusterIs_clearCluster_ne {d : Die} {m st c k : Nat} (h : d.clusterIs m st c) (hne : m ≠ k) : (d.clearCluster k).clusterIs m st c := by
  have hset : ∀ (y : Die) (f g : Fld) (v : Nat), f.lo + f.width ≤ 64 → f.word = 0 → g.word = 0 → (y.setF f k v).getF g m = y.getF g m := fun y f g v hw hf hg =>
    Die.getF_setF_ne y f g k m v hw (.inr (.inl (by omega)))
  unfold Die.clearCluster
  refine ⟨Eq.trans ?_ h.1, Eq.trans ?_ h.2⟩
  · unfold Die.clState
    rw [hset _ _ _ _ (Nat.le_of_ble_eq_true rfl) rfl rfl, hset _ _ _ _ (Nat.le_of_ble_eq_true rfl) rfl rfl, hset _ _ _ _ (Nat.le_of_ble_eq_true rfl) rfl rfl]
  · rw [hset _ _ _ _ (Nat.le_of_ble_eq_true rfl) rfl rfl, hset _ _ _ _ (Nat.le_of_ble_eq_true rfl) rfl rfl, hset _ _ _ _ (Nat.le_of_ble_eq_true rfl) rfl rfl]

/-- What a release leaves of a cluster, itself free or as it was. -/
theorem Die.clusterIs_freeCluster {d y : Die} {m st c k : Nat} (e : Env) (kept : Option Nat) (back : Bool) (hy : y = if d.clState k = 4 then d else d.clearCluster k)
    (h : y.clusterIs m st c) : (d.freeCluster e k kept back).clusterIs m st c := by
  unfold Die.freeCluster
  extract_lets rt ctx mine t u
  have ht : t.clusterIs m st c := by rw [hy] at h; exact h
  have hu : u.clusterIs m st c := (Die.setClRt_within (p := { ty := true }) t k _).clusterIs ht
  clear_value u
  refine (Die.claimsDone_within _).clusterIs ?_
  split
  · exact Die.clusterIs_setLent hu k false
  · exact hu

theorem Die.freeCluster_frees {d : Die} {k : Nat} (e : Env) (kept : Option Nat) (back : Bool) (h : d.clState k ≠ 4) : (d.freeCluster e k kept back).clusterIs k 0 0 :=
  Die.clusterIs_freeCluster e kept back (y := d.clearCluster k) (if_neg h).symm (Die.clusterIs_clearCluster_same d k)

/-- A cluster that is free stays free, whichever is released. -/
theorem Die.freeCluster_keepsFree {d : Die} {m k : Nat} (e : Env) (kept : Option Nat) (back : Bool) (h : d.clusterIs m 0 0) : (d.freeCluster e k kept back).clusterIs m 0 0 := by
  by_cases hmk : m = k
  · subst hmk
    exact Die.freeCluster_frees e kept back (by rw [h.1]; decide)
  · refine Die.clusterIs_freeCluster e kept back rfl ?_
    split
    · exact h
    · exact Die.clusterIs_clearCluster_ne h hmk

theorem Die.freeCluster_ne {d : Die} {m st c k : Nat} (e : Env) (kept : Option Nat) (back : Bool) (h : d.clusterIs m st c) (hne : m ≠ k) :
    (d.freeCluster e k kept back).clusterIs m st c := by
  refine Die.clusterIs_freeCluster e kept back rfl ?_
  split
  · exact h
  · exact Die.clusterIs_clearCluster_ne h hne

/-! ### Recalls leave free clusters free -/

/-- A fold keeps what each of its steps keeps. -/
theorem foldl_invariant {α β : Type} (p : α → Prop) (f : α → β → α) (hf : ∀ a b, p a → p (f a b)) (l : List β) (a : α) (h : p a) : p (l.foldl f a) := by
  induction l generalizing a with
  | nil => exact h
  | cons b l ih => exact ih _ (hf a b h)

theorem Die.postYield_free {d : Die} {m : Nat} (e : Env) (x : Kern) (for_ : Option Nat) (h : d.clusterIs m 0 0) : (d.postYield e x for_).clusterIs m 0 0 := by
  unfold Die.postYield
  split
  · exact h
  · extract_lets quiet t
    have ht : t.clusterIs m 0 0 := by
      unfold t
      refine foldl_invariant (fun y : Die => y.clusterIs m 0 0) _ (fun y k hy => ?_) _ _ h
      split
      · next hk =>
        have hne : m ≠ k := fun hc => by rw [← hc, hy.1] at hk; exact absurd hk (by decide)
        refine (Die.send_within (p := { out := true }) _ _).clusterIs ⟨?_, ?_⟩
        · exact (Die.getF_setF_ne y F.TY_CLUSTER.STATE F.TY_CLUSTER.STATE k m 2 (Nat.le_of_ble_eq_true rfl) (.inr (.inl (by omega)))).trans hy.1
        · exact (Die.getF_setF_away y F.TY_CLUSTER.STATE F.TY_CLUSTER.CONTEXT k m 2 rfl rfl).trans hy.2
      · exact hy
    exact (Die.setKern_within (p := { ty := true }) t _).clusterIs ht

theorem Die.recall_free {d : Die} {m : Nat} (e : Env) (k : Nat) (for_ : Option Nat) (h : d.clusterIs m 0 0) : (d.recall_ e k for_).clusterIs m 0 0 := by
  unfold Die.recall_
  split
  · exact h
  · split
    · refine Die.clusterIs_setLent ?_ k false
      exact ((Die.incSat_within (p := { regs := [.TY_STATUS], ty := true }) d F.TY_STATUS.RECALLS 0 1).trans (Die.setClRt_within _ k _)).clusterIs h
    · next x _ =>
      extract_lets t
      have ht : t.clusterIs m 0 0 := by
        unfold t
        split
        · exact h
        · exact (Die.incSat_within (p := { regs := [.TY_STATUS] }) d F.TY_STATUS.RECALLS 0 1).clusterIs h
      exact Die.postYield_free e x for_ ((Die.setClRt_within (p := { ty := true }) t k _).clusterIs ht)

theorem Die.recallDue_free {d : Die} {m : Nat} (e : Env) (h : d.clusterIs m 0 0) : (d.recallDue e).clusterIs m 0 0 := by
  unfold Die.recallDue
  refine foldl_invariant (fun y : Die => y.clusterIs m 0 0) _ (fun y j hy => ?_) _ _ h
  split
  · split
    · refine foldl_invariant (fun y : Die => y.clusterIs m 0 0) _ (fun z k hz => ?_) _ _ hy
      split
      · exact Die.recall_free e k _ hz
      · exact hz
    · exact hy
  · exact hy

/-! ### The release of a kernel's clusters (R129, R136, R471) -/

/-- Tally releases the clusters of a list. -/
def Die.releaseAll (e : Env) (d : Die) (x : Kern) (ks : List Nat) : Die := ks.foldl (fun d k => d.release1 e x k) d

theorem Die.releaseAll_within (e : Env) (d : Die) (x : Kern) (ks : List Nat) : Within freeTouch d (d.releaseAll e x ks) :=
  .foldl (fun (d : Die) (k : Nat) => d.release1 e x k) (fun y k => Die.freeCluster_within e y k _ _) ks d

theorem Die.releaseAll_cons (e : Env) (d : Die) (x : Kern) (k : Nat) (ks : List Nat) : d.releaseAll e x (k :: ks) = (d.release1 e x k).releaseAll e x ks := by
  unfold Die.releaseAll
  rw [List.foldl_cons]

theorem Die.releaseAll_keepsFree {d : Die} {m : Nat} (e : Env) (x : Kern) (ks : List Nat) (h : d.clusterIs m 0 0) : (d.releaseAll e x ks).clusterIs m 0 0 := by
  unfold Die.releaseAll
  refine foldl_invariant (fun y : Die => y.clusterIs m 0 0) _ (fun y k hy => ?_) _ _ h
  unfold Die.release1
  exact Die.freeCluster_keepsFree e _ _ hy

theorem Die.releaseAll_frees {d : Die} {m : Nat} (e : Env) (x : Kern) (ks : List Nat) (hm : m ∈ ks) (h : d.clState m ≠ 4) : (d.releaseAll e x ks).clusterIs m 0 0 := by
  induction ks generalizing d with
  | nil => exact absurd hm (by simp)
  | cons k ks ih =>
    rw [Die.releaseAll_cons]
    by_cases hmk : m = k
    · have hfree : (d.release1 e x k).clusterIs m 0 0 := by
        unfold Die.release1
        rw [← hmk]
        exact Die.freeCluster_frees e _ _ h
      exact Die.releaseAll_keepsFree e x ks hfree
    · have hkept : (d.release1 e x k).clusterIs m (d.clState m) (d.getF F.TY_CLUSTER.CONTEXT m) := by
        unfold Die.release1
        exact Die.freeCluster_ne e _ _ ⟨rfl, rfl⟩ hmk
      exact ih (d := d.release1 e x k) ((List.mem_cons.1 hm).resolve_left hmk) (by rw [hkept.1]; exact h)

/-- What follows the release of a kernel's last cluster may change. -/
def leftTouch : Touch := { regs := [.SF_CTX_STATUS, .TY_STATUS, .TY_CLUSTER, .TY_SLICE_STAT], ty := true, sf := true, out := true }

theorem Die.dropKern_within {p : Touch} (d : Die) (kid : Nat) (hp : p.ty = true := by rfl) : Within p d (d.dropKern kid) := Die.setTy_within d _ hp

theorem Die.kernLeft_within (e : Env) (d : Die) (x : Kern) : Within leftTouch d (d.kernLeft e x) := by
  unfold Die.kernLeft
  have hdrop : Within leftTouch d (d.dropKern x.kid) := Die.dropKern_within d x.kid
  split
  · exact .refl d
  · split
    · exact hdrop.trans (Die.ctxPump_within _ x.ctx).mono
    · split
      · dsimp only
        split
        · exact (hdrop.trans (Die.finish_within _ _ _ _)).trans (Die.ctxPump_within _ x.ctx).mono
        · exact hdrop
      · split
        · exact (((Die.lagOn_within d x.ctx).mono.trans (Die.setKern_within _ _)).trans (Die.ctxPump_within _ x.ctx).mono).trans (Die.recallDue_within e _).mono
        · exact hdrop.trans (Die.ctxPump_within _ x.ctx).mono

theorem Die.kernLeft_free {d : Die} {m : Nat} (e : Env) (x : Kern) (h : d.clusterIs m 0 0) : (d.kernLeft e x).clusterIs m 0 0 := by
  unfold Die.kernLeft
  have hdrop : (d.dropKern x.kid).clusterIs m 0 0 := (Die.dropKern_within (p := { ty := true }) d x.kid).clusterIs h
  split
  · exact h
  · split
    · exact (Die.ctxPump_within _ x.ctx).clusterIs hdrop
    · split
      · dsimp only
        split
        · exact (Die.ctxPump_within _ x.ctx).clusterIs ((Die.finish_within (p := { sf := true }) _ _ _ _).clusterIs hdrop)
        · exact hdrop
      · split
        · refine Die.recallDue_free e ((Die.ctxPump_within _ x.ctx).clusterIs ?_)
          exact ((Die.lagOn_within d x.ctx).trans (Die.setKern_within _ _)).clusterIs h
        · exact (Die.ctxPump_within _ x.ctx).clusterIs hdrop

/-- No rank of the kernel holds a cluster. -/
def Kern.unplaced (x : Kern) : Kern := { x with ranks := x.ranks.map (fun r => { r with cluster := none }) }

theorem Kern.unplaced_spec (x : Kern) : x.unplaced.placed = false ∧ x.unplaced.over_ = x.over_ := by
  unfold Kern.unplaced Kern.placed Kern.over_
  constructor
  · rw [List.any_map, List.any_eq_false]
    exact fun r _ => by simp
  · rw [List.all_map]
    rfl

theorem Kern.onRank_clusters (x : Kern) (n : Nat) (f : Rank → Rank) (hf : ∀ r, (f r).cluster = r.cluster) : (x.onRank n f).clusters = x.clusters := by
  unfold Kern.onRank Kern.clusters
  dsimp only
  rw [List.filterMap_map]
  refine List.filterMap_congr (fun r _ => ?_)
  change (if r.cluster = some n then f r else r).cluster = r.cluster
  split
  · exact hf r
  · rfl

/-- The report of the last rank of a kernel that is not abandoned releases every cluster. -/
theorem Die.rankReport_last {e : Env} {d : Die} {x : Kern} (k : Nat) (haband : x.aband = false) (hruns : x.ranks.any Rank.runs = false) :
    d.rankReport e x k = if x.over_ ∨ !((d.releaseAll e x x.clusters).runs x.ctx) then ((d.releaseAll e x x.clusters).setKern x.unplaced).kernLeft e x.unplaced
      else (d.releaseAll e x x.clusters).kernLeft e x.unplaced := by
  unfold Die.rankReport
  rw [if_neg (by rw [haband]; exact Bool.false_ne_true), if_neg (by rw [hruns]; exact Bool.false_ne_true)]
  rfl

/-- What a report leaves behind that releases every cluster. -/
theorem Die.rankReport_last_spec {e : Env} {d : Die} {x : Kern} (k : Nat) (haband : x.aband = false) (hruns : x.ranks.any Rank.runs = false) :
    (∀ m ∈ x.clusters, d.clState m ≠ 4 → (d.rankReport e x k).clusterIs m 0 0) ∧ (d.rankReport e x k).mem = d.mem := by
  rw [Die.rankReport_last k haband hruns]
  have hrest := d.releaseAll_within e x x.clusters
  have hset : Within { ty := true } (d.releaseAll e x x.clusters) ((d.releaseAll e x x.clusters).setKern x.unplaced) := Die.setKern_within _ _
  constructor
  · intro m hm h4
    have hfree := Die.releaseAll_frees e x x.clusters hm h4
    split
    · exact Die.kernLeft_free e _ (hset.clusterIs hfree)
    · exact Die.kernLeft_free e _ hfree
  · split
    · exact (Die.kernLeft_within e _ _).mem.trans (hset.mem.trans hrest.mem)
    · exact (Die.kernLeft_within e _ _).mem.trans hrest.mem

/-- A kernel whose ranks have all ended is gone with its last report, and its command ends with its cluster time. -/
theorem Die.rankReport_over {e : Env} {d : Die} {x : Kern} {c : Cmd} (k : Nat) (haband : x.aband = false) (hruns : x.ranks.any Rank.runs = false) (hover : x.over_ = true)
    (hcmd : d.cmd x.cmd = some c) :
    (d.rankReport e x k).cmd x.cmd = some { c with st := .done, status := St.OK, result := c.ns } ∧ ∀ y ∈ (d.rankReport e x k).ty.kerns, y.kid ≠ x.kid := by
  obtain ⟨hplaced, hover'⟩ := x.unplaced_spec
  have hid : c.id = x.cmd := Die.cmd_id d x.cmd c hcmd
  rw [Die.rankReport_last k haband hruns, hover, if_pos (.inl rfl)]
  have hset : Within { ty := true } (d.releaseAll e x x.clusters) ((d.releaseAll e x x.clusters).setKern x.unplaced) := Die.setKern_within _ _
  have hsf := hset.sf.trans (d.releaseAll_within e x x.clusters).sf
  generalize (d.releaseAll e x x.clusters).setKern x.unplaced = y at hsf ⊢
  unfold Die.kernLeft
  rw [hplaced, if_neg Bool.false_ne_true, show x.unplaced.aband = false from haband, if_neg Bool.false_ne_true, hover', hover, if_pos rfl]
  have hkerns : ∀ z ∈ (y.dropKern x.unplaced.kid).ty.kerns, z.kid ≠ x.kid := fun z hz => of_decide_eq_true (List.mem_filter.1 hz).2
  have hcmd' : (y.dropKern x.unplaced.kid).cmd x.unplaced.cmd = some c := (Die.cmd_of_sf ((Die.dropKern_within (p := { ty := true }) y _).sf.trans hsf) _).trans hcmd
  generalize y.dropKern x.unplaced.kid = z at hkerns hcmd' ⊢
  dsimp only
  rw [hcmd']
  dsimp only
  constructor
  · rw [Die.ctxPump_cmd, ← hid]
    exact Die.finish_cmd z c.id St.OK c.ns c (hid ▸ hcmd')
  · rw [(Die.ctxPump_within _ _).ty, (Die.finish_within (p := { sf := true }) z _ _ _).ty]
    exact hkerns

/-- An abandoned kernel gives up the cluster whose order is acknowledged. -/
theorem Die.rankReport_aband {e : Env} {d : Die} {x : Kern} (k : Nat) (haband : x.aband = true) :
    d.rankReport e x k = ((d.release1 e x k).setKern (x.leave k)).kernLeft e (x.leave k) := by
  unfold Die.rankReport
  rw [haband, if_pos rfl]

theorem Die.rankReport_aband_spec {e : Env} {d : Die} {x : Kern} {k : Nat} (haband : x.aband = true) (h : d.clState k ≠ 4) :
    (d.rankReport e x k).clusterIs k 0 0 ∧ (d.rankReport e x k).mem = d.mem ∧
      ((x.leave k).placed = false → ∀ y ∈ (d.rankReport e x k).ty.kerns, y.kid ≠ x.kid) := by
  rw [Die.rankReport_aband k haband]
  have hfree : (d.release1 e x k).clusterIs k 0 0 := by
    unfold Die.release1
    exact Die.freeCluster_frees e _ _ h
  have hrel : Within freeTouch d (d.release1 e x k) := Die.freeCluster_within e d k _ _
  generalize d.release1 e x k = z at hfree hrel ⊢
  have hset : Within { ty := true } z (z.setKern (x.leave k)) := Die.setKern_within _ _
  refine ⟨Die.kernLeft_free e _ (hset.clusterIs hfree), (Die.kernLeft_within e _ _).mem.trans (hset.mem.trans hrel.mem), fun hplaced => ?_⟩
  generalize z.setKern (x.leave k) = w
  unfold Die.kernLeft
  rw [hplaced, if_neg Bool.false_ne_true, show (x.leave k).aband = true from haband, if_pos rfl, (Die.ctxPump_within _ _).ty]
  exact fun y hy => of_decide_eq_true (List.mem_filter.1 hy).2

theorem Die.rankReport_runs {e : Env} {d : Die} {x : Kern} (k : Nat) (haband : x.aband = false) (hruns : x.ranks.any Rank.runs = true) :
    d.rankReport e x k = d.setKern x := by
  unfold Die.rankReport
  rw [haband, hruns, if_neg Bool.false_ne_true, if_pos rfl]

/-- The rank of `x` on cluster `n` has ended. -/
def Kern.endOn (x : Kern) (n : Nat) : Kern := x.onRank n (fun r => { r with ended := true })

/-- The rank of `x` on cluster `n` has yielded, with its token. -/
def Kern.yieldOn (x : Kern) (n : Nat) (token : Word) : Kern := x.onRank n (fun r => { r with yielded := true, token := token })

theorem exec_endK {s : State} {k : BitVec 6} {kid : BitVec 8} {x : Kern} (h : s.d.kernMsg k.toNat kid.toNat = some x) (haband : x.aband = false) :
    exec (.endK k kid false) s = s.go (s.d.rankReport s.env (x.endOn k.toNat) k.toNat) ∧
      ∀ c, s.d.cmd x.cmd = some c → exec (.endK k kid true) s = s.go ((s.d.setKern (x.endOn k.toNat)).cmdFail s.env c St.BUS_ERROR false) := by
  constructor
  · change execEndK k kid false s = _
    unfold execEndK
    dsimp only
    rw [h]
    dsimp only
    rw [if_neg (by simp)]
    rfl
  · intro c hc
    change execEndK k kid true s = _
    unfold execEndK
    dsimp only
    rw [h]
    dsimp only
    rw [if_pos ⟨rfl, by unfold Kern.onRank; rw [haband]; rfl⟩, hc]
    rfl

theorem exec_yielded {s : State} {k : BitVec 6} {kid : BitVec 8} {x : Kern} (h : s.d.kernMsg k.toNat kid.toNat = some x) (hst : s.d.clState k.toNat ≠ 1) (token : Word) :
    exec (.yielded k kid token) s = s.go ((s.d.count (64 + 8 * k.toNat + 5) 1).rankReport s.env (x.yieldOn k.toNat token) k.toNat) := by
  change execYielded k kid token s = _
  unfold execYielded
  dsimp only
  rw [h]
  dsimp only
  rw [if_neg hst]
  rfl

theorem exec_stray {s : State} {k : BitVec 6} {kid : BitVec 8} (h : s.d.kernMsg k.toNat kid.toNat = none) (token : Word) (fault : Bool) :
    exec (.endK k kid fault) s = .next s ∧ exec (.yielded k kid token) s = .next s ∧ exec (.abandonAck k kid) s = .next s ∧ exec (.mark k kid) s = .next s := by
  refine ⟨?_, ?_, ?_, ?_⟩
  · change execEndK k kid fault s = _
    unfold execEndK
    dsimp only
    rw [h]
    rfl
  · change execYielded k kid token s = _
    unfold execYielded
    dsimp only
    rw [h]
    rfl
  · change execAbandonAck k kid s = _
    unfold execAbandonAck
    dsimp only
    rw [h]
    rfl
  · change execMark k kid s = _
    unfold execMark
    rw [h]
    rfl

/-- Settles O37: a rank's report is noted until the last, which releases every cluster; an acknowledged abandon order releases its own. -/
theorem kernelMessagesReleaseTheirClusters : Obligations.KernelMessagesReleaseTheirClusters := by
  unfold Obligations.KernelMessagesReleaseTheirClusters
  intro s k kid x n st ended yielded free
  have hclusters : ended.clusters = x.clusters := Kern.onRank_clusters x n _ (fun _ => rfl)
  have hyclusters : ∀ token, (yielded token).clusters = x.clusters := fun token => Kern.onRank_clusters x n _ (fun _ => rfl)
  refine ⟨fun h haband hruns => ?_, fun c h haband hruns hover hcmd => ?_, fun c h haband hcmd => ?_, fun token h haband hst hruns => ?_, fun token h haband hst hruns => ?_,
    fun h hst haband => ?_, fun h => ?_, fun h token fault => exec_stray h token fault, fun tag code hlive => ?_, fun chan hlive hnone hfire => ?_, fun chan hdead => ?_⟩
  · rw [(exec_endK h haband).1]
    exact congrArg s.go (Die.rankReport_runs (x := x.endOn n) n haband hruns)
  · obtain ⟨hfree, hmem⟩ := Die.rankReport_last_spec (e := s.env) (d := s.d) (x := x.endOn n) n haband hruns
    obtain ⟨hdone, hgone⟩ := Die.rankReport_over (e := s.env) (d := s.d) (x := x.endOn n) n haband hruns hover hcmd
    exact ⟨_, (exec_endK h haband).1, hdone, fun m hm h4 => hfree m (hclusters ▸ hm) h4, hgone, hmem, rfl⟩
  · exact (exec_endK h haband).2 c hcmd
  · rw [exec_yielded h hst token, Die.rankReport_runs (x := x.yieldOn k.toNat token) k.toNat haband hruns]
    have hcount : Within { ch := true } s.d (s.d.count (64 + 8 * k.toNat + 5) 1) := Die.count_within _ _ 1
    have hregs : (s.d.count (64 + 8 * k.toNat + 5) 1).regs = s.d.regs := by rw [Die.count_eq]
    have hty := hcount.ty
    have hmem := hcount.mem
    generalize s.d.count (64 + 8 * k.toNat + 5) 1 = y at hregs hty hmem
    refine ⟨_, rfl, ?_, hregs, hmem, rfl⟩
    change y.ty.kerns.map _ = _
    rw [hty]
    rfl
  · rw [exec_yielded h hst token]
    have hcount : Within { ch := true } s.d (s.d.count (64 + 8 * k.toNat + 5) 1) := Die.count_within _ _ 1
    obtain ⟨hfree, hmem⟩ := Die.rankReport_last_spec (e := s.env) (d := s.d.count (64 + 8 * k.toNat + 5) 1) (x := x.yieldOn n token) n haband hruns
    refine ⟨_, rfl, fun m hm h4 => hfree m (hyclusters token ▸ hm) ?_, hmem.trans hcount.mem, rfl⟩
    unfold Die.clState
    rw [hcount.getF F.TY_CLUSTER.STATE m]
    exact h4
  · have hexec : exec (.abandonAck k kid) s = s.go (s.d.rankReport s.env x n) := by
      change execAbandonAck k kid s = _
      unfold execAbandonAck
      dsimp only
      rw [h]
      dsimp only
      rw [if_pos (show s.d.clState k.toNat = 3 from hst)]
    obtain ⟨⟨hstate, hctx⟩, hmem, hgone⟩ := Die.rankReport_aband_spec (e := s.env) (d := s.d) (x := x) (k := n) haband (by rw [show s.d.clState n = 3 from hst]; decide)
    exact ⟨_, hexec, hstate, hctx, hmem, rfl, hgone⟩
  · change execMark k kid s = _
    unfold execMark
    rw [h]
    rfl
  · change execKernelError k kid tag code s = _
    unfold execKernelError
    rw [if_pos hlive]
    rfl
  · change execPortError k chan s = _
    unfold execPortError Die.portDead
    dsimp only
    rw [hlive, if_neg (by simp), hnone, hfire, if_neg Bool.false_ne_true]
    rfl
  · change execPortError k chan s = _
    unfold execPortError Die.portDead
    rw [hdead]
    rfl

/-! ### Quanta, graces, loans and abandon orders (R128 to R130, R133, R134, R146) -/

/-- Every cluster of a list that runs its kernel is asked to yield. -/
def Die.askYield (d : Die) (x : Kern) (ks : List Nat) : Die :=
  ks.foldl (fun d k => if d.clState k = 1 then (d.setF F.TY_CLUSTER.STATE k 2).send (.kYield k (x.kid % 256)) else d) d

theorem Die.askYield_cons (d : Die) (x : Kern) (k : Nat) (ks : List Nat) :
    d.askYield x (k :: ks) = (if d.clState k = 1 then (d.setF F.TY_CLUSTER.STATE k 2).send (.kYield k (x.kid % 256)) else d).askYield x ks := by
  unfold Die.askYield
  rw [List.foldl_cons]

/-- A cluster that has been asked to yield. -/
def Die.asked (d : Die) (x : Kern) (m : Nat) : Prop := d.clState m = 2 ∧ Msg.kYield m (x.kid % 256) ∈ d.out

/-- A cluster that runs its kernel is asked. -/
theorem Die.asked_step {d : Die} {x : Kern} {m : Nat} (k : Nat) (h : d.asked x m ∨ (m = k ∧ d.clState m = 1)) :
    (if d.clState k = 1 then (d.setF F.TY_CLUSTER.STATE k 2).send (.kYield k (x.kid % 256)) else d).asked x m := by
  rcases h with ⟨hst, hout⟩ | ⟨rfl, hst⟩
  · split
    · next hk =>
      have hne : m ≠ k := fun hc => by rw [← hc, hst] at hk; exact absurd hk (by decide)
      exact ⟨(Die.getF_setF_ne d F.TY_CLUSTER.STATE F.TY_CLUSTER.STATE k m 2 (Nat.le_of_ble_eq_true rfl) (.inr (.inl (by omega)))).trans hst, List.mem_cons_of_mem _ hout⟩
    · exact ⟨hst, hout⟩
  · rw [if_pos hst]
    exact ⟨(Die.getF_setF_same d F.TY_CLUSTER.STATE m 2 (Nat.le_of_ble_eq_true rfl)).trans rfl, List.mem_cons_self⟩

theorem Die.askYield_spec {x : Kern} (ks : List Nat) {d : Die} {m : Nat} (h : d.asked x m ∨ (m ∈ ks ∧ d.clState m = 1)) : (d.askYield x ks).asked x m := by
  induction ks generalizing d with
  | nil => exact h.resolve_right (fun hc => absurd hc.1 (by simp))
  | cons k ks ih =>
    rw [Die.askYield_cons]
    refine ih ?_
    by_cases hmk : m = k
    · exact .inl (Die.asked_step k (h.imp_right (fun hc => ⟨hmk, hc.2⟩)))
    · rcases h with h | ⟨hm, hst⟩
      · exact .inl (Die.asked_step k (.inl h))
      · refine .inr ⟨(List.mem_cons.1 hm).resolve_left hmk, ?_⟩
        split
        · exact (Die.getF_setF_ne d F.TY_CLUSTER.STATE F.TY_CLUSTER.STATE k m 2 (Nat.le_of_ble_eq_true rfl) (.inr (.inl (by omega)))).trans hst
        · exact hst

/-- A kernel that runs on all its clusters is asked to yield on every one. -/
theorem Die.postYield_asks {e : Env} {d : Die} {x : Kern} (for_ : Option Nat) (hyields : d.kernYields x = true) (haband : x.aband = false)
    (hst : ∀ m ∈ x.clusters, d.clState m = 1) {m : Nat} (hm : m ∈ x.clusters) : (d.postYield e x for_).asked x m := by
  have hask := Die.askYield_spec x.clusters (x := x) (d := d) (.inr ⟨hm, hst m hm⟩)
  unfold Die.postYield
  rw [if_neg]
  · exact hask
  · rw [hyields, haband]
    rintro (h | h | h)
    · exact absurd h (by simp)
    · exact absurd h (by simp)
    · obtain ⟨k, hk, h2⟩ := List.any_eq_true.1 h
      have h2 := of_decide_eq_true h2
      rw [hst k hk] at h2
      exact absurd h2 (by decide)

/-- A command that leaves takes no teardown with it. -/
theorem Die.dropCmd_tears (d : Die) (c : Cmd) : (d.dropCmd c).sf.tears = d.sf.tears := by
  unfold Die.dropCmd
  extract_lets f d₁ d₂
  have h₂ : d₂.sf = d₁.sf := (Die.forget_within d₁ (.cmd c.id)).sf
  split
  · rw [(Die.slotAdd_within d₂ c.ctx false).sf, h₂]
  · rw [h₂]

theorem Die.foldl_dropCmd_tears (l : List Cmd) (d : Die) : (l.foldl Die.dropCmd d).sf.tears = d.sf.tears :=
  foldl_keeps (fun d : Die => d.sf.tears) Die.dropCmd Die.dropCmd_tears l d

/-- The rings of the commands of a context that its teardown drops at its start. -/
def Die.deadCmds (d : Die) (c : Nat) (failed : Option Nat) : List Cmd :=
  (d.ctxCmds c).filter (fun x => !x.started && decide (x.st ≠ .done) && decide (failed ≠ some x.id))

/-- A teardown that begins stands among the teardowns. -/
theorem Die.teardown_tears {e : Env} {d : Die} {c : Nat} (status : Nat) (failed : Option Nat) (named : Option (Nat × Nat)) (secur : Bool) (htear : d.tearing c = false)
    (hst : d.ctxState c ≠ 5) : (d.teardown e c status failed named secur).sf.tears = d.sf.tears ++
      [{ ctx := c, status := status, secur := secur, failed := failed, named := named, had := ((d.deadCmds c failed).map (·.ring)).eraseDups }] := by
  unfold Die.teardown
  rw [if_neg (by rw [htear]; exact fun h => h.elim Bool.false_ne_true hst)]
  extract_lets dead sf d₁ d₂ d₃ d₄ d₅ ty d₆
  have h₂ : d₂.sf.tears = d₁.sf.tears := Die.foldl_dropCmd_tears dead d₁
  have h₃ : Within freeTouch d₂ d₃ := .foldl _ (fun y k => Die.abandonKern_within e y k) _ _
  have h₄ : Within { regs := [.SO_COUNT, .SF_CTX_STATUS], eng := true } d₃ d₄ :=
    Within.trans (.foldl (fun (d : Die) (x : Cmd) => d.unplace x.id true) (fun y x => (Die.unplace_within y x.id true).mono) _ d₃) (Die.enginesPump_within _).mono
  have h₅ : Within { regs := [.STU_EPOCH], stu := true } d₄ d₅ := (Die.unhold_within d₄ c).trans (Die.newEpoch_within _ c _)
  have h₆ : Within { ty := true } d₅ d₆ := Die.setTy_within d₅ _
  rw [(Die.dropRequests_within d₆ c).sf, h₆.sf, h₅.sf, h₄.sf, h₃.sf, h₂]
  rfl

/-- A request to yield that was not met in its grace is counted, and the clusters are promised to whom it was made for. -/
def Die.overrun (d : Die) (x : Kern) (for_ : Option Nat) : Die :=
  let sl := d.sliceOf x.ctx
  let d := d.incSat F.TY_STATUS.OVERRUNS 0 1
  let d := match sl with | some s => d.incSat F.TY_SLICE_STAT.OVERRUNS s 1 | none => d
  let d := x.clusters.foldl (fun d k => d.setClRt k { d.clRt k with promised := if d.lent k then none else for_ }) d
  d.setKern { x with req := none }

theorem Die.overrun_spec (d : Die) (x : Kern) (for_ : Option Nat) :
    Within { regs := [.TY_STATUS, .TY_SLICE_STAT], ty := true } d (d.overrun x for_) ∧
      (d.overrun x for_).getF F.TY_STATUS.OVERRUNS 0 = min (d.getF F.TY_STATUS.OVERRUNS 0 + 1) (2 ^ F.TY_STATUS.OVERRUNS.width - 1) := by
  have h₁ : Within { regs := [.TY_STATUS, .TY_SLICE_STAT], ty := true } d (d.incSat F.TY_STATUS.OVERRUNS 0 1) := Die.incSat_within d _ 0 1
  have hcount : (d.incSat F.TY_STATUS.OVERRUNS 0 1).getF F.TY_STATUS.OVERRUNS 0 = min (d.getF F.TY_STATUS.OVERRUNS 0 + 1) (2 ^ F.TY_STATUS.OVERRUNS.width - 1) :=
    Die.getF_incSat_same _ _ _ _ (Nat.le_of_ble_eq_true rfl)
  unfold Die.overrun
  generalize d.incSat F.TY_STATUS.OVERRUNS 0 1 = y at h₁ hcount ⊢
  extract_lets sl _ z w
  have hz : Within { regs := [.TY_SLICE_STAT], ty := true } y z := by
    unfold z
    clear_value sl
    cases sl with
    | some sl => exact Die.incSat_within y F.TY_SLICE_STAT.OVERRUNS sl 1
    | none => exact .refl y
  have hw : Within { regs := [.TY_SLICE_STAT], ty := true } z w := .foldl _ (fun v k => Die.setClRt_within v k _) x.clusters z
  have hlast := (hz.trans hw).trans (Die.setKern_within w { x with req := none })
  exact ⟨h₁.trans hlast.mono, (hlast.getF F.TY_STATUS.OVERRUNS 0).trans hcount⟩

theorem exec_yieldGraceExpiry {s : State} {kid : Nat} {x : Kern} {q : Nat × Option Nat} (hfind : s.d.ty.kerns.find? (fun y => decide (y.kid = kid)) = some x) (hreq : x.req = some q) :
    (s.env.now < q.1 → exec (.yieldGraceExpiry kid) s = .next s) ∧
      (q.1 ≤ s.env.now → x.aband = false → (∀ sl, s.d.sliceOf x.ctx = some sl → s.d.sliceState sl ≠ 3) →
        exec (.yieldGraceExpiry kid) s = s.go ((s.d.overrun x q.2).teardown s.env x.ctx St.YIELD_OVERRUN (some x.cmd) none false)) := by
  constructor
  · intro hnow
    change execYieldGraceExpiry kid s = _
    unfold execYieldGraceExpiry
    dsimp only
    rw [hfind]
    dsimp only
    rw [hreq]
    dsimp only
    rw [if_pos (.inl hnow)]
    rfl
  · intro hnow haband hquiet
    change execYieldGraceExpiry kid s = _
    unfold execYieldGraceExpiry
    dsimp only
    rw [hfind]
    dsimp only
    rw [hreq]
    dsimp only
    rw [if_neg]
    · rfl
    · rw [haband]
      rintro (h | h | h)
      · exact absurd h (Nat.not_lt.2 hnow)
      · exact Bool.false_ne_true h
      · revert h
        cases hsl : s.d.sliceOf x.ctx with
        | none => exact Bool.false_ne_true
        | some sl => exact fun h => hquiet sl hsl (of_decide_eq_true h)

theorem Within.ownerOf {p : Touch} {d t : Die} (h : Within p d t) (k : Nat) (hslice : p.regs.contains .SM_SLICE = false := by rfl)
    (hmask : p.regs.contains .SM_SLICE_CLUSTERS = false := by rfl) : t.ownerOf k = d.ownerOf k := by
  unfold Die.ownerOf Die.sliceState
  congr 1
  funext s
  rw [h.getF F.SM_SLICE.STATE s hslice, h.bit F.SM_SLICE.KIND s hslice, h.reg .SM_SLICE_CLUSTERS s 0 hmask]

/-- What a lend changes, and what it makes of the cluster and of its owner's count. -/
theorem Die.setLent_spec {d : Die} {n o : Nat} (hlent : d.lent n = false) (howner : d.ownerOf n = some o) :
    Within { regs := [.TY_CLUSTER, .TY_SLICE_STAT] } d (d.setLent n true) ∧ (d.setLent n true).lent n = true ∧
      (d.setLent n true).getF F.TY_SLICE_STAT.LENT o = (d.getF F.TY_SLICE_STAT.LENT o + 1) % 128 := by
  unfold Die.setLent Die.lent at *
  rw [hlent, if_neg (by decide)]
  have hset : Within { regs := [.TY_CLUSTER, .TY_SLICE_STAT] } d (d.setF F.TY_CLUSTER.LENT n (Bool.num true)) := Die.setF_within d _ n _
  have hbit : (d.setF F.TY_CLUSTER.LENT n (Bool.num true)).getF F.TY_CLUSTER.LENT n = 1 := Die.getF_setF_same _ _ _ _ (Nat.le_of_ble_eq_true rfl)
  have hcount : (d.setF F.TY_CLUSTER.LENT n (Bool.num true)).getF F.TY_SLICE_STAT.LENT o = d.getF F.TY_SLICE_STAT.LENT o :=
    Die.getF_setF_other _ _ _ _ _ _ (by decide)
  have hown : (d.setF F.TY_CLUSTER.LENT n (Bool.num true)).ownerOf n = some o := (hset.ownerOf n).trans howner
  dsimp only
  generalize d.setF F.TY_CLUSTER.LENT n (Bool.num true) = y at hset hbit hcount hown ⊢
  rw [hown]
  dsimp only
  rw [if_pos rfl, hcount]
  refine ⟨hset.trans (Die.setF_within y F.TY_SLICE_STAT.LENT o _), ?_, Die.getF_setF_same _ _ _ _ (Nat.le_of_ble_eq_true rfl)⟩
  rw [Die.bit_iff_getF _ _ _ rfl, Die.getF_setF_other _ _ _ _ _ _ (by decide), hbit]

theorem exec_lend {s : State} {k : BitVec 6} {o : Nat} (howner : s.d.ownerOf k.toNat = some o) : exec (.lend k) s = s.go (
    if s.d.lendOn ∧ s.d.bit F.SM_SLICE.LENDABLE o ∧ s.d.sliceState o ≠ 5 ∧ s.d.live s.env k.toNat ∧ s.d.clState k.toNat = 0 ∧ s.d.keptBy s.env k.toNat = none ∧
      !(s.d.claimed k.toNat) ∧ !(s.d.jobs.any (fun j => decide (j.slice = some o) && decide (k.toNat ∈ s.d.wanted s.env j))) ∧
      s.env.now ≥ (s.d.clRt k.toNat).idle + s.d.lendNs then s.d.setLent k.toNat true else s.d) := by
  change execLend k s = _
  unfold execLend
  dsimp only
  rw [howner]

/-- No job of the owner waits for the cluster. -/
theorem no_wants_iff (d : Die) (e : Env) (o n : Nat) : (!(d.jobs.any (fun j => decide (j.slice = some o) && decide (n ∈ d.wanted e j)))) = true ↔
    ∀ j ∈ d.jobs, ¬ (j.slice = some o ∧ n ∈ d.wanted e j) := by
  rw [Bool.not_eq_true', List.any_eq_false]
  simp only [Bool.and_eq_true, decide_eq_true_eq]

theorem exec_quantumExpiry {s : State} {k : BitVec 6} (hnow : (s.d.clRt k.toNat).quantum ≤ s.env.now) (hst : s.d.clState k.toNat = 1) :
    exec (.quantumExpiry k) s = s.go (match s.d.rival s.env k.toNat (s.d.getF F.TY_CLUSTER.CONTEXT k.toNat), s.d.kernAt k.toNat with
      | some j, some x => s.d.postYield s.env x (some j.ctx)
      | _, _ => s.d.setClRt k.toNat { s.d.clRt k.toNat with quantum := s.env.now + s.d.quantumNs }) := by
  change execQuantumExpiry k s = _
  unfold execQuantumExpiry
  dsimp only
  rw [if_neg (Nat.not_lt.2 hnow), hst, if_neg (by decide), if_pos rfl] <;>
    cases s.d.rival s.env k.toNat (s.d.getF F.TY_CLUSTER.CONTEXT k.toNat) <;> cases s.d.kernAt k.toNat <;> rfl

/-- What YIELD does in the die in which it acts. -/
def Die.yieldFor (e : Env) (d : Die) (c : Cmd) : Die :=
  let kept := (List.range 64).filter (fun k => decide (d.clState k = 0 ∧ d.keptBy e k = some c.ctx))
  match (d.clustersOf c.ctx ++ kept).findSome? (fun k => d.rival e k c.ctx) with
  | some j =>
    let d := kept.foldl (fun d k => d.setClRt k { d.clRt k with kept := none }) d
    let d := (d.ty.kerns.filter (fun x => decide (x.ctx = c.ctx) && x.placed)).foldl (fun d x => d.postYield e x (some j.ctx)) d
    d.finish c.id St.OK 1
  | none => d.finish c.id St.OK 0

theorem Die.yieldFor_rival {e : Env} {d : Die} {c : Cmd} {j : Job} (hcmd : d.cmd c.id = some c)
    (h : (d.clustersOf c.ctx ++ (List.range 64).filter (fun k => decide (d.clState k = 0 ∧ d.keptBy e k = some c.ctx))).findSome? (fun k => d.rival e k c.ctx) = some j) :
    (d.yieldFor e c).cmd c.id = some { c with st := .done, status := St.OK, result := 1 } ∧ (d.yieldFor e c).mem = d.mem := by
  unfold Die.yieldFor
  extract_lets kept y
  rw [show (d.clustersOf c.ctx ++ kept).findSome? (fun k => d.rival e k c.ctx) = some j from h]
  dsimp only
  have hkept : Within { ty := true } d y := by
    unfold y
    exact .foldl (fun (d : Die) (k : Nat) => d.setClRt k { d.clRt k with kept := none }) (fun v k => Die.setClRt_within v k _) kept d
  clear_value y
  generalize hz : (y.ty.kerns.filter (fun x => decide (x.ctx = c.ctx) && x.placed)).foldl (fun d x => d.postYield e x (some j.ctx)) y = z
  have hask : Within yieldTouch y z := by
    rw [← hz]
    exact .foldl (fun (d : Die) (x : Kern) => d.postYield e x (some j.ctx)) (fun v x => Die.postYield_within e v x _) _ y
  constructor
  · exact Die.finish_cmd z c.id St.OK 1 c ((Die.cmd_of_sf (hask.sf.trans hkept.sf) c.id).trans hcmd)
  · rw [(Die.finish_within (p := { sf := true }) z _ _ _).mem, hask.mem, hkept.mem]

theorem exec_yieldCmd {s : State} {id : Nat} {c : Cmd} {d : Die} (h : Acting s id Op.YIELD c d) : exec (.yieldCmd id) s = .next (actsTo s id c (d.yieldFor s.env c)) :=
  exec_of_start (sub := fun _ => true) (body := fun c d => d.yieldFor s.env c) h rfl (fun _ _ _ => rfl)

/-- Settles O39: each of Tally's own acts waits for its time, and then does what its rule says. -/
theorem quantaGracesAndLoansEnd : Obligations.QuantaGracesAndLoansEnd := by
  unfold Obligations.QuantaGracesAndLoansEnd
  intro s k id c d x n rt holder
  refine ⟨fun hnow => ?_, fun hnow hst hrival => ?_, fun j hnow hst hrival hat hyields haband hall => ?_, fun kid q hfind hreq => ⟨(exec_yieldGraceExpiry hfind hreq).1, ?_⟩,
    fun o howner => ?_, fun t0 horder hst hnow => ?_, fun t0 horder hnow => ?_, fun h => ?_⟩
  · change execQuantumExpiry k s = _
    unfold execQuantumExpiry
    dsimp only
    rw [if_pos hnow]
    rfl
  · rw [exec_quantumExpiry hnow hst, hrival]
    rfl
  · rw [exec_quantumExpiry hnow hst, hrival, hat]
    exact ⟨_, rfl, fun m hm => Die.postYield_asks _ hyields haband hall hm, (Die.postYield_within s.env s.d x _).mem, rfl⟩
  · intro hnow haband hquiet htear hst
    obtain ⟨hrest, hcount⟩ := s.d.overrun_spec x q.2
    rw [(exec_yieldGraceExpiry hfind hreq).2 hnow haband hquiet]
    have htear' : (s.d.overrun x q.2).tearing x.ctx = false := by
      unfold Die.tearing
      rw [hrest.sf]
      exact htear
    have hst' : (s.d.overrun x q.2).ctxState x.ctx ≠ 5 := by
      unfold Die.ctxState
      rw [hrest.getF F.SF_CTX_STATUS.STATE x.ctx]
      exact hst
    generalize s.d.overrun x q.2 = y at hcount htear' hst'
    refine ⟨_, rfl, ?_, ?_, rfl⟩
    · change ∃ z ∈ (y.teardown s.env x.ctx St.YIELD_OVERRUN (some x.cmd) none false).sf.tears, _
      rw [Die.teardown_tears St.YIELD_OVERRUN (some x.cmd) none false htear' hst']
      exact ⟨_, List.mem_append_right _ (List.mem_singleton.2 rfl), rfl, rfl, rfl⟩
    · exact ((Die.teardown_within s.env y x.ctx St.YIELD_OVERRUN (some x.cmd) none false).getF F.TY_STATUS.OVERRUNS 0).trans hcount
  · intro due
    have hiff : due ↔ (s.d.lendOn ∧ s.d.bit F.SM_SLICE.LENDABLE o ∧ s.d.sliceState o ≠ 5 ∧ s.d.live s.env k.toNat ∧ s.d.clState k.toNat = 0 ∧ s.d.keptBy s.env k.toNat = none ∧
      !(s.d.claimed k.toNat) ∧ !(s.d.jobs.any (fun j => decide (j.slice = some o) && decide (k.toNat ∈ s.d.wanted s.env j))) ∧
      s.env.now ≥ (s.d.clRt k.toNat).idle + s.d.lendNs) := by
      rw [no_wants_iff, Bool.not_eq_true']
    rw [exec_lend howner]
    constructor
    · intro hdue hlent
      obtain ⟨hrest, hnow, hcount⟩ := Die.setLent_spec hlent howner
      rw [if_pos (hiff.1 hdue)]
      exact ⟨{ s with d := s.d.setLent n true }, rfl, hnow, hcount, hrest.onlyRegs⟩
    · intro hdue
      rw [if_neg (fun h => hdue (hiff.2 h))]
      rfl
  · change execAbandonTimeout k s = _
    unfold execAbandonTimeout
    dsimp only
    rw [show (s.d.clRt k.toNat).order = some t0 from horder]
    dsimp only
    have hdue : s.d.clState k.toNat = 3 ∧ s.env.now ≥ t0 + 20000 := ⟨hst, hnow⟩
    rw [if_pos hdue]
    rfl
  · change execAbandonTimeout k s = _
    unfold execAbandonTimeout
    dsimp only
    rw [show (s.d.clRt k.toNat).order = some t0 from horder]
    dsimp only
    rw [if_neg (fun h => absurd h.2 (Nat.not_le.2 hnow))]
    rfl
  · have hexec := exec_yieldCmd h
    have hid : c.id = id := h.id
    intro kept
    refine ⟨fun hnone => ?_, fun hsome => ?_⟩
    · rw [hexec]
      unfold Die.yieldFor
      dsimp only
      rw [show (d.clustersOf c.ctx ++ (List.range 64).filter (fun k => decide (d.clState k = 0 ∧ d.keptBy s.env k = some c.ctx))).findSome? (fun k => d.rival s.env k c.ctx) = none from hnone, hid]
    · obtain ⟨j, hj⟩ := Option.isSome_iff_exists.1 hsome
      obtain ⟨hdone, hmem⟩ := Die.yieldFor_rival (hid ▸ h.cmd : d.cmd c.id = some c) hj
      refine ⟨_, hexec, ?_, ?_, (actsTo_env id c _).1⟩
      · rw [actsTo_cmd h, ← hid]
        exact hdone
      · exact (actsTo_within h _).mem.trans hmem

end Sys2Proof.Machine
end

section
/-! PROOF. O38: a placement gives a job its whole set of clusters (R126, R127, R470). -/

-- One proof after another: all at once, they ask for more threads than the check's memory limit admits.
set_option Elab.async false

namespace Sys2Proof.Machine

/-! ### The ranks of a new kernel take the clusters of the set -/

/-- The ranks of a kernel that starts on `n` clusters. -/
def freshRanks (n : Nat) : List Rank := (List.range n).map (fun i => { rank := i, cluster := none })

/-- Ranks still to run, as many as clusters, take them all, and nothing else. -/
theorem giveRanks_spec (rs : List Rank) (ks : List Nat) (hlen : rs.length = ks.length) (hrun : ∀ r ∈ rs, r.ended = false) :
    (giveRanks rs ks).length = ks.length ∧ (∀ k ∈ ks, ∃ r ∈ giveRanks rs ks, r.cluster = some k) := by
  induction rs generalizing ks with
  | nil =>
    cases ks with
    | nil => exact ⟨rfl, fun k hk => absurd hk (by simp)⟩
    | cons k ks => exact absurd hlen (by simp)
  | cons r rs ih =>
    cases ks with
    | nil => exact absurd hlen (by simp)
    | cons k ks =>
      obtain ⟨hn, hall⟩ := ih ks (Nat.succ.inj hlen) (fun x hx => hrun x (List.mem_cons_of_mem _ hx))
      have hgive : giveRanks (r :: rs) (k :: ks) = { r with cluster := some k, yielded := false } :: giveRanks rs ks := by
        rw [giveRanks, hrun r List.mem_cons_self]
        rfl
      rw [hgive]
      refine ⟨by rw [List.length_cons, List.length_cons, hn], fun m hm => ?_⟩
      rcases List.mem_cons.1 hm with rfl | hm
      · exact ⟨_, List.mem_cons_self, rfl⟩
      · obtain ⟨x, hx, hxm⟩ := hall m hm
        exact ⟨x, List.mem_cons_of_mem _ hx, hxm⟩

/-! ### A cluster given to a job -/

/-- The START message of rank `r` on cluster `k` (R470). -/
def startMsg (j : Job) (x : Kern) (r : Rank) (k : Nat) : Msg :=
  .kStart k (x.kid % 256) j.ctx (j.slice.getD 0) (j.cmd.p6 8) (j.cmd.p6 16) (j.cmd.q 32) j.cmd.grid.1 j.cmd.grid.2.1 j.cmd.grid.2.2 r.rank x.ranks.length j.kern.isSome r.token

/-- What a placement may change. -/
def placeTouch : Touch :=
  { regs := [.ST_REGION_STATUS, .TY_CLUSTER, .TY_RING_DL, .TY_STATUS, .TY_SLICE_STAT, .SF_CTX_STATUS], mem := true, coh := true, bt := true, out := true, ty := true, sf := true, ch := true, nid := true }

/-- The registers of a cluster that is given to a context. -/
def Die.takeCluster (d : Die) (k c sl : Nat) : Die := ((d.setF F.TY_CLUSTER.STATE k 1).setF F.TY_CLUSTER.CONTEXT k c).setF F.TY_CLUSTER.SLICE k sl

theorem Die.takeCluster_same (d : Die) (k c sl : Nat) (hc : c < 4096) : (d.takeCluster k c sl).clusterIs k 1 c := by
  unfold Die.takeCluster Die.clusterIs Die.clState
  constructor
  · rw [Die.getF_setF_apart _ _ _ _ _ rfl, Die.getF_setF_apart _ _ _ _ _ rfl, Die.getF_setF_same _ _ _ _ (Nat.le_of_ble_eq_true rfl)]
    rfl
  · rw [Die.getF_setF_apart _ _ _ _ _ rfl, Die.getF_setF_same _ _ _ _ (Nat.le_of_ble_eq_true rfl)]
    exact Nat.mod_eq_of_lt hc

theorem Die.takeCluster_keeps {d : Die} {m c : Nat} (h : d.clusterIs m 1 c) (k sl : Nat) (hc : c < 4096) : (d.takeCluster k c sl).clusterIs m 1 c := by
  by_cases hmk : m = k
  · rw [hmk]
    exact Die.takeCluster_same d k c sl hc
  · have hset : ∀ (y : Die) (f g : Fld) (v : Nat), f.lo + f.width ≤ 64 → f.word = 0 → g.word = 0 → (y.setF f k v).getF g m = y.getF g m := fun y f g v hw hf hg =>
      Die.getF_setF_ne y f g k m v hw (.inr (.inl (by omega)))
    unfold Die.takeCluster
    refine ⟨Eq.trans ?_ h.1, Eq.trans ?_ h.2⟩
    · unfold Die.clState
      rw [hset _ _ _ _ (Nat.le_of_ble_eq_true rfl) rfl rfl, hset _ _ _ _ (Nat.le_of_ble_eq_true rfl) rfl rfl, hset _ _ _ _ (Nat.le_of_ble_eq_true rfl) rfl rfl]
    · rw [hset _ _ _ _ (Nat.le_of_ble_eq_true rfl) rfl rfl, hset _ _ _ _ (Nat.le_of_ble_eq_true rfl) rfl rfl, hset _ _ _ _ (Nat.le_of_ble_eq_true rfl) rfl rfl]

theorem Die.resetCount_within {p : Touch} (d : Die) (id : Nat) (hp : p.ch = true := by rfl) : Within p d (d.resetCount id) := Die.setCh_within d _ hp

/-- The cluster's time and counts at its start, before its registers show the job, and its START message follow. -/
theorem Die.giveCluster_eq (e : Env) (d : Die) (j : Job) (x : Kern) (r : Rank) (k : Nat) : ∃ rt : ClRt,
    d.giveCluster e j x r k = (if j.kern.isSome then ((d.setClRt k rt).takeCluster k j.ctx (j.slice.getD 0))
      else ((((d.setClRt k rt).takeCluster k j.ctx (j.slice.getD 0)).resetCount (64 + 8 * k + 6)).resetCount (64 + 8 * k + 7))).send (startMsg j x r k) := ⟨_, rfl⟩

theorem Die.giveCluster_spec (e : Env) (d : Die) (j : Job) (x : Kern) (r : Rank) (k : Nat) (hc : j.ctx < 4096) :
    Within placeTouch d (d.giveCluster e j x r k) ∧ (d.giveCluster e j x r k).out = startMsg j x r k :: d.out ∧ (d.giveCluster e j x r k).clusterIs k 1 j.ctx ∧
      ∀ m, d.clusterIs m 1 j.ctx → (d.giveCluster e j x r k).clusterIs m 1 j.ctx := by
  obtain ⟨rt, heq⟩ := Die.giveCluster_eq e d j x r k
  rw [heq]
  have h₁ : Within { ty := true } d (d.setClRt k rt) := Die.setClRt_within d k rt
  generalize d.setClRt k rt = y at h₁ ⊢
  have h₂ : Within { regs := [.TY_CLUSTER] } y (y.takeCluster k j.ctx (j.slice.getD 0)) :=
    ((Die.setF_within y _ k _).trans (Die.setF_within _ _ k _)).trans (Die.setF_within _ _ k _)
  have hsame := Die.takeCluster_same y k j.ctx (j.slice.getD 0) hc
  have hkeeps : ∀ m, y.clusterIs m 1 j.ctx → (y.takeCluster k j.ctx (j.slice.getD 0)).clusterIs m 1 j.ctx := fun m hm => Die.takeCluster_keeps hm k _ hc
  generalize y.takeCluster k j.ctx (j.slice.getD 0) = z at h₂ hsame hkeeps ⊢
  generalize hw : (if j.kern.isSome then z else (z.resetCount (64 + 8 * k + 6)).resetCount (64 + 8 * k + 7)) = w
  have h₃ : Within { ch := true } z w := by
    rw [← hw]
    split
    · exact .refl z
    · exact (Die.resetCount_within z _).trans (Die.resetCount_within _ _)
  have h₄ : Within { out := true } w (w.send (startMsg j x r k)) := Die.send_within w _
  refine ⟨((h₁.mono.trans h₂.mono).trans h₃.mono).trans h₄.mono, ?_, h₄.clusterIs (h₃.clusterIs hsame), fun m hm => h₄.clusterIs (h₃.clusterIs (hkeeps m (h₁.clusterIs hm)))⟩
  change startMsg j x r k :: w.out = _
  rw [h₃.out, h₂.out, h₁.out]

/-! ### A kernel on its whole set -/

/-- Every rank that holds a cluster starts on it. -/
def Die.giveAll (e : Env) (d : Die) (j : Job) (x : Kern) (l : List Rank) : Die :=
  l.foldl (fun d r => match r.cluster with | some k => d.giveCluster e j x r k | none => d) d

theorem Die.giveAll_cons (e : Env) (d : Die) (j : Job) (x : Kern) (r : Rank) (l : List Rank) :
    d.giveAll e j x (r :: l) = (match r.cluster with | some k => d.giveCluster e j x r k | none => d).giveAll e j x l := by
  unfold Die.giveAll
  rw [List.foldl_cons]

/-- Rank `r` has started on cluster `k`. -/
def Die.startedOn (d : Die) (j : Job) (x : Kern) (r : Rank) (k : Nat) : Prop := d.clusterIs k 1 j.ctx ∧ startMsg j x r k ∈ d.out

theorem Die.giveAll_spec (e : Env) (j : Job) (x : Kern) (hc : j.ctx < 4096) (l : List Rank) (d : Die) :
    Within placeTouch d (d.giveAll e j x l) ∧ ∀ r k, (d.startedOn j x r k ∨ (r ∈ l ∧ r.cluster = some k)) → (d.giveAll e j x l).startedOn j x r k := by
  induction l generalizing d with
  | nil => exact ⟨.refl d, fun r k h => h.resolve_right (fun hc => absurd hc.1 (by simp))⟩
  | cons a l ih =>
    rw [Die.giveAll_cons]
    cases ha : a.cluster with
    | none =>
      obtain ⟨hrest, hall⟩ := ih d
      refine ⟨hrest, fun r k h => hall r k (h.imp_right (fun hr => ⟨?_, hr.2⟩))⟩
      refine (List.mem_cons.1 hr.1).resolve_left (fun hra => ?_)
      rw [hra, ha] at hr
      exact absurd hr.2 (by simp)
    | some n =>
      obtain ⟨hstep, hout, hsame, hkeeps⟩ := Die.giveCluster_spec e d j x a n hc
      obtain ⟨hrest, hall⟩ := ih (d.giveCluster e j x a n)
      refine ⟨hstep.trans hrest, fun r k h => hall r k ?_⟩
      rcases h with ⟨hin, hsent⟩ | ⟨hr, hk⟩
      · exact .inl ⟨hkeeps k hin, by rw [hout]; exact List.mem_cons_of_mem _ hsent⟩
      · rcases List.mem_cons.1 hr with rfl | hr
        · have hn : n = k := Option.some.inj (ha.symm.trans hk)
          subst hn
          exact .inl ⟨hsame, by rw [hout]; exact List.mem_cons_self⟩
        · exact .inr ⟨hr, hk⟩

/-- What the monitor of deadlines may change. -/
def monitorTouch : Touch := { regs := [.TY_RING_DL, .TY_STATUS, .TY_SLICE_STAT], sf := true, nid := true }

theorem Die.monitorRing_within (e : Env) (d : Die) (n : Nat) : Within monitorTouch d (d.monitorRing e n) := by
  unfold Die.monitorRing
  extract_lets r p y
  split
  · exact .refl d
  · split
    · have h₁ : Within monitorTouch d y := (Die.setF_within d F.TY_RING_DL.SWITCH_PENDING n 1).trans (Die.incSat_within _ F.TY_STATUS.FALLBACKS 0 1)
      clear_value y
      split
      · exact h₁.trans (Die.incSat_within y F.TY_SLICE_STAT.FALLBACKS _ 1)
      · exact h₁
    · exact .refl d

theorem Die.begin_within (e : Env) (d : Die) (c : Cmd) : Within monitorTouch d (d.begin e c) := by
  unfold Die.begin
  extract_lets y z r
  have h : Within monitorTouch d z := (Die.setCmd_within d _).trans (Die.setNid_within y _)
  clear_value z
  split
  · exact h.trans ((Die.setRingRt_within z _ _).trans (Die.monitorRing_within e _ _))
  · exact h

/-- The kernel of a new job that is given the clusters `ks`. -/
def newKern (e : Env) (d : Die) (j : Job) (ks : List Nat) : Kern :=
  { kid := j.cmd.id, cmd := j.cmd.id, ctx := j.ctx, ranks := giveRanks (freshRanks ks.length) ks, named := (d.namedClusters e j.cmd).getD [], req := none }

/-- A new kernel stands on its clusters; its command begins. -/
def Die.enrol (e : Env) (d : Die) (j : Job) (y : Kern) : Die :=
  let d : Die := { d with ty.kerns := d.ty.kerns ++ [y] }
  let d : Die := { d with ty.lastRing := Tab.set 8191 d.ty.lastRing j.ctx j.cmd.ring }
  (if j.cmd.started then d.setCmd { j.cmd with st := .running } else d.begin e j.cmd).ctxPump j.ctx

theorem Die.enrol_within (e : Env) (d : Die) (j : Job) (y : Kern) :
    Within { regs := [.TY_RING_DL, .TY_STATUS, .TY_SLICE_STAT, .SF_CTX_STATUS], ty := true, sf := true, nid := true } d (d.enrol e j y) := by
  unfold Die.enrol
  extract_lets ty a ty' b
  have h : Within { regs := [.TY_RING_DL, .TY_STATUS, .TY_SLICE_STAT, .SF_CTX_STATUS], ty := true, sf := true, nid := true } d b := (Die.setTy_within d _).trans (Die.setTy_within a _)
  clear_value b
  refine (h.trans ?_).trans (Die.ctxPump_within _ j.ctx).mono
  split
  · exact Die.setCmd_within b _
  · exact (Die.begin_within e b j.cmd).mono

/-- A new job whose regions run takes its clusters at once. -/
theorem Die.place_new {e : Env} {d : Die} {j : Job} {ks : List Nat} (hkern : j.kern = none) (hrun : ∀ c ∈ ks, d.running (c / 8) = true) : ∃ w,
    Within { regs := [.ST_REGION_STATUS], mem := true, coh := true, bt := true, out := true } d w ∧
      d.place e j ks = (w.giveAll e j (newKern e w j ks) (newKern e w j ks).ranks).enrol e j (newKern e w j ks) := by
  refine ⟨(ks.map (· / 8)).foldl (fun d r => d.wake e r) d, .foldl (fun (d : Die) (r : Nat) => d.wake e r) (fun y r => Die.wake_within e y r) _ d, ?_⟩
  have hcold : (ks.map (· / 8)).filter (fun r => !(d.running r)) = [] := by
    rw [List.filter_eq_nil_iff]
    intro r hr
    obtain ⟨c, hc, rfl⟩ := List.mem_map.1 hr
    rw [hrun c hc]
    exact Bool.false_ne_true
  unfold Die.place
  rw [hcold, if_neg (not_not_intro rfl), hkern]
  rfl

/-- A new job whose regions run has started on every cluster of its set. -/
theorem Die.place_new_spec {e : Env} {d : Die} {j : Job} {ks : List Nat} (hkern : j.kern = none) (hrun : ∀ c ∈ ks, d.running (c / 8) = true) (hc : j.ctx < 4096) :
    (d.place e j ks).mem.dram = d.mem.dram ∧ ∀ c ∈ ks, (d.place e j ks).clusterIs c 1 j.ctx ∧
      ∃ r token, Msg.kStart c (j.cmd.id % 256) j.ctx (j.slice.getD 0) (j.cmd.p6 8) (j.cmd.p6 16) (j.cmd.q 32) j.cmd.grid.1 j.cmd.grid.2.1 j.cmd.grid.2.2 r ks.length false token ∈
        (d.place e j ks).out := by
  obtain ⟨w, hw, heq⟩ := Die.place_new (e := e) (d := d) (j := j) (ks := ks) hkern hrun
  have hfresh : (freshRanks ks.length).length = ks.length ∧ ∀ r ∈ freshRanks ks.length, r.ended = false := by
    unfold freshRanks
    refine ⟨by rw [List.length_map, List.length_range], fun r hr => ?_⟩
    obtain ⟨i, _, rfl⟩ := List.mem_map.1 hr
    rfl
  obtain ⟨hlen, hall⟩ := giveRanks_spec (freshRanks ks.length) ks hfresh.1 hfresh.2
  rw [heq]
  generalize hx : newKern e w j ks = x
  have hranks : x.ranks = giveRanks (freshRanks ks.length) ks := by rw [← hx]; rfl
  have hkid : x.kid = j.cmd.id := by rw [← hx]; rfl
  obtain ⟨hgive, hstarted⟩ := Die.giveAll_spec e j x hc x.ranks w
  have hlast := Die.enrol_within e (w.giveAll e j x x.ranks) j x
  generalize w.giveAll e j x x.ranks = y at hgive hstarted hlast ⊢
  refine ⟨hlast.dram.trans (hgive.dram.trans hw.dram), fun c hcs => ?_⟩
  obtain ⟨r, hr, hrc⟩ := hall c hcs
  obtain ⟨hin, hsent⟩ := hstarted r c (.inr ⟨by rw [hranks]; exact hr, hrc⟩)
  refine ⟨hlast.clusterIs hin, r.rank, r.token, ?_⟩
  rw [hlast.out]
  unfold startMsg at hsent
  rw [hkid, hranks, hlen, hkern] at hsent
  exact hsent

/-- A free live cluster goes to the first job that can be given its set. -/
theorem exec_placement {s : State} {k : BitVec 6} (hnamed : ∀ x ∈ s.d.jobs, x.kern = none → s.d.namedClusters s.env x.cmd ≠ some []) :
    exec (.placement k) s = s.go (if !(s.d.live s.env k.toNat) ∨ s.d.clState k.toNat ≠ 0 then s.d
      else match firstGrant s.env (s.d.recallDue s.env) ((s.d.recallDue s.env).offers s.env k.toNat) with
        | some g =>
          if g.1.kern.isSome ∨ g.1.cmd.started ∨ g.1.cmd.parent.isSome then (s.d.recallDue s.env).place s.env g.1 g.2
          else if (s.d.recallDue s.env).bit F.TY_RING_DL.BYPASSING g.1.cmd.ring then (s.d.recallDue s.env).endUnrun g.1.cmd St.BYPASSED
          else if (s.d.recallDue s.env).bit F.TY_RING_DL.SWITCH_PENDING g.1.cmd.ring then (s.d.recallDue s.env).takeFallback s.env g.1.cmd
          else (s.d.recallDue s.env).place s.env g.1 g.2
        | none => s.d.recallDue s.env) := by
  have hnone : s.d.jobs.find? (fun j => j.kern.isNone && decide (s.d.namedClusters s.env j.cmd = some [])) = none := by
    rw [List.find?_eq_none]
    intro x hx h
    obtain ⟨hk, hn⟩ := Bool.and_eq_true_iff.1 h
    exact hnamed x hx (Option.isNone_iff_eq_none.1 hk) (of_decide_eq_true hn)
  change execPlacement k s = _
  unfold execPlacement
  dsimp only
  rw [hnone] <;> rfl

/-- What becomes of the first job that can be given its set, as the switch of its ring stands. -/
def Die.granted (e : Env) (d : Die) (j : Job) (ks : List Nat) : Die :=
  if j.kern.isSome ∨ j.cmd.started ∨ j.cmd.parent.isSome then d.place e j ks
  else if d.bit F.TY_RING_DL.BYPASSING j.cmd.ring then d.endUnrun j.cmd St.BYPASSED
  else if d.bit F.TY_RING_DL.SWITCH_PENDING j.cmd.ring then d.takeFallback e j.cmd
  else d.place e j ks

theorem Die.granted_place {e : Env} {d : Die} {j : Job} {ks : List Nat}
    (h : (j.kern = none ∧ j.cmd.started = false ∧ j.cmd.parent = none) → d.bit F.TY_RING_DL.BYPASSING j.cmd.ring = false ∧ d.bit F.TY_RING_DL.SWITCH_PENDING j.cmd.ring = false) :
    d.granted e j ks = d.place e j ks := by
  unfold Die.granted
  by_cases hold : j.kern.isSome ∨ j.cmd.started ∨ j.cmd.parent.isSome
  · rw [if_pos hold]
  · obtain ⟨hk, hs, hp⟩ := not_or.1 hold |>.imp_right not_or.1
    obtain ⟨hb, hsw⟩ := h ⟨Option.not_isSome_iff_eq_none.1 hk, Bool.eq_false_iff.2 hs, Option.not_isSome_iff_eq_none.1 hp⟩
    rw [if_neg hold, hb, if_neg Bool.false_ne_true, hsw, if_neg Bool.false_ne_true]

theorem Die.granted_fresh {e : Env} {d : Die} {j : Job} {ks : List Nat} (h : j.kern = none ∧ j.cmd.started = false ∧ j.cmd.parent = none) :
    d.granted e j ks = if d.bit F.TY_RING_DL.BYPASSING j.cmd.ring then d.endUnrun j.cmd St.BYPASSED
      else if d.bit F.TY_RING_DL.SWITCH_PENDING j.cmd.ring then d.takeFallback e j.cmd else d.place e j ks := by
  obtain ⟨hk, hs, hp⟩ := h
  unfold Die.granted
  rw [hk, hs, hp, if_neg]
  simp

/-- Settles O38: the first job in the order of offers that can be given its whole set takes it, and a START goes to every cluster of the set. -/
theorem placementGivesTheWholeSet : Obligations.PlacementGivesTheWholeSet := by
  unfold Obligations.PlacementGivesTheWholeSet
  intro s k j ks d g fresh bypassing switching hnamed
  have hexec := exec_placement (k := k) hnamed
  have hfree : s.d.live s.env k.toNat = true → s.d.clState k.toNat = 0 → ¬ ((!(s.d.live s.env k.toNat)) = true ∨ s.d.clState k.toNat ≠ 0) := by
    intro hlive hst
    rw [hlive, hst]
    simp
  have hgrant : s.d.live s.env k.toNat = true → s.d.clState k.toNat = 0 → firstGrant s.env d (d.offers s.env k.toNat) = some (j, ks) →
      exec (.placement k) s = s.go (d.granted s.env j ks) := by
    intro hlive hst hfirst
    rw [hexec, if_neg (hfree hlive hst), show firstGrant s.env (s.d.recallDue s.env) ((s.d.recallDue s.env).offers s.env k.toNat) = some (j, ks) from hfirst]
    rfl
  refine ⟨fun hlive hst hfirst hfresh hrun hkern hc => ?_, fun hlive hst hfirst => ⟨fun hfresh => ?_, fun hfresh hby => ?_, fun hfresh hby hsw => ?_⟩, fun hlive hst hfirst => ?_, fun hnot => ?_⟩
  · obtain ⟨hdram, hall⟩ := Die.place_new_spec (e := s.env) (d := d) (j := j) (ks := ks) hkern hrun hc
    refine ⟨{ s with d := d.place s.env j ks }, ?_, rfl, hdram.trans (Die.recallDue_within s.env s.d).dram, fun c hcs => ?_⟩
    · rw [hgrant hlive hst hfirst, Die.granted_place hfresh]
      rfl
    · obtain ⟨⟨hstate, hctx⟩, hmsg⟩ := hall c hcs
      exact ⟨hstate, hctx, hmsg⟩
  · rw [hgrant hlive hst hfirst, Die.granted_place hfresh]
    rfl
  · rw [hgrant hlive hst hfirst, Die.granted_fresh hfresh, if_pos hby]
    rfl
  · rw [hgrant hlive hst hfirst, Die.granted_fresh hfresh, if_neg (by rw [show d.bit F.TY_RING_DL.BYPASSING j.cmd.ring = false from hby]; exact Bool.false_ne_true), if_pos hsw]
    rfl
  · rw [hexec, if_neg (hfree hlive hst), show firstGrant s.env (s.d.recallDue s.env) ((s.d.recallDue s.env).offers s.env k.toNat) = none from hfirst]
    rfl
  · rw [hexec, if_pos]
    · rfl
    · rw [Bool.not_eq_true']
      exact hnot

end Sys2Proof.Machine
end

section
/-! PROOF. O40: invalidations (R163 to R165). -/

-- One proof after another: all at once, they ask for more threads than the check's memory limit admits.
set_option Elab.async false

namespace Sys2Proof.Machine

theorem Die.invCtxs_nodup {d : Die} {c : Cmd} {cs : List Nat} (h : d.invCtxs c = some cs) : cs.Nodup := by
  unfold Die.invCtxs at h
  split at h
  · split at h
    · exact absurd h (by simp)
    · rw [← Option.some.inj h]
      exact List.nodup_range.filter _
  · split at h
    · cases h
      exact List.nodup_singleton _
    · exact absurd h (by simp)

/-- The contexts of a list take a new epoch. -/
def Die.newEpochs (d : Die) (cs : List Nat) (drop : Xl → Bool) : Die := cs.foldl (fun d k => d.newEpoch k drop) d

theorem Die.newEpochs_cons (d : Die) (k : Nat) (cs : List Nat) (drop : Xl → Bool) : d.newEpochs (k :: cs) drop = (d.newEpoch k drop).newEpochs cs drop := by
  unfold Die.newEpochs
  rw [List.foldl_cons]

theorem Die.newEpoch_spec (d : Die) (k : Nat) (drop : Xl → Bool) :
    (d.newEpoch k drop).getF F.STU_EPOCH.EPOCH k = (d.getF F.STU_EPOCH.EPOCH k + 1) % 2 ^ F.STU_EPOCH.EPOCH.width ∧
      (∀ m, m ≠ k → (d.newEpoch k drop).getF F.STU_EPOCH.EPOCH m = d.getF F.STU_EPOCH.EPOCH m) ∧
      (d.newEpoch k drop).stu.caches = d.stu.caches.filter (fun x => !(decide (x.ctx = k) && drop x)) := by
  have hrose : (d.incWrap F.STU_EPOCH.EPOCH k 1).getF F.STU_EPOCH.EPOCH k = (d.getF F.STU_EPOCH.EPOCH k + 1) % 2 ^ F.STU_EPOCH.EPOCH.width :=
    Die.getF_setF_same _ _ _ _ (Nat.le_of_ble_eq_true rfl)
  have hother : ∀ m, m ≠ k → (d.incWrap F.STU_EPOCH.EPOCH k 1).getF F.STU_EPOCH.EPOCH m = d.getF F.STU_EPOCH.EPOCH m := fun m hm =>
    Die.getF_setF_ne _ _ _ _ _ _ (Nat.le_of_ble_eq_true rfl) (.inr (.inl (by omega)))
  have hcaches : (d.incWrap F.STU_EPOCH.EPOCH k 1).stu.caches = d.stu.caches := rfl
  unfold Die.newEpoch
  generalize d.incWrap F.STU_EPOCH.EPOCH k 1 = y at hrose hother hcaches ⊢
  exact ⟨hrose, hother, rfl⟩

theorem Die.newEpochs_spec (drop : Xl → Bool) (cs : List Nat) (d : Die) (hnd : cs.Nodup) :
    (∀ k ∈ cs, (d.newEpochs cs drop).getF F.STU_EPOCH.EPOCH k = (d.getF F.STU_EPOCH.EPOCH k + 1) % 2 ^ F.STU_EPOCH.EPOCH.width) ∧
      (∀ k, k ∉ cs → (d.newEpochs cs drop).getF F.STU_EPOCH.EPOCH k = d.getF F.STU_EPOCH.EPOCH k) ∧
      (∀ x, x ∈ (d.newEpochs cs drop).stu.caches ↔ x ∈ d.stu.caches ∧ (x.ctx ∈ cs → drop x = false)) := by
  induction cs generalizing d with
  | nil => exact ⟨fun k hk => absurd hk (by simp), fun _ _ => rfl, fun x => ⟨fun hx => ⟨hx, fun h => absurd h (by simp)⟩, fun h => h.1⟩⟩
  | cons a cs ih =>
    rw [Die.newEpochs_cons]
    obtain ⟨hnot, hnd⟩ := List.nodup_cons.1 hnd
    obtain ⟨hin, hout, hcaches⟩ := ih (d.newEpoch a drop) hnd
    obtain ⟨hrose, hother, hdropped⟩ := d.newEpoch_spec a drop
    refine ⟨fun k hk => ?_, fun k hk => ?_, fun x => ?_⟩
    · rcases List.mem_cons.1 hk with rfl | hk
      · rw [hout k hnot, hrose]
      · rw [hin k hk, hother k (fun hc => hnot (hc ▸ hk))]
    · rw [hout k (fun hc => hk (List.mem_cons_of_mem _ hc)), hother k (fun hc => hk (hc ▸ List.mem_cons_self))]
    · rw [hcaches x, hdropped, List.mem_filter]
      simp only [Bool.not_eq_true', Bool.and_eq_false_iff, decide_eq_false_iff_not, List.mem_cons]
      constructor
      · rintro ⟨⟨hx, hself⟩, hrest⟩
        exact ⟨hx, fun h => h.elim (fun h => hself.resolve_left (not_not_intro h)) hrest⟩
      · rintro ⟨hx, hall⟩
        exact ⟨⟨hx, (em (x.ctx = a)).symm.imp_right (fun h => hall (.inl h))⟩, fun h => hall (.inr h)⟩

theorem Die.newEpochs_within (d : Die) (cs : List Nat) (drop : Xl → Bool) : Within { regs := [.STU_EPOCH], stu := true } d (d.newEpochs cs drop) :=
  .foldl (fun (d : Die) (k : Nat) => d.newEpoch k drop) (fun y k => Die.newEpoch_within y k drop) cs d

/-- An invalidation of the contexts `cs` begins. -/
def Die.invBegun (e : Env) (d : Die) (c : Cmd) (cs : List Nat) : Die :=
  let x := d.older e.now c.id cs
  let d := cs.foldl (fun d k => d.newEpoch k (invDrops c)) (d.setCmd { c with aux := 1 })
  { d.setF F.STU_STATUS.INV_ACTIVE 0 1 with stu.inval := some x }

theorem Die.foldl_newEpoch (d : Die) (cs : List Nat) (drop : Xl → Bool) : cs.foldl (fun d k => d.newEpoch k drop) d = d.newEpochs cs drop := rfl

theorem exec_invalidate {s : State} {id : Nat} {c : Cmd} {d : Die} (h : Acting s id Op.INVALIDATE c d) (haux : c.aux = 0) :
    exec (.invalidate id) s = .next (actsTo s id c (match d.invCtxs c with | none => d.cmdFail s.env c St.BAD_ARG false | some cs => d.invBegun s.env c cs)) :=
  exec_of_start (sub := fun c => decide (c.aux = 0)) (body := fun c d => match d.invCtxs c with | none => d.cmdFail s.env c St.BAD_ARG false | some cs => d.invBegun s.env c cs)
    h rfl (fun _ _ hx => decide_eq_true (hx.trans haux))

theorem Die.invBegun_spec (e : Env) {d : Die} {c : Cmd} (cs : List Nat) (hcmd : d.cmd c.id = some c) (hnd : cs.Nodup) :
    Within { regs := [.STU_EPOCH, .STU_STATUS], stu := true, sf := true } d (d.invBegun e c cs) ∧ (d.invBegun e c cs).cmd c.id = some { c with aux := 1 } ∧
      (d.invBegun e c cs).getF F.STU_STATUS.INV_ACTIVE 0 = 1 ∧ (d.invBegun e c cs).stu.inval = some (d.older e.now c.id cs) ∧
      (∀ k ∈ cs, (d.invBegun e c cs).getF F.STU_EPOCH.EPOCH k = (d.getF F.STU_EPOCH.EPOCH k + 1) % 2 ^ F.STU_EPOCH.EPOCH.width) ∧
      (∀ x, x ∈ (d.invBegun e c cs).stu.caches ↔ x ∈ d.stu.caches ∧ (x.ctx ∈ cs → invDrops c x = false)) := by
  obtain ⟨hin, -, hcaches⟩ := Die.newEpochs_spec (invDrops c) cs (d.setCmd { c with aux := 1 }) hnd
  have h₁ : Within { sf := true } d (d.setCmd { c with aux := 1 }) := Die.setCmd_within d _
  have hset : (d.setCmd { c with aux := 1 }).cmd c.id = some { c with aux := 1 } := Die.cmd_setCmd_same d c.id _ c hcmd rfl
  have h₂ := (d.setCmd { c with aux := 1 }).newEpochs_within cs (invDrops c)
  unfold Die.invBegun
  dsimp only
  rw [Die.foldl_newEpoch]
  generalize d.older e.now c.id cs = o
  generalize d.setCmd { c with aux := 1 } = y at hin hcaches h₁ hset h₂ ⊢
  generalize y.newEpochs cs (invDrops c) = z at hin hcaches h₂ ⊢
  have h₃ : Within { regs := [.STU_STATUS] } z (z.setF F.STU_STATUS.INV_ACTIVE 0 1) := Die.setF_within z _ 0 1
  have hstu : (z.setF F.STU_STATUS.INV_ACTIVE 0 1).stu = z.stu := h₃.stu
  have hactive : (z.setF F.STU_STATUS.INV_ACTIVE 0 1).getF F.STU_STATUS.INV_ACTIVE 0 = 1 := Die.getF_setF_same _ _ _ _ (Nat.le_of_ble_eq_true rfl)
  generalize z.setF F.STU_STATUS.INV_ACTIVE 0 1 = w at h₃ hstu hactive ⊢
  have h₄ : Within { stu := true } w { w with stu := { w.stu with inval := some o } } := Die.setStu_within w _
  refine ⟨((h₁.mono.trans h₂.mono).trans h₃.mono).trans h₄.mono, ?_, (h₄.getF F.STU_STATUS.INV_ACTIVE 0).trans hactive, rfl, fun k hk => ?_, fun x => ?_⟩
  · exact (Die.cmd_of_sf (h₄.sf.trans (h₃.sf.trans h₂.sf)) c.id).trans hset
  · rw [h₄.getF F.STU_EPOCH.EPOCH k, h₃.getF F.STU_EPOCH.EPOCH k, hin k hk, h₁.getF F.STU_EPOCH.EPOCH k]
  · rw [hstu, hcaches x, h₁.stu]

/-- The invalidation that stood is over, and counted, with the longest it has taken. -/
def Die.invOver (e : Env) (d : Die) (x : Inval) : Die :=
  let d := ({ d with stu.inval := none }.setF F.STU_STATUS.INV_ACTIVE 0 0).incWrap F.STU_STATUS.INV_COUNT 0 1
  let us := min 65535 (ceilDiv (e.now - x.start) 1000)
  let d := d.setF F.STU_STATUS.INV_MAX_US 0 (max us (d.getF F.STU_STATUS.INV_MAX_US 0))
  d.count 3891 1

theorem Die.invOver_spec (e : Env) (d : Die) (x : Inval) :
    Within { regs := [.STU_STATUS], stu := true, ch := true } d (d.invOver e x) ∧ (d.invOver e x).stu.inval = none ∧ (d.invOver e x).bit F.STU_STATUS.INV_ACTIVE 0 = false ∧
      (d.invOver e x).getF F.STU_STATUS.INV_COUNT 0 = (d.getF F.STU_STATUS.INV_COUNT 0 + 1) % 2 ^ F.STU_STATUS.INV_COUNT.width := by
  unfold Die.invOver
  have h₁ : Within { stu := true } d { d with stu := { d.stu with inval := none } } := Die.setStu_within d _
  have hinval : ({ d with stu := { d.stu with inval := none } } : Die).stu.inval = none := rfl
  generalize ({ d with stu := { d.stu with inval := none } } : Die) = y at h₁ hinval ⊢
  have h₂ : Within { regs := [.STU_STATUS] } y ((y.setF F.STU_STATUS.INV_ACTIVE 0 0).incWrap F.STU_STATUS.INV_COUNT 0 1) :=
    (Die.setF_within y F.STU_STATUS.INV_ACTIVE 0 0).trans (Die.incWrap_within _ F.STU_STATUS.INV_COUNT 0 1)
  have hactive : ((y.setF F.STU_STATUS.INV_ACTIVE 0 0).incWrap F.STU_STATUS.INV_COUNT 0 1).getF F.STU_STATUS.INV_ACTIVE 0 = 0 := by
    unfold Die.incWrap
    rw [Die.getF_setF_apart _ _ _ _ _ rfl, Die.getF_setF_same _ _ _ _ (Nat.le_of_ble_eq_true rfl)]
    rfl
  have hcount : ((y.setF F.STU_STATUS.INV_ACTIVE 0 0).incWrap F.STU_STATUS.INV_COUNT 0 1).getF F.STU_STATUS.INV_COUNT 0 =
      (d.getF F.STU_STATUS.INV_COUNT 0 + 1) % 2 ^ F.STU_STATUS.INV_COUNT.width := by
    unfold Die.incWrap
    rw [Die.getF_setF_same _ _ _ _ (Nat.le_of_ble_eq_true rfl), Die.getF_setF_apart _ _ _ _ _ rfl, h₁.getF F.STU_STATUS.INV_COUNT 0]
  generalize (y.setF F.STU_STATUS.INV_ACTIVE 0 0).incWrap F.STU_STATUS.INV_COUNT 0 1 = z at h₂ hactive hcount ⊢
  dsimp only
  generalize max (min 65535 (ceilDiv (e.now - x.start) 1000)) (z.getF F.STU_STATUS.INV_MAX_US 0) = v
  have h₃ : Within { regs := [.STU_STATUS], ch := true } z ((z.setF F.STU_STATUS.INV_MAX_US 0 v).count 3891 1) :=
    (Die.setF_within z F.STU_STATUS.INV_MAX_US 0 v).trans (Die.count_within _ 3891 1)
  have hcnt : Within { ch := true } (z.setF F.STU_STATUS.INV_MAX_US 0 v) ((z.setF F.STU_STATUS.INV_MAX_US 0 v).count 3891 1) := Die.count_within _ 3891 1
  refine ⟨(h₁.mono.trans h₂.mono).trans h₃.mono, ?_, ?_, ?_⟩
  · rw [h₃.stu, h₂.stu, hinval]
  · rw [Die.bit_eq_false_iff _ _ _ rfl, hcnt.getF F.STU_STATUS.INV_ACTIVE 0, Die.getF_setF_apart _ _ _ _ _ rfl, hactive]
  · rw [hcnt.getF F.STU_STATUS.INV_COUNT 0, Die.getF_setF_apart _ _ _ _ _ rfl, hcount]

theorem exec_invalidateDrained {s : State} {id : Nat} {c : Cmd} {x : Inval} (hinval : s.d.stu.inval = some x) (hx : x.cmd = id) (hcmd : s.d.cmd id = some c) :
    (s.d.retired x = false → exec (.invalidateDrained id) s = .next s) ∧
      (s.d.retired x = true → s.d.fire0 Cs.INV_TIMEOUT 0 = false → exec (.invalidateDrained id) s = s.go ((s.d.invOver s.env x).opDone s.env c 0)) := by
  constructor
  · intro hret
    change execInvalidateDrained id s = _
    unfold execInvalidateDrained
    dsimp only
    rw [hinval, hcmd]
    dsimp only
    rw [hret, if_pos (.inr rfl)]
    rfl
  · intro hret hfire
    change execInvalidateDrained id s = _
    unfold execInvalidateDrained
    dsimp only
    rw [hinval, hcmd]
    dsimp only
    rw [hret, hx, if_neg (by simp), hfire, if_neg Bool.false_ne_true]
    rfl

theorem exec_invTimeout {s : State} {id : Nat} {x : Inval} (hinval : s.d.stu.inval = some x) (hx : x.cmd = id) : exec (.invTimeout id) s = s.go (
    if s.env.now ≥ x.start + 1000000 ∧ !(s.d.retired x) then { s.d.report s.env { cause := Cs.INV_TIMEOUT, det0 := x.ctxs.headD 0 } with stu.inval := none } else s.d) := by
  change execInvTimeout id s = _
  unfold execInvTimeout
  dsimp only
  rw [hinval]
  dsimp only
  simp only [hx, true_and]

/-- Settles O40: an invalidation takes its new epochs and drops its translations at its start, and ends with the last request of an older epoch. -/
theorem invalidationsDropTranslationsAndWaitForOlderRequests : Obligations.InvalidationsDropTranslationsAndWaitForOlderRequests := by
  unfold Obligations.InvalidationsDropTranslationsAndWaitForOlderRequests
  intro s id c d
  refine ⟨fun cs h haux hcs => ?_, fun h haux hcs => ?_, fun x hinval hx hcmd => ⟨(exec_invalidateDrained hinval hx hcmd).1, fun hret hfire => ?_, fun hlate hret => ?_, fun hearly => ?_⟩⟩
  · have hid : c.id = id := h.id
    obtain ⟨hrest, hset, hactive, hinval, hepochs, hcaches⟩ := Die.invBegun_spec s.env cs (hid ▸ h.cmd : d.cmd c.id = some c) (Die.invCtxs_nodup hcs)
    have hacts := actsTo_within h (d.invBegun s.env c cs)
    have hcmd := actsTo_cmd h (d.invBegun s.env c cs) id
    have hexec := exec_invalidate h haux
    rw [hcs] at hexec
    have hset' : (d.invBegun s.env c cs).cmd id = some { c with aux := 1 } := (congrArg (d.invBegun s.env c cs).cmd hid).symm.trans hset
    rw [hid] at hinval
    refine ⟨_, hexec, hcmd.trans hset', ?_, ?_, fun k hk => ?_, fun y hy hin => ?_, fun y hy hout => ?_, hacts.mem.trans hrest.mem, (actsTo_env id c _).1⟩
    · rw [hacts.bit F.STU_STATUS.INV_ACTIVE 0, Die.bit_iff_getF _ _ _ rfl, hactive]
    · rw [hacts.stu, hinval]
    · rw [hacts.getF F.STU_EPOCH.EPOCH k, hepochs k hk]
    · rw [hacts.stu] at hy
      exact ((hcaches y).1 hy).2 hin
    · rw [hacts.stu]
      exact (hcaches y).2 ⟨hy, fun hin => absurd hin hout⟩
  · have hexec := exec_invalidate h haux
    rw [hcs] at hexec
    exact hexec
  · obtain ⟨hrest, hnone, hactive, hcount⟩ := s.d.invOver_spec s.env x
    exact ⟨_, (exec_invalidateDrained hinval hx hcmd).2 hret hfire, hnone, hactive, hcount, hrest.mem, hrest.keepsRegs⟩
  · have hdue : s.env.now ≥ x.start + 1000000 ∧ (!(s.d.retired x)) = true := ⟨hlate, by rw [hret]; rfl⟩
    rw [exec_invTimeout hinval hx, if_pos hdue]
    rfl
  · rw [exec_invTimeout hinval hx, if_neg]
    · rfl
    · rintro ⟨hnow, hret⟩
      rcases hearly with hearly | hearly
      · exact absurd hnow (Nat.not_le.2 hearly)
      · rw [hearly] at hret
        exact absurd hret Bool.false_ne_true

end Sys2Proof.Machine
end

section
/-! PROOF. O52: snoop answers, collectors, sweeps, flushes and the log's consumer count (chapters 7 and 13). -/

-- One proof after another: all at once, they ask for more threads than the check's memory limit admits.
set_option Elab.async false

namespace Sys2Proof.Machine

/-! ### Snoop answers (R221, R222, R232, R237) -/

/-- The snoop that an answer names. -/
def Die.snpOf (d : Die) (n stag wait : Nat) : Option Snp := d.coh.snps.find? (fun x => decide (x.k = n ∧ x.stag = stag ∧ x.wait = wait))

theorem exec_srsp {s : State} {k stag : BitVec 3} {n : BitVec 6} {x : Snp} (hon : s.d.portOn s.env n.toNat = true) (hcode : k.toNat ≤ 4)
    (hfire : s.d.fire0 Cs.DEAD_CLUSTER n.toNat = false) (hfind : s.d.snpOf n.toNat stag.toNat 0 = some x) :
    exec (.srsp n stag k) s = s.go (
      if k.toNat = 3 ∧ x.sop ≠ 3 then { s.d.send (.credit n.toNat 4) with coh.snps := s.d.coh.snps.map (fun y => if y = x then { y with wait := 1 } else y) }
      else if k.toNat = 4 then (Die.takeWb s.env { s.d.send (.credit n.toNat 4) with coh.snps := s.d.coh.snps.map (fun y => if y = x then { y with wait := 2 } else y) } n.toNat x.line).pump s.env
      else (Die.answer s.env (match s.d.txn x.line with
        | some t => if t.owner = some n.toNat ∧ k.toNat = 0 then (s.d.send (.credit n.toNat 4)).missCount s.env x.line t else s.d.send (.credit n.toNat 4)
        | none => s.d.send (.credit n.toNat 4)) x k.toNat none false 0).pump s.env) := by
  change execSrsp n stag k s = _
  unfold execSrsp
  dsimp only
  unfold Die.snpOf at hfind
  rw [hon, if_neg (by simp), if_neg (Nat.not_lt.2 hcode), hfind]
  dsimp only
  rw [hfire, if_neg Bool.false_ne_true]
  rfl

theorem exec_sdat {s : State} {n : BitVec 6} {stag : BitVec 3} {en : Bool} {w : BitVec 6} {data : Line} (hon : s.d.portOn s.env n.toNat = true) :
    exec (.sdat n stag en w data) s = s.go (match s.d.snpOf n.toNat stag.toNat 1 with
      | none => s.d
      | some x => ((((s.d.send (.credit n.toNat 5)).monitor s.env 0 n.toNat 1 128).carry s.env (whoPlace n.toNat) (homePlace (s.d.home s.env x.line)) 128).answer s.env x 3
          (some data) en w.toNat).pump s.env) := by
  change execSdat n stag en w data s = _
  unfold execSdat
  dsimp only
  rw [hon, if_neg (by simp)]
  unfold Die.snpOf
  cases s.d.coh.snps.find? (fun x => decide (x.k = n.toNat ∧ x.stag = stag.toNat ∧ x.wait = 1)) <;> rfl

theorem exec_snoopTimeout {s : State} {n : BitVec 6} {stag : BitVec 3} {x : Snp} (hfind : s.d.snpOf n.toNat stag.toNat 0 = some x) :
    exec (.snoopTimeout n stag) s = s.go (if s.env.now < x.sent + 20000 ∨ !(s.d.running (n.toNat / 8)) then s.d else (s.d.snoopDead s.env n.toNat).pump s.env) := by
  change execSnoopTimeout n stag s = _
  unfold execSnoopTimeout
  dsimp only
  unfold Die.snpOf at hfind
  rw [hfind]

/-! ### Collectors (R223) -/

/-- The collector of region `r` has answered for the clusters of its region. -/
def Txn.collected (t : Txn) (r : Nat) : Txn := { t with colls := t.colls.map (fun c => if c.1 = r then (c.1, c.2.1, true) else c) }

theorem exec_collectorSrsp {s : State} {line : BitVec 43} {r : BitVec 3} {t : Txn} (htxn : s.d.txn line.toNat = some t) (howner : t.owner = none)
    (hcoll : ∃ c ∈ t.colls, c.1 = r.toNat ∧ c.2.2 = false) : exec (.collectorSrsp line r) s = s.go (
      if s.d.coh.snps.any (fun x => decide (x.line = line.toNat ∧ x.k / 8 = r.toNat)) then s.d
      else (if (t.collected r.toNat).full then ((s.d.setTxn (t.collected r.toNat)).missCount s.env line.toNat (t.collected r.toNat)).settle s.env line.toNat
        else s.d.setTxn (t.collected r.toNat)).pump s.env) := by
  have hany : t.colls.any (fun c => decide (c.1 = r.toNat) && !c.2.2) = true := by
    obtain ⟨c, hc, hr, hans⟩ := hcoll
    exact List.any_eq_true.2 ⟨c, hc, by rw [decide_eq_true hr, hans]; rfl⟩
  change execCollectorSrsp line r s = _
  unfold execCollectorSrsp
  dsimp only
  rw [htxn]
  dsimp only
  rw [show t.owner.isSome = false by rw [howner]; rfl, hany]
  by_cases hsnp : s.d.coh.snps.any (fun x => decide (x.line = line.toNat ∧ x.k / 8 = r.toNat)) = true
  · rw [if_pos (Or.inr (Or.inr hsnp)), if_pos hsnp]
  · rw [if_neg (by simpa using hsnp), if_neg hsnp]
    rfl

theorem no_snoops_iff (d : Die) (l r : Nat) : d.coh.snps.any (fun x => decide (x.line = l ∧ x.k / 8 = r)) = false ↔ ∀ x ∈ d.coh.snps, ¬ (x.line = l ∧ x.k / 8 = r) := by
  rw [List.any_eq_false]
  simp only [decide_eq_true_eq]

/-! ### Sweeps, scrubs and flushes (R241, R243, R399) -/

theorem Die.unpause_within {p : Touch} (d : Die) (key : Nat) (hp : p.mem = true := by rfl) : Within p d (d.unpause key) := Die.setMemRest_within d _ rfl rfl hp

/-- The visit of a sweep at a position without an entry. -/
def Die.sweepOn (e : Env) (d : Die) (h : Nat) : Die :=
  Die.count { d.unpause (96 + h) with coh.sweepPos := Tab.set 0 d.coh.sweepPos h ((Tab.get 0 d.coh.sweepPos h + 1) % 32768), coh.sweepAt := Tab.set 0 d.coh.sweepAt h e.now } (lcCount h 13) 1

theorem Die.sweepOn_spec (e : Env) (d : Die) (h : Nat) :
    Tab.get 0 (d.sweepOn e h).coh.sweepPos h = (Tab.get 0 d.coh.sweepPos h + 1) % 32768 ∧ Tab.get 0 (d.sweepOn e h).coh.sweepAt h = e.now ∧ (d.sweepOn e h).coh.dir = d.coh.dir ∧
      (d.sweepOn e h).regs = d.regs ∧ (d.sweepOn e h).mem.dram = d.mem.dram ∧ (d.sweepOn e h).sm = d.sm := by
  unfold Die.sweepOn
  generalize hy : ({ d.unpause (96 + h) with coh.sweepPos := Tab.set 0 d.coh.sweepPos h ((Tab.get 0 d.coh.sweepPos h + 1) % 32768), coh.sweepAt := Tab.set 0 d.coh.sweepAt h e.now } : Die) = y
  have hcount : Within { ch := true } y (y.count (lcCount h 13) 1) := Die.count_within y _ 1
  have hregs : (y.count (lcCount h 13) 1).regs = y.regs := by rw [Die.count_eq]
  rw [hcount.coh, hregs, hcount.dram, hcount.sm, ← hy]
  exact ⟨Tab.get_set_same _ _ _ _, Tab.get_set_same _ _ _ _, rfl, rfl, rfl, rfl⟩

/-- A home's places depend on Steward's and Slices' parts alone. -/
theorem Die.lcOf_congr {e : Env} {d y : Die} (hsm : y.sm = d.sm) (hlc : y.coh.lc = d.coh.lc) (h : Nat) : y.lcOf e h = d.lcOf e h := by
  unfold Die.lcOf Die.home Die.isLocal
  rw [hsm, hlc]

theorem Die.gatePause_off {d : Die} {r : Nat} (hoff : d.powerState r ≠ 3) (key : Nat) : d.gatePause r key = d := if_neg hoff

theorem exec_sweepVisit_due {s : State} {h : BitVec 6} (hlt : h.toNat < 8 * s.env.regions) (hrun : s.d.running (h.toNat / 8) = true)
    (hgap : s.d.getF F.DIR_CFG.SWEEP_INTERVAL 0 ≠ 0)
    (hdue : Tab.get 0 s.d.coh.sweepAt h.toNat + s.d.cyclesNs (h.toNat / 8) (s.d.getF F.DIR_CFG.SWEEP_INTERVAL 0) ≤ s.env.now)
    (hnone : (s.d.sweepOn s.env h.toNat).dirAt s.env h.toNat (Tab.get 0 s.d.coh.sweepPos h.toNat) = none) :
    exec (.sweepVisit h) s = s.go (s.d.sweepOn s.env h.toNat) := by
  change execSweepVisit h s = _
  unfold execSweepVisit
  dsimp only
  rw [if_neg (by omega), hrun, if_neg (by simp)]
  change s.go (match (s.d.sweepOn s.env h.toNat).dirAt s.env h.toNat (Tab.get 0 s.d.coh.sweepPos h.toNat) with | some line => _ | none => _) = _
  rw [hnone] <;> rfl

theorem exec_sweepVisit_rest {s : State} {h : BitVec 6}
    (hrest : 8 * s.env.regions ≤ h.toNat ∨ (s.d.running (h.toNat / 8) = false ∧ s.d.powerState (h.toNat / 8) ≠ 3) ∨ s.d.getF F.DIR_CFG.SWEEP_INTERVAL 0 = 0 ∨
      s.env.now < Tab.get 0 s.d.coh.sweepAt h.toNat + s.d.cyclesNs (h.toNat / 8) (s.d.getF F.DIR_CFG.SWEEP_INTERVAL 0)) : exec (.sweepVisit h) s = .next s := by
  change execSweepVisit h s = _
  unfold execSweepVisit
  dsimp only
  by_cases hgate : h.toNat ≥ 8 * s.env.regions ∨ s.d.getF F.DIR_CFG.SWEEP_INTERVAL 0 = 0 ∨
      s.env.now < Tab.get 0 s.d.coh.sweepAt h.toNat + s.d.cyclesNs (h.toNat / 8) (s.d.getF F.DIR_CFG.SWEEP_INTERVAL 0)
  · rw [if_pos hgate]
    rfl
  · rcases hrest with hout | ⟨hstop, hpow⟩ | hzero | hearly
    · exact absurd (Or.inl hout) hgate
    · rw [if_neg hgate, hstop, Bool.not_false, if_pos rfl, Die.gatePause_off hpow]
      rfl
    · exact absurd (Or.inr (Or.inl hzero)) hgate
    · exact absurd (Or.inr (Or.inr hearly)) hgate

/-- The visit of an array scrub at a position, its place and time moved on. -/
def Die.scrubOn (d : Die) (h : Nat) : Die :=
  { d.unpause (32 + h) with coh.scrubPos := Tab.set 0 d.coh.scrubPos h (Tab.get 0 d.coh.scrubPos h + 1),
                            coh.scrubAt := Tab.set 0 d.coh.scrubAt h (Tab.get 0 d.coh.scrubAt h + d.scrubGap) }

/-- The passes of all the homes, as the slowest has them. -/
def Die.scrubPasses (e : Env) (d : Die) (h : Nat) : Nat :=
  ((List.range (8 * e.regions)).map (fun x => Tab.get 0 d.coh.scrubPos x / 24576)).foldl min (Tab.get 0 d.coh.scrubPos h / 24576)

theorem Die.scrubAgain_none {e : Env} {d : Die} {h : Nat} (hre : Tab.get [] d.coh.scrubRe h = []) (pos : Nat) :
    ∃ re, d.scrubAgain e h pos = { d with coh.scrubRe := re } := by
  unfold Die.scrubAgain
  rw [hre]
  split
  · exact ⟨d.coh.scrubRe, rfl⟩
  · exact ⟨Tab.set [] d.coh.scrubRe h [], rfl⟩

/-- The line at the scrub's place is read, if one stands there, and the lines that were skipped in its set are visited again. -/
def Die.scrubAt (e : Env) (d : Die) (h pos : Nat) : Die :=
  Die.scrubAgain e (match (d.lcOf e h).find? (fun x => decide (d.lcSet e x.1 = pos % 24576 / 16 ∧ x.2.way = pos % 16)) with
    | some x => d.scrubLine e h x.1 true
    | none => d) h pos

theorem Die.scrubAt_none {e : Env} {d : Die} {h pos : Nat} (hnone : ∀ x ∈ d.lcOf e h, ¬ (d.lcSet e x.1 = pos % 24576 / 16 ∧ x.2.way = pos % 16)) :
    d.scrubAt e h pos = d.scrubAgain e h pos := by
  have hfind : (d.lcOf e h).find? (fun x => decide (d.lcSet e x.1 = pos % 24576 / 16 ∧ x.2.way = pos % 16)) = none :=
    List.find?_eq_none.2 (fun x hx => by simpa using hnone x hx)
  unfold Die.scrubAt
  rw [hfind]

theorem exec_lcScrubVisit_due {s : State} {h : BitVec 6} (hlt : h.toNat < 8 * s.env.regions) (hrun : s.d.running (h.toNat / 8) = true)
    (hdue : Tab.get 0 s.d.coh.scrubAt h.toNat + s.d.scrubGap ≤ s.env.now) :
    exec (.lcScrubVisit h) s =
      s.go (((s.d.scrubOn h.toNat).setF F.LC_SCRUB_CFG.PASSES 0 ((s.d.scrubOn h.toNat).scrubPasses s.env h.toNat)).scrubAt s.env h.toNat (Tab.get 0 s.d.coh.scrubPos h.toNat)) := by
  change execLcScrubVisit h s = _
  unfold execLcScrubVisit
  dsimp only
  rw [if_neg (by omega), hrun, if_neg (by simp)]
  rfl

theorem lcScrubVisit_on {s : State} {h : BitVec 6} (hlt : h.toNat < 8 * s.env.regions) (hrun : s.d.running (h.toNat / 8) = true)
    (hdue : Tab.get 0 s.d.coh.scrubAt h.toNat + s.d.scrubGap ≤ s.env.now)
    (hnone : ∀ x ∈ s.d.lcOf s.env h.toNat, ¬ (s.d.lcSet s.env x.1 = Tab.get 0 s.d.coh.scrubPos h.toNat % 24576 / 16 ∧ x.2.way = Tab.get 0 s.d.coh.scrubPos h.toNat % 16))
    (hre : Tab.get [] s.d.coh.scrubRe h.toNat = []) :
    ∃ t, exec (.lcScrubVisit h) s = .next t ∧ Tab.get 0 t.d.coh.scrubPos h.toNat = Tab.get 0 s.d.coh.scrubPos h.toNat + 1 ∧
      Tab.get 0 t.d.coh.scrubAt h.toNat = Tab.get 0 s.d.coh.scrubAt h.toNat + s.d.scrubGap ∧ t.d.coh.lc = s.d.coh.lc ∧ keepsRegs s.d t.d [.LC_SCRUB_CFG] ∧
      t.d.mem.dram = s.d.mem.dram := by
  obtain ⟨y, hy⟩ : ∃ y, (s.d.scrubOn h.toNat).setF F.LC_SCRUB_CFG.PASSES 0 ((s.d.scrubOn h.toNat).scrubPasses s.env h.toNat) = y := ⟨_, rfl⟩
  have hset : Within { regs := [.LC_SCRUB_CFG] } (s.d.scrubOn h.toNat) y := hy ▸ Die.setF_within _ F.LC_SCRUB_CFG.PASSES 0 _
  have hcoh : y.coh = (s.d.scrubOn h.toNat).coh := hset.coh
  have hsm : y.sm = s.d.sm := hset.sm
  have hlc : y.lcOf s.env h.toNat = s.d.lcOf s.env h.toNat := Die.lcOf_congr hsm (by rw [hcoh]; rfl) h.toNat
  have hset' : ∀ l, y.lcSet s.env l = s.d.lcSet s.env l := fun l => by unfold Die.lcSet Die.blk Die.isLocal; rw [hsm]
  have hre' : Tab.get [] y.coh.scrubRe h.toNat = [] := by rw [hcoh]; exact hre
  obtain ⟨re, hagain⟩ := Die.scrubAgain_none (e := s.env) hre' (Tab.get 0 s.d.coh.scrubPos h.toNat)
  refine ⟨{ s with d := { y with coh.scrubRe := re } }, ?_, ?_, ?_, ?_, hset.keepsRegs, ?_⟩
  · rw [exec_lcScrubVisit_due hlt hrun hdue, hy, Die.scrubAt_none (fun x hx => by rw [hset']; exact hnone x (hlc ▸ hx)), hagain]
    rfl
  · change Tab.get 0 y.coh.scrubPos h.toNat = _
    rw [hcoh]
    exact Tab.get_set_same 0 s.d.coh.scrubPos h.toNat (Tab.get 0 s.d.coh.scrubPos h.toNat + 1)
  · change Tab.get 0 y.coh.scrubAt h.toNat = _
    rw [hcoh]
    exact Tab.get_set_same 0 s.d.coh.scrubAt h.toNat (Tab.get 0 s.d.coh.scrubAt h.toNat + s.d.scrubGap)
  · change y.coh.lc = _
    rw [hcoh]
    rfl
  · exact hset.dram

theorem exec_lcScrubVisit_early {s : State} {h : BitVec 6} (hearly : s.env.now < Tab.get 0 s.d.coh.scrubAt h.toNat + s.d.scrubGap) :
    exec (.lcScrubVisit h) s = .next s := by
  change execLcScrubVisit h s = _
  unfold execLcScrubVisit
  dsimp only
  rw [if_pos (Or.inr hearly)]
  rfl

/-! ### Flushes and the log's consumer count (R241, R243) -/

theorem Die.flushStep_none {e : Env} {d : Die} {f : Filter} (hnone : d.flushHits e f = []) : d.flushStep e f = d := by
  unfold Die.flushStep
  rw [hnone]
  rfl

/-- The flush of a number. -/
def Die.flushOf (d : Die) (f : Nat) : Option Flush := d.coh.flushes.find? (fun x => decide (x.id = f))

theorem exec_flushDone_none {s : State} {f : Nat} (hnone : s.d.flushOf f = none) : exec (.flushDone f) s = .next s := by
  change execFlushDone f s = _
  unfold execFlushDone
  dsimp only
  unfold Die.flushOf at hnone
  rw [hnone]
  rfl

theorem exec_flushDone_over {s : State} {f : Nat} {x : Flush} (hfind : s.d.flushOf f = some x) (hhits : s.d.flushHits s.env x.filter = [])
    (hpot : ∀ id, x.after ≠ .potOp id) (hkey : ∀ k, x.after ≠ .bind k ∧ x.after ≠ .retire k) :
    exec (.flushDone f) s = .next { s with d := (({ s.d with coh := { s.d.coh with flushes := s.d.coh.flushes.filter (fun y => decide (y.id ≠ f)) } } : Die).pump s.env) } := by
  change execFlushDone f s = _
  unfold execFlushDone
  dsimp only
  unfold Die.flushOf at hfind
  rw [hfind]
  dsimp only
  rw [Die.flushStep_none hhits, hhits, if_neg (fun h => h rfl)]
  cases hafter : x.after with
  | potOp id => exact absurd hafter (hpot id)
  | bind k => exact absurd hafter (hkey k).1
  | retire k => exact absurd hafter (hkey k).2
  | _ => rfl

theorem exec_llogConsWrite {s : State} {who : Who} (hgate : s.d.barGate s.env who .DIR_LLOG_CONS 0 = none) (v : Word) : exec (.llogConsWrite who v) s = s.go (
    if (s.d.getF F.DIR_LLOG_STATUS.PRODUCED 0 + 2 ^ 32 - fieldOf v 0 32) % 2 ^ 32 ≤ 4096 then s.d.putWord s.env .DIR_LLOG_CONS 0 0 v else s.d) :=
  congrArg s.go (Die.barWrite_of_gate _ hgate)

/-- What a snoop that stands is answered with. -/
theorem snoop_answers (s : State) (n : BitVec 6) (stag : BitVec 3) (x : Snp) (hon : s.d.portOn s.env n.toNat = true) (hfire : s.d.fire0 Cs.DEAD_CLUSTER n.toNat = false)
    (hfind : s.d.snpOf n.toNat stag.toNat 0 = some x) :
    (∀ code : BitVec 3, code.toNat < 3 → (∀ t, s.d.txn x.line = some t → t.owner = none) →
      exec (.srsp n stag code) s = .next { s with d := (((s.d.send (.credit n.toNat 4)).answer s.env x code.toNat none false 0).pump s.env) }) ∧
    (x.sop ≠ 3 → ∃ t, exec (.srsp n stag 3) s = .next t ∧ t.d.coh.snps = s.d.coh.snps.map (fun y => if y = x then { y with wait := 1 } else y) ∧ t.d.regs = s.d.regs ∧
      t.d.mem = s.d.mem ∧ t.env = s.env) ∧
    (∃ d₁ : Die, exec (.srsp n stag 4) s = .next { s with d := (d₁.takeWb s.env n.toNat x.line).pump s.env } ∧
      d₁.coh.snps = s.d.coh.snps.map (fun y => if y = x then { y with wait := 2 } else y) ∧ d₁.regs = s.d.regs ∧ d₁.mem = s.d.mem) := by
  refine ⟨fun code hcode howner => ?_, fun hsop => ?_, ?_⟩
  · rw [exec_srsp hon (by omega) hfire hfind, if_neg (by omega), if_neg (by omega)]
    cases htxn : s.d.txn x.line with
    | none => rfl
    | some t =>
      dsimp only
      rw [howner t htxn, if_neg (by simp)]
      rfl
  · refine ⟨_, (exec_srsp hon (by decide) hfire hfind).trans (congrArg s.go (if_pos ⟨rfl, hsop⟩)), rfl, rfl, rfl, rfl⟩
  · refine ⟨{ s.d.send (.credit n.toNat 4) with coh.snps := s.d.coh.snps.map (fun y => if y = x then { y with wait := 2 } else y) }, ?_, rfl, rfl, rfl⟩
    exact (exec_srsp hon (by decide) hfire hfind).trans (congrArg s.go ((if_neg (fun h => absurd h.1 (by decide))).trans (if_pos rfl)))

theorem exec_srsp_none {s : State} {n : BitVec 6} {stag : BitVec 3} (hon : s.d.portOn s.env n.toNat = true) (hfind : s.d.snpOf n.toNat stag.toNat 0 = none)
    (code : BitVec 3) (hcode : code.toNat ≤ 4) : exec (.srsp n stag code) s = .next s := by
  change execSrsp n stag code s = _
  unfold execSrsp
  dsimp only
  unfold Die.snpOf at hfind
  rw [hon, if_neg (by simp), if_neg (Nat.not_lt.2 hcode), hfind]
  rfl

theorem exec_srsp_badCode {s : State} {n : BitVec 6} (hon : s.d.portOn s.env n.toNat = true) (stag code : BitVec 3) (hcode : 4 < code.toNat) :
    exec (.srsp n stag code) s = .next { s with d := s.d.portDead s.env n.toNat } := by
  change execSrsp n stag code s = _
  unfold execSrsp
  dsimp only
  rw [hon, if_neg (by simp), if_pos hcode]
  rfl

/-- Settles O52. -/
theorem snoopsSweepsAndFlushesGoOn : Obligations.SnoopsSweepsAndFlushesGoOn := by
  unfold Obligations.SnoopsSweepsAndFlushesGoOn
  refine ⟨fun s n stag x => ⟨fun hon hfire hfind => snoop_answers s n stag x hon hfire hfind, fun code hcode hon => exec_srsp_badCode hon stag code hcode,
      fun hon hnone code hcode => exec_srsp_none hon hnone code hcode, fun en w data hon => ⟨fun hfind => ?_, fun hnone => ?_⟩,
      fun hfind => ⟨fun hearly => ?_, fun hdue hrun => ?_⟩⟩,
    fun s line r t htxn howner hcoll => ⟨fun hsnp => ?_, fun hno hfull => ?_, fun hno hfull => ?_⟩,
    fun s h => ⟨fun hlt hrun hgap hdue hnone => ?_, exec_sweepVisit_rest, fun hlt hrun hdue hnone hre => lcScrubVisit_on hlt hrun hdue hnone hre, exec_lcScrubVisit_early⟩,
    fun s f => ⟨exec_flushDone_none, fun x hfind hhits hpot hkey => exec_flushDone_over hfind hhits hpot hkey⟩,
    fun s who v hgate => ⟨fun hin => ?_, fun hout => ?_⟩⟩
  · rw [exec_sdat hon, show s.d.snpOf n.toNat stag.toNat 1 = some x from hfind]
    rfl
  · rw [exec_sdat hon, show s.d.snpOf n.toNat stag.toNat 1 = none from hnone]
    rfl
  · rw [exec_snoopTimeout hfind, if_pos (hearly.imp id (fun hstop => by rw [hstop]; rfl))]
    rfl
  · rw [exec_snoopTimeout hfind, hrun, if_neg (by simpa using hdue)]
    rfl
  · have hany : s.d.coh.snps.any (fun x => decide (x.line = line.toNat ∧ x.k / 8 = r.toNat)) = true := by simpa using hsnp
    rw [exec_collectorSrsp htxn howner hcoll, if_pos hany]
    rfl
  · rw [exec_collectorSrsp htxn howner hcoll, (no_snoops_iff _ _ _).2 hno, if_neg Bool.false_ne_true, show (t.collected r.toNat).full = false from hfull, if_neg Bool.false_ne_true]
    rfl
  · rw [exec_collectorSrsp htxn howner hcoll, (no_snoops_iff _ _ _).2 hno, if_neg Bool.false_ne_true, show (t.collected r.toNat).full = true from hfull, if_pos rfl]
    rfl
  · obtain ⟨hpos, hat, hdir, hregs, hdram, hsm⟩ := s.d.sweepOn_spec s.env h.toNat
    refine ⟨{ s with d := s.d.sweepOn s.env h.toNat }, exec_sweepVisit_due hlt hrun hgap hdue ?_, hpos, hat, hdir, hregs, hdram⟩
    rw [← hnone]
    unfold Die.dirAt Die.home Die.dirSet Die.blk Die.isLocal
    rw [hdir, hsm]
  · refine ⟨{ s with d := s.d.putWord s.env .DIR_LLOG_CONS 0 0 v }, (exec_llogConsWrite hgate v).trans (congrArg s.go (if_pos hin)), ?_,
      Within.onlyRegs (Die.putWord_within s.env s.d _ 0 0 v)⟩
    exact Die.getF_putWord_taken s.env s.d .DIR_LLOG_CONS 0 v F.DIR_LLOG_CONS.CONSUMED (by decide) rfl (by decide)
  · exact (exec_llogConsWrite hgate v).trans (congrArg s.go (if_neg (Nat.not_le.2 hout)))

end Sys2Proof.Machine
end

section
/-! PROOF. O12: the board controller's port and the test access port (R341, R360, R362, R385, R486, R487). -/

-- One proof after another: all at once, they ask for more threads than the check's memory limit admits.
set_option Elab.async false

namespace Sys2Proof.Machine

/-! ### The board controller's port (R486) -/

theorem exec_bmcRead {s : State} (hon : s.d.bt.pwrGood = true) (off : BitVec 26) :
    exec (.bmcRead off) s = s.go (match (Reg.decode off.toNat).bind (fun x => s.d.bmcValue s.env x.1 x.2.1) with
      | some v => s.d.send (.busRead v)
      | none => s.d.badAccess.send (.busRead 0)) := by
  change execBmcRead off s = _
  unfold execBmcRead
  dsimp only
  rw [hon, if_neg (by simp)] <;> rfl

theorem exec_bmcWrite {s : State} (hon : s.d.bt.pwrGood = true) (off : BitVec 26) (v : Word) :
    exec (.bmcWrite off v) s = s.go (match Reg.decode off.toNat with
      | some (.ST_PWR_LIMIT, _, _) => s.d.setF F.ST_PWR_LIMIT.DIE_LIMIT_W 0 (fieldOf v 0 16)
      | some (.SM_POT_SET, _, _) => s.d.badAccess.reject F.SM_STATUS.CFG_REJECT 0
      | some (.CH_TIME_LOAD, _, _) => s.d.badAccess.reject F.CH_STATUS.CFG_REJECT 0
      | _ => s.d.badAccess) := by
  change execBmcWrite off v s = _
  unfold execBmcWrite
  dsimp only
  rw [hon, if_neg (by simp)] <;> rfl

theorem boardPort_accesses (s : State) (off : BitVec 26) (v : Word) (hon : s.d.bt.pwrGood = true) :
    (∀ i w, Reg.decode off.toNat = some (.ST_BOOT, i, w) → exec (.bmcRead off) s = .next { s with d := s.d.send (.busRead (BitVec.ofNat 64 s.d.phase)) }) ∧
    (∀ i w, Reg.decode off.toNat = some (.ST_ID, i, w) → exec (.bmcRead off) s = .next { s with d := s.d.send (.busRead s.env.idWord) }) ∧
    (Reg.decode off.toNat = none →
      exec (.bmcRead off) s = .next { s with d := (s.d.count 59 1).send (.busRead 0) } ∧ exec (.bmcWrite off v) s = .next { s with d := s.d.count 59 1 }) ∧
    (∀ i w, Reg.decode off.toNat = some (.ST_PWR_LIMIT, i, w) →
      ∃ t, exec (.bmcWrite off v) s = .next t ∧ t.d.getF F.ST_PWR_LIMIT.DIE_LIMIT_W 0 = fieldOf v 0 16 ∧
        t.d.getF F.ST_PWR_LIMIT.TURRIL_LIMIT_W 0 = s.d.getF F.ST_PWR_LIMIT.TURRIL_LIMIT_W 0 ∧ onlyRegs s t [.ST_PWR_LIMIT]) := by
  rw [exec_bmcRead hon, exec_bmcWrite hon]
  refine ⟨fun i w hdec => ?_, fun i w hdec => ?_, fun hdec => ?_, fun i w hdec => ?_⟩
  · rw [hdec]; rfl
  · rw [hdec]; rfl
  · rw [hdec]; exact ⟨rfl, rfl⟩
  · rw [hdec]
    refine ⟨{ s with d := s.d.setF F.ST_PWR_LIMIT.DIE_LIMIT_W 0 (fieldOf v 0 16) }, rfl, ?_, Die.getF_setF_apart _ _ _ _ _ (by decide),
      Within.onlyRegs (Die.setF_within s.d F.ST_PWR_LIMIT.DIE_LIMIT_W 0 _)⟩
    change (s.d.setF F.ST_PWR_LIMIT.DIE_LIMIT_W 0 (fieldOf v 0 16)).getF F.ST_PWR_LIMIT.DIE_LIMIT_W 0 = _
    rw [Die.getF_setF_same _ _ _ _ (by decide)]
    exact Nat.mod_eq_of_lt (Nat.mod_lt _ (by decide))

/-! ### The test access port (R487) -/

/-- The die with an instruction of the test access port loaded. -/
def Die.tapAt (d : Die) (ir : Nat) : Die := { d with bt := { d.bt with tapIr := ir } }

theorem State.tapDo_on {s : State} (hon : s.d.bt.pwrGood = true) (ir : Nat) (f : Env → Die → Die) : s.tapDo ir f = s.go (f s.env (s.d.tapAt ir)) := if_pos hon

theorem State.tapDo_off {s : State} (hoff : s.d.bt.pwrGood = false) (ir : Nat) (f : Env → Die → Die) : s.tapDo ir f = .next s :=
  if_neg (by rw [hoff]; exact Bool.false_ne_true)

theorem Env.idcode_spec (e : Env) :
    e.idcode % 2 = 1 ∧ e.idcode = e.stepping % 16 * 2 ^ 28 + 0x7A06 * 2 ^ 12 + fieldOf (Tab.get 0 e.otp 39) 0 11 * 2 + 1 := by
  have heq : e.idcode = e.stepping % 16 * 2 ^ 28 + 0x7A06 * 2 ^ 12 + fieldOf (Tab.get 0 e.otp 39) 0 11 * 2 + 1 := rfl
  refine ⟨?_, heq⟩
  rw [heq]
  omega

theorem dbgChallenge_presents (s : State) (hon : s.d.bt.pwrGood = true) :
    ∃ t x, exec .dbgChallenge s = .next t ∧ x < 2 ^ 256 ∧ t.d.se = { s.d.se with chal := some (bytesLE 32 x) } ∧ t.d.out = Msg.tdo x :: s.d.out ∧
      t.d.bt = (s.d.tapAt 8).bt ∧ t.d.regs = s.d.regs ∧ t.d.mem = s.d.mem ∧ t.env = s.env := by
  refine ⟨{ s with d := Die.send { s.d.tapAt 8 with ctr := s.d.ctr + 4, se.chal := some (bytesLE 32 (s.d.tapAt 8).free256.toNat) } (.tdo (s.d.tapAt 8).free256.toNat) },
    (s.d.tapAt 8).free256.toNat, ?_, BitVec.isLt _, rfl, rfl, rfl, rfl, rfl, rfl⟩
  change execDbgChallenge s = _
  unfold execDbgChallenge
  rw [State.tapDo_on hon]
  rfl

/-- A debugger's answer verifies: the signature over the challenge and the serial number, under the debug key, in PROVISIONED. -/
def Die.dbgGood (e : Env) (d : Die) (sig key : BitVec 768) : Bool :=
  match d.se.chal with
  | some c => decide (d.lcState = 2) && decide (sha384 (bytesOf 96 key.toNat) = e.debugHash) &&
      ecdsaVerify (bytesOf 96 key.toNat) (bytesOf 96 sig.toNat) (sha384 (c.map BitVec.toNat ++ e.serial))
  | none => false

theorem Die.dbgGood_iff (e : Env) (d : Die) (sig key : BitVec 768) : d.dbgGood e sig key = true ↔
    (d.lcState = 2 ∧ sha384 (bytesOf 96 key.toNat) = e.debugHash ∧
      ∃ c, d.se.chal = some c ∧ ecdsaVerify (bytesOf 96 key.toNat) (bytesOf 96 sig.toNat) (sha384 (c.map BitVec.toNat ++ e.serial)) = true) := by
  unfold Die.dbgGood
  cases d.se.chal with
  | none => simp
  | some c => simp [and_assoc]

theorem exec_dbgResponse {s : State} (hon : s.d.bt.pwrGood = true) (sig key : BitVec 768) :
    exec (.dbgResponse sig key) s = s.go (if s.d.dbgGood s.env sig key then { s.d.tapAt 9 with se := { s.d.se with chal := none, auth := true } }
      else Die.incSat { s.d.tapAt 9 with se := { s.d.se with chal := none } } F.TS_DEBUG.FAILS 0 1) := by
  change execDbgResponse sig key s = _
  unfold execDbgResponse
  rw [State.tapDo_on hon]
  unfold Die.dbgGood
  cases hchal : s.d.se.chal <;> simp only [Die.tapAt, hchal] <;> rfl

theorem dbgResponse_counts {s : State} (hon : s.d.bt.pwrGood = true) {sig key : BitVec 768} (hbad : s.d.dbgGood s.env sig key = false) :
    ∃ t, exec (.dbgResponse sig key) s = .next t ∧ t.d.se = { s.d.se with chal := none } ∧ t.d.getF F.TS_DEBUG.FAILS 0 = min (s.d.getF F.TS_DEBUG.FAILS 0 + 1) 65535 ∧
      keepsRegs s.d t.d [.TS_DEBUG] ∧ t.d.mem = s.d.mem ∧ t.env = s.env := by
  obtain ⟨y, hy⟩ : ∃ y : Die, ({ s.d.tapAt 9 with se := { s.d.se with chal := none } } : Die) = y := ⟨_, rfl⟩
  have hinc : Within { regs := [.TS_DEBUG] } y (y.incSat F.TS_DEBUG.FAILS 0 1) := Die.incSat_within y F.TS_DEBUG.FAILS 0 1
  have hfails : y.getF F.TS_DEBUG.FAILS 0 = s.d.getF F.TS_DEBUG.FAILS 0 := by rw [← hy]; rfl
  refine ⟨{ s with d := y.incSat F.TS_DEBUG.FAILS 0 1 }, ?_, ?_, ?_, ?_, ?_, rfl⟩
  · rw [exec_dbgResponse hon, hbad, if_neg Bool.false_ne_true, hy]
    rfl
  · change (y.incSat F.TS_DEBUG.FAILS 0 1).se = _
    rw [hinc.se, ← hy]
  · change (y.incSat F.TS_DEBUG.FAILS 0 1).getF F.TS_DEBUG.FAILS 0 = _
    rw [Die.getF_incSat_same _ _ _ _ (by decide), hfails] <;> rfl
  · exact fun r hr i w => (hinc.keepsRegs r hr i w).trans (by rw [← hy]; rfl)
  · change (y.incSat F.TS_DEBUG.FAILS 0 1).mem = _
    rw [hinc.mem, ← hy]
    rfl

/-! ### Access of the debugger (Table 11.7, R362) -/

/-- A closed access: a read shifts out 0. -/
def Die.dbgShut (d : Die) (wr : Bool) : Die := if wr then d.tapAt 0xA else (d.tapAt 0xA).send (.tdo 0)

/-- The request for device memory that the debugger makes. -/
def dbgReq (wr : Bool) (addr : BitVec 64) (data : Word) : HpReq :=
  { who := .tap, target := .mem, wr := wr, addr := addr, len := 8, tag := 0, data := if wr then bytesLE 8 data.toNat else [], parOk := true }

theorem exec_dbgAccess {s : State} (hon : s.d.bt.pwrGood = true) (wr mem : Bool) (a : BitVec 64) (v : Word) :
    exec (.dbgAccess wr mem a v) s =
      if s.d.debugState = 0 then s.go (s.d.dbgShut wr)
      else if mem then
        if s.d.lcState ≤ 1 then s.go (Die.pump s.env { s.d.tapAt 0xA with nid := s.d.nid + 1, bt := { (s.d.tapAt 0xA).bt with inq := s.d.bt.inq ++ [(s.d.nid, dbgReq wr a v)] } })
        else s.go (s.d.dbgShut wr)
      else if wr then State.bar0Write { s with d := s.d.tapAt 0xA } .tap a.toNat (bytesLE 8 v.toNat)
      else s.go (((s.d.tapAt 0xA).bar0Read s.env .tap a.toNat 8).2.send (.tdo (numLE (((s.d.tapAt 0xA).bar0Read s.env .tap a.toNat 8).1.getD [])))) := by
  change execDbgAccess wr mem a v s = _
  unfold execDbgAccess
  rw [hon, if_neg (by simp)]
  rfl

theorem exec_dbgAccess_shut {s : State} (hon : s.d.bt.pwrGood = true) {mem : Bool} (hshut : s.d.debugState = 0 ∨ (mem = true ∧ 1 < s.d.lcState)) (wr : Bool) (a : BitVec 64) (v : Word) :
    exec (.dbgAccess wr mem a v) s = s.go (s.d.dbgShut wr) := by
  rw [exec_dbgAccess hon]
  by_cases hzero : s.d.debugState = 0
  · rw [if_pos hzero]
  · obtain ⟨hmem, hlc⟩ := hshut.resolve_left hzero
    rw [if_neg hzero, hmem, if_pos rfl, if_neg (Nat.not_le.2 hlc)]

theorem exec_dbgAccess_memory {s : State} (hon : s.d.bt.pwrGood = true) (hopen : s.d.debugState ≠ 0) (hlc : s.d.lcState ≤ 1) (wr : Bool) (a : BitVec 64) (v : Word) :
    exec (.dbgAccess wr true a v) s =
      s.go (Die.pump s.env { s.d.tapAt 0xA with nid := s.d.nid + 1, bt := { (s.d.tapAt 0xA).bt with inq := s.d.bt.inq ++ [(s.d.nid, dbgReq wr a v)] } }) := by
  rw [exec_dbgAccess hon, if_neg hopen, if_pos rfl, if_pos hlc]

theorem exec_dbgAccess_write {s : State} (hon : s.d.bt.pwrGood = true) (hopen : s.d.debugState ≠ 0) (a : BitVec 64) (v : Word) :
    exec (.dbgAccess true false a v) s = State.bar0Write { s with d := s.d.tapAt 0xA } .tap a.toNat (bytesLE 8 v.toNat) := by
  rw [exec_dbgAccess hon, if_neg hopen, if_neg Bool.false_ne_true, if_pos rfl]

theorem exec_dbgAccess_read {s : State} (hon : s.d.bt.pwrGood = true) (hopen : s.d.debugState ≠ 0) (a : BitVec 64) (v : Word) :
    exec (.dbgAccess false false a v) s =
      s.go (((s.d.tapAt 0xA).bar0Read s.env .tap a.toNat 8).2.send (.tdo (numLE (((s.d.tapAt 0xA).bar0Read s.env .tap a.toNat 8).1.getD [])))) := by
  rw [exec_dbgAccess hon, if_neg hopen, if_neg Bool.false_ne_true, if_neg Bool.false_ne_true]

/-! ### Requests and injections of the test port (R360, R385) -/

theorem inject_inTest (s : State) (v line : Word) (hon : s.d.bt.pwrGood = true) (hlc : s.d.lcState = 1) :
    ∃ d : Die, exec (.inject v line) s = .next { s with d := d.inject s.env v } ∧ d.getF F.AY_INJECT_ADDR.LINE 0 = fieldOf line 7 43 ∧
      keepsRegs s.d d [.AY_INJECT_ADDR] ∧ d.mem = s.d.mem := by
  have hput : Within { regs := [.AY_INJECT_ADDR] } (s.d.tapAt 0xC) ((s.d.tapAt 0xC).putWord s.env .AY_INJECT_ADDR 0 0 line) := Die.putWord_within s.env _ _ 0 0 line
  refine ⟨(s.d.tapAt 0xC).putWord s.env .AY_INJECT_ADDR 0 0 line, ?_, Die.getF_putWord_taken s.env _ _ 0 line _ (by decide) rfl (by decide), hput.keepsRegs, hput.mem⟩
  change execInject v line s = _
  unfold execInject
  rw [hon, if_neg (by simp)]
  dsimp only
  exact congrArg s.go (if_pos hlc)

theorem inject_notInTest (s : State) (v line : Word) (hon : s.d.bt.pwrGood = true) (hlc : s.d.lcState ≠ 1) :
    exec (.inject v line) s = .next { s with d := (s.d.tapAt 0xC).badAccess } := by
  change execInject v line s = _
  unfold execInject
  rw [hon, if_neg (by simp)]
  dsimp only
  exact congrArg s.go (if_neg hlc)

theorem lcReq_inTime (s : State) (v : Word) (hon : s.d.bt.pwrGood = true) :
    (s.d.phase ≠ 0 → s.d.lcState ≤ 1 → exec (.lcReq v) s = .next { s with d := (s.d.tapAt 0xB).lcRequest v }) ∧
    (s.d.phase = 0 ∨ 1 < s.d.lcState → exec (.lcReq v) s = .next { s with d := (s.d.tapAt 0xB).badAccess }) := by
  have hexec : exec (.lcReq v) s = s.go (if s.d.phase ≠ 0 ∧ s.d.lcState ≤ 1 then (s.d.tapAt 0xB).lcRequest v else (s.d.tapAt 0xB).badAccess) := by
    change execLcReq v s = _
    unfold execLcReq
    rw [State.tapDo_on hon]
    rfl
  rw [hexec]
  refine ⟨fun hphase hlc => by rw [if_pos ⟨hphase, hlc⟩]; rfl, fun hnot => ?_⟩
  rw [if_neg (by omega)]
  rfl

theorem exec_bypass {s : State} (hon : s.d.bt.pwrGood = true) (code : BitVec 4) (hcode : code = 0 ∨ code = 15) :
    exec (.bypass code) s = .next { s with d := s.d.tapAt code.toNat } := by
  change execBypass code s = _
  unfold execBypass
  rw [State.tapDo_on hon]
  rcases hcode with rfl | rfl <;> rfl

theorem exec_idcode {s : State} (hon : s.d.bt.pwrGood = true) : exec .idcode s = .next { s with d := (s.d.tapAt 1).send (.tdo s.env.idcode) } := by
  change execIdcode s = _
  unfold execIdcode
  rw [State.tapDo_on hon]
  rfl

theorem exec_tapReset {s : State} (hon : s.d.bt.pwrGood = true) : exec .tapReset s = .next { s with d := s.d.tapAt 1 } := by
  change execTapReset s = _
  unfold execTapReset
  rw [State.tapDo_on hon]
  rfl

/-- Settles O12. -/
theorem boardAndTestPortsReachTheirSubsets : Obligations.BoardAndTestPortsReachTheirSubsets := by
  unfold Obligations.BoardAndTestPortsReachTheirSubsets
  refine ⟨fun s off v hon => boardPort_accesses s off v hon, fun s a hon => ?_, fun s hon => ?_, fun s hoff row hrow => ?_⟩
  · change s.go (if s.d.bt.pwrGood then _ else s.d) = _
    rw [if_pos hon]
    rfl
  · refine ⟨⟨exec_idcode hon, s.env.idcode_spec⟩, dbgChallenge_presents s hon, fun sig key => ⟨fun hgood => ?_, fun hbad => ?_⟩,
      fun mem a v => ⟨fun hshut => ⟨exec_dbgAccess_shut hon hshut false a v, exec_dbgAccess_shut hon hshut true a v⟩,
        fun hopen => ⟨⟨_, exec_dbgAccess_read hon hopen a v, rfl⟩, ?_, fun hlc wr => ?_⟩⟩,
      fun v => lcReq_inTime s v hon, fun v line => ⟨inject_inTest s v line hon, inject_notInTest s v line hon⟩, fun code hcode => exec_bypass hon code hcode, exec_tapReset hon⟩
    · refine ⟨_, ?_, rfl⟩
      rw [exec_dbgResponse hon, if_pos ((s.d.dbgGood_iff s.env sig key).2 hgood)]
      rfl
    · exact dbgResponse_counts hon (Bool.eq_false_iff.2 (fun h => hbad ((s.d.dbgGood_iff s.env sig key).1 h)))
    · obtain ⟨t, hnext, -⟩ := State.bar0Write_goes { s with d := s.d.tapAt 0xA } .tap a.toNat (bytesLE 8 v.toNat)
      exact ⟨t, (exec_dbgAccess_write hon hopen a v).trans hnext, hnext.symm⟩
    · exact ⟨dbgReq wr a v, _, exec_dbgAccess_memory hon hopen hlc wr a v, rfl, rfl, rfl, rfl, rfl, rfl, rfl⟩
  · simp only [List.mem_cons, List.not_mem_nil, or_false] at hrow
    rcases hrow with rfl | rfl | rfl | rfl | rfl
    · change execIdcode s = _
      exact State.tapDo_off hoff 0x1 _
    · change execDbgChallenge s = _
      exact State.tapDo_off hoff 0x8 _
    · change execTapReset s = _
      exact State.tapDo_off hoff 0x1 _
    · change execBypass 15 s = _
      exact State.tapDo_off hoff 15 _
    · change s.go (if s.d.bt.pwrGood then _ else s.d) = _
      rw [if_neg (by rw [hoff]; exact Bool.false_ne_true)]
      rfl

end Sys2Proof.Machine
end

section
/-! PROOF. O56: link keys, the life cycle and the keys of firmware (R358, R360, R361, R364, Table 11.5). -/

-- One proof after another: all at once, they ask for more threads than the check's memory limit admits.
set_option Elab.async false

namespace Sys2Proof.Machine

/-! ### Lengths of the messages (R358) -/

theorem length_bytesOf (n v : Nat) : (bytesOf n v).length = n := by
  induction n generalizing v with
  | zero => rfl
  | succ n ih => exact congrArg (· + 1) (ih _)

theorem length_bytesBE (n v : Nat) : (bytesBE n v).length = n := (List.length_reverse).trans (length_bytesOf n v)

theorem length_ptEncode (p : Pt) : (ptEncode p).length = 96 := by
  cases p with
  | none => exact List.length_replicate
  | some p => exact (List.length_append).trans (congrArg₂ (· + ·) (length_bytesBE _ _) (length_bytesBE _ _))

theorem length_ecPublic (k : Nat) : (ecPublic k).length = 96 := length_ptEncode _

theorem length_ecdsaSign (k n : Nat) (hash : List Nat) : (ecdsaSign k n hash).length = 96 := by
  unfold ecdsaSign
  rw [List.length_append, length_bytesBE, length_bytesBE]

theorem length_kexHead (e : Env) (p k : Nat) (nonce : BitVec 256) : (kexHead e p nonce (ecPublic k)).length = 136 := by
  unfold kexHead
  simp only [List.length_append, length_bytesOf, length_ecPublic, List.length_replicate, List.length_singleton]

theorem length_idPub (e : Env) (d : Die) : (d.idPub e).length = 96 := by
  unfold Die.idPub
  split
  · exact length_ecPublic _
  · exact List.length_replicate

/-! ### The steps of an exchange -/

theorem Die.linkOff_spec (d : Die) (p : Nat) : Within { regs := [.SE_LINK], se := true } d (d.linkOff p) ∧ (d.linkOff p).getF F.SE_LINK.STATE p = 0 ∧
    Tab.get none (d.linkOff p).se.links p = none ∧ (d.linkOff p).se.kex = d.se.kex := by
  have hset : Within { regs := [.SE_LINK], se := true } d (d.setF F.SE_LINK.STATE p 0) := Die.setF_within d F.SE_LINK.STATE p 0
  have hstate : (d.setF F.SE_LINK.STATE p 0).getF F.SE_LINK.STATE p = 0 := (Die.getF_setF_same _ _ _ _ (Nat.le_of_ble_eq_true rfl)).trans rfl
  have hkex : (d.setF F.SE_LINK.STATE p 0).se = d.se := (Die.setF_within (p := { regs := [.SE_LINK] }) d F.SE_LINK.STATE p 0).se
  unfold Die.linkOff
  generalize d.setF F.SE_LINK.STATE p 0 = y at hset hstate hkex ⊢
  exact ⟨hset.trans (Die.setSe_within y _), hstate, Tab.get_set_same none d.se.links p none, (congrArg SealSt.kex hkex : y.se.kex = d.se.kex)⟩

/-- What a discarded exchange leaves. -/
structure Die.KexDiscarded (d t : Die) : Prop where
  within_ : Within { regs := [.TS_KEX_STATUS, .SE_LINK], se := true, rose := true } d t
  kex : t.se.kex = none
  error : t.getF F.TS_KEX_STATUS.ERROR 0 = 1
  ran : ∀ x, d.se.kex = some x → t.getF F.SE_LINK.STATE x.port = 0 ∧ Tab.get none t.se.links x.port = none ∧ t.getF F.TS_KEX_STATUS.BUSY 0 = 0

theorem Die.kexError_discards (d : Die) : d.KexDiscarded d.kexError := by
  unfold Die.kexError
  cases hkex : d.se.kex with
  | none =>
    have hev : Within { regs := [.TS_KEX_STATUS], rose := true } d (d.setEv F.TS_KEX_STATUS.ERROR 0) := Die.setEv_within d F.TS_KEX_STATUS.ERROR 0
    exact ⟨hev.mono, (congrArg SealSt.kex hev.se).trans hkex, Die.getF_setEv_bit _ _ _ rfl (Nat.le_of_ble_eq_true rfl),
      fun x hx => absurd (hkex.symm.trans hx) (by simp)⟩
  | some k =>
    dsimp only
    obtain ⟨hover, hnone, hbusy, -⟩ := d.kexOver_spec
    generalize d.kexOver = y at hover hnone hbusy ⊢
    obtain ⟨hoff, hstate, hlinks, hkeep⟩ := y.linkOff_spec k.port
    have hbusy' : (y.linkOff k.port).getF F.TS_KEX_STATUS.BUSY 0 = 0 := (hoff.getF F.TS_KEX_STATUS.BUSY 0).trans hbusy
    have hnone' : (y.linkOff k.port).se.kex = none := hkeep.trans hnone
    generalize y.linkOff k.port = z at hoff hstate hlinks hbusy' hnone' ⊢
    have hev : Within { regs := [.TS_KEX_STATUS], rose := true } z (z.setEv F.TS_KEX_STATUS.ERROR 0) := Die.setEv_within z F.TS_KEX_STATUS.ERROR 0
    refine ⟨(hover.mono.trans hoff.mono).trans hev.mono, (congrArg SealSt.kex hev.se).trans hnone', Die.getF_setEv_bit _ _ _ rfl (Nat.le_of_ble_eq_true rfl), fun x hx => ?_⟩
    rw [← Option.some.inj (hkex.symm.trans hx), hev.getF F.SE_LINK.STATE k.port, hev.se, Die.getF_setEv_apart _ _ _ _ rfl]
    exact ⟨hstate, hlinks, hbusy'⟩

theorem Die.putKex_within (d : Die) (l : List Nat) : Within { regs := [.TS_KEX_BUF] } d (d.putKex l) := by
  unfold Die.putKex
  exact .foldl _ (fun d x => Die.setReg_within d .TS_KEX_BUF _ 0 _) _ _

/-- Putting a message in the buffer moves the buffer and its length alone. -/
theorem Die.kexMsg_spec (d : Die) (msg rest : List Nat) : Within { regs := [.TS_KEX_BUF, .TS_KEX_STATUS] } d (d.kexMsg msg rest) ∧
    (msg.length < 2 ^ 16 → (d.kexMsg msg rest).getF F.TS_KEX_STATUS.LENGTH 0 = msg.length) ∧
    (d.kexMsg msg rest).getF F.TS_KEX_STATUS.BUSY 0 = d.getF F.TS_KEX_STATUS.BUSY 0 ∧
    (d.kexMsg msg rest).getF F.TS_KEX_STATUS.STAGED 0 = d.getF F.TS_KEX_STATUS.STAGED 0 := by
  have hput := d.putKex_within (msg ++ rest)
  unfold Die.kexMsg
  generalize d.putKex (msg ++ rest) = y at hput ⊢
  refine ⟨hput.mono.trans (Die.setF_within y F.TS_KEX_STATUS.LENGTH 0 _), fun hlen => ?_, ?_, ?_⟩
  · rw [Die.getF_setF_same _ _ _ _ (Nat.le_of_ble_eq_true rfl)]
    exact Nat.mod_eq_of_lt hlen
  · rw [Die.getF_setF_apart _ _ _ _ _ rfl]
    exact hput.getF F.TS_KEX_STATUS.BUSY 0
  · rw [Die.getF_setF_apart _ _ _ _ _ rfl]
    exact hput.getF F.TS_KEX_STATUS.STAGED 0

theorem Die.kexStart_spec (d : Die) (p : Nat) (k : Kex) : Within { regs := [.TS_KEX_STATUS, .SE_LINK], se := true } d (d.kexStart p k) ∧ (d.kexStart p k).se.kex = some k ∧
    (d.kexStart p k).getF F.TS_KEX_STATUS.BUSY 0 = 1 ∧ (d.kexStart p k).getF F.SE_LINK.STATE p = 1 ∧ Tab.get none (d.kexStart p k).se.links p = none := by
  obtain ⟨hoff, -, hlinks, -⟩ := d.linkOff_spec p
  unfold Die.kexStart
  dsimp only
  generalize d.linkOff p = y at hoff hlinks ⊢
  have hset : Within { regs := [.SE_LINK] } y (y.setF F.SE_LINK.STATE p 1) := Die.setF_within y F.SE_LINK.STATE p 1
  have hstate : (y.setF F.SE_LINK.STATE p 1).getF F.SE_LINK.STATE p = 1 := (Die.getF_setF_same _ _ _ _ (Nat.le_of_ble_eq_true rfl)).trans rfl
  generalize y.setF F.SE_LINK.STATE p 1 = z at hset hstate ⊢
  have hbusy : Within { regs := [.TS_KEX_STATUS] } z (z.setF F.TS_KEX_STATUS.BUSY 0 1) := Die.setF_within z F.TS_KEX_STATUS.BUSY 0 1
  have hone : (z.setF F.TS_KEX_STATUS.BUSY 0 1).getF F.TS_KEX_STATUS.BUSY 0 = 1 := (Die.getF_setF_same _ _ _ _ (Nat.le_of_ble_eq_true rfl)).trans rfl
  generalize z.setF F.TS_KEX_STATUS.BUSY 0 1 = u at hbusy hone ⊢
  refine ⟨((hoff.mono.trans hset.mono).trans hbusy.mono).trans (Die.setSe_within u _), rfl, hone, (hbusy.getF F.SE_LINK.STATE p).trans hstate, ?_⟩
  rw [hbusy.se, hset.se]
  exact hlinks

/-- What the beginning of an exchange leaves: the exchange, and its first message in the buffer. -/
structure Die.KexBegun (d t : Die) (k : Kex) (len : Nat) : Prop where
  within_ : Within { regs := [.TS_KEX_STATUS, .TS_KEX_BUF, .SE_LINK], se := true, ctr := true } d t
  kex : t.se.kex = some k
  busy : t.getF F.TS_KEX_STATUS.BUSY 0 = 1
  length_ : t.getF F.TS_KEX_STATUS.LENGTH 0 = len
  state : t.getF F.SE_LINK.STATE k.port = 1
  links : Tab.get none t.se.links k.port = none

theorem Die.kexBegun_of {d y : Die} (hdrawn : Within { ctr := true } d y) (k : Kex) (msg : List Nat) {len : Nat} (hlen : msg.length = len) (hsmall : len < 2 ^ 16) :
    d.KexBegun ((y.kexStart k.port k).kexMsg msg []) k len := by
  obtain ⟨hstart, hkex, hbusy, hstate, hlinks⟩ := y.kexStart_spec k.port k
  generalize y.kexStart k.port k = z at hstart hkex hbusy hstate hlinks ⊢
  obtain ⟨hmsg, hlength, hbusy', -⟩ := z.kexMsg_spec msg []
  refine ⟨(hdrawn.mono.trans hstart.mono).trans hmsg.mono, (congrArg SealSt.kex hmsg.se).trans hkex, hbusy'.trans hbusy, ?_, (hmsg.getF F.SE_LINK.STATE k.port).trans hstate, ?_⟩
  · rw [hlength (by omega), hlen]
  · rw [hmsg.se]
    exact hlinks

theorem Die.drew_within (d : Die) (n : Nat) : Within { ctr := true } d { d with ctr := n } := .of_eq rfl rfl

theorem Die.freeScalar_within (d : Die) : Within { ctr := true } d d.freeScalar.2 := .of_eq rfl rfl

/-- The private key of an exchange, drawn after its nonce. -/
def Die.scalar1 (d : Die) : Nat × Die := Die.freeScalar { d with ctr := d.ctr + 4 }

/-- The nonce of the signature, drawn after the private key. -/
def Die.scalar2 (d : Die) : Nat × Die := d.scalar1.2.freeScalar

theorem Die.scalar1_within (d : Die) : Within { ctr := true } d d.scalar1.2 := (d.drew_within _).trans (Die.freeScalar_within _)

theorem Die.scalar2_within (d : Die) : Within { ctr := true } d d.scalar2.2 := d.scalar1_within.trans (Die.freeScalar_within _)

/-- M1 of an exchange that begins. -/
def Die.kexM1 (e : Env) (d : Die) (p : Nat) : List Nat := kexHead e p d.free256 (ecPublic d.scalar1.1)

/-- The exchange of the die that asks. -/
def Die.kexOpen (e : Env) (d : Die) (p : Nat) : Kex := { port := p, stage := 1, init := true, priv := d.scalar1.1, m1 := asBytes (d.kexM1 e p), m2 := [] }

/-- The signed part of M2. -/
def Die.kexHead2 (e : Env) (d : Die) (p : Nat) : List Nat := d.kexM1 e p ++ d.idPub e

/-- M2: its head, and the signature over M1 and the head. -/
def Die.kexM2 (e : Env) (d : Die) (p : Nat) : List Nat := d.kexHead2 e p ++ ecdsaSign e.identity d.scalar2.1 (sha384 (d.kexBytes 0 136 ++ d.kexHead2 e p))

theorem Die.length_kexM2 (e : Env) (d : Die) (p : Nat) : (d.kexM2 e p).length = 328 := by
  unfold Die.kexM2 Die.kexHead2 Die.kexM1
  rw [List.length_append, List.length_append, length_kexHead, length_idPub, length_ecdsaSign]

/-- The exchange of the die that answers. -/
def Die.kexReply (e : Env) (d : Die) (p : Nat) : Kex :=
  { port := p, stage := 2, init := false, priv := d.scalar1.1, m1 := asBytes (d.kexBytes 0 136), m2 := asBytes (d.kexM2 e p), peer := natLE ((d.kexBytes 0 136).take 2) }

/-- M3: the die's public identity and its signature over both messages. -/
def Die.kexM3 (e : Env) (d : Die) (x : Kex) : List Nat :=
  d.idPub e ++ ecdsaSign e.identity d.freeScalar.1 (sha384 (asNats x.m1 ++ d.kexBytes 0 328 ++ d.idPub e))

theorem Die.length_kexM3 (e : Env) (d : Die) (x : Kex) : (d.kexM3 e x).length = 192 := by
  unfold Die.kexM3
  rw [List.length_append, length_idPub, length_ecdsaSign]

/-- The exchange that M2 confirms. -/
def Die.kexConfirmed (d : Die) (x : Kex) : Kex :=
  { x with stage := 3, m2 := asBytes (d.kexBytes 0 328), peer := natLE ((d.kexBytes 0 328).take 2),
           keys := some (kexKeys true x.priv (((d.kexBytes 0 328).drop 40).take 96) (asNats x.m1) (d.kexBytes 0 328)) }

/-- The exchange that M3 completes. -/
def Kex.completed (x : Kex) : Kex :=
  { x with stage := 3, keys := some (kexKeys false x.priv (((asNats x.m1).drop 40).take 96) (asNats x.m1) (asNats x.m2)) }

/-- The keys of an exchange are staged. -/
def Die.stagedAt (d : Die) (x : Kex) : Die := { d.setF F.TS_KEX_STATUS.STAGED 0 1 with se.kex := some x }

/-- What the staging of an exchange leaves. -/
structure Die.KexStaged (d t : Die) (x : Kex) (len : Nat) : Prop where
  kex : t.se.kex = some x
  staged : t.getF F.TS_KEX_STATUS.STAGED 0 = 1
  length_ : t.getF F.TS_KEX_STATUS.LENGTH 0 = len
  links : t.se.links = d.se.links

theorem Die.kexStaged_of {d y : Die} (hse : y.se = d.se) (x : Kex) {msg : List Nat} (rest : List Nat) {len : Nat} (hlen : msg.length = len)
    (hsmall : len < 2 ^ 16) : d.KexStaged ((y.stagedAt x).kexMsg msg rest) x len := by
  have hstaged : (y.stagedAt x).getF F.TS_KEX_STATUS.STAGED 0 = 1 := (Die.getF_setF_same y F.TS_KEX_STATUS.STAGED 0 1 (Nat.le_of_ble_eq_true rfl)).trans rfl
  have hkex : (y.stagedAt x).se.kex = some x := rfl
  have hlinks : (y.stagedAt x).se.links = y.se.links := rfl
  generalize y.stagedAt x = z at hstaged hkex hlinks ⊢
  obtain ⟨hmsg, hlength, -, hstay⟩ := z.kexMsg_spec msg rest
  refine ⟨(congrArg SealSt.kex hmsg.se).trans hkex, hstay.trans hstaged, ?_, ?_⟩
  · rw [hlength (by omega), hlen]
  · rw [hmsg.se, hlinks, hse]

/-- The keys of an exchange are installed. -/
def Die.accepted (d : Die) (n : Nat) (x : Kex) : Die :=
  let d : Die := { d.kexOver with se.links := Tab.set none d.se.links n x.keys }
  let d := (d.setReg .SE_LINK_TXC n 0 0).setReg .SE_LINK_RXC n 0 0
  (d.setF F.SE_LINK.STATE n 2).setF F.SE_LINK.PEER_DIE n x.peer

theorem Die.accepted_spec (d : Die) (n : Nat) (x : Kex) :
    Within { regs := [.TS_KEX_STATUS, .SE_LINK, .SE_LINK_TXC, .SE_LINK_RXC], se := true } d (d.accepted n x) ∧ (d.accepted n x).se.kex = none ∧
      Tab.get none (d.accepted n x).se.links n = x.keys ∧ (d.accepted n x).getF F.SE_LINK.STATE n = 2 ∧ (d.accepted n x).getF F.SE_LINK.PEER_DIE n = x.peer % 2 ^ 16 ∧
      (d.accepted n x).reg .SE_LINK_TXC n 0 = 0 ∧ (d.accepted n x).reg .SE_LINK_RXC n 0 = 0 ∧ (d.accepted n x).getF F.TS_KEX_STATUS.BUSY 0 = 0 ∧
      (d.accepted n x).getF F.TS_KEX_STATUS.STAGED 0 = 0 := by
  obtain ⟨hover, hnone, hbusy, hstaged⟩ := d.kexOver_spec
  have hse : Within { se := true } d.kexOver { d.kexOver with se := { d.kexOver.se with links := Tab.set none d.se.links n x.keys } } := Die.setSe_within _ _
  have hlinks : Tab.get none ({ d.kexOver with se := { d.kexOver.se with links := Tab.set none d.se.links n x.keys } } : Die).se.links n = x.keys := Tab.get_set_same none d.se.links n x.keys
  have hnone' : ({ d.kexOver with se := { d.kexOver.se with links := Tab.set none d.se.links n x.keys } } : Die).se.kex = none := hnone
  unfold Die.accepted
  dsimp only
  generalize ({ d.kexOver with se := { d.kexOver.se with links := Tab.set none d.se.links n x.keys } } : Die) = y at hse hlinks hnone' ⊢
  have hctr : Within { regs := [.SE_LINK_TXC, .SE_LINK_RXC] } y ((y.setReg .SE_LINK_TXC n 0 0).setReg .SE_LINK_RXC n 0 0) :=
    (Die.setReg_within y .SE_LINK_TXC n 0 0).trans (Die.setReg_within _ .SE_LINK_RXC n 0 0)
  have htx : ((y.setReg .SE_LINK_TXC n 0 0).setReg .SE_LINK_RXC n 0 0).reg .SE_LINK_TXC n 0 = 0 :=
    (Die.reg_setReg_other _ _ _ _ _ _ _ _ (by decide)).trans (Die.reg_setReg_same _ _ _ _ _)
  have hrx : ((y.setReg .SE_LINK_TXC n 0 0).setReg .SE_LINK_RXC n 0 0).reg .SE_LINK_RXC n 0 = 0 := Die.reg_setReg_same _ _ _ _ _
  generalize (y.setReg .SE_LINK_TXC n 0 0).setReg .SE_LINK_RXC n 0 0 = z at hctr htx hrx ⊢
  have hset : Within { regs := [.SE_LINK] } z ((z.setF F.SE_LINK.STATE n 2).setF F.SE_LINK.PEER_DIE n x.peer) :=
    (Die.setF_within z F.SE_LINK.STATE n 2).trans (Die.setF_within _ F.SE_LINK.PEER_DIE n x.peer)
  have hall : Within { regs := [.SE_LINK, .SE_LINK_TXC, .SE_LINK_RXC], se := true } d.kexOver ((z.setF F.SE_LINK.STATE n 2).setF F.SE_LINK.PEER_DIE n x.peer) :=
    (hse.mono.trans hctr.mono).trans hset.mono
  refine ⟨hover.mono.trans hall.mono, ?_, ?_, ?_, ?_, ?_, ?_, (hall.getF F.TS_KEX_STATUS.BUSY 0).trans hbusy, (hall.getF F.TS_KEX_STATUS.STAGED 0).trans hstaged⟩
  · rw [hset.se, hctr.se]
    exact hnone'
  · rw [hset.se, hctr.se]
    exact hlinks
  · rw [Die.getF_setF_apart _ _ _ _ _ rfl, Die.getF_setF_same _ _ _ _ (Nat.le_of_ble_eq_true rfl)] <;> rfl
  · rw [Die.getF_setF_same _ _ _ _ (Nat.le_of_ble_eq_true rfl)]
  · rw [hset.reg .SE_LINK_TXC n 0]
    exact htx
  · rw [hset.reg .SE_LINK_RXC n 0]
    exact hrx

/-! ### The actions of TS_KEX_CTL -/

section
variable {s : State} {who : Who} {p : BitVec 4} (hgate : s.d.barGate s.env who .TS_KEX_CTL 0 = none)
include hgate

theorem kexAct_eq (act : Die → Die) : s.d.kexAct s.env who act = if s.d.mayLink then act s.d else s.d.kexError := Die.barWrite_of_gate _ hgate

theorem kexInit_refused (h : s.d.mayLink = true → s.d.se.kex.isSome = true) : exec (.kexInit who p) s = .next { s with d := s.d.kexError } := by
  change s.go (s.d.kexAct s.env who _) = _
  rw [kexAct_eq hgate]
  split
  case isTrue hlink => rw [if_pos (h hlink)]; rfl
  case isFalse => rfl

theorem kexRespond_refused (h : s.d.mayLink = true → s.d.se.kex.isSome = true) : exec (.kexRespond who p) s = .next { s with d := s.d.kexError } := by
  change s.go (s.d.kexAct s.env who _) = _
  rw [kexAct_eq hgate]
  split
  case isTrue hlink => rw [if_pos (.inl (h hlink))]; rfl
  case isFalse => rfl

theorem kexConfirm_refused (h : ∀ x, s.d.mayLink = true → s.d.se.kex = some x → x.stage ≠ 1 ∨ x.port ≠ p.toNat ∨ (ptDecode (((s.d.kexBytes 0 328).drop 40).take 96)).isNone ∨
      !(ecdsaVerify (((s.d.kexBytes 0 328).drop 136).take 96) ((s.d.kexBytes 0 328).drop 232) (sha384 (asNats x.m1 ++ (s.d.kexBytes 0 328).take 232)))) :
    exec (.kexConfirm who p) s = .next { s with d := s.d.kexError } := by
  change s.go (s.d.kexAct s.env who _) = _
  rw [kexAct_eq hgate]
  split
  case isTrue hlink =>
    cases hkex : s.d.se.kex with
    | none => rfl
    | some x =>
      dsimp only
      rw [if_pos (h x hlink hkex)]
      rfl
  case isFalse => rfl

theorem kexComplete_refused (h : ∀ x, s.d.mayLink = true → s.d.se.kex = some x → x.stage ≠ 2 ∨ x.port ≠ p.toNat ∨
      !(ecdsaVerify ((s.d.kexBytes 0 192).take 96) ((s.d.kexBytes 0 192).drop 96) (sha384 (asNats x.m1 ++ asNats x.m2 ++ (s.d.kexBytes 0 192).take 96)))) :
    exec (.kexComplete who p) s = .next { s with d := s.d.kexError } := by
  change s.go (s.d.kexAct s.env who _) = _
  rw [kexAct_eq hgate]
  split
  case isTrue hlink =>
    cases hkex : s.d.se.kex with
    | none => rfl
    | some x =>
      dsimp only
      rw [if_pos (h x hlink hkex)]
      rfl
  case isFalse => rfl

theorem kexAccept_refused (h : ∀ x, s.d.mayLink = true → s.d.se.kex = some x → x.stage ≠ 3 ∨ x.port ≠ p.toNat) :
    exec (.kexAccept who p) s = .next { s with d := s.d.kexError } := by
  change s.go (s.d.kexAct s.env who _) = _
  rw [kexAct_eq hgate]
  split
  case isTrue hlink =>
    cases hkex : s.d.se.kex with
    | none => rfl
    | some x =>
      dsimp only
      rw [if_pos (h x hlink hkex)]
      rfl
  case isFalse => rfl

theorem kexAbort_refused (h : ∀ x, s.d.mayLink = true → s.d.se.kex = some x → x.port ≠ p.toNat) :
    exec (.kexAbort who p) s = .next { s with d := s.d.kexError } := by
  change s.go (s.d.kexAct s.env who _) = _
  rw [kexAct_eq hgate]
  split
  case isTrue hlink =>
    cases hkex : s.d.se.kex with
    | none => rfl
    | some x =>
      dsimp only
      rw [if_pos (h x hlink hkex)]
      rfl
  case isFalse => rfl

variable (hlink : s.d.mayLink = true)
include hlink

theorem kexInit_begins (hkex : s.d.se.kex = none) :
    ∃ t x, exec (.kexInit who p) s = .next { s with d := t } ∧ x.port = p.toNat ∧ x.stage = 1 ∧ x.init = true ∧ s.d.KexBegun t x 136 := by
  refine ⟨(s.d.scalar1.2.kexStart p.toNat (s.d.kexOpen s.env p.toNat)).kexMsg (s.d.kexM1 s.env p.toNat) [], s.d.kexOpen s.env p.toNat, ?_, rfl, rfl, rfl,
    Die.kexBegun_of s.d.scalar1_within (s.d.kexOpen s.env p.toNat) _ (length_kexHead _ _ _ _) (by decide)⟩
  change s.go (s.d.kexAct s.env who _) = _
  rw [kexAct_eq hgate, if_pos hlink, hkex, if_neg (by simp)]
  rfl

theorem kexRespond_begins (hkex : s.d.se.kex = none) (hpt : (ptDecode ((s.d.kexBytes 0 136).drop 40)).isSome = true) :
    ∃ t x, exec (.kexRespond who p) s = .next { s with d := t } ∧ x.port = p.toNat ∧ x.stage = 2 ∧ x.init = false ∧ s.d.KexBegun t x 328 := by
  refine ⟨(s.d.scalar2.2.kexStart p.toNat (s.d.kexReply s.env p.toNat)).kexMsg (s.d.kexM2 s.env p.toNat) [], s.d.kexReply s.env p.toNat, ?_, rfl, rfl, rfl,
    Die.kexBegun_of s.d.scalar2_within (s.d.kexReply s.env p.toNat) _ (s.d.length_kexM2 s.env p.toNat) (by decide)⟩
  change s.go (s.d.kexAct s.env who _) = _
  rw [kexAct_eq hgate, if_pos hlink, hkex]
  dsimp only
  rw [if_neg (by rw [← Option.not_isSome, hpt]; simp)]
  rfl

theorem kexConfirm_stages {x : Kex} (hkex : s.d.se.kex = some x) (hgood : x.stage = 1 ∧ x.port = p.toNat ∧ (ptDecode (((s.d.kexBytes 0 328).drop 40).take 96)).isSome = true ∧
      ecdsaVerify (((s.d.kexBytes 0 328).drop 136).take 96) ((s.d.kexBytes 0 328).drop 232) (sha384 (asNats x.m1 ++ (s.d.kexBytes 0 328).take 232)) = true) :
    ∃ t, exec (.kexConfirm who p) s = .next { s with d := t } ∧ s.d.KexStaged t (s.d.kexConfirmed x) 192 := by
  obtain ⟨hstage, hport, hpt, hver⟩ := hgood
  refine ⟨(s.d.freeScalar.2.stagedAt (s.d.kexConfirmed x)).kexMsg (s.d.kexM3 s.env x) (((s.d.kexBytes 0 328).drop 136).take 96), ?_,
    Die.kexStaged_of (show s.d.freeScalar.2.se = s.d.se from rfl) (s.d.kexConfirmed x) _ (s.d.length_kexM3 s.env x) (by decide)⟩
  change s.go (s.d.kexAct s.env who _) = _
  rw [kexAct_eq hgate, if_pos hlink, hkex]
  dsimp only
  rw [if_neg (by rw [← Option.not_isSome, hpt, hver]; simp [hstage, hport])]
  rfl

theorem kexComplete_stages {x : Kex} (hkex : s.d.se.kex = some x) (hgood : x.stage = 2 ∧ x.port = p.toNat ∧
      ecdsaVerify ((s.d.kexBytes 0 192).take 96) ((s.d.kexBytes 0 192).drop 96) (sha384 (asNats x.m1 ++ asNats x.m2 ++ (s.d.kexBytes 0 192).take 96)) = true) :
    ∃ t, exec (.kexComplete who p) s = .next { s with d := t } ∧ s.d.KexStaged t x.completed 0 := by
  obtain ⟨hstage, hport, hver⟩ := hgood
  refine ⟨(s.d.stagedAt x.completed).kexMsg [] ((s.d.kexBytes 0 192).take 96), ?_, Die.kexStaged_of (rfl : s.d.se = s.d.se) x.completed _ rfl (by decide)⟩
  change s.go (s.d.kexAct s.env who _) = _
  rw [kexAct_eq hgate, if_pos hlink, hkex]
  dsimp only
  rw [if_neg (by rw [hver]; simp [hstage, hport])]
  rfl

theorem exec_kexAccept {x : Kex} (hkex : s.d.se.kex = some x) (hstage : x.stage = 3) (hport : x.port = p.toNat) :
    exec (.kexAccept who p) s = .next { s with d := s.d.accepted p.toNat x } := by
  change s.go (s.d.kexAct s.env who _) = _
  rw [kexAct_eq hgate, if_pos hlink, hkex]
  dsimp only
  rw [if_neg (by simp [hstage, hport])]
  rfl

theorem exec_kexAbort {x : Kex} (hkex : s.d.se.kex = some x) (hport : x.port = p.toNat) :
    exec (.kexAbort who p) s = .next { s with d := s.d.kexOver.linkOff p.toNat } := by
  change s.go (s.d.kexAct s.env who _) = _
  rw [kexAct_eq hgate, if_pos hlink, hkex]
  dsimp only
  rw [if_neg (fun h => h hport)]
  rfl

end

/-! ### The life cycle (R360, R361) -/

theorem exec_tsLcReq {s : State} {who : Who} (hgate : s.d.barGate s.env who .TS_LC_REQ 0 = none) (htap : who = .tap → s.d.lcState ≤ 1) (v : Word) :
    exec (.tsLcReq who v) s = s.go (s.d.lcRequest v) := by
  change s.go (s.d.barWrite s.env who .TS_LC_REQ 0 _) = _
  rw [Die.barWrite_of_gate _ hgate, if_neg (by rintro ⟨hwho, hlc⟩; exact absurd (htap hwho) (by omega))]

theorem tsLcReq_accepted {s : State} {who : Who} (hgate : s.d.barGate s.env who .TS_LC_REQ 0 = none) (htap : who = .tap → s.d.lcState ≤ 1) {v : Word} (hcode : fieldOf v 48 16 = 0x4C43)
    (hmay : lcMay s.d.lcState (fieldOf v 0 3) = true) (hprog : s.d.se.prog = none) :
    ∃ t, exec (.tsLcReq who v) s = .next t ∧ t.d.se = { s.d.se with prog := some (fieldOf v 0 3) } ∧ t.d.getF F.TS_LC.TARGET 0 = fieldOf v 0 3 ∧
      t.d.getF F.TS_LC.PROGRAMMING 0 = 1 ∧ t.d.lcState = s.d.lcState ∧ keepsRegs s.d t.d [.TS_LC] ∧ t.env = s.env := by
  have hset : Within { regs := [.TS_LC] } s.d ((s.d.setF F.TS_LC.TARGET 0 (fieldOf v 0 3)).setF F.TS_LC.PROGRAMMING 0 1) :=
    (Die.setF_within s.d F.TS_LC.TARGET 0 _).trans (Die.setF_within _ F.TS_LC.PROGRAMMING 0 1)
  refine ⟨{ s with d := { (s.d.setF F.TS_LC.TARGET 0 (fieldOf v 0 3)).setF F.TS_LC.PROGRAMMING 0 1 with se := { s.d.se with prog := some (fieldOf v 0 3) } } }, ?_, rfl, ?_, ?_, ?_,
    hset.keepsRegs, rfl⟩
  · rw [exec_tsLcReq hgate htap]
    exact congrArg s.go (if_pos ⟨hcode, hmay, Option.isNone_iff_eq_none.2 hprog⟩)
  · change ((s.d.setF F.TS_LC.TARGET 0 (fieldOf v 0 3)).setF F.TS_LC.PROGRAMMING 0 1).getF F.TS_LC.TARGET 0 = _
    rw [Die.getF_setF_apart _ _ _ _ _ rfl, Die.getF_setF_same _ _ _ _ (Nat.le_of_ble_eq_true rfl)]
    exact Nat.mod_eq_of_lt (fieldOf_lt v 0 3)
  · change ((s.d.setF F.TS_LC.TARGET 0 (fieldOf v 0 3)).setF F.TS_LC.PROGRAMMING 0 1).getF F.TS_LC.PROGRAMMING 0 = _
    rw [Die.getF_setF_same _ _ _ _ (Nat.le_of_ble_eq_true rfl)] <;> rfl
  · change ((s.d.setF F.TS_LC.TARGET 0 (fieldOf v 0 3)).setF F.TS_LC.PROGRAMMING 0 1).getF F.TS_LC.STATE 0 = _
    rw [Die.getF_setF_apart _ _ _ _ _ rfl, Die.getF_setF_apart _ _ _ _ _ rfl] <;> rfl

theorem foldl_reaches {α β : Type} {p : β → α → Prop} {f : α → β → α} (hnew : ∀ a b, p b (f a b)) (hkeep : ∀ a b c, p c a → p c (f a b)) (l : List β) (a : α) :
    ∀ b ∈ l, p b (l.foldl f a) := by
  induction l generalizing a with
  | nil => exact fun b hb => absurd hb (List.not_mem_nil)
  | cons x xs ih =>
    intro b hb
    rcases List.mem_cons.1 hb with rfl | hb
    · exact foldl_invariant (p b) f (fun a' c h => hkeep a' c b h) xs (f a b) (hnew a b)
    · exact ih (f a x) b hb

/-- The erasure of one key slot: it is EMPTY, and keeps its generation. -/
def Die.slotErased (d : Die) (k : Nat) : Die :=
  if d.slotState k = 0 then d else (d.clearElem .SE_SLOT k).setF F.SE_SLOT.GENERATION k (d.getF F.SE_SLOT.GENERATION k)

theorem Die.slotErased_within (d : Die) (k : Nat) : Within { regs := [.SE_SLOT] } d (d.slotErased k) := by
  unfold Die.slotErased
  split
  · exact .refl d
  · exact (Die.clearElem_within d .SE_SLOT k).trans (Die.setF_within _ F.SE_SLOT.GENERATION k _)

theorem Die.slotState_cleared (d : Die) (k g : Nat) : ((d.clearElem .SE_SLOT k).setF F.SE_SLOT.GENERATION k g).slotState k = 0 := by
  unfold Die.slotState
  rw [Die.getF_setF_apart _ _ _ _ _ rfl]
  unfold Die.getF
  rw [Die.reg_clearElem_lt d .SE_SLOT k 0 (by decide)]
  rfl

theorem Die.slotState_slotErased_same (d : Die) (k : Nat) : (d.slotErased k).slotState k = 0 := by
  unfold Die.slotErased
  split
  case isTrue h => exact h
  case isFalse => exact d.slotState_cleared k _

theorem Die.reg_clearElem_ne (d : Die) (r : Reg) (i j w : Nat) (hj : j ≠ i) (hw : w < 8) (hwords : r.layout.words ≤ 8) : (d.clearElem r i).reg r j w = d.reg r j w := by
  unfold Die.clearElem
  have hlt : ∀ x ∈ List.range r.layout.words, x < 8 := fun x hx => Nat.lt_of_lt_of_le (List.mem_range.1 hx) hwords
  generalize List.range r.layout.words = l at hlt
  induction l generalizing d with
  | nil => rfl
  | cons x xs ih =>
    rw [List.foldl_cons, ih _ (fun y hy => hlt y (List.mem_cons_of_mem _ hy))]
    have := hlt x List.mem_cons_self
    exact Die.reg_setReg_ne _ _ _ _ _ _ _ _ (.inr (by omega))

theorem Die.slotState_slotErased_ne (d : Die) {k j : Nat} (h : j ≠ k) : (d.slotErased k).slotState j = d.slotState j := by
  unfold Die.slotErased
  split
  · rfl
  · unfold Die.slotState
    rw [Die.getF_setF_ne _ _ _ _ _ _ (by decide) (.inr (.inl (by change 8 * j + 0 ≠ 8 * k + 0; omega)))]
    unfold Die.getF
    rw [Die.reg_clearElem_ne d .SE_SLOT k j 0 h (by decide) (by decide)]

theorem Die.slotState_slotErased_keeps (d : Die) (k j : Nat) (h : d.slotState j = 0) : (d.slotErased k).slotState j = 0 := by
  by_cases hj : j = k
  · rw [hj]
    exact d.slotState_slotErased_same k
  · rw [d.slotState_slotErased_ne hj, h]

/-- The die with its keys erased, before the registers follow. -/
def Die.sansKeys (d : Die) : Die := { d with se.keys := [], se.ops := [], se.links := [] }

theorem Die.eraseKeys_spec (d : Die) : Within { regs := [.SE_SLOT, .SE_LINK, .TS_KEX_STATUS], se := true } d d.eraseKeys ∧ (∀ k < 64, d.eraseKeys.slotState k = 0) ∧
    (∀ p < 16, d.eraseKeys.getF F.SE_LINK.STATE p = 0) ∧ d.eraseKeys.se = { d.se with keys := [], ops := [], links := [], kex := none } := by
  have heq : d.eraseKeys = (((List.range 16).foldl (fun d p => d.setF F.SE_LINK.STATE p 0) ((List.range 64).foldl Die.slotErased d.sansKeys))).kexOver := rfl
  have h₀ : Within { se := true } d d.sansKeys := Die.setSe_within d _
  have hse₀ : d.sansKeys.se = { d.se with keys := [], ops := [], links := [] } := rfl
  rw [heq]
  generalize d.sansKeys = y₀ at h₀ hse₀ ⊢
  have h₁ : Within { regs := [.SE_SLOT] } y₀ ((List.range 64).foldl Die.slotErased y₀) := .foldl _ (fun d k => d.slotErased_within k) _ _
  have hslots : ∀ k ∈ List.range 64, ((List.range 64).foldl Die.slotErased y₀).slotState k = 0 :=
    foldl_reaches (p := fun k (d : Die) => d.slotState k = 0) (fun d k => d.slotState_slotErased_same k) (fun d k j h => d.slotState_slotErased_keeps k j h) _ _
  generalize (List.range 64).foldl Die.slotErased y₀ = y₁ at h₁ hslots ⊢
  have h₂ : Within { regs := [.SE_LINK] } y₁ ((List.range 16).foldl (fun d p => d.setF F.SE_LINK.STATE p 0) y₁) :=
    .foldl _ (fun d p => Die.setF_within d F.SE_LINK.STATE p 0) _ _
  have hlinks : ∀ p ∈ List.range 16, ((List.range 16).foldl (fun d p => d.setF F.SE_LINK.STATE p 0) y₁).getF F.SE_LINK.STATE p = 0 := by
    refine foldl_reaches (p := fun p (d : Die) => d.getF F.SE_LINK.STATE p = 0) (fun d p => ?_) (fun d p q h => ?_) _ _
    · exact (Die.getF_setF_same d F.SE_LINK.STATE p 0 (Nat.le_of_ble_eq_true rfl)).trans rfl
    · by_cases hq : q = p
      · rw [hq]
        exact (Die.getF_setF_same d F.SE_LINK.STATE p 0 (Nat.le_of_ble_eq_true rfl)).trans rfl
      · exact (Die.getF_setF_ne d _ _ p q 0 (by decide) (.inr (.inl (by change 8 * q + 0 ≠ 8 * p + 0; omega)))).trans h
  generalize (List.range 16).foldl (fun d p => d.setF F.SE_LINK.STATE p 0) y₁ = y₂ at h₂ hlinks ⊢
  have h₃ : Within { regs := [.TS_KEX_STATUS] } y₂ ((y₂.setF F.TS_KEX_STATUS.BUSY 0 0).setF F.TS_KEX_STATUS.STAGED 0 0) :=
    (Die.setF_within y₂ F.TS_KEX_STATUS.BUSY 0 0).trans (Die.setF_within _ F.TS_KEX_STATUS.STAGED 0 0)
  have h₄ : Within { regs := [.TS_KEX_STATUS], se := true } y₂ y₂.kexOver := y₂.kexOver_spec.1
  refine ⟨((h₀.mono.trans h₁.mono).trans h₂.mono).trans h₄.mono, fun k hk => ?_, fun p hp => ?_, ?_⟩
  · exact ((h₄.getF F.SE_SLOT.STATE k).trans (h₂.getF F.SE_SLOT.STATE k)).trans (hslots k (List.mem_range.2 hk))
  · exact (h₄.getF F.SE_LINK.STATE p).trans (hlinks p (List.mem_range.2 hp))
  · unfold Die.kexOver
    dsimp only
    rw [h₃.se, h₂.se, h₁.se, hse₀]

theorem Env.otpWord_program (e : Env) (i w : Nat) (mask : Word) : (e.program i mask).otpWord w = if w = i then e.otpWord i ||| mask else e.otpWord w := by
  unfold Env.otpWord Env.program
  dsimp only
  split
  case isTrue h => rw [h]; exact Tab.get_set_same 0 e.otp i _
  case isFalse h => exact Tab.get_set_ne 0 e.otp h _

/-- The four words of the identity secret, programmed. -/
def Env.idSecret (e : Env) (f : Nat → Word) : Env := (List.range 4).foldl (fun e i => e.program (1 + i) (f i)) e

theorem Env.otpWord_idSecret_zero (e : Env) (f : Nat → Word) : (e.idSecret f).otpWord 0 = e.otpWord 0 := by
  unfold Env.idSecret
  exact foldl_keeps (fun e : Env => e.otpWord 0) _ (fun e i => (e.otpWord_program (1 + i) 0 (f i)).trans (if_neg (by omega))) _ _

theorem Env.otpWord_idSecret_ones (e : Env) (i : Nat) (hi : i < 4) : (e.idSecret (fun _ => BitVec.allOnes 64)).otpWord (1 + i) = BitVec.allOnes 64 := by
  unfold Env.idSecret
  refine foldl_reaches (p := fun i (e : Env) => e.otpWord (1 + i) = BitVec.allOnes 64) (fun e j => ?_) (fun e j k h => ?_) _ _ i (List.mem_range.2 hi)
  · rw [Env.otpWord_program, if_pos rfl, BitVec.or_allOnes]
  · rw [Env.otpWord_program]
    split
    · rw [BitVec.or_allOnes]
    · exact h

/-- The die whose life-cycle word has been programmed. -/
def Die.programmed (d : Die) : Die := { (d.setF F.TS_LC.TARGET 0 0).setF F.TS_LC.PROGRAMMING 0 0 with se.prog := none }

theorem Die.programmed_spec (d : Die) : Within { regs := [.TS_LC], se := true } d d.programmed ∧ d.programmed.se = { d.se with prog := none } ∧
    d.programmed.getF F.TS_LC.PROGRAMMING 0 = 0 ∧ d.programmed.lcState = d.lcState := by
  have hset : Within { regs := [.TS_LC], se := true } d ((d.setF F.TS_LC.TARGET 0 0).setF F.TS_LC.PROGRAMMING 0 0) :=
    (Die.setF_within d F.TS_LC.TARGET 0 0).trans (Die.setF_within _ F.TS_LC.PROGRAMMING 0 0)
  have hprog : ((d.setF F.TS_LC.TARGET 0 0).setF F.TS_LC.PROGRAMMING 0 0).getF F.TS_LC.PROGRAMMING 0 = 0 :=
    (Die.getF_setF_same _ _ _ _ (Nat.le_of_ble_eq_true rfl)).trans rfl
  have hstate : ((d.setF F.TS_LC.TARGET 0 0).setF F.TS_LC.PROGRAMMING 0 0).getF F.TS_LC.STATE 0 = d.getF F.TS_LC.STATE 0 :=
    (Die.getF_setF_apart _ _ _ _ _ rfl).trans (Die.getF_setF_apart _ _ _ _ _ rfl)
  have hse : ((d.setF F.TS_LC.TARGET 0 0).setF F.TS_LC.PROGRAMMING 0 0).se = d.se := rfl
  unfold Die.programmed
  generalize (d.setF F.TS_LC.TARGET 0 0).setF F.TS_LC.PROGRAMMING 0 0 = y at hset hprog hstate hse ⊢
  refine ⟨hset.trans (Die.setSe_within y _), ?_, hprog, hstate⟩
  dsimp only
  rw [hse]

theorem exec_lcProgramDone {s : State} {t : Nat} (hprog : s.d.se.prog = some t) : exec .lcProgramDone s =
    if t = 2 then .next { s with env := (s.env.program 0 (lcCode t)).idSecret (fun i => Config.freeWord (s.d.ctr + i)), d := { s.d.programmed with ctr := s.d.ctr + 4 } }
    else if t = 4 then .next { s with env := (s.env.program 0 (lcCode t)).idSecret (fun _ => BitVec.allOnes 64), d := s.d.programmed.eraseKeys }
    else .next { s with env := s.env.program 0 (lcCode t), d := s.d.programmed } := by
  change execLcProgramDone s = _
  unfold execLcProgramDone
  rw [hprog] <;> rfl

theorem Env.get_otp (e : Env) (i : Nat) : Tab.get 0 e.otp i = e.otpWord i := rfl

/-- What the end of the programming of a life-cycle word leaves (R361). -/
theorem lcProgramDone_programs (s : State) (t : Nat) (hprog : s.d.se.prog = some t) :
    ∃ u, exec .lcProgramDone s = .next u ∧ Tab.get 0 u.env.otp 0 = Tab.get 0 s.env.otp 0 ||| lcCode t ∧
      u.d.se.prog = none ∧ u.d.getF F.TS_LC.PROGRAMMING 0 = 0 ∧ u.d.lcState = s.d.lcState ∧
      (t = 4 → (∀ k < 64, u.d.slotState k = 0) ∧ (∀ p < 16, u.d.getF F.SE_LINK.STATE p = 0) ∧ u.d.se.keys = [] ∧ u.d.se.links = [] ∧
        ∀ i < 4, Tab.get 0 u.env.otp (1 + i) = BitVec.allOnes 64) ∧
      (t ≠ 4 → u.d.se.keys = s.d.se.keys ∧ u.d.se.links = s.d.se.links ∧ keepsRegs s.d u.d [.TS_LC]) := by
  rw [exec_lcProgramDone hprog]
  have hword : (s.env.program 0 (lcCode t)).otpWord 0 = s.env.otpWord 0 ||| lcCode t := (s.env.otpWord_program 0 0 _).trans (if_pos rfl)
  obtain ⟨hin, hse, hdone, hlc⟩ := s.d.programmed_spec
  have hprog' : s.d.programmed.se.prog = none := by rw [hse]
  have hkeys : s.d.programmed.se.keys = s.d.se.keys := by rw [hse]
  have hlinks : s.d.programmed.se.links = s.d.se.links := by rw [hse]
  generalize s.d.programmed = y at hin hdone hlc hprog' hkeys hlinks ⊢
  generalize s.env.program 0 (lcCode t) = e at hword ⊢
  by_cases h2 : t = 2
  · rw [if_pos h2]
    refine ⟨{ s with env := e.idSecret (fun i => Config.freeWord (s.d.ctr + i)), d := { y with ctr := s.d.ctr + 4 } }, rfl, ?_, hprog', hdone, hlc,
      fun h4 => absurd (h2.symm.trans h4) (by decide), fun _ => ⟨hkeys, hlinks, hin.keepsRegs⟩⟩
    rw [Env.get_otp, Env.get_otp, Env.otpWord_idSecret_zero, hword]
  · rw [if_neg h2]
    by_cases h4 : t = 4
    · rw [if_pos h4]
      obtain ⟨hall, hslots, hports, hse'⟩ := y.eraseKeys_spec
      have hkeys' : y.eraseKeys.se.keys = [] := by rw [hse']
      have hlinks' : y.eraseKeys.se.links = [] := by rw [hse']
      have hprog'' : y.eraseKeys.se.prog = none := by rw [hse']; exact hprog'
      refine ⟨{ s with env := e.idSecret (fun _ => BitVec.allOnes 64), d := y.eraseKeys }, rfl, ?_, hprog'', ?_, ?_,
        fun _ => ⟨hslots, hports, hkeys', hlinks', fun i hi => Env.otpWord_idSecret_ones e i hi⟩, fun hne => absurd h4 hne⟩
      · rw [Env.get_otp, Env.get_otp, Env.otpWord_idSecret_zero, hword]
      · exact (hall.getF F.TS_LC.PROGRAMMING 0).trans hdone
      · exact (hall.getF F.TS_LC.STATE 0).trans hlc
    · rw [if_neg h4]
      refine ⟨{ s with env := e, d := y }, rfl, ?_, hprog', hdone, hlc, fun h => absurd h h4, fun _ => ⟨hkeys, hlinks, hin.keepsRegs⟩⟩
      rw [Env.get_otp, Env.get_otp, hword]

/-! ### Firmware's keys (R364) -/

/-- A write that the running signed image may make programs its word, and the die notes the programming alone. -/
theorem signedWrite_signed {s : State} {who : Who} {r : Reg} {i key svn : Nat} (hgate : s.d.barGate s.env who r 0 = none) (himage : s.d.se.image = some (key, svn, true))
    (act : Nat → Nat → Env) : ∃ b, signedWrite s who r i act = .next { s with env := act key svn, d := { s.d with se := { s.d.se with burn := b } } } := by
  unfold signedWrite
  rw [hgate, himage]
  dsimp only
  split
  · exact ⟨s.d.se.burn, rfl⟩
  · exact ⟨_, rfl⟩

theorem signedWrite_same {s : State} {who : Who} {r : Reg} {i key svn : Nat} (hgate : s.d.barGate s.env who r 0 = none) (himage : s.d.se.image = some (key, svn, true))
    {act : Nat → Nat → Env} (hsame : act key svn = s.env) : signedWrite s who r i act = .next s := by
  unfold signedWrite
  rw [hgate, himage]
  dsimp only
  rw [hsame, if_pos (.inl rfl)]

theorem signedWrite_unsigned {s : State} {who : Who} {r : Reg} {i key svn : Nat} (hgate : s.d.barGate s.env who r 0 = none) (himage : s.d.se.image = some (key, svn, false))
    (act : Nat → Nat → Env) : signedWrite s who r i act = .next s := by
  unfold signedWrite
  rw [hgate, himage]
  rfl

theorem fieldOf_testBit (v : Word) (i n : Nat) (hi : i < n) : (fieldOf v 0 n).testBit i = v.getLsbD i := by
  unfold fieldOf
  simp [Nat.testBit_mod_two_pow, hi, BitVec.getLsbD]

/-- The bits that a write of TS_KEY_REVOKE programs. -/
theorem revoked_getLsbD (v : Word) (key i : Nat) (hi : i < 4) :
    (BitVec.ofNat 64 (fieldOf v 0 4) &&& ~~~(1#64 <<< key)).getLsbD i = (v.getLsbD i && decide (i ≠ key)) := by
  rw [BitVec.getLsbD_and, BitVec.getLsbD_ofNat, fieldOf_testBit v i 4 hi, BitVec.getLsbD_not, BitVec.getLsbD_shiftLeft]
  have h64 : i < 64 := by omega
  by_cases hkey : i = key
  · simp [hkey]
  · by_cases hlt : i < key
    · simp [h64, hlt, hkey]
    · have : i - key ≠ 0 := by omega
      simp [h64, hlt, hkey, this, BitVec.getLsbD_one]

theorem exec_svnAdvance (s : State) (who : Who) (v : Word) : exec (.svnAdvance who v) s = signedWrite s who .TS_SVN_ADVANCE 35 (fun _ svn =>
    if fieldOf v 0 6 = svn ∧ s.env.minSvn < svn then s.env.program 35 (lowClear (s.env.otpWord 35) (svn - s.env.minSvn)) else s.env) := rfl

theorem exec_keyRevoke (s : State) (who : Who) (v : Word) : exec (.keyRevoke who v) s = signedWrite s who .TS_KEY_REVOKE 36 (fun key _ =>
    s.env.program 36 (BitVec.ofNat 64 (fieldOf v 0 4) &&& ~~~(1#64 <<< key))) := rfl

theorem keyRevoke_programs {s : State} {who : Who} {key svn : Nat} (v : Word) (hgate : s.d.barGate s.env who .TS_KEY_REVOKE 0 = none)
    (himage : s.d.se.image = some (key, svn, true)) :
    ∃ t, exec (.keyRevoke who v) s = .next t ∧ (∃ b, t.d = { s.d with se := { s.d.se with burn := b } }) ∧
      (∀ w, w ≠ 36 → Tab.get 0 t.env.otp w = Tab.get 0 s.env.otp w) ∧
      ∀ i < 4, (Tab.get 0 t.env.otp 36).getLsbD i = ((Tab.get 0 s.env.otp 36).getLsbD i || (v.getLsbD i && decide (i ≠ key))) := by
  obtain ⟨b, hexec⟩ := signedWrite_signed (i := 36) hgate himage (fun key _ => s.env.program 36 (BitVec.ofNat 64 (fieldOf v 0 4) &&& ~~~(1#64 <<< key)))
  refine ⟨{ s with env := s.env.program 36 (BitVec.ofNat 64 (fieldOf v 0 4) &&& ~~~(1#64 <<< key)), d := { s.d with se := { s.d.se with burn := b } } },
    (exec_keyRevoke s who v).trans hexec, ⟨b, rfl⟩, fun w hw => ?_, fun i hi => ?_⟩
  · exact (s.env.otpWord_program 36 w _).trans (if_neg hw)
  · have hword := (s.env.otpWord_program 36 36 (BitVec.ofNat 64 (fieldOf v 0 4) &&& ~~~(1#64 <<< key))).trans (if_pos rfl)
    change (Env.otpWord _ 36).getLsbD i = _
    rw [hword, BitVec.getLsbD_or, revoked_getLsbD v key i hi]
    rfl

theorem svnAdvance_programs {s : State} {who : Who} {key svn : Nat} {v : Word} (hgate : s.d.barGate s.env who .TS_SVN_ADVANCE 0 = none)
    (himage : s.d.se.image = some (key, svn, true)) (hsvn : fieldOf v 0 6 = svn) (hlt : s.env.minSvn < svn) :
    ∃ t, exec (.svnAdvance who v) s = .next t ∧ t.env = s.env.program 35 (lowClear (s.env.otpWord 35) (svn - s.env.minSvn)) ∧
      (∃ b, t.d = { s.d with se := { s.d.se with burn := b } }) ∧ t.pending = s.pending := by
  obtain ⟨b, hexec⟩ := signedWrite_signed (i := 35) hgate himage (fun _ svn =>
    if fieldOf v 0 6 = svn ∧ s.env.minSvn < svn then s.env.program 35 (lowClear (s.env.otpWord 35) (svn - s.env.minSvn)) else s.env)
  exact ⟨_, (exec_svnAdvance s who v).trans hexec, if_pos ⟨hsvn, hlt⟩, ⟨b, rfl⟩, rfl⟩

/-! ### The obligation -/

/-- The row of each action of TS_KEX_CTL. -/
def kexRow (who : Who) (p : BitVec 4) (a : Nat) : Instr :=
  (([.kexInit who p, .kexRespond who p, .kexConfirm who p, .kexComplete who p, .kexAccept who p] : List Instr)[a]?).getD (.kexAbort who p)

/-- An action that its state refuses discards the exchange. -/
theorem discards_of_error {s : State} {i : Instr} (h : exec i s = .next { s with d := s.d.kexError }) :
    ∃ t, exec i s = .next t ∧ (t.d.se.kex = none ∧ t.d.getF F.TS_KEX_STATUS.ERROR 0 = 1 ∧ t.env = s.env ∧ t.d.mem = s.d.mem ∧
      keepsRegs s.d t.d [.TS_KEX_STATUS, .SE_LINK] ∧
      ∀ x, s.d.se.kex = some x → t.d.getF F.SE_LINK.STATE x.port = 0 ∧ Tab.get none t.d.se.links x.port = none ∧ t.d.getF F.TS_KEX_STATUS.BUSY 0 = 0) := by
  have hd := s.d.kexError_discards
  exact ⟨_, h, hd.kex, hd.error, rfl, hd.within_.mem, hd.within_.keepsRegs, hd.ran⟩

section
variable {s : State} {who : Who} {p : BitVec 4} (hgate : s.d.barGate s.env who .TS_KEX_CTL 0 = none)
include hgate

/-- The later actions are refused where no exchange of the port runs. -/
theorem kexRow_refused_late (h : ∀ x, s.d.mayLink = true → s.d.se.kex = some x → x.port ≠ p.toNat) (a : Nat) (ha : 2 ≤ a) :
    exec (kexRow who p a) s = .next { s with d := s.d.kexError } := by
  match a, ha with
  | 2, _ => exact kexConfirm_refused hgate (fun x hl hx => .inr (.inl (h x hl hx)))
  | 3, _ => exact kexComplete_refused hgate (fun x hl hx => .inr (.inl (h x hl hx)))
  | 4, _ => exact kexAccept_refused hgate (fun x hl hx => .inr (h x hl hx))
  | n + 5, _ => exact kexAbort_refused hgate h

theorem kexRow_refused_early (h : s.d.mayLink = true → s.d.se.kex.isSome = true) (a : Nat) (ha : a < 2) :
    exec (kexRow who p a) s = .next { s with d := s.d.kexError } := by
  match a, ha with
  | 0, _ => exact kexInit_refused hgate h
  | 1, _ => exact kexRespond_refused hgate h

theorem kexRow_refused (hearly : s.d.mayLink = true → s.d.se.kex.isSome = true) (hlate : ∀ x, s.d.mayLink = true → s.d.se.kex = some x → x.port ≠ p.toNat) (a : Nat) :
    exec (kexRow who p a) s = .next { s with d := s.d.kexError } :=
  if h : a < 2 then kexRow_refused_early hgate hearly a h else kexRow_refused_late hgate hlate a (Nat.not_lt.1 h)

end

/-- Settles O56. -/
theorem linkKeysAndTheLifeCycleFollowTheirOrder : Obligations.LinkKeysAndTheLifeCycleFollowTheirOrder := by
  unfold Obligations.LinkKeysAndTheLifeCycleFollowTheirOrder
  refine ⟨fun s who p hgate => ⟨fun hlink a => ?_, fun hlink hkex => ⟨?_, fun hpt => ?_, fun a ha => ?_⟩,
      fun x hlink hkex => ⟨fun a ha => ?_, fun hport a => ?_, ⟨fun hgood => ?_, fun hbad => ?_⟩, ⟨fun hgood => ?_, fun hbad => ?_⟩, fun hstage hport => ?_, fun hstage => ?_, fun hport => ?_⟩⟩,
    fun s who v hgate htap => ⟨fun hcode hmay hprog => tsLcReq_accepted hgate htap hcode hmay hprog, fun hbad => ?_⟩,
    fun s => ⟨fun hnone => ?_, fun t hprog => lcProgramDone_programs s t hprog⟩,
    fun s who v key svn => ⟨fun hgate himage => ⟨fun hsvn hlt => svnAdvance_programs hgate himage hsvn hlt, fun hne => ?_⟩, fun hgate himage => keyRevoke_programs v hgate himage,
      fun hgate₁ hgate₂ himage => ⟨signedWrite_unsigned hgate₁ himage _, signedWrite_unsigned hgate₂ himage _⟩⟩⟩
  · exact discards_of_error (kexRow_refused hgate (fun h => absurd (hlink.symm.trans h) (by decide)) (fun _ h => absurd (hlink.symm.trans h) (by decide)) a)
  · obtain ⟨t, x, hexec, hport, hstage, hinit, hbegun⟩ := kexInit_begins (p := p) hgate hlink hkex
    refine ⟨_, hexec, x, hbegun.kex, hport, hstage, iff_of_true hinit rfl, hbegun.busy, hbegun.length_, hport ▸ hbegun.state, hport ▸ hbegun.links, rfl, hbegun.within_.mem,
      hbegun.within_.keepsRegs⟩
  · obtain ⟨t, x, hexec, hport, hstage, hinit, hbegun⟩ := kexRespond_begins (p := p) hgate hlink hkex hpt
    refine ⟨_, hexec, x, hbegun.kex, hport, hstage, iff_of_false (by rw [hinit]; decide) (by decide), hbegun.busy, hbegun.length_, hport ▸ hbegun.state, hport ▸ hbegun.links, rfl,
      hbegun.within_.mem, hbegun.within_.keepsRegs⟩
  · exact discards_of_error (kexRow_refused_late hgate (fun x _ hx => absurd (hkex.symm.trans hx) (by simp)) a ha)
  · exact discards_of_error (kexRow_refused_early hgate (fun _ => by rw [hkex]; rfl) a ha)
  · exact discards_of_error (kexRow_refused hgate (fun _ => by rw [hkex]; rfl) (fun y _ hy => Option.some.inj (hkex.symm.trans hy) ▸ hport) a)
  · obtain ⟨t, hexec, hst⟩ := kexConfirm_stages hgate hlink hkex hgood
    exact ⟨_, hexec, hst.kex, hst.staged, hst.length_, hst.links, rfl⟩
  · refine discards_of_error (kexConfirm_refused hgate (fun y _ hy => ?_))
    rw [← Option.some.inj (hkex.symm.trans hy)]
    rw [not_and_or, not_and_or, not_and_or] at hbad
    simpa using hbad
  · obtain ⟨t, hexec, hst⟩ := kexComplete_stages hgate hlink hkex hgood
    exact ⟨_, hexec, hst.kex, hst.staged, hst.length_, hst.links, rfl⟩
  · refine discards_of_error (kexComplete_refused hgate (fun y _ hy => ?_))
    rw [← Option.some.inj (hkex.symm.trans hy)]
    rw [not_and_or, not_and_or] at hbad
    simpa using hbad
  · obtain ⟨hin, hnone, hlinks, hstate, hpeer, htx, hrx, hbusy, hstaged⟩ := s.d.accepted_spec p.toNat x
    exact ⟨_, exec_kexAccept hgate hlink hkex hstage hport, hnone, hlinks, hstate, hpeer, htx, hrx, hbusy, hstaged, hin.keepsRegs⟩
  · exact discards_of_error (kexAccept_refused hgate (fun y _ hy => .inl (Option.some.inj (hkex.symm.trans hy) ▸ hstage)))
  · obtain ⟨hover, hnone, hbusy, -⟩ := s.d.kexOver_spec
    have hexec := exec_kexAbort hgate hlink hkex hport
    generalize s.d.kexOver = y at hover hnone hbusy hexec
    obtain ⟨hoff, hstate, hlinks, hkeep⟩ := y.linkOff_spec p.toNat
    exact ⟨_, hexec, hkeep.trans hnone, hlinks, hstate, (hoff.getF F.TS_KEX_STATUS.BUSY 0).trans hbusy, Within.keepsRegs (p := { regs := [.TS_KEX_STATUS, .SE_LINK], se := true }) (hover.mono.trans hoff.mono)⟩
  · rw [exec_tsLcReq hgate htap]
    refine congrArg s.go (if_neg ?_)
    rintro ⟨hcode, hmay, -⟩
    exact hbad.elim (fun h => h hcode) (fun h => absurd (h.symm.trans hmay) (by decide))
  · change execLcProgramDone s = _
    unfold execLcProgramDone
    rw [hnone] <;> rfl
  · exact signedWrite_same (r := .TS_SVN_ADVANCE) (i := 35) hgate himage (if_neg (fun h => hne h.1))

end Sys2Proof.Machine
end

section
/-! PROOF. O55: key slots are bound and retired (R348 to R350, R352, Table 11.4). -/

-- One proof after another: all at once, they ask for more threads than the check's memory limit admits.
set_option Elab.async false

namespace Sys2Proof.Machine

/-! ### What BIND begins -/

/-- The pages of a slot's range, then those of its tag span. -/
def slotPages (cls first count tag : Nat) : List Nat := (List.range count).map (first + ·) ++ if cls = 1 then (List.range (ceilDiv count 16)).map (tag + ·) else []

/-- An operation on a slot stands. -/
def Die.addOp (d : Die) (k : Nat) (cmd : Option Nat) : Die := { d with se.ops := d.se.ops ++ [(k, cmd)] }

/-- The bounds of a slot, as BIND writes them. -/
theorem Die.boundsWritten (d d₁ d₂ : Die) {k cls sl : Nat} (first count tag : Nat) (hcls : cls < 4) (hsl : sl < 512)
    (h₁ : d₁ = (((d.setF F.SE_SLOT.STATE k 1).setF F.SE_SLOT.CLASS k cls).setF F.SE_SLOT.SLICE k sl).setF F.SE_SLOT.STACK k (stackOf first))
    (h₂ : d₂ = ((d₁.setF F.SE_SLOT.FIRST_PAGE k first).setF F.SE_SLOT.COUNT k count).setF F.SE_SLOT.TAG_PAGE k tag) :
    Within { regs := [.SE_SLOT] } d d₂ ∧ d₂.getF F.SE_SLOT.STATE k = 1 ∧ d₂.getF F.SE_SLOT.CLASS k = cls ∧ d₂.getF F.SE_SLOT.SLICE k = sl ∧
      d₂.getF F.SE_SLOT.FIRST_PAGE k = first % 2 ^ 15 ∧ d₂.getF F.SE_SLOT.COUNT k = count % 2 ^ 15 := by
  have hin₁ : Within { regs := [.SE_SLOT] } d d₁ := h₁ ▸ (((Die.setF_within d F.SE_SLOT.STATE k 1).trans (Die.setF_within _ F.SE_SLOT.CLASS k cls)).trans
    (Die.setF_within _ F.SE_SLOT.SLICE k sl)).trans (Die.setF_within _ F.SE_SLOT.STACK k _)
  have hin₂ : Within { regs := [.SE_SLOT] } d₁ d₂ := h₂ ▸ ((Die.setF_within d₁ F.SE_SLOT.FIRST_PAGE k first).trans (Die.setF_within _ F.SE_SLOT.COUNT k count)).trans
    (Die.setF_within _ F.SE_SLOT.TAG_PAGE k tag)
  have hkept : ∀ f : Fld, F.SE_SLOT.FIRST_PAGE.apart f = true → F.SE_SLOT.COUNT.apart f = true → F.SE_SLOT.TAG_PAGE.apart f = true → d₂.getF f k = d₁.getF f k := fun f hf hc ht => by
    rw [h₂, Die.getF_setF_apart _ _ _ _ _ ht, Die.getF_setF_apart _ _ _ _ _ hc, Die.getF_setF_apart _ _ _ _ _ hf]
  refine ⟨hin₁.trans hin₂, ?_, ?_, ?_, ?_, ?_⟩
  · rw [hkept _ rfl rfl rfl, h₁, Die.getF_setF_apart _ _ _ _ _ rfl, Die.getF_setF_apart _ _ _ _ _ rfl, Die.getF_setF_apart _ _ _ _ _ rfl,
      Die.getF_setF_same _ _ _ _ (Nat.le_of_ble_eq_true rfl)] <;> rfl
  · rw [hkept _ rfl rfl rfl, h₁, Die.getF_setF_apart _ _ _ _ _ rfl, Die.getF_setF_apart _ _ _ _ _ rfl, Die.getF_setF_same _ _ _ _ (Nat.le_of_ble_eq_true rfl)]
    exact Nat.mod_eq_of_lt hcls
  · rw [hkept _ rfl rfl rfl, h₁, Die.getF_setF_apart _ _ _ _ _ rfl, Die.getF_setF_same _ _ _ _ (Nat.le_of_ble_eq_true rfl)]
    exact Nat.mod_eq_of_lt hsl
  · rw [h₂, Die.getF_setF_apart _ _ _ _ _ rfl, Die.getF_setF_apart _ _ _ _ _ rfl, Die.getF_setF_same _ _ _ _ (Nat.le_of_ble_eq_true rfl)]
  · rw [h₂, Die.getF_setF_apart _ _ _ _ _ rfl, Die.getF_setF_same _ _ _ _ (Nat.le_of_ble_eq_true rfl)]

/-- BIND steps 1 and 2: the slot takes its bounds, its operation stands, and the flush of its pages starts. -/
theorem Die.startBind_spec (e : Env) (d : Die) {k cls sl : Nat} (first count tag : Nat) (cmd : Option Nat) (hcls : cls < 4) (hsl : sl < 512) :
    ∃ d₂ : Die, d.startBind e k cls sl first count tag cmd = ((d₂.addOp k cmd).startFlush e (.pages (slotPages cls first count tag)) (.bind k)).wake e (stackOf first) ∧
      Within { regs := [.SE_SLOT] } d d₂ ∧ d₂.getF F.SE_SLOT.STATE k = 1 ∧ d₂.getF F.SE_SLOT.CLASS k = cls ∧ d₂.getF F.SE_SLOT.SLICE k = sl ∧
      d₂.getF F.SE_SLOT.FIRST_PAGE k = first % 2 ^ 15 ∧ d₂.getF F.SE_SLOT.COUNT k = count % 2 ^ 15 := by
  unfold Die.startBind
  extract_lets d₁ d₂ src d₃ span
  exact ⟨d₂, rfl, d.boundsWritten d₁ d₂ first count tag hcls hsl rfl rfl⟩

/-! ### KEY_CTL (R348 to R350) -/

/-- What KEY_CTL BIND does in the die in which it acts, for the command `id`. -/
def Die.keyBoundAs (e : Env) (d : Die) (c : Cmd) (id : Nat) : Die :=
  let k := dfield c.desc 8 0 6
  let sl := dfield c.desc 32 0 9
  let cls := dfield c.desc 32 9 2
  let first := dfield c.desc 40 0 32
  let count := dfield c.desc 44 0 32
  let tag := dfield c.desc 48 0 32
  let range := (List.range count).map (first + ·)
  let span := if cls = 1 then (List.range (ceilDiv count 16)).map (tag + ·) else []
  let taken := fun p => (d.rangeSlot p).isSome || (d.spanSlot p).isSome || (decide (p ∈ range) && decide (p ∈ span))
  if d.slotState k ≠ 0 ∨ !(d.inState sl [1, 2, 4]) then d.opRefused c Why.WRONG_STATE 0
  else match (range ++ span).find? (fun p => !(d.present e p) || !(d.ownedBy p sl)) with
    | some p => d.opRefused c Why.NOT_OWNER p
    | none => match (range ++ span).find? taken with
      | some p => d.opRefused c Why.KEY_BOUND p
      | none => match (range ++ span).find? (fun p => decide (stackOf p ≠ stackOf first)) with
        | some p => d.opRefused c Why.SPAN p
        | none =>
          if !d.maySeal then d.opRefused c Why.LIFE_CYCLE 0
          else d.startBind e k cls sl first count tag (some id)

/-- What KEY_CTL BIND does in the die in which it acts. -/
def Die.keyBound (e : Env) (d : Die) (c : Cmd) : Die := d.keyBoundAs e c c.id

/-- The operation of a command runs on a slot in the state named. -/
theorem no_op {s : State} {id n : Nat} (hops : ∀ x ∈ s.d.se.ops, x.2 ≠ some id) :
    s.d.se.ops.find? (fun x => decide (x.2 = some id) && decide (s.d.slotState x.1 = n)) = none :=
  List.find?_eq_none.2 (fun x hx => by simp [hops x hx])

theorem exec_keyBind {s : State} {id : Nat} {c : Cmd} {d : Die} (h : Acting s id Op.KEY_CTL c d) (harg : c.arg0 = 0) (hops : ∀ x ∈ s.d.se.ops, x.2 ≠ some id) :
    exec (.keyBind id) s = .next (actsTo s id c (d.keyBound s.env c)) := by
  have hexec : exec (.keyBind id) s = s.go (s.d.start s.env id Op.KEY_CTL (fun c => decide (c.arg0 = 0)) (fun c d => d.keyBoundAs s.env c id)) := by
    change execKeyBind id s = _
    unfold execKeyBind
    dsimp only
    rw [no_op hops] <;> rfl
  have hstart := exec_of_start h hexec (fun x hdesc _ => mapWindow_sub harg x hdesc)
  exact hstart.trans (by unfold Die.keyBound; rw [h.id])

/-- A slot whose bounds `d₂` holds has its operation. -/
theorem Die.addOp_spec {d d₂ : Die} {k : Nat} (cmd : Option Nat) (hin : Within { regs := [.SE_SLOT] } d d₂) :
    (d₂.addOp k cmd).se.ops = d.se.ops ++ [(k, cmd)] ∧ keepsRegs d (d₂.addOp k cmd) [.SE_SLOT] ∧ ∀ f i, (d₂.addOp k cmd).getF f i = d₂.getF f i :=
  ⟨congrArg (fun x : SealSt => x.ops ++ [(k, cmd)]) hin.se, hin.keepsRegs, fun _ _ => rfl⟩

theorem inState_iff (d : Die) (sl : Nat) : d.inState sl [1, 2, 4] = true ↔ d.sliceState sl ∈ ([1, 2, 4] : List Nat) := List.contains_iff_mem

theorem dfield_lt (desc : BitVec 512) (o b w : Nat) : dfield desc o b w < 2 ^ w := Nat.mod_lt _ (Nat.two_pow_pos w)

section
variable (e : Env) (d : Die) (c : Cmd)

/-- The pages that KEY_CTL BIND names. -/
def bindPages : List Nat := slotPages (dfield c.desc 32 9 2) (dfield c.desc 40 0 32) (dfield c.desc 44 0 32) (dfield c.desc 48 0 32)

/-- The tag span that KEY_CTL BIND names. -/
def bindSpan : List Nat := if dfield c.desc 32 9 2 = 1 then (List.range (ceilDiv (dfield c.desc 44 0 32) 16)).map (dfield c.desc 48 0 32 + ·) else []

/-- The range that KEY_CTL BIND names. -/
def bindRange : List Nat := (List.range (dfield c.desc 44 0 32)).map (dfield c.desc 40 0 32 + ·)

/-- A page is of another slot's, or is named twice. -/
def Die.bindTaken (p : Nat) : Bool := (d.rangeSlot p).isSome || (d.spanSlot p).isSome || (decide (p ∈ bindRange c) && decide (p ∈ bindSpan c))

theorem Die.keyBound_wrongState (h : d.slotState (dfield c.desc 8 0 6) ≠ 0 ∨ d.sliceState (dfield c.desc 32 0 9) ∉ ([1, 2, 4] : List Nat)) :
    d.keyBound e c = d.opRefused c Why.WRONG_STATE 0 := by
  unfold Die.keyBound Die.keyBoundAs
  refine if_pos (h.imp id (fun hnot => ?_))
  rw [Bool.not_eq_true', Bool.eq_false_iff]
  exact fun hin => hnot ((inState_iff d _).1 hin)

variable (hslot : d.slotState (dfield c.desc 8 0 6) = 0) (hslice : d.sliceState (dfield c.desc 32 0 9) ∈ ([1, 2, 4] : List Nat))
include hslot hslice

theorem Die.keyBound_rightState : d.keyBound e c =
    match (bindPages c).find? (fun p => !(d.present e p) || !(d.ownedBy p (dfield c.desc 32 0 9))) with
    | some p => d.opRefused c Why.NOT_OWNER p
    | none => match (bindPages c).find? (d.bindTaken c) with
      | some p => d.opRefused c Why.KEY_BOUND p
      | none => match (bindPages c).find? (fun p => decide (stackOf p ≠ stackOf (dfield c.desc 40 0 32))) with
        | some p => d.opRefused c Why.SPAN p
        | none =>
          if !d.maySeal then d.opRefused c Why.LIFE_CYCLE 0
          else d.startBind e (dfield c.desc 8 0 6) (dfield c.desc 32 9 2) (dfield c.desc 32 0 9) (dfield c.desc 40 0 32) (dfield c.desc 44 0 32) (dfield c.desc 48 0 32) (some c.id) := by
  unfold Die.keyBound Die.keyBoundAs
  refine (if_neg ?_).trans rfl
  rw [(inState_iff d _).2 hslice, hslot]
  simp

theorem Die.keyBound_notOwner (h : ¬ ∀ p ∈ bindPages c, d.present e p = true ∧ d.ownedBy p (dfield c.desc 32 0 9) = true) :
    ∃ p ∈ bindPages c, (d.present e p = false ∨ d.ownedBy p (dfield c.desc 32 0 9) = false) ∧ d.keyBound e c = d.opRefused c Why.NOT_OWNER p := by
  rw [d.keyBound_rightState e c hslot hslice]
  cases hfind : (bindPages c).find? (fun p => !(d.present e p) || !(d.ownedBy p (dfield c.desc 32 0 9))) with
  | none =>
    refine absurd (fun p hp => ?_) h
    have := List.find?_eq_none.1 hfind p hp
    simpa using this
  | some p =>
    refine ⟨p, List.mem_of_find?_eq_some hfind, ?_, rfl⟩
    have := List.find?_some hfind
    simpa using this

variable (howned : ∀ p ∈ bindPages c, d.present e p = true ∧ d.ownedBy p (dfield c.desc 32 0 9) = true)
include howned

theorem Die.keyBound_owned : d.keyBound e c =
    match (bindPages c).find? (d.bindTaken c) with
      | some p => d.opRefused c Why.KEY_BOUND p
      | none => match (bindPages c).find? (fun p => decide (stackOf p ≠ stackOf (dfield c.desc 40 0 32))) with
        | some p => d.opRefused c Why.SPAN p
        | none =>
          if !d.maySeal then d.opRefused c Why.LIFE_CYCLE 0
          else d.startBind e (dfield c.desc 8 0 6) (dfield c.desc 32 9 2) (dfield c.desc 32 0 9) (dfield c.desc 40 0 32) (dfield c.desc 44 0 32) (dfield c.desc 48 0 32) (some c.id) := by
  have hfind : (bindPages c).find? (fun p => !(d.present e p) || !(d.ownedBy p (dfield c.desc 32 0 9))) = none :=
    List.find?_eq_none.2 (fun p hp => by simp [howned p hp])
  rw [d.keyBound_rightState e c hslot hslice, hfind]

theorem Die.keyBound_taken (h : ¬ ∀ p ∈ bindPages c, d.rangeSlot p = none ∧ d.spanSlot p = none ∧ ¬ (p ∈ bindRange c ∧ p ∈ bindSpan c)) :
    ∃ p ∈ bindPages c, d.keyBound e c = d.opRefused c Why.KEY_BOUND p := by
  rw [d.keyBound_owned e c hslot hslice howned]
  cases hfind : (bindPages c).find? (d.bindTaken c) with
  | none =>
    refine absurd (fun p hp => ?_) h
    have := List.find?_eq_none.1 hfind p hp
    unfold Die.bindTaken at this
    simpa [and_assoc] using this
  | some p => exact ⟨p, List.mem_of_find?_eq_some hfind, rfl⟩

theorem Die.keyBound_free (hfree : ∀ p ∈ bindPages c, d.rangeSlot p = none ∧ d.spanSlot p = none ∧ ¬ (p ∈ bindRange c ∧ p ∈ bindSpan c))
    (hstack : ∀ p ∈ bindPages c, stackOf p = stackOf (dfield c.desc 40 0 32)) : d.keyBound e c =
      if !d.maySeal then d.opRefused c Why.LIFE_CYCLE 0
      else d.startBind e (dfield c.desc 8 0 6) (dfield c.desc 32 9 2) (dfield c.desc 32 0 9) (dfield c.desc 40 0 32) (dfield c.desc 44 0 32) (dfield c.desc 48 0 32) (some c.id) := by
  have htaken : (bindPages c).find? (d.bindTaken c) = none := List.find?_eq_none.2 (fun p hp => by
    obtain ⟨hrange, hspan, hboth⟩ := hfree p hp
    unfold Die.bindTaken
    rw [hrange, hspan]
    simpa using hboth)
  have hspan : (bindPages c).find? (fun p => decide (stackOf p ≠ stackOf (dfield c.desc 40 0 32))) = none := List.find?_eq_none.2 (fun p hp => by simp [hstack p hp])
  rw [d.keyBound_owned e c hslot hslice howned, htaken]
  dsimp only
  rw [hspan]

end

/-! ### RETIRE begins -/

/-- What KEY_CTL RETIRE does in the die in which it acts, for the command `id`. -/
def Die.keyRetiredAs (e : Env) (d : Die) (c : Cmd) (id : Nat) : Die :=
  let k := dfield c.desc 8 0 6
  if d.slotState k ≠ 2 ∨ d.sliceState (d.getF F.SE_SLOT.SLICE k) = 5 then d.opRefused c Why.WRONG_STATE 0
  else d.startRetire e k (some id)

theorem exec_keyRetire {s : State} {id : Nat} {c : Cmd} {d : Die} (h : Acting s id Op.KEY_CTL c d) (harg : c.arg0 = 1) (hops : ∀ x ∈ s.d.se.ops, x.2 ≠ some id) :
    exec (.keyRetire id) s = .next (actsTo s id c (d.keyRetiredAs s.env c id)) := by
  have hexec : exec (.keyRetire id) s = s.go (s.d.start s.env id Op.KEY_CTL (fun c => decide (c.arg0 = 1)) (fun c d => d.keyRetiredAs s.env c id)) := by
    change execKeyRetire id s = _
    unfold execKeyRetire
    dsimp only
    rw [no_op hops] <;> rfl
  exact exec_of_start h hexec (fun x hdesc _ => mapWindow_sub harg x hdesc)

theorem Die.startRetire_spec (e : Env) (d : Die) (k : Nat) (cmd : Option Nat) :
    ∃ d₁ : Die, d.startRetire e k cmd = (d₁.startFlush e (.slot k) (.retire k)).wake e (d.getF F.SE_SLOT.STACK k) ∧ d₁.slotState k = 3 ∧
      d₁.se.ops = d.se.ops ++ [(k, cmd)] ∧ keepsRegs d d₁ [.SE_SLOT] := by
  have hset : Within { regs := [.SE_SLOT] } d (d.setF F.SE_SLOT.STATE k 3) := Die.setF_within d F.SE_SLOT.STATE k 3
  have hstate : (d.setF F.SE_SLOT.STATE k 3).getF F.SE_SLOT.STATE k = 3 := (Die.getF_setF_same _ _ _ _ (Nat.le_of_ble_eq_true rfl)).trans rfl
  have hstack : ((d.setF F.SE_SLOT.STATE k 3).addOp k cmd).getF F.SE_SLOT.STACK k = d.getF F.SE_SLOT.STACK k := Die.getF_setF_apart d F.SE_SLOT.STATE F.SE_SLOT.STACK k 3 rfl
  obtain ⟨hops, hkeeps, -⟩ := Die.addOp_spec (k := k) cmd hset
  refine ⟨(d.setF F.SE_SLOT.STATE k 3).addOp k cmd, ?_, hstate, hops, hkeeps⟩
  rw [← hstack]
  rfl

/-! ### The operation goes on (R349, R350) -/

theorem Die.chargeBulk_within (e : Env) (d : Die) (n bytes : Nat) : Within { regs := monRegs, mem := true, ch := true } d (d.chargeBulk e n bytes) := by
  unfold Die.chargeBulk
  extract_lets pcs d₁
  have h₁ : Within { ch := true } d d₁ := .foldl _ (fun d i => Die.count_within d _ _) _ _
  exact ((h₁.mono.trans ((Die.count_within d₁ _ _).trans (Die.count_within _ 6 bytes))).trans (Die.monitor_within _ e 2 n _ _).mono).trans (Die.chargeMaint_within e _ n bytes).mono

theorem Die.nullPage_within (e : Env) (d : Die) (p : Nat) : Within { regs := monRegs, mem := true, ch := true } d (d.nullPage e p) := by
  unfold Die.nullPage
  extract_lets n key0 inMap src d₁
  have h₁ : Within { mem := true } d d₁ := Die.setMemRest_within d _ rfl rfl
  exact h₁.mono.trans (d₁.chargeBulk_within e n _)

/-- What the end of a BIND leaves: the slot BOUND, with fresh keys. -/
theorem Die.endBind_spec (e : Env) (d : Die) {k : Nat} (hflush : d.flushRuns (.bind k) = false) (hready : d.bit F.MC_STATUS.NMAP_READY (d.getF F.SE_SLOT.STACK k) = true)
    (hretr : d.getF F.SE_SLOT.STACK k ∉ d.mem.retr) (hrun : d.running (d.getF F.SE_SLOT.STACK k) = true) :
    ∃ d₁ : Die, d.endBind e k = (true, d₁) ∧ d₁.slotState k = 2 ∧ (Tab.get none d₁.se.keys k).isSome = true ∧ d₁.se.ops = d.se.ops.filter (fun x => decide (x.1 ≠ k)) ∧
      d₁.mem.dram = d.mem.dram := by
  unfold Die.endBind
  extract_lets n k1 d₁ k2 d₂ k3 src d₃ first d₄ d₅ src'
  rw [if_neg (by rw [hflush, hready]; simpa using hretr), if_neg (by rw [hrun]; simp)]
  have hkeys : (Tab.get none d₃.se.keys k).isSome = true := by
    rw [show d₃.se.keys = Tab.set none d.se.keys k (some ⟨k1, k2, k3⟩) from rfl, Tab.get_set_same none _ k _]
    rfl
  have hops : d₃.se.ops = d.se.ops := rfl
  have hdram : d₃.mem.dram = d.mem.dram := rfl
  clear_value d₃
  have hnull : Within { regs := monRegs, mem := true, ch := true } d₃ d₄ := .foldl _ (fun d p => d.nullPage_within e p) _ _
  clear_value d₄
  have hset : Within { regs := [.SE_SLOT] } d₄ d₅ := Die.setF_within d₄ F.SE_SLOT.STATE k 2
  have hstate : d₅.getF F.SE_SLOT.STATE k = 2 := (Die.getF_setF_same _ _ _ _ (Nat.le_of_ble_eq_true rfl)).trans rfl
  have hkeys' : src'.keys = d₃.se.keys := congrArg SealSt.keys (hset.se.trans hnull.se)
  clear_value src' d₅
  refine ⟨_, rfl, hstate, ?_, ?_, (hset.dram.trans hnull.dram).trans hdram⟩
  · dsimp only
    rw [hkeys']
    exact hkeys
  · dsimp only
    rw [hnull.se, hops]

theorem Die.endBind_flushing (e : Env) {d : Die} {k : Nat} (hflush : d.flushRuns (.bind k) = true) : d.endBind e k = (false, d) := by
  unfold Die.endBind
  exact if_pos (.inl hflush)

/-- What the end of a RETIRE leaves: the slot EMPTY, one generation later, its keys erased. -/
theorem Die.endRetire_spec (e : Env) {d d' : Die} {k : Nat} (hflush : d.flushRuns (.retire k) = false)
    (hact : attempt e d .other (((d.mem.tagc.map Prod.fst).filter (fun l => d.inSpan k (pageOfLine l))).forM tagEvict) = .ok () d') :
    ∃ d₁ : Die, d.endRetire e k = (true, d₁) ∧ d₁.slotState k = 0 ∧ d₁.getF F.SE_SLOT.GENERATION k = (d'.getF F.SE_SLOT.GENERATION k + 1) % 2 ^ 16 ∧
      Tab.get none d₁.se.keys k = none ∧ d₁.mem = d'.mem := by
  unfold Die.endRetire
  rw [hflush, if_neg Bool.false_ne_true]
  dsimp only
  rw [hact]
  dsimp only
  have hin : Within { regs := [.SE_SLOT] } d' ((d'.clearElem .SE_SLOT k).setF F.SE_SLOT.GENERATION k (d'.getF F.SE_SLOT.GENERATION k + 1)) :=
    (Die.clearElem_within d' .SE_SLOT k).trans (Die.setF_within _ F.SE_SLOT.GENERATION k _)
  have hstate := d'.slotState_cleared k (d'.getF F.SE_SLOT.GENERATION k + 1)
  have hgen : ((d'.clearElem .SE_SLOT k).setF F.SE_SLOT.GENERATION k (d'.getF F.SE_SLOT.GENERATION k + 1)).getF F.SE_SLOT.GENERATION k =
      (d'.getF F.SE_SLOT.GENERATION k + 1) % 2 ^ 16 := Die.getF_setF_same _ _ _ _ (Nat.le_of_ble_eq_true rfl)
  generalize (d'.clearElem .SE_SLOT k).setF F.SE_SLOT.GENERATION k (d'.getF F.SE_SLOT.GENERATION k + 1) = y at hin hstate hgen ⊢
  refine ⟨_, rfl, hstate, hgen, ?_, hin.mem⟩
  exact Tab.get_set_same none _ k none

/-- The command whose slot's operation has ended. -/
def Die.keyEnds (e : Env) (d : Die) (id : Nat) : Die :=
  match d.cmd id with
  | some c => d.opDone e c 0
  | none => d

theorem Die.keyGo_of_ops {e : Env} {d : Die} {k id : Nat} (hops : d.se.ops = [(k, some id)]) : d.keyGo e k =
    (let r := if d.getF F.SE_SLOT.STATE k = 1 then d.endBind e k else d.endRetire e k
     if r.1 then r.2.keyEnds e id else r.2) := by
  unfold Die.keyGo
  rw [hops]
  simp only [List.find?_cons, decide_true]
  rfl

theorem Die.keyGo_binds {e : Env} {d d₁ : Die} {k id : Nat} {b : Bool} (hops : d.se.ops = [(k, some id)]) (hstate : d.slotState k = 1) (hend : d.endBind e k = (b, d₁)) :
    d.keyGo e k = if b then d₁.keyEnds e id else d₁ := by
  rw [Die.keyGo_of_ops hops, show d.getF F.SE_SLOT.STATE k = 1 from hstate]
  dsimp only
  rw [if_pos rfl, hend]

theorem Die.keyGo_retires {e : Env} {d d₁ : Die} {k id : Nat} {b : Bool} (hops : d.se.ops = [(k, some id)]) (hstate : d.slotState k = 3) (hend : d.endRetire e k = (b, d₁)) :
    d.keyGo e k = if b then d₁.keyEnds e id else d₁ := by
  have hne : ¬ (3 : Nat) = 1 := by decide
  rw [Die.keyGo_of_ops hops, show d.getF F.SE_SLOT.STATE k = 3 from hstate]
  dsimp only
  rw [if_neg hne, hend]

theorem exec_keyBind_goes {s : State} {id k : Nat} (hops : s.d.se.ops = [(k, some id)]) (hstate : s.d.slotState k = 1) :
    exec (.keyBind id) s = s.go ((s.d.keyGo s.env k).pump s.env) := by
  have hfind : s.d.se.ops.find? (fun x => decide (x.2 = some id) && decide (s.d.slotState x.1 = 1)) = some (k, some id) := by
    rw [hops, List.find?_cons, hstate] <;> simp
  change execKeyBind id s = _
  unfold execKeyBind
  dsimp only
  rw [hfind]

theorem exec_keyRetire_goes {s : State} {id k : Nat} (hops : s.d.se.ops = [(k, some id)]) (hstate : s.d.slotState k = 3) :
    exec (.keyRetire id) s = s.go ((s.d.keyGo s.env k).pump s.env) := by
  have hfind : s.d.se.ops.find? (fun x => decide (x.2 = some id) && decide (s.d.slotState x.1 = 3)) = some (k, some id) := by
    rw [hops, List.find?_cons, hstate] <;> simp
  change execKeyRetire id s = _
  unfold execKeyRetire
  dsimp only
  rw [hfind]

/-! ### The firmware slot (R352) -/

theorem barGate_slot0 (e : Env) (d : Die) : d.barGate e .steward .SE_SLOT0 0 = if e.fwSeal then some d else none := by
  unfold Die.barGate
  dsimp only
  cases e.fwSeal <;> rfl

theorem exec_slot0Bind_open {s : State} (hopen : s.env.fwSeal = false) (v : Word) : exec (.slot0Bind .steward v) s =
    if fieldOf v 49 1 = 0 then .next { s with env := { s.env with slot0 := Reg.writeWord .SE_SLOT0 0 s.env.fwSeal s.env.slot0 v v } }
    else if s.d.slot0Ok s.env v then
      .next { s with env := { s.env with slot0 := Reg.writeWord .SE_SLOT0 0 s.env.fwSeal s.env.slot0 v v },
                     d := s.d.startBind s.env 0 (fieldOf v 32 2) 0 (fieldOf v 0 15) (fieldOf v 16 15) (if fieldOf v 32 2 = 1 then fieldOf v 34 15 else 0) none }
    else .next { s with d := s.d.reject F.SE_ERR.CFG_REJECT 0 } := by
  change execSlot0Bind .steward v s = _
  unfold execSlot0Bind
  dsimp only
  rw [barGate_slot0, if_neg (by rw [hopen]; exact Bool.false_ne_true)] <;> rfl

theorem exec_slot0Bind_sealed {s : State} (hseal : s.env.fwSeal = true) (v : Word) : exec (.slot0Bind .steward v) s = .next { s with d := s.d.reject F.SE_ERR.CFG_REJECT 0 } := by
  change execSlot0Bind .steward v s = _
  unfold execSlot0Bind
  dsimp only
  rw [barGate_slot0, if_pos hseal]
  exact if_pos ⟨hseal, .inl rfl⟩

/-- Before firmware seal SE_SLOT0 takes every field of the written word. -/
theorem fieldOf_slot0 (old v : Word) (f : Fld) (hf : f ∈ Reg.fields .SE_SLOT0) : fieldOf (Reg.writeWord .SE_SLOT0 0 false old v v) f.lo f.width = fieldOf v f.lo f.width := by
  have hacc : ∀ f ∈ Reg.fields .SE_SLOT0, f.word = 0 ∧ f.acc = .RWL := by decide
  obtain ⟨hword, hrwl⟩ := hacc f hf
  have h := Reg.fieldOf_writeWord .SE_SLOT0 false old v v f hf
  unfold Fld.written at h
  rw [hword, hrwl] at h
  exact h

/-- Settles O55. -/
theorem keySlotsAreBoundAndRetired : Obligations.KeySlotsAreBoundAndRetired := by
  unfold Obligations.KeySlotsAreBoundAndRetired
  refine ⟨fun s id c d h => ⟨fun harg hops => ?_, fun harg hops => ?_⟩, fun s id k d hops => ⟨fun hstate hflush => ?_, fun hstate hflush hready hretr hrun => ?_, fun hstate hflush hact => ?_⟩,
    fun s v => ⟨fun hopen hoff => ?_, fun hopen hon hok => ?_, fun hrej => ?_⟩⟩
  · rw [exec_keyBind h harg hops]
    refine ⟨fun hslot hslice howned hfree hstack hlc => ?_, fun hbad => ?_, fun hslot hslice hnot => ?_, fun hslot hslice howned hnot => ?_, fun hslot hslice howned hfree hstack hlc => ?_⟩
    · have hbound := d.keyBound_free s.env c hslot hslice howned hfree hstack
      rw [if_neg (by unfold Die.maySeal; simpa using hlc)] at hbound
      obtain ⟨d₂, hstart, hin, hstate, hclass, hsl, hfirst, hcount⟩ := d.startBind_spec s.env (k := dfield c.desc 8 0 6) (dfield c.desc 40 0 32) (dfield c.desc 44 0 32) (dfield c.desc 48 0 32)
        (some c.id) (dfield_lt c.desc 32 9 2) (dfield_lt c.desc 32 0 9)
      obtain ⟨hops', hkeeps, hgetF⟩ := Die.addOp_spec (k := dfield c.desc 8 0 6) (some c.id) hin
      rw [h.id] at hbound hstart hops' hkeeps hgetF
      refine ⟨d₂.addOp (dfield c.desc 8 0 6) (some id), by rw [hbound, hstart]; rfl, ?_, ?_, ?_, ?_, ?_, hops', hkeeps⟩
      · exact (hgetF F.SE_SLOT.STATE _).trans hstate
      · exact (hgetF F.SE_SLOT.CLASS _).trans hclass
      · exact (hgetF F.SE_SLOT.SLICE _).trans hsl
      · exact (hgetF F.SE_SLOT.FIRST_PAGE _).trans hfirst
      · exact (hgetF F.SE_SLOT.COUNT _).trans hcount
    · rw [d.keyBound_wrongState s.env c hbad]
    · obtain ⟨p, hp, hwhy, hbound⟩ := d.keyBound_notOwner s.env c hslot hslice hnot
      exact ⟨p, hp, hwhy, by rw [hbound]⟩
    · obtain ⟨p, hp, hbound⟩ := d.keyBound_taken s.env c hslot hslice howned hnot
      exact ⟨p, hp, by rw [hbound]⟩
    · rw [d.keyBound_free s.env c hslot hslice howned hfree hstack, if_pos (by unfold Die.maySeal; simpa using hlc)]
  · rw [exec_keyRetire h harg hops]
    unfold Die.keyRetiredAs
    refine ⟨fun hslot hslice => ?_, fun hbad => ?_⟩
    · obtain ⟨d₁, hstart, hstate, hops', hkeeps⟩ := d.startRetire_spec s.env (dfield c.desc 8 0 6) (some id)
      refine ⟨d₁, ?_, hstate, hops', hkeeps⟩
      rw [← hstart]
      exact congrArg (fun y => Host.Outcome.next (actsTo s id c y)) (if_neg (fun hnot => hnot.elim (fun hne => hne hslot) hslice))
    · exact congrArg (fun y => Host.Outcome.next (actsTo s id c y)) (if_pos hbad)
  · rw [exec_keyBind_goes hops hstate, Die.keyGo_binds hops hstate (Die.endBind_flushing s.env hflush), if_neg Bool.false_ne_true]
    rfl
  · obtain ⟨d₁, hend, hslot, hkeys, hops', hdram⟩ := s.d.endBind_spec s.env hflush hready hretr hrun
    refine ⟨d₁, ?_, hslot, hkeys, by rw [hops', hops]; simp, hdram⟩
    rw [exec_keyBind_goes hops hstate, Die.keyGo_binds hops hstate hend, if_pos rfl]
    rfl
  · obtain ⟨d₁, hend, hslot, hgen, hkeys, hmem⟩ := Die.endRetire_spec s.env hflush hact
    refine ⟨d₁, ?_, hslot, hgen, hkeys, hmem⟩
    rw [exec_keyRetire_goes hops hstate, Die.keyGo_retires hops hstate hend, if_pos rfl]
    rfl
  · have hexec := exec_slot0Bind_open hopen v
    rw [if_pos hoff, hopen] at hexec
    refine ⟨_, hexec, rfl, fieldOf_slot0 _ v F.SE_SLOT0.FIRST_PAGE (by decide), fieldOf_slot0 _ v F.SE_SLOT0.COUNT (by decide), fieldOf_slot0 _ v F.SE_SLOT0.CLASS (by decide),
      fieldOf_slot0 _ v F.SE_SLOT0.TAG_PAGE (by decide), (fieldOf_slot0 _ v F.SE_SLOT0.ENABLE (by decide)).trans hoff⟩
  · have hexec := exec_slot0Bind_open hopen v
    rw [if_neg (by rw [hon]; decide), if_pos hok, hopen] at hexec
    exact ⟨_, hexec, fun hcls => if_pos hcls⟩
  · cases hseal : s.env.fwSeal with
    | true => exact exec_slot0Bind_sealed hseal v
    | false =>
      obtain ⟨hon, hno⟩ := hrej.resolve_left (by rw [hseal]; exact Bool.false_ne_true)
      rw [exec_slot0Bind_open hseal v, if_neg (by rw [hon]; decide), if_neg (by rw [hno]; exact Bool.false_ne_true)]

end Sys2Proof.Machine
end

section
/-! PROOF. O41 is refuted: where the table of access counters lists a later page before an earlier one, the first of two halvings that are
due lists the earlier page a second time, and the second halves its counters twice. -/

-- One proof after another: all at once, they ask for more threads than the check's memory limit admits.
set_option Elab.async false

namespace Sys2Proof.Machine

/-- Two halvings are due of the counters of pages 1 and 0, both 16, listed in that order. -/
def countsOutOfOrder : State :=
  { State.reset with d := { State.reset.d with regs := [(Reg.STU_ACNT.ctorIdx, [(8, 16), (0, 16)])], stu := { State.reset.d.stu with decayDue := 2 } } }

theorem countsOutOfOrder_listed : ((Tab.get [] countsOutOfOrder.d.regs Reg.STU_ACNT.ctorIdx).map (fun x => x.1 / 8)).Nodup := by decide +kernel

/-- The die after the halvings that are due. -/
def Die.halved (d : Die) : Die := (List.range (min 16 d.stu.decayDue)).foldl (fun d _ => d.decay) d

theorem exec_acntDecay_due {s : State} (hdue : s.d.stu.decayDue ≠ 0) : exec .acntDecay s = .next { s with d := { s.d.halved with stu := { s.d.halved.stu with decayDue := 0 } } } := by
  change s.go (if s.d.stu.decayDue = 0 then s.d else _) = _
  rw [if_neg hdue]
  rfl

theorem acntDecay_getF {s t : State} (hdue : s.d.stu.decayDue ≠ 0) (hexec : exec .acntDecay s = .next t) (f : Fld) (i : Nat) : t.d.getF f i = s.d.halved.getF f i := by
  rw [exec_acntDecay_due hdue] at hexec
  rw [← Host.Outcome.next.inj hexec]
  rfl

theorem countsOutOfOrder_halved : countsOutOfOrder.d.halved.getF F.STU_ACNT.LOCAL 0 = 2 := by decide +kernel

/-- Refutes O41: of two halvings that are due, the second halves the counters of page 0 twice, and 16 falls to 2, not to 4. -/
theorem not_faultedContextsAndFaultRingsFollowTheirRules : ¬ Obligations.FaultedContextsAndFaultRingsFollowTheirRules := by
  unfold Obligations.FaultedContextsAndFaultRingsFollowTheirRules
  intro h
  obtain ⟨-, -, -, -, hdecay⟩ := h
  obtain ⟨t, hexec, -, -, -, -, hhalved⟩ := (hdecay countsOutOfOrder).1 (by decide +kernel)
  obtain ⟨-, heq⟩ := hhalved F.STU_ACNT.LOCAL (by decide) 0
  have htwo : t.d.getF F.STU_ACNT.LOCAL 0 = 2 := (acntDecay_getF (by decide +kernel) hexec F.STU_ACNT.LOCAL 0).trans countsOutOfOrder_halved
  have hfour : t.d.getF F.STU_ACNT.LOCAL 0 = 4 := (heq countsOutOfOrder_listed).trans (by decide +kernel)
  exact absurd (htwo.symm.trans hfour) (by decide)

end Sys2Proof.Machine
end

section
/-! PROOF. What an access answers, and the tiles that DMEs issue for their commands (O32). -/

-- One proof after another: all at once, they ask for more threads than the check's memory limit admits.
set_option Elab.async false

namespace Sys2Proof.Machine

/-! ### What an access answers -/

/-- Whatever an access answers, where it answers, keeps to `P`. -/
def Act.Yields {α : Type} (a : Act α) (P : α → Prop) : Prop := ∀ e d x, (a.go e d).1 = .ok x → P x

theorem Act.go_bind {α β : Type} (a : Act α) (f : α → Act β) (e : Env) (d : Die) :
    (a >>= f).go e d = match a.go e d with
      | (.ok x, d₁) => (f x).go e d₁
      | (.error r, d₁) => (.error r, d₁) := by
  have hrun : (a >>= f).go e d = ExceptT.bindCont (fun x => ((f x).run e)) (a.go e d).1 (a.go e d).2 := rfl
  rw [hrun]
  rcases a.go e d with ⟨_ | x, d₁⟩ <;> rfl

theorem Act.Yields.pure {α : Type} {P : α → Prop} {x : α} (h : P x) : Act.Yields (Pure.pure x : Act α) P := by
  intro e d y hy
  cases hy
  exact h

theorem Act.Yields.bind {α β : Type} {P : β → Prop} {a : Act α} {f : α → Act β} (h : ∀ x, (f x).Yields P) : (a >>= f).Yields P := by
  intro e d y hy
  rw [Act.go_bind] at hy
  rcases hgo : a.go e d with ⟨_ | x, d₁⟩ <;> rw [hgo] at hy
  · cases hy
  · exact h x e d₁ y hy

/-- An access that answers has run to its end; its fetched data is forgotten. -/
theorem attempt_ok {α : Type} {e : Env} {d d' : Die} {use : Use} {a : Act α} {x : α} (h : attempt e d use a = .ok x d') :
    ∃ r, a.go e (d.settleAll e) = (.ok x, r) ∧ d' = r.forget use := by
  unfold attempt at h
  dsimp only at h
  rcases hgo : a.go e (d.settleAll e) with ⟨f | y, r⟩ <;> rw [hgo] at h <;> dsimp only at h
  · split at h
    · cases h
    · rcases f <;> cases h
  · split at h
    · cases h
    · cases h
      exact ⟨r, rfl, rfl⟩

theorem Act.Yields.attempt {α : Type} {P : α → Prop} {a : Act α} (ha : a.Yields P) {e : Env} {d d' : Die} {use : Use} {x : α}
    (h : attempt e d use a = .ok x d') : P x := by
  obtain ⟨r, hgo, -⟩ := attempt_ok h
  exact ha e _ x (congrArg Prod.fst hgo)

/-! ### The tile of a command by its opcode -/

theorem tileOf_copy {n : Nat} {c : Cmd} (h : c.op = Op.COPY) : tileOf n c = copyTile n c := if_pos h

theorem tileOf_fill {n : Nat} {c : Cmd} (h : c.op = Op.FILL) : tileOf n c = fillTile n c := by
  unfold tileOf
  rw [h]
  rfl

theorem tileOf_gather {n : Nat} {c : Cmd} (h : c.op = Op.GATHER) : tileOf n c = rowTile n c true := by
  unfold tileOf
  rw [h]
  rfl

theorem tileOf_scatter {n : Nat} {c : Cmd} (h : c.op = Op.SCATTER) : tileOf n c = rowTile n c false := by
  unfold tileOf
  rw [h]
  rfl

theorem tileOf_reduce {n : Nat} {c : Cmd} (h : c.op = Op.REDUCE) : tileOf n c = reduceTile n c := by
  unfold tileOf
  rw [h]
  rfl

theorem tileOf_reduceScatter {n : Nat} {c : Cmd} (h : c.op = Op.REDUCE_SCATTER) : tileOf n c = scatterTile n c := by
  unfold tileOf
  rw [h]
  rfl

/-! ### What a tile answers -/

theorem copyTile_yields (n : Nat) (c : Cmd) : (copyTile n c).Yields (fun x =>
    x.1 = { c with tile := c.tile + min (2 ^ 18) (c.q 24 - c.tile), result := c.q 24 } ∧ (x.2 = true ↔ x.1.tile = c.q 24)) :=
  .bind fun _ => .pure ⟨rfl, decide_eq_true_iff⟩

theorem fillTile_yields (n : Nat) (c : Cmd) : (fillTile n c).Yields (fun x =>
    x.1 = { c with tile := c.tile + min (2 ^ 18) (c.q 16 - c.tile), result := c.q 16 } ∧ (x.2 = true ↔ x.1.tile = c.q 16)) :=
  .bind fun _ => .bind fun _ => .bind fun _ => .bind fun _ => .pure ⟨rfl, decide_eq_true_iff⟩

theorem rowTile_yields (n : Nat) (c : Cmd) (gather : Bool) : (rowTile n c gather).Yields (fun x =>
    x.1.tile = c.tile + 1 ∧ x.1.result = c.w 28 ∧ (x.2 = true ↔ c.tile + 1 = c.w 28)) :=
  .bind fun _ => .bind fun _ => .bind fun _ => .pure ⟨rfl, rfl, decide_eq_true_iff⟩

theorem reduceTile_yields (n : Nat) (c : Cmd) : (reduceTile n c).Yields (fun x => x.1.result = c.q 24 ∧ (x.2 = true ↔ x.1.tile = c.q 24)) :=
  .bind fun _ => .bind fun _ => .bind fun _ => .bind fun _ => .bind fun _ => .bind fun _ => .bind fun _ => .pure ⟨rfl, decide_eq_true_iff⟩

theorem scatterTile_yields (n : Nat) (c : Cmd) : (scatterTile n c).Yields (fun x => x.2 = true → x.1.result = x.1.acc) := by
  unfold scatterTile
  dsimp only
  refine .bind fun g => .bind fun idx => ?_
  split
  · exact .pure fun _ => rfl
  · split
    · refine .bind fun _ => .bind fun _ => .bind fun _ => .bind fun _ => .bind fun _ => .bind fun _ => .pure fun _ => ?_
      split <;> rfl
    · refine .bind fun d => ?_
      split
      · refine .bind fun _ => .bind fun _ => .bind fun _ => ?_
        split
        · exact .bind fun _ => .pure fun h => nomatch h
        · exact .bind fun _ => .pure fun h => nomatch h
      · refine .bind fun _ => .bind fun _ => ?_
        split
        · refine .bind fun _ => .bind fun _ => .bind fun _ => .bind fun _ => .pure fun _ => ?_
          split <;> rfl
        · refine .bind fun _ => .bind fun _ => .pure fun _ => ?_
          split <;> rfl

/-! ### A tile that has been issued -/

theorem Die.served_within (d : Die) (n ctx : Nat) : Within { eng := true } d (d.served n ctx) := by
  unfold Die.served
  exact Die.setEng_within d _

theorem Die.served_jobs (d : Die) (n ctx : Nat) : (d.served n ctx).eng.jobs = d.eng.jobs := rfl

theorem Die.tileDone_more (e : Env) (d : Die) (n : Nat) (c : Cmd) :
    (d.tileDone e n c false).eng.jobs = d.eng.jobs.map (fun j => if j.cmd = c.id then { j with keyWait := false } else j) := by
  unfold Die.tileDone
  dsimp only
  rw [if_pos (by rfl), (Die.enginesPump_within _).eng]
  rfl

theorem Die.tileDone_last {e : Env} {d : Die} {n : Nat} {c x : Cmd} (hd : c.op ≠ Op.DISPATCH) (hc : c.op ≠ Op.COMBINE) (hcmd : d.cmd c.id = some x) :
    (d.tileDone e n c true).cmd c.id = some { c with st := .done, status := St.OK } ∧ ∀ j ∈ (d.tileDone e n c true).eng.jobs, j.cmd ≠ c.id := by
  unfold Die.tileDone
  dsimp only
  rw [if_neg (by decide), if_pos (by rw [decide_eq_false (not_or.2 ⟨hd, hc⟩)]; rfl)]
  generalize hz : ({ (d.served n c.ctx).setCmd c with eng.jobs := _ } : Die) = z
  have hset : z.cmd c.id = some c := by
    rw [← hz]
    exact Die.cmd_setCmd_same (d.served n c.ctx) c.id c x hcmd rfl
  have hjobs : ∀ j ∈ z.eng.jobs, j.cmd ≠ c.id := by
    rw [← hz]
    intro j hj
    exact of_decide_eq_true (List.mem_filter.1 hj).2
  have hend := ((Die.ctxPump_within (z.finish c.id St.OK c.result) c.ctx).trans (Die.enginesPump_within _))
  constructor
  · rw [Die.cmd_of_sf hend.sf, Die.finish_cmd z c.id St.OK c.result c hset]
  · rw [hend.eng, (Die.finish_within z c.id St.OK c.result (p := { sf := true })).eng]
    exact hjobs

theorem exec_dmeTile {s : State} {n : BitVec 6} {c : Cmd} {l : List Cmd} {x : Cmd × Bool} {d : Die} (hn : n.toNat < s.env.clusters)
    (hrun : s.d.running (n.toNat / 8) = true) (hl : s.d.serveOrder n.toNat (s.d.dmeCmds n.toNat) = c :: l)
    (h : attempt s.env s.d (.cmd c.id) (tileOf n.toNat c) = .ok x d) :
    exec (.dmeTile n) s = .next { s with d := d.tileDone s.env n.toNat x.1 x.2 } := by
  change execDmeTile n s = _
  unfold execDmeTile
  dsimp only
  rw [if_neg (by omega), hrun, hl]
  unfold Die.tryTiles
  rw [h]
  rfl

/-- Settles O32, by what the access of a tile answers for each opcode. -/
theorem tilesAreIssuedInTurnAndTheLastEndsTheCommand : Obligations.TilesAreIssuedInTurnAndTheLastEndsTheCommand := by
  unfold Obligations.TilesAreIssuedInTurnAndTheLastEndsTheCommand
  intro s n c l x d hn hrun hl h
  refine ⟨exec_dmeTile hn hrun hl h, fun hop => ?_, fun hop => ?_, fun hop => ?_, fun hop => ?_, fun hop => ?_, fun hmore => ?_, fun hlast hd hc hid hop hcmd => ?_⟩
  · exact (copyTile_yields n.toNat c).attempt (tileOf_copy hop ▸ h)
  · exact (fillTile_yields n.toNat c).attempt (tileOf_fill hop ▸ h)
  · rcases hop with hop | hop
    · exact (rowTile_yields n.toNat c true).attempt (tileOf_gather hop ▸ h)
    · exact (rowTile_yields n.toNat c false).attempt (tileOf_scatter hop ▸ h)
  · exact (reduceTile_yields n.toNat c).attempt (tileOf_reduce hop ▸ h)
  · exact (scatterTile_yields n.toNat c).attempt (tileOf_reduceScatter hop ▸ h)
  · rw [hmore, Die.tileDone_more, List.map_map]
    refine List.map_congr_left fun j _ => ?_
    dsimp only [Function.comp]
    split <;> rfl
  · obtain ⟨y, hy⟩ := Option.ne_none_iff_exists'.1 hcmd
    rw [← hop] at hd hc
    rw [← hid] at hy ⊢
    rw [hlast]
    obtain ⟨hdone, hjobs⟩ := Die.tileDone_last (e := s.env) (n := n.toNat) hd hc hy
    exact ⟨_, hdone, rfl, hjobs⟩

end Sys2Proof.Machine
end

section
/-! PROOF. Lead commands on their Sorters, the items that helpers take, and the keep-alives (O33). -/

-- One proof after another: all at once, they ask for more threads than the check's memory limit admits.
set_option Elab.async false

namespace Sys2Proof.Machine

/-! ### A lead command is placed -/

theorem Acting.st {s : State} {id op : Nat} {c : Cmd} {d : Die} (h : Acting s id op c d) : c.st = .running := by
  cases h with
  | running _ _ _ hst _ _ => exact hst
  | starting c _ _ _ => rfl

/-- A lead command that finds a Sorter joins its leads. -/
theorem Die.placeLead_leads {e : Env} {d : Die} {c : Cmd} {n : Nat} (h : leastOf (fun n => (d.leadsQueued n).length) (d.homeEngines e c.ctx 1) = some n) :
    (d.placeLead e c).eng.leads = d.eng.leads ++ [{ dme := n, cmd := c.id }] ∧ (d.placeLead e c).eng.jobs = d.eng.jobs := by
  unfold Die.placeLead
  rw [h]
  dsimp only
  generalize hz : ({ d.joins (64 + n) c.ctx (d.leadCmds n) with eng.leads := _ } : Die) = z
  rw [(Die.ctxPump_within (z.wake e n) c.ctx).eng, (Die.wake_within e z n).eng, ← hz]
  exact ⟨rfl, rfl⟩

theorem exec_leadPlaced {i : Instr} {s : State} {id op : Nat} {c : Cmd} {d : Die} {sub : Cmd → Bool} {run : Cmd → Die → Nat → Die} (h : Acting s id op c d)
    (hexec : exec i s = s.go (s.d.start s.env id op sub (fun c d => d.leadStep s.env c (run c))))
    (hsub : ∀ x : Cmd, x.desc = c.desc → x.aux = c.aux → sub x = true) (hlead : d.leadOf id = none) (haway : ¬ ∃ j ∈ d.eng.away, j.cmd = id)
    (hhome : d.homeEngines s.env c.ctx 1 ≠ []) :
    ∃ t n, exec i s = .next t ∧ n ∈ d.homeEngines s.env c.ctx 1 ∧ t.d.eng.leads = d.eng.leads ++ [{ dme := n, cmd := id }] ∧ t.d.eng.jobs = d.eng.jobs ∧
      t.env = s.env ∧
      ∀ m ∈ d.homeEngines s.env c.ctx 1, (d.leadsQueued n).length < (d.leadsQueued m).length ∨ ((d.leadsQueued n).length = (d.leadsQueued m).length ∧ n ≤ m) := by
  obtain ⟨n, hn, hmem, hleast⟩ := Die.leastOf_homeEngines s.env d c.ctx 1 (fun n => (d.leadsQueued n).length) hhome
  obtain ⟨hleads, hjobs⟩ := Die.placeLead_leads hn
  have hstep : d.leadStep s.env c (run c) = d.placeLead s.env c := by
    unfold Die.leadStep
    rw [h.id, hlead]
    refine if_neg (not_or.2 ⟨by rw [h.st]; decide, fun hany => haway ?_⟩)
    obtain ⟨j, hj, hid⟩ := List.any_eq_true.1 hany
    exact ⟨j, hj, of_decide_eq_true hid⟩
  refine ⟨_, n, exec_of_start h hexec hsub, hmem, ?_, ?_, (actsTo_env id c _).1, hleast⟩
  · rw [(actsTo_within h _).eng, hstep, hleads, h.id]
  · rw [(actsTo_within h _).eng, hstep, hjobs]

/-! ### A lead command ends -/

theorem Die.unplace_quiet (d : Die) (id : Nat) : Within { eng := true } d (d.unplace id false) := by
  unfold Die.unplace
  extract_lets t
  have ht : t = d := by
    unfold t
    split <;> rfl
  rw [ht]
  exact Die.setEng_within d _

theorem Die.unplace_leadOf (d : Die) (id : Nat) (stopped : Bool) : (d.unplace id stopped).leadOf id = none := by
  unfold Die.leadOf
  refine Option.map_eq_none_iff.2 (List.find?_eq_none.2 fun j hj => ?_)
  have hleads : (d.unplace id stopped).eng.leads = _ := rfl
  unfold Die.unplace at hj
  have := (List.mem_filter.1 hj).2
  simpa using this

theorem Die.leadOf_of_eng {d t : Die} (h : t.eng = d.eng) (id : Nat) : t.leadOf id = d.leadOf id := by
  unfold Die.leadOf
  rw [h]

/-- A lead command that ends is done, leaves its Sorter, and is counted there. -/
theorem Die.endLead_spec {d : Die} (n : Nat) {c x : Cmd} (hcmd : d.cmd c.id = some x) :
    (d.endLead n c c.result).cmd c.id = some { c with st := .done, status := St.OK } ∧ (d.endLead n c c.result).leadOf c.id = none ∧
      (d.endLead n c c.result).getF F.SO_COUNT.COMPLETED n = (d.getF F.SO_COUNT.COMPLETED n + 1) % 2 ^ F.SO_COUNT.COMPLETED.width ∧
      (d.endLead n c c.result).mem = d.mem := by
  unfold Die.endLead
  have hoff := Die.unplace_quiet d c.id
  have hlead := Die.unplace_leadOf d c.id false
  generalize d.unplace c.id false = d₁ at hoff hlead
  have hcount := Die.incWrap_within d₁ F.SO_COUNT.COMPLETED n 1 (p := { regs := [.SO_COUNT] })
  have hsame : (d₁.incWrap F.SO_COUNT.COMPLETED n 1).getF F.SO_COUNT.COMPLETED n = (d₁.getF F.SO_COUNT.COMPLETED n + 1) % 2 ^ F.SO_COUNT.COMPLETED.width :=
    Die.getF_setF_same d₁ F.SO_COUNT.COMPLETED n _ (by decide)
  generalize d₁.incWrap F.SO_COUNT.COMPLETED n 1 = d₂ at hcount hsame
  have hset : (d₂.setCmd c).cmd c.id = some c :=
    Die.cmd_setCmd_same d₂ c.id c x (by rw [Die.cmd_of_sf hcount.sf, Die.cmd_of_sf hoff.sf]; exact hcmd) rfl
  have hfin : Within { sf := true } d₂ ((d₂.setCmd c).finish c.id St.OK c.result) := (Die.setCmd_within d₂ c).trans (Die.finish_within _ _ _ _)
  have hdone := Die.finish_cmd (d₂.setCmd c) c.id St.OK c.result c hset
  generalize (d₂.setCmd c).finish c.id St.OK c.result = d₃ at hfin hdone
  have hend := (Die.ctxPump_within d₃ c.ctx).trans (Die.enginesPump_within _)
  refine ⟨?_, ?_, ?_, ?_⟩
  · rw [Die.cmd_of_sf hend.sf, hdone]
  · rw [Die.leadOf_of_eng hend.eng, Die.leadOf_of_eng hfin.eng, Die.leadOf_of_eng hcount.eng, hlead]
  · rw [hend.getF F.SO_COUNT.COMPLETED n, hfin.getF F.SO_COUNT.COMPLETED n, hsame, hoff.getF F.SO_COUNT.COMPLETED n]
  · rw [hend.mem, hfin.mem, hcount.mem, hoff.mem]

theorem exec_leadRuns {i : Instr} {s : State} {id op n : Nat} {c : Cmd} {d : Die} {sub : Cmd → Bool} {run : Cmd → Die → Nat → Die} (h : Acting s id op c d)
    (hexec : exec i s = s.go (s.d.start s.env id op sub (fun c d => d.leadStep s.env c (run c))))
    (hsub : ∀ x : Cmd, x.desc = c.desc → x.aux = c.aux → sub x = true) (hlead : d.leadOf id = some n) (hrun : d.running n = true)
    (htook : Tab.get none d.eng.running n = some id) : exec i s = .next (actsTo s id c (run c d n)) := by
  refine (exec_of_start h hexec hsub).trans ?_
  have hstep : d.leadStep s.env c (run c) = run c d n := by
    unfold Die.leadStep
    rw [h.id, hlead]
    dsimp only
    rw [hrun, htook]
    exact if_pos rfl
  rw [hstep]

theorem exec_dispatchRow {x : (Nat → Instr) × Mode} (hx : x ∈ dispatchRows) (id : Nat) (s : State) :
    exec (x.1 id) s = s.go (s.d.dispatchRow s.env id x.2) := by
  simp only [dispatchRows, List.mem_cons, List.not_mem_nil, or_false] at hx
  rcases hx with rfl | rfl | rfl | rfl <;> rfl

theorem Cmd.mode_of_desc {x c : Cmd} (h : x.desc = c.desc) : x.mode = c.mode := by
  unfold Cmd.mode Cmd.arg0
  rw [h]

/-- The last phase of a DISPATCH makes its last writes and ends it. -/
theorem Die.dispatchRun_last {e : Env} {d d' : Die} {n : Nat} {c : Cmd} {m : Mode} (hcmd : d.cmd c.id = some c) (haux : c.aux = 4)
    (hserves : d.serves c = true) (hlead : d.leadOf c.id = some n) (hparity : d.soParity e n c = none) (hbusy : d.winBusy (.cmd c.id) = false)
    (hlast : attempt e d (.cmd c.id) (lastWrites c n m) = .ok () d') (hstands : (d'.cmd c.id).isSome = true) :
    Die.dispatchRun e m 12 d n c.id = d'.endLead n c c.result := by
  have hphase : d.dispatchPhase e n c m = d'.endLead n c c.result := by
    unfold Die.dispatchPhase
    rw [if_neg (by omega), if_neg (by omega), if_neg (by omega), if_neg (by rw [hbusy]; decide), if_neg (by omega)]
    dsimp only
    rw [if_neg (by omega), if_pos haux]
    unfold Die.soAct
    rw [hlast]
  obtain ⟨x, hx⟩ := Option.isSome_iff_exists.1 hstands
  obtain ⟨hdone, -⟩ := Die.endLead_spec n hx
  unfold Die.dispatchRun
  rw [hcmd]
  dsimp only
  rw [if_pos ⟨hserves, hlead⟩, hparity]
  dsimp only
  rw [hphase, hdone]
  exact if_pos (.inr rfl)

/-- A COMBINE whose rows have all been issued ends. -/
theorem Die.combineRun_last {e : Env} {d : Die} {n : Nat} {c : Cmd} (hcmd : d.cmd c.id = some c) (haux : c.aux = 2)
    (hserves : d.serves c = true) (hlead : d.leadOf c.id = some n) (hparity : d.soParity e n c = none) (hnext : nextEntry c.sums c.tile c.acc = none) :
    d.combineRun e n c.id = d.endLead n c c.result := by
  unfold Die.combineRun
  rw [hcmd]
  dsimp only
  rw [if_neg (by rw [hserves, hlead]; simp), hparity]
  dsimp only
  rw [if_neg (by omega), if_pos haux, hnext]

/-! ### Items and keep-alives -/

/-- What the end of an item changes. -/
def itemTouch : Touch := { regs := [.SF_CTX_STATUS], eng := true, ch := true }

/-- The items of which item `i` of a command has ended on Sorter `n`. -/
def itemEnded (n id i : Nat) (l : List (Nat × Nat × Nat × Bool)) : List (Nat × Nat × Nat × Bool) :=
  l.map (fun x => if x.1 = n ∧ x.2.1 = id ∧ x.2.2.1 = i then (x.1, x.2.1, x.2.2.1, true) else x)

def Die.itemDone (d : Die) (n i : Nat) (c : Cmd) : Die :=
  Die.enginesPump { (d.count (soCount n 1) 1).served (64 + n) c.ctx with eng.items := itemEnded n c.id i d.eng.items }

theorem Die.itemDone_spec (d : Die) (n i : Nat) (c : Cmd) :
    Within itemTouch d (d.itemDone n i c) ∧ (d.itemDone n i c).eng.jobs = d.eng.jobs ∧ (d.itemDone n i c).eng.items = itemEnded n c.id i d.eng.items := by
  unfold Die.itemDone
  have hcount : Within { ch := true } d (d.count (soCount n 1) 1) := Die.count_within d _ 1
  have hitems : (d.count (soCount n 1) 1).eng = d.eng := hcount.eng
  generalize d.count (soCount n 1) 1 = d₁ at hcount hitems
  generalize hz : ({ d₁.served (64 + n) c.ctx with eng.items := _ } : Die) = z
  have hset : Within { eng := true } d₁ z := by
    rw [← hz]
    exact (Die.served_within d₁ (64 + n) c.ctx).trans (Die.setEng_within _ _)
  refine ⟨hcount.mono.trans (hset.mono.trans (Die.enginesPump_within z).mono), ?_, ?_⟩
  · rw [(Die.enginesPump_within z).eng, ← hz, ← hitems]
    rfl
  · rw [(Die.enginesPump_within z).eng, ← hz]

theorem exec_selectItem {s : State} {n : BitVec 3} {i : Nat} {c : Cmd} {d : Die} (hnext : s.d.itemNext n.toNat = some (i, c))
    (htakes : s.d.takesItems n.toNat = true) (hrun : s.d.running n.toNat = true) (hparity : s.d.soParity s.env n.toNat c = none)
    (h : attempt s.env s.d (.cmd c.id) (itemAct c n.toNat i) = .ok () d) :
    exec (.selectItem n) s = .next { s with d := d.itemDone n.toNat i c } := by
  change execSelectItem n s = _
  unfold execSelectItem
  dsimp only
  rw [hnext]
  dsimp only
  rw [htakes, hrun, hparity]
  dsimp only
  unfold Die.soAct
  rw [h]
  rfl

theorem exec_selectItem_none {s : State} {n : BitVec 3} (h : s.d.itemNext n.toNat = none ∨ s.d.takesItems n.toNat = false) :
    exec (.selectItem n) s = .next s := by
  change execSelectItem n s = _
  unfold execSelectItem
  dsimp only
  rcases h with h | h
  · rw [h]
    rfl
  · rcases s.d.itemNext n.toNat with _ | ⟨i, c⟩
    · rfl
    · dsimp only
      rw [h]
      rfl

/-- A wake trigger of a RUNNING region is noted, and nothing else. -/
theorem Die.wake_of_running (e : Env) {d : Die} {r : Nat} (h : d.running r = true) : d.wake e r = d.setPower r { d.power r with busy := true } := by
  have hstate : d.powerState r = 2 := of_decide_eq_true h
  unfold Die.wake
  extract_lets p d₁ p₁ d₂
  have h₁ : d₁.powerState r = 2 := (Die.getF_setPower _ _ _ _ _).trans hstate
  rw [h₁, if_neg (by decide), if_neg (by decide)]

/-- A keep-alive reaches the region of Sorter `n`. -/
def Die.keptAlive (e : Env) (d : Die) (n : Nat) : Die :=
  { d.wake e n with eng.keepAt := Tab.set 0 (d.wake e n).eng.keepAt n e.now }

theorem exec_keepAlive {s : State} {n : BitVec 3} (hbusy : s.d.sorterBusy n.toNat = true) (hrun : s.d.running n.toNat = true) :
    ∃ t, exec (.keepAlive n) s = .next t ∧ Tab.get 0 t.d.eng.keepAt n.toNat = s.env.now ∧ t.d.running n.toNat = true ∧ t.d.mem.dram = s.d.mem.dram ∧ t.env = s.env := by
  have hexec : exec (.keepAlive n) s = s.go (s.d.keptAlive s.env n.toNat) := congrArg s.go (if_pos hbusy)
  refine ⟨_, hexec, Tab.get_set_same _ _ _ _, ?_, Die.wake_dram s.env s.d n.toNat, rfl⟩
  have hkept : (s.d.wake s.env n.toNat).running n.toNat = true := by
    rw [Die.wake_of_running s.env hrun]
    unfold Die.running Die.powerState
    rw [Die.getF_setPower]
    exact hrun
  exact hkept

/-- Settles O33, by the placement of a lead on the least loaded Sorter and by what the end of a lead, or of an item, changes. -/
theorem sorterWorkIsPlacedRunAndEnded : Obligations.SorterWorkIsPlacedRunAndEnded := by
  unfold Obligations.SorterWorkIsPlacedRunAndEnded
  refine ⟨fun s id c d => ⟨?_, ?_, ?_, ?_⟩, fun s n i c d => ⟨?_, exec_selectItem_none, exec_keepAlive, fun hfree => ?_⟩⟩
  · intro x hx h hmode hlead haway hhome
    exact exec_leadPlaced (run := fun c d n => Die.dispatchRun s.env x.2 12 d n c.id) h (exec_dispatchRow hx id s)
      (fun y hy _ => decide_eq_true ((Cmd.mode_of_desc hy).trans hmode)) hlead haway hhome
  · intro h hlead haway hhome
    exact exec_leadPlaced (run := fun c d n => d.combineRun s.env n c.id) h rfl (fun _ _ _ => rfl) hlead haway hhome
  · intro x hx n d' hcmd hop hst hstarted hbypass hmode haux hlead hrun htook hserves hparity hbusy hlast hstands
    have h : Acting s id Op.DISPATCH c s.d := .running c hcmd hop hst hstarted hbypass
    obtain rfl := h.id
    have hexec := exec_leadRuns (run := fun c d n => Die.dispatchRun s.env x.2 12 d n c.id) h (exec_dispatchRow hx c.id s)
      (fun y hy _ => decide_eq_true ((Cmd.mode_of_desc hy).trans hmode)) hlead hrun htook
    rw [Die.dispatchRun_last hcmd haux hserves hlead hparity hbusy hlast hstands] at hexec
    obtain ⟨y, hy⟩ := Option.isSome_iff_exists.1 hstands
    obtain ⟨hdone, hgone, hcount, -⟩ := Die.endLead_spec n hy
    have hacts := actsTo_within h (d'.endLead n c c.result)
    refine ⟨_, hexec, ?_, ?_, ?_, (actsTo_env c.id c _).1⟩
    · rw [Die.cmd_of_sf hacts.sf, hdone]
    · rw [Die.leadOf_of_eng hacts.eng, hgone]
    · rw [hacts.getF F.SO_COUNT.COMPLETED n, hcount]
  · intro n hcmd hop hst hstarted hbypass haux hnext hlead hrun htook hserves hparity
    have h : Acting s id Op.COMBINE c s.d := .running c hcmd hop hst hstarted hbypass
    obtain rfl := h.id
    have hexec := exec_leadRuns (run := fun c d n => d.combineRun s.env n c.id) h (i := .combine c.id) rfl (fun _ _ _ => rfl) hlead hrun htook
    rw [Die.combineRun_last hcmd haux hserves hlead hparity hnext] at hexec
    obtain ⟨hdone, hgone, -, hmem⟩ := Die.endLead_spec n hcmd
    have hacts := actsTo_within h (s.d.endLead n c c.result)
    refine ⟨_, hexec, ?_, ?_, ?_, (actsTo_env c.id c _).1⟩
    · rw [Die.cmd_of_sf hacts.sf, hdone]
    · rw [Die.leadOf_of_eng hacts.eng, hgone]
    · rw [hacts.mem, hmem]
  · intro hnext htakes hrun hparity h
    obtain ⟨hwithin, hjobs, hitems⟩ := Die.itemDone_spec d n.toNat i c
    exact ⟨_, exec_selectItem hnext htakes hrun hparity h, rfl, Within.keepsRegs (p := itemTouch) hwithin, hjobs, hwithin.mem, hitems⟩
  · exact congrArg s.go (if_neg (hfree ▸ Bool.false_ne_true))

end Sys2Proof.Machine
end

section
/-! PROOF. Requests at the host port and the completions of its reads (O42). -/

-- One proof after another: all at once, they ask for more threads than the check's memory limit admits.
set_option Elab.async false

namespace Sys2Proof.Machine

/-! ### What the buffers and counters of the host port touch -/

/-- What the arrival of a transaction changes: counters, monitors, and the credits that go back. -/
def arriveTouch : Touch := { regs := monRegs, ch := true, out := true }

theorem Die.hostInCount_within (e : Env) (d : Die) (n : Nat) : Within { regs := monRegs, ch := true } d (d.hostInCount e n) := by
  unfold Die.hostInCount
  exact (((Die.count_within d 3824 1).trans (Die.count_within _ 3825 n)).trans (Die.count_within _ 10 n)).trans (Die.monitor_within _ e 4 0 0 n)

theorem Die.hpFree_within (d : Die) (n : Nat) : Within { out := true } d (d.hpFree n) := by
  unfold Die.hpFree
  exact (Die.send_within d _).trans (.foldl _ (fun y _ => Die.send_within y _) _ _)

theorem Die.hpTaken_within (d : Die) (q : HpReq) : Within { out := true } d (d.hpTaken q) := by
  unfold Die.hpTaken
  split
  · exact .refl d
  · exact Die.hpFree_within d _

theorem Die.hpTaken_regs (d : Die) (q : HpReq) : (d.hpTaken q).regs = d.regs := by
  unfold Die.hpTaken Die.hpFree
  split
  · rfl
  · exact foldl_keeps (fun y : Die => y.regs) (fun y _ => y.send (.credit 80 1)) (fun _ _ => rfl) _ _

theorem Within.resolve {p : Touch} {d t : Die} (h : Within p d t) (w : Who) (hr : p.regs.contains .SM_SLICE_BIND = false := by rfl) : t.resolve w = d.resolve w := by
  unfold Die.resolve
  simp only [fun i => h.bit F.SM_SLICE_BIND.PASID_VALID i hr, fun i => h.getF F.SM_SLICE_BIND.PASID i hr, fun i => h.bit F.SM_SLICE_BIND.VF_VALID i hr,
    fun i => h.getF F.SM_SLICE_BIND.VF i hr]

theorem Within.fire0 {p : Touch} {d t : Die} (h : Within p d t) (cause inst : Nat) (hr : p.regs.contains .AY_INJECT = false := by rfl) :
    t.fire0 cause inst = d.fire0 cause inst := by
  unfold Die.fire0
  rw [h.bit F.AY_INJECT.ARM 0 hr, h.getF F.AY_INJECT.KIND 0 hr, h.getF F.AY_INJECT.CAUSE 0 hr, h.getF F.AY_INJECT.INSTANCE 0 hr]

theorem Within.phase {p : Touch} {d t : Die} (h : Within p d t) (hr : p.regs.contains .ST_BOOT = false := by rfl) : t.phase = d.phase :=
  h.getF F.ST_BOOT.PHASE 0 hr

/-! ### Requests -/

/-- The die that has counted a request. -/
def Die.reqCounted (e : Env) (d : Die) (q : HpReq) : Die := d.hostInCount e (if q.wr then q.data.length else 0)

theorem exec_hostPortRequest {s : State} {q : HpReq} (hpower : s.d.bt.pwrGood = true) (hwho : q.who = .pf ∨ (∃ n, q.who = .pasid n) ∨ ∃ n, q.who = .vf n) :
    exec (.hostPortRequest q) s = (let d := s.d.reqCounted s.env q
      if d.phase < 3 then s.go ((d.hpTaken q).hpAbort s.env q)
      else if !q.parOk ∨ d.fire0 Cs.HOST_ABORT 0 then
        s.go (((d.hpTaken q).hostParity s.env none (match d.resolve q.who with | .slice sl => some sl | _ => none)).hpAbort s.env q)
      else if d.resolve q.who = .unbound then s.go (((d.hpTaken q).incSat F.SM_STATUS.PASID_MISS 0 1).hpAbort s.env q)
      else State.hostTarget { s with d := d } q) := by
  change execHostPortRequest q s = _
  unfold execHostPortRequest Die.reqCounted
  refine if_neg (not_or.2 ⟨by rw [hpower]; decide, ?_⟩)
  rcases hwho with h | ⟨n, h⟩ | ⟨n, h⟩ <;> rw [h] <;> exact Bool.false_ne_true

/-- An accepted request goes to its target. -/
theorem exec_hostPortRequest_bound {s : State} {q : HpReq} (hpower : s.d.bt.pwrGood = true)
    (hwho : q.who = .pf ∨ (∃ n, q.who = .pasid n) ∨ ∃ n, q.who = .vf n) (hphase : 3 ≤ s.d.phase) (hok : q.parOk = true)
    (hfire : s.d.fire0 Cs.HOST_ABORT 0 = false) (hbound : s.d.resolve q.who ≠ .unbound) :
    exec (.hostPortRequest q) s = State.hostTarget { s with d := s.d.reqCounted s.env q } q := by
  have hcount := Die.hostInCount_within s.env s.d (if q.wr then q.data.length else 0)
  rw [exec_hostPortRequest hpower hwho]
  dsimp only
  unfold Die.reqCounted
  rw [hcount.phase, if_neg (by omega), hcount.fire0, hfire, hok, if_neg (by decide), hcount.resolve, if_neg hbound]

/-- What a request for device memory brings joins the others. -/
def Die.inqJoined (d : Die) (q : HpReq) : Die := { d with nid := d.nid + 1, bt.inq := d.bt.inq ++ [(d.nid, q)] }

section
variable {s : State} {q : HpReq}

theorem hostTarget_bar0_slice (ht : q.target = .bar0) (hr : s.d.resolve q.who ≠ .privileged) :
    State.hostTarget s q = .next { s with d := (s.d.hpTaken q).hpAbort s.env q } := by
  unfold State.hostTarget
  dsimp only
  rw [ht]
  exact if_pos hr

theorem hostTarget_bar0_write (ht : q.target = .bar0) (hr : s.d.resolve q.who = .privileged) (hw : q.wr = true) :
    State.hostTarget s q = State.bar0Write { s with d := s.d.hpTaken q } q.who q.addr.toNat q.data := by
  unfold State.hostTarget
  dsimp only
  rw [ht]
  dsimp only
  rw [if_neg (by rw [hr]; decide), if_pos hw]

theorem hostTarget_bar0_read {b : List Byte} {d' : Die} (ht : q.target = .bar0) (hr : s.d.resolve q.who = .privileged) (hw : q.wr = false)
    (hread : (s.d.hpTaken q).bar0Read s.env q.who q.addr.toNat q.len.toNat = (some b, d')) :
    State.hostTarget s q = .next { s with d := d'.hpAnswer s.env q b } := by
  unfold State.hostTarget
  dsimp only
  rw [ht]
  dsimp only
  rw [if_neg (by rw [hr]; decide), if_neg (by rw [hw]; decide), hread]
  rfl

theorem hostTarget_doorbell (ht : q.target = .bar2) (hw : q.wr = true) (hlen : q.data.length ≤ 127) :
    State.hostTarget s q = exec (.doorbell q.who (BitVec.ofNat 24 q.addr.toNat) (BitVec.ofNat 7 q.data.length) (BitVec.ofNat 64 (numLE (q.data.take 8))))
      { s with d := s.d.hpTaken q } := by
  unfold State.hostTarget
  dsimp only
  rw [ht]
  dsimp only
  rw [if_pos hw, Nat.min_eq_right hlen]
  rfl

theorem Die.slotRead_ring {d : Die} {who : Who} {off n : Nat} (halign : off % 8 = 0) (hoff : off / 4096 < 4096) (hr : d.resolve who = .privileged)
    (hring : d.ringAt (off / 4096) (off % 4096 / 8) = some n) : d.slotRead who off 8 = (bytesLE 8 (d.head n + d.tail n * 2 ^ 32), d) := by
  unfold Die.slotRead
  dsimp only
  rw [hr]
  dsimp only
  rw [if_neg (by simp only [halign, ne_eq, not_true_eq_false, Bool.not_true, Bool.false_eq_true, or_false, false_or]; omega), hring]

theorem hostTarget_slotRead {n : Nat} (ht : q.target = .bar2) (hw : q.wr = false) (hlen : q.len.toNat = 8) (halign : q.addr.toNat % 8 = 0)
    (hoff : q.addr.toNat / 4096 < 4096) (hr : (s.d.hpTaken q).resolve q.who = .privileged)
    (hring : (s.d.hpTaken q).ringAt (q.addr.toNat / 4096) (q.addr.toNat % 4096 / 8) = some n) :
    State.hostTarget s q = .next { s with d := (s.d.hpTaken q).hpAnswer s.env q (bytesLE 8 ((s.d.hpTaken q).head n + (s.d.hpTaken q).tail n * 2 ^ 32)) } := by
  unfold State.hostTarget
  dsimp only
  rw [ht]
  dsimp only
  rw [if_neg (by rw [hw]; decide), hlen, Die.slotRead_ring halign hoff hr hring]
  rfl

theorem hostTarget_mem (ht : q.target = .mem) (hw : q.wr = false ∨ 5 ≤ s.d.phase) :
    State.hostTarget s q = .next { s with d := (s.d.inqJoined q).pump s.env } := by
  unfold State.hostTarget
  dsimp only
  rw [ht]
  refine if_neg fun h => ?_
  rcases hw with hw | hw
  · rw [hw] at h
    exact Bool.false_ne_true h.1
  · exact absurd h.2 (by omega)

end

theorem hostPortRequests (s : State) (q : HpReq) (hpower : s.d.bt.pwrGood = true) (hwho : q.who = .pf ∨ (∃ n, q.who = .pasid n) ∨ ∃ n, q.who = .vf n) :
    let d := (s.d.hostInCount s.env (if q.wr then q.data.length else 0)).hpTaken q
    (s.d.phase < 3 → exec (.hostPortRequest q) s = .next { s with d := d.hpAbort s.env q }) ∧
    (3 ≤ s.d.phase → q.parOk = true → s.d.fire0 Cs.HOST_ABORT 0 = false → s.d.resolve q.who = .unbound →
      exec (.hostPortRequest q) s = .next { s with d := (d.incSat F.SM_STATUS.PASID_MISS 0 1).hpAbort s.env q }) := by
  have hcount := Die.hostInCount_within s.env s.d (if q.wr then q.data.length else 0)
  rw [exec_hostPortRequest hpower hwho]
  unfold Die.reqCounted
  refine ⟨fun hphase => ?_, fun hphase hok hfire hfree => ?_⟩
  · dsimp only
    rw [hcount.phase, if_pos hphase]
    rfl
  · dsimp only
    rw [hcount.phase, if_neg (by omega), hcount.fire0, hfire, hok, if_neg (by decide), hcount.resolve, if_pos hfree]
    rfl

/-! ### Completions -/

/-- The read of tag `tag`, whose completion has brought `n` bytes, is outstanding no more. -/
def Die.readEnded (e : Env) (d : Die) (tag n : Nat) : Die :=
  (({ d with bt.reads := d.bt.reads.filter (fun x => decide (x.1 ≠ tag)) } : Die).hostInCount e n).hpFree n

theorem Die.readEnded_spec (e : Env) (d : Die) (tag n : Nat) : Within { regs := monRegs, ch := true, bt := true, out := true } d (d.readEnded e tag n) ∧
    (d.readEnded e tag n).bt.reads = d.bt.reads.filter (fun x => decide (x.1 ≠ tag)) := by
  unfold Die.readEnded
  generalize hz : ({ d with bt.reads := _ } : Die) = z
  have hbt : Within { bt := true } d z := by
    rw [← hz]
    exact Die.setBt_within d _
  have hin := Die.hostInCount_within e z n
  have hout := Die.hpFree_within (z.hostInCount e n) n
  refine ⟨hbt.mono.trans (hin.mono.trans hout.mono), ?_⟩
  rw [hout.bt, hin.bt, ← hz]

/-- How a completion with status `st` of the read `r` ends. -/
def Die.readAnswered (e : Env) (d : Die) (r : Nat × Who × Nat × Nat × Use) (st : Nat) (data : List Byte) : Die :=
  if st ≠ 0 then
    (if r.2.2.2.2.isLog then d
      else d.report e { cause := Cs.HOST_ABORT, inst := 0, ctx := d.useCtx r.2.2.2.2, slice := d.useSlice r.2.2.2.2, det0 := st }).hostError r.2.2.2.2 r.2.2.1 st
  else d.hostData e r.2.2.2.2 r.2.2.1 data

section
variable {s : State} {tag : BitVec 10} {st : BitVec 4} {data : List Byte} {ok : Bool}

theorem exec_hostCompletion_none (h : s.d.bt.reads.find? (fun r => decide (r.1 = tag.toNat)) = none ∨ s.d.readWaits tag.toNat = true) :
    exec (.hostCompletion tag st data ok) s = .next s := by
  have hnone : s.d.bt.reads.find? (fun r => decide (r.1 = tag.toNat) && !(s.d.readWaits r.1)) = none := by
    refine List.find?_eq_none.2 fun r hr htake => ?_
    obtain ⟨htag, hleft⟩ := Bool.and_eq_true_iff.1 htake
    rcases h with h | h
    · exact List.find?_eq_none.1 h r hr htag
    · rw [of_decide_eq_true htag, h] at hleft
      exact Bool.false_ne_true hleft
  change execHostCompletion tag st data ok s = _
  unfold execHostCompletion
  dsimp only
  rw [hnone]
  rfl

theorem exec_hostCompletion {who : Who} {a n : Nat} {u : Use} (hleft : s.d.readWaits tag.toNat = false)
    (h : s.d.bt.reads.find? (fun r => decide (r.1 = tag.toNat)) = some (tag.toNat, who, a, n, u)) (hlen : st.toNat = 0 → data.length = n)
    (hok : ok = true) (hfire : s.d.fire0 Cs.HOST_ABORT 0 = false) :
    exec (.hostCompletion tag st data ok) s =
      .next { s with d := ((s.d.readEnded s.env tag.toNat data.length).readAnswered s.env (tag.toNat, who, a, n, u) st.toNat data).pump s.env } := by
  have hsame : (fun r : Nat × Who × Nat × Nat × Use => decide (r.1 = tag.toNat) && !(s.d.readWaits r.1)) = fun r => decide (r.1 = tag.toNat) := by
    funext r
    by_cases hr : r.1 = tag.toNat
    · rw [hr, hleft, Bool.not_false, Bool.and_true]
    · rw [decide_eq_false hr]
      rfl
  have hkept := (Die.readEnded_spec s.env s.d tag.toNat data.length).1.fire0 Cs.HOST_ABORT 0
  change execHostCompletion tag st data ok s = _
  unfold execHostCompletion
  dsimp only
  rw [hsame, h]
  dsimp only
  rw [if_neg (fun hbad => hbad.2 (hlen hbad.1))]
  unfold Die.readAnswered
  rw [hok]
  change s.go (Die.pump s.env (if (!true || (s.d.readEnded s.env tag.toNat data.length).fire0 Cs.HOST_ABORT 0) = true then _ else _)) = _
  rw [hkept, hfire]
  rfl

end

/-- Settles O42, by the target of a request and by the completion of an outstanding read. -/
theorem hostRequestsAndCompletionsReachTheirTargets : Obligations.HostRequestsAndCompletionsReachTheirTargets := by
  unfold Obligations.HostRequestsAndCompletionsReachTheirTargets
  refine ⟨fun s q hpower hwho => ?_, fun s tag st data ok => ⟨exec_hostCompletion_none, fun hleft => ?_⟩⟩
  · obtain ⟨hearly, hfree⟩ := hostPortRequests s q hpower hwho
    have hcount := Die.hostInCount_within s.env s.d (if q.wr then q.data.length else 0)
    refine ⟨hearly, hfree, fun hphase hok hfire hbound => ?_⟩
    rw [exec_hostPortRequest_bound hpower hwho hphase hok hfire hbound]
    unfold Die.reqCounted
    refine ⟨fun ht hr => hostTarget_bar0_slice ht (fun hpriv => hr ((hcount.resolve q.who).symm.trans hpriv)), fun ht hr hw => hostTarget_bar0_write ht ((hcount.resolve q.who).trans hr) hw,
      fun ht hr hw b d' hread => hostTarget_bar0_read ht ((hcount.resolve q.who).trans hr) hw hread, hostTarget_doorbell,
      fun n ht hw hlen halign hoff hr hring => hostTarget_slotRead ht hw hlen halign hoff hr hring, fun ht hw => ?_⟩
    refine ⟨_, hostTarget_mem ht (hw.imp_right fun h => h.trans_eq hcount.phase.symm), ?_, ?_, ?_⟩
    · change (s.d.hostInCount s.env _).bt.inq ++ [((s.d.hostInCount s.env _).nid, q)] = _
      rw [hcount.bt, hcount.nid]
    · exact (Die.hpTaken_regs (s.d.hostInCount s.env _) q).symm
    · exact hcount.mem
  · obtain ⟨hend, hreads⟩ := Die.readEnded_spec s.env s.d tag.toNat data.length
    have hgone : ∀ r ∈ (s.d.readEnded s.env tag.toNat data.length).bt.reads, r.1 ≠ tag.toNat := by
      rw [hreads]
      exact fun r hr => of_decide_eq_true (List.mem_filter.1 hr).2
    refine ⟨fun who a u h hst hok hfire => ?_, fun who a n u h hst hok hfire hlog => ?_, fun who a n u h hst hok hfire hlog hhand => ?_⟩
    · subst hst
      refine ⟨_, exec_hostCompletion hleft h (fun _ => rfl) hok hfire, hgone, fun r hr hne => ?_, hend.mem, hend.sf⟩
      rw [hreads]
      exact List.mem_filter.2 ⟨hr, decide_eq_true hne⟩
    · have hne : st.toNat ≠ 0 := fun h0 => hst (BitVec.eq_of_toNat_eq h0)
      refine ⟨_, (exec_hostCompletion hleft h (fun h0 => absurd h0 hne) hok hfire).trans ?_, hgone, hend.ay, hend.sf⟩
      unfold Die.readAnswered
      rw [if_pos hne, if_pos hlog]
    · have hne : st.toNat ≠ 0 := fun h0 => hst (BitVec.eq_of_toNat_eq h0)
      refine ⟨_, (exec_hostCompletion hleft h (fun h0 => absurd h0 hne) hok hfire).trans ?_, hgone, hend.sf⟩
      unfold Die.readAnswered
      rw [if_pos hne, if_neg (by rw [hlog]; decide)]

end Sys2Proof.Machine
end

section
/-! PROOF. Pages of the Page Ownership Table, and the sub-operations of SLICE_CTL that set a slice up (O43). -/

-- One proof after another: all at once, they ask for more threads than the check's memory limit admits.
set_option Elab.async false

namespace Sys2Proof.Machine

/-! ### Pages -/

theorem Die.reg_setPage_ne (d : Die) (p st owner orphan cause : Nat) {q : Nat} (h : q ≠ p) : (d.setPage p st owner orphan cause).reg .SM_POT q 0 = d.reg .SM_POT q 0 := by
  have hne : ∀ (y : Die) (f : Fld) (v : Nat), f.reg = .SM_POT → f.word = 0 → (y.setF f p v).reg .SM_POT q 0 = y.reg .SM_POT q 0 := fun y f v hr hw =>
    Die.reg_setReg_ne y f.reg .SM_POT p f.word q 0 _ (.inr (by omega))
  unfold Die.setPage
  rw [hne _ F.SM_POT.CAUSE _ rfl rfl, hne _ F.SM_POT.ORPHAN _ rfl rfl, hne _ F.SM_POT.OWNER _ rfl rfl, hne _ F.SM_POT.STATE _ rfl rfl]

theorem Die.pageState_setPage (d : Die) (p st owner orphan cause : Nat) : (d.setPage p st owner orphan cause).pageState p = st % 8 := by
  unfold Die.setPage Die.pageState
  rw [Die.getF_setF_apart _ _ _ _ _ rfl, Die.getF_setF_apart _ _ _ _ _ rfl, Die.getF_setF_apart _ _ _ _ _ rfl, Die.getF_setF_same _ _ _ _ (Nat.le_of_ble_eq_true rfl)] <;> rfl

theorem Die.pageOwner_setPage (d : Die) (p st owner orphan cause : Nat) : (d.setPage p st owner orphan cause).pageOwner p = owner % 512 := by
  unfold Die.setPage Die.pageOwner
  rw [Die.getF_setF_apart _ _ _ _ _ rfl, Die.getF_setF_apart _ _ _ _ _ rfl, Die.getF_setF_same _ _ _ _ (Nat.le_of_ble_eq_true rfl)] <;> rfl

theorem Die.pageState_of_reg {d t : Die} {p : Nat} (h : t.reg .SM_POT p 0 = d.reg .SM_POT p 0) : t.pageState p = d.pageState p :=
  congrArg (fun w => fieldOf w F.SM_POT.STATE.lo F.SM_POT.STATE.width) h

theorem Die.pageOwner_of_reg {d t : Die} {p : Nat} (h : t.reg .SM_POT p 0 = d.reg .SM_POT p 0) : t.pageOwner p = d.pageOwner p :=
  congrArg (fun w => fieldOf w F.SM_POT.OWNER.lo F.SM_POT.OWNER.width) h

/-- Pages that all go to state `st` and owner `owner`. -/
def Die.setPages (d : Die) (ps : List Nat) (st owner : Nat) : Die := ps.foldl (fun d p => d.setPage p st owner 0 0) d

theorem Die.setPages_within (d : Die) (ps : List Nat) (st owner : Nat) : Within { regs := [.SM_POT] } d (d.setPages ps st owner) :=
  .foldl _ (fun y p => Die.setPage_within y p st owner 0 0) _ _

theorem Die.setPages_spec (d : Die) (ps : List Nat) (st owner : Nat) :
    (∀ p ∈ ps, (d.setPages ps st owner).pageState p = st % 8 ∧ (d.setPages ps st owner).pageOwner p = owner % 512) ∧
      (∀ p, p ∉ ps → (d.setPages ps st owner).reg .SM_POT p 0 = d.reg .SM_POT p 0) := by
  constructor
  · refine foldl_reaches (p := fun p (y : Die) => y.pageState p = st % 8 ∧ y.pageOwner p = owner % 512)
      (fun y p => ⟨Die.pageState_setPage y p st owner 0 0, Die.pageOwner_setPage y p st owner 0 0⟩) (fun y p q hq => ?_) ps d
    by_cases hqp : q = p
    · rw [hqp]
      exact ⟨Die.pageState_setPage y p st owner 0 0, Die.pageOwner_setPage y p st owner 0 0⟩
    · have hreg := Die.reg_setPage_ne y p st owner 0 0 hqp
      exact ⟨(Die.pageState_of_reg hreg).trans hq.1, (Die.pageOwner_of_reg hreg).trans hq.2⟩
  · intro p hp
    unfold Die.setPages
    induction ps generalizing d with
    | nil => rfl
    | cons q qs ih =>
      obtain ⟨hpq, hqs⟩ := not_or.1 (List.mem_cons.not.1 hp)
      exact (ih _ hqs).trans (Die.reg_setPage_ne d q st owner 0 0 hpq)

/-- LOCAL_HOME bits of pages that a region-locally homed slice takes. -/
def Die.homed (d : Die) (hom : Bool) (ps : List Nat) : Die := if hom then { d with sm.localHome := d.sm.localHome ++ ps } else d

theorem Die.homed_within (d : Die) (hom : Bool) (ps : List Nat) : Within { sm := true } d (d.homed hom ps) := by
  unfold Die.homed
  split
  · exact Die.setSm_within d _
  · exact .refl d

/-- What a change of page states leaves once its pages are set, before the requests it waits for are noted: LOCAL_HOME bits, access
counters, and a command that has begun its operation. -/
def Die.pagesSet (d : Die) (ps : List Nat) (st owner : Nat) (hom : Bool) (c : Cmd) : Die :=
  (((d.setPages ps st owner).homed hom ps).clearAcnt ps).setCmd { c with aux := 1 }

theorem Die.pagesSet_spec (d : Die) (ps : List Nat) (st owner : Nat) (hom : Bool) (c : Cmd) :
    (∀ p ∈ ps, (d.pagesSet ps st owner hom c).pageState p = st % 8 ∧ (d.pagesSet ps st owner hom c).pageOwner p = owner % 512) ∧
      (∀ p, p ∉ ps → (d.pagesSet ps st owner hom c).reg .SM_POT p 0 = d.reg .SM_POT p 0) ∧ keepsRegs d (d.pagesSet ps st owner hom c) [.SM_POT, .STU_ACNT] ∧
      (d.pagesSet ps st owner hom c).mem = d.mem := by
  obtain ⟨hin, hout⟩ := Die.setPages_spec d ps st owner
  have hset := Die.setPages_within d ps st owner
  unfold Die.pagesSet
  generalize d.setPages ps st owner = y at hin hout hset
  have hafter : Within { regs := [.STU_ACNT], sm := true, sf := true } y (((y.homed hom ps).clearAcnt ps).setCmd { c with aux := 1 }) :=
    ((Die.homed_within y hom ps).mono.trans (.foldl _ (fun y p => Die.clearElem_within y .STU_ACNT p) _ _)).trans (Die.setCmd_within _ _)
  generalize ((y.homed hom ps).clearAcnt ps).setCmd { c with aux := 1 } = z at hafter
  have hreg : ∀ p, z.reg .SM_POT p 0 = y.reg .SM_POT p 0 := fun p => hafter.reg .SM_POT p 0
  refine ⟨fun p hp => ⟨(Die.pageState_of_reg (hreg p)).trans (hin p hp).1, (Die.pageOwner_of_reg (hreg p)).trans (hin p hp).2⟩,
    fun p hp => (hreg p).trans (hout p hp), ?_, (hafter.mem.trans hset.mem)⟩
  exact Within.keepsRegs (p := { regs := [.SM_POT, .STU_ACNT], sm := true, sf := true }) (hset.mono.trans hafter.mono)

/-! ### Clusters that are claimed -/

/-- What the claim of clusters, and its end, may change. -/
def claimTouch : Touch :=
  { regs := [.SM_SLICE, .TY_CLUSTER, .TY_SLICE_STAT, .ST_REGION_STATUS], sm := true, ty := true, out := true, mem := true, coh := true, bt := true }

/-- A field of a slice's entry other than CLUSTERS_PENDING. -/
def ofSlice (f : Fld) : Bool := F.SM_SLICE.CLUSTERS_PENDING.apart f && decide (f.word = 0)

theorem Die.getF_setPending {f : Fld} (hf : ofSlice f = true) (d : Die) (i j v : Nat) : (d.setF F.SM_SLICE.CLUSTERS_PENDING i v).getF f j = d.getF f j := by
  obtain ⟨hapart, hword⟩ := Bool.and_eq_true_iff.1 hf
  exact Die.getF_setF_away d _ f i j v hapart (of_decide_eq_true hword)

/-- What is read of a slice, CLUSTERS_PENDING apart, is the same in two dies. -/
def sameSlices (d t : Die) : Prop := ∀ f : Fld, f.reg = .SM_SLICE → ofSlice f = true → ∀ i, t.getF f i = d.getF f i

theorem sameSlices.trans {d t u : Die} (h : sameSlices d t) (h' : sameSlices t u) : sameSlices d u :=
  fun f hr hf i => (h' f hr hf i).trans (h f hr hf i)

theorem Within.sameSlices {p : Touch} {d t : Die} (h : Within p d t) (hr : p.regs.contains .SM_SLICE = false := by rfl) : sameSlices d t :=
  fun f hf _ i => h.getF f i (hf ▸ hr)

theorem Die.claimsDone_sameSlices (d : Die) : sameSlices d d.claimsDone := by
  intro f hr hf i
  unfold Die.claimsDone
  refine foldl_keeps (fun y : Die => y.getF f i) _ (fun y s => ?_) _ d
  split
  · exact Die.getF_setPending hf y s i 0
  · rfl

/-- Clusters that a slice claims are promised to nobody else. -/
def Die.promise (e : Env) (d : Die) (ks : List Nat) : Die :=
  ks.foldl (fun d k => d.setClRt k { d.clRt k with kept := none, promised := none, idle := e.now }) d

theorem Die.promise_within (e : Env) (d : Die) (ks : List Nat) : Within { ty := true } d (d.promise e ks) :=
  .foldl _ (fun y k => Die.setClRt_within y k _) _ _

/-- CLUSTERS_PENDING of a slice that has claimed clusters. -/
def Die.pendClusters (d : Die) (s : Nat) (ks : List Nat) : Die :=
  { d.setF F.SM_SLICE.CLUSTERS_PENDING s 1 with sm.claims := d.sm.claims ++ ks.map (fun k => (k, s)) }

theorem Die.pendClusters_spec (d : Die) (s : Nat) (ks : List Nat) :
    Within { regs := [.SM_SLICE], sm := true } d (d.pendClusters s ks) ∧ sameSlices d (d.pendClusters s ks) := by
  unfold Die.pendClusters
  have hset := Die.setF_within d F.SM_SLICE.CLUSTERS_PENDING s 1 (p := { regs := [.SM_SLICE] })
  have hsame : sameSlices d (d.setF F.SM_SLICE.CLUSTERS_PENDING s 1) := fun f _ hf i => Die.getF_setPending hf d s i 1
  generalize d.setF F.SM_SLICE.CLUSTERS_PENDING s 1 = y at hset hsame
  have hsm := Die.setSm_within y { y.sm with claims := d.sm.claims ++ ks.map (fun k => (k, s)) } (p := { sm := true })
  exact ⟨hset.mono.trans hsm.mono, hsame.trans hsm.sameSlices⟩

theorem Die.claim_spec (e : Env) (d : Die) (s : Nat) (ks : List Nat) : Within claimTouch d (d.claim e s ks) ∧ sameSlices d (d.claim e s ks) := by
  have hpromise := Die.promise_within e d ks
  unfold Die.claim
  extract_lets y busy w sm z
  change Within { ty := true } d y at hpromise
  clear_value busy y
  have hz : z = y.pendClusters s ks := rfl
  obtain ⟨hset, hfields⟩ := Die.pendClusters_spec y s ks
  rw [← hz] at hset hfields
  clear_value z w
  by_cases hbusy : busy = []
  · rw [if_pos hbusy]
    exact ⟨hpromise.mono, hpromise.sameSlices⟩
  · rw [if_neg hbusy]
    have hpost : Within yieldTouch z (busy.foldl (fun d k => match d.kernAt k with | some x => d.postYield e x none | none => d) z) := by
      refine .foldl _ (fun w k => ?_) _ _
      split
      · exact Die.postYield_within e w _ none
      · exact .refl w
    exact ⟨hpromise.mono.trans (hset.mono.trans hpost.mono), (hpromise.sameSlices.trans hfields).trans hpost.sameSlices⟩

theorem Die.takeClusters_spec (e : Env) (d : Die) (s : Nat) (ks : List Nat) : Within claimTouch d (d.takeClusters e s ks) ∧ sameSlices d (d.takeClusters e s ks) := by
  obtain ⟨hclaim, hsame⟩ := Die.claim_spec e d s ks
  unfold Die.takeClusters
  dsimp only
  generalize d.claim e s ks = y at hclaim hsame
  have hwake : Within { regs := [.ST_REGION_STATUS], mem := true, coh := true, bt := true, out := true } y
      (((ks.map (· / 8)).eraseDups).foldl (fun d r => d.wake e r) y) := .foldl _ (fun w r => Die.wake_within e w r) _ _
  exact ⟨hclaim.trans hwake.mono, hsame.trans hwake.sameSlices⟩

end Sys2Proof.Machine
end

section
/-! PROOF. The sub-operations of SLICE_CTL that set a slice up (O43). -/

-- One proof after another: all at once, they ask for more threads than the check's memory limit admits.
set_option Elab.async false

namespace Sys2Proof.Machine

theorem exec_sliceCtl {i : Instr} {s : State} {id sub : Nat} {c : Cmd} {d : Die} {body : Cmd → Nat → Die → Die} (h : Acting s id Op.SLICE_CTL c d)
    (haux : c.aux = 0) (harg : c.arg0 = sub) (hexec : exec i s = s.go (s.d.sliceCtl s.env id sub body)) :
    exec i s = .next (actsTo s id c (body c c.sl d)) := by
  refine (exec_of_start h hexec fun x hdesc _ => mapWindow_sub harg x hdesc).trans ?_
  rw [if_neg (by rw [haux]; decide)]

theorem firstBad_none {l : List Nat} {bad : Nat → Bool} (h : ∀ x ∈ l, bad x = false) : firstBad l bad = none :=
  List.find?_eq_none.2 fun x hx => by rw [h x hx]; decide

/-! ### CREATE and CLUSTERS -/

/-- The entry of a slice that CREATE makes, without its clusters' claims. -/
def Die.slicePut (d : Die) (sl f m : Nat) : Die :=
  (((((d.newSlice sl).setF F.SM_SLICE.KIND sl (bitsOf f 0 1)).setF F.SM_SLICE.LENDABLE sl (bitsOf f 1 1)).setF F.SM_SLICE.HOMING sl
    (bitsOf f 2 1)).setF F.SM_SLICE.HOME_REGION sl (bitsOf f 3 3)).setReg .SM_SLICE_CLUSTERS sl 0 (BitVec.ofNat 64 m)

theorem Die.newSlice_spec (d : Die) (sl : Nat) : Within { regs := [.SM_SLICE, .TY_SLICE_STAT, .AY_SLICE_REC], ch := true } d (d.newSlice sl) ∧ (d.newSlice sl).sliceState sl = 1 := by
  unfold Die.newSlice
  extract_lets y z
  have hcleared : Within { regs := [.SM_SLICE, .TY_SLICE_STAT, .AY_SLICE_REC] } d y :=
    ((Die.clearElem_within d .SM_SLICE sl).trans (Die.clearElem_within _ .TY_SLICE_STAT sl)).trans (Die.clearElem_within _ .AY_SLICE_REC sl)
  have hcounts : Within { ch := true } y z := .foldl _ (fun w k => Die.resetCount_within w _) _ _
  exact ⟨hcleared.mono.trans (hcounts.mono.trans (Die.setF_within z F.SM_SLICE.STATE sl 1)), Die.getF_setF_same z F.SM_SLICE.STATE sl 1 (Nat.le_of_ble_eq_true rfl)⟩

theorem bitsOf_lt (x lo w : Nat) : bitsOf x lo w < 2 ^ w := Nat.mod_lt _ (Nat.two_pow_pos w)

theorem Die.slicePut_spec (d : Die) (sl f m : Nat) :
    Within { regs := [.SM_SLICE, .SM_SLICE_CLUSTERS, .TY_SLICE_STAT, .AY_SLICE_REC], ch := true } d (d.slicePut sl f m) ∧ (d.slicePut sl f m).sliceState sl = 1 ∧
      (d.slicePut sl f m).getF F.SM_SLICE.KIND sl = bitsOf f 0 1 ∧ (d.slicePut sl f m).getF F.SM_SLICE.LENDABLE sl = bitsOf f 1 1 ∧
      (d.slicePut sl f m).getF F.SM_SLICE.HOMING sl = bitsOf f 2 1 ∧ (d.slicePut sl f m).getF F.SM_SLICE.HOME_REGION sl = bitsOf f 3 3 ∧
      (d.slicePut sl f m).reg .SM_SLICE_CLUSTERS sl 0 = BitVec.ofNat 64 m := by
  obtain ⟨hnew, hstate⟩ := Die.newSlice_spec d sl
  unfold Die.slicePut
  generalize d.newSlice sl = y at hnew hstate
  have hkind := Die.getF_setF_same y F.SM_SLICE.KIND sl (bitsOf f 0 1) (Nat.le_of_ble_eq_true rfl)
  have hstate₁ := (Die.getF_setF_apart y F.SM_SLICE.KIND F.SM_SLICE.STATE sl (bitsOf f 0 1) rfl).trans hstate
  have h₁ := Die.setF_within y F.SM_SLICE.KIND sl (bitsOf f 0 1) (p := { regs := [.SM_SLICE] })
  generalize y.setF F.SM_SLICE.KIND sl (bitsOf f 0 1) = y₁ at hkind hstate₁ h₁
  have hlend := Die.getF_setF_same y₁ F.SM_SLICE.LENDABLE sl (bitsOf f 1 1) (Nat.le_of_ble_eq_true rfl)
  have hkind₂ := (Die.getF_setF_apart y₁ F.SM_SLICE.LENDABLE F.SM_SLICE.KIND sl (bitsOf f 1 1) rfl).trans hkind
  have hstate₂ := (Die.getF_setF_apart y₁ F.SM_SLICE.LENDABLE F.SM_SLICE.STATE sl (bitsOf f 1 1) rfl).trans hstate₁
  have h₂ := Die.setF_within y₁ F.SM_SLICE.LENDABLE sl (bitsOf f 1 1) (p := { regs := [.SM_SLICE] })
  generalize y₁.setF F.SM_SLICE.LENDABLE sl (bitsOf f 1 1) = y₂ at hlend hkind₂ hstate₂ h₂
  have hhoming := Die.getF_setF_same y₂ F.SM_SLICE.HOMING sl (bitsOf f 2 1) (Nat.le_of_ble_eq_true rfl)
  have hlend₃ := (Die.getF_setF_apart y₂ F.SM_SLICE.HOMING F.SM_SLICE.LENDABLE sl (bitsOf f 2 1) rfl).trans hlend
  have hkind₃ := (Die.getF_setF_apart y₂ F.SM_SLICE.HOMING F.SM_SLICE.KIND sl (bitsOf f 2 1) rfl).trans hkind₂
  have hstate₃ := (Die.getF_setF_apart y₂ F.SM_SLICE.HOMING F.SM_SLICE.STATE sl (bitsOf f 2 1) rfl).trans hstate₂
  have h₃ := Die.setF_within y₂ F.SM_SLICE.HOMING sl (bitsOf f 2 1) (p := { regs := [.SM_SLICE] })
  generalize y₂.setF F.SM_SLICE.HOMING sl (bitsOf f 2 1) = y₃ at hhoming hlend₃ hkind₃ hstate₃ h₃
  have hregion := Die.getF_setF_same y₃ F.SM_SLICE.HOME_REGION sl (bitsOf f 3 3) (Nat.le_of_ble_eq_true rfl)
  have hapart : ∀ g : Fld, F.SM_SLICE.HOME_REGION.apart g = true → (y₃.setF F.SM_SLICE.HOME_REGION sl (bitsOf f 3 3)).getF g sl = y₃.getF g sl :=
    fun g hg => Die.getF_setF_apart y₃ F.SM_SLICE.HOME_REGION g sl (bitsOf f 3 3) hg
  have h₄ := Die.setF_within y₃ F.SM_SLICE.HOME_REGION sl (bitsOf f 3 3) (p := { regs := [.SM_SLICE] })
  generalize y₃.setF F.SM_SLICE.HOME_REGION sl (bitsOf f 3 3) = y₄ at hregion hapart h₄
  have hmask := Die.setReg_within y₄ .SM_SLICE_CLUSTERS sl 0 (BitVec.ofNat 64 m) (p := { regs := [.SM_SLICE_CLUSTERS] })
  have hset := Die.reg_setReg_same y₄ .SM_SLICE_CLUSTERS sl 0 (BitVec.ofNat 64 m)
  generalize y₄.setReg .SM_SLICE_CLUSTERS sl 0 (BitVec.ofNat 64 m) = z at hmask hset
  refine ⟨hnew.mono.trans ((((h₁.trans h₂).trans h₃).trans h₄).mono.trans hmask.mono), ?_, ?_, ?_, ?_, ?_, hset⟩
  · exact (hmask.getF F.SM_SLICE.STATE sl).trans ((hapart _ rfl).trans hstate₃)
  · exact ((hmask.getF F.SM_SLICE.KIND sl).trans ((hapart _ rfl).trans hkind₃)).trans (Nat.mod_eq_of_lt (bitsOf_lt f 0 1))
  · exact ((hmask.getF F.SM_SLICE.LENDABLE sl).trans ((hapart _ rfl).trans hlend₃)).trans (Nat.mod_eq_of_lt (bitsOf_lt f 1 1))
  · exact ((hmask.getF F.SM_SLICE.HOMING sl).trans ((hapart _ rfl).trans hhoming)).trans (Nat.mod_eq_of_lt (bitsOf_lt f 2 1))
  · exact ((hmask.getF F.SM_SLICE.HOME_REGION sl).trans hregion).trans (Nat.mod_eq_of_lt (bitsOf_lt f 3 3))

/-- The slice that CREATE makes; a reserved one claims its clusters. -/
def Die.created (e : Env) (d : Die) (sl f m : Nat) : Die :=
  if decide (bitsOf f 0 1 = 1) then (d.slicePut sl f m).takeClusters e sl (maskList m) else d.slicePut sl f m

/-- What CREATE may change. -/
def createTouch : Touch :=
  { regs := [.SM_SLICE, .SM_SLICE_CLUSTERS, .TY_SLICE_STAT, .AY_SLICE_REC, .TY_CLUSTER, .ST_REGION_STATUS], ch := true, sm := true, ty := true, out := true,
    mem := true, coh := true, bt := true }

theorem Die.created_spec (e : Env) (d : Die) (sl f m : Nat) :
    ((d.created e sl f m).sliceState sl = 1 ∧ (d.created e sl f m).getF F.SM_SLICE.KIND sl = bitsOf f 0 1 ∧ (d.created e sl f m).getF F.SM_SLICE.LENDABLE sl = bitsOf f 1 1 ∧
      (d.created e sl f m).getF F.SM_SLICE.HOMING sl = bitsOf f 2 1 ∧ (d.created e sl f m).getF F.SM_SLICE.HOME_REGION sl = bitsOf f 3 3 ∧
      (d.created e sl f m).reg .SM_SLICE_CLUSTERS sl 0 = BitVec.ofNat 64 m) ∧ (d.created e sl f m).mem.dram = d.mem.dram := by
  obtain ⟨hput, hstate, hkind, hlend, hhoming, hregion, hmask⟩ := Die.slicePut_spec d sl f m
  unfold Die.created
  generalize d.slicePut sl f m = y at hput hstate hkind hlend hhoming hregion hmask
  split
  · obtain ⟨htake, hsame⟩ := Die.takeClusters_spec e y sl (maskList m)
    exact ⟨⟨(hsame F.SM_SLICE.STATE rfl rfl sl).trans hstate, (hsame F.SM_SLICE.KIND rfl rfl sl).trans hkind, (hsame F.SM_SLICE.LENDABLE rfl rfl sl).trans hlend,
      (hsame F.SM_SLICE.HOMING rfl rfl sl).trans hhoming, (hsame F.SM_SLICE.HOME_REGION rfl rfl sl).trans hregion,
      (htake.reg .SM_SLICE_CLUSTERS sl 0).trans hmask⟩, htake.dram.trans hput.dram⟩
  · exact ⟨⟨hstate, hkind, hlend, hhoming, hregion, hmask⟩, hput.dram⟩

theorem exec_create {s : State} {id : Nat} {c : Cmd} {d : Die} (h : Acting s id Op.SLICE_CTL c d) (haux : c.aux = 0) (harg : c.arg0 = 0)
    (hstate : d.sliceState c.sl = 0)
    (hfree : bitsOf (c.q 32) 0 1 = 1 → ∀ k ∈ maskList (c.q 40), d.unavailable s.env c.sl (decide (bitsOf (c.q 32) 2 1 = 1)) (bitsOf (c.q 32) 3 3) k = false) :
    exec (.create id) s = .next (actsTo s id c ((d.created s.env c.sl (c.q 32) (c.q 40)).opDone s.env c 0)) := by
  rw [exec_sliceCtl h haux harg rfl]
  dsimp only
  rw [if_neg (not_not_intro hstate), firstBad_none fun k hk => ?_]
  · rfl
  · by_cases hrsv : bitsOf (c.q 32) 0 1 = 1
    · rw [hfree hrsv k hk, Bool.and_false]
    · rw [decide_eq_false hrsv, Bool.false_and]

/-- The mask of a reserved slice is replaced: what leaves it is lent no more, what joins it is claimed. -/
def Die.maskMoved (e : Env) (d : Die) (sl m : Nat) (gone come : List Nat) : Die :=
  let d := gone.foldl (fun d k => d.setLent k false) d
  let d : Die := { d with sm.claims := d.sm.claims.filter (fun x => !(decide (x.2 = sl) && gone.contains x.1)) }
  ((d.setReg .SM_SLICE_CLUSTERS sl 0 (BitVec.ofNat 64 m)).claimsDone).takeClusters e sl come

theorem Die.maskMoved_spec (e : Env) (d : Die) (sl m : Nat) (gone come : List Nat) :
    ((d.maskMoved e sl m gone come).reg .SM_SLICE_CLUSTERS sl 0 = BitVec.ofNat 64 m ∧ (d.maskMoved e sl m gone come).sliceState sl = d.sliceState sl) ∧
      (d.maskMoved e sl m gone come).mem.dram = d.mem.dram := by
  unfold Die.maskMoved
  extract_lets y sm z
  have hlent : Within yieldTouch d y := .foldl _ (fun w k => Die.setLent_within w k false) _ _
  have hclaims : Within { sm := true } y z := Die.setSm_within y sm
  clear_value y sm z
  have hset := Die.reg_setReg_same z .SM_SLICE_CLUSTERS sl 0 (BitVec.ofNat 64 m)
  have hmask := Die.setReg_within z .SM_SLICE_CLUSTERS sl 0 (BitVec.ofNat 64 m) (p := { regs := [.SM_SLICE_CLUSTERS] })
  generalize z.setReg .SM_SLICE_CLUSTERS sl 0 (BitVec.ofNat 64 m) = w at hset hmask
  have hdone := Die.claimsDone_within w
  have hsame := Die.claimsDone_sameSlices w
  obtain ⟨htake, htook⟩ := Die.takeClusters_spec e w.claimsDone sl come
  refine ⟨⟨?_, ?_⟩, ?_⟩
  · rw [htake.reg .SM_SLICE_CLUSTERS sl 0, hdone.reg .SM_SLICE_CLUSTERS sl 0, hset]
  · have hall := (((hlent.sameSlices.trans hclaims.sameSlices).trans hmask.sameSlices).trans hsame).trans htook
    exact hall F.SM_SLICE.STATE rfl rfl sl
  · rw [htake.dram, hdone.dram, hmask.dram, hclaims.dram, hlent.dram]

section
variable {s : State} {id : Nat} {c : Cmd} {d : Die} (h : Acting s id Op.SLICE_CTL c d) (haux : c.aux = 0)
include h haux

theorem exec_clusters_none (harg : c.arg0 = 1) (hkind : d.bit F.SM_SLICE.KIND c.sl = true) (hm : c.q 40 = 0) :
    exec (.clusters id) s = .next (actsTo s id c (d.cmdFail s.env c St.BAD_ARG false)) := by
  rw [exec_sliceCtl h haux harg rfl]
  dsimp only
  rw [if_pos ⟨hkind, hm⟩]

theorem exec_clusters_ordinary (harg : c.arg0 = 1) (hkind : d.bit F.SM_SLICE.KIND c.sl = false) (hstate : d.sliceState c.sl = 1 ∨ d.sliceState c.sl = 4) :
    exec (.clusters id) s = .next (actsTo s id c ((d.setReg .SM_SLICE_CLUSTERS c.sl 0 (BitVec.ofNat 64 (c.q 40))).opDone s.env c 0)) := by
  have hin : d.inState c.sl [1, 2, 4] = true := (inState_iff d c.sl).2 (by rcases hstate with h | h <;> rw [h] <;> decide)
  have hnot : d.sliceState c.sl ≠ 2 := by rcases hstate with h | h <;> rw [h] <;> decide
  rw [exec_sliceCtl h haux harg rfl]
  dsimp only
  rw [if_neg (fun hbad => Bool.false_ne_true (hkind.symm.trans hbad.1)), if_neg (by rw [hin]; decide),
    firstBad_none (fun k _ => by rw [decide_eq_false hnot, Bool.false_and])]
  dsimp only
  rw [firstBad_none (fun k _ => by rw [hkind, Bool.false_and])]
  dsimp only
  rw [if_neg (by rw [hkind]; decide)]

theorem exec_clusters_reserved (harg : c.arg0 = 1) (hkind : d.bit F.SM_SLICE.KIND c.sl = true) (hm : c.q 40 ≠ 0)
    (hstate : d.sliceState c.sl = 1 ∨ d.sliceState c.sl = 4)
    (hfree : ∀ k ∈ maskList (c.q 40), d.unavailable s.env c.sl (d.bit F.SM_SLICE.HOMING c.sl) (d.getF F.SM_SLICE.HOME_REGION c.sl) k = false) :
    ∃ gone come, exec (.clusters id) s = .next (actsTo s id c ((d.maskMoved s.env c.sl (c.q 40) gone come).opDone s.env c 0)) := by
  have hin : d.inState c.sl [1, 2, 4] = true := (inState_iff d c.sl).2 (by rcases hstate with h | h <;> rw [h] <;> decide)
  have hnot : d.sliceState c.sl ≠ 2 := by rcases hstate with h | h <;> rw [h] <;> decide
  refine ⟨(maskList (d.reg .SM_SLICE_CLUSTERS c.sl 0).toNat).filter (fun k => decide (bitsOf (c.q 40) k 1 = 0)),
    (maskList (c.q 40)).filter (fun k => decide (bitsOf (d.reg .SM_SLICE_CLUSTERS c.sl 0).toNat k 1 = 0)), ?_⟩
  rw [exec_sliceCtl h haux harg rfl]
  dsimp only
  rw [if_neg (fun hbad => hm hbad.2), if_neg (by rw [hin]; decide), firstBad_none (fun k _ => by rw [decide_eq_false hnot, Bool.false_and])]
  dsimp only
  rw [firstBad_none (fun k hk => by rw [hfree k hk, Bool.and_false])]
  dsimp only
  rw [if_pos hkind]
  rfl

/-! ### Pages -/

theorem exec_pagesAssign (harg : c.arg0 = 2) (hin : d.inState c.sl [1, 2, 3, 4] = true) (hfree : ∀ p ∈ c.pageList, d.present s.env p = true ∧ d.pageState p = 1)
    (hhome : d.bit F.SM_SLICE.HOMING c.sl = true → ∀ p ∈ c.pageList, stackOf p = d.getF F.SM_SLICE.HOME_REGION c.sl) :
    exec (.pagesAssign id) s =
      .next (actsTo s id c ((d.pagesSet c.pageList 2 c.sl (d.bit F.SM_SLICE.HOMING c.sl) c).startPot 0 c.sl c.pageList (some id))) := by
  obtain rfl := h.id
  rw [exec_sliceCtl h haux harg rfl]
  dsimp only
  rw [if_neg (by rw [hin]; decide), firstBad_none (fun p hp => by rw [(hfree p hp).1, (hfree p hp).2]; decide)]
  dsimp only
  rw [firstBad_none (fun p hp => ?_)]
  · rfl
  · cases hhoming : d.bit F.SM_SLICE.HOMING c.sl with
    | false => rfl
    | true => rw [decide_eq_false (not_not_intro (hhome hhoming p hp))]; rfl

theorem exec_pagesRelease (harg : c.arg0 = 3) (hin : d.inState c.sl [1, 2, 3, 4] = true)
    (hmine : ∀ p ∈ c.pageList, d.present s.env p = true ∧ d.ownedBy p c.sl = true ∧ d.rangeSlot p = none ∧ d.spanSlot p = none) :
    exec (.pagesRelease id) s = .next (actsTo s id c ((d.pagesSet c.pageList 0 0 false c).startPot 1 c.sl c.pageList (some id))) := by
  obtain rfl := h.id
  rw [exec_sliceCtl h haux harg rfl]
  dsimp only
  rw [if_neg (by rw [hin]; decide), firstBad_none (fun p hp => by rw [(hmine p hp).1, (hmine p hp).2.1]; rfl)]
  dsimp only
  rw [firstBad_none (fun p hp => by rw [(hmine p hp).2.2.1, (hmine p hp).2.2.2]; rfl)]
  rfl

theorem exec_pagesRelease_refused (harg : c.arg0 = 3) (hin : d.inState c.sl [1, 2, 3, 4] = true) {p : Nat}
    (hbad : firstBad c.pageList (fun p => !(d.present s.env p) || !(d.ownedBy p c.sl)) = some p) :
    exec (.pagesRelease id) s = .next (actsTo s id c (d.finish id St.OK (2 ^ 63 + 3 * 2 ^ 56 + p))) := by
  obtain rfl := h.id
  rw [exec_sliceCtl h haux harg rfl]
  dsimp only
  rw [if_neg (by rw [hin]; decide), hbad]
  rfl

end

/-! ### ACTIVATE and BIND -/

/-- What ACTIVATE may change. -/
theorem Die.goActive_spec (e : Env) (d : Die) (sl : Nat) :
    Within { regs := [.SM_SLICE, .SF_CTX_STATUS], eng := true } d (d.goActive e sl) ∧ (d.goActive e sl).sliceState sl = 2 := by
  unfold Die.goActive
  extract_lets y eng z
  have hset : Within { regs := [.SM_SLICE] } d y := Die.setF_within d F.SM_SLICE.STATE sl 2
  have hstate : y.sliceState sl = 2 := Die.getF_setF_same d F.SM_SLICE.STATE sl 2 (Nat.le_of_ble_eq_true rfl)
  have hgens : Within { eng := true } y z := Die.setEng_within y _
  clear_value z y
  have hpump : Within { regs := [.SF_CTX_STATUS] } z ((z.sliceCtxs sl).foldl Die.ctxPump z) := .foldl _ (fun w k => Die.ctxPump_within w k) _ _
  exact ⟨hset.mono.trans (hgens.mono.trans hpump.mono), (hpump.getF F.SM_SLICE.STATE sl).trans ((hgens.getF F.SM_SLICE.STATE sl).trans hstate)⟩

theorem no_quiesce {d : Die} {sl : Nat} (h : ∀ q ∈ d.sm.quiesce, q.sl ≠ sl) : d.sm.quiesce.any (fun q => decide (q.sl = sl)) = false :=
  List.any_eq_false.2 fun q hq => by rw [decide_eq_false (h q hq)]; decide

section
variable {s : State} {id : Nat} {c : Cmd} {d : Die} (h : Acting s id Op.SLICE_CTL c d) (haux : c.aux = 0)
include h haux

theorem exec_activate (harg : c.arg0 = 4) (hin : d.inState c.sl [1, 4] = true) (hrest : ∀ q ∈ d.sm.quiesce, q.sl ≠ c.sl) :
    exec (.activate id) s = .next (actsTo s id c (if d.bound c.sl then (d.goActive s.env c.sl).opDone s.env c 0 else d.finish id St.OK (2 ^ 63 + 9 * 2 ^ 56))) := by
  obtain rfl := h.id
  rw [exec_sliceCtl h haux harg rfl]
  rw [if_neg (by rw [hin, no_quiesce hrest]; decide)]
  cases d.bound c.sl <;> rfl

end

/-- The identities that BIND gives a slice. -/
def Die.identities (d : Die) (sl : Nat) (pv vv : Bool) (pasid vf : Nat) : Die :=
  let d := d.clearElem .SM_SLICE_BIND sl
  let d := if pv then (d.setF F.SM_SLICE_BIND.PASID sl pasid).setF F.SM_SLICE_BIND.PASID_VALID sl 1 else d
  if vv then (d.setF F.SM_SLICE_BIND.VF sl vf).setF F.SM_SLICE_BIND.VF_VALID sl 1 else d

theorem Die.identities_spec (d : Die) (sl : Nat) (pv vv : Bool) (pasid vf : Nat) :
    Within { regs := [.SM_SLICE_BIND] } d (d.identities sl pv vv pasid vf) ∧ (d.identities sl pv vv pasid vf).getF F.SM_SLICE_BIND.PASID_VALID sl = Bool.num pv ∧
      (pv = true → (d.identities sl pv vv pasid vf).getF F.SM_SLICE_BIND.PASID sl = pasid % 2 ^ 20) ∧
      (d.identities sl pv vv pasid vf).getF F.SM_SLICE_BIND.VF_VALID sl = Bool.num vv ∧
      (vv = true → (d.identities sl pv vv pasid vf).getF F.SM_SLICE_BIND.VF sl = vf % 2 ^ 6) := by
  unfold Die.identities
  extract_lets y z
  have hclear : Within { regs := [.SM_SLICE_BIND] } d y := Die.clearElem_within d .SM_SLICE_BIND sl
  have hzero : y.reg .SM_SLICE_BIND sl 0 = 0 := Die.reg_clearElem_same d .SM_SLICE_BIND sl rfl rfl
  have hnone : ∀ f : Fld, f.reg = .SM_SLICE_BIND → f.word = 0 → y.getF f sl = 0 := fun f hr hw => by
    unfold Die.getF
    rw [hr, hw, hzero]
    unfold fieldOf
    simp
  have hz : Within { regs := [.SM_SLICE_BIND] } y z ∧ z.getF F.SM_SLICE_BIND.PASID_VALID sl = Bool.num pv ∧
      (pv = true → z.getF F.SM_SLICE_BIND.PASID sl = pasid % 2 ^ 20) ∧ z.getF F.SM_SLICE_BIND.VF_VALID sl = 0 := by
    unfold z
    clear_value y
    cases pv with
    | false => exact ⟨.refl y, hnone F.SM_SLICE_BIND.PASID_VALID rfl rfl, fun hpv => absurd hpv Bool.false_ne_true, hnone F.SM_SLICE_BIND.VF_VALID rfl rfl⟩
    | true =>
      rw [if_pos rfl]
      refine ⟨(Die.setF_within y F.SM_SLICE_BIND.PASID sl pasid).trans (Die.setF_within _ F.SM_SLICE_BIND.PASID_VALID sl 1), ?_, fun _ => ?_, ?_⟩
      · rw [Die.getF_setF_same _ _ _ _ (Nat.le_of_ble_eq_true rfl)] <;> rfl
      · rw [Die.getF_setF_apart _ _ _ _ _ rfl, Die.getF_setF_same _ _ _ _ (Nat.le_of_ble_eq_true rfl)]
      · rw [Die.getF_setF_apart _ _ _ _ _ rfl, Die.getF_setF_apart _ _ _ _ _ rfl]
        exact hnone F.SM_SLICE_BIND.VF_VALID rfl rfl
  obtain ⟨hin, hvalid, hpasid, hvf⟩ := hz
  clear_value z
  cases vv with
  | false => exact ⟨hclear.trans hin, hvalid, hpasid, hvf, fun hvv => absurd hvv Bool.false_ne_true⟩
  | true =>
    rw [if_pos rfl]
    refine ⟨(hclear.trans hin).trans ((Die.setF_within z F.SM_SLICE_BIND.VF sl vf).trans (Die.setF_within _ F.SM_SLICE_BIND.VF_VALID sl 1)), ?_, fun hpv => ?_, ?_, fun _ => ?_⟩
    · rw [Die.getF_setF_apart _ _ _ _ _ rfl, Die.getF_setF_apart _ _ _ _ _ rfl]
      exact hvalid
    · rw [Die.getF_setF_apart _ _ _ _ _ rfl, Die.getF_setF_apart _ _ _ _ _ rfl]
      exact hpasid hpv
    · rw [Die.getF_setF_same _ _ _ _ (Nat.le_of_ble_eq_true rfl)] <;> rfl
    · rw [Die.getF_setF_apart _ _ _ _ _ rfl, Die.getF_setF_same _ _ _ _ (Nat.le_of_ble_eq_true rfl)]

/-- No other slice has the identity. -/
theorem identity_free {d : Die} {sl n : Nat} {valid val : Fld} {v : Bool}
    (h : v = true → ∀ t < 512, t ≠ sl → ¬ (d.bit valid t = true ∧ d.getF val t = n)) :
    ¬ (v = true ∧ (List.range 512).any (fun t => decide (t ≠ sl) && d.bit valid t && decide (d.getF val t = n)) = true) := by
  rintro ⟨hv, hany⟩
  obtain ⟨t, ht, hall⟩ := List.any_eq_true.1 hany
  obtain ⟨hfirst, hval⟩ := Bool.and_eq_true_iff.1 hall
  obtain ⟨hne, hvalid⟩ := Bool.and_eq_true_iff.1 hfirst
  exact h hv t (List.mem_range.1 ht) (of_decide_eq_true hne) ⟨hvalid, of_decide_eq_true hval⟩

theorem exec_bind {s : State} {id : Nat} {c : Cmd} {d : Die} (h : Acting s id Op.SLICE_CTL c d) (haux : c.aux = 0) (harg : c.arg0 = 8)
    (hin : d.inState c.sl [1, 4] = true)
    (hpasid : dfield c.desc 32 20 1 = 1 → ∀ t < 512, t ≠ c.sl → ¬ (d.bit F.SM_SLICE_BIND.PASID_VALID t = true ∧ d.getF F.SM_SLICE_BIND.PASID t = dfield c.desc 32 0 20))
    (hvf : dfield c.desc 36 7 1 = 1 → ∀ t < 512, t ≠ c.sl → ¬ (d.bit F.SM_SLICE_BIND.VF_VALID t = true ∧ d.getF F.SM_SLICE_BIND.VF t = dfield c.desc 36 0 6)) :
    exec (.bind id) s = .next (actsTo s id c ((d.identities c.sl (decide (dfield c.desc 32 20 1 = 1)) (decide (dfield c.desc 36 7 1 = 1)) (dfield c.desc 32 0 20)
      (dfield c.desc 36 0 6)).opDone s.env c 0)) := by
  rw [exec_sliceCtl h haux harg rfl]
  dsimp only
  rw [if_neg (by rw [hin]; decide), if_neg (identity_free fun hv => hpasid (of_decide_eq_true hv)), if_neg (identity_free fun hv => hvf (of_decide_eq_true hv))]
  rfl

theorem num_of_bit {n : Nat} (h : n < 2) : Bool.num (decide (n = 1)) = n := by
  interval_cases n <;> rfl

/-- Settles O43, by what each sub-operation leaves once it has begun. -/
theorem sliceSetUpFollowsItsStates : Obligations.SliceSetUpFollowsItsStates := by
  unfold Obligations.SliceSetUpFollowsItsStates
  intro s id c d h haux
  refine ⟨fun harg hstate => ?_, fun harg hstate hfree => ?_, exec_clusters_none h haux, fun harg hkind hstate => ?_, fun harg hkind hm hstate hfree => ?_,
    fun harg hin hfree hhome => ?_, fun harg hin hmine => ?_, fun harg hin p hbad => exec_pagesRelease_refused h haux harg hin hbad, fun harg hin hrest hbound => ?_,
    fun harg hin hrest hbound => ?_, fun harg hin => ?_⟩
  · obtain rfl := h.id
    refine (exec_sliceCtl h haux harg rfl).trans ?_
    dsimp only
    rw [if_pos hstate]
    rfl
  · obtain ⟨hfields, hdram⟩ := Die.created_spec s.env d c.sl (c.q 32) (c.q 40)
    exact ⟨_, exec_create h haux harg hstate hfree, hfields, hdram⟩
  · have hmask := Die.setReg_within d .SM_SLICE_CLUSTERS c.sl 0 (BitVec.ofNat 64 (c.q 40)) (p := { regs := [.SM_SLICE_CLUSTERS] })
    exact ⟨_, exec_clusters_ordinary h haux harg hkind hstate, ⟨Die.reg_setReg_same d .SM_SLICE_CLUSTERS c.sl 0 _, hmask.getF F.SM_SLICE.STATE c.sl⟩, hmask.dram⟩
  · obtain ⟨gone, come, hexec⟩ := exec_clusters_reserved h haux harg hkind hm hstate hfree
    obtain ⟨hmask, hdram⟩ := Die.maskMoved_spec s.env d c.sl (c.q 40) gone come
    exact ⟨_, hexec, hmask, hdram⟩
  · obtain ⟨hpages, hothers, hregs, hmem⟩ := Die.pagesSet_spec d c.pageList 2 c.sl (d.bit F.SM_SLICE.HOMING c.sl) c
    exact ⟨_, exec_pagesAssign h haux harg hin hfree hhome, fun p hp => ⟨(hpages p hp).1, (hpages p hp).2.trans (Nat.mod_eq_of_lt (dfield_lt c.desc 8 0 9))⟩, hothers, hregs, hmem⟩
  · obtain ⟨hpages, hothers, hregs, hmem⟩ := Die.pagesSet_spec d c.pageList 0 0 false c
    exact ⟨_, exec_pagesRelease h haux harg hin hmine, fun p hp => (hpages p hp).1, hothers, hregs, hmem⟩
  · obtain ⟨hactive, hstate⟩ := Die.goActive_spec s.env d c.sl
    refine ⟨_, (exec_activate h haux harg hin hrest).trans ?_, hstate, hactive.dram⟩
    rw [if_pos hbound]
  · refine (exec_activate h haux harg hin hrest).trans ?_
    rw [if_neg (by rw [hbound]; decide)]
    rfl
  · intro pv vv pasid vf hpasid hvf
    obtain ⟨hwithin, hpv, hp, hvv, hv⟩ := Die.identities_spec d c.sl (decide (dfield c.desc 32 20 1 = 1)) (decide (dfield c.desc 36 7 1 = 1)) pasid vf
    exact ⟨_, exec_bind h haux harg hin hpasid hvf, ⟨hpv.trans (num_of_bit (dfield_lt c.desc 32 20 1)),
      fun h1 => (hp (decide_eq_true h1)).trans (Nat.mod_eq_of_lt (dfield_lt c.desc 32 0 20)), hvv.trans (num_of_bit (dfield_lt c.desc 36 7 1)),
      fun h1 => (hv (decide_eq_true h1)).trans (Nat.mod_eq_of_lt (dfield_lt c.desc 36 0 6)), hwithin.keepsRegs⟩, hwithin.dram⟩

end Sys2Proof.Machine
end

section
/-! PROOF. Changes of page state, scrubs, and the page that SM_POT_SET reserves or withdraws (O45). -/

-- One proof after another: all at once, they ask for more threads than the check's memory limit admits.
set_option Elab.async false

namespace Sys2Proof.Machine

/-! ### What a scrub depends on -/

theorem Within.stackPages {p : Touch} {d t : Die} (h : Within p d t) (e : Env) (n : Nat) (hr : p.regs.contains .MC_STATUS = false := by rfl) :
    t.stackPages e n = d.stackPages e n := by
  unfold Die.stackPages
  rw [h.getF F.MC_STATUS.MODE n hr, h.getF F.MC_STATUS.PRESENT_PAGES n hr]

theorem Within.present {p : Touch} {d t : Die} (h : Within p d t) (e : Env) (q : Nat) (hr : p.regs.contains .MC_STATUS = false := by rfl) :
    t.present e q = d.present e q := by
  unfold Die.present
  rw [h.stackPages e _ hr]

theorem Within.isNmapPage {p : Touch} {d t : Die} (h : Within p d t) (e : Env) (q : Nat) (hr : p.regs.contains .MC_STATUS = false := by rfl) :
    t.isNmapPage e q = d.isNmapPage e q := by
  unfold Die.isNmapPage
  rw [h.present e q hr, h.stackPages e _ hr, h.getF F.MC_STATUS.NMAP_PAGES _ hr]

/-- A page's entry reads the same in two dies, but for SCRUBBING. -/
def samePages (d t : Die) : Prop := ∀ f : Fld, f.reg = .SM_POT → F.SM_POT.SCRUBBING.apart f = true → f.word = 0 → ∀ p, t.getF f p = d.getF f p

theorem samePages.refl (d : Die) : samePages d d := fun _ _ _ _ _ => rfl

theorem samePages.trans {d t u : Die} (h : samePages d t) (h' : samePages t u) : samePages d u :=
  fun f hr ha hw p => (h' f hr ha hw p).trans (h f hr ha hw p)

theorem Within.samePages {p : Touch} {d t : Die} (h : Within p d t) (hr : p.regs.contains .SM_POT = false := by rfl) : samePages d t :=
  fun f hf _ _ q => h.getF f q (hf ▸ hr)

theorem Die.setScrubbing_samePages (d : Die) (p v : Nat) : samePages d (d.setF F.SM_POT.SCRUBBING p v) :=
  fun f _ ha hw q => Die.getF_setF_away d F.SM_POT.SCRUBBING f p q v ha hw

theorem samePages.pageState {d t : Die} (h : samePages d t) (p : Nat) : t.pageState p = d.pageState p := h F.SM_POT.STATE rfl rfl rfl p

theorem samePages.orphan {d t : Die} (h : samePages d t) (p : Nat) : t.bit F.SM_POT.ORPHAN p = d.bit F.SM_POT.ORPHAN p := by
  unfold Die.bit
  rw [h F.SM_POT.ORPHAN rfl rfl rfl p]

theorem scrubbable_congr {q : Touch} {d t : Die} (h : Within q d t) (hp : samePages d t) (e : Env) {p : Nat} (hrest : t.sm.restore.contains p = d.sm.restore.contains p)
    (hr : q.regs.contains .MC_STATUS = false := by rfl) : t.scrubbable e p = d.scrubbable e p := by
  unfold Die.scrubbable
  rw [h.present e p hr, h.isNmapPage e p hr, hp.pageState p, hp.orphan p, hrest]

/-- A page with an order of its own may be scrubbed where it is UNSCRUBBED, or withdrawn and orphaned under an order with RESTORE. -/
theorem scrubbable_iff {e : Env} {d : Die} {p : Nat} (r : Bool) :
    Die.scrubbable e (if r then { d with sm.restore := [p] } else { d with sm.restore := [] }) p = true ↔
      d.present e p = true ∧ d.isNmapPage e p = false ∧ (d.pageState p = 0 ∨ (r = true ∧ d.pageState p = 3 ∧ d.bit F.SM_POT.ORPHAN p = true)) := by
  have hall : ∀ l : List Nat, Die.scrubbable e { d with sm.restore := l } p =
      (d.present e p && !(d.isNmapPage e p) && (decide (d.pageState p = 0) || (l.contains p && decide (d.pageState p = 3) && d.bit F.SM_POT.ORPHAN p))) := fun _ => rfl
  cases r with
  | false =>
    rw [if_neg Bool.false_ne_true, hall]
    simp
    tauto
  | true =>
    rw [if_pos rfl, hall]
    simp
    tauto

/-! ### Pages that wait for a scrub -/

/-- The page is queued for a scrub, or a reclamation will scrub it. -/
def Die.awaitsScrub (d : Die) (p : Nat) : Prop := (∃ b, (p, b) ∈ d.sm.scrubs) ∨ ∃ o ∈ d.sm.potOps, o.kind = 2 ∧ p ∈ o.pages

theorem Die.awaitsScrub_of_sm {d t : Die} {p : Nat} (hs : t.sm.scrubs = d.sm.scrubs) (ho : t.sm.potOps = d.sm.potOps) (h : d.awaitsScrub p) : t.awaitsScrub p := by
  unfold Die.awaitsScrub
  rw [hs, ho]
  exact h

theorem Die.foreman_within (d : Die) {f : Fld} (hf : f.reg = .ST_FOREMAN_STATUS) : Within { regs := [.ST_FOREMAN_STATUS] } d (d.foreman f) :=
  Die.incSat_within d f 0 1 (by rw [hf]; rfl)

/-- What the queue of scrubs touches. -/
def queueTouch : Touch := { regs := [.ST_FOREMAN_STATUS], sm := true }

theorem Die.queueScrub_spec (d : Die) (p : Nat) : Within queueTouch d (d.queueScrub p) ∧ (d.queueScrub p).awaitsScrub p ∧
    (∀ q, d.awaitsScrub q → (d.queueScrub p).awaitsScrub q) ∧ (d.queueScrub p).sm.restore = d.sm.restore := by
  unfold Die.queueScrub
  split
  · next h =>
    have hf := Die.foreman_within d (f := F.ST_FOREMAN_STATUS.MERGES) rfl
    have hsm : ∀ q, d.awaitsScrub q → (d.foreman F.ST_FOREMAN_STATUS.MERGES).awaitsScrub q := fun q hq =>
      Die.awaitsScrub_of_sm (congrArg (fun x : Slices => x.scrubs) hf.sm) (congrArg (fun x : Slices => x.potOps) hf.sm) hq
    refine ⟨hf.mono, hsm p ?_, hsm, congrArg (fun x : Slices => x.restore) hf.sm⟩
    rcases h with h | h
    · obtain ⟨⟨q, b⟩, hx, hq⟩ := List.any_eq_true.1 h
      obtain rfl : q = p := of_decide_eq_true hq
      exact .inl ⟨b, hx⟩
    · obtain ⟨o, ho, hk⟩ := List.any_eq_true.1 h
      obtain ⟨hkind, hpages⟩ := Bool.and_eq_true_iff.1 hk
      exact .inr ⟨o, ho, of_decide_eq_true hkind, List.contains_iff_mem.1 hpages⟩
  · refine ⟨Die.setSm_within d _, .inl ⟨false, List.mem_append_right _ (List.mem_singleton_self _)⟩, fun q hq => ?_, rfl⟩
    exact hq.imp (fun ⟨b, hb⟩ => ⟨b, List.mem_append_left _ hb⟩) id

/-- Pages that a SCRUB names are queued, one after the other; with `r`, under an order to restore them. -/
def Die.scrubsQueued (d : Die) (r : Bool) (ps : List Nat) : Die :=
  ps.foldl (fun d p => Die.queueScrub (if r then { d with sm.restore := d.sm.restore ++ [p] } else d) p) d

/-- One page of a SCRUB is queued. -/
def Die.scrubQueued (d : Die) (r : Bool) (p : Nat) : Die := Die.queueScrub (if r then { d with sm.restore := d.sm.restore ++ [p] } else d) p

theorem Die.scrubQueued_spec (d : Die) (r : Bool) (p : Nat) : Within queueTouch d (d.scrubQueued r p) ∧
    ((d.scrubQueued r p).awaitsScrub p ∧ (r = true → p ∈ (d.scrubQueued r p).sm.restore)) ∧
    ∀ q, (d.awaitsScrub q ∧ (r = true → q ∈ d.sm.restore)) → (d.scrubQueued r p).awaitsScrub q ∧ (r = true → q ∈ (d.scrubQueued r p).sm.restore) := by
  unfold Die.scrubQueued
  have hnew : ∀ y : Die, Within { sm := true } d y → y.sm.scrubs = d.sm.scrubs → y.sm.potOps = d.sm.potOps → (r = true → p ∈ y.sm.restore) → (∀ q ∈ d.sm.restore, q ∈ y.sm.restore) →
      Within queueTouch d (y.queueScrub p) ∧ ((y.queueScrub p).awaitsScrub p ∧ (r = true → p ∈ (y.queueScrub p).sm.restore)) ∧
      ∀ q, (d.awaitsScrub q ∧ (r = true → q ∈ d.sm.restore)) → (y.queueScrub p).awaitsScrub q ∧ (r = true → q ∈ (y.queueScrub p).sm.restore) := by
    intro y hy hscrubs hops hp hall
    obtain ⟨hq, hpq, hkeep, hrest⟩ := Die.queueScrub_spec y p
    rw [hrest]
    exact ⟨hy.mono.trans hq, ⟨hpq, hp⟩, fun q hold => ⟨hkeep q (Die.awaitsScrub_of_sm hscrubs hops hold.1), fun hr => hall q (hold.2 hr)⟩⟩
  cases r with
  | false => exact hnew d (.refl d) rfl rfl (fun h => absurd h Bool.false_ne_true) (fun _ hq => hq)
  | true => exact hnew _ (Die.setSm_within d _) rfl rfl (fun _ => List.mem_append_right _ (List.mem_singleton_self p)) (fun _ hq => List.mem_append_left _ hq)

theorem Die.scrubsQueued_spec (d : Die) (r : Bool) (ps : List Nat) : Within queueTouch d (d.scrubsQueued r ps) ∧
    ∀ p ∈ ps, (d.scrubsQueued r ps).awaitsScrub p ∧ (r = true → p ∈ (d.scrubsQueued r ps).sm.restore) :=
  ⟨.foldl _ (fun y p => (Die.scrubQueued_spec y r p).1) _ _,
    foldl_reaches (p := fun p (y : Die) => y.awaitsScrub p ∧ (r = true → p ∈ y.sm.restore)) (f := fun y p => y.scrubQueued r p)
      (fun y p => (Die.scrubQueued_spec y r p).2.1) (fun y p q => (Die.scrubQueued_spec y r p).2.2 q) ps d⟩

/-! ### The next page of each stack -/

/-- What the pump of the scrubs touches. -/
def scrubTouch : Touch :=
  { regs := [.ST_FOREMAN_STATUS, .SM_POT, .ST_REGION_STATUS], sm := true, mem := true, coh := true, bt := true, out := true }

theorem Die.scrubGone_within (d : Die) (p : Nat) : Within { sm := true } d (d.scrubGone p) := Die.setSm_within d _

theorem Die.scrubGone_awaits {d : Die} {p q : Nat} (hne : q ≠ p) (h : d.awaitsScrub q) : (d.scrubGone p).awaitsScrub q :=
  h.imp (fun ⟨b, hb⟩ => ⟨b, List.mem_filter.2 ⟨hb, decide_eq_true hne⟩⟩) id

theorem Die.scrubWaits_spec (e : Env) (d : Die) (n : Nat) : Within queueTouch d (d.scrubWaits e n) ∧ ∀ q, d.awaitsScrub q → (d.scrubWaits e n).awaitsScrub q := by
  unfold Die.scrubWaits
  dsimp only
  refine ⟨.foldl _ (fun y x => ?_) _ _, fun q hq => foldl_invariant (fun y : Die => y.awaitsScrub q) _ (fun y x hy => ?_) _ _ hq⟩
  · split
    · exact .refl y
    · exact (Die.setSm_within y _).trans (Die.foreman_within _ rfl).mono
  · split
    · exact hy
    · exact hy

/-- The scrub of a page starts. -/
def Die.scrubMark (d : Die) (p : Nat) : Die := { d with sm.scrubs := d.sm.scrubs.map (fun y => if y.1 = p then (p, true) else y) }

theorem Die.scrubMark_awaits {d : Die} {q : Nat} (p : Nat) (h : d.awaitsScrub q) : (d.scrubMark p).awaitsScrub q := by
  refine h.imp (fun ⟨b, hb⟩ => ?_) id
  by_cases hq : q = p
  · exact ⟨true, List.mem_map.2 ⟨(q, b), hb, by rw [if_pos hq, hq]⟩⟩
  · exact ⟨b, List.mem_map.2 ⟨(q, b), hb, if_neg hq⟩⟩

/-- A scrub that starts during a blackout or a retraining of its stack is counted as paused. -/
def Die.scrubPauses (d : Die) (n : Nat) : Die :=
  if (Tab.get none d.mem.cal n).isSome ∨ d.mem.retr.contains n then d.foreman F.ST_FOREMAN_STATUS.PAUSES else d

theorem Die.scrubPauses_within (d : Die) (n : Nat) : Within { regs := [.ST_FOREMAN_STATUS] } d (d.scrubPauses n) := by
  unfold Die.scrubPauses
  split
  · exact Die.foreman_within d rfl
  · exact .refl d

/-- The turn of stack `n` in the pump of the scrubs. -/
def Die.scrubTurn (e : Env) (d : Die) (n : Nat) : Die :=
  if d.sm.scrubs.any (fun x => x.2 && decide (stackOf x.1 = n)) then d
  else
    let d := d.scrubWaits e n
    match d.sm.scrubs.find? (fun x => decide (stackOf x.1 = n) && !(d.potHolds x.1) && !(d.scrubMeets e x.1)) with
    | some x => (((d.scrubMark x.1).scrubPauses n).setF F.SM_POT.SCRUBBING x.1 1).wake e n
    | none => d

theorem Die.scrubTurn_spec (e : Env) (d : Die) (n : Nat) :
    Within scrubTouch d (d.scrubTurn e n) ∧ samePages d (d.scrubTurn e n) ∧ ∀ q, d.awaitsScrub q → (d.scrubTurn e n).awaitsScrub q := by
  unfold Die.scrubTurn
  split
  · exact ⟨.refl d, .refl d, fun _ hq => hq⟩
  · obtain ⟨hwaits, hawaits⟩ := Die.scrubWaits_spec e d n
    dsimp only
    generalize d.scrubWaits e n = y at hwaits hawaits
    split
    · next x _ =>
      have hmark : Within { sm := true } y (y.scrubMark x.1) := Die.setSm_within y _
      have hmarked := fun q (hq : y.awaitsScrub q) => Die.scrubMark_awaits x.1 hq
      generalize y.scrubMark x.1 = z at hmark hmarked
      have hpause := Die.scrubPauses_within z n
      generalize z.scrubPauses n = w at hpause
      have hset := Die.setF_within w F.SM_POT.SCRUBBING x.1 1 (p := { regs := [.SM_POT] })
      have hpages := Die.setScrubbing_samePages w x.1 1
      generalize w.setF F.SM_POT.SCRUBBING x.1 1 = v at hset hpages
      have hwake := Die.wake_within e v n
      refine ⟨hwaits.mono.trans (hmark.mono.trans (hpause.mono.trans (hset.mono.trans hwake.mono))),
        (((hwaits.samePages.trans hmark.samePages).trans hpause.samePages).trans hpages).trans hwake.samePages, fun q hq => ?_⟩
      have hsm : (v.wake e n).sm = z.sm := hwake.sm.trans (hset.sm.trans hpause.sm)
      exact Die.awaitsScrub_of_sm (congrArg (fun x : Slices => x.scrubs) hsm) (congrArg (fun x : Slices => x.potOps) hsm) (hmarked q (hawaits q hq))
    · exact ⟨hwaits.mono, hwaits.samePages, hawaits⟩

/-- The queue without the pages that are to be scrubbed no more. -/
def Die.scrubsKept (e : Env) (d : Die) : Die := (d.sm.scrubs.filter (fun x => !x.2 && !(d.scrubbable e x.1))).foldl (fun d x => d.scrubGone x.1) d

theorem Die.scrubsKept_spec (e : Env) (d : Die) :
    Within { sm := true } d (d.scrubsKept e) ∧ ∀ q, d.scrubbable e q = true → d.awaitsScrub q → (d.scrubsKept e).awaitsScrub q := by
  unfold Die.scrubsKept
  refine ⟨.foldl _ (fun y (x : Nat × Bool) => Die.scrubGone_within y x.1) _ _, fun q hq hold => ?_⟩
  have hne : ∀ x ∈ d.sm.scrubs.filter (fun x => !x.2 && !(d.scrubbable e x.1)), q ≠ x.1 := by
    rintro x hx rfl
    have := (Bool.and_eq_true_iff.1 (List.mem_filter.1 hx).2).2
    rw [hq] at this
    exact Bool.false_ne_true this
  generalize d.sm.scrubs.filter (fun x => !x.2 && !(d.scrubbable e x.1)) = l at hne
  clear hq
  induction l generalizing d with
  | nil => exact hold
  | cons x l ih =>
    exact ih _ (Die.scrubGone_awaits (hne x (List.mem_cons_self ..)) hold) (fun y hy => hne y (List.mem_cons_of_mem _ hy))

theorem Die.scrubPump_spec (e : Env) (d : Die) : Within scrubTouch d (d.scrubPump e) ∧ samePages d (d.scrubPump e) ∧
    ∀ q, d.scrubbable e q = true → d.awaitsScrub q → (d.scrubPump e).awaitsScrub q := by
  have hpump : d.scrubPump e = (List.range 8).foldl (Die.scrubTurn e) (d.scrubsKept e) := rfl
  obtain ⟨hkept, hawaits⟩ := Die.scrubsKept_spec e d
  rw [hpump]
  generalize d.scrubsKept e = y at hkept hawaits
  refine ⟨hkept.mono.trans (.foldl _ (fun z n => (Die.scrubTurn_spec e z n).1) _ _), ?_, fun q hq hold => ?_⟩
  · refine hkept.samePages.trans (foldl_invariant (fun z : Die => samePages y z) _ (fun z n hz => hz.trans (Die.scrubTurn_spec e z n).2.1) _ _ (.refl y))
  · exact foldl_invariant (fun z : Die => z.awaitsScrub q) _ (fun z n hz => (Die.scrubTurn_spec e z n).2.2 q hz) _ _ (hawaits q hq hold)

end Sys2Proof.Machine
end

section
/-! PROOF. Changes of page state, scrubs and the dirty log (O45). -/

-- One proof after another: all at once, they ask for more threads than the check's memory limit admits.
set_option Elab.async false

namespace Sys2Proof.Machine

/-! ### Changes of page state -/

theorem exec_potChangeDone {s : State} {o : PotOp} (hfind : s.d.sm.potOps.find? (fun x => decide (x.id = o.id)) = some o) :
    exec (.potChangeDone o.id) s = .next { s with d := s.d.potChange s.env o } := by
  change execPotChangeDone o.id s = _
  unfold execPotChangeDone
  rw [hfind] <;> rfl

theorem potChange_waits {e : Env} {d : Die} {o : PotOp} (hfree : d.potFree o = false) : d.potChange e o = d := by
  unfold Die.potChange
  exact if_pos (.inr (.inr (by rw [hfree]; rfl)))

theorem potChange_assigned {e : Env} {d : Die} {o : PotOp} (hflush : o.flush = none) (hfree : d.potFree o = true) (hkind : o.kind = 0) :
    d.potChange e o = d.potEnd e o := by
  unfold Die.potChange
  rw [if_neg (by rw [hflush, hfree, hkind]; decide), if_pos hkind]

theorem potChange_purges {e : Env} {d : Die} {o : PotOp} (hflush : o.flush = none) (hfree : d.potFree o = true) (hkind : o.kind = 1) :
    d.potChange e o = (d.setPot { o with flush := some d.nid }).startFlush e (.pages o.pages) (.potOp o.id) := by
  unfold Die.potChange
  rw [if_neg (by rw [hflush, hfree, hkind]; decide), if_neg (by rw [hkind]; decide)]
  dsimp only
  rw [if_neg (by rw [hkind]; decide)]

/-! ### SCRUB -/

/-- The pages of a SCRUB that are to be scrubbed. -/
def Die.pagesToScrub (e : Env) (d : Die) (c : Cmd) : List Nat :=
  ((List.range (c.w 12)).map (fun i => c.w 8 + i)).filter (fun p =>
    Die.scrubbable e (if decide (c.q 32 = 1) then { d with sm.restore := [p] } else { d with sm.restore := [] }) p)

theorem mem_pagesToScrub {e : Env} {d : Die} {c : Cmd} {p : Nat} : p ∈ d.pagesToScrub e c ↔
    (∃ i, i < c.w 12 ∧ p = c.w 8 + i) ∧ d.present e p = true ∧ d.isNmapPage e p = false ∧
      (d.pageState p = 0 ∨ (c.q 32 = 1 ∧ d.pageState p = 3 ∧ d.bit F.SM_POT.ORPHAN p = true)) := by
  unfold Die.pagesToScrub
  rw [List.mem_filter, List.mem_map, scrubbable_iff, decide_eq_true_iff]
  refine and_congr ⟨fun ⟨i, hi, hp⟩ => ⟨i, List.mem_range.1 hi, hp.symm⟩, fun ⟨i, hi, hp⟩ => ⟨i, List.mem_range.2 hi, hp.symm⟩⟩ Iff.rfl

/-- A SCRUB whose pages have been queued. -/
def Die.scrubOrdered (e : Env) (d : Die) (c : Cmd) : Die := (d.scrubsQueued (decide (c.q 32 = 1)) (d.pagesToScrub e c)).scrubPump e

theorem Die.scrubOrdered_spec (e : Env) (d : Die) (c : Cmd) :
    Within scrubTouch d (d.scrubOrdered e c) ∧ samePages d (d.scrubOrdered e c) ∧ ∀ p ∈ d.pagesToScrub e c, (d.scrubOrdered e c).awaitsScrub p := by
  obtain ⟨hqueued, hwait⟩ := Die.scrubsQueued_spec d (decide (c.q 32 = 1)) (d.pagesToScrub e c)
  unfold Die.scrubOrdered
  generalize d.scrubsQueued (decide (c.q 32 = 1)) (d.pagesToScrub e c) = y at hqueued hwait
  obtain ⟨hpump, hsame, hstill⟩ := Die.scrubPump_spec e y
  refine ⟨hqueued.mono.trans hpump, hqueued.samePages.trans hsame, fun p hp => hstill p ?_ (hwait p hp).1⟩
  obtain ⟨-, hpresent, hnmap, hstate⟩ := mem_pagesToScrub.1 hp
  unfold Die.scrubbable
  rw [hqueued.present e p, hpresent, hqueued.isNmapPage e p, hnmap, hqueued.samePages.pageState p, hqueued.samePages.orphan p]
  rcases hstate with hstate | ⟨hr, hstate, horphan⟩
  · rw [hstate]
    rfl
  · rw [hstate, horphan, List.contains_iff_mem.2 ((hwait p hp).2 (decide_eq_true hr))]
    rfl

/-- A privileged command ends with a result, and its fence waits for pages. -/
theorem Die.finish_addFence_spec {d : Die} {c : Cmd} (h : d.cmd c.id = some c) (n : Nat) (ps : List Nat) :
    Within { sf := true, sm := true } d ((d.finish c.id St.OK n).addFence c 3 0 ps true) ∧
      ((d.finish c.id St.OK n).addFence c 3 0 ps true).cmd c.id = some { c with st := .done, status := St.OK, result := n } ∧
      ((d.finish c.id St.OK n).addFence c 3 0 ps true).sm.scrubs = d.sm.scrubs ∧ ((d.finish c.id St.OK n).addFence c 3 0 ps true).sm.potOps = d.sm.potOps := by
  have hend := Die.finish_within d c.id St.OK n (p := { sf := true })
  have hcmd := Die.finish_cmd d c.id St.OK n c h
  generalize d.finish c.id St.OK n = y at hend hcmd
  have hsm : y.sm = d.sm := hend.sm
  exact ⟨hend.mono.trans (Die.setSm_within y _), hcmd, (congrArg (fun x : Slices => x.scrubs) hsm :), (congrArg (fun x : Slices => x.potOps) hsm :)⟩

theorem exec_scrub {s : State} {id : Nat} {c : Cmd} {d : Die} (h : Acting s id Op.SCRUB c d) :
    exec (.scrub id) s = .next (actsTo s id c ((((d.scrubOrdered s.env c).finish c.id St.OK (d.pagesToScrub s.env c).length).addFence c 3 0 (d.pagesToScrub s.env c) true).fencesGo s.env)) := by
  refine (exec_of_start h rfl (fun _ _ _ => rfl)).trans ?_
  unfold Die.scrubOrdered Die.scrubsQueued Die.pagesToScrub
  rfl

/-! ### The end of a page's scrub -/

/-- The page reads as zeros, and no copy of it stays. -/
def Die.zeroed (d : Die) (p : Nat) : Die :=
  { d with
    mem.dram := d.mem.dram.filter (fun x => decide (x.1 / 2 ^ 25 ≠ p)),
    mem.side := d.mem.side.filter (fun x => decide (x.1 / 2 ^ 22 ≠ p)),
    mem.nmap := (List.range 1024).foldl (fun t i => Tab.set ones t (nmapKey (p * 2 ^ 18) + i) 0) d.mem.nmap,
    mem.nmapBad := d.mem.nmapBad.filter (fun x => !(decide (nmapKey (p * 2 ^ 18) ≤ x.1 ∧ x.1 < nmapKey (p * 2 ^ 18) + 1024))),
    mem.nmc := d.mem.nmc.map (fun x => if decide (nmapKey (p * 2 ^ 18) ≤ x.1 ∧ x.1 < nmapKey (p * 2 ^ 18) + 1024) then
      (x.1, x.2.map (fun c => { c with data := 0, dirty := false })) else x),
    mem.tagc := d.mem.tagc.filter (fun x => !(decide (pageOfLine x.1 = p))),
    coh.lc := d.coh.lc.filter (fun x => !(decide (pageOfLine x.1 = p))),
    coh.dir := d.coh.dir.filter (fun x => !(decide (pageOfLine x.1 = p))),
    coh.side := (d.coh.side.map (fun x => (x.1, x.2.filter (fun y => !(decide (pageOfLine y.line = p)))))).filter (fun x => decide (x.2 ≠ [])) }

theorem Die.zeroPage_eq (e : Env) (d : Die) (p : Nat) : d.zeroPage e p = (d.zeroed p).chargeBulk e (stackOf p) (2 ^ 25) := rfl

theorem Die.zeroed_spec (d : Die) (p : Nat) : Within { mem := true, dram := true, coh := true } d (d.zeroed p) ∧
    (∀ a, a / 2 ^ 25 = p → Tab.get 0 (d.zeroed p).mem.dram a = 0) ∧ (∀ a, a / 2 ^ 25 ≠ p → Tab.get 0 (d.zeroed p).mem.dram a = Tab.get 0 d.mem.dram a) := by
  refine ⟨.of_eq rfl rfl, fun a ha => ?_, fun a ha => ?_⟩
  · refine Tab.get_of_unlisted 0 _ a fun x hx hxa => ?_
    have hkept := of_decide_eq_true (List.mem_filter.1 hx).2
    exact hkept (by rw [hxa, ha])
  · exact Tab.get_filter_key 0 d.mem.dram (fun k => decide (k / 2 ^ 25 ≠ p)) a (decide_eq_true ha)

/-- What the zeroing of a page touches. -/
def zeroTouch : Touch := { regs := monRegs, mem := true, dram := true, coh := true, ch := true }

theorem Die.zeroPage_spec (e : Env) (d : Die) (p : Nat) : Within zeroTouch d (d.zeroPage e p) ∧
    (∀ a, a / 2 ^ 25 = p → Tab.get 0 (d.zeroPage e p).mem.dram a = 0) ∧ (∀ a, a / 2 ^ 25 ≠ p → Tab.get 0 (d.zeroPage e p).mem.dram a = Tab.get 0 d.mem.dram a) := by
  obtain ⟨hzero, hin, hout⟩ := Die.zeroed_spec d p
  have hcharge := Die.chargeBulk_within e (d.zeroed p) (stackOf p) (2 ^ 25)
  rw [Die.zeroPage_eq, hcharge.dram]
  exact ⟨hzero.mono.trans hcharge.mono, hin, hout⟩

/-- The page is zero, and FREE where it was to be scrubbed. -/
def Die.scrubbed (e : Env) (d : Die) (p : Nat) : Die :=
  let d := (d.zeroPage e p).setF F.SM_POT.SCRUBBING p 0
  if d.scrubbable e p then d.setPage p 1 0 0 0 else d

theorem Die.scrubbed_spec (e : Env) (d : Die) (p : Nat) :
    (d.scrubbable e p = true → (d.scrubbed e p).pageState p = 1) ∧ (d.scrubbable e p = false → (d.scrubbed e p).pageState p = d.pageState p) ∧
      (d.scrubbed e p).getF F.SM_POT.SCRUBBING p = 0 ∧ (∀ a, a / 2 ^ 25 = p → Tab.get 0 (d.scrubbed e p).mem.dram a = 0) ∧
      (∀ a, a / 2 ^ 25 ≠ p → Tab.get 0 (d.scrubbed e p).mem.dram a = Tab.get 0 d.mem.dram a) := by
  obtain ⟨hzero, hin, hout⟩ := Die.zeroPage_spec e d p
  unfold Die.scrubbed
  dsimp only
  generalize d.zeroPage e p = y at hzero hin hout
  have hset := Die.setF_within y F.SM_POT.SCRUBBING p 0 (p := { regs := [.SM_POT] })
  have hsame := Die.setScrubbing_samePages y p 0
  have hoff : (y.setF F.SM_POT.SCRUBBING p 0).getF F.SM_POT.SCRUBBING p = 0 := Die.getF_setF_same y F.SM_POT.SCRUBBING p 0 (Nat.le_of_ble_eq_true rfl)
  generalize y.setF F.SM_POT.SCRUBBING p 0 = z at hset hsame hoff
  have hpages : samePages d z := hzero.samePages.trans hsame
  have hmore : z.scrubbable e p = d.scrubbable e p := scrubbable_congr
    (hzero.mono.trans hset.mono : Within { regs := [.CH_BWLAST, .CH_BWPEAK, .CH_BWCOUNT, .SM_POT], mem := true, dram := true, coh := true, ch := true } d z) hpages e
    (by rw [hset.sm, hzero.sm])
  rw [hmore]
  rw [← hset.dram] at hin hout
  by_cases hscrub : d.scrubbable e p = true
  · have hpage := Die.setPage_within z p 1 0 0 0 (p := { regs := [.SM_POT] })
    rw [if_pos hscrub, hpage.dram]
    refine ⟨fun _ => Die.pageState_setPage z p 1 0 0 0, fun hno => absurd (hscrub.symm.trans hno) (by decide), ?_, hin, hout⟩
    unfold Die.setPage
    rw [Die.getF_setF_apart _ _ _ _ _ rfl, Die.getF_setF_apart _ _ _ _ _ rfl, Die.getF_setF_apart _ _ _ _ _ rfl, Die.getF_setF_apart _ _ _ _ _ rfl]
    exact hoff
  · rw [if_neg hscrub]
    exact ⟨fun hyes => absurd hyes hscrub, fun _ => hpages.pageState p, hoff, hin, hout⟩

theorem exec_pageScrubDone {s : State} {p : BitVec 15} (hruns : (p.toNat, true) ∈ s.d.sm.scrubs)
    (hmeets : ∀ f ∈ s.d.coh.flushes, f.filter.meets s.env s.d p.toNat = false) (hretr : stackOf p.toNat ∉ s.d.mem.retr) (hcal : Tab.get none s.d.mem.cal (stackOf p.toNat) = none)
    (hready : s.d.bit F.MC_STATUS.NMAP_READY (stackOf p.toNat) = true) (hrun : s.d.running (stackOf p.toNat) = true)
    (hdir : ∀ x ∈ s.d.coh.dir, pageOfLine x.1 = p.toNat → x.2 = none) :
    exec (.pageScrubDone p) s = .next { s with d := (((s.d.scrubbed s.env p.toNat).scrubGone p.toNat).scrubPump s.env).fencesGo s.env } := by
  have hnone : s.d.scrubMeets s.env p.toNat = false := List.any_eq_false.2 fun f hf => by rw [hmeets f hf]; decide
  have hclean : s.d.coh.dir.any (fun x => decide (pageOfLine x.1 = p.toNat) && x.2.isSome) = false := List.any_eq_false.2 fun x hx hbad => by
    obtain ⟨hpage, hsome⟩ := Bool.and_eq_true_iff.1 hbad
    rw [hdir x hx (of_decide_eq_true hpage)] at hsome
    exact Bool.false_ne_true hsome
  have hretr' : s.d.mem.retr.contains (stackOf p.toNat) = false := Bool.eq_false_iff.2 fun hc => hretr (List.contains_iff_mem.1 hc)
  change execPageScrubDone p s = _
  unfold execPageScrubDone
  dsimp only
  rw [if_neg (by rw [List.contains_iff_mem.2 hruns]; decide), if_neg (by rw [hnone, hretr', hcal, hready]; decide), if_neg (by rw [hrun]; decide), if_neg (by rw [hclean]; decide)]
  rfl

/-! ### The dirty log -/

section
variable {d : Die} {l : DLog} {sl : Nat}

theorem Die.dlog_sl (h : d.dlog sl = some l) : l.sl = sl := of_decide_eq_true (List.find?_some h :)

/-- A log that is set is found as it was set. -/
theorem Die.dlog_setLog {m : DLog} (h : d.dlog sl = some l) (hm : m.sl = sl) : (d.setLog m).dlog sl = some m := by
  unfold Die.dlog Die.setLog at *
  dsimp only
  generalize d.sm.logs = ls at h
  induction ls with
  | nil => cases h
  | cons x ls ih =>
    rw [List.map_cons]
    by_cases hx : x.sl = sl
    · rw [if_pos (hx.trans hm.symm), List.find?_cons_of_pos (by rw [hm]; exact decide_eq_true rfl)]
    · rw [List.find?_cons_of_neg (by rw [decide_eq_false hx]; decide)] at h
      rw [if_neg (fun he => hx (he.trans hm)), List.find?_cons_of_neg (by rw [decide_eq_false hx]; decide)]
      exact ih h

theorem Die.dlog_of_sm {t : Die} (h : t.sm = d.sm) (n : Nat) : t.dlog n = d.dlog n := by
  unfold Die.dlog
  rw [h]

/-- The command has completed with OK and RESULT 0. -/
def Die.doneAtZero (d : Die) (id : Nat) : Prop := ∃ x, d.cmd id = some x ∧ x.st = .done ∧ x.status = St.OK ∧ x.result = 0

theorem Die.finish_doneAtZero {id : Nat} {c : Cmd} (h : d.cmd id = some c) : (d.finish id St.OK 0).doneAtZero id :=
  ⟨_, Die.finish_cmd d id St.OK 0 c h, rfl, rfl, rfl⟩

theorem Die.doneAtZero_of_sf {t : Die} {id : Nat} (hsf : t.sf = d.sf) (h : d.doneAtZero id) : t.doneAtZero id := by
  obtain ⟨x, hx, hdone⟩ := h
  exact ⟨x, (Die.cmd_of_sf hsf id).trans hx, hdone⟩

/-- A log with nothing pending ends the SWAP that waits for it. -/
theorem Die.logPump_swaps {i : Nat} (h : d.dlog sl = some l) (hswap : l.swap = some i) (hpend : l.pend = []) (hstop : l.stop = none) :
    d.logPump sl = (d.setLog { l with swap := none }).finish i St.OK 0 := by
  unfold Die.logPump
  rw [h]
  dsimp only
  rw [hswap, hpend, hstop]
  rfl

theorem Die.logPump_stops {i : Nat} (h : d.dlog sl = some l) (hswap : l.swap = none) (hpend : l.pend = []) (hstop : l.stop = some i) : d.logPump sl = d.logOff sl := by
  unfold Die.logPump
  rw [h]
  dsimp only
  rw [hswap, hstop]
  exact if_pos hpend

/-- A log that stops ends the commands that wait for it. -/
theorem Die.logOff_spec (d : Die) (sl : Nat) :
    (d.logOff sl).dlog sl = none ∧ (d.logOff sl).bit F.SM_SLICE.LOG_ON sl = false ∧
      (d.logOff sl).sf = (((d.sm.logs.filter (fun l => decide (l.sl = sl))).flatMap (fun l => l.swap.toList ++ l.stop.toList)).foldl (fun d i => d.finish i St.OK 0) d).sf := by
  unfold Die.logOff
  dsimp only
  generalize ((d.sm.logs.filter (fun l => decide (l.sl = sl))).flatMap (fun l => l.swap.toList ++ l.stop.toList)).foldl (fun d i => d.finish i St.OK 0) d = y
  generalize hz : ({ y with sm.logs := _ } : Die) = z
  have hgone : z.dlog sl = none := by
    rw [← hz]
    exact List.find?_eq_none.2 fun x hx hsl => of_decide_eq_true (List.mem_filter.1 hx).2 (of_decide_eq_true hsl)
  have hsf : z.sf = y.sf := by rw [← hz]
  have hon : ((z.setF F.SM_SLICE.LOG_ON sl 0).setF F.SM_SLICE.LOG_FAILED sl 0).getF F.SM_SLICE.LOG_ON sl = 0 := by
    rw [Die.getF_setF_apart _ _ _ _ _ rfl, Die.getF_setF_same _ _ _ _ (Nat.le_of_ble_eq_true rfl)] <;> rfl
  have hset : Within { regs := [.SM_SLICE] } z ((z.setF F.SM_SLICE.LOG_ON sl 0).setF F.SM_SLICE.LOG_FAILED sl 0) :=
    (Die.setF_within z F.SM_SLICE.LOG_ON sl 0).trans (Die.setF_within _ F.SM_SLICE.LOG_FAILED sl 0)
  generalize (z.setF F.SM_SLICE.LOG_ON sl 0).setF F.SM_SLICE.LOG_FAILED sl 0 = w at hon hset
  have hforget := Die.forget_within w (.log sl)
  exact ⟨(Die.dlog_of_sm (hforget.sm.trans hset.sm) sl).trans hgone,
    (Die.bit_eq_false_iff _ _ _ rfl).2 ((hforget.getF F.SM_SLICE.LOG_ON sl).trans hon), hforget.sf.trans (hset.sf.trans hsf)⟩

/-- The one command that waits for a log is ended by the log's end. -/
theorem foldl_finish_done {id : Nat} {c : Cmd} (l : List Nat) (hall : ∀ i ∈ l, i = id) (hid : id ∈ l) (h : d.cmd id = some c) :
    (l.foldl (fun d i => d.finish i St.OK 0) d).doneAtZero id := by
  cases l with
  | nil => cases hid
  | cons i l =>
    obtain rfl := hall i (List.mem_cons_self ..)
    have hfirst := Die.finish_doneAtZero h
    rw [List.foldl_cons]
    generalize d.finish i St.OK 0 = y at hfirst
    have hrest : ∀ j ∈ l, j = i := fun j hj => hall j (List.mem_cons_of_mem _ hj)
    clear hall hid
    induction l generalizing y with
    | nil => exact hfirst
    | cons j l ih =>
      obtain rfl := hrest j (List.mem_cons_self ..)
      obtain ⟨x, hx, -⟩ := hfirst
      exact ih _ (Die.finish_doneAtZero hx) (fun k hk => hrest k (List.mem_cons_of_mem _ hk))

/-- Every log of the slice is the one that was set. -/
theorem Die.logs_setLog {m x : DLog} (hx : x ∈ (d.setLog m).sm.logs) (hsl : x.sl = m.sl) : x = m := by
  obtain ⟨y, -, rfl⟩ := List.mem_map.1 hx
  by_cases hy : y.sl = m.sl
  · exact if_pos hy
  · rw [if_neg hy] at hsl
    exact absurd hsl hy

end

section
variable {s : State} {id : Nat} {c : Cmd} {d : Die} (h : Acting s id Op.LOG_CTL c d)
include h

/-- The log of a slice that starts. -/
def Die.logStarted (d : Die) (sl a : Nat) : Die :=
  let d := (d.setF F.SM_SLICE.LOG_ON sl 1).setF F.SM_SLICE_LOG.BITMAP sl a
  { d with sm.logs := d.sm.logs ++ [{ sl := sl }] }

omit h in
theorem Die.logStarted_spec (d : Die) (sl a : Nat) : (d.logStarted sl a).bit F.SM_SLICE.LOG_ON sl = true ∧
    (d.logStarted sl a).getF F.SM_SLICE_LOG.BITMAP sl = a % 2 ^ F.SM_SLICE_LOG.BITMAP.width ∧ (d.logStarted sl a).sm.logs = d.sm.logs ++ [{ sl := sl }] ∧
    (d.logStarted sl a).sf = d.sf := by
  unfold Die.logStarted
  have hon := Die.getF_setF_same d F.SM_SLICE.LOG_ON sl 1 (Nat.le_of_ble_eq_true rfl)
  have h₁ := Die.setF_within d F.SM_SLICE.LOG_ON sl 1 (p := { regs := [.SM_SLICE] })
  generalize d.setF F.SM_SLICE.LOG_ON sl 1 = y at hon h₁
  have hmap := Die.getF_setF_same y F.SM_SLICE_LOG.BITMAP sl a (Nat.le_of_ble_eq_true rfl)
  have h₂ := Die.setF_within y F.SM_SLICE_LOG.BITMAP sl a (p := { regs := [.SM_SLICE_LOG] })
  generalize y.setF F.SM_SLICE_LOG.BITMAP sl a = z at hmap h₂
  have hlogs := Die.setSm_within z { z.sm with logs := z.sm.logs ++ [{ sl := sl }] } (p := { sm := true })
  exact ⟨bit_of_getF_one ((hlogs.getF F.SM_SLICE.LOG_ON sl).trans ((h₂.getF F.SM_SLICE.LOG_ON sl).trans hon)), (hlogs.getF F.SM_SLICE_LOG.BITMAP sl).trans hmap,
    congrArg (fun x : Slices => x.logs ++ [{ sl := sl }]) (h₂.sm.trans h₁.sm), hlogs.sf.trans (h₂.sf.trans h₁.sf)⟩

theorem exec_logStart (harg : c.arg0 = 0) (hoff : d.bit F.SM_SLICE.LOG_ON c.sl = false) (hin : d.inState c.sl [1, 2, 3, 4] = true) :
    exec (.logStart id) s = .next (actsTo s id c ((d.logStarted c.sl (c.q 16 / 4096)).finish c.id St.OK 0)) := by
  refine (exec_of_start h rfl fun x hdesc _ => mapWindow_sub harg x hdesc).trans ?_
  rw [if_neg (by rw [hoff, hin]; decide)]
  rfl

/-- The log of a slice that a SWAP empties. -/
def Die.logSwapped (d : Die) (sl a : Nat) (l : DLog) (c : Cmd) : Die :=
  ((d.setLog { l with filter := [], pend := l.pend.map (fun x => (x.1, x.2.1, x.2.2 % 10 + 10)), swap := some c.id }).setF F.SM_SLICE_LOG.BITMAP sl a).setCmd
    { c with aux := 1 }

omit h in
theorem Die.logSwapped_spec {l : DLog} {sl : Nat} (a : Nat) {x : Cmd} (hlog : d.dlog sl = some l) (hcmd : d.cmd c.id = some x) :
    (d.logSwapped sl a l c).dlog sl = some { l with filter := [], pend := l.pend.map (fun x => (x.1, x.2.1, x.2.2 % 10 + 10)), swap := some c.id } ∧
      (d.logSwapped sl a l c).cmd c.id = some { c with aux := 1 } ∧ (d.logSwapped sl a l c).getF F.SM_SLICE_LOG.BITMAP sl = a % 2 ^ F.SM_SLICE_LOG.BITMAP.width := by
  unfold Die.logSwapped
  have hsl := Die.dlog_sl hlog
  have hset := Die.dlog_setLog (m := { l with filter := [], pend := l.pend.map (fun x => (x.1, x.2.1, x.2.2 % 10 + 10)), swap := some c.id }) hlog hsl
  have hsf : (d.setLog { l with filter := [], pend := l.pend.map (fun x => (x.1, x.2.1, x.2.2 % 10 + 10)), swap := some c.id }).sf = d.sf := rfl
  generalize d.setLog { l with filter := [], pend := l.pend.map (fun x => (x.1, x.2.1, x.2.2 % 10 + 10)), swap := some c.id } = y at hset hsf
  have hmap := Die.getF_setF_same y F.SM_SLICE_LOG.BITMAP sl a (Nat.le_of_ble_eq_true rfl)
  have h₁ := Die.setF_within y F.SM_SLICE_LOG.BITMAP sl a (p := { regs := [.SM_SLICE_LOG] })
  generalize y.setF F.SM_SLICE_LOG.BITMAP sl a = z at hmap h₁
  exact ⟨(Die.dlog_of_sm h₁.sm sl).trans hset, Die.cmd_setCmd_same z c.id { c with aux := 1 } x (by rw [Die.cmd_of_sf h₁.sf, Die.cmd_of_sf hsf, hcmd]) rfl, hmap⟩

theorem exec_logSwap {l : DLog} (harg : c.arg0 = 1) (haux : c.aux = 0) (hon : d.bit F.SM_SLICE.LOG_ON c.sl = true) (hgood : d.bit F.SM_SLICE.LOG_FAILED c.sl = false)
    (hlog : d.dlog c.sl = some l) : exec (.logSwap id) s = .next (actsTo s id c ((d.logSwapped c.sl (c.q 16 / 4096) l c).logPump c.sl)) := by
  refine (exec_of_start h rfl fun x hdesc _ => mapWindow_sub harg x hdesc).trans ?_
  rw [if_neg (by rw [haux]; decide), if_neg (by rw [hon]; decide), if_neg (by rw [hgood]; decide), hlog]
  rfl

theorem exec_logStop {l : DLog} (harg : c.arg0 = 2) (haux : c.aux = 0) (hon : d.bit F.SM_SLICE.LOG_ON c.sl = true) (hlog : d.dlog c.sl = some l) :
    exec (.logStop id) s = .next (actsTo s id c (((d.setLog { l with stop := some c.id }).setCmd { c with aux := 1 }).logPump c.sl)) := by
  refine (exec_of_start h rfl fun x hdesc _ => mapWindow_sub harg x hdesc).trans ?_
  rw [if_neg (by rw [haux]; decide), if_neg (by rw [hon]; decide), hlog]

theorem exec_logStop_off (harg : c.arg0 = 2) (haux : c.aux = 0) (hoff : d.bit F.SM_SLICE.LOG_ON c.sl = false) :
    exec (.logStop id) s = .next (actsTo s id c (d.finish id St.OK (2 ^ 63 + 10 * 2 ^ 56))) := by
  obtain rfl := h.id
  refine (exec_of_start h rfl fun x hdesc _ => mapWindow_sub harg x hdesc).trans ?_
  rw [if_neg (by rw [haux]; decide), if_pos (by rw [hoff]; decide)]
  rfl

theorem logSwap_swaps {l : DLog} (harg : c.arg0 = 1) (haux : c.aux = 0) (hon : d.bit F.SM_SLICE.LOG_ON c.sl = true) (hgood : d.bit F.SM_SLICE.LOG_FAILED c.sl = false)
    (hlog : d.dlog c.sl = some l) (hpend : l.pend = []) (hstop : l.stop = none) :
    ∃ t, exec (.logSwap id) s = .next t ∧ t.d.doneAtZero id ∧ (∃ m, t.d.dlog c.sl = some m ∧ m.filter = []) ∧
      t.d.getF F.SM_SLICE_LOG.BITMAP c.sl = c.q 16 / 4096 % 2 ^ F.SM_SLICE_LOG.BITMAP.width := by
  obtain rfl := h.id
  have hsl := Die.dlog_sl hlog
  obtain ⟨hset, hcmd, hmap⟩ := Die.logSwapped_spec (c.q 16 / 4096) hlog h.cmd
  refine ⟨_, exec_logSwap h harg haux hon hgood hlog, ?_⟩
  generalize d.logSwapped c.sl (c.q 16 / 4096) l c = y at hset hcmd hmap
  rw [Die.logPump_swaps hset rfl (by rw [hpend]; rfl) hstop]
  have hdone := Die.dlog_setLog (m := { l with filter := [], pend := l.pend.map (fun x => (x.1, x.2.1, x.2.2 % 10 + 10)), swap := none }) hset hsl
  have hlogs : Within { sm := true } y (y.setLog { l with filter := [], pend := l.pend.map (fun x => (x.1, x.2.1, x.2.2 % 10 + 10)), swap := none }) := Die.setSm_within y _
  generalize y.setLog { l with filter := [], pend := l.pend.map (fun x => (x.1, x.2.1, x.2.2 % 10 + 10)), swap := none } = z at hdone hlogs
  have hend := (Die.finish_within z c.id St.OK 0 (p := { sf := true }))
  have hacts := actsTo_within h (z.finish c.id St.OK 0)
  refine ⟨Die.doneAtZero_of_sf hacts.sf (Die.finish_doneAtZero ((Die.cmd_of_sf hlogs.sf c.id).trans hcmd)), ⟨_, (Die.dlog_of_sm (hacts.sm.trans hend.sm) c.sl).trans hdone, rfl⟩, ?_⟩
  rw [hacts.getF F.SM_SLICE_LOG.BITMAP, hend.getF F.SM_SLICE_LOG.BITMAP, hlogs.getF F.SM_SLICE_LOG.BITMAP, hmap]

theorem logStop_stops {l : DLog} (harg : c.arg0 = 2) (haux : c.aux = 0) (hon : d.bit F.SM_SLICE.LOG_ON c.sl = true) (hlog : d.dlog c.sl = some l)
    (hpend : l.pend = []) (hswap : l.swap = none) :
    ∃ t, exec (.logStop id) s = .next t ∧ t.d.doneAtZero id ∧ t.d.bit F.SM_SLICE.LOG_ON c.sl = false ∧ t.d.dlog c.sl = none := by
  obtain rfl := h.id
  have hsl := Die.dlog_sl hlog
  refine ⟨_, exec_logStop h harg haux hon hlog, ?_⟩
  have hset := Die.dlog_setLog (m := { l with stop := some c.id }) hlog hsl
  have hcmd : ((d.setLog { l with stop := some c.id }).setCmd { c with aux := 1 }).cmd c.id = some { c with aux := 1 } :=
    Die.cmd_setCmd_same (d.setLog { l with stop := some c.id }) c.id { c with aux := 1 } c h.cmd rfl
  have hlogs : ∀ x ∈ ((d.setLog { l with stop := some c.id }).setCmd { c with aux := 1 }).sm.logs, x.sl = c.sl → x = { l with stop := some c.id } :=
    fun x hx hxsl => Die.logs_setLog hx (hxsl.trans hsl.symm)
  have hfound : ((d.setLog { l with stop := some c.id }).setCmd { c with aux := 1 }).dlog c.sl = some { l with stop := some c.id } := hset
  generalize (d.setLog { l with stop := some c.id }).setCmd { c with aux := 1 } = y at hcmd hlogs hfound
  rw [Die.logPump_stops hfound hswap hpend rfl]
  obtain ⟨hgone, hoff, hsf⟩ := Die.logOff_spec y c.sl
  have hacts := actsTo_within h (y.logOff c.sl)
  refine ⟨Die.doneAtZero_of_sf (hacts.sf.trans hsf) (foldl_finish_done _ (fun i hi => ?_) ?_ hcmd), (hacts.bit F.SM_SLICE.LOG_ON c.sl).trans hoff, (Die.dlog_of_sm hacts.sm c.sl).trans hgone⟩
  · obtain ⟨x, hx, hi⟩ := List.mem_flatMap.1 hi
    obtain ⟨hx, hxsl⟩ := List.mem_filter.1 hx
    rw [hlogs x hx (of_decide_eq_true hxsl), hswap] at hi
    exact List.mem_singleton.1 hi
  · refine List.mem_flatMap.2 ⟨_, List.mem_filter.2 ⟨List.mem_of_find?_eq_some hfound, decide_eq_true hsl⟩, ?_⟩
    rw [hswap]
    exact List.mem_singleton_self c.id

end

/-! ### SM_POT_SET -/

theorem exec_potSet {s : State} {v : Word} (hg : s.d.barGate s.env .steward .SM_POT_SET 0 = none) : exec (.potSet .steward v) s = s.go (
    if Who.steward = .steward ∧ !s.env.fwSeal ∧ s.d.present s.env (fieldOf v 0 15) ∧ s.d.pageState (fieldOf v 0 15) = 0 ∧ fieldOf v 16 3 = 4 then
      s.d.setPage (fieldOf v 0 15) 4 0 0 0
    else if Who.steward = .steward ∧ !s.env.fwSeal ∧ s.d.present s.env (fieldOf v 0 15) ∧ s.d.pageState (fieldOf v 0 15) = 0 ∧ fieldOf v 16 3 = 3 then
      s.d.setPage (fieldOf v 0 15) 3 0 1 3
    else s.d.reject F.SM_STATUS.CFG_REJECT 0) := by
  change execPotSet .steward v s = _
  unfold execPotSet
  dsimp only
  rw [hg]

theorem potSet_sets {s : State} {v : Word} (hg : s.d.barGate s.env .steward .SM_POT_SET 0 = none) {st : Nat} (hst : st = 3 ∨ st = 4) (hv : fieldOf v 16 3 = st)
    (hseal : s.env.fwSeal = false) (hpresent : s.d.present s.env (fieldOf v 0 15) = true) (hpage : s.d.pageState (fieldOf v 0 15) = 0) :
    ∃ t, exec (.potSet .steward v) s = .next t ∧ t.d.pageState (fieldOf v 0 15) = st ∧ onlyRegs s t [.SM_POT] ∧
      ∀ p, p ≠ fieldOf v 0 15 → t.d.reg .SM_POT p 0 = s.d.reg .SM_POT p 0 := by
  have hseal' : (!s.env.fwSeal) = true := by rw [hseal]; rfl
  have hset : ∀ orphan cause, exec (.potSet .steward v) s = s.go (s.d.setPage (fieldOf v 0 15) st 0 orphan cause) →
      ∃ t, exec (.potSet .steward v) s = .next t ∧ t.d.pageState (fieldOf v 0 15) = st ∧ onlyRegs s t [.SM_POT] ∧
        ∀ p, p ≠ fieldOf v 0 15 → t.d.reg .SM_POT p 0 = s.d.reg .SM_POT p 0 := fun orphan cause hexec => by
    refine ⟨_, hexec, ?_, Within.onlyRegs (Die.setPage_within s.d _ st 0 orphan cause), fun p hp => Die.reg_setPage_ne s.d _ st 0 orphan cause hp⟩
    exact (Die.pageState_setPage s.d _ st 0 orphan cause).trans (by rcases hst with rfl | rfl <;> rfl)
  have hexec := exec_potSet (v := v) hg
  rcases hst with rfl | rfl
  · rw [if_neg (fun hbad => absurd (hv.symm.trans hbad.2.2.2.2) (by decide)), if_pos ⟨rfl, hseal', hpresent, hpage, hv⟩] at hexec
    exact hset 1 3 hexec
  · rw [if_pos ⟨rfl, hseal', hpresent, hpage, hv⟩] at hexec
    exact hset 0 0 hexec

theorem potSet_rejects {s : State} {v : Word} (hg : s.d.barGate s.env .steward .SM_POT_SET 0 = none) (h : s.env.fwSeal = true ∨ s.d.pageState (fieldOf v 0 15) ≠ 0) :
    exec (.potSet .steward v) s = .next { s with d := s.d.reject F.SM_STATUS.CFG_REJECT 0 } := by
  have hnot : ∀ n, ¬ (Who.steward = .steward ∧ (!s.env.fwSeal) = true ∧ s.d.present s.env (fieldOf v 0 15) = true ∧ s.d.pageState (fieldOf v 0 15) = 0 ∧ fieldOf v 16 3 = n) := by
    rintro n ⟨-, hseal, -, hpage, -⟩
    rcases h with h | h
    · rw [h] at hseal
      exact Bool.false_ne_true hseal
    · exact h hpage
  have hexec := exec_potSet (v := v) hg
  rw [if_neg (hnot 4), if_neg (hnot 3)] at hexec
  exact hexec

/-! ### Confirmed bits -/

theorem exec_dirtyLogConfirm {s : State} {sl : BitVec 9} {g : BitVec 19} {l : DLog} (hlog : s.d.dlog sl.toNat = some l) :
    exec (.dirtyLogConfirm sl g) s = s.go (match l.pend.find? (fun x => decide (x.1 = g.toNat ∧ x.2.2 % 10 = 2)) with
      | some x => ((s.d.setLog { l with pend := l.pend.filter (fun y => decide (y ≠ x)), filter := if x.2.2 < 10 then l.filter ++ [g.toNat] else l.filter }).logPump
          sl.toNat).settleAll s.env
      | none => s.d) := by
  change execDirtyLogConfirm sl g s = _
  unfold execDirtyLogConfirm
  dsimp only
  rw [hlog] <;> rfl

/-- Settles O45, by what each change of a page, of a scrub and of the log leaves. -/
theorem pagesChangeAreScrubbedAndLogged : Obligations.PagesChangeAreScrubbedAndLogged := by
  unfold Obligations.PagesChangeAreScrubbedAndLogged
  refine ⟨fun s o hfind hflush => ⟨fun hfree => ?_, fun hfree hkind => ?_, fun hfree hkind => ?_⟩, fun s id c d h => ?_,
    fun s p hruns hmeets hretr hcal hready hrun hdir => ?_, fun s id c d h => ⟨fun harg hoff hin => ?_, fun l harg haux hon hgood hlog hpend hstop => ?_,
      fun l harg haux hon hlog hpend hswap => logStop_stops h harg haux hon hlog hpend hswap, exec_logStop_off h⟩,
    fun s sl g l x hlog => ⟨fun hfind hlow => ?_, fun hnone => ?_⟩,
    fun s v hg => ⟨fun st hst hv hseal hpresent hpage => potSet_sets hg hst hv hseal hpresent hpage, potSet_rejects hg⟩⟩
  · rw [exec_potChangeDone hfind, potChange_waits hfree]
  · rw [exec_potChangeDone hfind, potChange_assigned hflush hfree hkind]
  · rw [exec_potChangeDone hfind, potChange_purges hflush hfree hkind]
  · obtain rfl := h.id
    obtain ⟨hwithin, hsame, hwait⟩ := Die.scrubOrdered_spec s.env d c
    have hexec := exec_scrub h
    obtain ⟨hend, hcmd, hscrubs, hops⟩ := Die.finish_addFence_spec ((Die.cmd_of_sf hwithin.sf c.id).trans h.cmd) (d.pagesToScrub s.env c).length (d.pagesToScrub s.env c)
    generalize ((d.scrubOrdered s.env c).finish c.id St.OK (d.pagesToScrub s.env c).length).addFence c 3 0 (d.pagesToScrub s.env c) true = d₁ at hexec hend hcmd hscrubs hops
    exact ⟨d₁, hexec, d.pagesToScrub s.env c, hcmd, fun p => mem_pagesToScrub, fun p hp => Die.awaitsScrub_of_sm hscrubs hops (hwait p hp),
      fun p => (hend.getF F.SM_POT.STATE p).trans (hsame.pageState p), hend.dram.trans hwithin.dram⟩
  · obtain ⟨hfree, hstays, hoff, hzero, hothers⟩ := Die.scrubbed_spec s.env s.d p.toNat
    have hgone := Die.scrubGone_within (s.d.scrubbed s.env p.toNat) p.toNat
    refine ⟨_, exec_pageScrubDone hruns hmeets hretr hcal hready hrun hdir, fun hyes => ?_, fun hno => ?_, ?_, ?_, ?_, fun x hx => ?_⟩
    · exact (hgone.getF F.SM_POT.STATE p.toNat).trans (hfree hyes)
    · exact (hgone.getF F.SM_POT.STATE p.toNat).trans (hstays hno)
    · exact (hgone.getF F.SM_POT.SCRUBBING p.toNat).trans hoff
    · rw [hgone.dram]
      exact hzero
    · rw [hgone.dram]
      exact hothers
    · exact of_decide_eq_true (List.mem_filter.1 hx).2
  · obtain rfl := h.id
    obtain ⟨hon, hmap, hlogs, hsf⟩ := Die.logStarted_spec d c.sl (c.q 16 / 4096)
    refine ⟨_, exec_logStart h harg hoff hin, ?_⟩
    generalize d.logStarted c.sl (c.q 16 / 4096) = y at hon hmap hlogs hsf
    have hend := (Die.finish_within y c.id St.OK 0 (p := { sf := true }))
    have hacts := actsTo_within h (y.finish c.id St.OK 0)
    refine ⟨(hacts.bit F.SM_SLICE.LOG_ON c.sl).trans ((hend.bit F.SM_SLICE.LOG_ON c.sl).trans hon), ?_,
      (hacts.getF F.SM_SLICE_LOG.BITMAP c.sl).trans ((hend.getF F.SM_SLICE_LOG.BITMAP c.sl).trans hmap), ?_⟩
    · rw [Die.cmd_of_sf hacts.sf, Die.finish_cmd y c.id St.OK 0 c ((Die.cmd_of_sf hsf c.id).trans h.cmd)]
    · rw [hacts.sm, hend.sm, hlogs]
  · exact logSwap_swaps h harg haux hon hgood hlog hpend hstop
  · rw [exec_dirtyLogConfirm hlog, hfind]
    dsimp only
    rw [if_pos hlow]
    rfl
  · rw [exec_dirtyLogConfirm hlog, hnone]
    rfl

end Sys2Proof.Machine
end

section
/-! PROOF. Line reads and writes at the memory controllers, refresh, temperature, PHY alerts and the log (O53). -/

-- One proof after another: all at once, they ask for more threads than the check's memory limit admits.
set_option Elab.async false

namespace Sys2Proof.Machine

/-! ### Line reads and writes -/

theorem need_go (b : Bool) (f : Fail) (e : Env) (d : Die) : ((need b f).go e d).2 = d := by
  cases b <;> rfl

/-- An access that changes the die in no way, whatever it answers. -/
def Act.Looks {α : Type} (a : Act α) : Prop := ∀ e d, (a.go e d).2 = d

theorem Act.Looks.bind {α β : Type} {a : Act α} {f : α → Act β} (ha : a.Looks) (hf : ∀ x, (f x).Looks) : (a >>= f).Looks := by
  intro e d
  rw [Act.go_bind]
  have h := ha e d
  rcases hgo : a.go e d with ⟨_ | x, d₁⟩ <;> rw [hgo] at h
  · exact h
  · exact (hf x e d₁).trans h

theorem need_looks (b : Bool) (f : Fail) : (need b f).Looks := fun e d => need_go b f e d

theorem memReady_looks (l : Nat) : (memReady l).Looks := by
  unfold memReady
  exact .bind (fun _ _ => rfl) fun _ => .bind (fun _ _ => rfl) fun _ => .bind (need_looks _ _) fun _ => .bind (need_looks _ _) fun _ =>
    .bind (need_looks _ _) fun _ => .bind (need_looks _ _) fun _ => need_looks _ _

/-- Accesses that go on alike after a controller is ready are alike. -/
theorem go_memReady_congr {l : Nat} {e : Env} {d : Die} {f g : Unit → Act Unit} (h : (f ()).go e d = (g ()).go e d) :
    (memReady l >>= f).go e d = (memReady l >>= g).go e d := by
  rw [Act.go_bind, Act.go_bind]
  have hd := memReady_looks l e d
  rcases hgo : (memReady l).go e d with ⟨r | x, d₁⟩
  · exact rfl
  · rw [hgo] at hd
    rw [show d₁ = d from hd]
    exact h

theorem mcServe_read_go {l : Nat} {fl : List (Nat × BitVec 16)} {e : Env} {d : Die} (h : d.isNmapPage e (pageOfLine l) = false) :
    (mcServe (.read l fl)).go e d = Act.go (do
      memReady l
      modify (fun d => { d with mem := fl.foldl (fun m f => m.flip l f.1 f.2) d.mem })
      let _ ← sealRead l none) e d := by
  unfold mcServe
  refine go_memReady_congr ?_
  change Act.go (if d.isNmapPage e (pageOfLine l) = true then _ else _) e d = _
  rw [if_neg (by rw [h]; decide)]

theorem mcServe_write_go {l sec : Nat} {z : Bool} {data : Line} {e : Env} {d : Die} (h : d.isNmapPage e (pageOfLine l) = false) :
    (mcServe (.write l sec z data)).go e d = Act.go (do
      memReady l
      sealWrite l sec data (zeroBits data) z) e d := by
  unfold mcServe
  refine go_memReady_congr ?_
  change Act.go (if d.isNmapPage e (pageOfLine l) = true then _ else _) e d = _
  rw [if_neg (by rw [h]; decide)]

theorem mcServe_write_nmap_go {l sec : Nat} {z : Bool} {data : Line} {e : Env} {d : Die} (h : d.isNmapPage e (pageOfLine l) = true) :
    (mcServe (.write l sec z data)).go e d = Act.go (do
      memReady l
      upd (fun e d => d.reportCtx e Cs.NMAP_ACCESS (stackOf (pageOfLine l)) (some (l * 128)) none (pageOfLine l))) e d := by
  unfold mcServe
  refine go_memReady_congr ?_
  change Act.go (if d.isNmapPage e (pageOfLine l) = true then _ else _) e d = _
  rw [if_pos h]
  rfl

theorem attempt_congr {α : Type} {e : Env} {d : Die} {use : Use} {a b : Act α} (h : a.go e (d.settleAll e) = b.go e (d.settleAll e)) :
    attempt e d use a = attempt e d use b := by
  unfold attempt
  dsimp only
  rw [h]

theorem Die.settleAll_none {e : Env} {d : Die} (h : d.coh.txns = []) : d.settleAll e = d := by
  unfold Die.settleAll
  rw [h]
  rfl

/-- The only request in the queues goes on as its access decides. -/
theorem Die.mcPump_one {e : Env} {d : Die} {k : Nat} {r : McReq} {act : Act Unit} (htxns : d.coh.txns = []) (hgo : (mcServe r).go e d = act.go e d)
    (hq : d.mem.queue = [(k, r)]) :
    (∀ d', attempt e d (.packet k) act = .ok () d' → d.mcPump e = { d' with mem := { d'.mem with queue := d'.mem.queue.erase (k, r) } }) ∧
    (∀ d', attempt e d (.packet k) act = .wait d' → d.mcPump e = d') := by
  have hsame : attempt e d (.packet k) (mcServe r) = attempt e d (.packet k) act := attempt_congr (by rw [Die.settleAll_none htxns, hgo])
  have hpump : d.mcPump e = match attempt e d (.packet k) act with
      | .wait d => d
      | .ok _ d => { d with mem.queue := d.mem.queue.erase (k, r) }
      | .stop _ _ d => { d with mem.queue := d.mem.queue.erase (k, r) }
      | .fault _ d => { d with mem.queue := d.mem.queue.erase (k, r) } := by
    unfold Die.mcPump
    rw [hq, ← hsame]
    rfl
  constructor <;> intro d' h <;> rw [hpump, h]

/-! ### Refresh -/

theorem Tab.get_filter_gone {α : Type} (d : α) (t : Tab α) (q : Nat → Bool) (k : Nat) (h : q k = false) : Tab.get d (t.filter (fun x => q x.1)) k = d := by
  induction t with
  | nil => rfl
  | cons x t ih =>
    obtain ⟨k', v⟩ := x
    cases hq : q k' with
    | false =>
      rw [List.filter_cons_of_neg (p := fun x : Nat × α => q x.1) (by rw [hq]; decide)]
      exact ih
    | true =>
      rw [List.filter_cons_of_pos (p := fun x : Nat × α => q x.1) hq]
      unfold Tab.get
      rw [if_neg (by rintro rfl; rw [h] at hq; cases hq)]
      exact ih

theorem Die.closeRows_get (d : Die) (n : Nat) {pc b : Nat} (hpc : pc < 64) (hb : b < 64) :
    Tab.get none (d.closeRows n (some pc)).mem.rows (64 * (64 * n + pc) + b) = none := by
  refine Tab.get_filter_gone none d.mem.rows (fun k => decide (k / 4096 ≠ n) || decide (k / 64 % 64 ≠ pc)) _ ?_
  rw [decide_eq_false (by omega), decide_eq_false (by omega)]
  rfl

theorem Die.sendRefresh_regs (d : Die) (n op x : Nat) : (d.sendRefresh n op x).regs = d.regs := Die.count_regs _ _ _

theorem Die.sendRefresh_mem (d : Die) (n op x : Nat) : (d.sendRefresh n op x).mem = d.mem := Die.count_mem _ _ _

theorem Die.sendRefresh_out (d : Die) (n op x : Nat) : (d.sendRefresh n op x).out = .dfi n op x :: d.out :=
  congrArg (List.cons _) (Die.count_out _ _ _)

/-- One bank's refresh management. -/
def Die.manageBank (n pc : Nat) (d : Die) (b : Nat) : Die :=
  if Tab.get 0 d.mem.acts (64 * (64 * n + pc) + b) < max 1 (Config.rfmThreshold n) then d
  else Die.sendRefresh { d with mem.acts := Tab.set 0 d.mem.acts (64 * (64 * n + pc) + b) 0 } n 11 (64 * pc + b)

theorem Die.refreshManage_eq (d : Die) (n pc : Nat) : d.refreshManage n pc = (List.range (d.banks n)).foldl (Die.manageBank n pc) d := rfl

/-- What refresh management keeps of a die. -/
structure Managed (n pc : Nat) (d t : Die) : Prop where
  regs : t.regs = d.regs
  mem : t.mem = { d.mem with acts := t.mem.acts }
  out : ∀ m ∈ d.out, m ∈ t.out
  acts : ∀ b, Tab.get 0 t.mem.acts (64 * (64 * n + pc) + b) = Tab.get 0 d.mem.acts (64 * (64 * n + pc) + b) ∨
    (Tab.get 0 t.mem.acts (64 * (64 * n + pc) + b) = 0 ∧ Msg.dfi n 11 (64 * pc + b) ∈ t.out)

theorem Managed.refl (n pc : Nat) (d : Die) : Managed n pc d d := ⟨rfl, rfl, fun _ h => h, fun _ => .inl rfl⟩

theorem Managed.dram {n pc : Nat} {d t : Die} (h : Managed n pc d t) : t.mem.dram = d.mem.dram := (congrArg Mem.dram h.mem :)

theorem Managed.rows {n pc : Nat} {d t : Die} (h : Managed n pc d t) : t.mem.rows = d.mem.rows := (congrArg Mem.rows h.mem :)

theorem Managed.refDue {n pc : Nat} {d t : Die} (h : Managed n pc d t) : t.mem.refDue = d.mem.refDue := (congrArg Mem.refDue h.mem :)

theorem Managed.refBank {n pc : Nat} {d t : Die} (h : Managed n pc d t) : t.mem.refBank = d.mem.refBank := (congrArg Mem.refBank h.mem :)

theorem Managed.step {n pc : Nat} {d t : Die} (h : Managed n pc d t) (b : Nat) : Managed n pc d (t.manageBank n pc b) := by
  unfold Die.manageBank
  split
  · exact h
  · have hmem := Die.sendRefresh_mem { t with mem.acts := Tab.set 0 t.mem.acts (64 * (64 * n + pc) + b) 0 } n 11 (64 * pc + b)
    have hout := Die.sendRefresh_out { t with mem.acts := Tab.set 0 t.mem.acts (64 * (64 * n + pc) + b) 0 } n 11 (64 * pc + b)
    refine ⟨(Die.sendRefresh_regs _ _ _ _).trans h.regs, ?_, fun m hm => ?_, fun b' => ?_⟩
    · rw [hmem, h.mem]
    · rw [hout]
      exact List.mem_cons_of_mem _ (h.out m hm)
    · rw [hmem, hout]
      by_cases hb : b' = b
      · rw [hb]
        exact .inr ⟨Tab.get_set_same 0 t.mem.acts _ 0, List.mem_cons_self⟩
      · have hget : Tab.get 0 (Tab.set 0 t.mem.acts (64 * (64 * n + pc) + b) 0) (64 * (64 * n + pc) + b') = Tab.get 0 t.mem.acts (64 * (64 * n + pc) + b') :=
          Tab.get_set_ne 0 t.mem.acts (by omega) 0
        rcases h.acts b' with h' | ⟨h₀, hm⟩
        · exact .inl (hget.trans h')
        · exact .inr ⟨hget.trans h₀, List.mem_cons_of_mem _ hm⟩

theorem Die.manageBank_low (n pc : Nat) (d : Die) (b : Nat) :
    Tab.get 0 (d.manageBank n pc b).mem.acts (64 * (64 * n + pc) + b) < max 1 (Config.rfmThreshold n) := by
  unfold Die.manageBank
  split
  next h => exact h
  next =>
    rw [Die.sendRefresh_mem]
    change Tab.get 0 (Tab.set 0 d.mem.acts _ 0) _ < _
    rw [Tab.get_set_same]
    exact lt_of_lt_of_le Nat.zero_lt_one (le_max_left _ _)

theorem Die.manageBank_keepsLow (n pc : Nat) (d : Die) (b b' : Nat)
    (h : Tab.get 0 d.mem.acts (64 * (64 * n + pc) + b') < max 1 (Config.rfmThreshold n)) :
    Tab.get 0 (d.manageBank n pc b).mem.acts (64 * (64 * n + pc) + b') < max 1 (Config.rfmThreshold n) := by
  rcases ((Managed.refl n pc d).step b).acts b' with hs | ⟨hs, -⟩
  · rwa [hs]
  · rw [hs]
    exact lt_of_lt_of_le Nat.zero_lt_one (le_max_left _ _)

theorem Die.refreshManage_spec (d : Die) (n pc : Nat) : Managed n pc d (d.refreshManage n pc) ∧
    ∀ b < d.banks n, max 1 (Config.rfmThreshold n) ≤ Tab.get 0 d.mem.acts (64 * (64 * n + pc) + b) →
      Msg.dfi n 11 (64 * pc + b) ∈ (d.refreshManage n pc).out ∧ Tab.get 0 (d.refreshManage n pc).mem.acts (64 * (64 * n + pc) + b) = 0 := by
  rw [Die.refreshManage_eq]
  have hall : Managed n pc d ((List.range (d.banks n)).foldl (Die.manageBank n pc) d) :=
    foldl_invariant (Managed n pc d) (Die.manageBank n pc) (fun t b h => h.step b) _ _ (.refl n pc d)
  have hlow := foldl_reaches (p := fun b (t : Die) => Tab.get 0 t.mem.acts (64 * (64 * n + pc) + b) < max 1 (Config.rfmThreshold n))
    (Die.manageBank_low n pc) (Die.manageBank_keepsLow n pc) (List.range (d.banks n)) d
  refine ⟨hall, fun b hb hthr => ?_⟩
  rcases hall.acts b with h | ⟨h, hm⟩
  · exact absurd (hlow b (List.mem_range.2 hb)) (by rw [h]; exact not_lt.2 hthr)
  · exact ⟨hm, h⟩

/-- The refresh of all banks of a pseudo-channel. -/
def Die.allRefreshed (d : Die) (n pc : Nat) : Die := (d.closeRows n (some pc)).sendRefresh n 1 pc

/-- The refresh of one bank of a pseudo-channel. -/
def Die.bankRefreshed (d : Die) (n pc b : Nat) : Die :=
  Die.sendRefresh { d with mem.refBank := Tab.set 0 d.mem.refBank (64 * n + pc) ((b + 1) % d.banks n) } n 10 (64 * pc + b)

/-- The next refresh of all banks is due one interval later. -/
def Die.refreshedAgain (e : Env) (d : Die) (n pc : Nat) : Die := { d with mem.refDue := Tab.set 0 d.mem.refDue (64 * n + pc) (e.now + d.refreshGap n) }

/-- The bank that a per-bank refresh takes: the next idle one. -/
def Die.idleBank (d : Die) (n pc : Nat) : Option Nat :=
  ((List.range (d.banks n)).map (fun i => (Tab.get 0 d.mem.refBank (64 * n + pc) + i) % d.banks n)).find?
    (fun b => (Tab.get none d.mem.rows (64 * (64 * n + pc) + b)).isNone)

theorem Die.refreshPc_due {e : Env} {d : Die} {n pc : Nat} (h : Tab.get 0 d.mem.refDue (64 * n + pc) ≤ e.now) :
    d.refreshPc e n pc = ((d.allRefreshed n pc).refreshedAgain e n pc).refreshManage n pc := by
  unfold Die.refreshPc
  dsimp only
  rw [decide_eq_true h]
  rfl

theorem Die.refreshPc_full {e : Env} {d : Die} {n pc : Nat} (h : ¬ Tab.get 0 d.mem.refDue (64 * n + pc) ≤ e.now) (hidle : d.idleBank n pc = none) :
    d.refreshPc e n pc = (d.allRefreshed n pc).refreshManage n pc := by
  unfold Die.refreshPc
  unfold Die.idleBank at hidle
  dsimp only
  rw [decide_eq_false h, hidle]
  rfl

theorem Die.refreshPc_bank {e : Env} {d : Die} {n pc b : Nat} (h : ¬ Tab.get 0 d.mem.refDue (64 * n + pc) ≤ e.now) (hidle : d.idleBank n pc = some b) :
    d.refreshPc e n pc = (d.bankRefreshed n pc b).refreshManage n pc := by
  unfold Die.refreshPc
  unfold Die.idleBank at hidle
  dsimp only
  rw [decide_eq_false h, hidle]
  rfl

theorem Die.allRefreshed_mem (d : Die) (n pc : Nat) : (d.allRefreshed n pc).mem = (d.closeRows n (some pc)).mem := Die.sendRefresh_mem _ _ _ _

theorem Die.bankRefreshed_mem (d : Die) (n pc b : Nat) :
    (d.bankRefreshed n pc b).mem = { d.mem with refBank := Tab.set 0 d.mem.refBank (64 * n + pc) ((b + 1) % d.banks n) } := Die.sendRefresh_mem _ _ _ _

/-- What a refresh leaves, at its end. -/
structure Refreshed (e : Env) (n pc : Nat) (d t : Die) : Prop where
  regs : t.regs = d.regs
  dram : t.mem.dram = d.mem.dram
  all : Tab.get 0 d.mem.refDue (64 * n + pc) ≤ e.now ∨ d.idleBank n pc = none →
    Msg.dfi n 1 pc ∈ t.out ∧ ∀ b < 64, Tab.get none t.mem.rows (64 * (64 * n + pc) + b) = none
  one : ∀ b, ¬ Tab.get 0 d.mem.refDue (64 * n + pc) ≤ e.now → d.idleBank n pc = some b →
    Msg.dfi n 10 (64 * pc + b) ∈ t.out ∧ Tab.get 0 t.mem.refBank (64 * n + pc) = (b + 1) % d.banks n ∧ t.mem.rows = d.mem.rows
  due : Tab.get 0 d.mem.refDue (64 * n + pc) ≤ e.now → Tab.get 0 t.mem.refDue (64 * n + pc) = e.now + d.refreshGap n
  notDue : ¬ Tab.get 0 d.mem.refDue (64 * n + pc) ≤ e.now → Tab.get 0 t.mem.refDue (64 * n + pc) = Tab.get 0 d.mem.refDue (64 * n + pc)
  managed : ∀ b < d.banks n, max 1 (Config.rfmThreshold n) ≤ Tab.get 0 d.mem.acts (64 * (64 * n + pc) + b) →
    Msg.dfi n 11 (64 * pc + b) ∈ t.out ∧ Tab.get 0 t.mem.acts (64 * (64 * n + pc) + b) = 0

theorem Die.banks_of_regs {d t : Die} (h : t.regs = d.regs) (n : Nat) : t.banks n = d.banks n := by
  unfold Die.banks Die.getF Die.reg
  rw [h]

/-- The refresh management that follows a refresh, which left the counts of activations. -/
theorem Die.managed_after {d y : Die} {n pc : Nat} (hregs : y.regs = d.regs) (hacts : y.mem.acts = d.mem.acts) :
    ∀ b < d.banks n, max 1 (Config.rfmThreshold n) ≤ Tab.get 0 d.mem.acts (64 * (64 * n + pc) + b) →
      Msg.dfi n 11 (64 * pc + b) ∈ (y.refreshManage n pc).out ∧ Tab.get 0 (y.refreshManage n pc).mem.acts (64 * (64 * n + pc) + b) = 0 := by
  rw [← Die.banks_of_regs hregs, ← hacts]
  exact (y.refreshManage_spec n pc).2

theorem Die.refreshPc_spec (e : Env) (d : Die) (n : Nat) {pc : Nat} (hpc : pc < 64) : Refreshed e n pc d (d.refreshPc e n pc) := by
  have hallOut : Msg.dfi n 1 pc ∈ (d.allRefreshed n pc).out := by
    unfold Die.allRefreshed
    rw [Die.sendRefresh_out]
    exact List.mem_cons_self
  have hallRegs : (d.allRefreshed n pc).regs = d.regs := Die.sendRefresh_regs _ _ _ _
  have hallMem := d.allRefreshed_mem n pc
  by_cases hdue : Tab.get 0 d.mem.refDue (64 * n + pc) ≤ e.now
  · rw [Die.refreshPc_due hdue]
    have hmem : ((d.allRefreshed n pc).refreshedAgain e n pc).mem = { (d.closeRows n (some pc)).mem with
        refDue := Tab.set 0 (d.closeRows n (some pc)).mem.refDue (64 * n + pc) (e.now + (d.allRefreshed n pc).refreshGap n) } := by
      rw [← hallMem]
      rfl
    have hgap : (d.allRefreshed n pc).refreshGap n = d.refreshGap n := by
      unfold Die.refreshGap Die.refreshRate Die.getF Die.reg
      rw [hallRegs]
    have hout : Msg.dfi n 1 pc ∈ ((d.allRefreshed n pc).refreshedAgain e n pc).out := hallOut
    have hregs : ((d.allRefreshed n pc).refreshedAgain e n pc).regs = d.regs := hallRegs
    generalize (d.allRefreshed n pc).refreshedAgain e n pc = y at hmem hout hregs
    have hy := (y.refreshManage_spec n pc).1
    refine ⟨hy.regs.trans hregs, ?_, fun _ => ⟨hy.out _ hout, fun b hb => ?_⟩, fun b h => absurd hdue h, fun _ => ?_, fun h => absurd hdue h,
      Die.managed_after hregs ?_⟩
    · exact hy.dram.trans (congrArg Mem.dram hmem :)
    · rw [hy.rows, hmem]
      exact d.closeRows_get n hpc hb
    · rw [hy.refDue, hmem]
      exact (Tab.get_set_same 0 _ _ _).trans (by rw [hgap])
    · exact (congrArg Mem.acts hmem :)
  · rcases hidle : d.idleBank n pc with _ | b
    · rw [Die.refreshPc_full hdue hidle]
      generalize d.allRefreshed n pc = y at hallOut hallRegs hallMem
      have hy := (y.refreshManage_spec n pc).1
      refine ⟨hy.regs.trans hallRegs, ?_, fun _ => ⟨hy.out _ hallOut, fun b hb => ?_⟩, fun b _ h => absurd (hidle.symm.trans h) nofun, fun h => absurd h hdue, fun _ => ?_,
        Die.managed_after hallRegs ?_⟩
      · exact hy.dram.trans (congrArg Mem.dram hallMem :)
      · rw [hy.rows, hallMem]
        exact d.closeRows_get n hpc hb
      · rw [hy.refDue]
        exact (congrArg (fun m : Mem => Tab.get 0 m.refDue (64 * n + pc)) hallMem :)
      · exact (congrArg Mem.acts hallMem :)
    · rw [Die.refreshPc_bank hdue hidle]
      have hmem := d.bankRefreshed_mem n pc b
      have hregs : (d.bankRefreshed n pc b).regs = d.regs := Die.sendRefresh_regs _ _ _ _
      have hout : Msg.dfi n 10 (64 * pc + b) ∈ (d.bankRefreshed n pc b).out := by
        unfold Die.bankRefreshed
        rw [Die.sendRefresh_out]
        exact List.mem_cons_self
      generalize d.bankRefreshed n pc b = y at hmem hregs hout
      have hy := (y.refreshManage_spec n pc).1
      refine ⟨hy.regs.trans hregs, ?_, fun h => ?_, fun b' _ hb' => ?_, fun h => absurd h hdue, fun _ => ?_, Die.managed_after hregs ?_⟩
      · exact hy.dram.trans (congrArg Mem.dram hmem :)
      · rcases h with h | h
        · exact absurd h hdue
        · rw [hidle] at h
          cases h
      · rw [hidle] at hb'
        cases hb'
        refine ⟨hy.out _ hout, ?_, ?_⟩
        · rw [hy.refBank, hmem]
          exact Tab.get_set_same 0 _ _ _
        · exact hy.rows.trans (congrArg Mem.rows hmem :)
      · rw [hy.refDue]
        exact (congrArg (fun m : Mem => Tab.get 0 m.refDue (64 * n + pc)) hmem :)
      · exact (congrArg Mem.acts hmem :)

/-- A refresh command that its stack can take. -/
theorem refresh_taken {e : Env} {d : Die} {n pc : Nat} (ht : d.trained e n = true) (hpc : pc < d.pcs n) (hr : d.running n = true) :
    ¬ ((!(d.trained e n)) = true ∨ pc ≥ d.pcs n ∨ (!(d.running n)) = true) := by
  rw [ht, hr]
  rintro (h | h | h)
  · cases h
  · omega
  · cases h

theorem exec_refresh {s : State} {r : BitVec 3} {pc : BitVec 6} (ht : s.d.trained s.env r.toNat = true) (hpc : pc.toNat < s.d.pcs r.toNat)
    (hr : s.d.running r.toNat = true) (hcal : Tab.get none s.d.mem.cal r.toNat ≠ some pc.toNat) :
    exec (.refresh r pc) s = .next { s with d := s.d.refreshPc s.env r.toNat pc.toNat } := by
  change execRefresh r pc s = _
  unfold execRefresh
  dsimp only
  rw [if_neg (refresh_taken ht hpc hr), if_neg hcal] <;> rfl

theorem exec_refresh_postponed {s : State} {r : BitVec 3} {pc : BitVec 6} (ht : s.d.trained s.env r.toNat = true) (hpc : pc.toNat < s.d.pcs r.toNat)
    (hr : s.d.running r.toNat = true) (hcal : Tab.get none s.d.mem.cal r.toNat = some pc.toNat) :
    exec (.refresh r pc) s = .next { s with d := { s.d with mem.postponed := s.d.mem.postponed ++ [(r.toNat, pc.toNat)] } } := by
  change execRefresh r pc s = _
  unfold execRefresh
  dsimp only
  rw [if_neg (refresh_taken ht hpc hr), if_pos hcal] <;> rfl

theorem exec_refresh_idle {s : State} {r : BitVec 3} {pc : BitVec 6} (h : s.d.trained s.env r.toNat = false ∨ s.d.pcs r.toNat ≤ pc.toNat ∨ s.d.running r.toNat = false) :
    exec (.refresh r pc) s = .next s := by
  change execRefresh r pc s = _
  unfold execRefresh
  dsimp only
  rw [if_pos (h.imp (fun h => by rw [h]; rfl) (fun h => h.imp id (fun h => by rw [h]; rfl)))] <;> rfl

/-! ### Temperature -/

/-- A temperature that was asked for, taken. -/
def Die.temperatureTaken (d : Die) (n t : Nat) : Die :=
  ((Die.setF { d with mem.temp := Tab.set none d.mem.temp n none } F.MC_TEMP.TEMP_C n t).setF F.MC_TEMP.BAND n (d.nextBand n t)).setF
    F.MC_STATUS.THROTTLE n (Bool.num (decide (d.nextBand n t = 3)))

/-- The same, with the report of a stack that comes into band 3. -/
def Die.temperatureRead (e : Env) (d : Die) (n t : Nat) : Die :=
  if decide (d.nextBand n t = 3 ∧ d.getF F.MC_TEMP.BAND n ≠ 3) then
    ((d.temperatureTaken n t).incSat F.MC_TEMP.BAND3_COUNT n 1).report e { cause := Cs.THERMAL, inst := n, det0 := t }
  else d.temperatureTaken n t

theorem exec_tempRead {s : State} {r : BitVec 3} {tm : BitVec 8} {t0 : Nat} (h : Tab.get none s.d.mem.temp r.toNat = some t0) (hin : s.env.now ≤ t0 + 10000) :
    exec (.tempRead r tm) s = .next { s with d := s.d.temperatureRead s.env r.toNat tm.toNat } := by
  change execTempRead r tm s = _
  unfold execTempRead
  dsimp only
  rw [h]
  dsimp only
  rw [if_neg (by omega)] <;> rfl

theorem exec_tempRead_late {s : State} {r : BitVec 3} {tm : BitVec 8} {t0 : Nat} (h : Tab.get none s.d.mem.temp r.toNat = some t0) (hout : t0 + 10000 < s.env.now) :
    exec (.tempRead r tm) s = .next s := by
  change execTempRead r tm s = _
  unfold execTempRead
  dsimp only
  rw [h]
  dsimp only
  rw [if_pos hout] <;> rfl

theorem Die.bandOf_lt (d : Die) (n t : Nat) : d.bandOf n t < 4 := by
  unfold Die.bandOf
  split
  · exact Nat.lt_succ_self 3
  · split
    · exact Nat.le_of_ble_eq_true rfl
    · split <;> exact Nat.le_of_ble_eq_true rfl

theorem Die.nextBand_lt (d : Die) (n t : Nat) : d.nextBand n t < 4 := by
  unfold Die.nextBand
  dsimp only
  split
  · exact d.bandOf_lt n t
  · split
    · exact d.bandOf_lt n t
    · exact fieldOf_lt _ 8 2

theorem Die.nextBand_hot {d : Die} {n t : Nat} (h : max 95 (d.getF F.MC_CFG.TEMP_THROTTLE_C n) ≤ t) : d.nextBand n t = 3 := by
  have hband : d.bandOf n t = 3 := if_pos h
  unfold Die.nextBand
  dsimp only
  rw [hband]
  exact if_pos (Nat.le_of_lt_succ (fieldOf_lt _ 8 2))

/-- What a taken temperature leaves. -/
structure TempTaken (n t b : Nat) (d : Die) : Prop where
  answered : Tab.get none d.mem.temp n = none
  temp : d.getF F.MC_TEMP.TEMP_C n = t
  band : d.getF F.MC_TEMP.BAND n = b
  throttle : d.getF F.MC_STATUS.THROTTLE n = if b = 3 then 1 else 0

abbrev tempTouch : Touch := { regs := [.MC_TEMP, .MC_STATUS], mem := true }

theorem Die.temperatureTaken_within (d : Die) (n t : Nat) : Within tempTouch d (d.temperatureTaken n t) :=
  (((Die.setMemRest_within d _ rfl rfl).trans (Die.setF_within _ F.MC_TEMP.TEMP_C n t)).trans (Die.setF_within _ F.MC_TEMP.BAND n _)).trans
    (Die.setF_within _ F.MC_STATUS.THROTTLE n _)

theorem Die.temperatureTaken_spec (d : Die) (n : Nat) {t : Nat} (ht : t < 256) : TempTaken n t (d.nextBand n t) (d.temperatureTaken n t) := by
  unfold Die.temperatureTaken
  have hb := d.nextBand_lt n t
  generalize d.nextBand n t = b at hb
  have hget : Tab.get none (Tab.set none d.mem.temp n none) n = none := Tab.get_set_same none d.mem.temp n none
  refine ⟨hget, ?_, ?_, ?_⟩
  · rw [Die.getF_setF_apart _ _ F.MC_TEMP.TEMP_C n _ (by decide), Die.getF_setF_apart _ _ F.MC_TEMP.TEMP_C n _ (by decide),
      Die.getF_setF_same _ _ _ _ (by decide)]
    exact Nat.mod_eq_of_lt ht
  · rw [Die.getF_setF_apart _ _ F.MC_TEMP.BAND n _ (by decide), Die.getF_setF_same _ _ _ _ (by decide)]
    exact Nat.mod_eq_of_lt hb
  · rw [Die.getF_setF_same _ _ _ _ (by decide)]
    by_cases h : b = 3
    · rw [decide_eq_true h, if_pos h] <;> rfl
    · rw [decide_eq_false h, if_neg h] <;> rfl

theorem TempTaken.keep {n t b : Nat} {p : Touch} {d y : Die} (h : TempTaken n t b d) (hw : Within p d y) (ht : y.getF F.MC_TEMP.TEMP_C n = d.getF F.MC_TEMP.TEMP_C n)
    (hb : y.getF F.MC_TEMP.BAND n = d.getF F.MC_TEMP.BAND n) (hm : p.mem = false := by rfl) (hd : p.dram = false := by rfl)
    (hs : p.regs.contains .MC_STATUS = false := by rfl) : TempTaken n t b y :=
  ⟨by rw [hw.mem hm hd]; exact h.answered, ht.trans h.temp, hb.trans h.band, (hw.getF F.MC_STATUS.THROTTLE n hs).trans h.throttle⟩

theorem exec_tempTimeout {s : State} {r : BitVec 3} {t0 : Nat} (h : Tab.get none s.d.mem.temp r.toNat = some t0) (ht : t0 + 10000 ≤ s.env.now) :
    exec (.tempTimeout r) s = .next { s with d := Die.incSat { s.d with mem.temp := Tab.set none s.d.mem.temp r.toNat none } F.MC_ERR.PHY_RETRY_COUNT r.toNat 1 } := by
  change execTempTimeout r s = _
  unfold execTempTimeout
  dsimp only
  rw [h]
  dsimp only
  rw [if_neg (by omega)] <;> rfl

theorem exec_tempTimeout_early {s : State} {r : BitVec 3} {t0 : Nat} (h : Tab.get none s.d.mem.temp r.toNat = some t0) (ht : s.env.now < t0 + 10000) :
    exec (.tempTimeout r) s = .next s := by
  change execTempTimeout r s = _
  unfold execTempTimeout
  dsimp only
  rw [h]
  dsimp only
  rw [if_pos ht] <;> rfl

theorem exec_tempRead_spec {s : State} {r : BitVec 3} {tm : BitVec 8} {t0 : Nat} (h : Tab.get none s.d.mem.temp r.toNat = some t0) (hin : s.env.now ≤ t0 + 10000) :
    ∃ d, exec (.tempRead r tm) s = .next { s with d := d } ∧ TempTaken r.toNat tm.toNat (s.d.nextBand r.toNat tm.toNat) d ∧
      Within { regs := [.MC_TEMP, .MC_STATUS, .AY_STATUS], mem := true, ay := true } s.d d := by
  refine ⟨_, exec_tempRead h hin, ?_⟩
  have hspec := s.d.temperatureTaken_spec r.toNat tm.isLt
  have hw : Within tempTouch s.d (s.d.temperatureTaken r.toNat tm.toNat) := s.d.temperatureTaken_within r.toNat tm.toNat
  unfold Die.temperatureRead
  generalize s.d.temperatureTaken r.toNat tm.toNat = y at hspec hw ⊢
  split
  · have hinc : Within { regs := [.MC_TEMP] } y (y.incSat F.MC_TEMP.BAND3_COUNT r.toNat 1) := Die.incSat_within y _ _ 1
    have htemp : (y.incSat F.MC_TEMP.BAND3_COUNT r.toNat 1).getF F.MC_TEMP.TEMP_C r.toNat = y.getF F.MC_TEMP.TEMP_C r.toNat :=
      Die.getF_setF_apart _ _ F.MC_TEMP.TEMP_C _ _ (by decide)
    have hband : (y.incSat F.MC_TEMP.BAND3_COUNT r.toNat 1).getF F.MC_TEMP.BAND r.toNat = y.getF F.MC_TEMP.BAND r.toNat :=
      Die.getF_setF_apart _ _ F.MC_TEMP.BAND _ _ (by decide)
    generalize y.incSat F.MC_TEMP.BAND3_COUNT r.toNat 1 = z at hinc htemp hband ⊢
    have hrep : Within { regs := [.AY_STATUS], ay := true } z (z.report s.env { cause := Cs.THERMAL, inst := r.toNat, det0 := tm.toNat }) := Die.report_within _ _ _
    exact ⟨(hspec.keep hinc htemp hband).keep hrep (hrep.getF F.MC_TEMP.TEMP_C _) (hrep.getF F.MC_TEMP.BAND _), (hw.mono.trans hinc.mono).trans hrep.mono⟩
  · exact ⟨hspec, hw.mono⟩

/-! ### PHY alerts and the log -/

/-- A PHY alert whose retries have been counted. -/
def Die.alerted (e : Env) (d : Die) (n pc tries : Nat) : Die :=
  (d.incSat F.MC_ERR.PHY_RETRY_COUNT n tries).report e { cause := Cs.PHY_ALERT, inst := n, det0 := pc }

/-- The same, where no retry has succeeded. -/
def Die.alertFailed (e : Env) (d : Die) (n : Nat) : Die := d.report e { cause := Cs.PHY_FAIL, inst := n, det0 := 1 }

theorem alert_taken {e : Env} {d : Die} {n pc : Nat} (ht : d.trained e n = true) (hpc : pc < d.pcs n) : ¬ ((!(d.trained e n)) = true ∨ pc ≥ d.pcs n) := by
  rw [ht]
  rintro (h | h)
  · cases h
  · omega

theorem exec_phyAlert_good {s : State} {r : BitVec 3} {pc : BitVec 6} {tries : Nat} (ht : s.d.trained s.env r.toNat = true) (hpc : pc.toNat < s.d.pcs r.toNat)
    (hinj : s.d.fire0 Cs.PHY_FAIL r.toNat = false) (h : 0 < tries ∧ tries ≤ s.d.getF F.MC_CFG.PHY_RETRIES r.toNat) :
    exec (.phyAlert r pc tries) s = .next { s with d := s.d.alerted s.env r.toNat pc.toNat tries } := by
  change execPhyAlert r pc tries s = _
  unfold execPhyAlert
  dsimp only
  rw [if_neg (alert_taken ht hpc), hinj, decide_eq_true h]
  simp only [Bool.not_false, Bool.and_self, Bool.false_eq_true, ↓reduceIte]
  rfl

theorem exec_phyAlert_bad {s : State} {r : BitVec 3} {pc : BitVec 6} {tries : Nat} (ht : s.d.trained s.env r.toNat = true) (hpc : pc.toNat < s.d.pcs r.toNat)
    (hinj : s.d.fire0 Cs.PHY_FAIL r.toNat = false) (h : ¬ (0 < tries ∧ tries ≤ s.d.getF F.MC_CFG.PHY_RETRIES r.toNat)) :
    exec (.phyAlert r pc tries) s = .next { s with d := (s.d.alerted s.env r.toNat pc.toNat (s.d.getF F.MC_CFG.PHY_RETRIES r.toNat)).alertFailed s.env r.toNat } := by
  change execPhyAlert r pc tries s = _
  unfold execPhyAlert
  dsimp only
  rw [if_neg (alert_taken ht hpc), hinj, decide_eq_false h]
  simp only [Bool.not_false, Bool.and_true, Bool.false_eq_true, ↓reduceIte]
  rfl

/-- The log of uncorrectable errors of a controller, emptied. -/
def Die.ueCleared (d : Die) (n : Nat) : Die := (List.range 16).foldl (fun d i => d.clearElem .MC_UE_LOG (16 * n + i)) d

theorem Die.ueCleared_within (d : Die) (n : Nat) : Within { regs := [.MC_UE_LOG] } d (d.ueCleared n) :=
  .foldl _ (fun d i => Die.clearElem_within d .MC_UE_LOG _) _ _

theorem Die.ueCleared_log (d : Die) (n : Nat) : ∀ i ∈ List.range 16, ∀ w < Reg.MC_UE_LOG.layout.words,
    (d.ueCleared n).reg .MC_UE_LOG (16 * n + i) w = Reg.MC_UE_LOG.resetWord w := by
  have hwords : Reg.MC_UE_LOG.layout.words ≤ 8 := Nat.le_of_ble_eq_true rfl
  refine foldl_reaches (p := fun i (d : Die) => ∀ w < Reg.MC_UE_LOG.layout.words, d.reg .MC_UE_LOG (16 * n + i) w = Reg.MC_UE_LOG.resetWord w)
    (fun d i w hw => d.reg_clearElem_lt .MC_UE_LOG (16 * n + i) w hw) (fun d i j h w hw => ?_) _ _
  by_cases hij : j = i
  · rw [hij]
    exact d.reg_clearElem_lt .MC_UE_LOG (16 * n + i) w hw
  · rw [Die.reg_clearElem_ne _ _ _ _ _ (by omega) (by omega) hwords]
    exact h w hw

theorem exec_mcUeClear {s : State} {who : Who} {r : BitVec 3} {v : Word} (hg : s.d.barGate s.env who .MC_UE_STATUS r.toNat = none) (h : fieldOf v 6 1 = 1) :
    exec (.mcUeClear who r v) s = .next { s with d := ((s.d.putWord s.env .MC_UE_STATUS r.toNat 0 v).ueCleared r.toNat).setF F.MC_UE_STATUS.COUNT r.toNat 0 } := by
  change execMcUeClear who r v s = _
  unfold execMcUeClear
  dsimp only
  rw [Die.barWrite_of_gate _ hg, if_pos h] <;> rfl

theorem mcUeClear_spec {s : State} {who : Who} {r : BitVec 3} {v : Word} (hg : s.d.barGate s.env who .MC_UE_STATUS r.toNat = none) (h : fieldOf v 6 1 = 1) :
    ∃ t, exec (.mcUeClear who r v) s = .next t ∧ t.d.getF F.MC_UE_STATUS.COUNT r.toNat = 0 ∧
      (∀ i w, i < 16 → w < Reg.MC_UE_LOG.layout.words → t.d.reg .MC_UE_LOG (16 * r.toNat + i) w = Reg.MC_UE_LOG.resetWord w) ∧ onlyRegs s t [.MC_UE_STATUS, .MC_UE_LOG] := by
  refine ⟨_, exec_mcUeClear hg h, ?_⟩
  have hput : Within { regs := [.MC_UE_STATUS] } s.d (s.d.putWord s.env .MC_UE_STATUS r.toNat 0 v) := Die.putWord_within _ _ _ _ _ _
  generalize s.d.putWord s.env .MC_UE_STATUS r.toNat 0 v = y at hput ⊢
  have hclear := y.ueCleared_within r.toNat
  have hlog := y.ueCleared_log r.toNat
  generalize y.ueCleared r.toNat = z at hclear hlog ⊢
  have hset : Within { regs := [.MC_UE_STATUS] } z (z.setF F.MC_UE_STATUS.COUNT r.toNat 0) := Die.setF_within z _ _ 0
  refine ⟨(Die.getF_setF_same _ _ _ _ (by decide)).trans rfl, fun i w hi hw => ?_, ((hput.mono.trans hclear.mono).trans hset.mono).onlyRegs⟩
  exact (hset.reg .MC_UE_LOG _ w).trans (hlog i (List.mem_range.2 hi) w hw)

/-! ### O53 -/

theorem exec_mcArrive {s : State} {i : Instr} {l : Nat} {r : McReq} (h : exec i s = .next { s with d := s.d.mcArrive s.env l r }) :
    (s.d.present s.env (pageOfLine l) = true → ∃ d₁ : Die, exec i s = .next { s with d := d₁.pump s.env } ∧ d₁.mem.queue = s.d.mem.queue ++ [(s.d.nid, r)] ∧ d₁.nid = s.d.nid + 1 ∧
      d₁.regs = s.d.regs ∧ d₁.mem.dram = s.d.mem.dram) ∧
    (s.d.present s.env (pageOfLine l) = false → exec i s = .next s) := by
  constructor <;> intro hp <;> rw [h] <;> unfold Die.mcArrive
  · rw [if_pos hp]
    exact ⟨_, rfl, rfl, rfl, rfl, rfl⟩
  · rw [if_neg (by rw [hp]; decide)]

/-- Settles O53: a request is served by one access, each refresh, temperature and alert by the rules above. -/
theorem controllersReadWriteRefreshAndWatchTheirStacks : Obligations.ControllersReadWriteRefreshAndWatchTheirStacks := by
  unfold Obligations.ControllersReadWriteRefreshAndWatchTheirStacks
  refine ⟨fun s line fl sec z data => ⟨fun i r hir => ?_, fun k d htxns => ?_⟩, fun s r pc => ⟨fun ht hpc hr => ⟨fun hcal => ?_, fun hcal => ?_⟩,
    fun h => exec_refresh_idle h, fun tm t0 h => ⟨fun hin => ?_, Die.nextBand_hot, exec_tempRead_late h, fun ht => ?_, exec_tempTimeout_early h⟩,
    fun tries ht hpc hinj => ⟨exec_phyAlert_good ht hpc hinj, exec_phyAlert_bad ht hpc hinj⟩, fun who v hg h => mcUeClear_spec hg h⟩⟩
  · rcases List.mem_cons.1 hir with h | h
    · cases h
      exact exec_mcArrive rfl
    · rcases List.mem_cons.1 h with h | h
      · cases h
        exact exec_mcArrive rfl
      · cases h
  · exact ⟨fun hn => ⟨Die.mcPump_one htxns (mcServe_read_go hn), Die.mcPump_one htxns (mcServe_write_go hn)⟩,
      fun hn => Die.mcPump_one htxns (mcServe_write_nmap_go hn)⟩
  · obtain ⟨hregs, hdram, hall, hone, hdue, hnot, hman⟩ := s.d.refreshPc_spec s.env r.toNat pc.isLt
    exact ⟨_, exec_refresh ht hpc hr hcal, hregs, hdram, rfl, hall, hone, hdue, hnot, hman⟩
  · exact ⟨_, exec_refresh_postponed ht hpc hr hcal, rfl, rfl, rfl, rfl⟩
  · obtain ⟨d, hexec, ⟨hans, htemp, hband, hthr⟩, hw⟩ := exec_tempRead_spec h hin (tm := tm)
    exact ⟨_, hexec, hans, htemp, hband, hthr, hw.dram, hw.keepsRegs, rfl⟩
  · have hw : Within { regs := [.MC_ERR], mem := true } s.d
        (Die.incSat { s.d with mem.temp := Tab.set none s.d.mem.temp r.toNat none } F.MC_ERR.PHY_RETRY_COUNT r.toNat 1) :=
      (Die.setMemRest_within s.d _ rfl rfl).trans (Die.incSat_within _ _ _ 1)
    exact ⟨_, exec_tempTimeout h ht, Tab.get_set_same none s.d.mem.temp r.toNat none, Die.getF_incSat_same _ _ _ _ (by decide), hw.keepsRegs, hw.dram, rfl⟩

end Sys2Proof.Machine
end

section
/-! PROOF. Training, patrol, the scrubs of pages and of the null map, calibration and retraining (O54). -/

-- One proof after another: all at once, they ask for more threads than the check's memory limit admits.
set_option Elab.async false

namespace Sys2Proof.Machine

/-! ### Training -/

theorem Within.ite {p : Touch} {c : Prop} [Decidable c] {d t u : Die} (ht : Within p d t) (hu : Within p d u) : Within p d (if c then t else u) := by
  split
  · exact ht
  · exact hu

theorem Die.trainMs_within (e : Env) (d : Die) : Within { regs := [.ST_BOOT] } d (d.trainMs e) := by
  unfold Die.trainMs
  exact .ite (.refl d) (Die.setF_within d _ 0 _)

theorem Die.trainMs_trainFail (e : Env) (d : Die) : (d.trainMs e).getF F.ST_BOOT.TRAIN_FAIL 0 = d.getF F.ST_BOOT.TRAIN_FAIL 0 := by
  unfold Die.trainMs
  split
  · rfl
  · exact Die.getF_setF_apart d _ F.ST_BOOT.TRAIN_FAIL 0 _ (by decide)

abbrev warmDoneTouch : Touch := { regs := [.AY_STATUS], ay := true, bt := true }

theorem Die.warmDone_within (d : Die) : Within warmDoneTouch d d.warmDone := by
  unfold Die.warmDone
  extract_lets lim d₀ d₁ a₁ a₀ y z b
  have h₀ : Within warmDoneTouch d d₀ := Die.setF_within d F.AY_STATUS.HANDLING 0 0
  have h₁ : Within warmDoneTouch d₀ d₁ := Die.setF_within d₀ F.AY_STATUS.LIMIT_HIT 0 1
  have hy : Within warmDoneTouch d y :=
    .ite (.ite ((h₀.trans h₁).trans (Die.setAy_within d₁ _)) (h₀.trans (Die.setAy_within d₀ _))) (.refl d)
  have hz : Within warmDoneTouch y z := Die.setF_within y F.AY_STATUS.QUIET_COUNT 0 0
  exact (hy.trans hz).trans (Die.setBt_within z _)

abbrev phase3Touch : Touch := { regs := [.ST_BOOT, .AY_STATUS], ay := true, bt := true }

/-- The start of phase 3: its PHASE and what follows it. -/
theorem Die.phase3_spec (e : Env) (d : Die) : Within phase3Touch d (d.phase3 e) ∧ (d.phase3 e).getF F.ST_BOOT.TRAIN_FAIL 0 = d.getF F.ST_BOOT.TRAIN_FAIL 0 := by
  unfold Die.phase3
  split
  · extract_lets d₀ b d₁ handling d₂
    have h₀ : Within { regs := [.ST_BOOT] } d (d.setF F.ST_BOOT.PHASE 0 3) := Die.setF_within d _ 0 3
    have h₁ : Within phase3Touch d d₁ := h₀.mono.trans (Die.setBt_within (d.setF F.ST_BOOT.PHASE 0 3) _)
    have hf₁ : d₁.getF F.ST_BOOT.TRAIN_FAIL 0 = d.getF F.ST_BOOT.TRAIN_FAIL 0 :=
      Die.getF_setF_apart d F.ST_BOOT.PHASE F.ST_BOOT.TRAIN_FAIL 0 3 (by decide)
    have h₂ : Within warmDoneTouch d₁ d₂ := .ite d₁.warmDone_within (.refl d₁)
    have h₃ : Within warmDoneTouch d₂ (((List.range e.regions).filter (fun n => decide (d₂.getF F.MC_STATUS.MODE n = 3))).foldl (fun d n =>
        d.report e { cause := Cs.PHY_FAIL, inst := n, det0 := 0 }) d₂) := .foldl _ (fun y n => Die.report_within e y _) _ _
    split
    · have h := h₂.trans h₃
      exact ⟨h₁.trans h.mono, (h.getF F.ST_BOOT.TRAIN_FAIL 0).trans hf₁⟩
    · exact ⟨h₁.trans h₂.mono, (h₂.getF F.ST_BOOT.TRAIN_FAIL 0).trans hf₁⟩
  · exact ⟨.refl d, rfl⟩

/-- Mode and pages of a stack, as training or its failure sets them. -/
def Die.stackSet (d : Die) (n mode pages nmap : Nat) : Die :=
  ((d.setF F.MC_STATUS.MODE n mode).setF F.MC_STATUS.PRESENT_PAGES n pages).setF F.MC_STATUS.NMAP_PAGES n nmap

structure StackSet (n mode pages nmap : Nat) (d : Die) : Prop where
  mode : d.getF F.MC_STATUS.MODE n = mode % 4
  pages : d.getF F.MC_STATUS.PRESENT_PAGES n = pages % 2 ^ F.MC_STATUS.PRESENT_PAGES.width
  nmap : d.getF F.MC_STATUS.NMAP_PAGES n = nmap % 2 ^ F.MC_STATUS.NMAP_PAGES.width

theorem Die.stackSet_within (d : Die) (n mode pages nmap : Nat) : Within { regs := [.MC_STATUS] } d (d.stackSet n mode pages nmap) :=
  ((Die.setF_within d F.MC_STATUS.MODE n mode).trans (Die.setF_within _ F.MC_STATUS.PRESENT_PAGES n pages)).trans (Die.setF_within _ F.MC_STATUS.NMAP_PAGES n nmap)

theorem Die.stackSet_spec (d : Die) (n mode pages nmap : Nat) : StackSet n mode pages nmap (d.stackSet n mode pages nmap) := by
  unfold Die.stackSet
  refine ⟨?_, ?_, Die.getF_setF_same _ _ _ _ (by decide)⟩
  · rw [Die.getF_setF_apart _ _ F.MC_STATUS.MODE n _ (by decide), Die.getF_setF_apart _ _ F.MC_STATUS.MODE n _ (by decide), Die.getF_setF_same _ _ _ _ (by decide)] <;> rfl
  · rw [Die.getF_setF_apart _ _ F.MC_STATUS.PRESENT_PAGES n _ (by decide), Die.getF_setF_same _ _ _ _ (by decide)]

theorem StackSet.keep {n mode pages nmap : Nat} {p : Touch} {d t : Die} (h : StackSet n mode pages nmap d) (hw : Within p d t)
    (hr : p.regs.contains .MC_STATUS = false := by rfl) : StackSet n mode pages nmap t :=
  ⟨(hw.getF F.MC_STATUS.MODE n hr).trans h.mode, (hw.getF F.MC_STATUS.PRESENT_PAGES n hr).trans h.pages, (hw.getF F.MC_STATUS.NMAP_PAGES n hr).trans h.nmap⟩

/-- The guaranteed rates' limit of an HBM3E stack. -/
def Die.guarLimited (d : Die) (n mode : Nat) : Die := if mode = 2 then d.setF F.MC_CFG.GUAR_LIMIT_GBPS n 983 else d

theorem Die.guarLimited_within (d : Die) (n mode : Nat) : Within { regs := [.MC_CFG] } d (d.guarLimited n mode) :=
  .ite (Die.setF_within d F.MC_CFG.GUAR_LIMIT_GBPS n 983) (.refl d)

/-- The seed words that a trained stack gives, by the free value they are drawn from. -/
def trainedSeeds (c : Nat) : List Byte := (List.range 4096).map (Config.trainedSeed c)

/-- The stack is trained, and the seed words read back from it are drawn. -/
def Die.stackTrained (d : Die) (n : Nat) (seeds : Nat → List Byte) : Die :=
  { d with mem.stack := Tab.set 0 d.mem.stack n 2, bt.trained := Tab.set 0 d.bt.trained n 1,
           bt.seeds := Tab.set [] d.bt.seeds n (seeds d.ctr), ctr := d.ctr + 1 }

theorem Die.stackTrained_within (d : Die) (n : Nat) (seeds : Nat → List Byte) : Within { mem := true, bt := true, ctr := true } d (d.stackTrained n seeds) :=
  ((Die.setMemRest_within d _ rfl rfl).trans (Die.setBt_within { d with mem.stack := _ } _)).trans (Die.drawn_within _)

theorem exec_trainingDone {s : State} {r : BitVec 3} {mode : BitVec 2} {geom : BitVec 3} {row : StackRow} (hr : s.env.hasRegion r.toNat = true)
    (hs : Tab.get 0 s.d.mem.stack r.toNat = 1) (hrow : stackRow mode.toNat geom.toNat = some row) :
    exec (.trainingDone r mode geom) s =
      .next { s with d := (((s.d.stackSet r.toNat row.mode row.pages row.nmap).guarLimited r.toNat row.mode).stackTrained r.toNat
        trainedSeeds).trainMs s.env } := by
  change execTrainingDone r mode geom s = _
  unfold execTrainingDone
  dsimp only
  rw [if_neg (by rw [hr, hs]; rintro (h | h); exacts [Bool.false_ne_true h, h rfl]), hrow] <;> rfl

theorem trainingDone_spec {s : State} {r : BitVec 3} {mode : BitVec 2} {geom : BitVec 3} {row : StackRow} (hr : s.env.hasRegion r.toNat = true)
    (hs : Tab.get 0 s.d.mem.stack r.toNat = 1) (hrow : stackRow mode.toNat geom.toNat = some row) :
    ∃ d, exec (.trainingDone r mode geom) s = .next { s with d := d } ∧ Tab.get [] d.bt.seeds r.toNat = trainedSeeds s.d.ctr ∧
      StackSet r.toNat row.mode row.pages row.nmap d ∧ Tab.get 0 d.mem.stack r.toNat = 2 ∧
      Within { regs := [.MC_STATUS, .MC_CFG, .ST_BOOT], mem := true, bt := true, ctr := true } s.d d := by
  refine ⟨_, exec_trainingDone hr hs hrow, ?_⟩
  generalize trainedSeeds = seeds
  have h₁ := s.d.stackSet_within r.toNat row.mode row.pages row.nmap
  have hspec := s.d.stackSet_spec r.toNat row.mode row.pages row.nmap
  generalize s.d.stackSet r.toNat row.mode row.pages row.nmap = y₁ at h₁ hspec ⊢
  have h₂ := y₁.guarLimited_within r.toNat row.mode
  generalize y₁.guarLimited r.toNat row.mode = y₂ at h₂ ⊢
  have h₃ := y₂.stackTrained_within r.toNat seeds
  have hstack : Tab.get 0 (y₂.stackTrained r.toNat seeds).mem.stack r.toNat = 2 := Tab.get_set_same 0 y₂.mem.stack r.toNat 2
  have hseeds : Tab.get [] (y₂.stackTrained r.toNat seeds).bt.seeds r.toNat = seeds y₂.ctr := Tab.get_set_same [] y₂.bt.seeds r.toNat (seeds y₂.ctr)
  generalize y₂.stackTrained r.toNat seeds = y₃ at h₃ hstack hseeds ⊢
  have h₄ := y₃.trainMs_within s.env
  refine ⟨?_, ((hspec.keep h₂).keep h₃).keep h₄, ?_, ((h₁.mono.trans h₂.mono).trans h₃.mono).trans h₄.mono⟩
  · rw [h₄.bt, hseeds, h₂.ctr, h₁.ctr]
  · rw [h₄.mem, hstack]

/-- The stack of a failed training is over, and its bit set. -/
def Die.stackLost (d : Die) (n : Nat) : Die :=
  let d : Die := { d with mem.stack := Tab.set 0 d.mem.stack n 3 }
  d.setF F.ST_BOOT.TRAIN_FAIL 0 (d.getF F.ST_BOOT.TRAIN_FAIL 0 ||| 2 ^ n)

theorem Die.stackLost_within (d : Die) (n : Nat) : Within { regs := [.ST_BOOT], mem := true } d (d.stackLost n) :=
  (Die.setMemRest_within d _ rfl rfl).trans (Die.setF_within { d with mem.stack := _ } F.ST_BOOT.TRAIN_FAIL 0 _)

theorem Die.stackLost_trainFail (d : Die) {n : Nat} (hn : n < 8) : (d.stackLost n).getF F.ST_BOOT.TRAIN_FAIL 0 = d.getF F.ST_BOOT.TRAIN_FAIL 0 ||| 2 ^ n := by
  unfold Die.stackLost
  extract_lets m y
  have hy : Within { mem := true } d y := Die.setMemRest_within d _ rfl rfl
  rw [Die.getF_setF_same _ _ _ _ (by decide), hy.getF F.ST_BOOT.TRAIN_FAIL 0]
  exact Nat.mod_eq_of_lt (Nat.or_lt_two_pow (fieldOf_lt _ 8 8) (Nat.pow_lt_pow_right (Nat.lt_succ_self 1) hn))

theorem Die.stackFailed_spec (e : Env) (d : Die) {n : Nat} (hn : n < 8) : StackSet n 3 0 0 (d.stackFailed e n) ∧
    (d.stackFailed e n).getF F.ST_BOOT.TRAIN_FAIL 0 = d.getF F.ST_BOOT.TRAIN_FAIL 0 ||| 2 ^ n ∧ (d.stackFailed e n).mem.dram = d.mem.dram := by
  unfold Die.stackFailed
  extract_lets y₁ m z y₂
  have h₁ : Within { regs := [.MC_STATUS] } d y₁ := d.stackSet_within n 3 0 0
  have hspec : StackSet n 3 0 0 y₁ := d.stackSet_spec n 3 0 0
  clear_value y₁
  have h₂ : Within { regs := [.ST_BOOT], mem := true } y₁ y₂ := y₁.stackLost_within n
  have hfail : y₂.getF F.ST_BOOT.TRAIN_FAIL 0 = y₁.getF F.ST_BOOT.TRAIN_FAIL 0 ||| 2 ^ n := y₁.stackLost_trainFail hn
  clear_value y₂
  have h₃ := y₂.trainMs_within e
  have hms := y₂.trainMs_trainFail e
  generalize y₂.trainMs e = y₃ at h₃ hms ⊢
  have h₄ : Within { regs := [.AY_STATUS], ay := true } y₃ (y₃.report e { cause := Cs.PHY_FAIL, inst := n, det0 := 0 }) := Die.report_within e y₃ _
  generalize y₃.report e { cause := Cs.PHY_FAIL, inst := n, det0 := 0 } = y₄ at h₄ ⊢
  obtain ⟨h₅, hphase⟩ := y₄.phase3_spec e
  refine ⟨(((hspec.keep h₂).keep h₃).keep h₄).keep h₅, ?_, ?_⟩
  · rw [hphase, h₄.getF F.ST_BOOT.TRAIN_FAIL 0, hms, hfail, h₁.getF F.ST_BOOT.TRAIN_FAIL 0]
  · rw [h₅.dram, h₄.dram, h₃.dram, h₂.dram, h₁.dram]

/-- How long a stack may be at its training. -/
def Die.trainingMs (d : Die) : Nat := if d.bt.inWarm then 100 else if d.bit F.ST_BOOT.NO_SETTINGS 0 then 1500 else 400

theorem exec_trainingTimeout {s : State} {r : BitVec 3} (hr : s.env.hasRegion r.toNat = true) (hs : Tab.get 0 s.d.mem.stack r.toNat = 1)
    (ht : s.d.bt.phaseAt + s.d.trainingMs * 1000000 ≤ s.env.now) : exec (.trainingTimeout r) s = .next { s with d := s.d.stackFailed s.env r.toNat } := by
  change execTrainingTimeout r s = _
  unfold execTrainingTimeout
  unfold Die.trainingMs at ht
  dsimp only
  rw [if_neg (by rw [hr, hs]; rintro (h | h | h); exacts [Bool.false_ne_true h, h rfl, absurd h (not_lt.2 ht)])] <;> rfl

theorem exec_trainingTimeout_early {s : State} {r : BitVec 3} (ht : s.env.now < s.d.bt.phaseAt + s.d.trainingMs * 1000000) : exec (.trainingTimeout r) s = .next s := by
  change execTrainingTimeout r s = _
  unfold execTrainingTimeout
  unfold Die.trainingMs at ht
  dsimp only
  rw [if_pos (.inr (.inr ht))] <;> rfl

/-! ### The null map is initialised -/

/-- The null map of a stack holds its first value everywhere, and the stack is ready. -/
def Die.nmapCleared (d : Die) (n : Nat) : Die :=
  { d.setF F.MC_STATUS.NMAP_READY n 1 with
    mem.stack := Tab.set 0 d.mem.stack n 3,
    mem.nmap := d.mem.nmap.filter (fun x => !(decide (x.1 / 2 ^ 22 = n))),
    mem.nmapBad := d.mem.nmapBad.filter (fun x => !(decide (x.1 / 2 ^ 22 = n))) }

/-- The background work of a ready stack has its first times. -/
def Die.maintTimed (e : Env) (d : Die) (n : Nat) : Die :=
  { d with
    mem.patrolDue := Tab.set 0 d.mem.patrolDue n (e.now + d.patrolGap n),
    mem.nmapDue := Tab.set 0 d.mem.nmapDue n (e.now + d.nmapGap n),
    mem.calDue := Tab.set 0 d.mem.calDue n (d.getF F.ST_TICK.TICK_COUNT 0 + 1) }

/-- The stack with its null map initialised, before phase 3. -/
def Die.nmapReady (e : Env) (d : Die) (n : Nat) : Die :=
  let d := ((d.nmapCleared n).setF F.MC_PATROL_POS.LINE n (2304 * 2 ^ 18 * n)).maintTimed e n
  d.chargeBulk e n (d.getF F.MC_STATUS.NMAP_PAGES n * 2 ^ 25)

theorem exec_nmapInitDone {s : State} {r : BitVec 3} (h : Tab.get 0 s.d.mem.stack r.toNat = 2) :
    exec (.nmapInitDone r) s = .next { s with d := ((s.d.nmapReady s.env r.toNat).phase3 s.env).pump s.env } := by
  change execNmapInitDone r s = _
  unfold execNmapInitDone
  dsimp only
  rw [if_neg (not_not.2 h)]
  unfold Die.nmapReady Die.maintTimed Die.nmapCleared
  rfl

theorem exec_nmapInitDone_idle {s : State} {r : BitVec 3} (h : Tab.get 0 s.d.mem.stack r.toNat ≠ 2) : exec (.nmapInitDone r) s = .next s := by
  change execNmapInitDone r s = _
  unfold execNmapInitDone
  dsimp only
  rw [if_pos h] <;> rfl

theorem Die.chargeBulk_nmap (e : Env) (d : Die) (n bytes : Nat) : (d.chargeBulk e n bytes).mem.nmap = d.mem.nmap := by
  unfold Die.chargeBulk
  extract_lets pcs d₁
  have h₁ : Within { ch := true } d d₁ := .foldl _ (fun d i => Die.count_within d _ _) _ _
  have h₂ : Within { regs := monRegs, ch := true } d (((d₁.count (1600 + 16 * n + 1) bytes).count 6 bytes).monitor e 2 n 1 bytes) :=
    ((h₁.mono.trans (Die.count_within d₁ _ _)).trans (Die.count_within _ 6 bytes)).trans (Die.monitor_within _ e 2 n _ _).mono
  generalize ((d₁.count (1600 + 16 * n + 1) bytes).count 6 bytes).monitor e 2 n 1 bytes = y at h₂
  have h₃ : (y.chargeMaint e n bytes).mem.nmap = y.mem.nmap := (congrArg Mem.nmap (Die.count_mem y (1600 + 16 * n + 7) bytes) :)
  rw [h₃, h₂.mem]

theorem Die.nmapReady_spec (e : Env) (d : Die) (n : Nat) : (d.nmapReady e n).bit F.MC_STATUS.NMAP_READY n = true ∧
    (∀ k, k / 2 ^ 22 = n → Tab.get ones (d.nmapReady e n).mem.nmap k = ones) ∧
    Within { regs := [.MC_STATUS, .MC_PATROL_POS, .CH_BWLAST, .CH_BWPEAK, .CH_BWCOUNT], mem := true, ch := true } d (d.nmapReady e n) := by
  unfold Die.nmapReady
  have hset : Within { regs := [.MC_STATUS] } d (d.setF F.MC_STATUS.NMAP_READY n 1) := Die.setF_within d _ n 1
  have h₁ : Within { regs := [.MC_STATUS], mem := true } d (d.nmapCleared n) := hset.mono.trans (Die.setMemRest_within _ _ rfl rfl)
  have hbit : (d.nmapCleared n).bit F.MC_STATUS.NMAP_READY n = true :=
    (Die.bit_iff_getF _ _ _ rfl).2 ((Die.getF_setF_same d F.MC_STATUS.NMAP_READY n 1 (by decide)).trans rfl)
  have hnmap : ∀ k, k / 2 ^ 22 = n → Tab.get ones (d.nmapCleared n).mem.nmap k = ones := fun k hk =>
    Tab.get_filter_gone ones d.mem.nmap (fun k => !(decide (k / 2 ^ 22 = n))) k (by rw [decide_eq_true hk]; rfl)
  generalize d.nmapCleared n = y₁ at h₁ hbit hnmap ⊢
  have h₂ : Within { regs := [.MC_PATROL_POS] } y₁ (y₁.setF F.MC_PATROL_POS.LINE n (2304 * 2 ^ 18 * n)) := Die.setF_within y₁ _ n _
  generalize y₁.setF F.MC_PATROL_POS.LINE n (2304 * 2 ^ 18 * n) = y₂ at h₂ ⊢
  have h₃ : Within { mem := true } y₂ (y₂.maintTimed e n) := Die.setMemRest_within y₂ _ rfl rfl
  have hn₃ : (y₂.maintTimed e n).mem.nmap = y₂.mem.nmap := rfl
  generalize y₂.maintTimed e n = y₃ at h₃ hn₃ ⊢
  dsimp only
  generalize y₃.getF F.MC_STATUS.NMAP_PAGES n * 2 ^ 25 = b
  have h₄ : Within { regs := [.CH_BWLAST, .CH_BWPEAK, .CH_BWCOUNT], mem := true, ch := true } y₃ (y₃.chargeBulk e n b) := y₃.chargeBulk_within e n b
  refine ⟨?_, fun k hk => ?_, ((h₁.mono.trans h₂.mono).trans h₃.mono).trans h₄.mono⟩
  · rw [h₄.bit F.MC_STATUS.NMAP_READY n, h₃.bit F.MC_STATUS.NMAP_READY n, h₂.bit F.MC_STATUS.NMAP_READY n, hbit]
  · rw [y₃.chargeBulk_nmap, hn₃, h₂.mem, hnmap k hk]

end Sys2Proof.Machine
end

section
/-! PROOF. Patrol, the null-map scrub, calibration and retraining, and O54. -/

-- One proof after another: all at once, they ask for more threads than the check's memory limit admits.
set_option Elab.async false

namespace Sys2Proof.Machine

/-! ### Patrol -/

theorem Die.patrolSkip_none {d : Die} {n : Nat} (fuel : Nat) (h : d.scrubbing (2304 * n + d.patrolPos n / 2 ^ 18) = false) : d.patrolSkip fuel n = d := by
  cases fuel with
  | zero => rfl
  | succ fuel =>
    unfold Die.patrolSkip
    dsimp only
    rw [if_neg (by rw [h]; decide)]

/-- The stack serves its background work now. -/
structure ReadyStack (e : Env) (d : Die) (n : Nat) : Prop where
  trained : d.trained e n = true
  ready : d.bit F.MC_STATUS.NMAP_READY n = true
  running : d.running n = true

theorem ReadyStack.notOut {e : Env} {d : Die} {n : Nat} (h : ReadyStack e d n) : ¬ ((!(d.trained e n)) = true ∨ (!(d.bit F.MC_STATUS.NMAP_READY n)) = true) := by
  rw [h.trained, h.ready]
  exact not_or.2 ⟨Bool.false_ne_true, Bool.false_ne_true⟩

theorem ReadyStack.notDown {e : Env} {d : Die} {n : Nat} (h : ReadyStack e d n) : ¬ (!(d.running n)) = true := by
  rw [h.running]
  exact Bool.false_ne_true

theorem exec_patrolVisit_none {s : State} {r : BitVec 3} (hready : ReadyStack s.env s.d r.toNat) (h : (s.d.patrolOwe s.env r.toNat).getF F.MC_PATROL.BEHIND r.toNat = 0) :
    exec (.patrolVisit r) s = .next { s with d := s.d.patrolOwe s.env r.toNat } := by
  change execPatrolVisit r s = _
  unfold execPatrolVisit
  dsimp only
  rw [if_neg hready.notOut, if_neg hready.notDown, if_pos (.inl h)] <;> rfl

/-- A visit that has been made: the patrol goes on by one line, and one visit less is owed. -/
def Die.patrolled (e : Env) (d : Die) (n : Nat) : Die :=
  let d := (d.unpause n).patrolTo n (d.patrolPos n + 1)
  Die.setF { d with mem.patrolAt := Tab.set 0 d.mem.patrolAt n e.now } F.MC_PATROL.BEHIND n (d.getF F.MC_PATROL.BEHIND n - 1)

/-- A visit that is owed may be made now. -/
structure PatrolDue (e : Env) (was : Nat) (d : Die) (n line : Nat) : Prop where
  place : line = 2304 * 2 ^ 18 * n + d.patrolPos n
  owed : d.getF F.MC_PATROL.BEHIND n = 1
  gap : was = 0 ∨ Tab.get 0 d.mem.patrolAt n + 1000 ≤ e.now
  page : d.scrubbing (2304 * n + d.patrolPos n / 2 ^ 18) = false
  free : d.scrubbing (pageOfLine line) = false
  retr : n ∉ d.mem.retr
  cal : Tab.get none d.mem.cal n ≠ some (d.pchan line)
  may : d.maintMay e n = true

theorem exec_patrolVisit {s : State} {r : BitVec 3} {line : Nat} {x : Option (Line × Nat × Nat)} {d' : Die} (hready : ReadyStack s.env s.d r.toNat)
    (h : PatrolDue s.env (s.d.getF F.MC_PATROL.BEHIND r.toNat) (s.d.patrolOwe s.env r.toNat) r.toNat line)
    (ha : attempt s.env (s.d.patrolOwe s.env r.toNat) .other (memRead line 3 none true) = .ok x d') :
    exec (.patrolVisit r) s = .next { s with d := (d'.patrolled s.env r.toNat).pump s.env } := by
  change execPatrolVisit r s = _
  unfold execPatrolVisit
  dsimp only
  have howed : ¬ ((s.d.patrolOwe s.env r.toNat).getF F.MC_PATROL.BEHIND r.toNat = 0 ∨
      (!(decide (s.d.getF F.MC_PATROL.BEHIND r.toNat = 0 ∧ (s.d.patrolOwe s.env r.toNat).getF F.MC_PATROL.BEHIND r.toNat = 1)) &&
        decide (s.env.now < Tab.get 0 (s.d.patrolOwe s.env r.toNat).mem.patrolAt r.toNat + 1000)) = true) := by
    rintro (hz | hz)
    · have := h.owed
      omega
    · obtain ⟨hfirst, hsoon⟩ := Bool.and_eq_true_iff.1 hz
      rcases h.gap with hg | hg
      · rw [decide_eq_true ⟨hg, h.owed⟩] at hfirst
        cases hfirst
      · exact absurd (of_decide_eq_true hsoon) (not_lt.2 hg)
  have hfree : ¬ ((s.d.patrolOwe s.env r.toNat).mem.retr.contains r.toNat = true ∨
      Tab.get none (s.d.patrolOwe s.env r.toNat).mem.cal r.toNat = some ((s.d.patrolOwe s.env r.toNat).pchan line) ∨
      (s.d.patrolOwe s.env r.toNat).scrubbing (pageOfLine line) = true) := by
    rintro (hz | hz | hz)
    · exact h.retr (List.contains_iff_mem.1 hz)
    · exact h.cal hz
    · rw [h.free] at hz
      cases hz
  rw [if_neg hready.notOut, if_neg hready.notDown, if_neg howed, Die.patrolSkip_none 2304 h.page, ← h.place, if_neg hfree,
    if_neg (by rw [h.may]; exact Bool.false_ne_true), ha] <;> rfl

theorem Die.patrolTo_spec (d : Die) (n o : Nat) : Within { regs := [.MC_PATROL_POS, .MC_PATROL] } d (d.patrolTo n o) ∧
    (d.patrolTo n o).getF F.MC_PATROL.BEHIND n = d.getF F.MC_PATROL.BEHIND n := by
  unfold Die.patrolTo
  extract_lets w y
  have h₁ : Within { regs := [.MC_PATROL_POS] } d y := Die.setF_within d _ n _
  split
  · have h₂ : Within { regs := [.MC_PATROL] } y (y.incWrap F.MC_PATROL.PASSES n 1) := Die.incWrap_within y _ n 1
    exact ⟨h₁.mono.trans h₂.mono, (Die.getF_setF_apart y _ F.MC_PATROL.BEHIND n _ (by decide)).trans (h₁.getF F.MC_PATROL.BEHIND n)⟩
  · exact ⟨h₁.mono, h₁.getF F.MC_PATROL.BEHIND n⟩

theorem Die.patrolled_spec (e : Env) (d : Die) (n : Nat) : Tab.get 0 (d.patrolled e n).mem.patrolAt n = e.now ∧
    (d.patrolled e n).getF F.MC_PATROL.BEHIND n = d.getF F.MC_PATROL.BEHIND n - 1 ∧ (d.patrolled e n).mem.dram = d.mem.dram := by
  unfold Die.patrolled
  extract_lets y m
  have h₁ : Within { mem := true } d (d.unpause n) := d.unpause_within n
  obtain ⟨h₂, hb⟩ := (d.unpause n).patrolTo_spec n (d.patrolPos n + 1)
  have hy : y.getF F.MC_PATROL.BEHIND n = d.getF F.MC_PATROL.BEHIND n := hb.trans (h₁.getF F.MC_PATROL.BEHIND n)
  have hdram : y.mem.dram = d.mem.dram := h₂.dram.trans h₁.dram
  clear_value y
  refine ⟨Tab.get_set_same 0 y.mem.patrolAt n e.now, ?_, hdram⟩
  rw [Die.getF_setF_same _ _ _ _ (by decide), hy]
  exact Nat.mod_eq_of_lt (lt_of_le_of_lt (Nat.sub_le _ _) (fieldOf_lt _ 48 16))

theorem Die.patrolOwe_patrolAt (e : Env) (d : Die) (n : Nat) : (d.patrolOwe e n).mem.patrolAt = d.mem.patrolAt := by
  have hcount : ∀ (y : Die) (k : Nat), (y.incSat F.MC_PATROL.BEHIND n k).mem = y.mem := fun y k =>
    (Die.incSat_within (p := { regs := [.MC_PATROL] }) y F.MC_PATROL.BEHIND n k).mem
  unfold Die.patrolOwe
  dsimp only
  split
  · rfl
  · simp only [hcount]

/-! ### The null-map scrub -/

/-- The place and the time of the next visit of the null-map scrub. -/
def Die.nmapTimed (d : Die) (n pos due : Nat) : Die :=
  { d with mem.nmapPos := Tab.set 0 d.mem.nmapPos n pos, mem.nmapDue := Tab.set 0 d.mem.nmapDue n due }

theorem Die.nmapTimed_pos (d : Die) (n pos due : Nat) : Tab.get 0 (d.nmapTimed n pos due).mem.nmapPos n = pos := Tab.get_set_same 0 d.mem.nmapPos n pos

theorem Die.unpause_nmapPos (d : Die) (key : Nat) : (d.unpause key).mem.nmapPos = d.mem.nmapPos := rfl

theorem Die.unpause_dram (d : Die) (key : Nat) : (d.unpause key).mem.dram = d.mem.dram := rfl

theorem Die.nmapTimed_dram (d : Die) (n pos due : Nat) : (d.nmapTimed n pos due).mem.dram = d.mem.dram := rfl

/-- The null-map scrub goes on from line `idx` of the null map. -/
def Die.nmapNext (d : Die) (n idx total : Nat) : Die :=
  let d := (d.nmapTimed n (if idx + 1 ≥ total then 0 else idx + 1) (Tab.get 0 d.mem.nmapDue n + d.nmapGap n)).unpause (8 + n)
  if idx + 1 ≥ total then d.incWrap F.MC_PATROL.NMAP_PASSES n 1 else d

/-- The end of a pass counts in its register alone. -/
theorem Die.nmapPass_mem (d : Die) (n idx total : Nat) : (if idx + 1 ≥ total then d.incWrap F.MC_PATROL.NMAP_PASSES n 1 else d).mem = d.mem := by
  have hw : Within { regs := [.MC_PATROL] } d (d.incWrap F.MC_PATROL.NMAP_PASSES n 1) := Die.incWrap_within d _ n 1
  split
  · exact hw.mem
  · rfl

theorem Die.nmapNext_mem (d : Die) (n idx total : Nat) : (d.nmapNext n idx total).mem =
    ((d.nmapTimed n (if idx + 1 ≥ total then 0 else idx + 1) (Tab.get 0 d.mem.nmapDue n + d.nmapGap n)).unpause (8 + n)).mem := Die.nmapPass_mem _ n idx total

theorem Die.nmapNext_pos (d : Die) (n idx total : Nat) : Tab.get 0 (d.nmapNext n idx total).mem.nmapPos n = if idx + 1 ≥ total then 0 else idx + 1 := by
  rw [Die.nmapNext_mem, Die.unpause_nmapPos, Die.nmapTimed_pos]

theorem Die.nmapNext_dram (d : Die) (n idx total : Nat) : (d.nmapNext n idx total).mem.dram = d.mem.dram := by
  rw [Die.nmapNext_mem, Die.unpause_dram, Die.nmapTimed_dram]

theorem exec_nmapScrubVisit {s : State} {r : BitVec 3} (hready : ReadyStack s.env s.d r.toNat) (ht : Tab.get 0 s.d.mem.nmapDue r.toNat ≤ s.env.now)
    (hretr : r.toNat ∉ s.d.mem.retr) (hcal : Tab.get none s.d.mem.cal r.toNat = none) (hbusy : s.d.nmapBusy r.toNat (Tab.get 0 s.d.mem.nmapPos r.toNat) = false)
    (hmay : s.d.maintMay s.env r.toNat = true) :
    exec (.nmapScrubVisit r) s = .next { s with d := ((s.d.tryAct s.env (nmapVisit (r.toNat * 2 ^ 22 + Tab.get 0 s.d.mem.nmapPos r.toNat))).nmapNext r.toNat
      (Tab.get 0 s.d.mem.nmapPos r.toNat) (s.d.getF F.MC_STATUS.NMAP_PAGES r.toNat * 2 ^ 18)).pump s.env } := by
  change execNmapScrubVisit r s = _
  unfold execNmapScrubVisit
  dsimp only
  rw [if_neg (by rw [hready.trained, hready.ready]; rintro (h | h | h); exacts [Bool.false_ne_true h, Bool.false_ne_true h, absurd h (not_lt.2 ht)]),
    if_neg hready.notDown, if_neg (fun h => hretr (List.contains_iff_mem.1 h)), if_neg (by rw [hcal]; exact nofun), if_neg (by rw [hbusy]; exact Bool.false_ne_true),
    if_neg (by rw [hmay]; exact Bool.false_ne_true)]
  generalize s.d.tryAct s.env (nmapVisit (r.toNat * 2 ^ 22 + Tab.get 0 s.d.mem.nmapPos r.toNat)) = y
  generalize s.d.getF F.MC_STATUS.NMAP_PAGES r.toNat * 2 ^ 18 = total
  unfold Die.nmapNext Die.nmapTimed
  generalize y.nmapGap r.toNat = gap
  generalize (if Tab.get 0 s.d.mem.nmapPos r.toNat + 1 ≥ total then 0 else Tab.get 0 s.d.mem.nmapPos r.toNat + 1) = pos
  rfl

theorem exec_nmapScrubVisit_early {s : State} {r : BitVec 3} (ht : s.env.now < Tab.get 0 s.d.mem.nmapDue r.toNat) : exec (.nmapScrubVisit r) s = .next s := by
  change execNmapScrubVisit r s = _
  unfold execNmapScrubVisit
  dsimp only
  rw [if_pos (.inr (.inr ht))] <;> rfl

/-! ### Calibration -/

/-- The times of the next calibration of a stack. -/
def Die.calTimed (d : Die) (n pc due : Nat) : Die :=
  let step := if d.getF F.MC_STATUS.MODE n = 2 then 16 else 8
  { d with mem.calNext := Tab.set 0 d.mem.calNext n ((pc + 1) % d.pcs n), mem.calDue := Tab.set 0 d.mem.calDue n (due + step) }

/-- The blackout of a pseudo-channel begins. -/
def Die.calBegun (d : Die) (n pc : Nat) : Die :=
  Die.send { d with mem.cal := Tab.set none d.mem.cal n (some pc), mem.calPc := Tab.set 0 d.mem.calPc n pc } (.dfi n 2 pc)

/-- The scrubs that the blackout pauses are counted. -/
def Die.calPauses (d : Die) (n : Nat) : Die := if d.sm.scrubs.any (fun x => x.2 && decide (stackOf x.1 = n)) then d.foreman F.ST_FOREMAN_STATUS.PAUSES else d

/-- A PHY update request of the pseudo-channel is answered in its blackout. -/
def Die.phyupdAnswered (d : Die) (n pc : Nat) : Die :=
  if 64 * n + pc ∈ d.mem.phyupd then Die.send { d with mem.phyupd := d.mem.phyupd.filter (· ≠ 64 * n + pc) } (.dfi n 3 pc) else d

theorem exec_calibrationStart {s : State} {r : BitVec 3} {pc : BitVec 6} (hready : ReadyStack s.env s.d r.toNat) (hcal : Tab.get none s.d.mem.cal r.toNat = none)
    (hpc : pc.toNat = Tab.get 0 s.d.mem.calNext r.toNat) (ht : Tab.get 0 s.d.mem.calDue r.toNat ≤ s.d.getF F.ST_TICK.TICK_COUNT 0) (hretr : r.toNat ∉ s.d.mem.retr) :
    exec (.calibrationStart r pc) s = .next { s with d :=
      ((((s.d.unpause (24 + r.toNat)).calTimed r.toNat pc.toNat (Tab.get 0 s.d.mem.calDue r.toNat)).calBegun r.toNat pc.toNat).calPauses r.toNat).phyupdAnswered r.toNat pc.toNat } := by
  change execCalibrationStart r pc s = _
  unfold execCalibrationStart
  extract_lets e d n pc' tick due d₁ step m₁ d₂ ask m₂ d₃ d₄ d₅ m₅
  rw [if_neg (by
      rw [hready.trained, hready.ready, hcal]
      rintro (h | h | h | h | h)
      exacts [Bool.false_ne_true h, Bool.false_ne_true h, Bool.false_ne_true h, h hpc, absurd h (not_lt.2 ht)]),
    if_neg hready.notDown,
    if_neg (show ¬ d₂.mem.retr.contains n = true from fun h => hretr (List.contains_iff_mem.1 h))]
  rfl

theorem exec_calibrationStart_early {s : State} {r : BitVec 3} {pc : BitVec 6} (ht : s.d.getF F.ST_TICK.TICK_COUNT 0 < Tab.get 0 s.d.mem.calDue r.toNat) :
    exec (.calibrationStart r pc) s = .next s := by
  change execCalibrationStart r pc s = _
  unfold execCalibrationStart
  dsimp only
  rw [if_pos (.inr (.inr (.inr (.inr ht))))] <;> rfl

/-- What the start of a calibration leaves. -/
structure CalStarted (n pc next due : Nat) (d : Die) : Prop where
  cal : Tab.get none d.mem.cal n = some pc
  next : Tab.get 0 d.mem.calNext n = next
  due : Tab.get 0 d.mem.calDue n = due
  told : Msg.dfi n 2 pc ∈ d.out

theorem Die.calStarted_spec (d : Die) (n pc due : Nat) :
    CalStarted n pc ((pc + 1) % d.pcs n) (due + if d.getF F.MC_STATUS.MODE n = 2 then 16 else 8) (((((d.unpause (24 + n)).calTimed n pc due).calBegun n pc).calPauses n).phyupdAnswered n pc) ∧
      (((((d.unpause (24 + n)).calTimed n pc due).calBegun n pc).calPauses n).phyupdAnswered n pc).mem.dram = d.mem.dram := by
  have h₀ : CalStarted n pc ((pc + 1) % d.pcs n) (due + if d.getF F.MC_STATUS.MODE n = 2 then 16 else 8) (((d.unpause (24 + n)).calTimed n pc due).calBegun n pc) :=
    ⟨Tab.get_set_same none d.mem.cal n (some pc), Tab.get_set_same 0 d.mem.calNext n _, Tab.get_set_same 0 d.mem.calDue n _, List.mem_cons_self⟩
  have hd : (((d.unpause (24 + n)).calTimed n pc due).calBegun n pc).mem.dram = d.mem.dram := rfl
  generalize ((d.unpause (24 + n)).calTimed n pc due).calBegun n pc = y at h₀ hd ⊢
  have h₁ : Within { regs := [.ST_FOREMAN_STATUS] } y (y.calPauses n) := .ite (Die.foreman_within y rfl) (.refl y)
  have hc : CalStarted n pc ((pc + 1) % d.pcs n) (due + if d.getF F.MC_STATUS.MODE n = 2 then 16 else 8) (y.calPauses n) := by
    obtain ⟨hcal, hnext, hdue, htold⟩ := h₀
    refine ⟨?_, ?_, ?_, ?_⟩
    · rw [h₁.mem, hcal]
    · rw [h₁.mem, hnext]
    · rw [h₁.mem, hdue]
    · rw [h₁.out]
      exact htold
  have hdc : (y.calPauses n).mem.dram = d.mem.dram := h₁.dram.trans hd
  generalize y.calPauses n = z at hc hdc ⊢
  generalize (pc + 1) % d.pcs n = next at hc ⊢
  generalize (due + if d.getF F.MC_STATUS.MODE n = 2 then 16 else 8) = due' at hc ⊢
  unfold Die.phyupdAnswered
  split
  · exact ⟨⟨hc.cal, hc.next, hc.due, List.mem_cons_of_mem _ hc.told⟩, hdc⟩
  · exact ⟨hc, hdc⟩

/-- A blackout that has ended, with its refreshes still to be made. -/
def Die.calOver (d : Die) (n : Nat) : Die :=
  { d with mem.cal := Tab.set none d.mem.cal n none, mem.postponed := d.mem.postponed.filter (fun x => decide (x.1 ≠ n)) }

/-- The postponed refreshes of a stack. -/
def Die.latePcs (d : Die) (n : Nat) : List (Nat × Nat) := d.mem.postponed.filter (fun x => decide (x.1 = n))

theorem exec_calibrationEnd {s : State} {r : BitVec 3} {pc : Nat} (h : Tab.get none s.d.mem.cal r.toNat = some pc) :
    exec (.calibrationEnd r) s = .next { s with d :=
      ((s.d.latePcs r.toNat).foldl (fun d x => d.refreshPc s.env r.toNat x.2) (s.d.calOver r.toNat)).pump s.env } := by
  change execCalibrationEnd r s = _
  unfold execCalibrationEnd
  dsimp only
  rw [if_neg (by rw [h]; exact Bool.false_ne_true)] <;> rfl

theorem exec_calibrationEnd_idle {s : State} {r : BitVec 3} (h : Tab.get none s.d.mem.cal r.toNat = none) : exec (.calibrationEnd r) s = .next s := by
  change execCalibrationEnd r s = _
  unfold execCalibrationEnd
  dsimp only
  rw [if_pos (by rw [h]; rfl)] <;> rfl

/-- A refresh command is made for the pseudo-channel, of all its banks or of one. -/
def Die.refreshTold (d : Die) (n pc : Nat) : Prop := Msg.dfi n 1 pc ∈ d.out ∨ ∃ b, Msg.dfi n 10 (64 * pc + b) ∈ d.out

/-- What the refreshes leave of a die, and the messages that they add. -/
structure RefreshesOnly (d t : Die) : Prop where
  regs : t.regs = d.regs
  dram : t.mem.dram = d.mem.dram
  cal : t.mem.cal = d.mem.cal
  postponed : t.mem.postponed = d.mem.postponed
  out : ∀ m ∈ d.out, m ∈ t.out

theorem RefreshesOnly.refl (d : Die) : RefreshesOnly d d := ⟨rfl, rfl, rfl, rfl, fun _ h => h⟩

theorem RefreshesOnly.trans {d t u : Die} (h : RefreshesOnly d t) (h' : RefreshesOnly t u) : RefreshesOnly d u :=
  ⟨h'.regs.trans h.regs, h'.dram.trans h.dram, h'.cal.trans h.cal, h'.postponed.trans h.postponed, fun m hm => h'.out m (h.out m hm)⟩

theorem RefreshesOnly.sendRefresh (d : Die) (n op x : Nat) : RefreshesOnly d (d.sendRefresh n op x) := by
  refine ⟨Die.sendRefresh_regs _ _ _ _, ?_, ?_, ?_, fun m hm => ?_⟩
  · rw [Die.sendRefresh_mem]
  · rw [Die.sendRefresh_mem]
  · rw [Die.sendRefresh_mem]
  · rw [Die.sendRefresh_out]
    exact List.mem_cons_of_mem _ hm

theorem Managed.refreshesOnly {n pc : Nat} {d t : Die} (h : Managed n pc d t) : RefreshesOnly d t :=
  ⟨h.regs, h.dram, (congrArg Mem.cal h.mem :), (congrArg Mem.postponed h.mem :), h.out⟩

theorem Die.allRefreshed_only (d : Die) (n pc : Nat) : RefreshesOnly d (d.allRefreshed n pc) ∧ (d.allRefreshed n pc).refreshTold n pc := by
  have hclose : RefreshesOnly d (d.closeRows n (some pc)) := ⟨rfl, rfl, rfl, rfl, fun _ h => h⟩
  refine ⟨hclose.trans (.sendRefresh _ n 1 pc), .inl ?_⟩
  unfold Die.allRefreshed
  rw [Die.sendRefresh_out]
  exact List.mem_cons_self

theorem Die.bankRefreshed_only (d : Die) (n pc b : Nat) : RefreshesOnly d (d.bankRefreshed n pc b) ∧ (d.bankRefreshed n pc b).refreshTold n pc := by
  have hnext : RefreshesOnly d { d with mem.refBank := Tab.set 0 d.mem.refBank (64 * n + pc) ((b + 1) % d.banks n) } := ⟨rfl, rfl, rfl, rfl, fun _ h => h⟩
  refine ⟨hnext.trans (.sendRefresh _ n 10 (64 * pc + b)), .inr ⟨b, ?_⟩⟩
  unfold Die.bankRefreshed
  rw [Die.sendRefresh_out]
  exact List.mem_cons_self

theorem RefreshesOnly.told {d t : Die} (h : RefreshesOnly d t) {n pc : Nat} (ht : d.refreshTold n pc) : t.refreshTold n pc :=
  ht.imp (h.out _) (fun ⟨b, hb⟩ => ⟨b, h.out _ hb⟩)

theorem Die.refreshPc_only (e : Env) (d : Die) (n pc : Nat) : RefreshesOnly d (d.refreshPc e n pc) ∧ (d.refreshPc e n pc).refreshTold n pc := by
  have hmanage : ∀ y : Die, RefreshesOnly y (y.refreshManage n pc) := fun y => (y.refreshManage_spec n pc).1.refreshesOnly
  by_cases hdue : Tab.get 0 d.mem.refDue (64 * n + pc) ≤ e.now
  · rw [Die.refreshPc_due hdue]
    obtain ⟨h₁, ht⟩ := d.allRefreshed_only n pc
    generalize d.allRefreshed n pc = y at h₁ ht ⊢
    have h₂ : RefreshesOnly y (y.refreshedAgain e n pc) := ⟨rfl, rfl, rfl, rfl, fun _ h => h⟩
    exact ⟨(h₁.trans h₂).trans (hmanage _), (h₂.trans (hmanage _)).told ht⟩
  · rcases hidle : d.idleBank n pc with _ | b
    · rw [Die.refreshPc_full hdue hidle]
      obtain ⟨h₁, ht⟩ := d.allRefreshed_only n pc
      exact ⟨h₁.trans (hmanage _), (hmanage _).told ht⟩
    · rw [Die.refreshPc_bank hdue hidle]
      obtain ⟨h₁, ht⟩ := d.bankRefreshed_only n pc b
      exact ⟨h₁.trans (hmanage _), (hmanage _).told ht⟩

theorem calibrationEnd_spec {s : State} {r : BitVec 3} {pc : Nat} (h : Tab.get none s.d.mem.cal r.toNat = some pc) :
    ∃ d₁ : Die, exec (.calibrationEnd r) s = .next { s with d := d₁.pump s.env } ∧ Tab.get none d₁.mem.cal r.toNat = none ∧ (∀ x ∈ d₁.mem.postponed, x.1 ≠ r.toNat) ∧
      (∀ p, (r.toNat, p) ∈ s.d.mem.postponed → Msg.dfi r.toNat 1 p ∈ d₁.out ∨ ∃ b, Msg.dfi r.toNat 10 (64 * p + b) ∈ d₁.out) ∧ d₁.regs = s.d.regs ∧ d₁.mem.dram = s.d.mem.dram := by
  refine ⟨_, exec_calibrationEnd h, ?_⟩
  have hcal : Tab.get none (s.d.calOver r.toNat).mem.cal r.toNat = none := Tab.get_set_same none s.d.mem.cal r.toNat none
  have hpost : ∀ x ∈ (s.d.calOver r.toNat).mem.postponed, x.1 ≠ r.toNat := fun x hx => of_decide_eq_true (List.mem_filter.1 hx).2
  have hregs : (s.d.calOver r.toNat).regs = s.d.regs := rfl
  have hdram : (s.d.calOver r.toNat).mem.dram = s.d.mem.dram := rfl
  generalize s.d.calOver r.toNat = y at hcal hpost hregs hdram ⊢
  have hall : RefreshesOnly y ((s.d.latePcs r.toNat).foldl (fun d x => d.refreshPc s.env r.toNat x.2) y) :=
    foldl_invariant (RefreshesOnly y) _ (fun t x ht => ht.trans (t.refreshPc_only s.env r.toNat x.2).1) _ _ (.refl y)
  have htold := foldl_reaches (p := fun (x : Nat × Nat) (d : Die) => d.refreshTold r.toNat x.2) (f := fun d x => d.refreshPc s.env r.toNat x.2)
    (fun d x => (d.refreshPc_only s.env r.toNat x.2).2) (fun d x z hz => (d.refreshPc_only s.env r.toNat x.2).1.told hz) (s.d.latePcs r.toNat) y
  refine ⟨by rw [hall.cal, hcal], fun x hx => hpost x (hall.postponed ▸ hx), fun p hp => ?_, hall.regs.trans hregs, hall.dram.trans hdram⟩
  exact htold (r.toNat, p) (List.mem_filter.2 ⟨hp, decide_eq_true rfl⟩)

theorem exec_phyupdReq {s : State} {r : BitVec 3} (ht : s.d.trained s.env r.toNat = true) (h : 64 * r.toNat + Tab.get 0 s.d.mem.calPc r.toNat ∉ s.d.mem.phyupd) :
    exec (.phyupdReq r) s = .next { s with d := { s.d with mem.phyupd := s.d.mem.phyupd ++ [64 * r.toNat + Tab.get 0 s.d.mem.calPc r.toNat] } } := by
  change execPhyupdReq r s = _
  unfold execPhyupdReq
  dsimp only
  rw [if_neg (by rw [ht]; exact not_or.2 ⟨Bool.false_ne_true, h⟩)] <;> rfl

/-! ### The Planisher's scrubs -/

theorem exec_planisherScrub {s : State} {r : BitVec 3} {i : Nat} (hseal : s.env.fwSeal = true) (hready : s.d.bit F.MC_STATUS.NMAP_READY r.toNat = true)
    (hauto : s.d.bit F.MC_CFG.AUTO_SCRUB r.toNat = true) (hnone : ∀ x ∈ s.d.sm.scrubs, x.2 = true → stackOf x.1 ≠ r.toNat)
    (hfind : (List.range (s.d.stackPages s.env r.toNat)).find? (fun i => decide (s.d.pageState (2304 * r.toNat + i) = 0) && !(s.d.isNmapPage s.env (2304 * r.toNat + i)) &&
      !(s.d.sm.scrubs.any (fun x => decide (x.1 = 2304 * r.toNat + i))) && !(s.d.potHolds (2304 * r.toNat + i))) = some i) :
    exec (.planisherScrub r) s = .next { s with d := (s.d.queueScrub (2304 * r.toNat + i)).scrubPump s.env } := by
  change execPlanisherScrub r s = _
  unfold execPlanisherScrub
  dsimp only
  have hfree : ¬ s.d.sm.scrubs.any (fun x => x.2 && decide (stackOf x.1 = r.toNat)) = true := by
    intro h
    obtain ⟨x, hx, hb⟩ := List.any_eq_true.1 h
    obtain ⟨hb, hstack⟩ := Bool.and_eq_true_iff.1 hb
    exact hnone x hx hb (of_decide_eq_true hstack)
  rw [if_neg (by
    rw [hseal, hready, hauto]
    exact not_or.2 ⟨Bool.false_ne_true, not_or.2 ⟨Bool.false_ne_true, not_or.2 ⟨Bool.false_ne_true, hfree⟩⟩⟩), hfind] <;> rfl

theorem exec_planisherScrub_unsealed {s : State} {r : BitVec 3} (hseal : s.env.fwSeal = false) : exec (.planisherScrub r) s = .next s := by
  change execPlanisherScrub r s = _
  unfold execPlanisherScrub
  dsimp only
  rw [if_pos (.inl (by rw [hseal]; rfl))] <;> rfl

/-! ### Retraining -/

/-- The retraining of a stack is asked for. -/
def Die.retrainAsked (d : Die) (n : Nat) : Die :=
  let d : Die := { d with mem.retr := d.mem.retr ++ [n] }
  d.setF F.ST_RETRAIN.REQ 0 (d.getF F.ST_RETRAIN.REQ 0 ||| 2 ^ n)

/-- One stack of a write of ST_RETRAIN. -/
def Die.retrainStack (e : Env) (v : Word) (d : Die) (n : Nat) : Die :=
  if v.getLsbD n ∧ d.trained e n ∧ !(d.mem.retr.contains n) then
    let d := (d.retrainAsked n).calPauses n
    if d.retrainRuns n then d.send (.dfi n 4 0) else d.wake e n
  else d

theorem exec_retrain {s : State} {who : Who} {v : Word} (h : s.d.barGate s.env who .ST_RETRAIN 0 = none) :
    exec (.retrain who v) s = .next { s with d := (List.range 8).foldl (Die.retrainStack s.env v) s.d } := by
  change execRetrain who v s = _
  unfold execRetrain
  dsimp only
  rw [Die.barWrite_of_gate _ h] <;> rfl

theorem Die.wake_retr (e : Env) (d : Die) (r : Nat) : (d.wake e r).mem.retr = d.mem.retr :=
  Die.wake_keeps (fun y : Die => y.mem.retr) e r (fun _ _ _ _ => rfl) (fun _ _ => rfl) (fun _ _ => rfl) (fun _ _ _ => rfl) (fun _ => rfl) d

abbrev retrainTouch : Touch := { regs := [.ST_RETRAIN, .ST_FOREMAN_STATUS, .ST_REGION_STATUS], mem := true, coh := true, bt := true, out := true }

theorem Die.retrainStack_spec (e : Env) (v : Word) (d : Die) (n : Nat) : Within retrainTouch d (d.retrainStack e v n) ∧
    ∀ k, k ∈ (d.retrainStack e v n).mem.retr ↔ k ∈ d.mem.retr ∨ (k = n ∧ v.getLsbD n = true ∧ d.trained e n = true) := by
  unfold Die.retrainStack
  split
  next h =>
    obtain ⟨hv, ht, -⟩ := h
    have h₁ : Within retrainTouch d (d.retrainAsked n) := (Die.setMemRest_within d _ rfl rfl).trans (Die.setF_within { d with mem.retr := _ } F.ST_RETRAIN.REQ 0 _)
    have hr₁ : (d.retrainAsked n).mem.retr = d.mem.retr ++ [n] := rfl
    generalize d.retrainAsked n = y at h₁ hr₁ ⊢
    have h₂ : Within { regs := [.ST_FOREMAN_STATUS] } y (y.calPauses n) := .ite (Die.foreman_within y rfl) (.refl y)
    have hr₂ : (y.calPauses n).mem.retr = d.mem.retr ++ [n] := (congrArg Mem.retr h₂.mem).trans hr₁
    generalize y.calPauses n = z at h₂ hr₂ ⊢
    have hmem : ∀ k, k ∈ d.mem.retr ++ [n] ↔ k ∈ d.mem.retr ∨ (k = n ∧ v.getLsbD n = true ∧ d.trained e n = true) := fun k => by
      rw [List.mem_append, List.mem_singleton]
      exact or_congr Iff.rfl ⟨fun hk => ⟨hk, hv, ht⟩, And.left⟩
    dsimp only
    split
    · exact ⟨(h₁.trans h₂.mono).trans (Die.send_within z _), fun k => (iff_of_eq (congrArg (k ∈ ·) hr₂)).trans (hmem k)⟩
    · exact ⟨(h₁.trans h₂.mono).trans (z.wake_within e n).mono, fun k => (iff_of_eq (congrArg (k ∈ ·) ((z.wake_retr e n).trans hr₂))).trans (hmem k)⟩
  next h =>
    refine ⟨.refl d, fun k => ⟨.inl, fun hk => hk.elim id fun ⟨hk, hv, ht⟩ => ?_⟩⟩
    by_contra hc
    refine h ⟨hv, ht, ?_⟩
    rw [← hk, Bool.not_eq_true', Bool.eq_false_iff]
    exact fun hin => hc (List.contains_iff_mem.1 hin)

theorem Within.trained {p : Touch} {d t : Die} (h : Within p d t) (e : Env) (n : Nat) (hr : p.regs.contains .MC_STATUS = false := by rfl) : t.trained e n = d.trained e n := by
  unfold Die.trained
  rw [h.getF F.MC_STATUS.MODE n hr]

theorem retrain_spec (e : Env) (v : Word) (l : List Nat) (d : Die) : Within retrainTouch d (l.foldl (Die.retrainStack e v) d) ∧
    ∀ k, k ∈ (l.foldl (Die.retrainStack e v) d).mem.retr ↔ k ∈ d.mem.retr ∨ (k ∈ l ∧ v.getLsbD k = true ∧ d.trained e k = true) := by
  induction l generalizing d with
  | nil => exact ⟨.refl d, fun k => ⟨.inl, fun h => h.elim id fun h => absurd h.1 List.not_mem_nil⟩⟩
  | cons n l ih =>
    obtain ⟨hw, hk⟩ := d.retrainStack_spec e v n
    obtain ⟨hw', hk'⟩ := ih (d.retrainStack e v n)
    refine ⟨hw.trans hw', fun k => (hk' k).trans ?_⟩
    rw [hk k, hw.trained e k, List.mem_cons]
    constructor
    · rintro ((h | ⟨rfl, h⟩) | ⟨hl, h⟩)
      · exact .inl h
      · exact .inr ⟨.inl rfl, h⟩
      · exact .inr ⟨.inr hl, h⟩
    · rintro (h | ⟨rfl | hl, h⟩)
      · exact .inl (.inl h)
      · exact .inl (.inr ⟨rfl, h⟩)
      · exact .inr ⟨hl, h⟩

/-- A retraining that is over. -/
def Die.retrainOver (d : Die) (n : Nat) : Die :=
  let d : Die := { d with mem.retr := d.mem.retr.filter (· ≠ n) }
  d.setF F.ST_RETRAIN.REQ 0 (d.getF F.ST_RETRAIN.REQ 0 &&& (255 - 2 ^ n))

/-- The report of a retraining that failed, or that an injection fails. -/
def Die.retrainReport (e : Env) (d : Die) (n : Nat) (ok : Bool) : Die :=
  let inj := d.fire0 Cs.PHY_FAIL n
  let d := if inj then d.fired else d
  let w := d.ay.waiting.length
  let d := if ok ∧ !inj then d else d.report e { cause := Cs.PHY_FAIL, inst := n, det0 := 0 }
  if inj then d.markInj w else d

theorem exec_retrainDone {s : State} {r : BitVec 3} {ok : Bool} (h : r.toNat ∈ s.d.mem.retr) (hrun : s.d.running r.toNat = true) :
    exec (.retrainDone r ok) s = .next { s with d := ((s.d.retrainOver r.toNat).retrainReport s.env r.toNat ok).pump s.env } := by
  change execRetrainDone r ok s = _
  unfold execRetrainDone
  dsimp only
  have hruns : s.d.retrainRuns r.toNat = true := by
    unfold Die.retrainRuns
    rw [hrun] <;> rfl
  rw [if_neg (by rw [List.contains_iff_mem.2 h, hruns]; exact not_or.2 ⟨Bool.false_ne_true, Bool.false_ne_true⟩)] <;> rfl

theorem exec_retrainDone_idle {s : State} {r : BitVec 3} {ok : Bool} (h : r.toNat ∉ s.d.mem.retr) : exec (.retrainDone r ok) s = .next s := by
  change execRetrainDone r ok s = _
  unfold execRetrainDone
  dsimp only
  rw [if_pos (.inl (by rw [Bool.not_eq_true', Bool.eq_false_iff]; exact fun hc => h (List.contains_iff_mem.1 hc)))] <;> rfl

abbrev retrainReportTouch : Touch := { regs := [.AY_INJECT, .AY_INJECT_STATUS, .AY_STATUS], ay := true, rose := true }

theorem Die.retrainReport_within (e : Env) (d : Die) (n : Nat) (ok : Bool) : Within retrainReportTouch d (d.retrainReport e n ok) := by
  unfold Die.retrainReport
  extract_lets inj y w z
  have hf : Within retrainReportTouch d d.fired := ((Die.setF_within d F.AY_INJECT.ARM 0 0).trans (Die.setEv_within _ F.AY_INJECT_STATUS.FIRED 0)).trans (Die.incSat_within _ _ 0 1)
  have hy : Within retrainReportTouch d y := .ite hf (.refl d)
  have hz : Within retrainReportTouch y z := .ite (.refl y) (Die.report_within e y _)
  exact (hy.trans hz).trans (.ite (Die.setAy_within z _) (.refl z))

theorem retrainDone_spec {s : State} {r : BitVec 3} {ok : Bool} (h : r.toNat ∈ s.d.mem.retr) (hrun : s.d.running r.toNat = true) :
    ∃ d₁ : Die, exec (.retrainDone r ok) s = .next { s with d := d₁.pump s.env } ∧ r.toNat ∉ d₁.mem.retr ∧
      d₁.getF F.ST_RETRAIN.REQ 0 = s.d.getF F.ST_RETRAIN.REQ 0 &&& (255 - 2 ^ r.toNat) ∧ d₁.mem.dram = s.d.mem.dram := by
  refine ⟨_, exec_retrainDone h hrun, ?_⟩
  have hreq : (s.d.retrainOver r.toNat).getF F.ST_RETRAIN.REQ 0 = s.d.getF F.ST_RETRAIN.REQ 0 &&& (255 - 2 ^ r.toNat) := by
    unfold Die.retrainOver
    extract_lets m y
    have hy : Within { mem := true } s.d y := Die.setMemRest_within s.d _ rfl rfl
    rw [Die.getF_setF_same _ _ _ _ (by decide), hy.getF F.ST_RETRAIN.REQ 0]
    exact Nat.mod_eq_of_lt (lt_of_le_of_lt Nat.and_le_left (fieldOf_lt _ 0 8))
  have hretr : (s.d.retrainOver r.toNat).mem.retr = s.d.mem.retr.filter (· ≠ r.toNat) := rfl
  have hdram : (s.d.retrainOver r.toNat).mem.dram = s.d.mem.dram := rfl
  generalize s.d.retrainOver r.toNat = y at hreq hretr hdram ⊢
  have hw := y.retrainReport_within s.env r.toNat ok
  refine ⟨fun hin => ?_, (hw.getF F.ST_RETRAIN.REQ 0).trans hreq, hw.dram.trans hdram⟩
  rw [hw.mem, hretr] at hin
  exact absurd rfl (of_decide_eq_true (List.mem_filter.1 hin).2)

/-! ### O54 -/

/-- Settles O54, row by row. -/
theorem stacksTrainAndAreMaintained : Obligations.StacksTrainAndAreMaintained := by
  unfold Obligations.StacksTrainAndAreMaintained
  refine fun s r => ⟨fun mode geom row hr hs hrow => ?_, fun ms hr hs hms => ?_, fun h => ?_, exec_nmapInitDone_idle, fun htr hrdy hrun => ?_, fun pc h => calibrationEnd_spec h,
    exec_calibrationEnd_idle, fun ht h => ⟨_, exec_phyupdReq ht h, rfl, rfl, rfl, rfl⟩, fun i hseal hready hauto hnone hfind => exec_planisherScrub hseal hready hauto hnone hfind,
    exec_planisherScrub_unsealed, fun who v h => ?_, fun ok h hrun => retrainDone_spec h hrun, fun ok h => exec_retrainDone_idle h⟩
  · obtain ⟨d, hexec, hseeds, ⟨hmode, hpages, hnmap⟩, hstack, hw⟩ := trainingDone_spec hr hs hrow
    exact ⟨_, hexec, hseeds, hpages, hnmap, hmode, hstack, hw.dram, hw.keepsRegs⟩
  · obtain rfl : ms = s.d.trainingMs := hms
    obtain ⟨⟨hmode, hpages, hnmap⟩, hfail, hdram⟩ := s.d.stackFailed_spec s.env r.isLt
    exact ⟨exec_trainingTimeout_early, fun ht => ⟨_, exec_trainingTimeout hr hs ht, hmode, hpages, hnmap, hfail, hdram⟩⟩
  · obtain ⟨hbit, hnmap, hw⟩ := s.d.nmapReady_spec s.env r.toNat
    exact ⟨_, exec_nmapInitDone h, hbit, hnmap, hw.keepsRegs, hw.dram⟩
  · have hready : ReadyStack s.env s.d r.toNat := ⟨htr, hrdy, hrun⟩
    refine ⟨exec_patrolVisit_none hready, fun x d' howed hgap hpage hfree hretr hcal hmay ha => ?_, exec_nmapScrubVisit_early, fun ht hretr hcal hbusy hmay => ?_,
      fun pc hcal hpc ht hretr => ?_, fun pc ht => exec_calibrationStart_early ht⟩
    · rw [← Die.patrolOwe_patrolAt s.env] at hgap
      obtain ⟨hat, hbehind, hdram⟩ := d'.patrolled_spec s.env r.toNat
      exact ⟨_, exec_patrolVisit hready ⟨rfl, howed, hgap, hpage, hfree, hretr, hcal, hmay⟩ ha, hat, hbehind, hdram⟩
    · exact ⟨_, exec_nmapScrubVisit hready ht hretr hcal hbusy hmay, Die.nmapNext_pos _ _ _ _, Die.nmapNext_dram _ _ _ _⟩
    · obtain ⟨⟨hc, hnext, hdue, htold⟩, hdram⟩ := s.d.calStarted_spec r.toNat pc.toNat (Tab.get 0 s.d.mem.calDue r.toNat)
      exact ⟨_, exec_calibrationStart hready hcal hpc ht hretr, hc, hnext, hdue, htold, hdram⟩
  · obtain ⟨hw, hretr⟩ := retrain_spec s.env v (List.range 8) s.d
    refine ⟨_, exec_retrain h, hw.dram, rfl, fun k hk => (hretr k).trans ?_⟩
    exact or_congr Iff.rfl (and_iff_right (List.mem_range.2 hk))

end Sys2Proof.Machine
end

section
/-! PROOF. Slices stop and are reclaimed (O44). -/

-- One proof after another: all at once, they ask for more threads than the check's memory limit admits.
set_option Elab.async false

namespace Sys2Proof.Machine

/-! ### A slice quiesces, and its work is cancelled -/

/-- The entry of a slice that starts to quiesce. -/
def Die.quiesceMarked (d : Die) (s : Nat) (toTear : Bool) (graceEnd : Nat) : Die :=
  let d := if d.sliceState s = 2 then d.setF F.SM_SLICE.STATE s 3 else d
  let d := if toTear then d.setF F.SM_SLICE.STEP s 1 else d
  { d with sm.quiesce := d.sm.quiesce ++ [{ sl := s, toTear := toTear, graceEnd := graceEnd }] }

abbrev quiesceTouch : Touch := { regs := [.SM_SLICE], sm := true }

theorem Die.quiesceMarked_within (d : Die) (s : Nat) (toTear : Bool) (graceEnd : Nat) : Within quiesceTouch d (d.quiesceMarked s toTear graceEnd) := by
  unfold Die.quiesceMarked
  extract_lets d₁ d₂ m
  have h₁ : Within quiesceTouch d d₁ := .ite (Die.setF_within d F.SM_SLICE.STATE s 3) (.refl d)
  have h₂ : Within quiesceTouch d₁ d₂ := .ite (Die.setF_within d₁ F.SM_SLICE.STEP s 1) (.refl d₁)
  exact (h₁.trans h₂).trans (Die.setSm_within d₂ _)

theorem Die.quiesceMarked_quiesce (d : Die) (s : Nat) (toTear : Bool) (graceEnd : Nat) :
    (d.quiesceMarked s toTear graceEnd).sm.quiesce = d.sm.quiesce ++ [{ sl := s, toTear := toTear, graceEnd := graceEnd }] := by
  unfold Die.quiesceMarked
  extract_lets d₁ d₂ m
  have h₁ : Within { regs := [.SM_SLICE] } d d₁ := .ite (Die.setF_within d F.SM_SLICE.STATE s 3) (.refl d)
  have h₂ : Within { regs := [.SM_SLICE] } d₁ d₂ := .ite (Die.setF_within d₁ F.SM_SLICE.STEP s 1) (.refl d₁)
  have hsm : d₂.sm = d.sm := h₂.sm.trans h₁.sm
  exact congrArg (fun x : Slices => x.quiesce ++ [({ sl := s, toTear := toTear, graceEnd := graceEnd } : Quiesce)]) hsm

theorem Die.quiesceMarked_state {d : Die} {s : Nat} (toTear : Bool) (graceEnd : Nat) (h : d.sliceState s = 2) :
    (d.quiesceMarked s toTear graceEnd).sliceState s = 3 := by
  unfold Die.quiesceMarked
  extract_lets d₁ d₂ m
  have h₁ : d₁.sliceState s = 3 := by
    unfold d₁
    rw [if_pos h]
    exact (Die.getF_setF_same d F.SM_SLICE.STATE s 3 (Nat.le_of_ble_eq_true rfl)).trans rfl
  have h₂ : d₂.sliceState s = d₁.sliceState s := by
    unfold d₂
    split
    · exact Die.getF_setF_apart d₁ F.SM_SLICE.STEP F.SM_SLICE.STATE s 1 (by decide)
    · rfl
  exact h₂.trans h₁

theorem Die.quiesceMarked_step (d : Die) (s graceEnd : Nat) : (d.quiesceMarked s true graceEnd).getF F.SM_SLICE.STEP s = 1 := by
  unfold Die.quiesceMarked
  extract_lets d₁ d₂ m
  have h₂ : d₂ = d₁.setF F.SM_SLICE.STEP s 1 := if_pos rfl
  have hstep : (d₁.setF F.SM_SLICE.STEP s 1).getF F.SM_SLICE.STEP s = 1 := (Die.getF_setF_same d₁ _ s 1 (Nat.le_of_ble_eq_true rfl)).trans rfl
  have hw : Within { sm := true } d₂ { d₂ with sm := { m with quiesce := d₂.sm.quiesce ++ [{ sl := s, toTear := true, graceEnd := graceEnd }] } } := Die.setSm_within d₂ _
  rw [hw.getF F.SM_SLICE.STEP s, h₂, hstep]

theorem Die.quiesceOn_marked (e : Env) (d : Die) (s : Nat) (toTear : Bool) (graceEnd : Nat) :
    Within yieldTouch (d.quiesceMarked s toTear graceEnd) (d.quiesceOn e s toTear graceEnd) := by
  unfold Die.quiesceOn Die.quiesceMarked
  refine .foldl _ (fun y x => ?_) _ _
  split
  next z _ => exact (Die.setKern_within y { z with req := none }).trans (Die.postYield_within e _ _ none)
  next => exact .refl y

theorem Die.claimsDone_quiesce (d : Die) : d.claimsDone.sm.quiesce = d.sm.quiesce := by
  unfold Die.claimsDone
  refine foldl_keeps (fun y : Die => y.sm.quiesce) _ (fun y s => ?_) _ d
  split <;> rfl

theorem Die.freeCluster_quiesce (e : Env) (d : Die) (k : Nat) (kept : Option Nat) (back : Bool) : (d.freeCluster e k kept back).sm.quiesce = d.sm.quiesce := by
  unfold Die.freeCluster
  extract_lets rt c mine t u
  have ht : Within yieldTouch d t :=
    .ite (.refl d) (((Die.setF_within d F.TY_CLUSTER.STATE k 0).trans (Die.setF_within _ F.TY_CLUSTER.CONTEXT k 0)).trans (Die.setF_within _ F.TY_CLUSTER.SLICE k 0))
  have hu : Within yieldTouch t u := Die.setClRt_within t k _
  have hv : Within yieldTouch u (if back ∨ rt.recalled then u.setLent k false else u) := .ite (Die.setLent_within u k false) (.refl u)
  rw [Die.claimsDone_quiesce, ((ht.trans hu).trans hv).sm]

theorem Die.abandonKern_quiesce (e : Env) (d : Die) (k : Kern) : (d.abandonKern e k).sm.quiesce = d.sm.quiesce := by
  unfold Die.abandonKern
  extract_lets t ranks
  have ht : t.sm.quiesce = d.sm.quiesce := by
    refine foldl_keeps (fun y : Die => y.sm.quiesce) _ (fun y r => ?_) _ d
    split
    next c _ =>
      split
      · exact Die.freeCluster_quiesce e y c none true
      · split <;> rfl
    next => rfl
  split
  · exact ht
  · exact ht

theorem Die.cancelSlice_quiesce (e : Env) (d : Die) (s : Nat) :
    (d.cancelSlice e s).sm.quiesce = d.sm.quiesce.map (fun q => if q.sl = s then { q with expired := true } else q) := by
  unfold Die.cancelSlice
  extract_lets m y₀
  have h₀ : y₀.sm.quiesce = d.sm.quiesce.map (fun q => if q.sl = s then { q with expired := true } else q) := rfl
  rw [← h₀]
  refine foldl_keeps (fun y : Die => y.sm.quiesce) _ (fun y c => ?_) _ y₀
  extract_lets y₁ y₂
  have h₁ : y₁.sm.quiesce = y.sm.quiesce := foldl_keeps (fun z : Die => z.sm.quiesce) _ (fun z k => Die.abandonKern_quiesce e z k) _ y
  have hplaces : Within { regs := [.SO_COUNT], eng := true } y₁ ((y₁.ctxCmds c).foldl (fun d x => d.unplace x.id true) y₁) :=
    .foldl _ (fun z (x : Cmd) => Die.unplace_within z x.id true) _ _
  have h₂ : y₂.sm = y₁.sm := (Die.enginesPump_within _).sm.trans hplaces.sm
  exact (congrArg (fun x : Slices => x.quiesce) (((Die.dropRequests_within _ c).sm.trans (Die.unhold_within y₂ c).sm).trans h₂)).trans h₁

theorem Die.forceDisable_eq {e : Env} {d : Die} {s : Nat} (hstate : d.sliceState s = 1 ∨ d.sliceState s = 2) (hq : ∀ q ∈ d.sm.quiesce, q.sl ≠ s) :
    d.forceDisable e s = (d.quiesceOn e s false e.now).cancelSlice e s := by
  unfold Die.forceDisable
  rw [if_neg (by rw [no_quiesce hq]; exact Bool.false_ne_true), if_pos hstate]

theorem Die.quiesceOn_quiesce (e : Env) (d : Die) (s : Nat) (toTear : Bool) (graceEnd : Nat) :
    (d.quiesceOn e s toTear graceEnd).sm.quiesce = d.sm.quiesce ++ [{ sl := s, toTear := toTear, graceEnd := graceEnd }] :=
  (congrArg (fun x : Slices => x.quiesce) (d.quiesceOn_marked e s toTear graceEnd).sm).trans (d.quiesceMarked_quiesce s toTear graceEnd)

theorem Die.quiesceOn_mem (e : Env) (d : Die) (s : Nat) (toTear : Bool) (graceEnd : Nat) : (d.quiesceOn e s toTear graceEnd).mem = d.mem :=
  (d.quiesceOn_marked e s toTear graceEnd).mem.trans (d.quiesceMarked_within s toTear graceEnd).mem

theorem Die.forceDisable_quiesce {e : Env} {d : Die} {s : Nat} (hstate : d.sliceState s = 1 ∨ d.sliceState s = 2) (hq : ∀ q ∈ d.sm.quiesce, q.sl ≠ s) :
    (d.forceDisable e s).sm.quiesce = d.sm.quiesce ++ [{ sl := s, toTear := false, graceEnd := e.now, expired := true }] := by
  rw [Die.forceDisable_eq hstate hq, Die.cancelSlice_quiesce, Die.quiesceOn_quiesce, List.map_append]
  congr 1
  · exact (List.map_congr_left fun q hin => if_neg (hq q hin)).trans (List.map_id _)
  · rw [List.map_singleton, if_pos rfl]

/-! ### The sub-operations that stop a slice -/

section
variable {s : State} {id : Nat} {c : Cmd} {d : Die} (h : Acting s id Op.SLICE_CTL c d) (haux : c.aux = 0)
include h haux

theorem exec_disable (harg : c.arg0 = 5) (hstate : d.sliceState c.sl = 2) :
    exec (.disable id) s = .next (actsTo s id c ((d.quiesceOn s.env c.sl false (d.graceEnd s.env (c.w 32))).opBegun c 0 c.sl)) := by
  rw [exec_sliceCtl h haux harg rfl, if_neg (not_not_intro hstate)]

theorem exec_forceDisable (harg : c.arg0 = 6) (hstate : d.sliceState c.sl = 1 ∨ d.sliceState c.sl = 2) :
    exec (.forceDisable id) s = .next (actsTo s id c (((d.forceDisable s.env c.sl).setCmd { c with aux := 1 }).addFence c 2 c.sl [] false)) := by
  have hin : d.inState c.sl [1, 2, 3] = true := by
    unfold Die.inState
    rcases hstate with hstate | hstate <;> rw [hstate] <;> rfl
  rw [exec_sliceCtl h haux harg rfl]
  dsimp only
  rw [if_neg (by rw [hin]; decide)]

/-- The slice is in a state that RECLAIM takes, and does not quiesce already. -/
theorem reclaim_taken (hstate : d.sliceState c.sl = 1 ∨ d.sliceState c.sl = 2 ∨ d.sliceState c.sl = 4) (hq : ∀ q ∈ d.sm.quiesce, q.sl ≠ c.sl) (harg : c.arg0 = 7) :
    exec (.reclaim id) s = .next (actsTo s id c (if d.sliceState c.sl = 2 then (d.quiesceOn s.env c.sl true (d.graceEnd s.env (c.w 32))).opBegun c 1 c.sl
      else (d.enterTear s.env c.sl).opBegun c 1 c.sl)) := by
  have hin : d.inState c.sl [1, 2, 3, 4] = true := by
    unfold Die.inState
    rcases hstate with hstate | hstate | hstate <;> rw [hstate] <;> rfl
  have hnone : d.sm.quiesce.find? (fun q => decide (q.sl = c.sl)) = none :=
    List.find?_eq_none.2 fun q hin => by rw [decide_eq_false (hq q hin)]; decide
  rw [exec_sliceCtl h haux harg rfl]
  dsimp only
  rw [if_neg (by rw [hin, hnone]; rintro (hc | hc) <;> cases hc), hnone, if_neg (by exact Bool.false_ne_true)]

end

/-! ### Grace and drain -/

section
variable {s : State} {sl : BitVec 9} {q : Quiesce} (hq : s.d.sm.quiesce.find? (fun q => decide (q.sl = sl.toNat)) = some q)
include hq

theorem exec_graceExpiry_early (h : s.env.now < q.graceEnd) : exec (.graceExpiry sl) s = .next s := by
  change execGraceExpiry sl s = _
  unfold execGraceExpiry
  dsimp only
  rw [hq]
  dsimp only
  rw [if_pos (.inr h)] <;> rfl

theorem exec_graceExpiry (h : q.graceEnd ≤ s.env.now) (hx : q.expired = false) : exec (.graceExpiry sl) s = .next { s with d := s.d.cancelSlice s.env sl.toNat } := by
  change execGraceExpiry sl s = _
  unfold execGraceExpiry
  dsimp only
  rw [hq]
  dsimp only
  rw [if_neg (not_or.2 ⟨by rw [hx]; exact Bool.false_ne_true, not_lt.2 h⟩)] <;> rfl

theorem exec_sliceDrained_wait (hx : q.expired = false) (h : s.d.allStopped sl.toNat = false) : exec (.sliceDrained sl) s = .next s := by
  change execSliceDrained sl s = _
  unfold execSliceDrained
  dsimp only
  rw [hq]
  dsimp only
  rw [if_pos (by rw [hx, h]; exact ⟨rfl, rfl⟩)] <;> rfl

theorem exec_sliceDrained (hx : q.expired = true) (hopen : s.d.openCtxs sl.toNat = []) (hctx : ∀ c ∈ s.d.sliceCtxs sl.toNat, s.d.ctxState c = 5 ∧ s.d.tearing c = false)
    (hidle : s.d.sliceIdle sl.toNat = true) : exec (.sliceDrained sl) s = .next { s with d := s.d.sliceStopped s.env q } := by
  change execSliceDrained sl s = _
  unfold execSliceDrained
  dsimp only
  rw [hq]
  dsimp only
  have hall : (s.d.sliceCtxs sl.toNat).all (fun c => decide (s.d.ctxState c = 5) && !(s.d.tearing c)) = true :=
    List.all_eq_true.2 fun c hc => by rw [decide_eq_true (hctx c hc).1, (hctx c hc).2]; rfl
  rw [if_neg (fun hc => by rw [hx] at hc; exact Bool.false_ne_true hc.1), if_pos hx, if_neg (by rw [hopen]; exact Bool.false_ne_true), hopen]
  change s.go (if _ then _ else _) = _
  rw [if_pos ⟨hall, hidle⟩] <;> rfl

end

/-- What is left of a slice that has drained, before the operations that waited for it go on. -/
def Die.sliceStill (d : Die) (s : Nat) : Die :=
  ((Die.forceDone { d with sm.quiesce := d.sm.quiesce.filter (fun x => decide (x.sl ≠ s)) } s).fenceReady 0 s).setF F.SM_SLICE.STATE s 4

theorem Die.sliceStopped_eq {e : Env} {d : Die} {q : Quiesce} (h : q.toTear = false) : d.sliceStopped e q = (d.sliceStill q.sl).fencesGo e := by
  unfold Die.sliceStopped
  dsimp only
  rw [if_neg (by rw [h]; exact Bool.false_ne_true)] <;> rfl

theorem Die.sliceStill_spec (d : Die) (s : Nat) : (d.sliceStill s).sliceState s = 4 ∧ (∀ x ∈ (d.sliceStill s).sm.quiesce, x.sl ≠ s) ∧ (d.sliceStill s).mem = d.mem := by
  unfold Die.sliceStill
  have hkept : ∀ x ∈ ({ d with sm.quiesce := d.sm.quiesce.filter (fun x => decide (x.sl ≠ s)) } : Die).sm.quiesce, x.sl ≠ s :=
    fun x hx => of_decide_eq_true (List.mem_filter.1 hx).2
  have hmem : ({ d with sm.quiesce := d.sm.quiesce.filter (fun x => decide (x.sl ≠ s)) } : Die).mem = d.mem := rfl
  generalize ({ d with sm.quiesce := d.sm.quiesce.filter (fun x => decide (x.sl ≠ s)) } : Die) = y at hkept hmem ⊢
  unfold Die.forceDone
  have hfin : Within { sf := true } y ((y.sm.fences.filter (fun f => decide (f.kind = 2 ∧ f.key = s))).foldl (fun d f => d.finish f.cmd St.OK 0) y) :=
    .foldl _ (fun z (f : DoneFence) => Die.finish_within z f.cmd St.OK 0) _ _
  generalize (y.sm.fences.filter (fun f => decide (f.kind = 2 ∧ f.key = s))).foldl (fun d f => d.finish f.cmd St.OK 0) y = z at hfin ⊢
  have hset : Within { regs := [.SM_SLICE] } ((z.fenceReady 2 s).fenceReady 0 s) (((z.fenceReady 2 s).fenceReady 0 s).setF F.SM_SLICE.STATE s 4) :=
    Die.setF_within _ F.SM_SLICE.STATE s 4
  refine ⟨(Die.getF_setF_same _ F.SM_SLICE.STATE s 4 (Nat.le_of_ble_eq_true rfl)).trans rfl, fun x hx => ?_, ?_⟩
  · rw [hset.sm] at hx
    exact hkept x (hfin.sm ▸ hx)
  · exact hset.mem.trans (hfin.mem.trans hmem)

/-! ### The flush, the keys and the pages of a slice -/

theorem exec_reclaimFlushDone_runs {s : State} {sl : BitVec 9} (h : s.d.flushRuns (.reclaim sl.toNat) = true) : exec (.reclaimFlushDone sl) s = .next s := by
  change execReclaimFlushDone sl s = _
  unfold execReclaimFlushDone
  dsimp only
  rw [if_neg (fun hc => by rw [h] at hc; exact Bool.false_ne_true hc.2.2)] <;> rfl

/-- The reclamation goes on to step `n`. -/
def Die.stepTo (d : Die) (s n : Nat) : Die := d.setF F.SM_SLICE.STEP s n

theorem Die.stepTo_within (d : Die) (s n : Nat) : Within { regs := [.SM_SLICE] } d (d.stepTo s n) := Die.setF_within d F.SM_SLICE.STEP s n

theorem exec_reclaimFlushDone {s : State} {sl : BitVec 9} (hstate : s.d.sliceState sl.toNat = 5) (hstep : s.d.getF F.SM_SLICE.STEP sl.toNat = 3)
    (h : s.d.flushRuns (.reclaim sl.toNat) = false) (hkeys : ∀ k ∈ s.d.slotsOf sl.toNat, s.d.slotState k ≠ 2) :
    exec (.reclaimFlushDone sl) s = .next { s with d := s.d.stepTo sl.toNat 4 } := by
  change execReclaimFlushDone sl s = _
  unfold execReclaimFlushDone
  dsimp only
  rw [if_pos ⟨hstate, hstep, by rw [h]; rfl⟩]
  have hw := s.d.stepTo_within sl.toNat 4
  have hfold : ∀ l : List Nat, (∀ k ∈ l, s.d.slotState k ≠ 2) →
      l.foldl (fun d k => if d.slotState k = 2 then d.startRetire s.env k none else d) (s.d.stepTo sl.toNat 4) = s.d.stepTo sl.toNat 4 := by
    intro l hl
    induction l with
    | nil => rfl
    | cons k l ih =>
      have hk : (s.d.stepTo sl.toNat 4).slotState k ≠ 2 := fun hc => hl k List.mem_cons_self ((hw.getF F.SE_SLOT.STATE k).symm.trans hc)
      rw [List.foldl_cons, if_neg hk]
      exact ih fun k hk => hl k (List.mem_cons_of_mem _ hk)
  exact congrArg s.go (hfold _ hkeys)

theorem exec_reclaimKeysDone {s : State} {sl : BitVec 9} (hstate : s.d.sliceState sl.toNat = 5) (hstep : s.d.getF F.SM_SLICE.STEP sl.toNat = 4) (h : s.d.slotsOf sl.toNat = []) :
    exec (.reclaimKeysDone sl) s = .next { s with d := (s.d.stepTo sl.toNat 5).unownPages sl.toNat } := by
  change execReclaimKeysDone sl s = _
  unfold execReclaimKeysDone
  dsimp only
  rw [if_pos ⟨hstate, hstep⟩, h]
  change s.go (if s.d.slotsOf sl.toNat = [] then _ else _) = _
  rw [if_pos h] <;> rfl

theorem Die.unownPages_eq (d : Die) (s : Nat) : d.unownPages s = (d.setPages (d.pagesOf s) 0 0).startPot 2 s (d.pagesOf s) none := rfl

theorem Die.startPot_within (d : Die) (kind sl : Nat) (pages : List Nat) (cmd : Option Nat) : Within { sm := true, nid := true } d (d.startPot kind sl pages cmd) :=
  (Die.setNid_within d _).trans (Die.setSm_within { d with nid := _ } _)

theorem Within.pagesOf {p : Touch} {d t : Die} (h : Within p d t) (s : Nat) (hr : p.regs.contains .SM_POT = false := by rfl) : t.pagesOf s = d.pagesOf s := by
  unfold Die.pagesOf Die.ownedBy Die.pageState Die.pageOwner
  rw [h.table .SM_POT hr]
  simp only [fun i => h.getF F.SM_POT.STATE i hr, fun i => h.getF F.SM_POT.OWNER i hr]

theorem reclaimKeysDone_spec {s : State} {sl : BitVec 9} (hstate : s.d.sliceState sl.toNat = 5) (hstep : s.d.getF F.SM_SLICE.STEP sl.toNat = 4) (h : s.d.slotsOf sl.toNat = []) :
    ∃ t, exec (.reclaimKeysDone sl) s = .next t ∧ t.d.getF F.SM_SLICE.STEP sl.toNat = 5 ∧ (∀ p ∈ s.d.pagesOf sl.toNat, t.d.pageState p = 0) ∧
      (∀ p, p ∉ s.d.pagesOf sl.toNat → t.d.reg .SM_POT p 0 = s.d.reg .SM_POT p 0) ∧ keepsRegs s.d t.d [.SM_SLICE, .SM_POT] ∧ t.d.mem = s.d.mem ∧ t.env = s.env := by
  refine ⟨_, exec_reclaimKeysDone hstate hstep h, ?_⟩
  have h₁ := s.d.stepTo_within sl.toNat 5
  have hset : (s.d.stepTo sl.toNat 5).getF F.SM_SLICE.STEP sl.toNat = 5 := (Die.getF_setF_same s.d F.SM_SLICE.STEP sl.toNat 5 (by decide)).trans rfl
  generalize s.d.stepTo sl.toNat 5 = y at h₁ hset ⊢
  rw [← h₁.pagesOf sl.toNat, Die.unownPages_eq]
  generalize y.pagesOf sl.toNat = ps
  have h₂ := y.setPages_within ps 0 0
  obtain ⟨hin, hout⟩ := y.setPages_spec ps 0 0
  generalize y.setPages ps 0 0 = z at h₂ hin hout ⊢
  have h₃ := z.startPot_within 2 sl.toNat ps none
  have hall : Within { regs := [.SM_SLICE, .SM_POT], sm := true, nid := true } s.d (z.startPot 2 sl.toNat ps none) := (h₁.mono.trans h₂.mono).trans h₃.mono
  refine ⟨?_, fun p hp => (h₃.getF F.SM_POT.STATE p).trans (hin p hp).1, fun p hp => ?_, hall.keepsRegs, hall.mem, rfl⟩
  · exact (h₃.getF F.SM_SLICE.STEP _).trans ((h₂.getF F.SM_SLICE.STEP _).trans hset)
  · exact (h₃.reg .SM_POT p 0).trans ((hout p hp).trans (h₁.reg .SM_POT p 0))

/-! ### The release of a slice -/

theorem exec_reclaimScrubDone {s : State} {sl : BitVec 9} {o : PotOp} (hstate : s.d.sliceState sl.toNat = 5) (hstep : s.d.getF F.SM_SLICE.STEP sl.toNat = 5)
    (ho : s.d.sm.potOps.find? (fun o => decide (o.sl = sl.toNat ∧ (o.kind = 2 ∨ o.kind = 5))) = some o) (hkind : o.kind = 5)
    (hscrubs : ∀ p ∈ o.pages, ∀ x ∈ s.d.sm.scrubs, x.1 ≠ p) :
    exec (.reclaimScrubDone sl) s = .next { s with d := (((s.d.dropPot o.id).release s.env sl.toNat).fenceReady 1 sl.toNat).fencesGo s.env } := by
  change execReclaimScrubDone sl s = _
  unfold execReclaimScrubDone
  dsimp only
  have hall : o.pages.all (fun p => !(s.d.sm.scrubs.any (fun x => decide (x.1 = p)))) = true := by
    refine List.all_eq_true.2 fun p hp => ?_
    rw [Bool.not_eq_true']
    exact List.any_eq_false.2 fun x hx => by rw [decide_eq_false (hscrubs p hp x hx)]; decide
  rw [if_pos ⟨hstate, hstep⟩, ho]
  dsimp only
  rw [if_pos ⟨hkind, hall⟩] <;> rfl

/-- The listed registers of a slice are at their reset values, and its quota is nothing. -/
structure Cleared (l : List Reg) (s : Nat) (d : Die) : Prop where
  regs : ∀ r ∈ l, d.reg r s 0 = r.resetWord 0
  min : d.getF F.SF_SLOT_QUOTA.MIN s = 0
  max : d.getF F.SF_SLOT_QUOTA.MAX s = 0

theorem Cleared.keep {l : List Reg} {p : Touch} {s : Nat} {d t : Die} (h : Cleared l s d) (hw : Within p d t)
    (hp : (Reg.SF_SLOT_QUOTA :: l).all (fun r => !(p.regs.contains r)) = true := by rfl) : Cleared l s t := by
  have hkeep : ∀ r ∈ Reg.SF_SLOT_QUOTA :: l, p.regs.contains r = false := fun r hr => by simpa using List.all_eq_true.1 hp r hr
  exact ⟨fun r hr => (hw.reg r s 0 (hkeep r (List.mem_cons_of_mem _ hr))).trans (h.regs r hr),
    (hw.getF F.SF_SLOT_QUOTA.MIN s (hkeep _ List.mem_cons_self)).trans h.min, (hw.getF F.SF_SLOT_QUOTA.MAX s (hkeep _ List.mem_cons_self)).trans h.max⟩

theorem Cleared.clear {l : List Reg} {s : Nat} {d : Die} (h : Cleared l s d) (r : Reg) (hwords : 0 < r.layout.words := by decide)
    (hp : (Reg.SF_SLOT_QUOTA :: l).all (fun x => !([r].contains x)) = true := by rfl) : Cleared (r :: l) s (d.clearElem r s) := by
  have hkept : Cleared l s (d.clearElem r s) := h.keep (p := { regs := [r] }) (Die.clearElem_within d r s (by simp)) hp
  refine ⟨fun x hx => ?_, hkept.min, hkept.max⟩
  rcases List.mem_cons.1 hx with rfl | hx
  · exact d.reg_clearElem_lt x s 0 hwords
  · exact hkept.regs x hx

/-- The quota of a slice, back to nothing. -/
def Die.quotaCleared (d : Die) (s : Nat) : Die := (d.setF F.SF_SLOT_QUOTA.MIN s 0).setF F.SF_SLOT_QUOTA.MAX s 0

/-- The rates of a slice at the controllers, back to their reset values. -/
def Die.ratesCleared (e : Env) (d : Die) (s : Nat) : Die := (List.range e.regions).foldl (fun d n => d.clearElem .MC_SBW (512 * n + s)) d

/-- The windows of the slice's contexts close. -/
def Die.windowsClosed (d : Die) (s : Nat) : Die :=
  (List.range 4096).foldl (fun d w =>
    if d.bit F.WE_WTAB.VALID w ∧ d.sliceOf (d.getF F.WE_WTAB.CONTEXT w) = some s then d.setF F.WE_WTAB.VALID w 0 else d) d

/-- The watches of the slice close. -/
def Die.watchesClosed (d : Die) (s : Nat) : Die :=
  (List.range 64).foldl (fun d w =>
    if d.bit F.CH_WATCH.OPEN w ∧ !(d.isKernelCtx (d.getF F.CH_WATCH.CONTEXT w)) ∧ d.getF F.CH_WATCH.SLICE w = s then
      { d.setF F.CH_WATCH.OPEN w 0 with ch.watch := Tab.set none d.ch.watch w none }
    else d) d

theorem Die.releaseRegs_eq (e : Env) (d : Die) (s : Nat) : d.releaseRegs e s =
    (((((((((d.quotaCleared s).clearElem .SM_SLICE_BIND s).clearElem .SM_SLICE_ACLASS s).clearElem .SM_SLICE_LOG s).ratesCleared e s).clearElem .WE_LBW s).clearElem .CH_VIS s).clearElem
      .CH_WATCH_MASK s).windowsClosed s).watchesClosed s := rfl

theorem Die.windowsClosed_within (d : Die) (s : Nat) : Within { regs := [.WE_WTAB] } d (d.windowsClosed s) :=
  .foldl _ (fun y w => .ite (Die.setF_within y F.WE_WTAB.VALID w 0) (.refl y)) _ _

theorem Die.watchesClosed_within (d : Die) (s : Nat) : Within { regs := [.CH_WATCH], ch := true } d (d.watchesClosed s) :=
  .foldl _ (fun y w => .ite ((Die.setF_within y F.CH_WATCH.OPEN w 0).trans (Die.setCh_within (y.setF F.CH_WATCH.OPEN w 0) _)) (.refl y)) _ _

theorem Die.ratesCleared_within (e : Env) (d : Die) (s : Nat) : Within { regs := [.MC_SBW] } d (d.ratesCleared e s) :=
  .foldl _ (fun y n => Die.clearElem_within y .MC_SBW (512 * n + s)) _ _

theorem Die.quotaCleared_spec (d : Die) (s : Nat) : Cleared [] s (d.quotaCleared s) := by
  unfold Die.quotaCleared
  refine ⟨fun r hr => absurd hr List.not_mem_nil, ?_, (Die.getF_setF_same _ F.SF_SLOT_QUOTA.MAX s 0 (by decide)).trans (Nat.zero_mod _)⟩
  rw [Die.getF_setF_apart _ _ F.SF_SLOT_QUOTA.MIN s _ (by decide), Die.getF_setF_same _ _ _ _ (by decide), Nat.zero_mod]

/-- The registers that the release of a slice clears. -/
abbrev releaseList : List Reg := [.CH_WATCH_MASK, .CH_VIS, .WE_LBW, .SM_SLICE_LOG, .SM_SLICE_ACLASS, .SM_SLICE_BIND]

theorem Die.releaseRegs_spec (e : Env) (d : Die) (s : Nat) : Cleared releaseList s (d.releaseRegs e s) := by
  rw [Die.releaseRegs_eq]
  have h₁ : Cleared [.SM_SLICE_LOG, .SM_SLICE_ACLASS, .SM_SLICE_BIND] s ((((d.quotaCleared s).clearElem .SM_SLICE_BIND s).clearElem .SM_SLICE_ACLASS s).clearElem .SM_SLICE_LOG s) :=
    (((d.quotaCleared_spec s).clear .SM_SLICE_BIND).clear .SM_SLICE_ACLASS).clear .SM_SLICE_LOG
  generalize (((d.quotaCleared s).clearElem .SM_SLICE_BIND s).clearElem .SM_SLICE_ACLASS s).clearElem .SM_SLICE_LOG s = y at h₁ ⊢
  have h₂ : Cleared releaseList s ((((y.ratesCleared e s).clearElem .WE_LBW s).clearElem .CH_VIS s).clearElem .CH_WATCH_MASK s) :=
    (((h₁.keep (y.ratesCleared_within e s)).clear .WE_LBW).clear .CH_VIS).clear .CH_WATCH_MASK
  exact (h₂.keep (Die.windowsClosed_within _ s)).keep (Die.watchesClosed_within _ s)

abbrev releaseTouch : Touch :=
  { regs := [.SF_SLOT_QUOTA, .SM_SLICE_BIND, .SM_SLICE_ACLASS, .SM_SLICE_LOG, .MC_SBW, .WE_LBW, .CH_VIS, .CH_WATCH_MASK, .WE_WTAB, .CH_WATCH], ch := true }

theorem Die.releaseRegs_within (e : Env) (d : Die) (s : Nat) : Within releaseTouch d (d.releaseRegs e s) := by
  rw [Die.releaseRegs_eq]
  have hquota : Within releaseTouch d (d.quotaCleared s) := (Die.setF_within d F.SF_SLOT_QUOTA.MIN s 0).trans (Die.setF_within _ F.SF_SLOT_QUOTA.MAX s 0)
  have h₁ : Within releaseTouch d ((((d.quotaCleared s).clearElem .SM_SLICE_BIND s).clearElem .SM_SLICE_ACLASS s).clearElem .SM_SLICE_LOG s) :=
    ((hquota.trans (Die.clearElem_within _ .SM_SLICE_BIND s)).trans (Die.clearElem_within _ .SM_SLICE_ACLASS s)).trans (Die.clearElem_within _ .SM_SLICE_LOG s)
  generalize (((d.quotaCleared s).clearElem .SM_SLICE_BIND s).clearElem .SM_SLICE_ACLASS s).clearElem .SM_SLICE_LOG s = y at h₁ ⊢
  have h₂ : Within releaseTouch y ((((y.ratesCleared e s).clearElem .WE_LBW s).clearElem .CH_VIS s).clearElem .CH_WATCH_MASK s) :=
    (((y.ratesCleared_within e s).mono.trans (Die.clearElem_within _ .WE_LBW s)).trans (Die.clearElem_within _ .CH_VIS s)).trans (Die.clearElem_within _ .CH_WATCH_MASK s)
  exact ((h₁.trans h₂).trans (Die.windowsClosed_within _ s).mono).trans (Die.watchesClosed_within _ s).mono

abbrev ringTouch : Touch := { regs := [.STU_EPOCH, .STU_FRING_STATUS, .STU_FRING_CTL], stu := true, ch := true }

theorem Die.setFring_within (d : Die) (s : Nat) (x : FRing) : Within ringTouch d (d.setFring s x) := by
  unfold Die.setFring
  exact (Die.setStu_within d _).trans (Die.setF_within { d with stu.rings := _ } F.STU_FRING_STATUS.REPLAY_USED s _)

theorem Die.releaseRing_within (d : Die) (s : Nat) : Within ringTouch d (d.releaseRing s) := by
  unfold Die.releaseRing
  extract_lets x st n m y z w
  have h₁ : Within ringTouch d y := Die.setStu_within d _
  have h₂ : Within ringTouch y z := .foldl _ (fun t (u : Stall) => Die.setF_within t F.STU_EPOCH.STALLED u.frec.ctx 0) _ _
  have h₃ : Within ringTouch z w := (z.setFring_within s _).trans (Die.setF_within _ F.STU_FRING_CTL.ENABLE s 0)
  exact ((h₁.trans h₂).trans h₃).trans (.ite (.refl w) ((Die.incSat_within w F.STU_FRING_STATUS.DROPPED s n).trans (Die.count_within _ 63 n)))

/-- What a release leaves of memory, and the entries it clears. -/
theorem Die.release_spec (e : Env) (d : Die) (s : Nat) : Cleared (.SM_SLICE :: .SM_SLICE_CLUSTERS :: releaseList) s (d.release e s) ∧ (d.release e s).mem = d.mem := by
  unfold Die.release
  extract_lets d₁ d₂ m d₃ d₄
  have h₁ : Within { regs := [.SM_POT] } d d₁ := .foldl _ (fun y p => .ite (Die.setF_within y F.SM_POT.ORPHAN p 1) (.refl y)) _ _
  have h₂ : Within yieldTouch d₁ d₂ := .ite (.foldl _ (fun y k => Die.setLent_within y k false) _ _) (.refl d₁)
  have h₃ : Within { sm := true } d₂ d₃ := Die.setSm_within d₂ _
  have hregs := d₃.releaseRegs_spec e s
  have h₄ := d₃.releaseRegs_within e s
  have h₅ := (d₃.releaseRegs e s).releaseRing_within s
  have h₆ : Within { regs := [.SM_SLICE_CLUSTERS, .SM_SLICE] } ((d₃.releaseRegs e s).releaseRing s) (d₄.clearElem .SM_SLICE s) :=
    (Die.clearElem_within _ .SM_SLICE_CLUSTERS s).trans (Die.clearElem_within _ .SM_SLICE s)
  refine ⟨((hregs.keep h₅).clear .SM_SLICE_CLUSTERS).clear .SM_SLICE, ?_⟩
  rw [h₆.mem, h₅.mem, h₄.mem, h₃.mem, h₂.mem, h₁.mem]

theorem reclaimScrubDone_spec {s : State} {sl : BitVec 9} {o : PotOp} (hstate : s.d.sliceState sl.toNat = 5) (hstep : s.d.getF F.SM_SLICE.STEP sl.toNat = 5)
    (ho : s.d.sm.potOps.find? (fun o => decide (o.sl = sl.toNat ∧ (o.kind = 2 ∨ o.kind = 5))) = some o) (hkind : o.kind = 5)
    (hscrubs : ∀ p ∈ o.pages, ∀ x ∈ s.d.sm.scrubs, x.1 ≠ p) :
    ∃ d₁ : Die, exec (.reclaimScrubDone sl) s = .next { s with d := d₁.fencesGo s.env } ∧ d₁.sliceState sl.toNat = 0 ∧
      (∀ r ∈ ([.SM_SLICE, .SM_SLICE_CLUSTERS, .SM_SLICE_BIND, .SM_SLICE_ACLASS, .SM_SLICE_LOG, .CH_VIS, .CH_WATCH_MASK, .WE_LBW] : List Reg), d₁.reg r sl.toNat 0 = r.resetWord 0) ∧
      d₁.getF F.SF_SLOT_QUOTA.MIN sl.toNat = 0 ∧ d₁.getF F.SF_SLOT_QUOTA.MAX sl.toNat = 0 ∧ d₁.mem = s.d.mem := by
  refine ⟨_, exec_reclaimScrubDone hstate hstep ho hkind hscrubs, ?_⟩
  have hdrop : (s.d.dropPot o.id).mem = s.d.mem := rfl
  generalize s.d.dropPot o.id = y at hdrop ⊢
  obtain ⟨hclear, hmem⟩ := y.release_spec s.env sl.toNat
  generalize y.release s.env sl.toNat = z at hclear hmem ⊢
  have hready : Within { sm := true } z (z.fenceReady 1 sl.toNat) := Die.setSm_within z _
  obtain ⟨hregs, hmin, hmax⟩ := hclear.keep hready
  have hsub : ∀ r ∈ ([.SM_SLICE, .SM_SLICE_CLUSTERS, .SM_SLICE_BIND, .SM_SLICE_ACLASS, .SM_SLICE_LOG, .CH_VIS, .CH_WATCH_MASK, .WE_LBW] : List Reg),
      r ∈ Reg.SM_SLICE :: Reg.SM_SLICE_CLUSTERS :: releaseList := by decide
  refine ⟨?_, fun r hr => hregs r (hsub r hr), hmin, hmax, (hready.mem.trans hmem).trans hdrop⟩
  unfold Die.sliceState Die.getF
  rw [hregs .SM_SLICE List.mem_cons_self] <;> rfl

/-! ### O44 -/

/-- Settles O44: the sub-operations that stop a slice, and the steps of its reclamation. -/
theorem slicesStopAndAreReclaimedStepByStep : Obligations.SlicesStopAndAreReclaimedStepByStep := by
  unfold Obligations.SlicesStopAndAreReclaimedStepByStep
  refine ⟨fun s id c d h haux => ⟨fun harg hstate => ?_, fun harg hstate hq => ?_, fun harg hstate hq => ?_, fun harg hstate hq => ?_⟩,
    fun s sl q => ⟨fun hq => ⟨exec_graceExpiry_early hq, exec_graceExpiry hq, fun hx htear hopen hctx hidle => ?_, exec_sliceDrained_wait hq⟩, fun hstate hstep => ⟨exec_reclaimFlushDone_runs, fun hf hkeys => ?_⟩,
      fun hstate hstep h => reclaimKeysDone_spec hstate hstep h, fun o hstate hstep ho hkind hscrubs => reclaimScrubDone_spec hstate hstep ho hkind hscrubs⟩⟩
  · exact ⟨_, exec_disable h haux harg hstate, ((d.quiesceOn_marked s.env _ _ _).getF F.SM_SLICE.STATE c.sl).trans (Die.quiesceMarked_state _ _ hstate),
      Die.quiesceOn_quiesce _ _ _ _ _, Die.quiesceOn_mem _ _ _ _ _⟩
  · exact ⟨_, exec_forceDisable h haux harg hstate, rfl, Die.forceDisable_quiesce hstate hq⟩
  · refine ⟨_, (reclaim_taken h haux (.inr (.inl hstate)) hq harg).trans (by rw [if_pos hstate]), ?_, ?_, Die.quiesceOn_quiesce _ _ _ _ _⟩
    · exact ((d.quiesceOn_marked s.env _ _ _).getF F.SM_SLICE.STATE c.sl).trans (Die.quiesceMarked_state _ _ hstate)
    · exact ((d.quiesceOn_marked s.env _ _ _).getF F.SM_SLICE.STEP c.sl).trans (Die.quiesceMarked_step _ _ _)
  · have hnot : d.sliceState c.sl ≠ 2 := by rcases hstate with h | h <;> rw [h] <;> decide
    exact (reclaim_taken h haux (hstate.imp_right .inr) hq harg).trans (by rw [if_neg hnot])
  · have hsl : q.sl = sl.toNat := of_decide_eq_true (List.find?_some (p := fun q : Quiesce => decide (q.sl = sl.toNat)) hq)
    obtain ⟨hst, hquiesce, hmem⟩ := s.d.sliceStill_spec sl.toNat
    refine ⟨s.d.sliceStill sl.toNat, ?_, hst, hquiesce, hmem⟩
    rw [exec_sliceDrained hq hx hopen hctx hidle, Die.sliceStopped_eq htear, hsl]
  · have hw := s.d.stepTo_within sl.toNat 4
    refine ⟨_, exec_reclaimFlushDone hstate hstep hf hkeys, (Die.getF_setF_same s.d F.SM_SLICE.STEP sl.toNat 4 (by decide)).trans rfl, ?_, hw.onlyRegs⟩
    exact (Die.getF_setF_apart s.d F.SM_SLICE.STEP F.SM_SLICE.STATE sl.toNat 4 (by decide)).trans hstate

end Sys2Proof.Machine
end

section
/-! PROOF. Messages of a cluster's port (O50). -/

-- One proof after another: all at once, they ask for more threads than the check's memory limit admits.
set_option Elab.async false

namespace Sys2Proof.Machine

/-! ### What the port reads of a die -/

theorem Within.kernOn {p : Touch} {d t : Die} (h : Within p d t) (k : Nat) (hp : p.ty = false := by rfl) : t.kernOn k = d.kernOn k := by
  unfold Die.kernOn Die.kernAt
  rw [h.ty hp]

theorem Within.tearing {p : Touch} {d t : Die} (h : Within p d t) (c : Nat) (hp : p.sf = false := by rfl) : t.tearing c = d.tearing c := by
  unfold Die.tearing
  rw [h.sf hp]

theorem Within.reqOk {p : Touch} {d t : Die} (h : Within p d t) (k op : Nat) (m : BitVec 128) (beats : List (BitVec 128 × Line)) (hp : p.coh = false := by rfl) :
    t.reqOk k op m beats = d.reqOk k op m beats := by
  unfold Die.reqOk
  rw [h.coh hp]

theorem Within.sliceOf {p : Touch} {d t : Die} (h : Within p d t) (c : Nat) (hr : p.regs.contains .SF_CTX_CFG = false := by rfl) : t.sliceOf c = d.sliceOf c := by
  unfold Die.sliceOf Die.isKernelCtx Die.ctxSlice
  rw [h.bit F.SF_CTX_CFG.KERNEL c hr, h.getF F.SF_CTX_CFG.SLICE c hr]

theorem Within.makeReqs {p : Touch} {d t : Die} (h : Within p d t) (e : Env) (k op : Nat) (m : BitVec 128) (beats : List (BitVec 128 × Line)) (x : Kern)
    (hp : p.nid = false := by rfl) (hr : p.regs.contains .SF_CTX_CFG = false := by rfl) : t.makeReqs e k op m beats x = d.makeReqs e k op m beats x := by
  unfold Die.makeReqs
  rw [h.nid hp, h.sliceOf x.ctx hr]

theorem Within.home {p : Touch} {d t : Die} (h : Within p d t) (e : Env) (l : Nat) (hp : p.sm = false := by rfl) : t.home e l = d.home e l := by
  unfold Die.home Die.isLocal
  rw [h.sm hp]

/-! ### Requests -/

/-- A message of a port is counted, with the bytes of its beats. -/
def Die.portCounted (e : Env) (d : Die) (k n : Nat) : Die :=
  (((d.count (64 + 8 * k) 1).count (64 + 8 * k + 2) n).count (64 + 8 * k + 7) n).monitor e 0 k 1 n

abbrev portCountTouch : Touch := { regs := monRegs, ch := true }

theorem Die.portCounted_within (e : Env) (d : Die) (k n : Nat) : Within portCountTouch d (d.portCounted e k n) :=
  (((Die.count_within d _ _).trans (Die.count_within _ _ _)).trans (Die.count_within _ _ _)).trans (Die.monitor_within _ e 0 k 1 n)

/-- A request enters the port stop, with its credits returned. -/
def Die.portEntered (d : Die) (k : Nat) (beats : List (BitVec 128 × Line)) (qs : List Req) : Die :=
  let d := beats.foldl (fun d _ => d.send (.credit k 2)) (d.send (.credit k 0))
  { d with nid := d.nid + qs.length, coh.reqs := d.coh.reqs ++ qs }

theorem Die.portEntered_spec (d : Die) (k : Nat) (beats : List (BitVec 128 × Line)) (qs : List Req) :
    Within { nid := true, coh := true, out := true } d (d.portEntered k beats qs) ∧ (d.portEntered k beats qs).coh.reqs = d.coh.reqs ++ qs ∧
      Msg.credit k 0 ∈ (d.portEntered k beats qs).out := by
  unfold Die.portEntered
  have hw : Within { out := true } d (beats.foldl (fun d _ => d.send (.credit k 2)) (d.send (.credit k 0))) :=
    (Die.send_within d _).trans (.foldl _ (fun y _ => Die.send_within y _) _ _)
  have hout : Msg.credit k 0 ∈ (beats.foldl (fun d _ => d.send (.credit k 2)) (d.send (.credit k 0))).out :=
    foldl_invariant (fun y : Die => Msg.credit k 0 ∈ y.out) _ (fun y _ hy => List.mem_cons_of_mem _ hy) beats _ List.mem_cons_self
  generalize beats.foldl (fun d _ => d.send (.credit k 2)) (d.send (.credit k 0)) = y at hw hout ⊢
  refine ⟨hw.mono.trans ((Die.setNid_within y _).trans (Die.setCoh_within { y with nid := _ } _)), ?_, hout⟩
  exact congrArg (fun x : Coh => x.reqs ++ qs) hw.coh

section
variable {e : Env} {d : Die} {k op : Nat} {h : BitVec 128} {beats : List (BitVec 128 × Line)} {x : Kern}

theorem Die.portReq_off (hon : d.portOn e k = false) (par : Bool) : d.portReq e k op h par beats = d := by
  unfold Die.portReq
  rw [if_pos (by rw [hon]; rfl)]

theorem Die.portReq_parity (hon : d.portOn e k = true) : d.portReq e k op h false beats = (d.portCounted e k (128 * beats.length)).portDead e k := by
  unfold Die.portReq
  rw [if_neg (by rw [hon]; exact Bool.false_ne_true)]
  change (match (d.portCounted e k (128 * beats.length)).kernOn k with | none => _ | some x => _) = _
  split
  · rfl
  · exact if_pos (.inl rfl)

theorem Die.portReq_idle (hon : d.portOn e k = true) (hkern : d.kernOn k = none) :
    d.portReq e k op h true beats = (d.portCounted e k (128 * beats.length)).portDead e k := by
  have hw := d.portCounted_within e k (128 * beats.length)
  unfold Die.portReq
  rw [if_neg (by rw [hon]; exact Bool.false_ne_true)]
  change (match (d.portCounted e k (128 * beats.length)).kernOn k with | none => _ | some x => _) = _
  rw [hw.kernOn k, hkern] <;> rfl

theorem Die.portReq_context (hon : d.portOn e k = true) (hkern : d.kernOn k = some x) (hctx : reqCtx h ≠ x.ctx) :
    d.portReq e k op h true beats = (d.portCounted e k (128 * beats.length)).portDead e k := by
  have hw := d.portCounted_within e k (128 * beats.length)
  unfold Die.portReq
  rw [if_neg (by rw [hon]; exact Bool.false_ne_true)]
  change (match (d.portCounted e k (128 * beats.length)).kernOn k with | none => _ | some x => _) = _
  rw [hw.kernOn k, hkern]
  exact if_pos (.inr (.inr (.inl hctx)))

theorem Die.portReq_enters (hon : d.portOn e k = true) (hkern : d.kernOn k = some x) (hinj : d.fire0 Cs.CLP_PARITY k = false) (hctx : reqCtx h = x.ctx)
    (hok : d.reqOk k op h beats = true) (haband : x.aband = false) (htear : d.tearing x.ctx = false) (hstate : d.ctxState x.ctx ≠ 5)
    (hfmt : op = 6 → fmtPair (bitsOf h.toNat 92 6) (bitsOf h.toNat 98 6) = true) :
    d.portReq e k op h true beats = ((d.portCounted e k (128 * beats.length)).portEntered k beats (d.makeReqs e k op h beats x)).portPump e
      ((d.makeReqs e k op h beats x).length + 64) k := by
  have hw := d.portCounted_within e k (128 * beats.length)
  unfold Die.portReq
  rw [if_neg (by rw [hon]; exact Bool.false_ne_true)]
  change (match (d.portCounted e k (128 * beats.length)).kernOn k with | none => _ | some x => _) = _
  rw [hw.kernOn k, hkern]
  have hgood : ¬ ((!true) = true ∨ (d.portCounted e k (128 * beats.length)).fire0 Cs.CLP_PARITY k = true ∨ reqCtx h ≠ x.ctx ∨
      (!((d.portCounted e k (128 * beats.length)).reqOk k op h beats)) = true) := by
    rw [hw.fire0, hinj, hw.reqOk, hok]
    rintro (hc | hc | hc | hc)
    · cases hc
    · cases hc
    · exact hc hctx
    · cases hc
  refine (if_neg hgood).trans ?_
  extract_lets d₁ qs m d₂
  have h₁ : Within { regs := monRegs, ch := true, out := true } d d₁ :=
    hw.mono.trans ((Die.send_within _ _).trans (.foldl _ (fun y _ => Die.send_within y _) _ _))
  have hqs : qs = d.makeReqs e k op h beats x := h₁.makeReqs e k op h beats x
  have hd₂ : d₂ = (d.portCounted e k (128 * beats.length)).portEntered k beats qs := rfl
  clear_value qs d₂
  subst hqs hd₂
  have h₂ : Within { regs := monRegs, ch := true, nid := true, coh := true, out := true } d
      ((d.portCounted e k (128 * beats.length)).portEntered k beats (d.makeReqs e k op h beats x)) :=
    hw.mono.trans ((d.portCounted e k (128 * beats.length)).portEntered_spec k beats (d.makeReqs e k op h beats x)).1.mono
  generalize (d.portCounted e k (128 * beats.length)).portEntered k beats (d.makeReqs e k op h beats x) = z at h₂ ⊢
  have hlive : ¬ (x.aband = true ∨ z.tearing x.ctx = true ∨ z.ctxState x.ctx = 5) := by
    rw [haband, h₂.tearing x.ctx, htear]
    rintro (hc | hc | hc)
    · cases hc
    · cases hc
    · exact hstate ((h₂.getF F.SF_CTX_STATUS.STATE x.ctx).symm.trans hc)
  rw [if_neg hlive, if_neg (fun hc => by rw [hfmt hc.1] at hc; exact Bool.false_ne_true hc.2)]

/-- What a request message that keeps to the rules leaves, before the port stop goes on. -/
theorem Die.portReq_spec (e : Env) (d : Die) (k n : Nat) (beats : List (BitVec 128 × Line)) (qs : List Req) :
    ((d.portCounted e k n).portEntered k beats qs).coh.reqs = d.coh.reqs ++ qs ∧ ((d.portCounted e k n).portEntered k beats qs).mem = d.mem ∧
      ((d.portCounted e k n).portEntered k beats qs).sf = d.sf ∧ Msg.credit k 0 ∈ ((d.portCounted e k n).portEntered k beats qs).out := by
  have hw := d.portCounted_within e k n
  obtain ⟨he, hreqs, hout⟩ := (d.portCounted e k n).portEntered_spec k beats qs
  exact ⟨by rw [hreqs, hw.coh], he.mem.trans hw.mem, he.sf.trans hw.sf, hout⟩

theorem makeReqs_length : (d.makeReqs e k op h beats x).length = if op = 7 ∨ op = 8 then reqLines h else 1 := by
  unfold Die.makeReqs
  rw [List.length_map, List.length_range]

end

/-- One message of a port, by its row. -/
theorem clusterRequest {s : State} {n op : Nat} {h : BitVec 128} {beats : List (BitVec 128 × Line)} {row : Bool → Instr}
    (hrow : ∀ p, exec (row p) s = .next { s with d := s.d.portReq s.env n op h p beats }) :
    (s.d.portOn s.env n = false → ∀ p, exec (row p) s = .next s) ∧
    (∀ x, s.d.portOn s.env n = true → s.d.kernOn n = some x → s.d.fire0 Cs.CLP_PARITY n = false → reqCtx h = x.ctx → s.d.reqOk n op h beats = true → x.aband = false → s.d.tearing x.ctx = false → s.d.ctxState x.ctx ≠ 5 →
      (op = 6 → fmtPair (bitsOf h.toNat 92 6) (bitsOf h.toNat 98 6) = true) →
      ∃ d₁ : Die, exec (row true) s = .next { s with d := d₁.portPump s.env ((s.d.makeReqs s.env n op h beats x).length + 64) n } ∧
        d₁.coh.reqs = s.d.coh.reqs ++ s.d.makeReqs s.env n op h beats x ∧ (s.d.makeReqs s.env n op h beats x).length = (if op = 7 ∨ op = 8 then reqLines h else 1) ∧ d₁.mem = s.d.mem ∧ d₁.sf = s.d.sf ∧ Msg.credit n 0 ∈ d₁.out) ∧
    (∀ x, s.d.portOn s.env n = true → s.d.kernOn n = some x → reqCtx h ≠ x.ctx → exec (row true) s = .next { s with d := (s.d.portCounted s.env n (128 * beats.length)).portDead s.env n }) ∧
    (s.d.portOn s.env n = true → exec (row false) s = .next { s with d := (s.d.portCounted s.env n (128 * beats.length)).portDead s.env n }) ∧
    (s.d.portOn s.env n = true → s.d.kernOn n = none → exec (row true) s = .next { s with d := (s.d.portCounted s.env n (128 * beats.length)).portDead s.env n }) := by
  refine ⟨fun hoff p => ?_, fun x hon hk hinj hctx hok hab htear hst hfmt => ?_, fun x hon hk hctx => ?_, fun hon => ?_, fun hon hk => ?_⟩
  · rw [hrow, Die.portReq_off hoff]
  · obtain ⟨hreqs, hmem, hsf, hout⟩ := s.d.portReq_spec s.env n (128 * beats.length) beats (s.d.makeReqs s.env n op h beats x)
    exact ⟨_, by rw [hrow, Die.portReq_enters hon hk hinj hctx hok hab htear hst hfmt], hreqs, makeReqs_length, hmem, hsf, hout⟩
  · rw [hrow, Die.portReq_context hon hk hctx]
  · rw [hrow, Die.portReq_parity hon]
  · rw [hrow, Die.portReq_idle hon hk]

/-! ### WB messages and credits -/

/-- The WB that a message makes. -/
def wbReq (s : State) (n : Nat) (w : BitVec 56) (data : Line) : Req :=
  { rid := s.d.nid, who := n, op := .wb, line := bitsOf w.toNat 6 43, tag := bitsOf w.toNat 0 6, data := data, at_ := s.env.tq,
    attr := { watchEn := decide (bitsOf w.toNat 49 1 = 1), watchId := bitsOf w.toNat 50 6 } }

/-- A WB message is counted, with its line. -/
def Die.wbCounted (e : Env) (d : Die) (k : Nat) : Die := ((d.count (64 + 8 * k + 2) 128).count (64 + 8 * k + 7) 128).monitor e 0 k 1 128

theorem Die.wbCounted_within (e : Env) (d : Die) (k : Nat) : Within portCountTouch d (d.wbCounted e k) :=
  ((Die.count_within d _ _).trans (Die.count_within _ _ _)).trans (Die.monitor_within _ e 0 k 1 128)

/-- A WB joins the requests. -/
def Die.wbJoined (d : Die) (q : Req) : Die := { d with nid := d.nid + 1, coh.reqs := d.coh.reqs ++ [q] }

/-- The same, with the port stop's buffers freed where the WB stands in its home's. -/
def Die.wbStood (e : Env) (d : Die) (k : Nat) (q : Req) : Die :=
  let d := d.wbJoined q
  if d.wbHead e k (d.home e q.line) = some q.rid then d.wbFreed k else d

theorem exec_clpWb {s : State} {k : BitVec 6} {w : BitVec 56} {data : Line} (hon : s.d.portOn s.env k.toNat = true) (hinj : s.d.fire0 Cs.CLP_PARITY k.toNat = false) :
    exec (.clpWb k w true data) s = .next { s with d := (s.d.wbCounted s.env k.toNat).wbStood s.env k.toNat (wbReq s k.toNat w data) } := by
  have hw := s.d.wbCounted_within s.env k.toNat
  change execClpWb k w true data s = _
  unfold execClpWb
  extract_lets e d n d₁ q m d₂
  have hd₁ : d₁ = s.d.wbCounted s.env k.toNat := rfl
  have hnid : d₁.nid = s.d.nid := hw.nid
  have hq : q = wbReq s k.toNat w data := congrArg (fun i : Nat => ({ wbReq s k.toNat w data with rid := i } : Req)) hnid
  have hgood : ¬ ((!true) = true ∨ d₁.fire0 Cs.CLP_PARITY n = true) := by
    rw [hd₁, hw.fire0, hinj]
    exact not_or.2 ⟨Bool.false_ne_true, Bool.false_ne_true⟩
  rw [if_neg (by rw [hon]; exact Bool.false_ne_true), if_neg hgood]
  clear_value q
  subst hq
  rfl

theorem exec_clpWb_off {s : State} {k : BitVec 6} {w : BitVec 56} {data : Line} (hon : s.d.portOn s.env k.toNat = false) : exec (.clpWb k w true data) s = .next s := by
  change execClpWb k w true data s = _
  unfold execClpWb
  dsimp only
  rw [if_pos (by rw [hon]; rfl)] <;> rfl

/-- The head of a home's buffer, once a further WB of the same cluster for that home has joined. -/
theorem Die.wbHead_joined (e : Env) (d : Die) (q : Req) (hop : q.op = .wb) :
    (d.wbJoined q).wbHead e q.who (d.home e q.line) = (d.wbHead e q.who (d.home e q.line)).or (some q.rid) := by
  have hhome : ∀ l, (d.wbJoined q).home e l = d.home e l := fun l => rfl
  unfold Die.wbHead
  simp only [hhome]
  change ((d.coh.reqs ++ [q]).find? _).map _ = _
  rw [List.find?_append]
  have hself : [q].find? (fun y => decide (y.op = .wb) && decide (y.who = q.who ∧ d.home e y.line = d.home e q.line)) = some q :=
    List.find?_cons_of_pos (by rw [decide_eq_true hop, decide_eq_true ⟨rfl, rfl⟩]; rfl)
  rw [hself]
  cases d.coh.reqs.find? (fun y => decide (y.op = .wb) && decide (y.who = q.who ∧ d.home e y.line = d.home e q.line)) <;> rfl

theorem Within.wbHead {p : Touch} {d t : Die} (h : Within p d t) (e : Env) (k n : Nat) (hc : p.coh = false := by rfl) (hs : p.sm = false := by rfl) :
    t.wbHead e k n = d.wbHead e k n := by
  unfold Die.wbHead
  rw [h.coh hc]
  simp only [fun l => h.home e l hs]

theorem clpWb_spec {s : State} {k : BitVec 6} {w : BitVec 56} {data : Line} (hon : s.d.portOn s.env k.toNat = true) (hinj : s.d.fire0 Cs.CLP_PARITY k.toNat = false) :
    ∃ t, exec (.clpWb k w true data) s = .next t ∧ t.d.coh.reqs = s.d.coh.reqs ++ [wbReq s k.toNat w data] ∧
      (s.d.wbHead s.env k.toNat (s.d.home s.env (bitsOf w.toNat 6 43)) = none → t.d.out = Msg.credit k.toNat 2 :: Msg.credit k.toNat 1 :: s.d.out) ∧
      (∀ r, s.d.wbHead s.env k.toNat (s.d.home s.env (bitsOf w.toNat 6 43)) = some r → r ≠ s.d.nid → t.d.out = s.d.out) ∧ t.d.mem = s.d.mem ∧ t.d.sf = s.d.sf ∧ t.env = s.env := by
  refine ⟨_, exec_clpWb hon hinj, ?_⟩
  have hw := s.d.wbCounted_within s.env k.toNat
  generalize s.d.wbCounted s.env k.toNat = y at hw ⊢
  unfold Die.wbStood
  have hhead : (y.wbJoined (wbReq s k.toNat w data)).wbHead s.env k.toNat (y.home s.env (bitsOf w.toNat 6 43)) =
      (y.wbHead s.env k.toNat (y.home s.env (bitsOf w.toNat 6 43))).or (some s.d.nid) := y.wbHead_joined s.env (wbReq s k.toNat w data) rfl
  rw [hw.wbHead, hw.home] at hhead
  have hz : Within { nid := true, coh := true } y (y.wbJoined (wbReq s k.toNat w data)) := (Die.setNid_within y _).trans (Die.setCoh_within { y with nid := _ } _)
  have hreqs : (y.wbJoined (wbReq s k.toNat w data)).coh.reqs = s.d.coh.reqs ++ [wbReq s k.toNat w data] := congrArg (fun x : Coh => x.reqs ++ [wbReq s k.toNat w data]) hw.coh
  generalize y.wbJoined (wbReq s k.toNat w data) = z at hhead hz hreqs ⊢
  dsimp only
  have hline : (wbReq s k.toNat w data).line = bitsOf w.toNat 6 43 := rfl
  have hrid : (wbReq s k.toNat w data).rid = s.d.nid := rfl
  rw [hz.home, hw.home, hline, hrid, hhead]
  have hmem : z.mem = s.d.mem := hz.mem.trans hw.mem
  have hsf : z.sf = s.d.sf := hz.sf.trans hw.sf
  have hout : z.out = s.d.out := hz.out.trans hw.out
  rcases hfirst : s.d.wbHead s.env k.toNat (s.d.home s.env (bitsOf w.toNat 6 43)) with _ | r
  · rw [Option.none_or, if_pos rfl]
    exact ⟨hreqs, fun _ => congrArg (fun l => Msg.credit k.toNat 2 :: Msg.credit k.toNat 1 :: l) hout, (fun r h => nomatch h), hmem, hsf, rfl⟩
  · rw [Option.some_or]
    by_cases hr : r = s.d.nid
    · rw [if_pos (congrArg some hr)]
      exact ⟨hreqs, (fun h => nomatch h), fun x hx hne => absurd ((Option.some.inj hx).symm.trans hr) hne, hmem, hsf, rfl⟩
    · rw [if_neg (fun h => hr (Option.some.inj h))]
      exact ⟨hreqs, (fun h => nomatch h), fun _ _ _ => hout, hmem, hsf, rfl⟩

theorem exec_creditReturn {s : State} {k : BitVec 6} (h : Tab.get 0 s.d.coh.credits (16 * k.toNat + 3) ≠ 0) (hon : s.d.portOn s.env k.toNat = true) :
    exec (.creditReturn (BitVec.ofNat 7 k.toNat) 3) s = .next { s with d := Die.snpPump s.env { s.d with coh := { s.d.coh with
      credits := Tab.set 0 s.d.coh.credits (16 * k.toNat + 3) (Tab.get 0 s.d.coh.credits (16 * k.toNat + 3) - 1) } } k.toNat } := by
  have hk : (BitVec.ofNat 7 k.toNat).toNat = k.toNat := by
    rw [BitVec.toNat_ofNat]
    exact Nat.mod_eq_of_lt (k.isLt.trans (by decide))
  have hlt : k.toNat < 64 := k.isLt
  change execCreditReturn _ _ s = _
  unfold execCreditReturn
  dsimp only
  rw [hk, if_pos hlt, if_pos ⟨rfl, h, hon⟩] <;> rfl

theorem exec_creditReturn_none {s : State} {k : BitVec 6} (h : Tab.get 0 s.d.coh.credits (16 * k.toNat + 3) = 0) :
    exec (.creditReturn (BitVec.ofNat 7 k.toNat) 3) s = .next s := by
  have hk : (BitVec.ofNat 7 k.toNat).toNat = k.toNat := by
    rw [BitVec.toNat_ofNat]
    exact Nat.mod_eq_of_lt (k.isLt.trans (by decide))
  have hlt : k.toNat < 64 := k.isLt
  change execCreditReturn _ _ s = _
  unfold execCreditReturn
  dsimp only
  rw [hk, if_pos hlt, if_neg (fun hc => hc.2.1 h)] <;> rfl

/-! ### O50 -/

/-- Settles O50: each message of a port by its row, and the credits that come back. -/
theorem clusterRequestsEnterThePortStop : Obligations.ClusterRequestsEnterThePortStop := by
  unfold Obligations.ClusterRequestsEnterThePortStop
  refine fun s k h beats => ⟨fun row op hrow => ?_, fun w data => ⟨clpWb_spec, exec_clpWb_off⟩, fun used hused => ⟨fun hne hon => ?_, fun hz => ?_⟩, ⟨_, rfl, rfl⟩, ⟨_, rfl, rfl⟩⟩
  · rcases List.mem_append.1 hrow with hrow | hrow
    · rcases List.mem_cons.1 hrow with hrow | hrow
      · cases hrow
        exact clusterRequest fun p => rfl
      · cases List.mem_singleton.1 hrow
        exact clusterRequest fun p => rfl
    · split at hrow
      next hbeats =>
        cases List.mem_singleton.1 hrow
        subst hbeats
        exact clusterRequest fun p => rfl
      next => cases hrow
  · subst hused
    exact exec_creditReturn hne hon
  · exact exec_creditReturn_none (hused.symm.trans hz)

end Sys2Proof.Machine
end

section
/-! PROOF. Requests at their homes (O51). -/

-- One proof after another: all at once, they ask for more threads than the check's memory limit admits.
set_option Elab.async false

namespace Sys2Proof.Machine

/-! ### What a home answers with -/

/-- The answer of a home to a request has the form that its operation asks for. -/
def Req.answers (q : Req) (a : HomeAns) : Prop :=
  (∀ kind st, answerKind q = some (kind, st) → ∃ l, a = .line kind st l) ∧ (answerKind q = none → a = .comp)

theorem Act.Yields.throw {α : Type} {P : α → Prop} (f : Fail) : Act.Yields (throw f : Act α) P := fun _ _ _ h => nomatch h

theorem sharedAct_yields (q : Req) : (sharedAct q).Yields (∃ l, · = .line 0 1 l) :=
  .bind fun _ => .bind fun _ => .bind fun _ => .bind fun _ => .bind fun _ => .bind fun _ => .bind fun x => .pure ⟨x, rfl⟩

theorem ownAct_yields (q : Req) : (ownAct q).Yields (∃ l, · = .line 0 2 l) :=
  .bind fun _ => .bind fun _ => .bind fun _ => .bind fun _ => .bind fun _ => .bind fun _ => .bind fun _ => .bind fun x => .pure ⟨x, rfl⟩

theorem onceAct_yields (q : Req) : (onceAct q).Yields (∃ l, · = .line (if q.tile then 1 else 0) 0 l) := .bind fun x => .pure ⟨x, rfl⟩

theorem writeAct_yields (q : Req) : (writeAct q).Yields (· = .comp) := .bind fun _ => .pure rfl

theorem atomicAct_yields (q : Req) : (atomicAct q).Yields (∃ l, · = .line 2 0 l) := .bind fun _ => .pure ⟨_, rfl⟩

theorem reduceAct_yields (q : Req) : (reduceAct q).Yields (· = .comp) := by
  refine .bind fun _ => .bind fun _ => ?_
  dsimp only
  refine .bind fun _ => ?_
  split
  · exact .bind fun _ => .throw _
  · exact .bind fun _ => .pure rfl

theorem reqAct_answers (q : Req) : (reqAct q).Yields q.answers := by
  intro e d a h
  unfold reqAct at h
  unfold Req.answers answerKind
  split at h
  · next hop => rw [hop]; exact ⟨fun _ _ hk => by cases hk; exact sharedAct_yields q e d a h, nofun⟩
  · next hop => rw [hop]; exact ⟨fun _ _ hk => by cases hk; exact ownAct_yields q e d a h, nofun⟩
  · next hop => rw [hop]; exact ⟨fun _ _ hk => by cases hk; exact onceAct_yields q e d a h, nofun⟩
  · next hop => rw [hop]; exact ⟨nofun, fun _ => writeAct_yields q e d a h⟩
  · next hop => rw [hop]; exact ⟨nofun, fun _ => writeAct_yields q e d a h⟩
  · next hop => rw [hop]; exact ⟨fun _ _ hk => by cases hk; exact atomicAct_yields q e d a h, nofun⟩
  · next hop => rw [hop]; exact ⟨nofun, fun _ => reduceAct_yields q e d a h⟩
  · exact absurd h nofun
  · exact absurd h nofun

/-! ### Requests by their numbers -/

theorem Die.req_rid {d : Die} {rid : Nat} {q : Req} (h : d.req rid = some q) : q.rid = rid := by
  simpa using List.find?_some h

theorem Die.req_setReq {d : Die} {q q' : Req} (h : d.req q.rid = some q) (hrid : q'.rid = q.rid) : (d.setReq q').req q.rid = some q' := by
  unfold Die.setReq Die.req at *
  dsimp only
  generalize d.coh.reqs = l at h ⊢
  induction l with
  | nil => exact absurd h nofun
  | cons x xs ih =>
    rw [List.map_cons, List.find?_cons]
    rw [List.find?_cons] at h
    by_cases hx : x.rid = q.rid
    · rw [if_pos (hx.trans hrid.symm), decide_eq_true hrid]
    · rw [if_neg (fun hc => hx (hc.trans hrid)), decide_eq_false hx]
      rw [decide_eq_false hx] at h
      exact ih h

/-- Acceptance gives the request its tracker and its place among the winners, and changes no register and no memory. -/
def Die.tracked (d : Die) (q : Req) (t : Nat) : Die := d.named.setReq { q with retried := false, told := false, tracker := some t, won := d.nid }

theorem Die.tracked_within (d : Die) (q : Req) (t : Nat) : Within { nid := true, coh := true } d (d.tracked q t) :=
  (Die.setNid_within d _).trans (Die.setCoh_within d.named _)

theorem Die.wins_within (e : Env) (d : Die) (line who at_ : Nat) : Within { coh := true } d (d.wins e line who at_) := by
  have hset : ∀ (u : Die) h l, Within { coh := true } u (u.setGrantQ h l) := fun u _ _ => Die.setCoh_within u _
  have hptr : ∀ (u : Die) p, Within { coh := true } u { u with coh.ptr := p } := fun u _ => Die.setCoh_within u _
  unfold Die.wins
  dsimp only
  split
  · split
    · exact hset d _ _
    · exact (hset d _ _).trans (hptr _ _)
  · split
    · exact .refl d
    · exact hptr d _

theorem Die.wins_regs (e : Env) (d : Die) (line who at_ : Nat) : (d.wins e line who at_).regs = d.regs := by
  unfold Die.wins
  dsimp only
  split <;> split <;> rfl

theorem Die.wins_reqs (e : Env) (d : Die) (line who at_ : Nat) : (d.wins e line who at_).coh.reqs = d.coh.reqs := by
  unfold Die.wins
  dsimp only
  split <;> split <;> rfl

/-! ### A request at its home -/

/-- The rows of the homes run the home's work for their operations. -/
theorem exec_homeRow {x : (Nat → Instr) × HomeOp} (hx : x ∈ homeRows) (rid : Nat) (s : State) : exec (x.1 rid) s = s.go (s.d.homeRow s.env rid x.2) := by
  unfold homeRows at hx
  simp only [List.mem_cons, List.not_mem_nil, or_false] at hx
  rcases hx with rfl | rfl | rfl | rfl | rfl | rfl | rfl <;> rfl

/-- The first accepted request of its requester, with no earlier winner before it, is performed. -/
theorem Die.homeGo_first {e : Env} {d : Die} {q f : Req} (hhead : (d.atHome e q.who (d.home e q.line)).head? = some f) (hrid : f.rid = q.rid)
    (hahead : d.queuedAhead q.line q.won = false) : d.homeGo e q = match attempt e d (.req q.rid) (reqAct q) with
      | .ok (.line kind st x) d => (d.endTxnOf e q true).rdat e q kind st x
      | .ok .comp d => (d.endTxnOf e q true).endReq q 0
      | .wait d => d
      | .stop s x d => (d.endTxnOf e q false).reqFail e q s x
      | .fault _ d => d := by
  unfold Die.homeGo
  dsimp only
  rw [hhead]
  dsimp only
  rw [if_neg (not_not_intro hrid), if_neg (ne_true_of_eq_false hahead)] <;> rfl

theorem Die.homeGo_later {e : Env} {d : Die} {q f : Req} (hhead : (d.atHome e q.who (d.home e q.line)).head? = some f)
    (h : f.rid ≠ q.rid ∨ d.queuedAhead q.line q.won = true) : d.homeGo e q = d := by
  unfold Die.homeGo
  dsimp only
  rw [hhead]
  dsimp only
  by_cases hrid : f.rid = q.rid
  · rw [if_neg (not_not_intro hrid), if_pos (h.resolve_left (not_not_intro hrid))]
  · rw [if_pos hrid]

theorem Die.homeRow_accepted {e : Env} {d : Die} {rid : Nat} {q : Req} (hq : d.req rid = some q) (hhomed : q.homed = true) (huse : q.use = none)
    (ht : q.tracker.isSome = true) : d.homeRow e rid q.op = d.homeGo e q := by
  unfold Die.homeRow
  rw [hq]
  dsimp only
  rw [if_neg (by simp [hhomed, huse]), if_pos ht]

/-- A new request that is the first of its requester at a home that runs. -/
theorem Die.homeRow_new {e : Env} {d : Die} {rid : Nat} {q : Req} (hq : d.req rid = some q) (hhomed : q.homed = true) (huse : q.use = none)
    (ht : q.tracker = none) (hrun : d.running (d.home e q.line / 8) = true) (hretr : q.retried = false)
    (hhead : (d.atHome e q.who (d.home e q.line)).head? = some q) :
    d.homeRow e rid q.op =
      if d.hasCredit e (.home (d.home e q.line)) .req rid = false ∨ d.wbFirst q = true then d
      else if 16 ≤ (d.wdrawList (d.home e q.line)).length then d.retryReq e q none
      else match d.inTheWay e q.line q.who q.at_ with
        | some c => d.retryReq e q (some c)
        | none =>
          if d.freeShared e (d.home e q.line) = 0 then d.retryReq e q none
          else match (List.range 112).find? (fun i => !((d.sharedUsed e (d.home e q.line)).contains (144 + i))) with
            | some i => (d.wins e q.line q.who q.at_).accept e q (144 + i)
            | none => d.retryReq e q none := by
  have hbefore : (d.atHome e q.who (d.home e q.line)).takeWhile (fun x => decide (x.rid ≠ rid)) = [] := by
    obtain ⟨l, hl⟩ : ∃ l, d.atHome e q.who (d.home e q.line) = q :: l := by
      cases hc : d.atHome e q.who (d.home e q.line) with
      | nil => rw [hc] at hhead; exact absurd hhead nofun
      | cons x xs => rw [hc] at hhead; exact ⟨xs, by rw [Option.some.inj hhead]⟩
    rw [hl, List.takeWhile_cons, Die.req_rid hq]
    simp
  unfold Die.homeRow
  rw [hq]
  dsimp only
  rw [if_neg (by simp [hhomed, huse]), if_neg (by simp [ht]), if_neg (by simp [hrun]), hbefore, if_neg (by simp [hretr])]
  simp only [Bool.not_eq_true', List.any_nil, Bool.false_eq_true, false_or] <;> rfl

/-- The clauses of a request that one of the homes' rows takes up. -/
theorem homeRows_spec {x : (Nat → Instr) × HomeOp} (hx : x ∈ homeRows) (s : State) (rid : Nat) (q : Req) (hq : s.d.req rid = some q) (hop : q.op = x.2)
    (hhomed : q.homed = true) (huse : q.use = none) :
    let h := s.d.home s.env q.line
    (∀ f a d, q.tracker.isSome = true → (s.d.atHome s.env q.who h).head? = some f → f.rid = rid → s.d.queuedAhead q.line q.won = false →
      attempt s.env s.d (.req rid) (reqAct q) = .ok a d →
      (∀ kind st, answerKind q = some (kind, st) → ∃ l, a = .line kind st l ∧ exec (x.1 rid) s = .next { s with d := (d.endTxnOf s.env q true).rdat s.env q kind st l }) ∧
      (answerKind q = none → exec (x.1 rid) s = .next { s with d := (d.endTxnOf s.env q true).endReq q 0 })) ∧
    (∀ f c u d, q.tracker.isSome = true → (s.d.atHome s.env q.who h).head? = some f → f.rid = rid → s.d.queuedAhead q.line q.won = false →
      attempt s.env s.d (.req rid) (reqAct q) = .stop c u d → exec (x.1 rid) s = .next { s with d := (d.endTxnOf s.env q false).reqFail s.env q c u }) ∧
    (∀ f, q.tracker.isSome = true → (s.d.atHome s.env q.who h).head? = some f → (f.rid ≠ rid ∨ s.d.queuedAhead q.line q.won = true) → exec (x.1 rid) s = .next s) ∧
    (q.tracker = none → s.d.running (h / 8) = true → q.retried = false → (s.d.atHome s.env q.who h).head? = some q →
      ((s.d.hasCredit s.env (.home h) .req rid = false ∨ s.d.wbFirst q = true) → exec (x.1 rid) s = .next s) ∧
      (s.d.hasCredit s.env (.home h) .req rid = true → s.d.wbFirst q = false →
        (16 ≤ (s.d.wdrawList h).length → exec (x.1 rid) s = .next { s with d := s.d.retryReq s.env q none }) ∧
        ((s.d.wdrawList h).length < 16 →
          (∀ c, s.d.inTheWay s.env q.line q.who q.at_ = some c → exec (x.1 rid) s = .next { s with d := s.d.retryReq s.env q (some c) }) ∧
          (s.d.inTheWay s.env q.line q.who q.at_ = none →
            (s.d.freeShared s.env h = 0 → exec (x.1 rid) s = .next { s with d := s.d.retryReq s.env q none }) ∧
            (s.d.freeShared s.env h ≠ 0 → ∀ i, (List.range 112).find? (fun i => !((s.d.sharedUsed s.env h).contains (144 + i))) = some i →
              ∃ d₁ : Die, exec (x.1 rid) s = .next { s with d := d₁.homeGo s.env { q with told := false, tracker := some (144 + i), won := s.d.nid } } ∧
                d₁.req rid = some { q with told := false, tracker := some (144 + i), won := s.d.nid } ∧ d₁.regs = s.d.regs ∧ d₁.mem = s.d.mem))))) := by
  have hrid := Die.req_rid hq
  have hexec := exec_homeRow hx rid s
  rw [← hop] at hexec
  dsimp only
  refine ⟨fun f a d ht hhead hf hahead hok => ?_, fun f c u d ht hhead hf hahead hstop => ?_, fun f ht hhead h => ?_, fun ht hrun hretr hhead => ?_⟩
  · have hgo := (Die.homeRow_accepted hq hhomed huse ht).trans (Die.homeGo_first hhead (hf.trans hrid.symm) hahead)
    rw [hrid, hok] at hgo
    obtain ⟨hline, hcomp⟩ := (reqAct_answers q).attempt hok
    refine ⟨fun kind st hk => ?_, fun hk => ?_⟩
    · obtain ⟨l, rfl⟩ := hline kind st hk
      exact ⟨l, rfl, by rw [hexec, hgo] <;> rfl⟩
    · obtain rfl := hcomp hk
      rw [hexec, hgo] <;> rfl
  · have hgo := (Die.homeRow_accepted hq hhomed huse ht).trans (Die.homeGo_first hhead (hf.trans hrid.symm) hahead)
    rw [hrid, hstop] at hgo
    rw [hexec, hgo] <;> rfl
  · rw [hexec, Die.homeRow_accepted hq hhomed huse ht, Die.homeGo_later hhead (by rw [hrid]; exact h)] <;> rfl
  · rw [Die.homeRow_new hq hhomed huse ht hrun hretr hhead] at hexec
    refine ⟨fun h => by rw [hexec, if_pos h] <;> rfl, fun hcred hwb => ?_⟩
    rw [if_neg (by rintro (h | h) <;> simp_all)] at hexec
    refine ⟨fun h => by rw [hexec, if_pos h] <;> rfl, fun hw => ?_⟩
    rw [if_neg (by omega)] at hexec
    refine ⟨fun c h => by rw [hexec, h] <;> rfl, fun hway => ?_⟩
    rw [hway] at hexec
    dsimp only at hexec
    refine ⟨fun h => by rw [hexec, if_pos h] <;> rfl, fun hfree i hi => ?_⟩
    rw [if_neg hfree, hi] at hexec
    have hq' : ({ q with retried := false, told := false, tracker := some (144 + i), won := (s.d.wins s.env q.line q.who q.at_).nid } : Req) =
        { q with told := false, tracker := some (144 + i), won := s.d.nid } := by
      rw [(Die.wins_within s.env s.d q.line q.who q.at_).nid rfl, ← hretr]
    have hw := (Die.wins_within s.env s.d q.line q.who q.at_).mono.trans (Die.tracked_within _ q (144 + i))
    refine ⟨(s.d.wins s.env q.line q.who q.at_).tracked q (144 + i), ?_, ?_, Die.wins_regs s.env s.d q.line q.who q.at_, hw.mem⟩
    · rw [hexec, ← hq'] <;> rfl
    · have hreq : (s.d.wins s.env q.line q.who q.at_).named.req q.rid = some q := by
        rw [← hq, ← hrid]
        unfold Die.req
        rw [← Die.wins_reqs s.env s.d q.line q.who q.at_] <;> rfl
      rw [← hrid, ← hq']
      exact Die.req_setReq hreq rfl

/-! ### Retries and grants -/

theorem execRetry_eq {s : State} {rid : Nat} {q : Req} (hq : s.d.req rid = some q) :
    exec (.retry rid) s = s.go (if q.retried ∧ !q.told then (s.d.setReq { q with told := true }).count (64 + 8 * q.who + 4) 1 else s.d) := by
  change execRetry rid s = _
  unfold execRetry
  dsimp only
  rw [hq]

theorem Die.setReq_within (d : Die) (q : Req) : Within { coh := true } d (d.setReq q) := Die.setCoh_within d _

theorem Die.count_reqs (d : Die) (id n : Nat) : (d.count id n).coh.reqs = d.coh.reqs := by
  rw [(Die.count_within (p := { ch := true }) d id n).coh]

/-- The later requests of a requester that were retried are resent with the one that its grant is for. -/
def Die.resent (d : Die) (l : List Req) : Die :=
  l.foldl (fun d x => if x.use.isSome then d else d.setReq { x with retried := false, told := false }) d

theorem Die.resent_within (d : Die) (l : List Req) : Within { coh := true } d (d.resent l) :=
  .foldl _ (fun u x => by
    split
    · exact .refl u
    · exact Die.setReq_within u _) l d

theorem Die.resent_regs (d : Die) (l : List Req) : (d.resent l).regs = d.regs :=
  foldl_invariant (·.regs = d.regs) _ (fun u x h => by
    split
    · exact h
    · exact h) l d rfl

theorem Die.resent_grants (d : Die) (l : List Req) : (d.resent l).coh.grants = d.coh.grants :=
  foldl_invariant (·.coh.grants = d.coh.grants) _ (fun u x h => by
    split
    · exact h
    · exact h) l d rfl

/-- The requests of one number, where there are any, are all resent. -/
def Die.standsResent (d : Die) (rid : Nat) : Prop := ∀ z ∈ d.coh.reqs, z.rid = rid → z.retried = false ∧ z.told = false

theorem Die.setReq_standsResent {d : Die} {q : Req} {rid : Nat} (hr : q.retried = false) (ht : q.told = false)
    (h : q.rid ≠ rid → d.standsResent rid) : (d.setReq q).standsResent rid := by
  intro z hz hrid
  obtain ⟨y, hy, hyz⟩ := List.mem_map.1 hz
  by_cases hyq : y.rid = q.rid
  · rw [if_pos hyq] at hyz
    exact hyz ▸ ⟨hr, ht⟩
  · rw [if_neg hyq] at hyz
    subst hyz
    exact h (fun hc => hyq (hrid.trans hc.symm)) y hy hrid

theorem Die.resent_stands (d : Die) (l : List Req) : ∀ y ∈ l, y.use = none → (d.resent l).standsResent y.rid :=
  foldl_reaches (p := fun (y : Req) (u : Die) => y.use = none → u.standsResent y.rid)
    (fun u y huse => by
      rw [if_neg (by simp [huse])]
      exact Die.setReq_standsResent rfl rfl fun h => absurd rfl h)
    (fun u y c h huse => by
      split
      · exact h huse
      · exact Die.setReq_standsResent rfl rfl fun _ => h huse) l d

theorem Die.setReq_keepsRid {d : Die} {q : Req} {rid : Nat} (h : ∃ z ∈ d.coh.reqs, z.rid = rid) : ∃ z ∈ (d.setReq q).coh.reqs, z.rid = rid := by
  obtain ⟨z, hz, hrid⟩ := h
  refine ⟨_, List.mem_map.2 ⟨z, hz, rfl⟩, ?_⟩
  split
  · next hc => exact hc.symm.trans hrid
  · exact hrid

theorem Die.resent_keepsRid {d : Die} (l : List Req) {rid : Nat} (h : ∃ z ∈ d.coh.reqs, z.rid = rid) : ∃ z ∈ (d.resent l).coh.reqs, z.rid = rid :=
  foldl_invariant (fun (u : Die) => ∃ z ∈ u.coh.reqs, z.rid = rid) _ (fun u x h => by
    split
    · exact h
    · exact Die.setReq_keepsRid h) l d h

/-- The grant of a home has been told, and the requester's later requests are resent. -/
def Die.grantTold (d : Die) (h who : Nat) (l : List Req) : Die :=
  ((d.setGrantQ h ((d.grantQ h).filter (fun y => decide (y.who ≠ who)))).count (lcCount h 9) 1).resent l

theorem Die.grantTold_within (d : Die) (h who : Nat) (l : List Req) : Within { coh := true, ch := true } d (d.grantTold h who l) :=
  ((Die.setCoh_within d _).trans (Die.count_within (d.setGrantQ h _) _ 1)).trans (Die.resent_within _ l).mono

theorem Die.grantTold_regs (d : Die) (h who : Nat) (l : List Req) : (d.grantTold h who l).regs = d.regs :=
  (Die.resent_regs _ l).trans (Die.count_regs _ _ _)

theorem Die.grantTold_grantQ (d : Die) (h who : Nat) (l : List Req) : (d.grantTold h who l).grantQ h = (d.grantQ h).filter (fun y => decide (y.who ≠ who)) := by
  unfold Die.grantTold
  generalize (d.grantQ h).filter (fun y => decide (y.who ≠ who)) = g
  change Tab.get [] _ h = _
  rw [Die.resent_grants, (Die.count_within (p := { ch := true }) _ _ _).coh]
  exact Tab.get_set_same ..

theorem Die.grantTold_resent {d : Die} {h who : Nat} {l : List Req} {y : Req} (hy : y ∈ l) (huse : y.use = none) (hstands : ∃ z ∈ d.coh.reqs, z.rid = y.rid) :
    ∃ z ∈ (d.grantTold h who l).coh.reqs, z.rid = y.rid ∧ z.retried = false ∧ z.told = false := by
  unfold Die.grantTold
  have hin : ∃ z ∈ ((d.setGrantQ h ((d.grantQ h).filter (fun y => decide (y.who ≠ who)))).count (lcCount h 9) 1).coh.reqs, z.rid = y.rid := by
    rw [Die.count_reqs]
    exact hstands
  obtain ⟨z, hz, hrid⟩ := Die.resent_keepsRid l hin
  exact ⟨z, hz, hrid, Die.resent_stands _ l y hy huse z hz hrid⟩

/-- GRANT of the requester whose turn it is. -/
theorem execGrant_turn {s : State} {rid : Nat} {q : Req} {x : GrantEnt} (hq : s.d.req rid = some q) (hretr : q.retried = true) (htold : q.told = true)
    (hfirst : (((s.d.atHome s.env q.who (s.d.home s.env q.line)).filter (·.retried)).head?).map (·.rid) = some rid)
    (hrun : s.d.running (s.d.home s.env q.line / 8) = true) (hnext : s.d.grantNext s.env (s.d.home s.env q.line) = some x) (hwho : x.who = q.who) :
    exec (.grant rid) s =
      let d₁ := s.d.grantTold (s.d.home s.env q.line) q.who (((s.d.atHome s.env q.who (s.d.home s.env q.line)).filter (·.retried)).drop 1)
      s.go (if q.use.isSome then (d₁.named.setReq { q with retried := false, told := false, tracker := some q.who, won := d₁.nid }).pump s.env
        else d₁.accept s.env q q.who) := by
  change execGrant rid s = _
  unfold execGrant
  dsimp only
  rw [hq]
  dsimp only
  rw [if_neg (by rw [hretr, htold, hfirst, hrun]; simp), hnext]
  dsimp only
  rw [if_neg (not_not_intro hwho), hwho] <;> rfl

theorem execGrant_idle {s : State} {rid : Nat} {q : Req} (hq : s.d.req rid = some q) (hretr : q.retried = false) : exec (.grant rid) s = .next s := by
  change execGrant rid s = _
  unfold execGrant
  dsimp only
  rw [hq]
  dsimp only
  rw [if_pos (by simp [hretr])]
  rfl

/-- The clauses of RETRY and GRANT. -/
theorem retryGrant_spec (s : State) (rid : Nat) (q : Req) (hq : s.d.req rid = some q) :
    (q.retried = true → q.told = false → ∃ t, exec (.retry rid) s = .next t ∧ t.d.coh.reqs = s.d.coh.reqs.map (fun x => if x.rid = q.rid then { q with told := true } else x) ∧ t.d.regs = s.d.regs ∧ t.d.mem = s.d.mem) ∧
    ((q.retried = false ∨ q.told = true) → exec (.retry rid) s = .next s) ∧
    (let h := s.d.home s.env q.line
     let mine := (s.d.atHome s.env q.who h).filter (·.retried)
     ∀ x, q.retried = true → q.told = true → (mine.head?).map (·.rid) = some rid → s.d.running (h / 8) = true → s.d.grantNext s.env h = some x → x.who = q.who →
      ∃ d₁ : Die, (q.use = none → exec (.grant rid) s = .next { s with d := d₁.accept s.env q q.who }) ∧
        (q.use ≠ none → exec (.grant rid) s = .next { s with d := (d₁.named.setReq { q with retried := false, told := false, tracker := some q.who, won := d₁.nid }).pump s.env }) ∧
        d₁.grantQ h = (s.d.grantQ h).filter (fun y => decide (y.who ≠ q.who)) ∧
        (∀ y ∈ mine.drop 1, y.use = none → ∃ z ∈ d₁.coh.reqs, z.rid = y.rid ∧ z.retried = false ∧ z.told = false) ∧ d₁.regs = s.d.regs ∧ d₁.mem = s.d.mem) ∧
    (q.retried = false → exec (.grant rid) s = .next s) := by
  refine ⟨fun hretr htold => ?_, fun h => ?_, ?_, execGrant_idle hq⟩
  · rw [execRetry_eq hq, if_pos ⟨hretr, by rw [htold]; rfl⟩]
    have hw : Within { coh := true, ch := true } s.d ((s.d.setReq { q with told := true }).count (64 + 8 * q.who + 4) 1) :=
      (Die.setReq_within s.d _).mono.trans (Die.count_within _ _ 1)
    exact ⟨_, rfl, Die.count_reqs _ _ _, Die.count_regs _ _ _, hw.mem⟩
  · rw [execRetry_eq hq, if_neg (by rintro ⟨h₁, h₂⟩; rcases h with h | h <;> simp_all)] <;> rfl
  · dsimp only
    intro x hretr htold hfirst hrun hnext hwho
    have hexec := execGrant_turn hq hretr htold hfirst hrun hnext hwho
    dsimp only at hexec
    refine ⟨s.d.grantTold (s.d.home s.env q.line) q.who (((s.d.atHome s.env q.who (s.d.home s.env q.line)).filter (·.retried)).drop 1), fun huse => ?_,
      fun huse => ?_, Die.grantTold_grantQ .., fun y hy huse => ?_, Die.grantTold_regs .., (Die.grantTold_within ..).mem⟩
    · rw [hexec, if_neg (by simp [huse])] <;> rfl
    · rw [hexec, if_pos (Option.isSome_iff_ne_none.2 huse)] <;> rfl
    · have hmem := List.mem_of_mem_filter (List.mem_of_mem_filter (List.mem_of_mem_drop hy))
      exact Die.grantTold_resent hy huse ⟨y, hmem, rfl⟩

/-! ### Writebacks -/

theorem Die.endWb_spec (e : Env) (d : Die) (w : Req) :
    Within { coh := true, out := true } d (d.endWb e w) ∧ (∀ y ∈ (d.endWb e w).coh.reqs, y.rid ≠ w.rid) ∧
      (d.fenced w.who = false → Msg.rsp w.who w.tag 1 0 ∈ (d.endWb e w).out) ∧ (d.fenced w.who = true → (d.endWb e w).out = d.out) := by
  have hd : Within { coh := true, out := true } d (d.dropReq w.rid) := Die.setCoh_within d _
  have hgone : ∀ y ∈ (d.dropReq w.rid).coh.reqs, y.rid ≠ w.rid := fun y hy => by simpa using (List.mem_filter.1 hy).2
  have hf : (d.dropReq w.rid).fenced w.who = d.fenced w.who := rfl
  unfold Die.endWb
  dsimp only
  rw [hf]
  by_cases hfenced : d.fenced w.who = true
  · rw [if_pos hfenced]
    exact ⟨hd, hgone, fun h => absurd (hfenced.symm.trans h) nofun, fun _ => rfl⟩
  · rw [if_neg hfenced]
    refine ⟨hd.trans ?_, ?_, fun _ => ?_, fun h => absurd h hfenced⟩
    · split
      · exact (Die.send_within _ _).trans ((Die.send_within _ _).trans (Die.send_within _ _))
      · exact Die.send_within _ _
    · split
      · exact hgone
      · exact hgone
    · split
      · exact List.mem_cons_of_mem _ (List.mem_cons_of_mem _ (List.mem_cons_self ..))
      · exact List.mem_cons_self ..

theorem Die.endWb_regs (e : Env) (d : Die) (w : Req) : (d.endWb e w).regs = d.regs := by
  unfold Die.endWb
  dsimp only
  split
  · rfl
  · split <;> rfl

theorem execWb_done {s : State} {rid : Nat} {q : Req} {d : Die} (hq : s.d.req rid = some q) (hop : q.op = .wb) (hrun : s.d.running (s.d.home s.env q.line / 8) = true)
    (hhead : s.d.wbHead s.env q.who (s.d.home s.env q.line) = some rid) (hact : s.d.activeTxn q.line = false)
    (hok : attempt s.env s.d (.req rid) (wbAct q) = .ok () d) : exec (.wb rid) s = .next { s with d := (d.endWb s.env q).pump s.env } := by
  change execWb rid s = _
  unfold execWb
  dsimp only
  rw [hq]
  dsimp only
  rw [if_neg (by simp [hop, hhead]), if_neg (by simp [hrun]), if_neg (by simp [hact]), hok]
  rfl

theorem execWb_behind {s : State} {rid : Nat} {q : Req} (hq : s.d.req rid = some q)
    (hhead : s.d.wbHead s.env q.who (s.d.home s.env q.line) ≠ some rid) : exec (.wb rid) s = .next s := by
  change execWb rid s = _
  unfold execWb
  dsimp only
  rw [hq]
  dsimp only
  rw [if_pos (.inr hhead)]
  rfl

/-! ### Prefetches -/

theorem Die.fire0_unarmed {d : Die} (h : d.bit F.AY_INJECT.ARM 0 = false) (c i : Nat) : d.fire0 c i = false := by
  unfold Die.fire0
  rw [h]
  rfl

theorem Act.go_pure {α : Type} (x : α) (e : Env) (d : Die) : (pure x : Act α).go e d = (.ok x, d) := rfl

theorem Act.go_read (e : Env) (d : Die) : (read : Act Env).go e d = (.ok e, d) := rfl

theorem Act.go_get (e : Env) (d : Die) : (get : Act Die).go e d = (.ok d, d) := rfl

theorem lcChecks_unarmed {d : Die} (harm : d.bit F.AY_INJECT.ARM 0 = false) (e : Env) (line reads : Nat) (ctx : Option Nat) :
    (lcChecks line reads ctx).go e d = (.ok (), d) := by
  unfold lcChecks
  simp only [Act.go_bind, Act.go_read, Act.go_get]
  split
  · rfl
  · simp only [Die.fire0_unarmed harm, Bool.false_and, List.find?_cons, List.find?_nil]
    rfl

theorem lcVisit_unarmed {d : Die} (harm : d.bit F.AY_INJECT.ARM 0 = false) (e : Env) (line reads : Nat) : (lcVisit line reads).go e d = (.ok (), d) := by
  unfold lcVisit
  simp only [Act.go_bind, Act.go_read, Act.go_get, lcChecks_unarmed harm]
  rfl

theorem dirLook_unarmed {d : Die} (harm : d.bit F.AY_INJECT.ARM 0 = false) (e : Env) (line : Nat) (ctx : Option Nat) : (dirLook line ctx).go e d = (.ok (), d) := by
  unfold dirLook
  simp only [Act.go_bind, Act.go_read, Act.go_get]
  split
  · simp only [Die.fire0_unarmed harm, harm, Bool.false_eq_true, false_and, if_false, List.find?_cons, List.find?_nil]
    rfl
  · rfl

/-- A prefetch that its home drops leaves the die as it is. -/
theorem prefetchAct_drops {e : Env} {d : Die} {q : Req} (harm : d.bit F.AY_INJECT.ARM 0 = false) (hdrops : d.pfDrops e q.line = true) :
    (prefetchAct q).go e d = (.ok (), d) := by
  unfold prefetchAct
  simp only [Act.go_bind, Act.go_read, Act.go_get, lcVisit_unarmed harm, dirLook_unarmed harm]
  rw [if_pos hdrops]
  rfl

theorem attempt_unchanged {α : Type} {e : Env} {d : Die} {use : Use} {a : Act α} {x : α} (htxns : d.coh.txns = []) (hgo : a.go e d = (.ok x, d)) :
    attempt e d use a = .ok x (d.forget use) := by
  unfold attempt
  dsimp only
  rw [Die.settleAll_none htxns, hgo, if_neg (by simp [Die.heldUp])]

theorem execPf_running {s : State} {rid : Nat} {q : Req} {d : Die} (hq : s.d.req rid = some q) (hop : q.op = .pf) (hrun : s.d.running (s.d.home s.env q.line / 8) = true)
    (hok : attempt s.env (s.d.dropReq rid) (.req rid) (prefetchAct q) = .ok () d) : exec (.pf rid) s = .next { s with d := d } := by
  change execPf rid s = _
  unfold execPf
  dsimp only
  rw [hq]
  dsimp only
  rw [if_neg (not_not_intro hop), if_neg (by simp [hrun]), hok]
  rfl

/-- Settles O51: a request that a home takes up goes through the conditions of R226 to R230 in their order, and what stands for it then is the
tracker that it took or the access that it made. -/
theorem homesPerformRetryAndGrantRequests : Obligations.HomesPerformRetryAndGrantRequests := by
  unfold Obligations.HomesPerformRetryAndGrantRequests
  refine ⟨fun x hx s rid q hq hop hhomed huse => homeRows_spec hx s rid q hq hop hhomed huse, fun s rid q hq => ?_⟩
  obtain ⟨hretry, hidle, hgrant, hnone⟩ := retryGrant_spec s rid q hq
  refine ⟨hretry, hidle, hgrant, hnone, fun hop hrun hhead hact d hok => ?_, fun _ hhead => execWb_behind hq hhead,
    fun hop hrun => ⟨fun htxns harm hdrops => ?_, fun d hok => execPf_running hq hop hrun hok⟩⟩
  · obtain ⟨hw, hgone, hrsp, hquiet⟩ := Die.endWb_spec s.env d q
    exact ⟨_, execWb_done hq hop hrun hhead hact hok, by rw [← Die.req_rid hq]; exact hgone, hrsp, hquiet, Die.endWb_regs .., hw.mem⟩
  · exact execPf_running hq hop hrun (attempt_unchanged (d := s.d.dropReq rid) htxns (prefetchAct_drops (d := s.d.dropReq rid) harm hdrops))

end Sys2Proof.Machine
end

section
/-! PROOF. O57: the way of a report through its reporter and the intake (R372), and what Assay makes of it. -/

-- One proof after another: all at once, they ask for more threads than the check's memory limit admits.
set_option Elab.async false

namespace Sys2Proof.Machine

/-! ### One change made to two dies that agree outside a footprint -/

theorem Within.setReg_congr {p : Touch} {d t : Die} (h : Within p d t) (r : Reg) (i w : Nat) (v : Word) : Within p (d.setReg r i w v) (t.setReg r i w v) := by
  refine ⟨?_, h.2⟩
  funext r'
  unfold Touch.leavesRegs
  cases hr : p.regs.contains r' with
  | true => rfl
  | false =>
    have htab := h.table r' hr
    change Tab.get [] (Tab.set [] t.regs r.ctorIdx _) r'.ctorIdx = Tab.get [] (Tab.set [] d.regs r.ctorIdx _) r'.ctorIdx
    by_cases hrr : r' = r
    · subst hrr
      rw [Tab.get_set_same, Tab.get_set_same, htab]
    · have hidx : r'.ctorIdx ≠ r.ctorIdx := fun he => hrr (Reg.ctorIdx_inj _ _ he)
      rw [Tab.get_set_ne [] t.regs hidx, Tab.get_set_ne [] d.regs hidx, htab]

theorem Within.setF_congr {p : Touch} {d t : Die} (h : Within p d t) (f : Fld) (i v : Nat) (hf : p.regs.contains f.reg = false) : Within p (d.setF f i v) (t.setF f i v) := by
  unfold Die.setF
  rw [h.reg f.reg i f.word hf]
  exact h.setReg_congr _ _ _ _

theorem Within.incSat_congr {p : Touch} {d t : Die} (h : Within p d t) (f : Fld) (i n : Nat) (hf : p.regs.contains f.reg = false := by rfl) :
    Within p (d.incSat f i n) (t.incSat f i n) := by
  unfold Die.incSat
  rw [h.getF f i hf]
  exact h.setF_congr f i _ hf

theorem Within.setAy_congr {p : Touch} {d t : Die} (h : Within p d t) (a : AssaySt) : Within p { d with ay := a } { t with ay := a } :=
  ⟨h.1, congrArg (fun l : Die => { l with ay := bif p.ay then {} else a }) h.2⟩

/-! ### A report leaves its reporter -/

/-- The report belongs to the reporter of `r`. -/
def mergedBehind (r : Report) (x : Nat × Nat × Nat) : Bool := decide (x.1 = unitCode r ∧ x.2.1 = r.inst)

/-- The reports merged behind `r` are counted. -/
def Die.countMerged (d : Die) (r : Report) : Die := (d.ay.merged.filter (mergedBehind r)).foldl (fun d x => d.incSat F.AY_COUNT.COUNT x.2.2 1) d

theorem Die.countMerged_within (d : Die) (r : Report) : Within { regs := [.AY_COUNT] } d (d.countMerged r) := by
  unfold Die.countMerged
  exact .foldl (fun (d : Die) (x : Nat × Nat × Nat) => d.incSat F.AY_COUNT.COUNT x.2.2 1) (fun y x => Die.incSat_within y F.AY_COUNT.COUNT x.2.2 1) _ d

theorem Within.countMerged {p : Touch} {d t : Die} (h : Within p d t) (r : Report) (hp : p.regs.contains .AY_COUNT = false := by rfl) (hay : p.ay = false := by rfl) :
    Within p (d.countMerged r) (t.countMerged r) := by
  unfold Die.countMerged
  rw [h.ay hay]
  generalize d.ay.merged.filter (mergedBehind r) = l
  induction l generalizing d t with
  | nil => exact h
  | cons x l ih => exact ih (h.incSat_congr F.AY_COUNT.COUNT x.2.2 1 hp)

/-- Assay's state once report `r` has left its place, and the oldest that its checker holds has taken it. -/
def AssaySt.leave (a : AssaySt) (r : Report) : AssaySt :=
  let b : AssaySt := { a with waiting := a.waiting.erase r, merged := a.merged.filter (fun x => !(mergedBehind r x)),
                              held := if a.waiting.contains r then a.held else a.held.erase r }
  match b.held.find? (fun x => decide (reporter x = reporter r)) with
  | some x => if (b.waiting.filter (fun y => decide (reporter y = reporter r))).length < 4 then { b with waiting := b.waiting ++ [x], held := b.held.erase x } else b
  | none => b

theorem Die.leaveReporter_eq (e : Env) (d : Die) (r : Report) :
    d.leaveReporter e r = (if d.ay.waiting.contains r || d.ay.held.contains r then r else { r with time := e.now }, { d.countMerged r with ay := d.ay.leave r }) := by
  have hm : ∀ d : Die, (d.ay.merged.filter (fun x => decide (x.1 = unitCode r ∧ x.2.1 = r.inst))).foldl (fun d x => d.incSat F.AY_COUNT.COUNT x.2.2 1) d = d.countMerged r := fun _ => rfl
  have hay : (d.countMerged r).ay = d.ay := (Die.countMerged_within d r).ay
  unfold Die.leaveReporter
  dsimp only
  rw [hm]
  generalize d.countMerged r = y at hay ⊢
  unfold AssaySt.leave Die.placed
  rw [← hay]
  dsimp only
  congr 1
  cases (if y.ay.waiting.contains r = true then y.ay.held else y.ay.held.erase r).find? (fun x => decide (reporter x = reporter r)) with
  | none => rfl
  | some x =>
    dsimp only
    split <;> rfl

theorem AssaySt.leave_intake (a : AssaySt) (r : Report) : (a.leave r).intake = a.intake ∧ (a.leave r).early = a.early := by
  unfold AssaySt.leave
  dsimp only
  split
  · split <;> exact ⟨rfl, rfl⟩
  · exact ⟨rfl, rfl⟩

theorem filter_erase_of_self {α : Type} [BEq α] [LawfulBEq α] (l : List α) (x : α) {q : α → Bool} (h : q x = true) : (l.erase x).filter q = (l.filter q).erase x := by
  induction l with
  | nil => rfl
  | cons y l ih =>
    by_cases hy : y = x
    · subst hy
      rw [List.erase_cons_head, List.filter_cons_of_pos h, List.erase_cons_head]
    · rw [List.erase_cons_tail (by simpa using hy)]
      cases hq : q y with
      | true => rw [List.filter_cons_of_pos hq, List.filter_cons_of_pos hq, List.erase_cons_tail (by simpa using hy), ih]
      | false => rw [List.filter_cons_of_neg (by rw [hq]; decide), List.filter_cons_of_neg (by rw [hq]; decide), ih]

/-- A report that stands among those that wait leaves its place to the oldest that its checker holds. -/
theorem AssaySt.leave_waiting (a : AssaySt) (r : Report) (hr : r ∈ a.waiting) :
    (a.held.find? (fun h => decide (reporter h = reporter r)) = none → (a.leave r).waiting = a.waiting.erase r) ∧
      (∀ h, a.held.find? (fun h => decide (reporter h = reporter r)) = some h → (a.waiting.filter (fun x => decide (reporter x = reporter r))).length ≤ 4 →
        (a.leave r).waiting = a.waiting.erase r ++ [h] ∧ (a.leave r).held = a.held.erase h) := by
  have hc : a.waiting.contains r = true := List.contains_iff_mem.2 hr
  unfold AssaySt.leave
  dsimp only
  rw [if_pos hc]
  refine ⟨fun hnone => by rw [hnone], fun h hsome hplaced => ?_⟩
  have hlen : ((a.waiting.erase r).filter (fun x => decide (reporter x = reporter r))).length < 4 := by
    have hmem : r ∈ a.waiting.filter (fun x => decide (reporter x = reporter r)) := List.mem_filter.2 ⟨hr, decide_eq_true rfl⟩
    have hpos := List.length_pos_of_mem hmem
    rw [filter_erase_of_self a.waiting r (decide_eq_true rfl), List.length_erase_of_mem hmem]
    omega
  rw [hsome]
  dsimp only
  rw [if_pos hlen]
  exact ⟨rfl, rfl⟩

theorem Die.nextReport_mem {d : Die} {r : Report} (h : d.nextReport = some r) : r ∈ d.ay.waiting := by
  unfold Die.nextReport at h
  have hgen : ∀ (l : List Report) (b : Option Report) (r : Report), l.foldl (fun (b : Option Report) x => match b with
      | none => some x
      | some y => if d.reportTurn (reporter x) < d.reportTurn (reporter y) then some x else b) b = some r → r ∈ l ∨ b = some r := by
    intro l
    induction l with
    | nil => exact fun b r h => .inr h
    | cons x l ih =>
      intro b r h
      rcases ih _ r h with h | h
      · exact .inl (List.mem_cons_of_mem _ h)
      · cases b with
        | none => exact .inl (by cases h; exact List.mem_cons_self ..)
        | some y =>
          dsimp only at h
          split at h
          · exact .inl (by cases h; exact List.mem_cons_self ..)
          · exact .inr h
  rcases hgen _ none r h with h | h
  · exact h
  · exact absurd h (by simp)

/-! ### The intake -/

/-- The die in which `y` has left its reporter. -/
def Die.left (d : Die) (y : Report) : Die := { d.countMerged y with ay := d.ay.leave y }

/-- The die whose intake queue has taken `y` as its one entry, with `l` in the queue. -/
def Die.through (d : Die) (y : Report) (l : List Report) : Die :=
  { (d.countMerged y).setF F.AY_STATUS.INTAKE_MAX 0 (max (d.getF F.AY_STATUS.INTAKE_MAX 0) 1) with ay := { d.ay.leave y with intake := l, rr := reporter y } }

theorem Die.setF_setAy (d : Die) (a : AssaySt) (f : Fld) (i v : Nat) : ({ d with ay := a } : Die).setF f i v = { d.setF f i v with ay := a } := rfl

theorem Die.getF_setAy (d : Die) (a : AssaySt) (f : Fld) (i : Nat) : ({ d with ay := a } : Die).getF f i = d.getF f i := rfl

theorem Die.through_spec (d : Die) (y : Report) (l : List Report) :
    Within { regs := [.AY_COUNT, .AY_STATUS], ay := true } d (d.through y l) ∧ (d.through y l).ay = { d.ay.leave y with intake := l, rr := reporter y } ∧
      (d.through y l).getF F.AY_STATUS.INTAKE_MAX 0 = max (d.getF F.AY_STATUS.INTAKE_MAX 0) 1 := by
  have hmax : max (d.getF F.AY_STATUS.INTAKE_MAX 0) 1 < 2 ^ F.AY_STATUS.INTAKE_MAX.width := max_lt (fieldOf_lt _ _ _) (by decide)
  unfold Die.through
  generalize max (d.getF F.AY_STATUS.INTAKE_MAX 0) 1 = n at hmax ⊢
  have hset : ((d.countMerged y).setF F.AY_STATUS.INTAKE_MAX 0 n).getF F.AY_STATUS.INTAKE_MAX 0 = n :=
    (Die.getF_setF_same _ _ 0 n (by decide)).trans (Nat.mod_eq_of_lt hmax)
  have hw : Within { regs := [.AY_COUNT, .AY_STATUS], ay := true } d ((d.countMerged y).setF F.AY_STATUS.INTAKE_MAX 0 n) :=
    (Die.countMerged_within d y).mono.trans (Die.setF_within _ _ 0 n)
  generalize (d.countMerged y).setF F.AY_STATUS.INTAKE_MAX 0 n = u at hset hw ⊢
  exact ⟨hw.trans (Die.setAy_within u _), rfl, (Die.getF_setAy u _ _ 0).trans hset⟩

theorem Die.enterIntake_eq {e : Env} {d : Die} {y : Report} (hy : y ∈ d.ay.waiting) (hempty : d.ay.intake = []) : d.enterIntake e y = d.through y [y] := by
  have hmax : (d.countMerged y).getF F.AY_STATUS.INTAKE_MAX 0 = d.getF F.AY_STATUS.INTAKE_MAX 0 := (Die.countMerged_within d y).getF _ 0
  have hin := (AssaySt.leave_intake d.ay y).1.trans hempty
  unfold Die.enterIntake Die.through
  rw [Die.leaveReporter_eq, List.contains_iff_mem.2 hy, ← hmax]
  generalize F.AY_STATUS.INTAKE_MAX = f
  dsimp only
  rw [Bool.true_or, if_pos rfl, hin, Die.setF_setAy, Die.getF_setAy]
  rfl

/-- What the classification of the one entry makes of the machine. -/
def State.classified (s : State) (z : Die) (y : Report) : State :=
  if repClass y = 3 then State.dieFault { s with d := z } y [] else { s with d := z.takeReport s.env y }

theorem State.classify_one {s : State} {w : Die} {y : Report} : State.classify { s with d := w.through y [y] } = s.classified (w.through y []) y := by
  unfold State.classify
  dsimp only
  rw [(Die.through_spec w y [y]).2.1]
  dsimp only
  unfold State.classified Die.through
  rfl

theorem Die.takeReport_intake (e : Env) (d : Die) (r : Report) : (d.takeReport e r).ay = d.ay := by
  cases hself : r.self with
  | true =>
    rw [Die.takeReport_self hself]
    exact (Die.reach_within (p := { regs := [.AY_INJ_REC], rose := true, rearmed := true }) d .AY_INJ_REC 0 r 0).ay
  | false =>
    obtain ⟨hslice, hother⟩ := Die.takeReport_checker (e := e) (d := d) hself
    by_cases h : repClass r = 2 ∧ r.slice.isSome = true
    · obtain ⟨h2, hs⟩ := h
      obtain ⟨sl, hs⟩ := Option.isSome_iff_exists.1 hs
      rw [hslice sl h2 hs, (Die.forceDisable_within e _ sl).ay, (Die.recorded_within e d r).ay]
    · rw [hother h, (Die.recorded_within e d r).ay]

/-! ### The DIE fault -/

/-- The stop of the die is recorded. -/
def Die.stopNoted (e : Env) (d : Die) (r : Report) : Die :=
  (((if d.bit F.AY_STATUS.STOPPED 0 then d else d.send (.alert 0)).setF F.AY_STATUS.HANDLING 0 1).setF F.AY_STATUS.STOPPED 0 1).reachNote e .AY_DIE_REC 0 r 3 true

/-- Assay starts anew, but for what a warm reset leaves of it. -/
def Die.assayEmptied (d : Die) : Die :=
  { d with ay := { d.ay with waiting := [], merged := [], held := [], intake := [], early := [], quiet := false } }

theorem State.dieFault_eq (s : State) (r : Report) :
    State.dieFault s r [] = State.warm { s with d := (((s.d.takeReport s.env r).stopNoted s.env r).incSat F.AY_RECOVERY.DIE_COUNT 0 1).assayEmptied } true := by
  unfold State.dieFault
  extract_lets e d first others d₁ d₂ d₃ d₄ d₅
  have hothers : others = [] := by simp [others, first]
  have hd₄ : d₄ = d₃ := by
    change others.foldl _ d₃ = d₃
    rw [hothers]
    rfl
  change State.warm { s with d := d₄.assayEmptied } true = _
  rw [hd₄]
  rfl

/-- What the note of the stop may change. -/
def stopNoteTouch : Touch := { regs := [.AY_STATUS, .AY_DIE_REC] ++ monRegs, ch := true, bt := true, out := true, rose := true, rearmed := true }

theorem Die.stopNoted_spec (e : Env) (d : Die) (r : Report) :
    Within stopNoteTouch d (d.stopNoted e r) ∧ (d.stopNoted e r).getF F.AY_STATUS.HANDLING 0 = 1 ∧ (d.stopNoted e r).getF F.AY_STATUS.STOPPED 0 = 1 ∧
      banked (d.unrearm .AY_DIE_REC 0) (d.stopNoted e r) .AY_DIE_REC 0 r 3 := by
  unfold Die.stopNoted
  have halert : Within { regs := [.AY_STATUS], out := true } d (if d.bit F.AY_STATUS.STOPPED 0 then d else d.send (.alert 0)) := by
    split
    · exact .refl d
    · exact Die.send_within d _
  generalize (if d.bit F.AY_STATUS.STOPPED 0 then d else d.send (.alert 0)) = a at halert ⊢
  have hboth : Within { regs := [.AY_STATUS], out := true } d ((a.setF F.AY_STATUS.HANDLING 0 1).setF F.AY_STATUS.STOPPED 0 1) :=
    halert.trans ((Die.setF_within a _ 0 1).trans (Die.setF_within _ _ 0 1))
  have hstopped : ((a.setF F.AY_STATUS.HANDLING 0 1).setF F.AY_STATUS.STOPPED 0 1).getF F.AY_STATUS.STOPPED 0 = 1 := Die.getF_setF_same _ _ 0 1 (by decide)
  have hhandling : ((a.setF F.AY_STATUS.HANDLING 0 1).setF F.AY_STATUS.STOPPED 0 1).getF F.AY_STATUS.HANDLING 0 = 1 :=
    (Die.getF_setF_apart _ F.AY_STATUS.STOPPED F.AY_STATUS.HANDLING 0 1 (by decide)).trans (Die.getF_setF_same a _ 0 1 (by decide))
  generalize (a.setF F.AY_STATUS.HANDLING 0 1).setF F.AY_STATUS.STOPPED 0 1 = v at hboth hstopped hhandling ⊢
  have hreach := Die.reachNote_within e v .AY_DIE_REC 0 r 3 true
  have hbank := Die.reachNote_banked e v (b := .AY_DIE_REC) (by decide) 0 r 3 true
  refine ⟨hboth.mono.trans hreach.mono, (hreach.getF _ 0).trans hhandling, (hreach.getF _ 0).trans hstopped,
    banked_congr (fun w => ?_) (fun _ => rfl) hbank⟩
  exact ((hboth.sameBank .AY_DIE_REC 0).unrearm w).symm

/-- A DIE fault leaves its record, the stop, and a warm reset that keeps them. -/
theorem State.dieFault_stops (s : State) (r : Report) (h3 : repClass r = 3) (hself : r.self = false) : dieStops s (State.dieFault s r []) s.d r := by
  have htake : s.d.takeReport s.env r = s.d.recorded s.env r := (Die.takeReport_checker hself).2 (by omega)
  rw [State.dieFault_eq, htake]
  have hrec := Die.recorded_within s.env s.d r
  have hsame := (Die.recorded_spec s.env s.d r).2.2.2.2.2
  generalize s.d.recorded s.env r = u at hrec hsame
  obtain ⟨hnote, hhandling, hstopped, hbank⟩ := Die.stopNoted_spec s.env u r
  generalize u.stopNoted s.env r = v at hnote hhandling hstopped hbank
  have hcount : (v.incSat F.AY_RECOVERY.DIE_COUNT 0 1).getF F.AY_RECOVERY.DIE_COUNT 0 = min (s.d.getF F.AY_RECOVERY.DIE_COUNT 0 + 1) 65535 := by
    rw [Die.getF_incSat_same v _ 0 1 (by decide), hnote.getF F.AY_RECOVERY.DIE_COUNT 0, hrec.getF F.AY_RECOVERY.DIE_COUNT 0]
    rfl
  have hinc : Within { regs := [.AY_RECOVERY], ay := true } v (v.incSat F.AY_RECOVERY.DIE_COUNT 0 1) := Die.incSat_within v _ 0 1
  generalize v.incSat F.AY_RECOVERY.DIE_COUNT 0 1 = w at hcount hinc
  have hw : Within { regs := [.AY_RECOVERY], ay := true } v w.assayEmptied := hinc.trans (Die.setAy_within w _)
  have hcount' : w.assayEmptied.getF F.AY_RECOVERY.DIE_COUNT 0 = min (s.d.getF F.AY_RECOVERY.DIE_COUNT 0 + 1) 65535 := (Die.getF_setAy w _ _ 0).trans hcount
  generalize w.assayEmptied = z at hw hcount'
  obtain ⟨hregs, hfields, hphase, hdram, hay, hfrom⟩ := Die.warm_spec s.env z true
  unfold dieStops State.warm
  dsimp only
  generalize z.warm s.env true = t at hregs hfields hphase hdram hay hfrom
  have hkept : ∀ f ∈ ([F.AY_STATUS.HANDLING, F.AY_STATUS.STOPPED] : List Fld), f ∈ keptFields ∧ f.width = 1 := by decide
  have hbit : ∀ f ∈ ([F.AY_STATUS.HANDLING, F.AY_STATUS.STOPPED] : List Fld), z.getF f 0 = 1 → t.bit f 0 = true := fun f hf h =>
    (Die.bit_iff_getF t f 0 (hkept f hf).2).2 ((hfields f (hkept f hf).1).trans h)
  refine ⟨banked_congr (fun i => ?_) (fun i => ?_) hbank, hphase, hbit _ (by decide) ((hw.getF _ 0).trans hhandling), hbit _ (by decide) ((hw.getF _ 0).trans hstopped), ?_,
    by rw [hay], hdram.trans (hw.dram.trans (hnote.dram.trans hrec.dram)), hfrom, rfl, rfl⟩
  · exact (hsame.unrearm i).symm
  · exact (hregs .AY_DIE_REC (by decide) 0 i).trans (hw.reg .AY_DIE_REC 0 i)
  · have hreg : ∀ i, t.reg .AY_RECOVERY 0 i = z.reg .AY_RECOVERY 0 i := hregs .AY_RECOVERY (by decide) 0
    exact (Die.bit_congr hreg F.AY_RECOVERY.DIE_COUNT rfl).trans hcount'

/-- The die in which the fault stands may differ in what a DIE fault does not read. -/
theorem dieStops_congr {s s' t : State} {x z : Die} {r : Report} (h : dieStops s' t z r) (hbank : sameBank x z .AY_DIE_REC 0)
    (hcount : z.getF F.AY_RECOVERY.DIE_COUNT 0 = x.getF F.AY_RECOVERY.DIE_COUNT 0) (hdram : s'.d.mem.dram = s.d.mem.dram) (henv : s'.env = s.env)
    (hpending : s'.pending = s.pending) : dieStops s t x r := by
  obtain ⟨hbanked, hphase, hhandling, hstopped, hdie, hwaiting, hmem, hfrom, hreset, hpend⟩ := h
  exact ⟨banked_congr (fun i => (hbank.unrearm i).symm) (fun _ => rfl) hbanked, hphase, hhandling, hstopped, hdie.trans (by rw [hcount]), hwaiting, hmem.trans hdram, hfrom,
    hreset.trans (by rw [henv]), hpend.trans hpending⟩

/-! ### What the intake makes of a report -/

/-- The report whose turn it is enters the empty queue and is classified. -/
theorem State.classifyAll_turn {s : State} {w : Die} {y : Report} {n : Nat} (hn : 0 < n) (hturn : w.nextReport = some y) (hempty : w.ay.intake = []) :
    State.classifyAll (n + 1) (State.enterUntil y n { s with d := w }) = s.classified (w.through y []) y := by
  have henter : State.enterUntil y n { s with d := w } = { s with d := w.through y [y] } := by
    have hlen : ¬ w.ay.intake.length ≥ 256 := by rw [hempty]; decide
    obtain ⟨n, rfl⟩ := Nat.exists_eq_add_of_lt hn
    rw [Nat.zero_add]
    unfold State.enterUntil
    dsimp only
    rw [hturn]
    dsimp only
    rw [if_pos (rfl : y = y), if_neg hlen, Die.enterIntake_eq (Die.nextReport_mem hturn) hempty]
  have hdone : ∀ k, State.classifyAll k (s.classified (w.through y []) y) = s.classified (w.through y []) y := by
    have hnone : (s.classified (w.through y []) y).d.ay.intake = [] := by
      unfold State.classified
      split
      · rw [State.dieFault_eq]
        exact congrArg (·.intake) (Die.warm_spec _ _ true).2.2.2.2.1
      · exact (congrArg (·.intake) (Die.takeReport_intake s.env _ y)).trans (congrArg (·.intake) (Die.through_spec w y []).2.1)
    intro k
    cases k with
    | zero => rfl
    | succ k =>
      unfold State.classifyAll
      rw [if_pos hnone]
  rw [henter]
  unfold State.classifyAll
  rw [if_neg (by rw [(Die.through_spec w y [y]).2.1]; exact List.cons_ne_nil _ _), State.classify_one]
  exact hdone n

/-- What waits of the die goes on. -/
def State.pumped (s : State) : State := { s with d := s.d.pump s.env }

/-- A report that stands and whose turn it is goes through the empty queue. -/
theorem intake_standing {s : State} {r : Report} (hcause : r.cause < 43) (hpower : s.d.bt.pwrGood = true) (hhandling : s.d.bit F.AY_STATUS.HANDLING 0 = false)
    (hclass : alwaysDie r = false) (hearly : r ∉ s.d.ay.early) (hempty : s.d.ay.intake = []) (hturn : s.d.nextReport = some r) :
    let u := s.classified (s.d.through r []) r
    exec (.assayReport r) s = .next { u with d := u.d.pump u.env } := by
  have hmem := Die.nextReport_mem hturn
  have hin : s.d.ay.waiting.contains r = true := List.contains_iff_mem.2 hmem
  have hpos : 0 < s.d.ay.waiting.length + s.d.ay.held.length := Nat.add_pos_left (List.length_pos_of_mem hmem) _
  have hnot : s.d.ay.early.contains r ≠ true := fun h => hearly (List.contains_iff_mem.1 h)
  have hgo := State.classifyAll_turn (s := s) hpos hturn hempty
  change (if r.cause < 43 then _ else _) = _
  rw [if_pos hcause]
  unfold State.intake
  dsimp only
  rw [if_neg (by simp [hhandling, hpower]), if_neg hnot, if_neg (by simp [hclass]), hin]
  simp only [Bool.true_or, if_true]
  rw [hin]
  simp only [true_or, if_true]
  rw [hgo]

/-- A report that is detected now stands in its reporter, and an error of the fabric has been counted. -/
def Die.detected (e : Env) (d : Die) (y : Report) : Die :=
  (if y.cause = Cs.FABRIC_CE ∧ !y.self then (d.incSat F.RF_ERR.CE_COUNT 0 1).setF F.RF_ERR.LAST_CE_STOP 0 y.det0 else d).report e y

theorem Die.report_alone {e : Env} {d : Die} {y : Report} (hhandling : d.bit F.AY_STATUS.HANDLING 0 = false) (hnone : d.ay.waiting = []) (htime : y.time = e.now) :
    d.report e y = { d with ay := { d.ay with waiting := [y] } } := by
  have hy : ({ y with time := e.now } : Report) = y := by rw [← htime]
  have hplaced : d.placed (reporter y) < 4 := by unfold Die.placed; rw [hnone]; exact Nat.zero_lt_succ 3
  unfold Die.report
  extract_lets r
  have hr : r = y := hy
  clear_value r
  subst hr
  rw [if_neg (by rw [hhandling]; decide), if_pos hplaced, hnone]
  rfl

theorem Die.detected_spec {e : Env} {d : Die} {y : Report} (hhandling : d.bit F.AY_STATUS.HANDLING 0 = false) (hnone : d.ay.waiting = []) (htime : y.time = e.now) :
    Within { regs := [.RF_ERR] } ({ d with ay := { d.ay with waiting := [y] } } : Die) (d.detected e y) ∧
      (y.cause = Cs.FABRIC_CE → y.self = false → (d.detected e y).getF F.RF_ERR.CE_COUNT 0 = min (d.getF F.RF_ERR.CE_COUNT 0 + 1) (2 ^ 32 - 1) ∧
        (d.detected e y).getF F.RF_ERR.LAST_CE_STOP 0 = y.det0 % 2 ^ 8) ∧
      (y.self = true → Within {} ({ d with ay := { d.ay with waiting := [y] } } : Die) (d.detected e y)) := by
  unfold Die.detected
  by_cases hce : y.cause = Cs.FABRIC_CE ∧ (!y.self) = true
  · rw [if_pos hce]
    have hcount : ((d.incSat F.RF_ERR.CE_COUNT 0 1).setF F.RF_ERR.LAST_CE_STOP 0 y.det0).getF F.RF_ERR.CE_COUNT 0 = min (d.getF F.RF_ERR.CE_COUNT 0 + 1) (2 ^ 32 - 1) :=
      (Die.getF_setF_apart _ F.RF_ERR.LAST_CE_STOP F.RF_ERR.CE_COUNT 0 _ (by decide)).trans (Die.getF_incSat_same d _ 0 1 (by decide))
    have hlast : ((d.incSat F.RF_ERR.CE_COUNT 0 1).setF F.RF_ERR.LAST_CE_STOP 0 y.det0).getF F.RF_ERR.LAST_CE_STOP 0 = y.det0 % 2 ^ 8 :=
      Die.getF_setF_same _ _ 0 _ (by decide)
    have hw : Within { regs := [.RF_ERR] } d ((d.incSat F.RF_ERR.CE_COUNT 0 1).setF F.RF_ERR.LAST_CE_STOP 0 y.det0) :=
      (Die.incSat_within d _ 0 1).trans (Die.setF_within _ _ 0 _)
    generalize (d.incSat F.RF_ERR.CE_COUNT 0 1).setF F.RF_ERR.LAST_CE_STOP 0 y.det0 = u at hcount hlast hw ⊢
    rw [Die.report_alone ((hw.bit _ 0).trans hhandling) (by rw [hw.ay]; exact hnone) htime, hw.ay]
    exact ⟨hw.setAy_congr _, fun _ _ => ⟨(Die.getF_setAy u _ _ 0).trans hcount, (Die.getF_setAy u _ _ 0).trans hlast⟩, fun hs => absurd hce.2 (by rw [hs]; decide)⟩
  · rw [if_neg hce, Die.report_alone hhandling hnone htime]
    exact ⟨.refl _, fun h hs => absurd ⟨h, by rw [hs]; rfl⟩ hce, fun _ => .refl _⟩

/-- A report that is detected now, with nothing before it, goes through the empty queue. -/
theorem intake_detected {s : State} {r : Report} (hcause : r.cause < 43) (hpower : s.d.bt.pwrGood = true) (hhandling : s.d.bit F.AY_STATUS.HANDLING 0 = false)
    (hclass : alwaysDie r = false) (hearly : r ∉ s.d.ay.early) (hempty : s.d.ay.intake = []) (hwaiting : s.d.ay.waiting = []) (hheld : s.d.ay.held = []) :
    let y : Report := { r with time := s.env.now }
    let u := s.classified ((s.d.detected s.env y).through y []) y
    exec (.assayReport r) s = .next { u with d := u.d.pump u.env } := by
  intro y
  obtain ⟨hw, -⟩ := Die.detected_spec (e := s.env) (y := y) hhandling hwaiting rfl
  have hay : (s.d.detected s.env y).ay = { s.d.ay with waiting := [y] } := hw.ay
  have hturn : (s.d.detected s.env y).nextReport = some y := by
    unfold Die.nextReport
    rw [hay]
    rfl
  have hnot : s.d.ay.early.contains r ≠ true := fun h => hearly (List.contains_iff_mem.1 h)
  have hgo := State.classifyAll_turn (s := s) (n := 1) (by decide) hturn (by rw [hay]; exact hempty)
  have hone : (s.d.detected s.env y).ay.waiting.length + (s.d.detected s.env y).ay.held.length = 1 := by
    rw [hay]
    dsimp only
    rw [hheld]
    rfl
  have hstands : (s.d.detected s.env y).ay.waiting.contains y = true := by
    rw [hay]
    exact List.contains_iff_mem.2 (List.mem_cons_self ..)
  change (if r.cause < 43 then _ else _) = _
  rw [if_pos hcause]
  unfold State.intake
  dsimp only
  rw [if_neg (by simp [hhandling, hpower]), if_neg hnot, if_neg (by simp [hclass]), hwaiting, hheld]
  simp only [List.contains_nil, Bool.or_self, Bool.false_eq_true, if_false]
  change Host.Outcome.next (State.classifyAll ((s.d.detected s.env y).ay.waiting.length + (s.d.detected s.env y).ay.held.length + 1)
    (if (s.d.detected s.env y).ay.waiting.contains y ∨ (s.d.detected s.env y).ay.held.contains y then
      State.enterUntil y ((s.d.detected s.env y).ay.waiting.length + (s.d.detected s.env y).ay.held.length) { s with d := s.d.detected s.env y }
      else { s with d := s.d.detected s.env y })).pumped = _
  rw [hone, if_pos (.inl hstands), hgo] <;> rfl

/-! ### What a report below DIE leaves -/

theorem Die.left_through {rs : List Reg} {d w : Die} (y : Report) (h : Within { regs := rs } d w) (hcount : rs.contains .AY_COUNT = false := by rfl)
    (hstatus : rs.contains .AY_STATUS = false := by rfl) (hle : Touch.le { regs := rs } { regs := .AY_STATUS :: rs, ay := true } = true := by rfl) :
    Within { regs := .AY_STATUS :: rs, ay := true } (d.left y) (w.through y []) := by
  have hmax : w.getF F.AY_STATUS.INTAKE_MAX 0 = d.getF F.AY_STATUS.INTAKE_MAX 0 := h.getF _ 0 hstatus
  have hmerged : Within { regs := .AY_STATUS :: rs, ay := true } (d.countMerged y) (w.countMerged y) := (h.countMerged y hcount).mono hle
  unfold Die.left Die.through
  rw [h.ay, hmax]
  generalize max (d.getF F.AY_STATUS.INTAKE_MAX 0) 1 = n
  generalize d.countMerged y = p at hmerged ⊢
  generalize w.countMerged y = q at hmerged ⊢
  exact ((Die.setAy_within (p := { regs := .AY_STATUS :: rs, ay := true }) { p with ay := d.ay.leave y } _).trans (hmerged.setAy_congr _)).trans
    (Die.setF_within { q with ay := _ } _ 0 n)

/-- What a report may change besides what disables its slice. -/
def takenTouch : Touch :=
  { regs := [.AY_COUNT, .AY_CE_REC, .AY_CTX_REC, .AY_SLICE_REC, .AY_SLICE_PEND, .AY_SEC_REC, .AY_ALARM, .AY_INJ_REC] ++ monRegs,
    ch := true, bt := true, out := true, rose := true, rearmed := true }

/-- What a report records, and the disable of its slice where its class is SLICE. -/
def Die.noted (e : Env) (d : Die) (y : Report) : Die := if y.self then d.reach .AY_INJ_REC 0 y 0 else d.recorded e y

theorem Die.takeReport_noted (e : Env) (d : Die) (y : Report) :
    d.takeReport e y = match repClass y, y.slice with
      | 2, some sl => (d.noted e y).forceDisable e sl
      | _, _ => d.noted e y := by
  unfold Die.noted
  cases hself : y.self with
  | true =>
    have hzero : repClass y = 0 := by unfold repClass; rw [if_pos hself]
    rw [Die.takeReport_self hself, hzero, if_pos rfl] <;> cases y.slice <;> rfl
  | false =>
    obtain ⟨hslice, hother⟩ := Die.takeReport_checker (e := e) (d := d) hself
    rw [if_neg (by decide)]
    split
    · next sl h2 hs => exact hslice sl h2 hs
    · next h =>
        refine hother fun ⟨h2, hs⟩ => ?_
        obtain ⟨sl, hsl⟩ := Option.isSome_iff_exists.1 hs
        exact h sl h2 hsl

theorem Die.noted_within (e : Env) (d : Die) (y : Report) : Within takenTouch d (d.noted e y) := by
  unfold Die.noted
  split
  · exact Die.reach_within d .AY_INJ_REC 0 y 0
  · exact (Die.recorded_within e d y).mono

/-- What the record of a report holds, told from a die that agrees with the one it comes to in all that it reads. -/
theorem Die.noted_spec {e : Env} {x z : Die} {y : Report} (hxz : Within { regs := [.AY_STATUS, .RF_ERR], ay := true } x z)
    (hself : y.self = true → Within { regs := [.AY_STATUS], ay := true } x z) :
    (y.self = true → banked (x.unrearm .AY_INJ_REC 0) (z.noted e y) .AY_INJ_REC 0 y 0 ∧ keepsRegs x (z.noted e y) [.AY_INJ_REC, .AY_STATUS]) ∧
      (y.self = false →
        (z.noted e y).getF F.AY_COUNT.COUNT y.cause = min (x.getF F.AY_COUNT.COUNT y.cause + 1) (2 ^ 32 - 1) ∧
        (repClass y = 0 → banked (x.unrearm .AY_CE_REC 0) (z.noted e y) .AY_CE_REC 0 y 0) ∧
        (∀ c, repClass y = 1 → y.ctx = some c → banked (x.unrearm .AY_CTX_REC c) (z.noted e y) .AY_CTX_REC c y 1) ∧
        (∀ sl, y.slice = some sl → (repClass y = 2 ∨ (repClass y = 1 ∧ y.ctx = none)) → banked (x.unrearm .AY_SLICE_REC sl) (z.noted e y) .AY_SLICE_REC sl y (repClass y) ∧
          ((x.unrearm .AY_SLICE_REC sl).bit (F.REC.VALID .AY_SLICE_REC) sl = false → ((z.noted e y).getF F.AY_SLICE_PEND.PEND (sl / 64)).testBit (sl % 64) = true)) ∧
        ((causeRow y.cause).sec = true → (z.noted e y).getF F.AY_ALARM.SEC_ALARM 0 = 1 ∧ banked (x.unrearm .AY_SEC_REC 0) (z.noted e y) .AY_SEC_REC 0 y (repClass y))) := by
  have hbank : ∀ b ∈ recordBanks, ∀ i w, (x.unrearm b i).reg b i w = (z.unrearm b i).reg b i w := fun b hb i w => by
    have hno : ∀ b ∈ recordBanks, ({ regs := [.AY_STATUS, .RF_ERR], ay := true } : Touch).regs.contains b = false := by decide
    exact ((hxz.sameBank b i (hno b hb)).unrearm w).symm
  have htell : ∀ b ∈ recordBanks, ∀ i cls, banked (z.unrearm b i) (z.noted e y) b i y cls → banked (x.unrearm b i) (z.noted e y) b i y cls :=
    fun b hb i cls h => banked_congr (hbank b hb i) (fun _ => rfl) h
  refine ⟨fun hs => ?_, fun hs => ?_⟩
  · have hnoted : z.noted e y = z.reach .AY_INJ_REC 0 y 0 := by unfold Die.noted; rw [if_pos hs]
    rw [hnoted] at htell ⊢
    refine ⟨htell .AY_INJ_REC (by decide) 0 0 (Die.reach_banked z (by decide) 0 y 0), ?_⟩
    have hreach : Within { regs := [.AY_INJ_REC, .AY_STATUS], ay := true, rose := true, rearmed := true } z (z.reach .AY_INJ_REC 0 y 0) := Die.reach_within z .AY_INJ_REC 0 y 0
    exact ((hself hs).mono.trans hreach).keepsRegs
  · have hnoted : z.noted e y = z.recorded e y := by unfold Die.noted; rw [if_neg (by rw [hs]; decide)]
    obtain ⟨hcount, hce, hctx, hslice, hsec, -⟩ := Die.recorded_spec e z y
    rw [hnoted] at htell ⊢
    refine ⟨by rw [hcount, hxz.getF F.AY_COUNT.COUNT y.cause], fun h => htell _ (by decide) 0 0 (hce h), fun c h hc => htell _ (by decide) c 1 (hctx c h hc), fun sl hsl h => ?_,
      fun h => ⟨(hsec h).1, htell _ (by decide) 0 _ (hsec h).2⟩⟩
    obtain ⟨hb, hpend⟩ := hslice sl hsl h
    refine ⟨htell _ (by decide) sl _ hb, fun hv => hpend ?_⟩
    rw [← hv]
    unfold Die.bit
    rw [Die.bit_congr (hbank .AY_SLICE_REC (by decide) sl) _ rfl]

/-! ### One report at Assay -/

/-- What R372 to R377 ask of a report `y` that goes through the empty queue, where `x` is the die it has left its reporter in. -/
theorem passage_spec {s : State} {r y : Report} {d₀ w : Die} (hd₀ : d₀.mem = s.d.mem) (hw : Within { regs := [.RF_ERR] } d₀ w)
    (hself : y.self = true → Within {} d₀ w) (hy : y ∈ d₀.ay.waiting)
    (hce : y.cause = Cs.FABRIC_CE → y.self = false → s.d.ay.waiting = [] →
      w.getF F.RF_ERR.CE_COUNT 0 = min (d₀.getF F.RF_ERR.CE_COUNT 0 + 1) (2 ^ 32 - 1) ∧ w.getF F.RF_ERR.LAST_CE_STOP 0 = y.det0 % 2 ^ 8)
    (hexec : exec (.assayReport r) s = .next (s.classified (w.through y []) y).pumped) :
    let x := (d₀.leaveReporter s.env y).2
    (d₀.ay.held.find? (fun h => decide (reporter h = reporter y)) = none → x.ay.waiting = d₀.ay.waiting.erase y) ∧
    (∀ h, d₀.ay.held.find? (fun h => decide (reporter h = reporter y)) = some h → d₀.placed (reporter y) ≤ 4 →
      x.ay.waiting = d₀.ay.waiting.erase y ++ [h] ∧ x.ay.held = d₀.ay.held.erase h) ∧
    x.mem = s.d.mem ∧
    (repClass y < 3 → ∃ d₁ : Die,
      exec (.assayReport r) s = .next { s with d := Die.pump s.env (match repClass y, y.slice with | 2, some sl => d₁.forceDisable s.env sl | _, _ => d₁) } ∧
      (y.cause = Cs.FABRIC_CE → y.self = false → s.d.ay.waiting = [] →
        d₁.getF F.RF_ERR.CE_COUNT 0 = min (x.getF F.RF_ERR.CE_COUNT 0 + 1) (2 ^ 32 - 1) ∧ d₁.getF F.RF_ERR.LAST_CE_STOP 0 = y.det0 % 2 ^ 8) ∧
      d₁.getF F.AY_STATUS.INTAKE_MAX 0 = max (x.getF F.AY_STATUS.INTAKE_MAX 0) 1 ∧ d₁.ay.intake = [] ∧ d₁.ay.waiting = x.ay.waiting ∧ d₁.ay.rr = reporter y ∧
      (y.self = true → banked (x.unrearm .AY_INJ_REC 0) d₁ .AY_INJ_REC 0 y 0 ∧ keepsRegs x d₁ [.AY_INJ_REC, .AY_STATUS]) ∧
      (y.self = false →
        d₁.getF F.AY_COUNT.COUNT y.cause = min (x.getF F.AY_COUNT.COUNT y.cause + 1) (2 ^ 32 - 1) ∧
        (repClass y = 0 → banked (x.unrearm .AY_CE_REC 0) d₁ .AY_CE_REC 0 y 0) ∧
        (∀ c, repClass y = 1 → y.ctx = some c → banked (x.unrearm .AY_CTX_REC c) d₁ .AY_CTX_REC c y 1) ∧
        (∀ sl, y.slice = some sl → (repClass y = 2 ∨ (repClass y = 1 ∧ y.ctx = none)) → banked (x.unrearm .AY_SLICE_REC sl) d₁ .AY_SLICE_REC sl y (repClass y) ∧
          ((x.unrearm .AY_SLICE_REC sl).bit (F.REC.VALID .AY_SLICE_REC) sl = false → (d₁.getF F.AY_SLICE_PEND.PEND (sl / 64)).testBit (sl % 64) = true)) ∧
        ((causeRow y.cause).sec = true → d₁.getF F.AY_ALARM.SEC_ALARM 0 = 1 ∧ banked (x.unrearm .AY_SEC_REC 0) d₁ .AY_SEC_REC 0 y (repClass y)) ∧
        d₁.mem = s.d.mem)) ∧
    (repClass y = 3 → ∃ u : State, exec (.assayReport r) s = .next { u with d := u.d.pump u.env } ∧ dieStops s u x y) := by
  have hx : (d₀.leaveReporter s.env y).2 = d₀.left y := congrArg Prod.snd (Die.leaveReporter_eq s.env d₀ y)
  rw [hx]
  have hay : (d₀.left y).ay = d₀.ay.leave y := rfl
  have hleft : Within { regs := [.AY_COUNT], ay := true } d₀ (d₀.left y) := (Die.countMerged_within d₀ y).mono.trans (Die.setAy_within _ _)
  have hxz : Within { regs := [.AY_STATUS, .RF_ERR], ay := true } (d₀.left y) (w.through y []) := Die.left_through y hw
  have hxzs : y.self = true → Within { regs := [.AY_STATUS], ay := true } (d₀.left y) (w.through y []) := fun h => Die.left_through (rs := []) y (hself h)
  obtain ⟨hthrough, hzay, hzmax⟩ := Die.through_spec w y []
  rw [hw.ay] at hzay
  obtain ⟨hnone, hsome⟩ := AssaySt.leave_waiting d₀.ay y hy
  generalize d₀.left y = x at hay hleft hxz hxzs ⊢
  generalize w.through y [] = z at hexec hxz hxzs hthrough hzay hzmax
  refine ⟨fun h => by rw [hay]; exact hnone h, fun h hh hp => by rw [hay]; exact hsome h hh hp, hleft.mem.trans hd₀, fun hlow => ?_, fun h3 => ?_⟩
  · have hd₁ := Die.noted_within s.env z y
    obtain ⟨hinj, hchecker⟩ := Die.noted_spec (e := s.env) hxz hxzs
    refine ⟨z.noted s.env y, ?_, fun hc hs hempty => ?_, ?_, ?_, ?_, ?_, hinj, fun hs => ?_⟩
    · rw [hexec]
      unfold State.classified State.pumped
      rw [if_neg (by omega), Die.takeReport_noted]
    · obtain ⟨hcount, hlast⟩ := hce hc hs hempty
      rw [hd₁.getF F.RF_ERR.CE_COUNT 0, hd₁.getF F.RF_ERR.LAST_CE_STOP 0, hthrough.getF F.RF_ERR.CE_COUNT 0, hthrough.getF F.RF_ERR.LAST_CE_STOP 0,
        hleft.getF F.RF_ERR.CE_COUNT 0]
      exact ⟨hcount, hlast⟩
    · rw [hd₁.getF F.AY_STATUS.INTAKE_MAX 0, hzmax, hleft.getF F.AY_STATUS.INTAKE_MAX 0, hw.getF F.AY_STATUS.INTAKE_MAX 0]
    · rw [hd₁.ay, hzay]
    · rw [hd₁.ay, hzay, hay]
    · rw [hd₁.ay, hzay]
    · obtain ⟨hcount, hcerec, hctx, hslice, hsec⟩ := hchecker hs
      exact ⟨hcount, hcerec, hctx, hslice, hsec, hd₁.mem.trans (hxz.mem.trans (hleft.mem.trans hd₀))⟩
  · have hnotself : y.self = false := by
      cases hs : y.self with
      | false => rfl
      | true => unfold repClass at h3; rw [if_pos hs] at h3; exact absurd h3 (by decide)
    have hstops := State.dieFault_stops { s with d := z } y h3 hnotself
    refine ⟨State.dieFault { s with d := z } y [], ?_, dieStops_congr hstops (hxz.sameBank .AY_DIE_REC 0) (hxz.getF _ 0) ?_ rfl rfl⟩
    · rw [hexec]
      unfold State.classified State.pumped
      rw [if_pos h3]
    · exact congrArg (·.dram) (hxz.mem.trans (hleft.mem.trans hd₀))

/-! ### The dedicated line of a DIE fault -/

theorem repClass_of_alwaysDie {r : Report} (h : alwaysDie r = true) : repClass r = 3 ∧ r.self = false := by
  unfold alwaysDie at h
  obtain ⟨hkind, hself⟩ := Bool.and_eq_true_iff.1 h
  have hs : r.self = false := by simpa using hself
  unfold repClass
  rw [if_neg (by rw [hs]; decide), of_decide_eq_true hkind]
  exact ⟨rfl, hs⟩

theorem leaveReporter_die (e : Env) (d : Die) (r : Report) : alwaysDie (d.leaveReporter e r).1 = alwaysDie r := by
  rw [Die.leaveReporter_eq]
  dsimp only
  split <;> rfl

/-- A report that is DIE in every case, with no other of its cycle, stops the die. -/
theorem takeReport_die {s : State} {r : Report} (hpower : s.d.bt.pwrGood = true) (hhandling : s.d.bit F.AY_STATUS.HANDLING 0 = false) (hdie : alwaysDie r = true)
    (halone : ∀ y ∈ (s.d.leaveReporter s.env r).2.ay.waiting, alwaysDie y = true → y.time ≠ (s.d.leaveReporter s.env r).1.time) :
    dieStops s (s.takeReport r) (s.d.leaveReporter s.env r).2 (s.d.leaveReporter s.env r).1 := by
  obtain ⟨h3, hself⟩ := repClass_of_alwaysDie ((leaveReporter_die s.env s.d r).trans hdie)
  have hdram : (s.d.leaveReporter s.env r).2.mem.dram = s.d.mem.dram := by
    have hleft : Within { regs := [.AY_COUNT], ay := true } s.d (s.d.left r) := (Die.countMerged_within s.d r).mono.trans (Die.setAy_within _ _)
    rw [Die.leaveReporter_eq]
    exact hleft.dram
  unfold State.takeReport
  rw [if_neg (by simp [hhandling, hpower])]
  generalize s.d.leaveReporter s.env r = x at halone h3 hself hdram ⊢
  dsimp only
  have hmore : x.2.ay.waiting.filter (fun y => alwaysDie y && alwaysDie x.1 && decide (y.time = x.1.time)) = [] :=
    List.filter_eq_nil_iff.2 fun y hy hc => by
      simp only [Bool.and_eq_true, decide_eq_true_eq] at hc
      exact halone y hy hc.1.1 hc.2
  rw [if_pos h3, hmore]
  exact dieStops_congr (State.dieFault_stops { s with d := x.2 } x.1 h3 hself) ⟨fun _ => rfl, rfl⟩ rfl hdram rfl rfl

/-! ### Records re-armed -/

theorem execRecordRearm_eq {s : State} {who : Who} {off : BitVec 26} {v : Word} {r : Reg} {i : Nat} (hdec : Reg.decode off.toNat = some (r, i, 0))
    (hr : r ∈ ([.AY_DIE_REC, .AY_CE_REC, .AY_SEC_REC, .AY_INJ_REC, .AY_CTX_REC, .AY_SLICE_REC] : List Reg)) :
    exec (.recordRearm who off v) s = s.go (s.d.rearm s.env who r i 0 v) := by
  change execRecordRearm who off v s = _
  unfold execRecordRearm
  rw [hdec]
  dsimp only
  rw [if_pos hr]

/-- The banks that a write re-arms. -/
def rearmBanks : List Reg := [.AY_DIE_REC, .AY_CE_REC, .AY_SEC_REC, .AY_INJ_REC]

/-- The die after a write of a record bank that a write re-arms. -/
def Die.rearmedBy (e : Env) (d : Die) (r : Reg) (i : Nat) (v : Word) : Die :=
  if d.bit (F.REC.VALID r) i ∧ !((d.putWord e r i 0 v).bit (F.REC.VALID r) i) then
    { d.putWord e r i 0 v with rearmed := (r.ctorIdx, i, (List.range 8).map (fun w => d.reg r i w)) :: (d.putWord e r i 0 v).rearmed }
  else d.putWord e r i 0 v

theorem Die.rearm_bank {e : Env} {d : Die} {who : Who} {r : Reg} {i : Nat} {v : Word} (hr : r ∈ rearmBanks) (hgate : d.barGate e who r i = none) :
    d.rearm e who r i 0 v = d.rearmedBy e r i v := by
  unfold Die.rearm
  rw [Die.barWrite_of_gate _ hgate]
  unfold rearmBanks at hr
  simp only [List.mem_cons, List.not_mem_nil, or_false] at hr
  rcases hr with rfl | rfl | rfl | rfl <;> rfl

/-- Banks that no write re-arms ignore it. -/
theorem Die.rearm_ignored {e : Env} {d : Die} {who : Who} {r : Reg} {i : Nat} {v : Word} (hr : r ∈ ([.AY_CTX_REC, .AY_SLICE_REC] : List Reg))
    (hgate : d.barGate e who r i = none) : d.rearm e who r i 0 v = d := by
  unfold Die.rearm
  rw [Die.barWrite_of_gate _ hgate]
  simp only [List.mem_cons, List.not_mem_nil, or_false] at hr
  rcases hr with rfl | rfl <;> rfl

/-- Words written one after another stand where they were written. -/
theorem Die.reg_foldl_words (d : Die) (b : Reg) (i : Nat) (g : Nat → Word) (n w : Nat) (hw : w < n) :
    ((((List.range n).map g).zipIdx).foldl (fun (d : Die) (x : Word × Nat) => d.setReg b i x.2 x.1) d).reg b i w = g w := by
  induction n with
  | zero => exact absurd hw (Nat.not_lt_zero w)
  | succ n ih =>
    rw [List.range_succ, List.map_append, List.zipIdx_append, List.foldl_append, List.length_map, List.length_range, Nat.zero_add]
    change (Die.setReg _ b i n (g n)).reg b i w = g w
    by_cases hwn : w = n
    · rw [hwn, Die.reg_setReg_same]
    · rw [Die.reg_setReg_ne _ _ _ _ _ _ _ _ (.inr (fun hc => hwn (by omega)))]
      exact ih (by omega)

theorem Die.putWord_reg_ne (e : Env) (d : Die) (r : Reg) (i w w' : Nat) (v : Word) (h : w' ≠ w) : (d.putWord e r i w v).reg r i w' = d.reg r i w' :=
  Die.reg_setReg_ne _ _ _ _ _ _ _ _ (.inr (fun hc => h (by omega)))

theorem Die.getF_putWord_ro (e : Env) (d : Die) (r : Reg) (i : Nat) (v : Word) (f : Fld) (hf : f ∈ r.fields) (hacc : f.acc = .RO) :
    (d.putWord e r i 0 v).getF f i = d.getF f i := by
  have hreg := Reg.reg_of_mem_fields r f hf
  by_cases hw : f.word = 0
  · have h := Die.getF_putWord e d r i v f hf hreg
    rw [hw] at h
    rw [h]
    unfold Fld.written
    rw [hacc]
  · unfold Die.getF
    rw [hreg, Die.putWord_reg_ne e d r i 0 f.word v hw]

theorem rearmBanks_valid : ∀ r ∈ rearmBanks, F.REC.VALID r ∈ r.fields ∧ (F.REC.VALID r).word = 0 ∧ (F.REC.VALID r).acc = .W1C ∧ (F.REC.VALID r).width = 1 ∧
    (F.REC.VALID r).lo = 0 := by decide

theorem Die.rearmedBy_regs (e : Env) (d : Die) (r : Reg) (i : Nat) (v : Word) : (d.rearmedBy e r i v).regs = (d.putWord e r i 0 v).regs := by
  unfold Die.rearmedBy
  split <;> rfl

theorem Die.rearmedBy_eq (e : Env) (d : Die) (r : Reg) (i : Nat) (v : Word) :
    d.rearmedBy e r i v = { d with regs := (d.rearmedBy e r i v).regs, rearmed := (d.rearmedBy e r i v).rearmed } := by
  unfold Die.rearmedBy Die.putWord Die.setReg
  split <;> rfl

theorem Die.unrearm_head {d : Die} {r : Reg} {i : Nat} {l : List Word} {rest : List (Nat × Nat × List Word)} (h : d.rearmed = (r.ctorIdx, i, l) :: rest) (w : Nat) :
    (d.unrearm r i).reg r i w = (l.zipIdx.foldl (fun (d : Die) (x : Word × Nat) => d.setReg r i x.2 x.1) d).reg r i w := by
  unfold Die.unrearm
  rw [h, List.find?_cons_of_pos (by simp)]
  rfl

/-- A record that is re-armed holds what it held, if a report of this cycle reaches it. -/
theorem Die.unrearm_rearmedBy {e : Env} {d : Die} {r : Reg} {i : Nat} {v : Word} (hvalid : d.bit (F.REC.VALID r) i = true)
    (hcleared : (d.putWord e r i 0 v).bit (F.REC.VALID r) i = false) (w : Nat) (hw : w < 8) : ((d.rearmedBy e r i v).unrearm r i).reg r i w = d.reg r i w := by
  unfold Die.rearmedBy
  rw [if_pos ⟨hvalid, by rw [hcleared]; rfl⟩]
  generalize d.putWord e r i 0 v = u
  rw [Die.unrearm_head (rest := u.rearmed) rfl, Die.reg_foldl_words _ r i (fun w => d.reg r i w) 8 w hw]

/-- A 1 written to VALID of a record clears it, and nothing else that it records. -/
theorem rearm_spec {s : State} {who : Who} {off : BitVec 26} {v : Word} {r : Reg} {i : Nat} (hv : fieldOf v 0 1 = 1) (hr : r ∈ rearmBanks)
    (hdec : Reg.decode off.toNat = some (r, i, 0)) (hgate : s.d.barGate s.env who r i = none) :
    ∃ t, exec (.recordRearm who off v) s = .next t ∧ t.d.getF (F.REC.VALID r) i = (if s.d.risen (F.REC.VALID r) i then s.d.getF (F.REC.VALID r) i else 0) ∧
      (s.d.bit (F.REC.VALID r) i = true → s.d.risen (F.REC.VALID r) i = false → ∀ w < 8, (t.d.unrearm r i).reg r i w = s.d.reg r i w) ∧
      (∀ f ∈ r.fields, f.acc = .RO → t.d.getF f i = s.d.getF f i) ∧ keepsRegs s.d t.d [r] ∧
      t = { s with d := { s.d with regs := t.d.regs, rearmed := t.d.rearmed } } := by
  obtain ⟨hmem, hword, hacc, hwidth, hlo⟩ := rearmBanks_valid r hr
  have hlist : r ∈ ([.AY_DIE_REC, .AY_CE_REC, .AY_SEC_REC, .AY_INJ_REC, .AY_CTX_REC, .AY_SLICE_REC] : List Reg) := by
    unfold rearmBanks at hr
    simp only [List.mem_cons, List.not_mem_nil, or_false] at hr ⊢
    tauto
  have hput : (s.d.putWord s.env r i 0 v).getF (F.REC.VALID r) i = if s.d.risen (F.REC.VALID r) i then s.d.getF (F.REC.VALID r) i else 0 := by
    rw [Die.getF_putWord_w1c s.env s.d r i v _ hmem hword hacc hwidth (by rw [hlo]; decide), hlo, hv]
    split
    · exact Nat.mul_one _
    · exact Nat.mul_zero _
  have hregs := Die.rearmedBy_regs s.env s.d r i v
  refine ⟨{ s with d := s.d.rearmedBy s.env r i v }, ?_, (Die.getF_of_regs_eq hregs _ _).trans hput, fun hvalid hrisen w hw => ?_, fun f hf hro => ?_, ?_, ?_⟩
  · rw [execRecordRearm_eq hdec hlist, Die.rearm_bank hr hgate] <;> rfl
  · refine Die.unrearm_rearmedBy hvalid ?_ w hw
    rw [hrisen] at hput
    refine Bool.eq_false_iff.2 fun hc => ?_
    exact absurd (((Die.bit_iff_getF _ _ i hwidth).1 hc).symm.trans hput) (by simp)
  · exact (Die.getF_of_regs_eq hregs _ _).trans (Die.getF_putWord_ro s.env s.d r i v f hf hro)
  · intro r' hr' j w
    have hw : Within { regs := [r] } s.d (s.d.putWord s.env r i 0 v) := Die.putWord_within s.env s.d r i 0 v (by simp)
    have hkeep := hw.keepsRegs r' hr' j w
    unfold Die.reg at hkeep ⊢
    rw [hregs]
    exact hkeep
  · exact congrArg (fun d : Die => ({ s with d := d } : State)) (Die.rearmedBy_eq s.env s.d r i v)

/-- Settles O57: a report whose turn it is goes through the empty intake queue and reaches the banks of its class, and a DIE fault leaves its record over the
warm reset. -/
theorem reportsReachTheirRecords : Obligations.ReportsReachTheirRecords := by
  unfold Obligations.ReportsReachTheirRecords
  refine ⟨fun s r y d₀ hcause hpower hhandling hclass hearly hempty hway => ?_, fun s r hcause hpower hhandling hdie => ?_, fun s r => ⟨fun hclass => ?_, fun hhandling => ?_⟩,
    fun s who off v i hv => ⟨fun r hr hdec hgate => rearm_spec hv hr hdec hgate, fun r hr hdec hgate => ?_⟩⟩
  · rcases hway with ⟨rfl, rfl, hturn⟩ | ⟨rfl, hwaiting, hheld, rfl⟩
    · have hmem := Die.nextReport_mem hturn
      exact passage_spec rfl (.refl _) (fun _ => .refl _) hmem (fun _ _ hnone => absurd hmem (by rw [hnone]; exact List.not_mem_nil))
        (intake_standing hcause hpower hhandling hclass hearly hempty hturn)
    · obtain ⟨hw, hce, hself⟩ := Die.detected_spec (e := s.env) (y := { r with time := s.env.now }) hhandling hwaiting rfl
      exact passage_spec rfl hw hself (List.mem_cons_self ..) (fun hc hs _ => hce hc hs)
        (intake_detected hcause hpower hhandling hclass hearly hempty hwaiting hheld)
  · intro x halone
    refine ⟨s.takeReport r, ?_, takeReport_die hpower hhandling hdie halone, fun hearly => ?_⟩
    · change (if r.cause < 43 ∧ alwaysDie r = true then _ else _) = _
      rw [if_pos ⟨hcause, hdie⟩]
    · have hnot : s.d.ay.early.contains r ≠ true := fun h => hearly (List.contains_iff_mem.1 h)
      change (if r.cause < 43 then _ else _) = _
      rw [if_pos hcause]
      unfold State.intake
      dsimp only
      rw [if_neg (by simp [hhandling, hpower]), if_neg hnot, if_pos hdie]
  · change (if r.cause < 43 ∧ alwaysDie r = true then _ else _) = _
    rw [if_neg (by rw [hclass]; simp)]
  · have hstop : s.d.bit F.AY_STATUS.HANDLING 0 = true ∨ (!s.d.bt.pwrGood) = true := .inl hhandling
    refine ⟨?_, ?_⟩
    · change (if r.cause < 43 then _ else _) = _
      split
      · unfold State.intake
        dsimp only
        rw [if_pos hstop]
      · rfl
    · change (if r.cause < 43 ∧ alwaysDie r = true then _ else _) = _
      split
      · unfold State.takeReport
        rw [if_pos hstop]
      · rfl
  · have hlist : r ∈ ([.AY_DIE_REC, .AY_CE_REC, .AY_SEC_REC, .AY_INJ_REC, .AY_CTX_REC, .AY_SLICE_REC] : List Reg) := by
      simp only [List.mem_cons, List.not_mem_nil, or_false] at hr ⊢
      tauto
    rw [execRecordRearm_eq hdec hlist, Die.rearm_ignored hr hgate] <;> rfl

end Sys2Proof.Machine
end

section
/-! PROOF. What no access changes: the words of SF_RING_CTL, which says whose a ring is, and of ST_TICK, which counts the ticks. What the die does with
its arrays, its memory and its ports leaves them as they are, and so do the accesses that are made of it. -/

-- One proof after another: all at once, they ask for more threads than the check's memory limit admits.
set_option Elab.async false

namespace Sys2Proof.Machine

/-! ### The fixed words -/

/-- The words of SF_RING_CTL and of ST_TICK. -/
def fixedOf (r : Tab (Tab Word)) : Tab Word × Tab Word := (Tab.get [] r Reg.SF_RING_CTL.ctorIdx, Tab.get [] r Reg.ST_TICK.ctorIdx)

/-- A register that is neither of them. -/
def Reg.loose (r : Reg) : Bool := decide (r ≠ .SF_RING_CTL) && decide (r ≠ .ST_TICK)

theorem Within.fixed {p : Touch} {d t : Die} (h : Within p d t) (hp : p.regs.all Reg.loose = true := by rfl) : fixedOf t.regs = fixedOf d.regs := by
  have hno : ∀ r : Reg, r.loose = false → p.regs.contains r = false := fun r hr => by
    refine Bool.eq_false_iff.2 fun hc => ?_
    exact absurd (List.all_eq_true.1 hp r (List.contains_iff_mem.1 hc)) (by rw [hr]; decide)
  unfold fixedOf
  rw [h.table .SF_RING_CTL (hno _ rfl), h.table .ST_TICK (hno _ rfl)]

theorem foldl_fixed {β : Type} {f : Die → β → Die} (h : ∀ d x, fixedOf (f d x).regs = fixedOf d.regs) (l : List β) (d : Die) :
    fixedOf (l.foldl f d).regs = fixedOf d.regs := by
  induction l generalizing d with
  | nil => rfl
  | cons x xs ih => exact (ih _).trans (h d x)

@[simp] theorem Die.fixed_setF (d : Die) (f : Fld) (i v : Nat) (h : f.reg.loose = true) : fixedOf (d.setF f i v).regs = fixedOf d.regs :=
  Within.fixed (p := { regs := [f.reg] }) (Die.setF_within d f i v (by simp)) (by simp [h])

@[simp] theorem Die.fixed_incSat (d : Die) (f : Fld) (i n : Nat) (h : f.reg.loose = true) : fixedOf (d.incSat f i n).regs = fixedOf d.regs := d.fixed_setF f i _ h

@[simp] theorem Die.fixed_incWrap (d : Die) (f : Fld) (i n : Nat) (h : f.reg.loose = true) : fixedOf (d.incWrap f i n).regs = fixedOf d.regs := d.fixed_setF f i _ h

@[simp] theorem Die.fixed_setEvs (d : Die) (f : Fld) (i v : Nat) (h : f.reg.loose = true) : fixedOf (d.setEvs f i v).regs = fixedOf d.regs := d.fixed_setF f i _ h

@[simp] theorem Die.fixed_setEv (d : Die) (f : Fld) (i : Nat) (h : f.reg.loose = true) : fixedOf (d.setEv f i).regs = fixedOf d.regs := d.fixed_setF f i _ h

@[simp] theorem Die.fixed_clearElem (d : Die) (r : Reg) (i : Nat) (h : r.loose = true) : fixedOf (d.clearElem r i).regs = fixedOf d.regs :=
  Within.fixed (p := { regs := [r] }) (Die.clearElem_within d r i (by simp)) (by simp [h])

/-! ### Reports, regions and places -/

@[simp] theorem Die.fixed_report (e : Env) (d : Die) (r : Report) : fixedOf (d.report e r).regs = fixedOf d.regs :=
  (Die.report_within (p := { regs := [.AY_STATUS], ay := true }) e d r).fixed

@[simp] theorem Die.fixed_fired (d : Die) : fixedOf d.fired.regs = fixedOf d.regs := by
  unfold Die.fired
  simp (disch := decide)

@[simp] theorem Die.markInj_regs (d : Die) (n : Nat) : (d.markInj n).regs = d.regs := rfl

@[simp] theorem Die.fixed_monitor (e : Env) (d : Die) (k i dir n : Nat) : fixedOf (d.monitor e k i dir n).regs = fixedOf d.regs :=
  (Die.monitor_within d e k i dir n).fixed

@[simp] theorem Die.fixed_wake (e : Env) (d : Die) (r : Nat) : fixedOf (d.wake e r).regs = fixedOf d.regs := (Die.wake_within e d r).fixed

@[simp] theorem Die.entered_regs (d : Die) (r : Nat) : (d.entered r).regs = d.regs := by
  unfold Die.entered
  split <;> rfl

@[simp] theorem Die.setLc_regs (d : Die) (line : Nat) (x : Option LcLine) : (d.setLc line x).regs = d.regs := rfl
@[simp] theorem Die.setDir_regs (d : Die) (line : Nat) (x : Option DirEnt) : (d.setDir line x).regs = d.regs := rfl
@[simp] theorem Die.setSide_regs (d : Die) (h : Nat) (x : List Side) : (d.setSide h x).regs = d.regs := rfl
@[simp] theorem Die.takeSide_regs (e : Env) (d : Die) (line : Nat) : (d.takeSide e line).regs = d.regs := rfl
@[simp] theorem Die.stamp_regs (d : Die) : d.stamp.2.regs = d.regs := rfl
@[simp] theorem Die.touch_regs (d : Die) (line : Nat) (x : LcLine) : (d.touch line x).regs = d.regs := rfl
@[simp] theorem Die.setTag_regs (d : Die) (tl : Nat) (x : Option CLine) : (d.setTag tl x).regs = d.regs := rfl
@[simp] theorem Die.setTxn_regs (d : Die) (t : Txn) : (d.setTxn t).regs = d.regs := rfl
@[simp] theorem Die.dropTxn_regs (d : Die) (line : Nat) : (d.dropTxn line).regs = d.regs := rfl
@[simp] theorem Die.setReq_regs (d : Die) (q : Req) : (d.setReq q).regs = d.regs := rfl
@[simp] theorem Die.dropReq_regs (d : Die) (rid : Nat) : (d.dropReq rid).regs = d.regs := rfl
@[simp] theorem Die.forget_regs (d : Die) (use : Use) : (d.forget use).regs = d.regs := rfl
@[simp] theorem Die.setGrantQ_regs (d : Die) (h : Nat) (l : List GrantEnt) : (d.setGrantQ h l).regs = d.regs := rfl

@[simp] theorem Die.queueGrant_regs (d : Die) (h : Nat) (x : GrantEnt) : (d.queueGrant h x).regs = d.regs := by
  unfold Die.queueGrant
  split <;> rfl

@[simp] theorem Die.fixed_charge (e : Env) (d : Die) (line n : Nat) (w maint : Bool) : fixedOf (d.charge e line n w maint).regs = fixedOf d.regs :=
  (Die.charge_within e d line n w maint).fixed

@[simp] theorem Die.dropSide_regs (e : Env) (d : Die) (line : Nat) : (d.dropSide e line).regs = d.regs := by
  unfold Die.dropSide
  split
  · exact Die.count_regs _ _ _
  · rfl

@[simp] theorem Die.dropLine_regs (e : Env) (d : Die) (line : Nat) : (d.dropLine e line).regs = d.regs := Die.dropSide_regs e _ line

@[simp] theorem Die.addWdraw_regs (d : Die) (h p : Nat) : (d.addWdraw h p).regs = d.regs := by
  unfold Die.addWdraw
  dsimp only
  split <;> rfl

@[simp] theorem Die.fixed_setPage (d : Die) (p st owner orphan cause : Nat) : fixedOf (d.setPage p st owner orphan cause).regs = fixedOf d.regs := by
  unfold Die.setPage
  simp (disch := decide)

@[simp] theorem Die.fixed_withdraw (d : Die) (p cause : Nat) : fixedOf (d.withdraw p cause).regs = fixedOf d.regs := by
  unfold Die.withdraw
  dsimp only
  split
  · split <;> simp
  · split <;> simp
  · simp
  · rfl

@[simp] theorem Die.fixed_lostLine (e : Env) (d : Die) (line why cl rc : Nat) (ctx : Option Nat) : fixedOf (d.lostLine e line why cl rc ctx).regs = fixedOf d.regs := by
  unfold Die.lostLine
  dsimp only
  rw [Die.fixed_withdraw, Die.fixed_report]
  split <;> split <;> simp (disch := decide)

/-- The die in which a fabric checker has found the code of a message wrong, by an injection. -/
def Die.fabricHit (e : Env) (d : Die) (c i : Nat) : Die :=
  ((if c = Cs.FABRIC_CE then (d.fired.incSat F.RF_ERR.CE_COUNT 0 1).setF F.RF_ERR.LAST_CE_STOP 0 i else d.fired).report e { cause := c, inst := i, det0 := i }).markInj
    d.ay.waiting.length

theorem Die.fixed_fabricHit (e : Env) (d : Die) (c i : Nat) : fixedOf (d.fabricHit e c i).regs = fixedOf d.regs := by
  unfold Die.fabricHit
  rw [Die.markInj_regs, Die.fixed_report]
  split
  · rw [Die.fixed_setF _ _ _ _ rfl, Die.fixed_incSat _ _ _ _ rfl, Die.fixed_fired]
  · exact Die.fixed_fired d

@[simp] theorem Die.fixed_carry (e : Env) (d : Die) (a b : Place) (n : Nat) : fixedOf (d.carry e a b n).regs = fixedOf d.regs := by
  unfold Die.carry
  extract_lets u
  have hu : fixedOf u.regs = fixedOf d.regs := by
    dsimp only [u]
    split
    · rw [Die.entered_regs]
    · rfl
  clear_value u
  rw [← hu]
  split
  · rfl
  next m v _ =>
    have hv : fixedOf v.regs = fixedOf u.regs := by
      dsimp only [v, m]
      split
      · rfl
      · split <;> split <;> simp
    clear_value v
    rw [← hv]
    split
    · rfl
    · split
      · next x _ => exact Die.fixed_fabricHit e v x.1 x.2
      · rfl

theorem foldl_dropLine_regs (e : Env) (line p : Nat) (l : List Nat) (d : Die) :
    (l.foldl (fun d k => (d.dropLine e (line + k)).addWdraw (d.home e (line + k)) p) d).regs = d.regs := by
  induction l generalizing d with
  | nil => rfl
  | cons x xs ih => exact (ih _).trans (by simp)

@[simp] theorem Die.fixed_memUE (e : Env) (d : Die) (line : Nat) (nmap : Bool) (src : Nat) (ctx : Option Nat) : fixedOf (d.memUE e line nmap src ctx).regs = fixedOf d.regs := by
  unfold Die.memUE
  dsimp only
  rw [Die.fixed_withdraw, foldl_dropLine_regs, Die.fixed_report]
  split <;> simp (disch := decide)

@[simp] theorem Die.mcServed_regs (e : Env) (d : Die) (line : Nat) (s : Option Nat) : (d.mcServed e line s).regs = d.regs := by
  unfold Die.mcServed
  dsimp only
  split <;> split <;> rfl

@[simp] theorem Die.fixed_nmcClean (e : Env) (d : Die) (key : Nat) : fixedOf (d.nmcClean e key).regs = fixedOf d.regs := (Die.nmcClean_within e d key).fixed

@[simp] theorem Die.fixed_nmcFill (e : Env) (d : Die) (key : Nat) (x : Line) (dirty : Bool) : fixedOf (d.nmcFill e key x dirty).regs = fixedOf d.regs := by
  unfold Die.nmcFill
  dsimp only
  split
  · rfl
  · split
    · exact Die.fixed_nmcClean e d _
    · rfl

@[simp] theorem Die.fixed_putNull (e : Env) (d : Die) (line : Nat) (x : Line) (bits : Nat) : fixedOf (d.putNull e line x bits).regs = fixedOf d.regs := by
  unfold Die.putNull
  split
  · rfl
  · exact Die.fixed_nmcFill ..

@[simp] theorem Die.fixed_hmFail (e : Env) (d : Die) (k line : Nat) (ctx : Option Nat) : fixedOf (d.hmFail e k line ctx).regs = fixedOf d.regs := by
  unfold Die.hmFail
  dsimp only
  rw [Die.fixed_withdraw, Die.addWdraw_regs, Die.fixed_report]
  split <;> simp (disch := decide)

@[simp] theorem Die.fixed_watchFeed (d : Die) (line tch w : Nat) (x : Line) (rid : Option Nat) : fixedOf (d.watchFeed line tch w x rid).regs = fixedOf d.regs := by
  unfold Die.watchFeed
  split
  · rfl
  · split
    · split <;> rfl
    · exact Die.fixed_incSat d _ 0 1 rfl

/-! ### What leaves at the host port and the link ports -/

@[simp] theorem Die.fixed_hpSend (e : Env) (d : Die) (m : Msg) : fixedOf (d.hpSend e m).regs = fixedOf d.regs := (Die.hpSend_within e d m).fixed

@[simp] theorem Die.fixed_hostWrite (e : Env) (d : Die) (who : Who) (a : Nat) (data : List Byte) : fixedOf (d.hostWrite e who a data).regs = fixedOf d.regs :=
  foldl_fixed (fun d _ => Die.fixed_hpSend e d _) _ d

@[simp] theorem Die.fixed_hostAsk (e : Env) (d : Die) (use : Use) (who : Who) (a n : Nat) : fixedOf (d.hostAsk e use who a n).regs = fixedOf d.regs := by
  refine foldl_fixed (fun d x => ?_) _ d
  dsimp only
  split
  · rfl
  · split
    · exact Die.fixed_hpSend e _ _
    · rfl

theorem Die.fixed_send (d : Die) (m : Msg) : fixedOf (d.send m).regs = fixedOf d.regs := rfl

/-- A mismatch of the Seal Engine at a link port is reported. -/
theorem Die.fixed_linkMismatch (e : Env) (d : Die) (n w : Nat) (r : Report) :
    fixedOf (((d.fired.incSat F.SE_ERR.MISMATCH 0 n).report e r).markInj w).regs = fixedOf d.regs := by
  rw [Die.markInj_regs, Die.fixed_report, Die.fixed_incSat _ _ _ _ rfl, Die.fixed_fired]

@[simp] theorem Die.fixed_putPacket (e : Env) (d : Die) (p : Nat) (head payload : List Byte) (time : Bool) : fixedOf (d.putPacket e p head payload time).regs = fixedOf d.regs := by
  unfold Die.putPacket
  extract_lets n d₁
  have h₁ : fixedOf d₁.regs = fixedOf d.regs := by
    rw [Die.fixed_monitor, Die.count_regs, Die.count_regs]
  clear_value d₁
  rw [← h₁]
  split
  · split
    · next cnt head d₂ d₃ hard rep w d₄ _ _ _ _ =>
      have h₃ : fixedOf d₃.regs = fixedOf d₁.regs := by
        have h₂ : fixedOf d₂.regs = fixedOf d₁.regs := by rw [Die.count_regs, Die.fixed_incWrap _ _ _ _ rfl]
        dsimp only [d₃]
        split
        · rw [Die.fixed_setF _ _ _ _ rfl, h₂]
        · exact h₂
      have h₄ : fixedOf d₄.regs = fixedOf d₃.regs := by
        dsimp only [d₄]
        split
        · exact Die.fixed_linkMismatch e d₃ 1 w _
        · rfl
      clear_value d₄
      rw [← h₃]
      split
      · rw [Die.markInj_regs, Die.fixed_report, Die.fixed_report, Die.fixed_incSat _ _ _ _ rfl, Die.fixed_fired]
      · exact (Die.fixed_send _ _).trans h₄
    · rw [Die.send_regs]
  · rw [Die.send_regs]

@[simp] theorem Die.fixed_askLog (e : Env) (d : Die) (s g : Nat) : fixedOf (d.askLog e s g).regs = fixedOf d.regs := by
  unfold Die.askLog
  split
  · split
    · split <;> simp
    · simp
  · rfl

@[simp] theorem Die.snoopTo_regs (e : Env) (d : Die) (k line sop : Nat) : (d.snoopTo e k line sop).regs = d.regs := by
  unfold Die.snoopTo
  dsimp only
  split <;> simp

@[simp] theorem Die.fixed_keyWaits (d : Die) (id : Nat) : fixedOf (d.keyWaits id).regs = fixedOf d.regs := by
  unfold Die.keyWaits
  split
  · split
    · rfl
    · simp (disch := decide)
  · rfl

theorem Die.fixed_winSend {e : Env} {d t : Die} {q : WinReq} {strict : Bool} (h : d.winSend e q strict = some t) : fixedOf t.regs = fixedOf d.regs := by
  unfold Die.winSend at h
  split at h
  · cases h
  · split at h
    · split at h
      · cases h
      · cases h
        rw [Die.fixed_putPacket]
        dsimp only
        split <;> simp (disch := decide)
    · cases h

theorem fixed_winPass (e : Env) (q keep : List WinReq) (d : Die) : fixedOf (winPass e q keep d).1.regs = fixedOf d.regs := by
  induction q generalizing keep d with
  | nil => rfl
  | cons x xs ih =>
    unfold winPass
    split
    · next t h => exact (ih _ _).trans (Die.fixed_winSend h)
    · exact ih _ _

theorem Die.fixed_linkNext {e : Env} {d : Die} {q : List WinReq} {l : List Nat} {r : WinReq × Die} (h : d.linkNext e q l = some r) :
    fixedOf r.2.regs = fixedOf d.regs := by
  induction l with
  | nil => cases h
  | cons s l ih =>
    unfold Die.linkNext at h
    split at h
    · next r' hr =>
      cases h
      obtain ⟨x, -, hx⟩ := List.exists_of_findSome?_eq_some hr
      obtain ⟨y, hy, rfl⟩ := Option.map_eq_some_iff.1 hx
      exact (Die.fixed_winSend hy :)
    · exact ih h

theorem fixed_winShare (e : Env) (fuel : Nat) (q : List WinReq) (d : Die) : fixedOf (winShare e fuel q d).1.regs = fixedOf d.regs := by
  induction fuel generalizing q d with
  | zero => rfl
  | succ n ih =>
    unfold winShare
    split
    · next r h => exact (ih _ _).trans (Die.fixed_linkNext h)
    · rfl

theorem fixed_rspPass (e : Env) (q keep : List (Nat × List Byte)) (d : Die) : fixedOf (rspPass e q keep d).1.regs = fixedOf d.regs := by
  induction q generalizing keep d with
  | nil => rfl
  | cons x xs ih =>
    unfold rspPass
    split
    · refine (ih _ _).trans ?_
      rw [Die.fixed_putPacket]
      split <;> simp (disch := decide)
    · exact ih _ _

@[simp] theorem Die.fixed_winPump (e : Env) (d : Die) : fixedOf (d.winPump e).regs = fixedOf d.regs := by
  unfold Die.winPump
  split
  · rfl
  · exact (fixed_rspPass _ _ _ _).trans ((fixed_winShare _ _ _ _).trans (fixed_winPass _ _ _ _))

end Sys2Proof.Machine
end

section
/-! PROOF. Accesses leave the fixed words as they are: the arrays of the homes, the controllers and the Seal Engine. -/

-- One proof after another: all at once, they ask for more threads than the check's memory limit admits.
set_option Elab.async false

namespace Sys2Proof.Machine

/-! ### Accesses that leave the fixed words as they are -/

/-- Die `t` has the fixed words of `d`. -/
def Die.Fixed (d t : Die) : Prop := fixedOf t.regs = fixedOf d.regs

theorem Die.Fixed.of {d t : Die} (h : fixedOf t.regs = fixedOf d.regs) : d.Fixed t := h

theorem Die.Fixed.of_regs {d t : Die} (h : t.regs = d.regs) : d.Fixed t := congrArg fixedOf h

theorem Die.Fixed.rfl {d : Die} : d.Fixed d := Eq.refl _

/-- An access from one state of the die leaves the fixed words, whatever it answers. -/
def Act.FixesAt {α : Type} (a : Act α) (e : Env) (d : Die) : Prop := fixedOf (a.go e d).2.regs = fixedOf d.regs

/-- An access always does. -/
def Act.Fixes {α : Type} (a : Act α) : Prop := ∀ e d, a.FixesAt e d

section
variable {α β : Type}

theorem Act.Fixes.pure (x : α) : (Pure.pure x : Act α).Fixes := fun _ _ => rfl

theorem Act.Fixes.throw (f : Fail) : (throw f : Act α).Fixes := fun _ _ => rfl

theorem Act.Fixes.need (b : Bool) (f : Fail) : (Machine.need b f).Fixes := fun e d => by
  unfold Act.FixesAt
  rw [need_go]

theorem Act.Fixes.upd {f : Env → Die → Die} (h : ∀ e d, Die.Fixed d (f e d)) : (Machine.upd f).Fixes := fun e d => h e d

theorem Act.Fixes.modify {f : Die → Die} (h : ∀ d, Die.Fixed d (f d)) : (modify f : Act Unit).Fixes := fun _ d => h d

theorem Act.FixesAt.bind {a : Act α} {f : α → Act β} {e : Env} {d : Die} (ha : a.FixesAt e d) (hf : ∀ x, (f x).Fixes) : (a >>= f).FixesAt e d := by
  unfold Act.FixesAt at ha ⊢
  rw [Act.go_bind]
  generalize a.go e d = r at ha ⊢
  obtain ⟨r | x, d₁⟩ := r
  · exact ha
  · exact (hf x e d₁).trans ha

theorem Act.FixesAt.of {a : Act α} {e : Env} {d : Die} (h : a.Fixes) : a.FixesAt e d := h e d

theorem Act.Fixes.bind {a : Act α} {f : α → Act β} (ha : a.Fixes) (hf : ∀ x, (f x).Fixes) : (a >>= f).Fixes := fun e d => (ha e d).bind hf

theorem Act.Fixes.read {f : Env → Act β} (hf : ∀ x, (f x).Fixes) : (MonadReader.read >>= f).Fixes := .bind (fun _ _ => rfl) hf

theorem Act.Fixes.get {f : Die → Act β} (hf : ∀ x, (f x).Fixes) : (MonadState.get >>= f).Fixes := .bind (fun _ _ => rfl) hf

/-- What is done with the die that has just been read may set a die made of it. -/
theorem Act.Fixes.getAt {f : Die → Act β} (hf : ∀ e d, (f d).FixesAt e d) : (MonadState.get >>= f).Fixes := fun e d => hf e d

theorem Act.FixesAt.set {e : Env} {d t : Die} (h : d.Fixed t) : (set t : Act Unit).FixesAt e d := h

theorem Act.Fixes.ite {c : Prop} [Decidable c] {a b : Act α} (ha : a.Fixes) (hb : b.Fixes) : (if c then a else b).Fixes := by
  split
  · exact ha
  · exact hb

theorem Act.Fixes.looks {a : Act α} (h : a.Looks) : a.Fixes := fun e d => by
  unfold Act.FixesAt
  rw [h e d]

theorem Act.Fixes.forM {l : List β} {f : β → Act Unit} (h : ∀ x, (f x).Fixes) : (l.forM f).Fixes := by
  induction l with
  | nil => exact .pure _
  | cons x xs ih => exact .bind (h x) fun _ => ih

end

/-! ### Memory -/

theorem mcTurnGate_fixes (line : Nat) : (mcTurnGate line).Fixes := by
  refine .read fun e => .get fun d => ?_
  dsimp only
  split
  · exact .throw _
  · exact .bind (.need _ _) fun _ => .modify fun d => .of_regs (Die.mcServed_regs e d line _)

theorem memReady_fixes (line : Nat) : (memReady line).Fixes := .looks (memReady_looks line)

theorem phyCheck_fixes (line : Nat) : (phyCheck line).Fixes := by
  unfold phyCheck
  refine .get fun d => ?_
  dsimp only
  split
  · exact .bind (.upd fun e d => .of (by rw [Die.fixed_report, Die.fixed_incSat _ _ _ _ rfl, Die.fixed_fired])) fun _ => .modify fun d => .of_regs (Die.markInj_regs d _)
  · exact .pure _

theorem rawWrite_fixes (line : Nat) (data : Line) (hm : Nat) (maint : Bool) : (rawWrite line data hm maint).Fixes := by
  unfold rawWrite
  exact .read fun _ => .get fun _ => .bind (.need _ _) fun _ => .bind (phyCheck_fixes line) fun _ => .upd fun e d => .of (Die.fixed_charge e d line 128 true maint)

theorem rawRead_fixes (line src : Nat) (ctx : Option Nat) (maint : Bool) : (rawRead line src ctx maint).Fixes := by
  have hce : ∀ (b : Bool) (n : Nat) (r : Report) (dat : Line) (hm : Nat), (do
      upd (fun e d => (if b then d.fired else d.incSat F.MC_ERR.CE_COUNT n 1).report e r)
      rawWrite line dat hm true : Act Unit).Fixes := fun b n r dat hm =>
    .bind (.upd fun e d => .of (by
      rw [Die.fixed_report]
      split
      · exact Die.fixed_fired d
      · exact Die.fixed_incSat _ _ _ _ rfl)) fun _ => rawWrite_fixes line dat hm true
  unfold rawRead
  refine .read fun _ => .get fun _ => .bind (.need _ _) fun _ => .bind (phyCheck_fixes line) fun _ =>
    .bind (.upd fun e d => .of (Die.fixed_charge e d line 128 false maint)) fun _ => .getAt fun e d => ?_
  extract_lets n raw self ce
  have hce' : ∀ dat hm fixed, (ce dat hm fixed).Fixes := fun dat hm fixed => hce self n _ dat hm
  clear_value ce
  split
  · split
    · exact .of (.bind (.upd fun e d => .of (by rw [Die.markInj_regs, Die.fixed_memUE, Die.fixed_fired])) fun _ => .pure _)
    · split
      · exact .of (.bind (.modify fun d => .of (Die.fixed_fired d)) fun _ => .bind (hce' _ _ _) fun _ => .bind (.modify fun d => .of_regs (Die.markInj_regs d _)) fun _ => .pure _)
      · refine .of ?_
        split
        · exact .bind (hce' _ _ _) fun _ => .pure _
        · exact .pure _
  · split
    · refine .of (.bind (.upd fun e d => .of (by rw [Die.fixed_report, Die.fixed_fired])) fun _ => ?_)
      split
      · exact .bind (.modify fun d => .of_regs rfl) fun _ => .bind (rawWrite_fixes _ _ _ _) fun _ => .throw _
      · exact .throw _
    · exact .bind (.set (.of (Die.fixed_memUE _ _ _ _ _ _))) fun _ => .pure _

/-! ### The null map -/

theorem nmapCe_fixes (key lowest count src : Nat) (ctx : Option Nat) (inj : Bool) : (nmapCe key lowest count src ctx inj).Fixes := by
  unfold nmapCe
  refine .read fun _ => .get fun _ => .bind (.upd fun e d => .of ?_) fun _ => .ite (.modify fun d => .of_regs (Die.markInj_regs d _)) (.pure _)
  rw [Die.fixed_report, Die.fixed_incSat _ _ _ _ rfl]
  split
  · exact Die.fixed_fired d
  · rfl

theorem nmapLost_fixes (key src : Nat) (ctx : Option Nat) (inj : Bool) : (nmapLost key src ctx inj).Fixes := by
  have hrest : ∀ at_ : Nat, (do
      upd (fun e d => { d.charge e at_ 128 true true with mem := (d.charge e at_ 128 true true).mem.putNmap key ones })
      modify (fun d => { d with mem.nmc := Tab.set none d.mem.nmc key none }) : Act Unit).Fixes := fun at_ =>
    .bind (.upd fun e d => .of (Die.fixed_charge e d at_ 128 true true)) fun _ => .modify fun d => .of_regs rfl
  unfold nmapLost
  refine .read fun _ => .get fun d => .bind (.upd fun e d => .of ?_) fun _ => ?_
  · rw [Die.fixed_memUE]
    split
    · exact Die.fixed_fired d
    · rfl
  · dsimp only
    split
    · exact .bind (.modify fun d => .of_regs (Die.markInj_regs d _)) fun _ => hrest _
    · exact hrest _

theorem nmapFetch_fixes (key src : Nat) (ctx : Option Nat) : (nmapFetch key src ctx).Fixes := by
  unfold nmapFetch
  refine .read fun _ => .get fun _ => .bind (.upd fun e d => .of (Die.fixed_charge e d _ 128 false true)) fun _ => ?_
  dsimp only
  split
  · split
    · exact .bind (nmapCe_fixes _ _ _ _ _ _) fun _ => .bind (.upd fun e d => .of (Die.fixed_charge e d _ 128 true true)) fun _ =>
        .bind (.modify fun d => .of_regs rfl) fun _ => .pure _
    · exact .pure _
  · exact .bind (nmapLost_fixes _ _ _ _) fun _ => .pure _

theorem nmapLine_fixes (line src : Nat) (ctx : Option Nat) : (nmapLine line src ctx).Fixes := by
  unfold nmapLine
  refine .get fun _ => ?_
  dsimp only
  split
  · refine .bind (.upd fun e d => .of ?_) fun _ => ?_
    · rw [Die.fixed_nmcFill, Die.count_regs]
    · split
      · exact .bind (nmapLost_fixes _ _ _ _) fun _ => .pure _
      · split
        · exact .bind (nmapCe_fixes _ _ _ _ _ _) fun _ => .pure _
        · exact .pure _
  · refine .bind (.modify fun d => .of_regs (Die.count_regs d _ _)) fun _ => .bind (nmapFetch_fixes _ _ _) fun x => ?_
    split
    · exact .pure _
    · exact .bind (.upd fun e d => .of (Die.fixed_nmcFill e d _ _ _)) fun _ => .pure _

theorem memRead_fixes (line src : Nat) (ctx : Option Nat) (maint : Bool) : (memRead line src ctx maint).Fixes := by
  unfold memRead
  refine .bind (memReady_fixes line) fun _ => .get fun d => ?_
  extract_lets n found turned p
  have hfound : ∀ y, (found y).Fixes := fun y => by
    refine .bind (nmapLine_fixes _ _ _) fun x => ?_
    split
    · exact .pure _
    · extract_lets z served
      have hserved : ∀ y, (served y).Fixes := fun y =>
        .ite (.bind (.modify fun d => .of_regs (by rw [Die.count_regs, Die.count_regs])) fun _ => .pure _) (.bind (rawRead_fixes _ _ _ _) fun _ => .pure _)
      clear_value served
      exact .ite (.bind (.upd fun e d => .of (Die.fixed_carry e d _ _ 128)) fun _ => hserved _) (hserved _)
  have hturned : ∀ y, (turned y).Fixes := fun y => .ite (.bind (mcTurnGate_fixes line) fun _ => hfound ()) (hfound ())
  clear_value turned
  exact .ite (.bind (.upd fun e d => .of (by rw [Die.markInj_regs, Die.fixed_report, Die.fixed_fired])) fun _ => .bind (.throw _) fun _ => hturned ()) (hturned ())

theorem memWrite_fixes (line wr : Nat) (data : Line) (z : Nat) (zse isSealed : Bool) (hm : Nat) : (memWrite line wr data z zse isSealed hm).Fixes := by
  have hput : ∀ x bits, (upd (fun e d => d.putNull e line x bits)).Fixes := fun x bits => .upd fun e d => .of (Die.fixed_putNull e d line x bits)
  unfold memWrite
  refine .bind (memReady_fixes line) fun _ => .bind (.upd fun e d => .of (Die.fixed_carry e d _ _ 128)) fun _ => .get fun d => .bind (nmapLine_fixes _ _ _) fun x => ?_
  split
  · exact .pure _
  · extract_lets old nb keep
    clear_value nb keep
    split
    · exact .upd fun e d => .of (by rw [Die.fixed_putNull, Die.count_regs, Die.count_regs])
    · split
      · exact .bind (hput _ _) fun _ => rawWrite_fixes _ _ _ _
      · refine .bind (.modify fun d => .of_regs (Die.count_regs d _ _)) fun _ => .bind (rawRead_fixes _ _ _ _) fun o => ?_
        split
        · exact .pure _
        · exact .bind (hput _ _) fun _ => rawWrite_fixes _ _ _ _

/-! ### The Seal Engine -/

theorem tagClean_fixes (tl : Nat) : (tagClean tl).Fixes := by
  unfold tagClean
  refine .get fun d => ?_
  dsimp only
  split
  · exact .ite (.bind (memWrite_fixes _ _ _ _ _ _ _) fun _ => .modify fun d => .of_regs (by rw [Die.setTag_regs, Die.count_regs])) (.pure _)
  · exact .pure _

theorem tagEvict_fixes (tl : Nat) : (tagEvict tl).Fixes := .bind (tagClean_fixes tl) fun _ => .modify fun d => .of_regs (Die.setTag_regs d tl none)

theorem tagLine_fixes (tl : Nat) (ctx : Option Nat) : (tagLine tl ctx).Fixes := by
  unfold tagLine
  refine .get fun d => ?_
  extract_lets n
  split
  · refine .bind (.modify fun d => .of_regs (Die.count_regs d _ _)) fun _ => ?_
    split
    · exact .bind (.upd fun e d => .of (by rw [Die.fixed_report, Die.fixed_incSat _ _ _ _ rfl, Die.fixed_fired])) fun _ =>
        .bind (.modify fun d => .of_regs (Die.markInj_regs d _)) fun _ => .pure _
    · exact .pure _
  · refine .bind (.modify fun d => .of_regs (Die.count_regs d _ _)) fun _ => .bind (memRead_fixes _ _ _ _) fun x => ?_
    split
    · exact .pure _
    · refine .get fun d => ?_
      extract_lets same filled
      have hfilled : ∀ y, (filled y).Fixes := fun y => .bind (.modify fun d => .of_regs rfl) fun _ => .pure _
      clear_value filled
      split
      · split
        · exact .bind (tagEvict_fixes _) fun _ => hfilled _
        · exact hfilled _
      · exact hfilled _

theorem storedTag_fixes (k line hm : Nat) (ctx : Option Nat) : (storedTag k line hm ctx).Fixes := by
  unfold storedTag
  exact .get fun d => .ite (.bind (tagLine_fixes _ _) fun _ => .pure _) (.pure _)

theorem sealRead_fixes (line : Nat) (ctx : Option Nat) : (sealRead line ctx).Fixes := by
  unfold sealRead
  refine .bind (memRead_fixes _ _ _ _) fun r => .get fun d => ?_
  dsimp only
  split
  · exact .pure _
  · exact .pure _
  · split
    · exact .bind (.modify fun d => .of_regs (Die.count_regs d _ _)) fun _ => .pure _
    · refine .bind (.modify fun d => .of_regs (Die.count_regs d _ _)) fun _ => .bind (storedTag_fixes _ _ _ _) fun t => .get fun d => ?_
      split
      · exact .bind (.upd fun e d => .of (by rw [Die.fixed_report, Die.fixed_fired])) fun _ => .throw _
      · split
        · split
          · refine .bind (.upd fun e d => .of (by rw [Die.fixed_report, Die.fixed_incSat _ _ _ _ rfl, Die.fixed_fired])) fun _ => ?_
            have hend : ∀ (w : Nat) (hard : Bool) (x : Option (Line × Nat)), (do
                modify (fun d => d.markInj w)
                need (!hard) (.status St.BUS_ERROR)
                pure x : Act (Option (Line × Nat))).Fixes := fun w hard x =>
              .bind (.modify fun d => .of_regs (Die.markInj_regs d w)) fun _ => .bind (.need _ _) fun _ => .pure x
            split
            · exact .bind (.upd fun e d => .of (Die.fixed_report e d _)) fun _ => hend _ _ _
            · exact hend _ _ _
          · exact .pure _
        · refine .bind (.upd fun e d => .of ?_) fun _ => .ite (.bind (.modify fun d => .of_regs (Die.markInj_regs d _)) fun _ => .throw _) (.throw _)
          rw [Die.fixed_hmFail]
          split
          · exact Die.fixed_fired d
          · rfl

theorem sealWrite_fixes (line wr : Nat) (data : Line) (z : Nat) (zse : Bool) : (sealWrite line wr data z zse).Fixes := by
  unfold sealWrite
  refine .get fun d => ?_
  split
  · exact memWrite_fixes _ _ _ _ _ _ _
  · next k keys _ =>
    extract_lets n cls
    refine .bind (.ite (.pure _) (.bind (sealRead_fixes _ _) fun _ => .pure _)) fun whole => ?_
    split
    · exact .pure _
    · refine .bind (.modify fun d => .of_regs (Die.count_regs d _ _)) fun _ => ?_
      extract_lets put end_ mark
      have hput : ∀ y, (put y).Fixes := fun y => memWrite_fixes _ _ _ _ _ _ _
      clear_value put
      have hend : ∀ y, (end_ y).Fixes := fun y => by
        refine .ite (.pure _) (.ite (.bind (tagLine_fixes _ _) fun t => ?_) (memWrite_fixes _ _ _ _ _ _ _))
        split
        · exact hput ()
        · exact .bind (.modify fun d => .of_regs rfl) fun _ => .bind (tagClean_fixes _) fun _ => hput ()
      clear_value end_
      have hmark : ∀ y, (mark y).Fixes := fun y => .bind (.modify fun d => .of_regs (Die.markInj_regs d _)) fun _ => hend ()
      clear_value mark
      exact .ite (.bind (.upd fun e d => .of (by rw [Die.fixed_report, Die.fixed_incSat _ _ _ _ rfl, Die.fixed_fired])) fun _ =>
        .ite (.bind (.upd fun e d => .of (Die.fixed_report e d _)) fun _ => hmark ()) (hmark ())) (hend ())

end Sys2Proof.Machine
end

section
/-! PROOF. Accesses leave the fixed words as they are: lookups, reads and writes at the homes. -/

-- One proof after another: all at once, they ask for more threads than the check's memory limit admits.
set_option Elab.async false

namespace Sys2Proof.Machine

/-! ### Gates of the homes -/

/-- An access is run on the die as it is, and what is done with its outcome leaves the fixed words. -/
theorem Act.Fixes.tried {α β : Type} {a : Act α} {e : Env} {f : Except Fail α × Die → Act β} (h : ∀ e' d, (f (a.go e d)).FixesAt e' d) :
    ((MonadState.get >>= fun s => Pure.pure (a.go e s) : Act (Except Fail α × Die)) >>= f).Fixes := fun e' d => h e' d

theorem Act.FixesAt.looks {α β : Type} {a : Act α} {f : α → Act β} {e : Env} {d : Die} (ha : a.Looks) (hf : ∀ x, (f x).FixesAt e d) : (a >>= f).FixesAt e d := by
  unfold Act.FixesAt at hf ⊢
  have h := ha e d
  rw [Act.go_bind]
  generalize a.go e d = r at h ⊢
  obtain ⟨r | x, d₁⟩ := r
  · exact congrArg (fun d : Die => fixedOf d.regs) h
  · cases h
    exact hf x

theorem refuse_fixes (cause line det : Nat) (ctx : Option Nat) (f : Fld) (h : f.reg.loose = true) : (refuse cause line det ctx f).Fixes := by
  unfold refuse
  refine .bind (.upd fun e d => .of ?_) fun _ => .throw _
  dsimp only
  split
  · rw [Die.markInj_regs, Die.fixed_report, Die.fixed_incSat _ _ _ _ h, Die.fixed_fired]
  · rw [Die.fixed_report, Die.fixed_incSat _ _ _ _ h]

theorem engineGate_fixes (line : Nat) (a : Ask) : (engineGate line a).Fixes := by
  unfold engineGate
  refine .read fun e' => .getAt fun e d => ?_
  dsimp only
  split
  · exact .of (.need _ _)
  · split
    · exact .of (.pure _)
    · split
      · exact .of (.throw _)
      · split
        · exact .of (.throw _)
        · exact .looks (need_looks _ _) fun _ => .set (.of_regs (Die.wins_regs ..))

theorem carryTo_fixes (line id n : Nat) (up : Bool) : (carryTo line id n up).Fixes := .upd fun e d => .of (by split <;> exact Die.fixed_carry ..)

theorem homeGate_fixes (line : Nat) (a : Ask) : (homeGate line a).Fixes := by
  unfold homeGate
  refine .read fun e => .get fun d => ?_
  extract_lets p h look lost ask
  refine .bind (.need _ _) fun _ => .bind (.need _ _) fun _ => ?_
  have hlook : ∀ y, (look y).Fixes := fun y => by
    refine .ite ?_ (.pure _)
    split
    · exact .ite (refuse_fixes _ _ _ _ _ rfl) (.pure _)
    · exact .ite (.bind (.modify fun d => .of (Die.fixed_incSat _ _ _ _ rfl)) fun _ => .throw _) (.ite (refuse_fixes _ _ _ _ _ rfl)
        (.ite (refuse_fixes _ _ _ _ _ rfl) (.ite (.pure _) (.ite (refuse_fixes _ _ _ _ _ rfl) (.pure _)))))
  clear_value look
  have hlost : ∀ y, (lost y).Fixes := fun y => .bind (.need _ _) fun _ => .bind (.need _ _) fun _ =>
    .ite (.bind (.upd fun e d => .of (Die.fixed_report ..)) fun _ => .bind (.throw _) fun _ => hlook ()) (hlook ())
  clear_value lost
  have hask : ∀ y, (ask y).Fixes := fun y => .ite (.bind (engineGate_fixes line a) fun _ => hlost ()) (hlost ())
  clear_value ask
  exact .ite (.bind (.modify fun d => .of_regs (Die.entered_regs ..)) fun _ => hask ()) (hask ())

theorem arrayError_fixes (line c reads : Nat) (ctx : Option Nat) : (arrayError line c reads ctx).Fixes := by
  unfold arrayError
  refine .read fun e => .get fun d => ?_
  extract_lets h fix lose dirty
  have hfix : ∀ f cause det, f.reg.loose = true → (fix f cause det).Fixes := fun f cause det hf =>
    .upd fun e d => .of (by rw [Die.fixed_report, Die.fixed_incSat _ _ _ _ hf])
  have hlose : ∀ why, (lose why).Fixes := fun why => .bind (.need _ _) fun _ => .bind (.upd fun e d => .of (Die.fixed_lostLine ..)) fun _ => .throw _
  clear_value fix lose
  exact .ite (.bind (.modify fun d => .of_regs rfl) fun _ => hfix _ _ _ rfl) (.ite (hlose _) (.ite (hfix _ _ _ rfl) (.ite (hlose _)
    (.ite (.bind (.modify fun d => .of_regs rfl) fun _ => hfix _ _ _ rfl) (.ite (.bind (.upd fun e d => .of_regs (Die.dropSide_regs e d line)) fun _ => hfix _ _ _ rfl)
      (.ite (hfix _ _ _ rfl) (.ite (.upd fun e d => .of (Die.fixed_report ..)) (.ite (.upd fun e d => .of (Die.fixed_report ..)) (.pure _)))))))))

theorem lcChecks_fixes (line reads : Nat) (ctx : Option Nat) : (lcChecks line reads ctx).Fixes := by
  unfold lcChecks
  refine .read fun e => .get fun d => ?_
  split
  · exact .pure _
  · dsimp only
    split
    · refine .bind (.modify fun d => .of (Die.fixed_fired d)) fun _ => .tried fun e' d => ?_
      refine .bind (.set ?_) fun _ => ?_
      · exact arrayError_fixes _ _ _ _ _ _
      · split
        · exact .pure _
        · exact .throw _
    · exact .pure _

theorem lcVisit_fixes (line reads : Nat) : (lcVisit line reads).Fixes := by
  unfold lcVisit
  refine .read fun e => .getAt fun e' d => ?_
  have hset : (set ((lcChecks line reads none).go e d).2 : Act Unit).FixesAt e' d := .set (lcChecks_fixes _ _ _ _ _)
  dsimp only
  split
  · exact hset
  · exact hset
  · exact .of (.throw _)

theorem writeback_fixes (line : Nat) : (writeback line).Fixes := by
  have hput : (do
      let d ← get
      match d.lcLine line with
      | some x =>
        if x.d ≠ 0 then
          let wr := if x.slot ≠ 0 then 15 else x.d.toNat
          sealWrite line wr x.data x.z.toNat x.zse
          upd (fun e d => (d.count (lcCount (d.home e line) 3) (32 * ((List.range 4).filter (fun t => decide (bitsOf wr t 1 = 1))).length)).setLc line
            (some { x with d := 0 }))
      | none => pure () : Act Unit).Fixes := by
    refine .get fun d => ?_
    split
    · exact .ite (.bind (sealWrite_fixes _ _ _ _ _) fun _ => .upd fun e d => .of_regs (by rw [Die.setLc_regs, Die.count_regs])) (.pure _)
    · exact .pure _
  unfold writeback
  refine .get fun d => ?_
  dsimp only
  split
  · exact .ite (.bind (lcVisit_fixes _ _) fun _ => hput) hput
  · exact hput

theorem allocate_fixes (line k : Nat) (x : LcLine) : (allocate line k x).Fixes := by
  unfold allocate
  refine .read fun e => .get fun d => ?_
  dsimp only
  split
  · refine .ite (.pure _) ?_
    split
    · exact .bind (writeback_fixes _) fun _ => .bind (.modify fun d => .of_regs rfl) fun _ => .bind (.modify fun d => .of_regs rfl) fun _ => .pure _
    · exact .bind (.modify fun d => .of_regs rfl) fun _ => .pure _
  · exact .bind (.modify fun d => .of_regs (Die.count_regs ..)) fun _ => .pure _

/-! ### Reads and writes of lines -/

theorem fetchLine_fixes (line k : Nat) (zse : Bool) (ctx : Option Nat) (alloc : Bool) : (fetchLine line k zse ctx alloc).Fixes := by
  unfold fetchLine
  refine .read fun e => .get fun d0 => ?_
  extract_lets h look w
  have hlook : ∀ y, (look y).Fixes := fun y => by
    refine .get fun d => ?_
    extract_lets slot
    split
    · refine .ite (.bind (.upd fun e d => .of ?_) fun _ => .pure _) (.bind (.modify fun d => .of_regs (Die.count_regs ..)) fun _ => .bind (sealRead_fixes _ _) fun m => ?_)
      · rw [Die.touch_regs, Die.fixed_monitor, Die.count_regs, Die.count_regs]
      · split
        · exact .throw _
        · exact .bind (.upd fun e d => .of (by rw [Die.fixed_monitor, Die.count_regs])) fun _ => .bind (.modify fun d => .of_regs rfl) fun _ => .pure _
    · refine .bind (.modify fun d => .of_regs (Die.count_regs ..)) fun _ => ?_
      split
      · exact .bind (.upd fun e d => .of_regs (by rw [Die.takeSide_regs, Die.count_regs])) fun _ =>
          .ite (.bind (allocate_fixes _ _ _) fun _ => .pure _) (.pure _)
      · refine .bind (sealRead_fixes _ _) fun m => ?_
        split
        · exact .throw _
        · exact .bind (.upd fun e d => .of (by rw [Die.fixed_monitor, Die.count_regs])) fun _ => .ite (.bind (allocate_fixes _ _ _) fun _ => .pure _) (.pure _)
  clear_value look
  exact .bind (.modify fun d => .of_regs (Die.count_regs ..)) fun _ => .bind (lcChecks_fixes _ _ _) fun _ =>
    .ite (.bind (.modify fun d => .of (Die.fixed_fired d)) fun _ => .bind (arrayError_fixes _ _ _ _) fun _ => .bind (.modify fun d => .of_regs rfl) fun _ => hlook ()) (hlook ())

theorem storeLine_fixes (line : Nat) (mask : BitVec 128) (data : Line) (k : Nat) (zse : Bool) (ctx : Option Nat) : (storeLine line mask data k zse ctx).Fixes := by
  unfold storeLine
  refine .read fun e => .bind (.upd fun e d => .of_regs (Die.dropSide_regs e d line)) fun _ => .get fun d0 => ?_
  extract_lets h slot zse tch whl
  refine .bind (.modify fun d => .of_regs (Die.count_regs ..)) fun _ => .bind (lcChecks_fixes _ _ _) fun _ => .get fun d => ?_
  extract_lets have_ fill
  refine .bind (.ite (.bind (fetchLine_fixes _ _ _ _ _) fun _ => .pure _) (.pure _)) fun base => .get fun d => ?_
  split
  · exact .modify fun d => .of_regs (by rw [Die.touch_regs, Die.count_regs, Die.count_regs])
  · refine .bind (.modify fun d => .of_regs (by rw [Die.count_regs, Die.count_regs])) fun _ => .bind (.ite (.pure _) (allocate_fixes _ _ _)) fun ok => ?_
    exact .ite (sealWrite_fixes _ _ _ _ _) (.pure _)

theorem dirLook_fixes (line : Nat) (ctx : Option Nat) : (dirLook line ctx).Fixes := by
  unfold dirLook
  refine .read fun e => .get fun d => .ite ?_ (.pure _)
  extract_lets h look state
  have hlook : ∀ y, (look y).Fixes := fun y => by
    dsimp only [look]
    split
    · exact .bind (.modify fun d => .of (Die.fixed_fired d)) fun _ => .bind (arrayError_fixes _ _ _ _) fun _ => .modify fun d => .of_regs rfl
    · exact .pure _
  clear_value look
  have hstate : ∀ y, (state y).Fixes := fun y => .ite (.bind (.throw _) fun _ => hlook ()) (hlook ())
  clear_value state
  exact .ite (.bind (.throw _) fun _ => hstate ()) (hstate ())

theorem logGate_fixes (line : Nat) : (logGate line).Fixes := by
  unfold logGate
  refine .get fun d => ?_
  dsimp only
  split
  · exact .need _ _
  · exact .pure _

theorem storeAt_fixes (line : Nat) (mask : BitVec 128) (data : Line) (a : Ask) : (storeAt line mask data a).Fixes := by
  unfold storeAt
  refine .get fun d => .ite ?_ ?_
  · exact .bind (.ite (.pure _) (fetchLine_fixes _ _ _ _ _)) fun old => .bind (storeLine_fixes _ _ _ _ _ _) fun _ => .modify fun d => .of (Die.fixed_watchFeed ..)
  · exact .bind (storeLine_fixes _ _ _ _ _ _) fun _ => .ite (.modify fun d => .of (Die.fixed_watchFeed ..)) (.pure _)

theorem keepData_fixes (line k : Nat) (data : Line) (watchEn : Bool) (watchId : Nat) (rid : Option Nat) : (keepData line k data watchEn watchId rid).Fixes :=
  .bind (storeLine_fixes _ _ _ _ _ _) fun _ => .ite (.modify fun d => .of (Die.fixed_watchFeed ..)) (.pure _)

theorem mayTouch_fixes (line : Nat) (use : Use) : (mayTouch line use).Fixes := by
  unfold mayTouch
  refine .get fun d => ?_
  split
  · refine .ite (.need _ _) (.bind (.need _ _) fun _ => ?_)
    dsimp only
    split
    · exact .bind (logGate_fixes _) fun _ => .bind (keepData_fixes _ _ _ _ _ _) fun _ => .modify fun d => .of_regs rfl
    · exact .modify fun d => .of_regs rfl
  · exact .pure _

theorem coherent_fixes (line : Nat) (a : Ask) (peek full : Bool) : (coherent line a peek full).Fixes := by
  unfold coherent
  refine .bind (mayTouch_fixes _ _) fun _ => .bind (dirLook_fixes _ _) fun _ => .get fun d => ?_
  split
  · exact .pure _
  · split
    · exact .pure _
    · exact .ite (.throw _) (.ite (.throw _) (.pure _))

theorem endOwn_fixes (line : Nat) (use : Use) : (endOwn line use).Fixes := .modify fun d => .of_regs rfl

theorem writeAt_fixes (line : Nat) (mask : BitVec 128) (data : Line) (a : Ask) : (writeAt line mask data a).Fixes := by
  unfold writeAt
  refine .bind (homeGate_fixes _ _) fun _ => .bind (carryTo_fixes _ _ _ _) fun _ => ?_
  have hput : (do
      let _ ← coherent line a false (decide (mask = BitVec.allOnes 128))
      if mask ≠ 0 then storeAt line mask data a else upd (fun e d => d.dropSide e line)
      endOwn line a.use : Act Unit).Fixes :=
    .bind (coherent_fixes _ _ _ _) fun _ => .ite (.bind (storeAt_fixes _ _ _ _) fun _ => endOwn_fixes _ _)
      (.bind (.upd fun e d => .of_regs (Die.dropSide_regs e d line)) fun _ => endOwn_fixes _ _)
  exact .ite (.bind (logGate_fixes _) fun _ => hput) hput

theorem physWrite_fixes (a : Nat) (b : List Byte) (k : Ask) : (physWrite a b k).Fixes := .forM fun _ => writeAt_fixes _ _ _ _

end Sys2Proof.Machine
end

section
/-! PROOF. Attempts leave the fixed words as they are: what is settled before an access is tried, and what is asked for where it waits. -/

-- One proof after another: all at once, they ask for more threads than the check's memory limit admits.
set_option Elab.async false

namespace Sys2Proof.Machine

theorem Die.Fixed.trans {d t u : Die} (h : d.Fixed t) (h' : t.Fixed u) : d.Fixed u := Eq.trans h' h

theorem foldl_fixedDie {β : Type} {f : Die → β → Die} (h : ∀ d x, Die.Fixed d (f d x)) (l : List β) (d : Die) : Die.Fixed d (l.foldl f d) := by
  induction l generalizing d with
  | nil => exact .rfl
  | cons x xs ih => exact (h d x).trans (ih _)

/-! ### Transactions are settled -/

theorem Txn.keep_fixes (t : Txn) : t.keep.Fixes := by
  unfold Txn.keep
  split
  · exact .get fun d => .bind (logGate_fixes _) fun _ => keepData_fixes _ _ _ _ _ _
  · exact .pure _

theorem settleAct_fixes (t : Txn) : (settleAct t).Fixes := by
  unfold settleAct
  refine .read fun e => .get fun d => .ite (.bind (.need _ _) fun _ => .upd fun e d => .of (Die.fixed_lostLine ..)) ?_
  extract_lets ends a b
  have hends : ∀ y, (ends y).Fixes := fun y => .upd fun e d => .of_regs (by
    split
    · exact Die.endWb_regs ..
    · rfl)
  clear_value ends
  have ha : ∀ y, (a y).Fixes := fun y => .bind (.modify fun d => .of_regs rfl) fun _ => hends ()
  clear_value a
  have hb : ∀ y, (b y).Fixes := fun y => by
    dsimp only [b]
    split
    · exact .bind (.modify fun d => .of_regs rfl) fun _ => hends ()
    · exact hends ()
  clear_value b
  refine .ite (.ite (.bind (Txn.keep_fixes t) fun _ => ha ()) (ha ())) (.ite (.bind (Txn.keep_fixes t) fun _ => .bind (.modify fun d => ?_) fun _ => hends ())
    (.ite (.ite (.bind (Txn.keep_fixes t) fun _ => .bind (.modify fun d => .of_regs rfl) fun _ => hb ()) (.ite (.bind (logGate_fixes _) fun _ => hb ()) (hb ())))
      (.ite (.bind (Txn.keep_fixes t) fun _ => .bind (.modify fun d => .of_regs rfl) fun _ => hends ()) (.bind (.modify fun d => ?_) fun _ => hends ()))))
  · split <;> exact .of_regs rfl
  · split
    · dsimp only
      split
      · split <;> exact .of_regs rfl
      · exact .of_regs rfl
    · exact .of_regs rfl

theorem Die.settle_fixed (e : Env) (d : Die) (line : Nat) : d.Fixed (d.settle e line) := by
  unfold Die.settle
  split
  · next t _ =>
    split
    · have h := settleAct_fixes t e d
      unfold Act.FixesAt at h
      dsimp only
      split
      · exact .of (Die.fixed_askLog ..)
      · exact .of (Die.fixed_wake ..)
      · exact .rfl
      · exact .rfl
      · next u _ _ _ heq =>
        rw [heq] at h
        refine Die.Fixed.trans (.of h) (.of_regs ?_)
        split
        · split <;> rfl
        · split <;> rfl
    · exact .rfl
  · exact .rfl

theorem Die.letGo_fixed (e : Env) (d : Die) (line : Nat) : d.Fixed (d.letGo e line) := by
  have h := mayTouch_fixes line .other e d
  unfold Act.FixesAt at h
  unfold Die.letGo
  split
  · next heq =>
    rw [heq] at h
    exact h
  · exact .of (Die.fixed_askLog ..)
  · exact .of (Die.fixed_wake ..)
  · exact .rfl

theorem Die.settleAll_fixed (e : Env) (d : Die) : d.Fixed (d.settleAll e) := by
  refine foldl_fixedDie (fun d t => ?_) _ d
  split
  · exact Die.letGo_fixed ..
  · exact Die.settle_fixed ..

/-! ### Transactions are opened -/

theorem Die.openTxn_fixed (e : Env) (d : Die) (t : Txn) (ks regs : List Nat) : d.Fixed (d.openTxn e t ks regs) := by
  unfold Die.openTxn
  extract_lets h inj dead w d₁ down t₁ n₁ c₁ d₂ ks₁ d₃
  have h₁ : d.Fixed d₁ := by
    dsimp only [d₁]
    split
    · exact .of (Die.fixed_fired d)
    · exact .rfl
  have h₂ : d₁.Fixed d₂ := by
    dsimp only [d₂]
    refine Die.Fixed.trans ?_ (foldl_fixedDie (fun d r => .of (Die.fixed_wake e d r)) _ _)
    exact .of_regs rfl
  have h₃ : d₂.Fixed d₃ := by
    dsimp only [d₃]
    exact (foldl_fixedDie (fun d k => .of_regs ((Die.count_regs _ _ _).trans (Die.snoopTo_regs ..))) ks₁ d₂).trans (Die.settle_fixed ..)
  have h₄ := (h₁.trans h₂).trans h₃
  clear_value d₃
  split
  · exact h₄.trans (.of_regs (Die.markInj_regs ..))
  · exact h₄

theorem Die.startTxn_fixed (e : Env) (d : Die) (line sop : Nat) (rid : Option Nat) (use : Option Use) (skipK : Option Nat) (sweep repl : Bool) :
    d.Fixed (d.startTxn e line sop rid use skipK sweep repl) := by
  unfold Die.startTxn
  split
  · exact .rfl
  · split
    · exact .rfl
    · exact Die.openTxn_fixed ..

theorem Die.invAll_fixed (e : Env) (d : Die) (line : Nat) : d.Fixed (d.invAll e line) := by
  unfold Die.invAll
  split
  · exact .rfl
  · exact Die.openTxn_fixed ..

theorem Die.evictDir_fixed (e : Env) (d : Die) (line : Nat) : d.Fixed (d.evictDir e line) := by
  unfold Die.evictDir
  split
  · exact .rfl
  · exact (Die.Fixed.of (Die.fixed_incWrap _ _ _ _ rfl)).trans (Die.startTxn_fixed ..)

theorem Die.issue_fixed (e : Env) (d : Die) (use : Use) (n : Need) : d.Fixed (d.issue e use n) := by
  unfold Die.issue
  split
  · exact .of (Die.fixed_hostAsk ..)
  · dsimp only
    split
    · exact .rfl
    · exact (Die.Fixed.of_regs rfl).trans (.of (Die.fixed_hostAsk ..))
  · split
    · split
      · split
        · exact Die.startTxn_fixed ..
        · exact Die.evictDir_fixed ..
      · exact .rfl
    · exact Die.startTxn_fixed ..
  · split <;> exact Die.startTxn_fixed ..
  · split
    · exact .rfl
    · exact .of_regs ((Die.count_regs ..).trans (Die.queueGrant_regs ..))
  · split <;> exact .of_regs rfl
  · exact .of (Die.fixed_wake ..)
  · dsimp only
    split
    · exact .rfl
    · exact (Die.Fixed.of_regs rfl).trans (.of (Die.fixed_winPump ..))
  · exact .of (Die.fixed_askLog ..)
  · next line selfTest ctx =>
    extract_lets r d₁
    have h : d.Fixed d₁ := by
      dsimp only [d₁]
      split
      · exact .of ((Die.fixed_report ..).trans (Die.fixed_fired d))
      · exact .of (by rw [Die.markInj_regs, Die.fixed_report, Die.fixed_incSat _ _ _ _ rfl, Die.fixed_fired])
    clear_value d₁
    exact h.trans (Die.invAll_fixed ..)
  · split
    · exact .of (Die.fixed_keyWaits ..)
    · exact .rfl

theorem attempt_fixed {α : Type} {e : Env} {d d' : Die} {use : Use} {a : Act α} (ha : a.Fixes) {x : α} (h : attempt e d use a = .ok x d') : d.Fixed d' := by
  obtain ⟨r, hgo, rfl⟩ := attempt_ok h
  have hr := ha e (d.settleAll e)
  unfold Act.FixesAt at hr
  rw [hgo] at hr
  exact (Die.settleAll_fixed e d).trans ((Die.Fixed.of hr).trans (.of_regs (Die.forget_regs ..)))

/-! ### The writes of a context -/

theorem ctxPage_fixes (c a : Nat) (named : Bool) : (ctxPage c a named).Fixes := by
  unfold ctxPage
  refine .read fun e => .get fun d => ?_
  exact .ite (.bind (.upd fun e d => .of (Die.fixed_report ..)) fun _ => .throw _) (.pure _)

theorem ctxWrite_fixes (c : Nat) (dev : Bool) (a : Nat) (b : List Byte) (use : Use) (named : Bool) : (ctxWrite c dev a b use named).Fixes :=
  .ite (.bind (ctxPage_fixes _ _ _) fun _ => physWrite_fixes _ _ _) (.upd fun e d => .of (Die.fixed_hostWrite ..))

theorem writeRecord_fixes (c : Cmd) (status result : Nat) (use : Use) : (writeRecord c status result use).Fixes :=
  .get fun _ => .bind (ctxWrite_fixes _ _ _ _ _ _) fun _ => .modify fun d => .of_regs (Die.count_regs d _ _)

theorem tryLose_fixes {a : Act Unit} (ha : a.Fixes) : (tryLose a).Fixes := by
  unfold tryLose
  refine .read fun e => .getAt fun e' d => ?_
  have hset : (set (a.go e d).2 : Act Unit).FixesAt e' d := .set (ha e d)
  dsimp only
  split
  · exact hset
  · exact hset
  · exact .of (.throw _)

theorem tearRecords_fixes (d : Die) (c : Nat) (failed : Option Nat) (status : Nat) : (tearRecords d c failed status).Fixes :=
  .forM fun _ => tryLose_fixes (.ite (writeRecord_fixes _ _ _ _) (.ite (writeRecord_fixes _ _ _ _) (.ite (.pure _) (.ite (writeRecord_fixes _ _ _ _) (.pure _)))))

theorem errorWord_fixes (c status cls : Nat) (secur : Bool) (ring seq : Nat) : (errorWord c status cls secur ring seq).Fixes :=
  .get fun _ => ctxWrite_fixes _ _ _ _ _ _

end Sys2Proof.Machine
end

section
/-! PROOF. A context whose teardown has drained is ABORTED (O24). -/

-- One proof after another: all at once, they ask for more threads than the check's memory limit admits.
set_option Elab.async false

namespace Sys2Proof.Machine

/-! ### What goes to the host port is not lost -/

theorem Die.hpCount_counts (e : Env) (d : Die) (m : Msg) : Within { regs := monRegs, ch := true } d (d.hpCount e m) := by
  have hbytes : ∀ n, Within { regs := monRegs, ch := true } d (d.hostOutCount e n) := fun n =>
    (((Die.count_within d 3826 1).trans (Die.count_within _ 3827 n)).trans (Die.count_within _ 11 n)).trans (Die.monitor_within _ e 4 0 1 n).mono
  unfold Die.hpCount
  split
  · exact hbytes _
  · exact hbytes 0
  · exact Die.count_within d 3828 1
  · exact .refl d

/-- What has gone to the host port: what has left, and what waits to. -/
def Die.hpSent (d : Die) : List Msg := d.out ++ d.bt.outq

theorem Die.mem_hpDrain (e : Env) (fuel : Nat) (d : Die) (m : Msg) (h : m ∈ d.hpSent) : m ∈ (d.hpDrain e fuel).hpSent := by
  induction fuel generalizing d with
  | zero => exact h
  | succ n ih =>
    unfold Die.hpDrain
    split
    · exact h
    · next x t hq =>
      extract_lets u bt d₁
      split
      · exact h
      · refine ih _ ?_
        have hcnt := Die.hpCount_counts e (d₁.send x) x
        unfold Die.hpSent at h ⊢
        rw [hcnt.out, hcnt.bt]
        rw [hq] at h
        change m ∈ (x :: d.out) ++ t
        simp only [List.mem_append, List.mem_cons] at h ⊢
        tauto

theorem Die.mem_hpSend_self (e : Env) (d : Die) (m : Msg) : m ∈ (d.hpSend e m).hpSent :=
  Die.mem_hpDrain e _ _ m (List.mem_append_right _ (List.mem_append_right _ (List.mem_singleton.2 rfl)))

theorem Die.mem_hpSend_of_mem (e : Env) (d : Die) {m x : Msg} (h : x ∈ d.hpSent) : x ∈ (d.hpSend e m).hpSent := by
  refine Die.mem_hpDrain e _ _ x ?_
  unfold Die.hpSent at h ⊢
  exact (List.mem_append.1 h).elim (fun h => List.mem_append_left _ h) fun h => List.mem_append_right _ (List.mem_append_left _ h)

/-! ### The messages of the rings -/

theorem Within.hostId {p : Touch} {d t : Die} (h : Within p d t) (c : Nat) (hc : p.regs.contains .SF_CTX_CFG = false := by rfl)
    (hb : p.regs.contains .SM_SLICE_BIND = false := by rfl) : t.hostId c = d.hostId c := by
  unfold Die.hostId Die.isKernelCtx Die.ctxSlice
  rw [h.bit F.SF_CTX_CFG.KERNEL c hc, h.getF F.SF_CTX_CFG.SLICE c hc, h.bit F.SM_SLICE_BIND.PASID_VALID _ hb, h.getF F.SM_SLICE_BIND.PASID _ hb,
    h.getF F.SM_SLICE_BIND.VF _ hb]

/-- The MSI-X message of a ring. -/
def Die.ringMsg (d : Die) (n : Nat) : Msg := .msix (d.hostId (d.getF F.SF_RING_CTL.CONTEXT n)) (d.getF F.SF_RING_CTL.MSIX_VECTOR n)

theorem Within.ringMsg {p : Touch} {d t : Die} (h : Within p d t) (n : Nat) (hc : p.regs.contains .SF_CTX_CFG = false := by rfl)
    (hb : p.regs.contains .SM_SLICE_BIND = false := by rfl) (hr : p.regs.contains .SF_RING_CTL = false := by rfl) : t.ringMsg n = d.ringMsg n := by
  unfold Die.ringMsg
  rw [h.getF F.SF_RING_CTL.CONTEXT n hr, h.getF F.SF_RING_CTL.MSIX_VECTOR n hr, h.hostId _ hc hb]

theorem Die.ringIrqs_within (e : Env) (l : List Nat) (d : Die) : Within portTouch d (l.foldl (fun d n => d.ringIrq e n) d) :=
  .foldl _ (fun d _ => Die.msix_within e d _ _) l d

theorem Die.mem_ringIrqs_of_mem (e : Env) (l : List Nat) (d : Die) {x : Msg} (h : x ∈ d.hpSent) : x ∈ (l.foldl (fun d n => d.ringIrq e n) d).hpSent := by
  induction l generalizing d with
  | nil => exact h
  | cons n l ih => exact ih _ (Die.mem_hpSend_of_mem e d h)

theorem Die.ringMsg_mem_ringIrqs (e : Env) {l : List Nat} (d : Die) {n : Nat} (hn : n ∈ l) : d.ringMsg n ∈ (l.foldl (fun d n => d.ringIrq e n) d).hpSent := by
  induction l generalizing d with
  | nil => cases hn
  | cons m l ih =>
    rcases List.mem_cons.1 hn with rfl | hn
    · exact Die.mem_ringIrqs_of_mem e l _ (Die.mem_hpSend_self e d _)
    · have hm := (Die.msix_within e d (d.hostId (d.getF F.SF_RING_CTL.CONTEXT m)) (d.getF F.SF_RING_CTL.MSIX_VECTOR m)).ringMsg n
      rw [← hm]
      exact ih _ hn

/-! ### The context is ABORTED -/

/-- What the end of a teardown may change before the messages of its rings. -/
def abortTouch : Touch :=
  { regs := [.SF_STATUS, .SF_SLOT_QUOTA, .CH_WATCH, .SF_CTX_STATUS], sf := true, sm := true, stu := true, coh := true, mem := true, bt := true, we := true, ch := true }

theorem Die.closeWatches_within (d : Die) (c : Nat) : Within { regs := [.CH_WATCH], ch := true } d (d.closeWatches c) := by
  unfold Die.closeWatches
  refine (Die.setCh_within d _).trans (.foldl _ (fun d w => ?_) _ _)
  split
  · exact (Die.setF_within d F.CH_WATCH.OPEN w 0).trans (Die.setCh_within _ _)
  · exact .refl d

/-- The state of the die in which a context has been aborted, before the messages of its rings. -/
def Die.abortedCtx (d d' : Die) (c : Nat) : Die :=
  let u := (d.ctxCmds c).foldl Die.dropCmd d'
  ({ u with sf.tears := u.sf.tears.filter (fun t => decide (t.ctx ≠ c)),
            sm.fences := u.sm.fences.filter (fun f => decide (f.ctx ≠ c)) }.closeWatches c).setCtxState c 5

theorem Die.abortedCtx_within (d d' : Die) (c : Nat) : Within abortTouch d' (d.abortedCtx d' c) := by
  unfold Die.abortedCtx
  extract_lets u
  have hu : Within abortTouch d' u := .foldl _ (fun d x => (Die.dropCmd_within d x).mono) _ _
  clear_value u
  have hv : Within abortTouch u { u with sf.tears := u.sf.tears.filter (fun t => decide (t.ctx ≠ c)), sm.fences := u.sm.fences.filter (fun f => decide (f.ctx ≠ c)) } :=
    (Die.setSf_within u _).trans (Die.setSm_within { u with sf.tears := u.sf.tears.filter (fun t => decide (t.ctx ≠ c)) } _)
  exact ((hu.trans hv).trans (Die.closeWatches_within _ c).mono).trans (Die.setCtxState_within _ c 5)

theorem Die.abortedCtx_state (d d' : Die) (c : Nat) : (d.abortedCtx d' c).ctxState c = 5 := Die.getF_setF_same _ F.SF_CTX_STATUS.STATE c 5 (by decide)

theorem Die.abortedCtx_tearing (d d' : Die) (c : Nat) : (d.abortedCtx d' c).tearing c = false := by
  unfold Die.abortedCtx Die.tearing Die.setCtxState
  extract_lets u
  rw [Die.setF_sf, (Die.closeWatches_within _ c).sf]
  simp

/-- The rings whose messages go out: the ring of the command that failed comes first. -/
def abortOrder (first : Option Nat) (rings : List Nat) : List Nat :=
  match first with
  | some n => n :: rings.filter (fun m => decide (m ≠ n))
  | none => rings

theorem mem_abortOrder {first : Option Nat} {rings : List Nat} {n : Nat} (h : n ∈ rings) : n ∈ abortOrder first rings := by
  unfold abortOrder
  split
  · next m =>
    by_cases hm : n = m
    · exact hm ▸ List.mem_cons_self
    · exact List.mem_cons_of_mem _ (List.mem_filter.2 ⟨h, by simpa using hm⟩)
  · exact h

/-- Where the records and the error word have been dealt with, the context is aborted and the messages of its rings go out. -/
theorem Die.abortCtx_ok {e : Env} {d d' : Die} {c status cls : Nat} {named : Nat × Nat} {secur : Bool} {records : Act Unit} (first : Option Nat)
    (h : attempt e d (.ctx c) (do records; tryLose (errorWord c status cls secur named.1 named.2)) = .ok () d') :
    d.abortCtx e c status cls named secur first records =
      some ((abortOrder first (d.workRings c)).foldl (fun d n => d.ringIrq e n) (d.abortedCtx d' c)) := by
  unfold Die.abortCtx
  dsimp only
  rw [h] <;> rfl

/-- The context of a ring that had work is the one that ends. -/
theorem Die.workRings_context {d : Die} {c n : Nat} (h : n ∈ d.workRings c) : d.getF F.SF_RING_CTL.CONTEXT n = c := by
  have hn := (List.mem_filter.1 (List.mem_of_mem_filter h)).2
  rw [Bool.and_eq_true, decide_eq_true_iff] at hn
  exact hn.2

theorem Die.Fixed.getF {d t : Die} (h : d.Fixed t) (f : Fld) (i : Nat) (hf : f.reg = .SF_RING_CTL) : t.getF f i = d.getF f i := by
  unfold Die.getF Die.reg
  rw [hf, (Prod.mk.inj h).1]

theorem Die.aborted_spec {e : Env} {d d' : Die} {c : Nat} (first : Option Nat) (h : d.Fixed d') :
    ((abortOrder first (d.workRings c)).foldl (fun d n => d.ringIrq e n) (d.abortedCtx d' c)).ctxState c = 5 ∧
    ((abortOrder first (d.workRings c)).foldl (fun d n => d.ringIrq e n) (d.abortedCtx d' c)).tearing c = false ∧
    ∀ n ∈ d.workRings c, Msg.msix (d'.hostId c) (d'.getF F.SF_RING_CTL.MSIX_VECTOR n) ∈
      ((abortOrder first (d.workRings c)).foldl (fun d n => d.ringIrq e n) (d.abortedCtx d' c)).hpSent := by
  have hirq := Die.ringIrqs_within e (abortOrder first (d.workRings c)) (d.abortedCtx d' c)
  refine ⟨(hirq.getF F.SF_CTX_STATUS.STATE c).trans (Die.abortedCtx_state d d' c), ?_, fun n hn => ?_⟩
  · exact (congrArg (fun x : Shop => x.tears.any fun t => decide (t.ctx = c)) hirq.sf).trans (Die.abortedCtx_tearing d d' c)
  · have hmsg := Die.ringMsg_mem_ringIrqs e (d.abortedCtx d' c) (mem_abortOrder (first := first) hn)
    rw [(Die.abortedCtx_within d d' c).ringMsg n] at hmsg
    unfold Die.ringMsg at hmsg
    rwa [h.getF F.SF_RING_CTL.CONTEXT n rfl, Die.workRings_context hn] at hmsg

/-- Settles O24: what is done for the records and the error word leaves the words of the rings, so that the rings that had work still name the context whose
messages go out; nothing that has gone to the host port is lost. -/
theorem drainedTeardownAbortsTheContext : Obligations.DrainedTeardownAbortsTheContext := by
  unfold Obligations.DrainedTeardownAbortsTheContext
  intro s c t0 ht
  have hexec : ∀ u : Die, (if !(s.d.ctxIdle c.toNat) then s.d else
        (s.d.abortCtx s.env c.toNat t0.status 1 (((t0.failed.bind s.d.cmd).map (fun x => (x.ring, x.seq))).getD (t0.named.getD (0, 0))) t0.secur
          (((t0.failed.bind s.d.cmd).map (fun x => x.ring)).or (t0.named.map Prod.fst)) (tearRecords s.d c.toNat t0.failed t0.status)).getD s.d) = u →
      exec (.teardownDrained c) s = .next { s with d := u } := by
    rintro u rfl
    change execTeardownDrained c s = _
    unfold execTeardownDrained
    dsimp only
    rw [ht] <;> rfl
  refine ⟨fun hidle => hexec s.d (by rw [hidle]; rfl), fun d hidle hd => ?_⟩
  have hfix : s.d.Fixed d := attempt_fixed (.bind (tearRecords_fixes _ _ _ _) fun _ => tryLose_fixes (errorWord_fixes _ _ _ _ _ _)) hd
  obtain ⟨hstate, htear, hmsgs⟩ := Die.aborted_spec (e := s.env) (c := c.toNat) (((t0.failed.bind s.d.cmd).map (fun x => x.ring)).or (t0.named.map Prod.fst)) hfix
  refine ⟨_, hexec _ ?_, hstate, htear, hmsgs, rfl⟩
  rw [hidle, Die.abortCtx_ok _ hd] <;> rfl

end Sys2Proof.Machine
end

section
/-! PROOF. Die time goes on (O2): what passes at a tick edge leaves the counts of ST_TICK as they are. -/

-- One proof after another: all at once, they ask for more threads than the check's memory limit admits.
set_option Elab.async false

namespace Sys2Proof.Machine

/-! ### Requests that fail and ports that fall -/

theorem Within.fixedDie {p : Touch} {d t : Die} (h : Within p d t) (hp : p.regs.all Reg.loose = true := by rfl) : d.Fixed t := h.fixed hp

theorem Die.setF_fixed (d : Die) (f : Fld) (i v : Nat) (h : f.reg.loose = true := by rfl) : d.Fixed (d.setF f i v) := .of (Die.fixed_setF d f i v h)

theorem Die.incSat_fixed (d : Die) (f : Fld) (i n : Nat) (h : f.reg.loose = true := by rfl) : d.Fixed (d.incSat f i n) := .of (Die.fixed_incSat d f i n h)

theorem Die.report_fixed (e : Env) (d : Die) (r : Report) : d.Fixed (d.report e r) := .of (Die.fixed_report e d r)

theorem Die.werr_fixed (d : Die) (c cause die win : Nat) : d.Fixed (d.werr c cause die win) := by
  unfold Die.werr
  split
  · exact .rfl
  · exact .of (by rw [Die.fixed_setF _ _ _ _ rfl, Die.fixed_setF _ _ _ _ rfl, Die.fixed_setF _ _ _ _ rfl])

theorem Die.teardown_fixed (e : Env) (d : Die) (c status : Nat) (failed : Option Nat) (named : Option (Nat × Nat)) (secur : Bool) :
    d.Fixed (d.teardown e c status failed named secur) := (Die.teardown_within e d c status failed named secur).fixedDie

theorem Die.cmdFail_fixed (e : Env) (d : Die) (c : Cmd) (status : Nat) (secur : Bool) : d.Fixed (d.cmdFail e c status secur) :=
  (Die.cmdFail_within e d c status secur).fixedDie

theorem Die.reqFail_fixed (e : Env) (d : Die) (q : Req) (status : Nat) (secur : Bool) : d.Fixed (d.reqFail e q status secur) := by
  unfold Die.reqFail
  extract_lets d₁
  have h₁ : d.Fixed d₁ := (Die.endReq_within d q _).fixedDie
  clear_value d₁
  refine h₁.trans ?_
  split
  · split
    · exact .rfl
    · split
      · exact Die.cmdFail_fixed ..
      · exact Die.teardown_fixed ..
  · exact .rfl

theorem Die.winEnds_fixed (e : Env) (d : Die) (q : WinReq) (status : Nat) : d.Fixed (d.winEnds e q status) := by
  unfold Die.winEnds
  split
  · split
    · exact Die.reqFail_fixed ..
    · exact Die.teardown_fixed ..
  · split
    · exact Die.cmdFail_fixed ..
    · exact Die.teardown_fixed ..
  · exact Die.teardown_fixed ..

theorem Die.winFail_fixed (e : Env) (d : Die) (q : WinReq) (cause : Nat) : d.Fixed (d.winFail e q cause) :=
  (Die.werr_fixed d q.ctx cause q.die q.win).trans (Die.winEnds_fixed e _ q St.WINDOW)

theorem Die.rdat_fixed (e : Env) (d : Die) (q : Req) (kind st : Nat) (x : Line) : d.Fixed (d.rdat e q kind st x) := by
  unfold Die.rdat
  dsimp only
  split
  · exact .of_regs rfl
  · exact .of ((Die.fixed_send _ _).trans ((Die.fixed_monitor ..).trans (by rw [Die.count_regs, Die.count_regs] <;> rfl)))

theorem hostRead_fixes (use : Use) (who : Who) (a n : Nat) : (hostRead use who a n).Fixes := by
  unfold hostRead
  exact .get fun d => .bind (.need _ _) fun _ => .ite (.pure _) (.throw _)

theorem winLocal_fixes (ctx die win : Nat) (needSeal : Bool) : (winLocal ctx die win needSeal).Fixes := by
  unfold winLocal
  refine .read fun e => .get fun d => ?_
  extract_lets route
  have hroute : ∀ y, (route y).Fixes := fun y => .ite (.bind (.modify fun d => Die.werr_fixed ..) fun _ => .throw _) (.pure _)
  clear_value route
  exact .ite (.bind (.modify fun d => Die.werr_fixed ..) fun _ => .bind (.throw _) fun _ => hroute ()) (hroute ())

theorem winFetch_fixes (q : WinReq) : (winFetch q).Fixes := by
  unfold winFetch
  refine .get fun d => ?_
  split
  · exact .pure _
  · exact .bind (winLocal_fixes _ _ _ _) fun _ => .throw _

theorem farRead_fixes (q : Req) : (farRead q).Fixes := by
  unfold farRead
  refine .get fun d => ?_
  dsimp only
  split
  · exact hostRead_fixes _ _ _ _
  · exact .ite (winFetch_fixes _) (winFetch_fixes _)
  · exact .throw _

/-- The die that an attempt leaves. -/
def Tried.die {α : Type} : Tried α → Die
  | .ok _ d => d
  | .wait d => d
  | .stop _ _ d => d
  | .fault _ d => d

theorem attempt_die_fixed {α : Type} (e : Env) (d : Die) (use : Use) {a : Act α} (ha : a.Fixes) : d.Fixed (attempt e d use a).die := by
  unfold attempt
  extract_lets d₁ r d₂ st kept
  have h₁ : d.Fixed d₁ := Die.settleAll_fixed e d
  have h₂ : d.Fixed d₂ := h₁.trans (ha e d₁)
  have hkept : d.Fixed kept := h₁.trans (.of_regs rfl)
  clear_value kept d₂
  split
  · exact hkept
  · split
    · exact h₂.trans (.of_regs (Die.forget_regs ..))
    · exact hkept.trans (Die.issue_fixed ..)
    · exact hkept
    · exact h₂.trans (.of_regs (Die.forget_regs ..))
    · exact h₂.trans (.of_regs (Die.forget_regs ..))

theorem Die.farGo_fixed (e : Env) (d : Die) (rid : Nat) : d.Fixed (d.farGo e rid) := by
  unfold Die.farGo
  split
  · exact .rfl
  · next q _ =>
    split
    · exact .rfl
    · split
      · split
        · exact .rfl
        · exact (Die.endReq_within d q _).fixedDie
      · have h := attempt_die_fixed e d (.req rid) (farRead_fixes q)
        split
        · next heq =>
          rw [heq] at h
          exact Die.Fixed.trans h (Die.rdat_fixed ..)
        · next heq =>
          rw [heq] at h
          exact h
        · next heq =>
          rw [heq] at h
          exact Die.Fixed.trans h (Die.reqFail_fixed ..)
        · next heq =>
          rw [heq] at h
          exact h

theorem Die.winGo_fixed (e : Env) (d : Die) (use : Use) : d.Fixed (d.winGo e use) := by
  unfold Die.winGo
  refine Die.Fixed.trans (.of (Die.fixed_winPump e d)) ?_
  split
  · exact Die.farGo_fixed ..
  · exact .rfl

theorem Die.trkEnd_fixed (e : Env) (d : Die) (t : Trk) {f : Die → Die} (hf : ∀ d, Die.Fixed d (f d)) : d.Fixed (d.trkEnd e t f) := by
  unfold Die.trkEnd
  dsimp only
  refine Die.Fixed.trans ?_ (Die.winGo_fixed ..)
  split
  · exact .of_regs rfl
  · exact (Die.Fixed.of_regs rfl).trans (hf _)

theorem Die.routeGone_fixed (e : Env) (d : Die) : d.Fixed (d.routeGone e) := by
  refine foldl_fixedDie (fun d q => ?_) _ d
  split
  · exact (Die.Fixed.of_regs rfl).trans (Die.winFail_fixed ..)
  · exact .rfl

theorem Die.kexOver_fixed (d : Die) : d.Fixed d.kexOver := d.kexOver_spec.1.fixedDie

theorem Die.portDown_fixed (e : Env) (d : Die) (p : Nat) : d.Fixed (d.portDown e p) := by
  unfold Die.portDown
  extract_lets d₁ d₂ a b c d₃ d₄
  have h₁ : d.Fixed d₁ := ((Die.setF_fixed d F.WE_PORT_STATUS.UP p 0).trans (Die.incSat_fixed _ F.WE_PORT_STATUS.DOWN_COUNT p 1)).trans (Die.report_fixed e _ _)
  clear_value d₁
  have h₂ : d₁.Fixed d₂ := by
    dsimp only [d₂]
    split
    · exact Die.kexOver_fixed d₁
    · exact .rfl
  clear_value d₂
  have ha : d₂.Fixed a := .of (Die.fixed_setF d₂ F.SE_LINK.STATE p 0 rfl)
  clear_value a
  have h₃ : d₂.Fixed d₃ := ha.trans (.of_regs rfl)
  clear_value d₃
  have h₄ : d₃.Fixed d₄ := by
    refine foldl_fixedDie (fun d t => ?_) _ d₃
    split
    · exact Die.trkEnd_fixed e d _ fun d => Die.winFail_fixed ..
    · exact .rfl
  exact (((h₁.trans h₂).trans h₃).trans h₄).trans (Die.routeGone_fixed e d₄)

/-! ### The parts of a tick edge -/

theorem Die.tickAssay_fixed (d : Die) : d.Fixed d.tickAssay := by
  unfold Die.tickAssay
  extract_lets d₁ d₂
  have h₁ : d.Fixed d₁ := by
    dsimp only [d₁]
    split
    · exact .rfl
    · exact Die.setF_fixed ..
  have h₂ : d₁.Fixed d₂ := by
    dsimp only [d₂]
    split
    · exact Die.incSat_fixed ..
    · exact .rfl
  refine (h₁.trans h₂).trans ?_
  split <;> exact .of_regs rfl

theorem Die.tickInject_fixed (e : Env) (d : Die) : d.Fixed (d.tickInject e) := by
  unfold Die.tickInject
  split
  · exact .rfl
  · dsimp only
    refine Die.Fixed.trans (.of (Die.fixed_fired d)) ?_
    split
    · exact (Die.portDown_fixed ..).trans (.of_regs (Die.markInj_regs ..))
    · exact .of ((congrArg fixedOf (Die.markInj_regs ..)).trans (Die.fixed_report ..))

theorem Die.tickLatch_fixed (e : Env) (d : Die) : d.Fixed (d.tickLatch e) := by
  have h : d.Fixed d.latch.2 := .of (Die.fixed_incWrap _ _ _ _ rfl)
  unfold Die.tickLatch
  generalize d.latch = x at h
  exact h.trans (.of ((Die.fixed_setF _ F.CH_SWEEP.BUSY 0 1 rfl).trans rfl))

theorem Die.tickIdle_fixed (e : Env) (d : Die) (r : Nat) : d.Fixed (d.tickIdle e r) := by
  unfold Die.tickIdle
  dsimp only
  split <;> exact .of_regs rfl

theorem Die.tickCap_fixed (d : Die) (block lim n : Nat) : d.Fixed (d.tickCap block lim n) := by
  unfold Die.tickCap
  extract_lets est rl cap d₁ own all below p d₂ x d₃ d₄ d₅
  have h₁ : d.Fixed d₁ := by
    dsimp only [d₁]
    split
    · exact Die.incSat_fixed ..
    · exact .rfl
  have h₂ : d₁.Fixed d₂ := by
    dsimp only [d₂]
    split
    · exact Die.setF_fixed ..
    · exact .rfl
  have h₃ : d₂.Fixed d₄ := (Die.Fixed.of_regs rfl).trans (Die.setF_fixed (d₂.setPower n d₃) F.ST_PWR_DOM.CAP n x.1)
  have h₄ : d₄.Fixed d₅ := Die.setF_fixed d₄ F.ST_PWR_DOM.CAPPED n _
  refine ((h₁.trans h₂).trans h₃).trans (h₄.trans ?_)
  split
  · exact Die.setF_fixed ..
  · exact .rfl

theorem Die.tickPower_fixed (e : Env) (d : Die) : d.Fixed (d.tickPower e) := by
  unfold Die.tickPower
  extract_lets doms block lim d₁ d₂
  have h₁ : d.Fixed d₁ := foldl_fixedDie (fun d n => Die.setF_fixed d F.ST_PWR_DOM.EST n _) _ d
  have h₂ : d₁.Fixed d₂ := (Die.setF_fixed d₁ F.ST_PWR_TOTAL.EST 0 _).trans (Die.setF_fixed _ F.ST_PWR_TOTAL.OVER 0 _)
  exact ((h₁.trans h₂).trans (foldl_fixedDie (fun d n => Die.tickCap_fixed d _ _ n) doms d₂)).trans (.of_regs rfl)

theorem Die.setLent_fixed (d : Die) (k : Nat) (v : Bool) : d.Fixed (d.setLent k v) := by
  unfold Die.setLent
  split
  · exact .rfl
  · dsimp only
    split
    · exact (Die.setF_fixed d F.TY_CLUSTER.LENT k _).trans (Die.setF_fixed _ F.TY_SLICE_STAT.LENT _ _)
    · exact Die.setF_fixed ..

theorem Die.recall_fixed (e : Env) (d : Die) (k : Nat) (for_ : Option Nat) : d.Fixed (d.recall_ e k for_) := by
  have hcount : d.Fixed (d.incSat F.TY_STATUS.RECALLS 0 1) := Die.incSat_fixed ..
  unfold Die.recall_
  split
  · exact .rfl
  · split
    · refine Die.Fixed.trans (hcount.trans ?_) (Die.setLent_fixed ..)
      generalize d.incSat F.TY_STATUS.RECALLS 0 1 = u
      exact .of_regs rfl
    · extract_lets d₁
      have h₁ : d.Fixed d₁ := by
        dsimp only [d₁]
        split
        · exact .rfl
        · exact hcount
      clear_value d₁
      exact (h₁.trans (.of_regs rfl)).trans (Die.postYield_within ..).fixedDie

theorem Die.tickShares_fixed (e : Env) (d : Die) : d.Fixed (d.tickShares e) := by
  unfold Die.tickShares
  extract_lets d₁ d₂ was ty d₃
  have h₁ : d.Fixed d₁ := foldl_fixedDie (fun d s => Die.setF_fixed d F.TY_SHARE.EFFECTIVE s _) _ d
  have h₂ : d₁.Fixed d₂ := foldl_fixedDie (fun d c => Die.setF_fixed d F.TY_CTX_SHARE.EFFECTIVE c _) _ d₁
  have h₃ : d.Fixed d₃ := (h₁.trans h₂).trans (.of_regs rfl)
  split
  · exact h₃.trans (foldl_fixedDie (fun d k => Die.recall_fixed e d k none) _ d₃)
  · exact h₃

theorem Die.tickTemps_fixed (e : Env) (d : Die) : d.Fixed (d.tickTemps e) := by
  refine foldl_fixedDie (fun d n => ?_) _ d
  split <;> exact .of_regs rfl

/-! ### The counts of ST_TICK -/

theorem Die.Fixed.tick {d t : Die} (h : d.Fixed t) (f : Fld) (i : Nat) (hf : f.reg = .ST_TICK) : t.getF f i = d.getF f i := by
  unfold Die.getF Die.reg
  rw [hf, (Prod.mk.inj h).2]

/-- The counts of a tick edge, before the work that it does. -/
def Die.tickCounts (d : Die) (late : Bool) : Die :=
  let d := d.incWrap F.ST_TICK.TICK_COUNT 0 1
  if late then (d.incSat F.ST_TICK.OVERRUN_COUNT 0 1).count 15 1 else d

theorem Die.tickCounts_tick (d : Die) (late : Bool) :
    (d.tickCounts late).getF F.ST_TICK.TICK_COUNT 0 = (d.getF F.ST_TICK.TICK_COUNT 0 + 1) % 2 ^ F.ST_TICK.TICK_COUNT.width := by
  have hcount := Die.getF_setF_same d F.ST_TICK.TICK_COUNT 0 (d.getF F.ST_TICK.TICK_COUNT 0 + 1) (by decide)
  unfold Die.tickCounts Die.incWrap
  dsimp only
  split
  · rw [Die.getF_count]
    exact (Die.getF_setF_ne _ _ _ _ _ _ (by decide) (by decide)).trans hcount
  · exact hcount

theorem Die.tickCounts_overrun (d : Die) (late : Bool) :
    (d.tickCounts late).getF F.ST_TICK.OVERRUN_COUNT 0 =
      if late then min (d.getF F.ST_TICK.OVERRUN_COUNT 0 + 1) (2 ^ F.ST_TICK.OVERRUN_COUNT.width - 1) else d.getF F.ST_TICK.OVERRUN_COUNT 0 := by
  have hsame : (d.incWrap F.ST_TICK.TICK_COUNT 0 1).getF F.ST_TICK.OVERRUN_COUNT 0 = d.getF F.ST_TICK.OVERRUN_COUNT 0 :=
    Die.getF_setF_ne d F.ST_TICK.TICK_COUNT F.ST_TICK.OVERRUN_COUNT 0 0 _ (by decide) (by decide)
  unfold Die.tickCounts
  dsimp only
  split
  · rw [Die.getF_count, Die.getF_incSat_same _ _ _ _ (by decide), hsame]
  · exact hsame

theorem Die.tickEdge_fixed (e : Env) (d : Die) (late : Bool) : (d.tickCounts late).Fixed (d.tickEdge e late) := by
  unfold Die.tickEdge Die.tickCounts
  extract_lets a d₁ d₂ d₃ d₄ d₅ d₆ k stu d₇ we se
  change d₁.Fixed _
  clear_value d₁
  have h₂ : d₁.Fixed d₂ := ((Die.tickAssay_fixed d₁).trans (Die.tickInject_fixed e _)).trans (Die.tickLatch_fixed e _)
  clear_value d₂
  have h₃ : d₂.Fixed d₃ := foldl_fixedDie (fun d r => Die.tickIdle_fixed e d r) _ d₂
  clear_value d₃
  have h₄ : d₃.Fixed d₄ := (Die.tickPower_fixed e d₃).trans (Die.tickShares_fixed e _)
  clear_value d₄
  have h₅ : d₄.Fixed d₅ := foldl_fixedDie (fun d n => (Die.monitorRing_within e d n).fixedDie) _ d₄
  clear_value d₅
  have h₆ : d₅.Fixed d₆ := Die.tickTemps_fixed e d₅
  clear_value d₆
  have h₇ : d₆.Fixed d₇ := by
    dsimp only [d₇]
    split
    · exact .of_regs rfl
    · exact .rfl
  clear_value d₇
  exact ((h₂.trans h₃).trans (h₄.trans h₅)).trans ((h₆.trans h₇).trans (.of_regs rfl))

end Sys2Proof.Machine
end

section
/-! PROOF. Periods of the reference and ticks advance die time (O2). -/

-- One proof after another: all at once, they ask for more threads than the check's memory limit admits.
set_option Elab.async false

namespace Sys2Proof.Machine

/-! ### What is charged by time -/

/-- What the passing of die time may charge. -/
def elapseTouch : Touch := { regs := [.TY_LEDGER_CLUSTER, .TY_LEDGER_ENGINE, .SO_BUSY], sf := true, ty := true, ch := true }

theorem Die.chargeEngine_within (d : Die) (ctx ns : Nat) : Within elapseTouch d (d.chargeEngine ctx ns) := by
  unfold Die.chargeEngine
  dsimp only
  have h : Within elapseTouch d ((d.incWrap F.TY_LEDGER_ENGINE.ENGINE_NS ctx ns).count 1 ns) := (Die.incWrap_within d _ ctx ns).trans (Die.count_within _ 1 ns)
  split
  · exact h.trans (Die.count_within _ _ ns)
  · exact h

theorem Die.chargeCluster_within (d : Die) (k ns : Nat) : Within elapseTouch d (d.chargeCluster k ns) := by
  unfold Die.chargeCluster
  extract_lets c d₁ d₂ ty d₃
  have h₁ : Within elapseTouch d d₁ := ((Die.incWrap_within d _ c ns).trans (Die.count_within _ 0 ns)).trans (Die.count_within _ _ ns)
  clear_value d₁
  have h₂ : Within elapseTouch d₁ d₂ := by
    dsimp only [d₂]
    split
    · next sl _ =>
      have hcount : Within elapseTouch d₁ (d₁.count (4096 + 4 * sl) ns) := Die.count_within d₁ _ ns
      split
      · exact hcount
      · exact hcount.trans (Die.setTy_within _ _)
    · exact .refl d₁
  clear_value d₂
  have h₃ : Within elapseTouch d₂ d₃ := Die.setTy_within d₂ _
  refine ((h₁.trans h₂).trans h₃).trans ?_
  clear_value d₃
  split
  · exact Die.setCmd_within d₃ _
  · exact .refl d₃

theorem Die.elapse_within (e : Env) (d : Die) (ns : Nat) : Within elapseTouch d (d.elapse e ns) := by
  have hworks : ∀ (l : List Nat) (d : Die), Within elapseTouch d (l.foldl (fun d c => d.chargeEngine c ns) d) := .foldl _ fun d c => Die.chargeEngine_within d c ns
  unfold Die.elapse
  extract_lets d₁ dmes d₂ d₃
  have h₁ : Within elapseTouch d d₁ := .foldl _ (fun d k => Die.chargeCluster_within d k ns) _ d
  have h₂ : Within elapseTouch d₁ d₂ := .foldl _ (fun d n => hworks _ d) _ d₁
  have h₃ : Within elapseTouch d₂ d₃ := by
    refine .foldl _ (fun d n => ?_) _ d₂
    split
    · exact .refl d
    · exact ((hworks _ d).trans (Die.incWrap_within _ _ n ns)).trans (Die.count_within _ 13 ns)
  exact ((h₁.trans h₂).trans h₃).trans (Die.count_within _ 14 _)

/-- Where nothing waits for a bucket, nothing goes on before the edge. -/
theorem Die.later_elapse {e e' : Env} {d : Die} {ns : Nat} (hq : d.we.queue = []) (hw : d.mem.waits = []) (hm : d.mem.queue = []) :
    d.Fixed ((d.elapse e ns).later e') := by
  have h := Die.elapse_within e d ns
  have hwe := h.we
  have hmem := h.mem
  have hfix := h.fixedDie
  generalize d.elapse e ns = u at hwe hmem hfix ⊢
  unfold Die.later
  dsimp only
  rw [hwe, hmem, if_pos ⟨hq, hw, hm⟩]
  exact hfix.trans (.of_regs rfl)

/-! ### A pass of the reference -/

theorem Die.tickEdge_count (e : Env) (d : Die) (late : Bool) :
    (d.tickEdge e late).getF F.ST_TICK.TICK_COUNT 0 = (d.getF F.ST_TICK.TICK_COUNT 0 + 1) % 2 ^ F.ST_TICK.TICK_COUNT.width :=
  ((Die.tickEdge_fixed e d late).tick F.ST_TICK.TICK_COUNT 0 rfl).trans (Die.tickCounts_tick d late)

theorem Die.tickEdge_overrun (e : Env) (d : Die) (late : Bool) :
    (d.tickEdge e late).getF F.ST_TICK.OVERRUN_COUNT 0 =
      if late then min (d.getF F.ST_TICK.OVERRUN_COUNT 0 + 1) (2 ^ F.ST_TICK.OVERRUN_COUNT.width - 1) else d.getF F.ST_TICK.OVERRUN_COUNT 0 :=
  ((Die.tickEdge_fixed e d late).tick F.ST_TICK.OVERRUN_COUNT 0 rfl).trans (Die.tickCounts_overrun d late)

theorem State.pass_pending (s : State) (n : Nat) (late : Bool) : (s.pass n late).pending = s.pending := by
  unfold State.pass
  dsimp only
  split
  · rfl
  · split <;> rfl

theorem State.pass_off {s : State} (hoff : s.d.bt.pwrGood = false) (n : Nat) (late : Bool) : s.pass n late = s := by
  unfold State.pass
  rw [hoff] <;> rfl

/-- The clocks after a pass: the phase starts again at the tick edge. -/
theorem State.pass_env {s : State} (hon : s.d.bt.pwrGood = true) (n : Nat) (late : Bool) :
    (s.pass n late).env = { s.env.periods n with phase := if s.env.phase + n < 12500 then s.env.phase + n else 0 } := by
  have hphase : (s.env.periods n).phase = s.env.phase + n := rfl
  unfold State.pass
  rw [hon]
  generalize s.env.periods n = e at hphase ⊢
  dsimp only
  rw [← hphase]
  split
  · contradiction
  · split <;> rfl

/-- A pass that reaches the tick edge does its work. -/
theorem State.pass_edge {s : State} (hon : s.d.bt.pwrGood = true) {n : Nat} (late : Bool) (hn : ¬ s.env.phase + n < 12500) :
    (s.pass n late).d = ((s.d.elapse (s.env.periods n) ((s.env.periods n).now - s.env.now)).later (s.env.periods n)).tickEdge { s.env.periods n with phase := 0 } late := by
  have hphase : (s.env.periods n).phase = s.env.phase + n := rfl
  unfold State.pass
  rw [hon]
  generalize s.env.periods n = e at hphase ⊢
  dsimp only
  rw [← hphase] at hn
  rw [if_neg (by decide : ¬ (!true) = true), if_neg hn]

/-- The clocks before the work of the tick edge differ from those after it in the phase alone. -/
theorem Env.periods_eq (e : Env) {n m : Nat} (h : e.phase + n = m) : e.periods n = { ({ e.periods n with phase := 0 } : Env) with phase := m } := by
  subst h
  rfl

/-- A tick runs the reference to the tick edge. -/
theorem State.pass_tick {s : State} (hon : s.d.bt.pwrGood = true) {n : Nat} (hn : s.env.phase + n = 12500) (late : Bool) :
    (s.pass n late).env = { s.env.periods n with phase := 0 } ∧
    (s.pass n late).d = ((s.d.elapse { (s.pass n late).env with phase := 12500 } ((s.pass n late).env.now - s.env.now)).later
      { (s.pass n late).env with phase := 12500 }).tickEdge (s.pass n late).env late := by
  have hedge : ¬ s.env.phase + n < 12500 := by omega
  have henv : (s.pass n late).env = { s.env.periods n with phase := 0 } := by
    rw [State.pass_env hon, if_neg hedge]
  have hd := State.pass_edge hon late hedge
  refine ⟨henv, ?_⟩
  rw [hd, henv, ← Env.periods_eq s.env hn] <;> rfl

/-- Settles O2: the clocks are those after the periods of the pass; of the work of a tick edge, nothing but its counts changes ST_TICK. -/
theorem periodsAndTicksAdvanceDieTime : Obligations.PeriodsAndTicksAdvanceDieTime := by
  unfold Obligations.PeriodsAndTicksAdvanceDieTime
  refine ⟨fun s hp hoff => ?_, fun s hp hon => ⟨s.idle, ?_, (s.pass_pending 1 false).trans hp, State.pass_env hon 1 false⟩, fun s b hon hphase => ?_,
    fun e d b => ⟨Die.tickEdge_count e d b, Die.tickEdge_overrun e d b⟩⟩
  · unfold step
    rw [hp]
    exact congrArg Host.Outcome.next (State.pass_off hoff 1 false)
  · unfold step
    rw [hp]
  · obtain ⟨henv, hd⟩ := State.pass_tick (n := 12500 - s.env.phase) hon (by omega) b
    refine ⟨s.pass (12500 - s.env.phase) b, rfl, s.pass_pending _ b, henv, hd, fun hq hw hm => ?_⟩
    rw [hd, Die.tickEdge_count]
    exact congrArg (fun n => (n + 1) % 2 ^ F.ST_TICK.TICK_COUNT.width) ((Die.later_elapse hq hw hm).tick F.ST_TICK.TICK_COUNT 0 rfl)

end Sys2Proof.Machine
end
